-- ==== Sys2Proof/Word.lean ====
section
/-! DEFINITION. The widths of the machine's words (00_scope.md R3, R4) and nothing else. -/

namespace Sys2Proof

/-- A byte of memory. -/
abbrev Byte := BitVec 8

/-- A 32-bit scalar instruction word (13_encodings.md R239), or an FP32 element. -/
abbrev W32 := BitVec 32

/-- A 64-bit register, memory word, command-word part or fabric word (00_scope.md R4). -/
abbrev W64 := BitVec 64

/-- A scalar register number (13_encodings.md R239). -/
abbrev Reg := BitVec 5

/-- A command word: the four 64-bit words W0 to W3 (13_encodings.md R254). -/
structure Cmd where
  w0 : W64
  w1 : W64
  w2 : W64
  w3 : W64
  deriving DecidableEq, Repr

end Sys2Proof
end

