-- ==== Sys2Proof/Syntax.lean ====
section
/-! DEFINITION. The instructions of the Uluphor W8: one constructor for each row of opcode_table.json.
Scalar rows carry the fields of their 32-bit word (13_encodings.md R239), command rows the 256-bit command
word (R254), fabric rows their configuration word (08_fabric.md R159, R164), and event rows name what the
event is about: a core name, a quad, a field, a queue, a controller, a link, a sheaf and a node. -/

namespace Sys2Proof

/-- The instructions and machine events of the opcode table. -/
inductive Instr where
  /-- ADD (R308). -/
  | add (d a b : Reg) (wa wb : Bool)
  /-- ADDI (R308). -/
  | addi (d a : Reg) (wa : Bool) (imm : BitVec 15)
  /-- SUB (R361). -/
  | sub (d a b : Reg) (wa wb : Bool)
  /-- AND (R313). -/
  | and (d a b : Reg) (wa wb : Bool)
  /-- ANDI (R313). -/
  | andi (d a : Reg) (wa : Bool) (imm : BitVec 15)
  /-- OR (R361). -/
  | or (d a b : Reg) (wa wb : Bool)
  /-- ORI (R361). -/
  | ori (d a : Reg) (wa : Bool) (imm : BitVec 15)
  /-- XOR (R413). -/
  | xor (d a b : Reg) (wa wb : Bool)
  /-- XORI (R413). -/
  | xori (d a : Reg) (wa : Bool) (imm : BitVec 15)
  /-- SHL (R361). -/
  | shl (d a b : Reg) (wa wb : Bool)
  /-- SHLI (R361). -/
  | shli (d a : Reg) (wa : Bool) (imm : BitVec 6)
  /-- SHR (R361). -/
  | shr (d a b : Reg) (wa wb : Bool)
  /-- SHRI (R361). -/
  | shri (d a : Reg) (wa : Bool) (imm : BitVec 6)
  /-- SRA (R361). -/
  | sra (d a b : Reg) (wa wb : Bool)
  /-- SRAI (R361). -/
  | srai (d a : Reg) (wa : Bool) (imm : BitVec 6)
  /-- ROT (R361). -/
  | rot (d a b : Reg) (wa wb : Bool)
  /-- SLT (R361). -/
  | slt (d a b : Reg) (wa wb : Bool)
  /-- SLTN (R361). -/
  | sltn (d a b : Reg) (wa wb : Bool)
  /-- SLTI (R361). -/
  | slti (d a : Reg) (wa : Bool) (imm : BitVec 15)
  /-- MIN (R361). -/
  | min (d a b : Reg) (wa wb : Bool)
  /-- MINN (R361). -/
  | minn (d a b : Reg) (wa wb : Bool)
  /-- MAX (R361). -/
  | max (d a b : Reg) (wa wb : Bool)
  /-- MAXN (R361). -/
  | maxn (d a b : Reg) (wa wb : Bool)
  /-- CLZ (R324). -/
  | clz (d a : Reg) (wa : Bool)
  /-- CTZ (R333). -/
  | ctz (d a : Reg) (wa : Bool)
  /-- POPC (R361). -/
  | popc (d a : Reg) (wa : Bool)
  /-- BEXT (R316). -/
  | bext (d a b : Reg) (wa wb : Bool)
  /-- BINS (R318). -/
  | bins (d a b : Reg) (wa wb : Bool)
  /-- MUL (R361). -/
  | mul (d a b : Reg) (wa wb : Bool)
  /-- MULH (R361). -/
  | mulh (d a b : Reg) (wa wb : Bool)
  /-- MULHN (R361). -/
  | mulhn (d a b : Reg) (wa wb : Bool)
  /-- DIV (R334). -/
  | div (d a b : Reg) (wa wb : Bool)
  /-- DIVN (R334). -/
  | divn (d a b : Reg) (wa wb : Bool)
  /-- MOD (R361). -/
  | mod (d a b : Reg) (wa wb : Bool)
  /-- MODN (R361). -/
  | modn (d a b : Reg) (wa wb : Bool)
  /-- AMO_ADD (R310). -/
  | amoAdd (d a b : Reg) (wa wb wide : Bool) (sc : BitVec 3)
  /-- AMO_AND (R310). -/
  | amoAnd (d a b : Reg) (wa wb wide : Bool) (sc : BitVec 3)
  /-- AMO_OR (R310). -/
  | amoOr (d a b : Reg) (wa wb wide : Bool) (sc : BitVec 3)
  /-- AMO_XOR (R310). -/
  | amoXor (d a b : Reg) (wa wb wide : Bool) (sc : BitVec 3)
  /-- AMO_MIN (R310). -/
  | amoMin (d a b : Reg) (wa wb wide : Bool) (sc : BitVec 3)
  /-- AMO_MAX (R310). -/
  | amoMax (d a b : Reg) (wa wb wide : Bool) (sc : BitVec 3)
  /-- AMO_MINN (R310). -/
  | amoMinn (d a b : Reg) (wa wb wide : Bool) (sc : BitVec 3)
  /-- AMO_MAXN (R310). -/
  | amoMaxn (d a b : Reg) (wa wb wide : Bool) (sc : BitVec 3)
  /-- AMO_SWP (R310). -/
  | amoSwp (d a b : Reg) (wa wb wide : Bool) (sc : BitVec 3)
  /-- AMO_CAS (R310). -/
  | amoCas (d a b : Reg) (wa wb wide : Bool) (sc : BitVec 3)
  /-- LHI (R355). -/
  | lhi (d a : Reg) (wa : Bool) (imm : BitVec 15)
  /-- PCREL (R376). -/
  | pcrel (d : Reg) (imm : BitVec 15)
  /-- JMPR (R346). -/
  | jmpr (d a : Reg) (wa : Bool) (imm : BitVec 15)
  /-- LD (R351). -/
  | ld (t a : Reg) (wa : Bool) (sz sc : BitVec 3) (ord : Bool) (imm : BitVec 8)
  /-- ST (R387). -/
  | st (t a : Reg) (wa : Bool) (sz : BitVec 2) (sc : BitVec 3) (ord : Bool) (imm : BitVec 8)
  /-- STA (R389). -/
  | sta (t a : Reg) (wa : Bool) (sz : BitVec 2) (sc : BitVec 3) (imm : BitVec 8)
  /-- LDFE (R352). -/
  | ldfe (t a : Reg) (wa : Bool) (imm : BitVec 8)
  /-- STFE (R391). -/
  | stfe (t a : Reg) (wa : Bool) (imm : BitVec 8)
  /-- B_EQ (R315). -/
  | bEq (a b : Reg) (off : BitVec 12)
  /-- B_NE (R315). -/
  | bNe (a b : Reg) (off : BitVec 12)
  /-- B_LT (R315). -/
  | bLt (a b : Reg) (off : BitVec 12)
  /-- B_GE (R315). -/
  | bGe (a b : Reg) (off : BitVec 12)
  /-- B_LTN (R315). -/
  | bLtn (a b : Reg) (off : BitVec 12)
  /-- B_GEN (R315). -/
  | bGen (a b : Reg) (off : BitVec 12)
  /-- B_FULL (R315). -/
  | bFull (a : Reg) (off : BitVec 12)
  /-- B_EMPTY (R315). -/
  | bEmpty (a : Reg) (off : BitVec 12)
  /-- JMP (R346). -/
  | jmp (off : BitVec 26)
  /-- JMPL (R346). -/
  | jmpl (off : BitVec 26)
  /-- VADD (R399). -/
  | vadd (a b : Reg) (wa wb : Bool) (fmt : BitVec 4) (flg : BitVec 3)
  /-- VSUB (R399). -/
  | vsub (a b : Reg) (wa wb : Bool) (fmt : BitVec 4) (flg : BitVec 3)
  /-- VMUL (R399). -/
  | vmul (a b : Reg) (wa wb : Bool) (fmt : BitVec 4) (flg : BitVec 3)
  /-- VFMA (R399). -/
  | vfma (a b : Reg) (wa wb : Bool) (fmt : BitVec 4) (flg : BitVec 3)
  /-- VMIN (R399). -/
  | vmin (a b : Reg) (wa wb : Bool) (fmt : BitVec 4)
  /-- VMAX (R399). -/
  | vmax (a b : Reg) (wa wb : Bool) (fmt : BitVec 4)
  /-- VABS (R399). -/
  | vabs (a b : Reg) (wa wb : Bool) (fmt : BitVec 4)
  /-- VNEG (R399). -/
  | vneg (a b : Reg) (wa wb : Bool) (fmt : BitVec 4)
  /-- VRCP (R400). -/
  | vrcp (a b : Reg) (wa wb : Bool) (fmt : BitVec 4) (flg : BitVec 3)
  /-- VRSQ (R400). -/
  | vrsq (a b : Reg) (wa wb : Bool) (fmt : BitVec 4) (flg : BitVec 3)
  /-- VEXP (R400). -/
  | vexp (a b : Reg) (wa wb : Bool) (fmt : BitVec 4) (flg : BitVec 3)
  /-- VLOG2 (R400). -/
  | vlog2 (a b : Reg) (wa wb : Bool) (fmt : BitVec 4) (flg : BitVec 3)
  /-- VTANH (R400). -/
  | vtanh (a b : Reg) (wa wb : Bool) (fmt : BitVec 4) (flg : BitVec 3)
  /-- VCVT (R404). -/
  | vcvt (a b : Reg) (wa wb : Bool) (fmt : BitVec 4) (flg : BitVec 3)
  /-- VCVT_S (R404). -/
  | vcvtS (a b : Reg) (wa wb : Bool) (fmt : BitVec 4) (flg : BitVec 3)
  /-- VCMP (R401). -/
  | vcmp (a b : Reg) (wa wb : Bool) (fmt : BitVec 4) (flg : BitVec 3)
  /-- VSEL (R401). -/
  | vsel (a b : Reg) (wa wb : Bool) (fmt : BitVec 4)
  /-- VSHUF (R402). -/
  | vshuf (a b : Reg) (wa wb : Bool) (fmt : BitVec 4)
  /-- VFILL (R402). -/
  | vfill (a b : Reg) (wa wb : Bool) (fmt : BitVec 4)
  /-- VRED (R403). -/
  | vred (a b : Reg) (wa wb : Bool) (fmt : BitVec 4)
  /-- VSCAN (R403). -/
  | vscan (a b : Reg) (wa wb : Bool) (fmt : BitVec 4)
  /-- VDOT (R403). -/
  | vdot (a b : Reg) (wa wb : Bool) (fmt : BitVec 4)
  /-- VECTOR_CHUNK (R396). -/
  | vectorChunk (core : Nat)
  /-- KRD (R349). -/
  | krd (d : Reg) (kreg : BitVec 12)
  /-- KWR (R349). -/
  | kwr (a : Reg) (kreg : BitVec 12)
  /-- NOP (R369). -/
  | nop
  /-- HALT (R342). -/
  | halt
  /-- SYS (R392). -/
  | sys (svc : BitVec 5)
  /-- TRET (R395). -/
  | tret
  /-- ISYNC (R345). -/
  | isync
  /-- FENCE_ACQ (R338). -/
  | fenceAcq (sc : BitVec 3)
  /-- FENCE_REL (R338). -/
  | fenceRel (sc : BitVec 3)
  /-- TIME (R393). -/
  | time (d : Reg)
  /-- TIMEDGO (R394). -/
  | timedgo (a : Reg)
  /-- TIMEDGO_RELEASE (R394). -/
  | timedgoRelease (core : Nat)
  /-- VBUSY (R405). -/
  | vbusy (d : Reg)
  /-- VFENCE (R405). -/
  | vfence
  /-- WAITF (R406). -/
  | waitf (d a b : Reg)
  /-- WAITPRED (R407). -/
  | waitpred (d : Reg)
  /-- HINTSUCC (R343). -/
  | hintsucc
  /-- KEND (R348). -/
  | kend
  /-- SPAWN (R40). -/
  | spawn (a : Reg)
  /-- RETIRE (R42). -/
  | retire
  /-- JOIN (R43). -/
  | join (d a : Reg)
  /-- LAUNCH (R350). -/
  | launch (d a b : Reg)
  /-- ENQ (R335). -/
  | enq (a b : Reg) (sc : BitVec 3)
  /-- AMSG (R312). -/
  | amsg (d a b : Reg)
  /-- MARKE (R360). -/
  | marke (a : Reg)
  /-- RMOV (R385). -/
  | rmov (a b : Reg) (n : BitVec 5)
  /-- FNEW (R46). -/
  | fnew (d : Reg)
  /-- FSET (R46). -/
  | fset (a b : Reg)
  /-- FSET_F (R46). -/
  | fsetF (a b : Reg)
  /-- FGET (R46). -/
  | fget (d a : Reg)
  /-- FWAIT (R46). -/
  | fwait (d a : Reg)
  /-- FFREE (R46). -/
  | ffree (a : Reg)
  /-- BINIT (R317). -/
  | binit (a b : Reg)
  /-- ARRIVE (R314). -/
  | arrive (d a : Reg)
  /-- BWAIT (R319). -/
  | bwait (d a b : Reg)
  /-- WAIT_LIMIT_TRAP (R52). -/
  | waitLimitTrap (core : Nat)
  /-- PRODUCER_ARRIVE (R74). -/
  | producerArrive (core : Nat) (id : Nat)
  /-- RMOV_ARRIVE (R76). -/
  | rmovArrive (src : Nat) (dst : Nat)
  /-- STORE_ACK (R107). -/
  | storeAck (core : Nat) (id : Nat)
  /-- HOME_ACCESS (R95). -/
  | homeAccess (core : Nat) (id : Nat)
  /-- REMOTE_WRITE_UNBACKED (R388). -/
  | remoteWriteUnbacked (core : Nat) (id : Nat)
  /-- REMOTE_ACCESS_REFUSED (R388). -/
  | remoteAccessRefused (core : Nat) (id : Nat)
  /-- ICACHE_FILL (R202). -/
  | icacheFill (quad : Nat)
  /-- TRANSLATION_WALK (R88). -/
  | translationWalk (k : Nat)
  /-- STRAND_START (R38). -/
  | strandStart (core : Nat)
  /-- QUEUE_REFILL (R197). -/
  | queueRefill (q : Nat)
  /-- HELD_RECORD_PUSH (R196). -/
  | heldRecordPush (k : Nat)
  /-- RECORD_PROMOTE (R198). -/
  | recordPromote (field : Nat)
  /-- LAUNCH_DOORBELL (R188). -/
  | launchDoorbell (wafer : Nat) (v : W64)
  /-- LAUNCH_ENTRY_TAKE (R189). -/
  | launchEntryTake (wafer : Nat)
  /-- POD_SHEAF_ACCEPT (R300). -/
  | podSheafAccept (wafer : Nat)
  /-- NODE_PLACE (R192). -/
  | nodePlace (sheaf : Nat) (node : Nat)
  /-- NODE_RESERVE (R193). -/
  | nodeReserve (sheaf : Nat) (node : Nat)
  /-- RESIDENCY_PLACE (R194). -/
  | residencyPlace (sheaf : Nat) (node : Nat)
  /-- EDGE_GRAPH_BIND (R184). -/
  | edgeGraphBind (sheaf : Nat) (node : Nat)
  /-- GROUP_BINDING_PLACE (R282). -/
  | groupBindingPlace (sheaf : Nat) (node : Nat)
  /-- NODE_START (R37). -/
  | nodeStart (sheaf : Nat) (node : Nat)
  /-- NODE_COMPLETE (R32). -/
  | nodeComplete (sheaf : Nat) (node : Nat)
  /-- SHEAF_COMPLETE (R285). -/
  | sheafComplete (sheaf : Nat)
  /-- VIEW_EOS_SEND (R305). -/
  | viewEosSend (sheaf : Nat)
  /-- AMSG_DELIVER (R172). -/
  | amsgDeliver (field : Nat)
  /-- PHASE_WAKE (R149). -/
  | phaseWake (sheaf : Nat) (phase : Nat)
  /-- TRUNK_SLEEP (R149). -/
  | trunkSleep (ctl : Nat) (trunk : Nat)
  /-- MMA (R365). -/
  | mma (c : Cmd)
  /-- MMA_STEP (R365). -/
  | mmaStep (core : Nat)
  /-- RING_TILE_ARRIVE (R124). -/
  | ringTileArrive (core : Nat)
  /-- MLD (R362). -/
  | mld (c : Cmd)
  /-- MST (R362). -/
  | mst (c : Cmd)
  /-- MCVT (R363). -/
  | mcvt (c : Cmd)
  /-- MZERO (R362). -/
  | mzero (c : Cmd)
  /-- MRING (R368). -/
  | mring (c : Cmd)
  /-- XCOPY (R409). -/
  | xcopy (c : Cmd)
  /-- XFILL (R410). -/
  | xfill (c : Cmd)
  /-- XGATH (R411). -/
  | xgath (c : Cmd)
  /-- XSCAT (R411). -/
  | xscat (c : Cmd)
  /-- XSWZ (R412). -/
  | xswz (c : Cmd)
  /-- LTX (R359). -/
  | ltx (c : Cmd)
  /-- LRX (R357). -/
  | lrx (c : Cmd)
  /-- LGRP_ENROL (R354). -/
  | lgrpEnrol (c : Cmd)
  /-- LGRP_DISSOLVE (R141). -/
  | lgrpDissolve (c : Cmd)
  /-- LGRP_RD (R354). -/
  | lgrpRd (c : Cmd)
  /-- ERED (R337). -/
  | ered (c : Cmd)
  /-- CRED (R328). -/
  | cred (c : Cmd)
  /-- GBIND (R341). -/
  | gbind (c : Cmd)
  /-- GACC (R341). -/
  | gacc (c : Cmd)
  /-- GUNBIND (R341). -/
  | gunbind (c : Cmd)
  /-- BLOCK_SEND (R145). -/
  | blockSend (group : Nat)
  /-- DEMAND_UPDATE (R145). -/
  | demandUpdate (quad : Nat) (group : Nat)
  /-- SLOT_FILL (R142). -/
  | slotFill (quad : Nat) (group : Nat) (ok : Bool)
  /-- BLOCK_RESEND (R147). -/
  | blockResend (group : Nat)
  /-- GROUP_STALL (R146). -/
  | groupStall (group : Nat)
  /-- RING_HANDOFF (R148). -/
  | ringHandoff (quad : Nat)
  /-- KRXF_WRITE (R292). -/
  | krxfWrite (core : Nat) (v : W64)
  /-- RED_ROUTER_ADD (R70). -/
  | redRouterAdd (grp : Nat) (node : Nat)
  /-- CRED_DISTRIBUTE (R329). -/
  | credDistribute (grp : Nat)
  /-- CRED_RESULT_FLIT (R330). -/
  | credResultFlit (wafer : Nat) (k : Nat)
  /-- VIEW_ACCESS (R181). -/
  | viewAccess (ctl : Nat) (slot : Nat)
  /-- ACCUMULATE_WRITE (R185). -/
  | accumulateWrite (ctl : Nat) (slot : Nat)
  /-- CONFIG_WORD_LOAD (R168). -/
  | configWordLoad (res : Nat)
  /-- CONFIG_STEP (R169). -/
  | configStep (res : Nat)
  /-- REQUEST_TOKEN (R162). -/
  | requestToken (res : Nat) (chan : Nat)
  /-- CALLEE_REST (R177). -/
  | calleeRest (res : Nat)
  /-- CREQ_PLACE (R173). -/
  | creqPlace (k : Nat)
  /-- PLUT (R165). -/
  | plut (w : W64)
  /-- PAG (R374). -/
  | pag (w : W64)
  /-- PADD (R372). -/
  | padd (w : W64)
  /-- PSUB (R372). -/
  | psub (w : W64)
  /-- PMUL (R372). -/
  | pmul (w : W64)
  /-- PFMA (R378). -/
  | pfma (w : W64)
  /-- PMIN (R372). -/
  | pmin (w : W64)
  /-- PMAX (R372). -/
  | pmax (w : W64)
  /-- PCMP (R375). -/
  | pcmp (w : W64)
  /-- PLOG (R380). -/
  | plog (w : W64)
  /-- PSHF (R382). -/
  | pshf (w : W64)
  /-- PCVT (R377). -/
  | pcvt (w : W64)
  /-- PACC (R371). -/
  | pacc (w : W64)
  /-- PLD (R379). -/
  | pld (w : W64)
  /-- PST (R383). -/
  | pst (w : W64)
  /-- CCALL (R323). -/
  | ccall (w : W64)
  /-- CRET (R332). -/
  | cret (w : W64)
  /-- CREQ (R325). -/
  | creq (w : W64)
  /-- ROUTER_PASS (R164). -/
  | routerPass (w : W64)
  /-- STEER (R390). -/
  | steer (w : W64)
  /-- CARRY (R321). -/
  | carry (w : W64)
  /-- INVAR (R344). -/
  | invar (w : W64)
  /-- MERGE (R364). -/
  | merge (w : W64)
  /-- KPRES_WRITE (R75). -/
  | kpresWrite (core : Nat) (v : W64)
  /-- KRSEED_WRITE (R67). -/
  | krseedWrite (core : Nat) (v : W64)
  /-- KQSEED_WRITE (R67). -/
  | kqseedWrite (core : Nat) (v : W64)
  /-- KXINV_PAGE (R89). -/
  | kxinvPage (wafer : Nat) (v : W64)
  /-- KXINV_ASID (R89). -/
  | kxinvAsid (wafer : Nat) (v : W64)
  /-- KXINV_ALL (R89). -/
  | kxinvAll (wafer : Nat) (v : W64)
  /-- KSVC_KILL (R209). -/
  | ksvcKill (wafer : Nat) (v : W64)
  /-- KSVC_RETRY (R209). -/
  | ksvcRetry (wafer : Nat) (v : W64)
  /-- KSVC_CONTINUE (R209). -/
  | ksvcContinue (wafer : Nat) (v : W64)
  /-- KSVC_PREEMPT (R214). -/
  | ksvcPreempt (wafer : Nat) (v : W64)
  /-- KSVC_RESTORE (R209). -/
  | ksvcRestore (wafer : Nat) (v : W64)
  /-- KSVC_CHECKPOINT (R218). -/
  | ksvcCheckpoint (wafer : Nat) (v : W64)
  /-- KSVC_KILL_ALL (R209). -/
  | ksvcKillAll (wafer : Nat) (v : W64)
  /-- PREEMPT_QUIESCE (R214). -/
  | preemptQuiesce (wafer : Nat) (part : Nat)
  /-- AWN_RECEIVE (R218). -/
  | awnReceive (wafer : Nat) (unit : Nat)
  /-- CHECKPOINT_SAVE (R218). -/
  | checkpointSave (wafer : Nat)
  /-- WATCHDOG_EXPIRE (R217). -/
  | watchdogExpire (wafer : Nat)
  /-- EVENT_POST (R207). -/
  | eventPost (wafer : Nat) (k : Nat)
  /-- GRAIN_INTERVAL (R221). -/
  | grainInterval (wafer : Nat)
  /-- TRADING_PERIOD (R220). -/
  | tradingPeriod (wafer : Nat)
  /-- GRANT_RECEIVE (R219). -/
  | grantReceive (wafer : Nat)
  /-- THROTTLE_ENTRY (R223). -/
  | throttleEntry (wafer : Nat) (src : Nat)
  /-- THROTTLE_EXIT (R223). -/
  | throttleExit (wafer : Nat)
  /-- KFCLK_WRITE (R224). -/
  | kfclkWrite (core : Nat) (v : W64)
  /-- HOP_COMPLETE (R224). -/
  | hopComplete (field : Nat)
  /-- HOP_ABANDON (R224). -/
  | hopAbandon (field : Nat)
  /-- HOP_RETRY (R224). -/
  | hopRetry (field : Nat)
  /-- FIELD_HOT (R228). -/
  | fieldHot (field : Nat)
  /-- FIELD_COOL (R228). -/
  | fieldCool (field : Nat)
  /-- NODE_MIGRATE (R229). -/
  | nodeMigrate (sheaf : Nat) (node : Nat)
  /-- BUDGET_DECAY (R228). -/
  | budgetDecay (wafer : Nat)
  /-- TIME_FLIT (R225). -/
  | timeFlit (wafer : Nat)
  /-- FLIT_RECEIVE (R233). -/
  | flitReceive (link : Nat)
  /-- FLIT_REPLAY (R150). -/
  | flitReplay (link : Nat)
  /-- LINK_DOWN (R233). -/
  | linkDown (link : Nat)
  /-- WAVELENGTH_STEER (R234). -/
  | wavelengthSteer (wafer : Nat) (bank : Nat)
  /-- KEY_ROLLOVER_REQUEST (R235). -/
  | keyRolloverRequest (link : Nat)
  /-- KEY_ROLLOVER (R235). -/
  | keyRollover (link : Nat)
  /-- KEY_SLOT_FREE (R235). -/
  | keySlotFree (link : Nat)
  /-- MODULE_RESET (R232). -/
  | moduleReset (wafer : Nat)
  /-- BOOT_STAGE_VERIFY (R236). -/
  | bootStageVerify (wafer : Nat)
  /-- KRCVC_GO (R237). -/
  | krcvcGo (wafer : Nat) (v : W64)
  /-- RECOVERY_LOAD_DONE (R237). -/
  | recoveryLoadDone (wafer : Nat)
  /-- KATN_WRITE (R238). -/
  | katnWrite (wafer : Nat) (v : W64)
  /-- ATTEST_REPORT_DONE (R238). -/
  | attestReportDone (wafer : Nat)
  /-- POD_FORMATION (R219). -/
  | podFormation (size : Nat) (budget : Nat) (red : Bool)
  /-- LINK_UP (R233). -/
  | linkUp (link : Nat)
  /-- KSVQH_WRITE (R207). -/
  | ksvqhWrite (wafer : Nat) (v : W64)
  /-- KTRB_WRITE (R90). -/
  | ktrbWrite (wafer : Nat) (v : W64)
  /-- HOST_WINDOW_WRITE (R231). -/
  | hostWindowWrite (wafer : Nat) (port : Nat) (off : Nat) (v : W64)
  /-- HBM_SCRUB (R83). -/
  | hbmScrub (ctl : Nat)
  deriving DecidableEq, Repr

end Sys2Proof
end

