-- ==== Sys2Proof/WellFormed.lean ====
section
/-! DEFINITION. When a term of `Instr` is an instruction the spec assigns an encoding to: scopes, sizes, type and
rounding codes and register numbers inside the ranges of 13_encodings.md R239 to R261. -/

namespace Sys2Proof

/-- The scope codes 0b000 to 0b101 (01_machine.md R24); 0b110 and 0b111 are reserved. -/
def scopeOk (sc : BitVec 3) : Bool := sc.toNat ≤ 5

/-- The kreg numbers that R253 (13_encodings.md) assigns. -/
def kregOk (k : BitVec 12) : Bool :=
  let n := k.toNat
  n ≤ 0x010 || (0x040 ≤ n && n ≤ 0x043) || (0x080 ≤ n && n ≤ 0x083) || (0x0C0 ≤ n && n ≤ 0x0C5)
    || (0x100 ≤ n && n ≤ 0x111) || (0x400 ≤ n && n < 0x430)

/-- ord = 1 makes sc a scope code; ord = 0 makes it reserved (R247). -/
def ordOk (ord : Bool) (sc : BitVec 3) : Bool := if ord then scopeOk sc else sc == 0

/-- BF16, FP16 and FP32 (R250). -/
def fmtFloat3 (f : BitVec 4) : Bool := f == 0x0 || f == 0x1 || f == 0x7

/-- Codes 0x4 and 0x8 to 0xE, the integer types (R250). -/
def fmtInt (f : BitVec 4) : Bool := f == 0x4 || (8 ≤ f.toNat && f.toNat ≤ 0xE)

/-- The arithmetic vops (R398): rounding codes 0 to 3 on floating types, flg 0 on integer types. -/
def vArithOk (fmt : BitVec 4) (flg : BitVec 3) : Bool :=
  (fmtFloat3 fmt && flg.toNat ≤ 3) || (fmtInt fmt && flg == 0)

/-- VABS and VNEG (R398). -/
def vSignOk (fmt : BitVec 4) : Bool :=
  fmtFloat3 fmt || fmt == 0x4 || fmt == 0x8 || fmt == 0x9 || fmt == 0xA

/-- VRCP, VRSQ, VEXP, VLOG2, VTANH (R398). -/
def vFuncOk (fmt : BitVec 4) (flg : BitVec 3) : Bool := fmtFloat3 fmt && flg.toNat ≤ 3

/-- The types of VADD and its kin without a rounding code (R398). -/
def vNumOk (fmt : BitVec 4) : Bool := fmtFloat3 fmt || fmtInt fmt

/-- VSEL and VSHUF: 0x0 to 0x4 and 0x7 to 0xE (R398). -/
def vMoveOk (fmt : BitVec 4) : Bool := fmt.toNat ≤ 4 || (7 ≤ fmt.toNat && fmt.toNat ≤ 0xE)

/-- VFILL, and the targets of VCVT: 0x0 to 0x5 and 0x7 to 0xE (R398). -/
def vFillOk (fmt : BitVec 4) : Bool := fmt.toNat ≤ 5 || (7 ≤ fmt.toNat && fmt.toNat ≤ 0xE)

/-- VCVT and VCVT.S: any rounding code of R65 (R398). -/
def vCvtOk (fmt : BitVec 4) (flg : BitVec 3) : Bool := vFillOk fmt && flg.toNat ≤ 4

/-- Opcode, class and engine of a command word (R254). -/
def Cmd.head (c : Cmd) : BitVec 16 := c.w0.extractLsb' 48 16

/-- The op byte of a cell word (08_fabric.md R159). -/
def cellOp (w : W64) : BitVec 8 := w.extractLsb' 56 8

/-- The op of a router word in bits 31:0 of its configuration word, with bits 63:32 zero (R164). -/
def routerOp (w : W64) : BitVec 36 := w.extractLsb' 28 36

/-- The rows that have a 32-bit scalar encoding. -/
def Instr.scalar : Instr → Bool
  | .add _ _ _ _ _ => true
  | .addi _ _ _ _ => true
  | .sub _ _ _ _ _ => true
  | .and _ _ _ _ _ => true
  | .andi _ _ _ _ => true
  | .or _ _ _ _ _ => true
  | .ori _ _ _ _ => true
  | .xor _ _ _ _ _ => true
  | .xori _ _ _ _ => true
  | .shl _ _ _ _ _ => true
  | .shli _ _ _ _ => true
  | .shr _ _ _ _ _ => true
  | .shri _ _ _ _ => true
  | .sra _ _ _ _ _ => true
  | .srai _ _ _ _ => true
  | .rot _ _ _ _ _ => true
  | .slt _ _ _ _ _ => true
  | .sltn _ _ _ _ _ => true
  | .slti _ _ _ _ => true
  | .min _ _ _ _ _ => true
  | .minn _ _ _ _ _ => true
  | .max _ _ _ _ _ => true
  | .maxn _ _ _ _ _ => true
  | .clz _ _ _ => true
  | .ctz _ _ _ => true
  | .popc _ _ _ => true
  | .bext _ _ _ _ _ => true
  | .bins _ _ _ _ _ => true
  | .mul _ _ _ _ _ => true
  | .mulh _ _ _ _ _ => true
  | .mulhn _ _ _ _ _ => true
  | .div _ _ _ _ _ => true
  | .divn _ _ _ _ _ => true
  | .mod _ _ _ _ _ => true
  | .modn _ _ _ _ _ => true
  | .amoAdd _ _ _ _ _ _ _ => true
  | .amoAnd _ _ _ _ _ _ _ => true
  | .amoOr _ _ _ _ _ _ _ => true
  | .amoXor _ _ _ _ _ _ _ => true
  | .amoMin _ _ _ _ _ _ _ => true
  | .amoMax _ _ _ _ _ _ _ => true
  | .amoMinn _ _ _ _ _ _ _ => true
  | .amoMaxn _ _ _ _ _ _ _ => true
  | .amoSwp _ _ _ _ _ _ _ => true
  | .amoCas _ _ _ _ _ _ _ => true
  | .lhi _ _ _ _ => true
  | .pcrel _ _ => true
  | .jmpr _ _ _ _ => true
  | .ld _ _ _ _ _ _ _ => true
  | .st _ _ _ _ _ _ _ => true
  | .sta _ _ _ _ _ _ => true
  | .ldfe _ _ _ _ => true
  | .stfe _ _ _ _ => true
  | .bEq _ _ _ => true
  | .bNe _ _ _ => true
  | .bLt _ _ _ => true
  | .bGe _ _ _ => true
  | .bLtn _ _ _ => true
  | .bGen _ _ _ => true
  | .bFull _ _ => true
  | .bEmpty _ _ => true
  | .jmp _ => true
  | .jmpl _ => true
  | .vadd _ _ _ _ _ _ => true
  | .vsub _ _ _ _ _ _ => true
  | .vmul _ _ _ _ _ _ => true
  | .vfma _ _ _ _ _ _ => true
  | .vmin _ _ _ _ _ => true
  | .vmax _ _ _ _ _ => true
  | .vabs _ _ _ _ _ => true
  | .vneg _ _ _ _ _ => true
  | .vrcp _ _ _ _ _ _ => true
  | .vrsq _ _ _ _ _ _ => true
  | .vexp _ _ _ _ _ _ => true
  | .vlog2 _ _ _ _ _ _ => true
  | .vtanh _ _ _ _ _ _ => true
  | .vcvt _ _ _ _ _ _ => true
  | .vcvtS _ _ _ _ _ _ => true
  | .vcmp _ _ _ _ _ _ => true
  | .vsel _ _ _ _ _ => true
  | .vshuf _ _ _ _ _ => true
  | .vfill _ _ _ _ _ => true
  | .vred _ _ _ _ _ => true
  | .vscan _ _ _ _ _ => true
  | .vdot _ _ _ _ _ => true
  | .vectorChunk _ => false
  | .krd _ _ => true
  | .kwr _ _ => true
  | .nop => true
  | .halt => true
  | .sys _ => true
  | .tret => true
  | .isync => true
  | .fenceAcq _ => true
  | .fenceRel _ => true
  | .time _ => true
  | .timedgo _ => true
  | .timedgoRelease _ => false
  | .vbusy _ => true
  | .vfence => true
  | .waitf _ _ _ => true
  | .waitpred _ => true
  | .hintsucc => true
  | .kend => true
  | .spawn _ => true
  | .retire => true
  | .join _ _ => true
  | .launch _ _ _ => true
  | .enq _ _ _ => true
  | .amsg _ _ _ => true
  | .marke _ => true
  | .rmov _ _ _ => true
  | .fnew _ => true
  | .fset _ _ => true
  | .fsetF _ _ => true
  | .fget _ _ => true
  | .fwait _ _ => true
  | .ffree _ => true
  | .binit _ _ => true
  | .arrive _ _ => true
  | .bwait _ _ _ => true
  | .waitLimitTrap _ => false
  | .producerArrive _ _ => false
  | .rmovArrive _ _ => false
  | .storeAck _ _ => false
  | .homeAccess _ _ => false
  | .remoteWriteUnbacked _ _ => false
  | .remoteAccessRefused _ _ => false
  | .icacheFill _ => false
  | .translationWalk _ => false
  | .strandStart _ => false
  | .queueRefill _ => false
  | .heldRecordPush _ => false
  | .recordPromote _ => false
  | .launchDoorbell _ _ => false
  | .launchEntryTake _ => false
  | .podSheafAccept _ => false
  | .nodePlace _ _ => false
  | .nodeReserve _ _ => false
  | .residencyPlace _ _ => false
  | .edgeGraphBind _ _ => false
  | .groupBindingPlace _ _ => false
  | .nodeStart _ _ => false
  | .nodeComplete _ _ => false
  | .sheafComplete _ => false
  | .viewEosSend _ => false
  | .amsgDeliver _ => false
  | .phaseWake _ _ => false
  | .trunkSleep _ _ => false
  | .mma _ => false
  | .mmaStep _ => false
  | .ringTileArrive _ => false
  | .mld _ => false
  | .mst _ => false
  | .mcvt _ => false
  | .mzero _ => false
  | .mring _ => false
  | .xcopy _ => false
  | .xfill _ => false
  | .xgath _ => false
  | .xscat _ => false
  | .xswz _ => false
  | .ltx _ => false
  | .lrx _ => false
  | .lgrpEnrol _ => false
  | .lgrpDissolve _ => false
  | .lgrpRd _ => false
  | .ered _ => false
  | .cred _ => false
  | .gbind _ => false
  | .gacc _ => false
  | .gunbind _ => false
  | .blockSend _ => false
  | .demandUpdate _ _ => false
  | .slotFill _ _ _ => false
  | .blockResend _ => false
  | .groupStall _ => false
  | .ringHandoff _ => false
  | .krxfWrite _ _ => false
  | .redRouterAdd _ _ => false
  | .credDistribute _ => false
  | .credResultFlit _ _ => false
  | .viewAccess _ _ => false
  | .accumulateWrite _ _ => false
  | .configWordLoad _ => false
  | .configStep _ => false
  | .requestToken _ _ => false
  | .calleeRest _ => false
  | .creqPlace _ => false
  | .plut _ => false
  | .pag _ => false
  | .padd _ => false
  | .psub _ => false
  | .pmul _ => false
  | .pfma _ => false
  | .pmin _ => false
  | .pmax _ => false
  | .pcmp _ => false
  | .plog _ => false
  | .pshf _ => false
  | .pcvt _ => false
  | .pacc _ => false
  | .pld _ => false
  | .pst _ => false
  | .ccall _ => false
  | .cret _ => false
  | .creq _ => false
  | .routerPass _ => false
  | .steer _ => false
  | .carry _ => false
  | .invar _ => false
  | .merge _ => false
  | .kpresWrite _ _ => false
  | .krseedWrite _ _ => false
  | .kqseedWrite _ _ => false
  | .kxinvPage _ _ => false
  | .kxinvAsid _ _ => false
  | .kxinvAll _ _ => false
  | .ksvcKill _ _ => false
  | .ksvcRetry _ _ => false
  | .ksvcContinue _ _ => false
  | .ksvcPreempt _ _ => false
  | .ksvcRestore _ _ => false
  | .ksvcCheckpoint _ _ => false
  | .ksvcKillAll _ _ => false
  | .preemptQuiesce _ _ => false
  | .awnReceive _ _ => false
  | .checkpointSave _ => false
  | .watchdogExpire _ => false
  | .eventPost _ _ => false
  | .grainInterval _ => false
  | .tradingPeriod _ => false
  | .grantReceive _ => false
  | .throttleEntry _ _ => false
  | .throttleExit _ => false
  | .kfclkWrite _ _ => false
  | .hopComplete _ => false
  | .hopAbandon _ => false
  | .hopRetry _ => false
  | .fieldHot _ => false
  | .fieldCool _ => false
  | .nodeMigrate _ _ => false
  | .budgetDecay _ => false
  | .timeFlit _ => false
  | .flitReceive _ => false
  | .flitReplay _ => false
  | .linkDown _ => false
  | .wavelengthSteer _ _ => false
  | .keyRolloverRequest _ => false
  | .keyRollover _ => false
  | .keySlotFree _ => false
  | .moduleReset _ => false
  | .bootStageVerify _ => false
  | .krcvcGo _ _ => false
  | .recoveryLoadDone _ => false
  | .katnWrite _ _ => false
  | .attestReportDone _ => false
  | .podFormation _ _ _ => false
  | .linkUp _ => false
  | .ksvqhWrite _ _ => false
  | .ktrbWrite _ _ => false
  | .hostWindowWrite _ _ _ _ => false
  | .hbmScrub _ => false

/-- Whether a term is an instruction that the spec assigns: every check of 13_encodings.md that the layout of its
constructor does not already make. -/
def Instr.wf : Instr → Bool
  | .add _ _ _ _ _ => true
  | .addi _ _ _ _ => true
  | .sub _ _ _ _ _ => true
  | .and _ _ _ _ _ => true
  | .andi _ _ _ _ => true
  | .or _ _ _ _ _ => true
  | .ori _ _ _ _ => true
  | .xor _ _ _ _ _ => true
  | .xori _ _ _ _ => true
  | .shl _ _ _ _ _ => true
  | .shli _ _ _ _ => true
  | .shr _ _ _ _ _ => true
  | .shri _ _ _ _ => true
  | .sra _ _ _ _ _ => true
  | .srai _ _ _ _ => true
  | .rot _ _ _ _ _ => true
  | .slt _ _ _ _ _ => true
  | .sltn _ _ _ _ _ => true
  | .slti _ _ _ _ => true
  | .min _ _ _ _ _ => true
  | .minn _ _ _ _ _ => true
  | .max _ _ _ _ _ => true
  | .maxn _ _ _ _ _ => true
  | .clz _ _ _ => true
  | .ctz _ _ _ => true
  | .popc _ _ _ => true
  | .bext _ _ _ _ _ => true
  | .bins _ _ _ _ _ => true
  | .mul _ _ _ _ _ => true
  | .mulh _ _ _ _ _ => true
  | .mulhn _ _ _ _ _ => true
  | .div _ _ _ _ _ => true
  | .divn _ _ _ _ _ => true
  | .mod _ _ _ _ _ => true
  | .modn _ _ _ _ _ => true
  | .amoAdd _ _ _ _ _ _ sc => scopeOk sc
  | .amoAnd _ _ _ _ _ _ sc => scopeOk sc
  | .amoOr _ _ _ _ _ _ sc => scopeOk sc
  | .amoXor _ _ _ _ _ _ sc => scopeOk sc
  | .amoMin _ _ _ _ _ _ sc => scopeOk sc
  | .amoMax _ _ _ _ _ _ sc => scopeOk sc
  | .amoMinn _ _ _ _ _ _ sc => scopeOk sc
  | .amoMaxn _ _ _ _ _ _ sc => scopeOk sc
  | .amoSwp _ _ _ _ _ _ sc => scopeOk sc
  | .amoCas _ _ _ _ _ _ sc => scopeOk sc
  | .lhi _ _ _ _ => true
  | .pcrel _ _ => true
  | .jmpr _ _ _ _ => true
  | .ld _ _ _ sz sc ord _ => sz != 7 && ordOk ord sc
  | .st _ _ _ _ sc ord _ => ordOk ord sc
  | .sta _ _ _ _ sc _ => scopeOk sc
  | .ldfe _ _ _ _ => true
  | .stfe _ _ _ _ => true
  | .bEq _ _ _ => true
  | .bNe _ _ _ => true
  | .bLt _ _ _ => true
  | .bGe _ _ _ => true
  | .bLtn _ _ _ => true
  | .bGen _ _ _ => true
  | .bFull _ _ => true
  | .bEmpty _ _ => true
  | .jmp _ => true
  | .jmpl _ => true
  | .vadd _ _ _ _ fmt flg => vArithOk fmt flg
  | .vsub _ _ _ _ fmt flg => vArithOk fmt flg
  | .vmul _ _ _ _ fmt flg => vArithOk fmt flg
  | .vfma _ _ _ _ fmt flg => vArithOk fmt flg
  | .vmin _ _ _ _ fmt => vNumOk fmt
  | .vmax _ _ _ _ fmt => vNumOk fmt
  | .vabs _ _ _ _ fmt => vSignOk fmt
  | .vneg _ _ _ _ fmt => vSignOk fmt
  | .vrcp _ _ _ _ fmt flg => vFuncOk fmt flg
  | .vrsq _ _ _ _ fmt flg => vFuncOk fmt flg
  | .vexp _ _ _ _ fmt flg => vFuncOk fmt flg
  | .vlog2 _ _ _ _ fmt flg => vFuncOk fmt flg
  | .vtanh _ _ _ _ fmt flg => vFuncOk fmt flg
  | .vcvt _ _ _ _ fmt flg => vCvtOk fmt flg
  | .vcvtS _ _ _ _ fmt flg => vCvtOk fmt flg
  | .vcmp _ _ _ _ fmt flg => vNumOk fmt && flg.toNat ≤ 3
  | .vsel _ _ _ _ fmt => vMoveOk fmt
  | .vshuf _ _ _ _ fmt => vMoveOk fmt
  | .vfill _ _ _ _ fmt => vFillOk fmt
  | .vred _ _ _ _ fmt => vNumOk fmt
  | .vscan _ _ _ _ fmt => vNumOk fmt
  | .vdot _ _ _ _ fmt => vNumOk fmt
  | .vectorChunk _ => true
  | .krd _ kreg => kregOk kreg
  | .kwr _ kreg => kregOk kreg
  | .nop => true
  | .halt => true
  | .sys _ => true
  | .tret => true
  | .isync => true
  | .fenceAcq sc => scopeOk sc
  | .fenceRel sc => scopeOk sc
  | .time _ => true
  | .timedgo _ => true
  | .timedgoRelease _ => true
  | .vbusy _ => true
  | .vfence => true
  | .waitf _ _ _ => true
  | .waitpred _ => true
  | .hintsucc => true
  | .kend => true
  | .spawn _ => true
  | .retire => true
  | .join _ _ => true
  | .launch _ _ _ => true
  | .enq _ _ sc => scopeOk sc
  | .amsg _ _ _ => true
  | .marke _ => true
  | .rmov _ _ _ => true
  | .fnew _ => true
  | .fset _ _ => true
  | .fsetF _ _ => true
  | .fget _ _ => true
  | .fwait _ _ => true
  | .ffree _ => true
  | .binit _ _ => true
  | .arrive _ _ => true
  | .bwait _ _ _ => true
  | .waitLimitTrap _ => true
  | .producerArrive _ _ => true
  | .rmovArrive _ _ => true
  | .storeAck _ _ => true
  | .homeAccess _ _ => true
  | .remoteWriteUnbacked _ _ => true
  | .remoteAccessRefused _ _ => true
  | .icacheFill _ => true
  | .translationWalk _ => true
  | .strandStart _ => true
  | .queueRefill _ => true
  | .heldRecordPush _ => true
  | .recordPromote _ => true
  | .launchDoorbell _ _ => true
  | .launchEntryTake _ => true
  | .podSheafAccept _ => true
  | .nodePlace _ _ => true
  | .nodeReserve _ _ => true
  | .residencyPlace _ _ => true
  | .edgeGraphBind _ _ => true
  | .groupBindingPlace _ _ => true
  | .nodeStart _ _ => true
  | .nodeComplete _ _ => true
  | .sheafComplete _ => true
  | .viewEosSend _ => true
  | .amsgDeliver _ => true
  | .phaseWake _ _ => true
  | .trunkSleep _ _ => true
  | .mma c => c.head == 0x0100
  | .mmaStep _ => true
  | .ringTileArrive _ => true
  | .mld c => c.head == 0x0200
  | .mst c => c.head == 0x0300
  | .mcvt c => c.head == 0x0400
  | .mzero c => c.head == 0x0500
  | .mring c => c.head == 0x0600
  | .xcopy c => c.head == 0x1011
  | .xfill c => c.head == 0x1111
  | .xgath c => c.head == 0x1211
  | .xscat c => c.head == 0x1311
  | .xswz c => c.head == 0x1411
  | .ltx c => c.head == 0x2022
  | .lrx c => c.head == 0x2122
  | .lgrpEnrol c => c.head == 0x2222
  | .lgrpDissolve c => c.head == 0x2222
  | .lgrpRd c => c.head == 0x2322
  | .ered c => c.head == 0x3032
  | .cred c => c.head == 0x4042
  | .gbind c => c.head == 0x5052
  | .gacc c => c.head == 0x5152
  | .gunbind c => c.head == 0x5252
  | .blockSend _ => true
  | .demandUpdate _ _ => true
  | .slotFill _ _ _ => true
  | .blockResend _ => true
  | .groupStall _ => true
  | .ringHandoff _ => true
  | .krxfWrite _ _ => true
  | .redRouterAdd _ _ => true
  | .credDistribute _ => true
  | .credResultFlit _ _ => true
  | .viewAccess _ _ => true
  | .accumulateWrite _ _ => true
  | .configWordLoad _ => true
  | .configStep _ => true
  | .requestToken _ _ => true
  | .calleeRest _ => true
  | .creqPlace _ => true
  | .plut w => cellOp w == 0x01
  | .pag w => cellOp w == 0x02
  | .padd w => cellOp w == 0x10
  | .psub w => cellOp w == 0x11
  | .pmul w => cellOp w == 0x12
  | .pfma w => cellOp w == 0x13
  | .pmin w => cellOp w == 0x14
  | .pmax w => cellOp w == 0x15
  | .pcmp w => cellOp w == 0x16
  | .plog w => cellOp w == 0x17
  | .pshf w => cellOp w == 0x18
  | .pcvt w => cellOp w == 0x19
  | .pacc w => cellOp w == 0x1A
  | .pld w => cellOp w == 0x20
  | .pst w => cellOp w == 0x21
  | .ccall w => cellOp w == 0x30
  | .cret w => cellOp w == 0x31
  | .creq w => cellOp w == 0x32
  | .routerPass w => routerOp w == 0
  | .steer w => routerOp w == 1
  | .carry w => routerOp w == 2
  | .invar w => routerOp w == 3
  | .merge w => routerOp w == 4
  | .kpresWrite _ _ => true
  | .krseedWrite _ _ => true
  | .kqseedWrite _ _ => true
  | .kxinvPage _ _ => true
  | .kxinvAsid _ _ => true
  | .kxinvAll _ _ => true
  | .ksvcKill _ _ => true
  | .ksvcRetry _ _ => true
  | .ksvcContinue _ _ => true
  | .ksvcPreempt _ _ => true
  | .ksvcRestore _ _ => true
  | .ksvcCheckpoint _ _ => true
  | .ksvcKillAll _ _ => true
  | .preemptQuiesce _ _ => true
  | .awnReceive _ _ => true
  | .checkpointSave _ => true
  | .watchdogExpire _ => true
  | .eventPost _ _ => true
  | .grainInterval _ => true
  | .tradingPeriod _ => true
  | .grantReceive _ => true
  | .throttleEntry _ _ => true
  | .throttleExit _ => true
  | .kfclkWrite _ _ => true
  | .hopComplete _ => true
  | .hopAbandon _ => true
  | .hopRetry _ => true
  | .fieldHot _ => true
  | .fieldCool _ => true
  | .nodeMigrate _ _ => true
  | .budgetDecay _ => true
  | .timeFlit _ => true
  | .flitReceive _ => true
  | .flitReplay _ => true
  | .linkDown _ => true
  | .wavelengthSteer _ _ => true
  | .keyRolloverRequest _ => true
  | .keyRollover _ => true
  | .keySlotFree _ => true
  | .moduleReset _ => true
  | .bootStageVerify _ => true
  | .krcvcGo _ _ => true
  | .recoveryLoadDone _ => true
  | .katnWrite _ _ => true
  | .attestReportDone _ => true
  | .podFormation _ _ _ => true
  | .linkUp _ => true
  | .ksvqhWrite _ _ => true
  | .ktrbWrite _ _ => true
  | .hostWindowWrite _ _ _ _ => true
  | .hbmScrub _ => true

end Sys2Proof
end

