-- ==== Sys2Proof/Decode.lean ====
section
/-! DEFINITION. The decoder: 32-bit scalar words (13_encodings.md R239 to R253), 256-bit command words (R254) and
64-bit fabric words (R259, 08_fabric.md R164), each refused by name where the spec assigns nothing (R261); and
the encoder, from the same tables. -/

namespace Sys2Proof

/-- Why a word is no instruction (13_encodings.md R261). -/
inductive Reject where
  /-- An unassigned major opcode (R243). -/
  | major
  /-- An unassigned fn code (R244). -/
  | fn
  /-- An unassigned aop, or bit 3 of an AMO's fn set (R245). -/
  | aop
  /-- An unassigned sub-code (R251). -/
  | sop
  /-- An unassigned condition (R248). -/
  | cond
  /-- An unassigned vector operation (R249). -/
  | vop
  /-- An unassigned K op (R252). -/
  | kop
  /-- A nonzero reserved field or w bit (R240, R251). -/
  | reserved
  /-- A reserved scope, size, type, flg code or kreg number (R242 step 1). -/
  | code
  /-- An unassigned command opcode, or cls or eng in disagreement (R254). -/
  | command
  /-- An unassigned cell or router op (R259, R164). -/
  | cell
  /-- No word of 4, 8 or 32 bytes. -/
  | length
  deriving DecidableEq, Repr

/-- Bits lo + n - 1 : lo of a scalar word. -/
abbrev fld (w : W32) (lo n : Nat) : BitVec n := w.extractLsb' lo n

/-- One bit of a scalar word. -/
abbrev bit (w : W32) (i : Nat) : Bool := fld w i 1 == 1#1

/-- The five-bit register field at lo. -/
abbrev rfld (w : W32) (lo : Nat) : Reg := fld w lo 5

/-- `ok i` when the field that must be zero is zero (R8). -/
def zeroed {n : Nat} (f : BitVec n) (i : Instr) : Except Reject Instr := if f = 0 then .ok i else .error .reserved

/-- Major 0x01 (R244). -/
def decodeAlu (w : W32) : Except Reject Instr :=
  match (fld w 0 9).toNat with
  | 0x000 => .ok (.add (rfld w 21) (rfld w 16) (rfld w 11) (bit w 10) (bit w 9))
  | 0x001 => .ok (.sub (rfld w 21) (rfld w 16) (rfld w 11) (bit w 10) (bit w 9))
  | 0x002 => .ok (.and (rfld w 21) (rfld w 16) (rfld w 11) (bit w 10) (bit w 9))
  | 0x003 => .ok (.or (rfld w 21) (rfld w 16) (rfld w 11) (bit w 10) (bit w 9))
  | 0x004 => .ok (.xor (rfld w 21) (rfld w 16) (rfld w 11) (bit w 10) (bit w 9))
  | 0x005 => .ok (.shl (rfld w 21) (rfld w 16) (rfld w 11) (bit w 10) (bit w 9))
  | 0x006 => .ok (.shr (rfld w 21) (rfld w 16) (rfld w 11) (bit w 10) (bit w 9))
  | 0x007 => .ok (.sra (rfld w 21) (rfld w 16) (rfld w 11) (bit w 10) (bit w 9))
  | 0x008 => .ok (.rot (rfld w 21) (rfld w 16) (rfld w 11) (bit w 10) (bit w 9))
  | 0x009 => .ok (.slt (rfld w 21) (rfld w 16) (rfld w 11) (bit w 10) (bit w 9))
  | 0x00A => .ok (.sltn (rfld w 21) (rfld w 16) (rfld w 11) (bit w 10) (bit w 9))
  | 0x00B => .ok (.min (rfld w 21) (rfld w 16) (rfld w 11) (bit w 10) (bit w 9))
  | 0x00C => .ok (.minn (rfld w 21) (rfld w 16) (rfld w 11) (bit w 10) (bit w 9))
  | 0x00D => .ok (.max (rfld w 21) (rfld w 16) (rfld w 11) (bit w 10) (bit w 9))
  | 0x00E => .ok (.maxn (rfld w 21) (rfld w 16) (rfld w 11) (bit w 10) (bit w 9))
  | 0x010 => zeroed (fld w 11 5 ++ fld w 9 1) (.clz (rfld w 21) (rfld w 16) (bit w 10))
  | 0x011 => zeroed (fld w 11 5 ++ fld w 9 1) (.ctz (rfld w 21) (rfld w 16) (bit w 10))
  | 0x012 => zeroed (fld w 11 5 ++ fld w 9 1) (.popc (rfld w 21) (rfld w 16) (bit w 10))
  | 0x014 => .ok (.bext (rfld w 21) (rfld w 16) (rfld w 11) (bit w 10) (bit w 9))
  | 0x015 => .ok (.bins (rfld w 21) (rfld w 16) (rfld w 11) (bit w 10) (bit w 9))
  | _ => .error .fn

/-- Major 0x02 (R244). -/
def decodeMulDiv (w : W32) : Except Reject Instr :=
  match (fld w 0 9).toNat with
  | 0x000 => .ok (.mul (rfld w 21) (rfld w 16) (rfld w 11) (bit w 10) (bit w 9))
  | 0x001 => .ok (.mulh (rfld w 21) (rfld w 16) (rfld w 11) (bit w 10) (bit w 9))
  | 0x002 => .ok (.mulhn (rfld w 21) (rfld w 16) (rfld w 11) (bit w 10) (bit w 9))
  | 0x004 => .ok (.div (rfld w 21) (rfld w 16) (rfld w 11) (bit w 10) (bit w 9))
  | 0x005 => .ok (.divn (rfld w 21) (rfld w 16) (rfld w 11) (bit w 10) (bit w 9))
  | 0x006 => .ok (.mod (rfld w 21) (rfld w 16) (rfld w 11) (bit w 10) (bit w 9))
  | 0x007 => .ok (.modn (rfld w 21) (rfld w 16) (rfld w 11) (bit w 10) (bit w 9))
  | _ => .error .fn

/-- Major 0x03 (R245). -/
def decodeAmo (w : W32) : Except Reject Instr :=
  if bit w 3 then .error .aop else
  match (fld w 5 4).toNat with
  | 0x0 => .ok (.amoAdd (rfld w 21) (rfld w 16) (rfld w 11) (bit w 10) (bit w 9) (bit w 4) (fld w 0 3))
  | 0x1 => .ok (.amoAnd (rfld w 21) (rfld w 16) (rfld w 11) (bit w 10) (bit w 9) (bit w 4) (fld w 0 3))
  | 0x2 => .ok (.amoOr (rfld w 21) (rfld w 16) (rfld w 11) (bit w 10) (bit w 9) (bit w 4) (fld w 0 3))
  | 0x3 => .ok (.amoXor (rfld w 21) (rfld w 16) (rfld w 11) (bit w 10) (bit w 9) (bit w 4) (fld w 0 3))
  | 0x4 => .ok (.amoMin (rfld w 21) (rfld w 16) (rfld w 11) (bit w 10) (bit w 9) (bit w 4) (fld w 0 3))
  | 0x5 => .ok (.amoMax (rfld w 21) (rfld w 16) (rfld w 11) (bit w 10) (bit w 9) (bit w 4) (fld w 0 3))
  | 0x6 => .ok (.amoMinn (rfld w 21) (rfld w 16) (rfld w 11) (bit w 10) (bit w 9) (bit w 4) (fld w 0 3))
  | 0x7 => .ok (.amoMaxn (rfld w 21) (rfld w 16) (rfld w 11) (bit w 10) (bit w 9) (bit w 4) (fld w 0 3))
  | 0x8 => .ok (.amoSwp (rfld w 21) (rfld w 16) (rfld w 11) (bit w 10) (bit w 9) (bit w 4) (fld w 0 3))
  | 0x9 => .ok (.amoCas (rfld w 21) (rfld w 16) (rfld w 11) (bit w 10) (bit w 9) (bit w 4) (fld w 0 3))
  | _ => .error .aop

/-- Major 0x20 (R248). -/
def decodeBranch (w : W32) : Except Reject Instr :=
  match (fld w 22 4).toNat with
  | 0x0 => .ok (.bEq (rfld w 17) (rfld w 12) (fld w 0 12))
  | 0x1 => .ok (.bNe (rfld w 17) (rfld w 12) (fld w 0 12))
  | 0x2 => .ok (.bLt (rfld w 17) (rfld w 12) (fld w 0 12))
  | 0x3 => .ok (.bGe (rfld w 17) (rfld w 12) (fld w 0 12))
  | 0x4 => .ok (.bLtn (rfld w 17) (rfld w 12) (fld w 0 12))
  | 0x5 => .ok (.bGen (rfld w 17) (rfld w 12) (fld w 0 12))
  | 0x6 => zeroed (fld w 12 5) (.bFull (rfld w 17) (fld w 0 12))
  | 0x7 => zeroed (fld w 12 5) (.bEmpty (rfld w 17) (fld w 0 12))
  | _ => .error .cond

/-- Major 0x28 (R249). -/
def decodeVec (w : W32) : Except Reject Instr :=
  match (fld w 19 7).toNat with
  | 0x01 => .ok (.vadd (rfld w 14) (rfld w 9) (bit w 8) (bit w 7) (fld w 3 4) (fld w 0 3))
  | 0x02 => .ok (.vsub (rfld w 14) (rfld w 9) (bit w 8) (bit w 7) (fld w 3 4) (fld w 0 3))
  | 0x03 => .ok (.vmul (rfld w 14) (rfld w 9) (bit w 8) (bit w 7) (fld w 3 4) (fld w 0 3))
  | 0x04 => .ok (.vfma (rfld w 14) (rfld w 9) (bit w 8) (bit w 7) (fld w 3 4) (fld w 0 3))
  | 0x05 => zeroed (fld w 0 3) (.vmin (rfld w 14) (rfld w 9) (bit w 8) (bit w 7) (fld w 3 4))
  | 0x06 => zeroed (fld w 0 3) (.vmax (rfld w 14) (rfld w 9) (bit w 8) (bit w 7) (fld w 3 4))
  | 0x07 => zeroed (fld w 0 3) (.vabs (rfld w 14) (rfld w 9) (bit w 8) (bit w 7) (fld w 3 4))
  | 0x08 => zeroed (fld w 0 3) (.vneg (rfld w 14) (rfld w 9) (bit w 8) (bit w 7) (fld w 3 4))
  | 0x09 => .ok (.vrcp (rfld w 14) (rfld w 9) (bit w 8) (bit w 7) (fld w 3 4) (fld w 0 3))
  | 0x0A => .ok (.vrsq (rfld w 14) (rfld w 9) (bit w 8) (bit w 7) (fld w 3 4) (fld w 0 3))
  | 0x0B => .ok (.vexp (rfld w 14) (rfld w 9) (bit w 8) (bit w 7) (fld w 3 4) (fld w 0 3))
  | 0x0C => .ok (.vlog2 (rfld w 14) (rfld w 9) (bit w 8) (bit w 7) (fld w 3 4) (fld w 0 3))
  | 0x0D => .ok (.vtanh (rfld w 14) (rfld w 9) (bit w 8) (bit w 7) (fld w 3 4) (fld w 0 3))
  | 0x0E => .ok (.vcvt (rfld w 14) (rfld w 9) (bit w 8) (bit w 7) (fld w 3 4) (fld w 0 3))
  | 0x0F => .ok (.vcvtS (rfld w 14) (rfld w 9) (bit w 8) (bit w 7) (fld w 3 4) (fld w 0 3))
  | 0x10 => .ok (.vcmp (rfld w 14) (rfld w 9) (bit w 8) (bit w 7) (fld w 3 4) (fld w 0 3))
  | 0x11 => zeroed (fld w 0 3) (.vsel (rfld w 14) (rfld w 9) (bit w 8) (bit w 7) (fld w 3 4))
  | 0x12 => zeroed (fld w 0 3) (.vshuf (rfld w 14) (rfld w 9) (bit w 8) (bit w 7) (fld w 3 4))
  | 0x13 => zeroed (fld w 0 3) (.vfill (rfld w 14) (rfld w 9) (bit w 8) (bit w 7) (fld w 3 4))
  | 0x14 => zeroed (fld w 0 3) (.vred (rfld w 14) (rfld w 9) (bit w 8) (bit w 7) (fld w 3 4))
  | 0x15 => zeroed (fld w 0 3) (.vscan (rfld w 14) (rfld w 9) (bit w 8) (bit w 7) (fld w 3 4))
  | 0x16 => zeroed (fld w 0 3) (.vdot (rfld w 14) (rfld w 9) (bit w 8) (bit w 7) (fld w 3 4))
  | _ => .error .vop

/-- Major 0x38 (R251): sop in 10:5, mod in 4:0. -/
def decodeSys (w : W32) : Except Reject Instr :=
  match (fld w 5 6).toNat with
  | 0x00 => zeroed (fld w 21 5 ++ fld w 16 5 ++ fld w 11 5 ++ fld w 0 5) .nop
  | 0x01 => zeroed (fld w 21 5 ++ fld w 16 5 ++ fld w 11 5 ++ fld w 0 5) .halt
  | 0x02 => zeroed (fld w 21 5 ++ fld w 16 5 ++ fld w 11 5) (.sys (fld w 0 5))
  | 0x03 => zeroed (fld w 21 5 ++ fld w 16 5 ++ fld w 11 5 ++ fld w 0 5) .tret
  | 0x04 => zeroed (fld w 21 5 ++ fld w 16 5 ++ fld w 11 5 ++ fld w 0 5) .isync
  | 0x05 => if bit w 3 then zeroed (fld w 11 15 ++ fld w 4 1) (.fenceRel (fld w 0 3))
      else zeroed (fld w 11 15 ++ fld w 4 1) (.fenceAcq (fld w 0 3))
  | 0x06 => zeroed (fld w 16 5 ++ fld w 11 5 ++ fld w 0 5) (.time (rfld w 21))
  | 0x07 => zeroed (fld w 21 5 ++ fld w 11 5 ++ fld w 0 5) (.timedgo (rfld w 16))
  | 0x08 => zeroed (fld w 16 5 ++ fld w 11 5 ++ fld w 0 5) (.vbusy (rfld w 21))
  | 0x09 => zeroed (fld w 21 5 ++ fld w 16 5 ++ fld w 11 5 ++ fld w 0 5) .vfence
  | 0x0A => zeroed (fld w 0 5) (.waitf (rfld w 21) (rfld w 16) (rfld w 11))
  | 0x0B => zeroed (fld w 16 5 ++ fld w 11 5 ++ fld w 0 5) (.waitpred (rfld w 21))
  | 0x0C => zeroed (fld w 21 5 ++ fld w 16 5 ++ fld w 11 5 ++ fld w 0 5) .hintsucc
  | 0x0D => zeroed (fld w 21 5 ++ fld w 16 5 ++ fld w 11 5 ++ fld w 0 5) .kend
  | 0x10 => zeroed (fld w 21 5 ++ fld w 11 5 ++ fld w 0 5) (.spawn (rfld w 16))
  | 0x11 => zeroed (fld w 21 5 ++ fld w 16 5 ++ fld w 11 5 ++ fld w 0 5) .retire
  | 0x12 => zeroed (fld w 11 5 ++ fld w 0 5) (.join (rfld w 21) (rfld w 16))
  | 0x13 => zeroed (fld w 0 5) (.launch (rfld w 21) (rfld w 16) (rfld w 11))
  | 0x14 => zeroed (fld w 21 5 ++ fld w 3 2) (.enq (rfld w 16) (rfld w 11) (fld w 0 3))
  | 0x15 => zeroed (fld w 0 5) (.amsg (rfld w 21) (rfld w 16) (rfld w 11))
  | 0x16 => zeroed (fld w 21 5 ++ fld w 11 5 ++ fld w 0 5) (.marke (rfld w 16))
  | 0x17 => zeroed (fld w 21 5) (.rmov (rfld w 16) (rfld w 11) (fld w 0 5))
  | 0x18 => zeroed (fld w 16 5 ++ fld w 11 5 ++ fld w 0 5) (.fnew (rfld w 21))
  | 0x19 => zeroed (fld w 21 5 ++ fld w 0 5) (.fset (rfld w 16) (rfld w 11))
  | 0x1A => zeroed (fld w 21 5 ++ fld w 0 5) (.fsetF (rfld w 16) (rfld w 11))
  | 0x1B => zeroed (fld w 11 5 ++ fld w 0 5) (.fget (rfld w 21) (rfld w 16))
  | 0x1C => zeroed (fld w 11 5 ++ fld w 0 5) (.fwait (rfld w 21) (rfld w 16))
  | 0x1D => zeroed (fld w 21 5 ++ fld w 11 5 ++ fld w 0 5) (.ffree (rfld w 16))
  | 0x1E => zeroed (fld w 21 5 ++ fld w 0 5) (.binit (rfld w 16) (rfld w 11))
  | 0x1F => zeroed (fld w 11 5 ++ fld w 0 5) (.arrive (rfld w 21) (rfld w 16))
  | 0x20 => zeroed (fld w 0 5) (.bwait (rfld w 21) (rfld w 16) (rfld w 11))
  | _ => .error .sop

/-- Major 0x30 (R252). -/
def decodeK (w : W32) : Except Reject Instr :=
  match (fld w 0 4).toNat with
  | 0x0 => zeroed (fld w 16 5) (.krd (rfld w 21) (fld w 4 12))
  | 0x1 => zeroed (fld w 21 5) (.kwr (rfld w 16) (fld w 4 12))
  | _ => .error .kop

/-- The layout of a scalar word by its major opcode (R243). -/
def decodeShape (w : W32) : Except Reject Instr :=
  match (fld w 26 6).toNat with
  | 0x01 => decodeAlu w
  | 0x02 => decodeMulDiv w
  | 0x03 => decodeAmo w
  | 0x08 => .ok (.addi (rfld w 21) (rfld w 16) (bit w 15) (fld w 0 15))
  | 0x09 => .ok (.andi (rfld w 21) (rfld w 16) (bit w 15) (fld w 0 15))
  | 0x0A => .ok (.ori (rfld w 21) (rfld w 16) (bit w 15) (fld w 0 15))
  | 0x0B => .ok (.xori (rfld w 21) (rfld w 16) (bit w 15) (fld w 0 15))
  | 0x0D => zeroed (fld w 6 9) (.shli (rfld w 21) (rfld w 16) (bit w 15) (fld w 0 6))
  | 0x0E => zeroed (fld w 6 9) (.shri (rfld w 21) (rfld w 16) (bit w 15) (fld w 0 6))
  | 0x0F => zeroed (fld w 6 9) (.srai (rfld w 21) (rfld w 16) (bit w 15) (fld w 0 6))
  | 0x0C => .ok (.slti (rfld w 21) (rfld w 16) (bit w 15) (fld w 0 15))
  | 0x10 => .ok (.lhi (rfld w 21) (rfld w 16) (bit w 15) (fld w 0 15))
  | 0x11 => zeroed (fld w 15 6) (.pcrel (rfld w 21) (fld w 0 15))
  | 0x12 => .ok (.jmpr (rfld w 21) (rfld w 16) (bit w 15) (fld w 0 15))
  | 0x18 => .ok (.ld (rfld w 21) (rfld w 16) (bit w 15) (fld w 12 3) (fld w 9 3) (bit w 8) (fld w 0 8))
  | 0x19 => if bit w 14 then .error .code
      else .ok (.st (rfld w 21) (rfld w 16) (bit w 15) (fld w 12 2) (fld w 9 3) (bit w 8) (fld w 0 8))
  | 0x1A => if bit w 14 then .error .code
      else zeroed (fld w 8 1) (.sta (rfld w 21) (rfld w 16) (bit w 15) (fld w 12 2) (fld w 9 3) (fld w 0 8))
  | 0x1B => if fld w 12 3 ≠ 3 then .error .code
      else zeroed (fld w 8 4) (.ldfe (rfld w 21) (rfld w 16) (bit w 15) (fld w 0 8))
  | 0x1C => if fld w 12 3 ≠ 3 then .error .code
      else zeroed (fld w 8 4) (.stfe (rfld w 21) (rfld w 16) (bit w 15) (fld w 0 8))
  | 0x20 => decodeBranch w
  | 0x21 => .ok (.jmp (fld w 0 26))
  | 0x22 => .ok (.jmpl (fld w 0 26))
  | 0x28 => decodeVec w
  | 0x30 => decodeK w
  | 0x38 => decodeSys w
  | _ => .error .major

/-- The instruction of a scalar word, or the name of what is wrong with it. -/
def decodeWord (w : W32) : Except Reject Instr :=
  match decodeShape w with
  | .ok i => if i.wf then .ok i else .error .code
  | .error r => .error r

/-- The command of a command word (R254). LGRP's two effects share opcode 0x22: the v bit of the image that the
command points to chooses between them (21_ref_d_l.md R354), so `enrol` says what the image holds. -/
def decodeCmd (enrol : Bool) (c : Cmd) : Except Reject Instr :=
  match c.head.toNat with
  | 0x0100 => .ok (.mma c)
  | 0x0200 => .ok (.mld c)
  | 0x0300 => .ok (.mst c)
  | 0x0400 => .ok (.mcvt c)
  | 0x0500 => .ok (.mzero c)
  | 0x0600 => .ok (.mring c)
  | 0x1011 => .ok (.xcopy c)
  | 0x1111 => .ok (.xfill c)
  | 0x1211 => .ok (.xgath c)
  | 0x1311 => .ok (.xscat c)
  | 0x1411 => .ok (.xswz c)
  | 0x2022 => .ok (.ltx c)
  | 0x2122 => .ok (.lrx c)
  | 0x2222 => .ok (if enrol then .lgrpEnrol c else .lgrpDissolve c)
  | 0x2322 => .ok (.lgrpRd c)
  | 0x3032 => .ok (.ered c)
  | 0x4042 => .ok (.cred c)
  | 0x5052 => .ok (.gbind c)
  | 0x5152 => .ok (.gacc c)
  | 0x5252 => .ok (.gunbind c)
  | _ => .error .command

/-- The operator of a PE, LUT cell or generator word (R259). -/
def decodeCell (w : W64) : Except Reject Instr :=
  match (cellOp w).toNat with
  | 0x01 => .ok (.plut w)
  | 0x02 => .ok (.pag w)
  | 0x10 => .ok (.padd w)
  | 0x11 => .ok (.psub w)
  | 0x12 => .ok (.pmul w)
  | 0x13 => .ok (.pfma w)
  | 0x14 => .ok (.pmin w)
  | 0x15 => .ok (.pmax w)
  | 0x16 => .ok (.pcmp w)
  | 0x17 => .ok (.plog w)
  | 0x18 => .ok (.pshf w)
  | 0x19 => .ok (.pcvt w)
  | 0x1A => .ok (.pacc w)
  | 0x20 => .ok (.pld w)
  | 0x21 => .ok (.pst w)
  | 0x30 => .ok (.ccall w)
  | 0x31 => .ok (.cret w)
  | 0x32 => .ok (.creq w)
  | _ => .error .cell

/-- The operator of a router word (R164). -/
def decodeRouter (w : W64) : Except Reject Instr :=
  match (routerOp w).toNat with
  | 0 => .ok (.routerPass w)
  | 1 => .ok (.steer w)
  | 2 => .ok (.carry w)
  | 3 => .ok (.invar w)
  | 4 => .ok (.merge w)
  | _ => .error .cell

/-- Little-endian bytes of a word (00_scope.md R3). -/
def leBytes (n : Nat) (v : Nat) : List Byte :=
  match n with
  | 0 => []
  | k + 1 => BitVec.ofNat 8 v :: leBytes k (v / 256)

/-- The number that little-endian bytes hold (R3). -/
def leNat : List Byte → Nat
  | [] => 0
  | b :: bs => b.toNat + 256 * leNat bs

/-- The four 64-bit words of 32 bytes (R254). -/
def cmdOfBytes (bs : List Byte) : Cmd :=
  ⟨BitVec.ofNat 64 (leNat (bs.take 8)), BitVec.ofNat 64 (leNat ((bs.drop 8).take 8)),
   BitVec.ofNat 64 (leNat ((bs.drop 16).take 8)), BitVec.ofNat 64 (leNat ((bs.drop 24).take 8))⟩

/-- The decoder, total on any bytes: 4 bytes are a scalar word, 32 bytes a command word, 8 bytes a fabric
word whose op byte is nonzero (a cell word) or zero (a router word). -/
def decode (bs : List Byte) : Except Reject Instr :=
  match bs.length with
  | 4 => decodeWord (BitVec.ofNat 32 (leNat bs))
  | 8 => let w : W64 := BitVec.ofNat 64 (leNat bs)
         if cellOp w = 0 then decodeRouter w else decodeCell w
  | 32 => decodeCmd true (cmdOfBytes bs)
  | _ => .error .length

/-- The host's question: the instruction that `decode` reads from a row's bits, laid out as the hardware stores
them, bit 0 being the least significant bit of the first byte. -/
def decodeTableWord (nbits w : Nat) : Option Instr :=
  let nbytes := if nbits ≤ 32 then 4 else if nbits ≤ 64 then 8 else 32
  match decode (leBytes nbytes w) with
  | .ok i => some i
  | .error _ => none

/-- A format word: d, a, b, wa, wb, fn (R239). -/
abbrev encA (major : BitVec 6) (d a b : Reg) (wa wb : Bool) (fn : BitVec 9) : W32 :=
  major ++ d ++ a ++ b ++ BitVec.ofBool wa ++ BitVec.ofBool wb ++ fn

/-- I format word: d, a, wa, imm (R239). -/
abbrev encI (major : BitVec 6) (d a : Reg) (wa : Bool) (imm : BitVec 15) : W32 :=
  major ++ d ++ a ++ BitVec.ofBool wa ++ imm

/-- M format word: t, a, wa, sz, sc, ord, imm (R239). -/
abbrev encM (major : BitVec 6) (t a : Reg) (wa : Bool) (sz sc : BitVec 3) (ord : Bool) (imm : BitVec 8) : W32 :=
  major ++ t ++ a ++ BitVec.ofBool wa ++ sz ++ sc ++ BitVec.ofBool ord ++ imm

/-- B format word: cc, a, b, off (R239). -/
abbrev encB (cc : BitVec 4) (a b : Reg) (off : BitVec 12) : W32 := 0x20#6 ++ cc ++ a ++ b ++ off

/-- V format word: vop, a, b, wa, wb, fmt, flg (R239). -/
abbrev encV (vop : BitVec 7) (a b : Reg) (wa wb : Bool) (fmt : BitVec 4) (flg : BitVec 3) : W32 :=
  0x28#6 ++ vop ++ a ++ b ++ BitVec.ofBool wa ++ BitVec.ofBool wb ++ fmt ++ flg

/-- S format word: d, a, b, sop, mod (R239, R251). -/
abbrev encS (d a b : Reg) (sop : BitVec 6) (mod : BitVec 5) : W32 := 0x38#6 ++ d ++ a ++ b ++ sop ++ mod

/-- The aop, wide, reserved and sc bits of an AMO's fn (R245). -/
abbrev encAop (aop : BitVec 4) (wide : Bool) (sc : BitVec 3) : BitVec 9 := aop ++ BitVec.ofBool wide ++ 0#1 ++ sc

/-- The word of a scalar instruction, from the field tables of R239 to R253; 0, which is no instruction (R243),
for the rows that have no 32-bit encoding. -/
def encode : Instr → W32
  | .add d a b wa wb => encA 0x01 d a b wa wb 0x000
  | .addi d a wa imm => encI 0x08 d a wa imm
  | .sub d a b wa wb => encA 0x01 d a b wa wb 0x001
  | .and d a b wa wb => encA 0x01 d a b wa wb 0x002
  | .andi d a wa imm => encI 0x09 d a wa imm
  | .or d a b wa wb => encA 0x01 d a b wa wb 0x003
  | .ori d a wa imm => encI 0x0A d a wa imm
  | .xor d a b wa wb => encA 0x01 d a b wa wb 0x004
  | .xori d a wa imm => encI 0x0B d a wa imm
  | .shl d a b wa wb => encA 0x01 d a b wa wb 0x005
  | .shli d a wa imm => encI 0x0D d a wa (0#9 ++ imm)
  | .shr d a b wa wb => encA 0x01 d a b wa wb 0x006
  | .shri d a wa imm => encI 0x0E d a wa (0#9 ++ imm)
  | .sra d a b wa wb => encA 0x01 d a b wa wb 0x007
  | .srai d a wa imm => encI 0x0F d a wa (0#9 ++ imm)
  | .rot d a b wa wb => encA 0x01 d a b wa wb 0x008
  | .slt d a b wa wb => encA 0x01 d a b wa wb 0x009
  | .sltn d a b wa wb => encA 0x01 d a b wa wb 0x00A
  | .slti d a wa imm => encI 0x0C d a wa imm
  | .min d a b wa wb => encA 0x01 d a b wa wb 0x00B
  | .minn d a b wa wb => encA 0x01 d a b wa wb 0x00C
  | .max d a b wa wb => encA 0x01 d a b wa wb 0x00D
  | .maxn d a b wa wb => encA 0x01 d a b wa wb 0x00E
  | .clz d a wa => encA 0x01 d a 0 wa false 0x010
  | .ctz d a wa => encA 0x01 d a 0 wa false 0x011
  | .popc d a wa => encA 0x01 d a 0 wa false 0x012
  | .bext d a b wa wb => encA 0x01 d a b wa wb 0x014
  | .bins d a b wa wb => encA 0x01 d a b wa wb 0x015
  | .mul d a b wa wb => encA 0x02 d a b wa wb 0x000
  | .mulh d a b wa wb => encA 0x02 d a b wa wb 0x001
  | .mulhn d a b wa wb => encA 0x02 d a b wa wb 0x002
  | .div d a b wa wb => encA 0x02 d a b wa wb 0x004
  | .divn d a b wa wb => encA 0x02 d a b wa wb 0x005
  | .mod d a b wa wb => encA 0x02 d a b wa wb 0x006
  | .modn d a b wa wb => encA 0x02 d a b wa wb 0x007
  | .amoAdd d a b wa wb wide sc => encA 0x03 d a b wa wb (encAop 0x0 wide sc)
  | .amoAnd d a b wa wb wide sc => encA 0x03 d a b wa wb (encAop 0x1 wide sc)
  | .amoOr d a b wa wb wide sc => encA 0x03 d a b wa wb (encAop 0x2 wide sc)
  | .amoXor d a b wa wb wide sc => encA 0x03 d a b wa wb (encAop 0x3 wide sc)
  | .amoMin d a b wa wb wide sc => encA 0x03 d a b wa wb (encAop 0x4 wide sc)
  | .amoMax d a b wa wb wide sc => encA 0x03 d a b wa wb (encAop 0x5 wide sc)
  | .amoMinn d a b wa wb wide sc => encA 0x03 d a b wa wb (encAop 0x6 wide sc)
  | .amoMaxn d a b wa wb wide sc => encA 0x03 d a b wa wb (encAop 0x7 wide sc)
  | .amoSwp d a b wa wb wide sc => encA 0x03 d a b wa wb (encAop 0x8 wide sc)
  | .amoCas d a b wa wb wide sc => encA 0x03 d a b wa wb (encAop 0x9 wide sc)
  | .lhi d a wa imm => encI 0x10 d a wa imm
  | .pcrel d imm => encI 0x11 d 0 false imm
  | .jmpr d a wa imm => encI 0x12 d a wa imm
  | .ld t a wa sz sc ord imm => encM 0x18 t a wa sz sc ord imm
  | .st t a wa sz sc ord imm => encM 0x19 t a wa (0#1 ++ sz) sc ord imm
  | .sta t a wa sz sc imm => encM 0x1A t a wa (0#1 ++ sz) sc false imm
  | .ldfe t a wa imm => encM 0x1B t a wa 3 0 false imm
  | .stfe t a wa imm => encM 0x1C t a wa 3 0 false imm
  | .bEq a b off => encB 0x0 a b off
  | .bNe a b off => encB 0x1 a b off
  | .bLt a b off => encB 0x2 a b off
  | .bGe a b off => encB 0x3 a b off
  | .bLtn a b off => encB 0x4 a b off
  | .bGen a b off => encB 0x5 a b off
  | .bFull a off => encB 0x6 a 0 off
  | .bEmpty a off => encB 0x7 a 0 off
  | .jmp off => 0x21#6 ++ off
  | .jmpl off => 0x22#6 ++ off
  | .vadd a b wa wb fmt flg => encV 0x01 a b wa wb fmt flg
  | .vsub a b wa wb fmt flg => encV 0x02 a b wa wb fmt flg
  | .vmul a b wa wb fmt flg => encV 0x03 a b wa wb fmt flg
  | .vfma a b wa wb fmt flg => encV 0x04 a b wa wb fmt flg
  | .vmin a b wa wb fmt => encV 0x05 a b wa wb fmt 0
  | .vmax a b wa wb fmt => encV 0x06 a b wa wb fmt 0
  | .vabs a b wa wb fmt => encV 0x07 a b wa wb fmt 0
  | .vneg a b wa wb fmt => encV 0x08 a b wa wb fmt 0
  | .vrcp a b wa wb fmt flg => encV 0x09 a b wa wb fmt flg
  | .vrsq a b wa wb fmt flg => encV 0x0A a b wa wb fmt flg
  | .vexp a b wa wb fmt flg => encV 0x0B a b wa wb fmt flg
  | .vlog2 a b wa wb fmt flg => encV 0x0C a b wa wb fmt flg
  | .vtanh a b wa wb fmt flg => encV 0x0D a b wa wb fmt flg
  | .vcvt a b wa wb fmt flg => encV 0x0E a b wa wb fmt flg
  | .vcvtS a b wa wb fmt flg => encV 0x0F a b wa wb fmt flg
  | .vcmp a b wa wb fmt flg => encV 0x10 a b wa wb fmt flg
  | .vsel a b wa wb fmt => encV 0x11 a b wa wb fmt 0
  | .vshuf a b wa wb fmt => encV 0x12 a b wa wb fmt 0
  | .vfill a b wa wb fmt => encV 0x13 a b wa wb fmt 0
  | .vred a b wa wb fmt => encV 0x14 a b wa wb fmt 0
  | .vscan a b wa wb fmt => encV 0x15 a b wa wb fmt 0
  | .vdot a b wa wb fmt => encV 0x16 a b wa wb fmt 0
  | .vectorChunk _ => 0
  | .krd d kreg => 0x30#6 ++ d ++ 0#5 ++ kreg ++ 0#4
  | .kwr a kreg => 0x30#6 ++ 0#5 ++ a ++ kreg ++ 1#4
  | .nop => encS 0 0 0 0x00 0
  | .halt => encS 0 0 0 0x01 0
  | .sys svc => encS 0 0 0 0x02 svc
  | .tret => encS 0 0 0 0x03 0
  | .isync => encS 0 0 0 0x04 0
  | .fenceAcq sc => encS 0 0 0 0x05 (0#2 ++ sc)
  | .fenceRel sc => encS 0 0 0 0x05 (1#2 ++ sc)
  | .time d => encS d 0 0 0x06 0
  | .timedgo a => encS 0 a 0 0x07 0
  | .timedgoRelease _ => 0
  | .vbusy d => encS d 0 0 0x08 0
  | .vfence => encS 0 0 0 0x09 0
  | .waitf d a b => encS d a b 0x0A 0
  | .waitpred d => encS d 0 0 0x0B 0
  | .hintsucc => encS 0 0 0 0x0C 0
  | .kend => encS 0 0 0 0x0D 0
  | .spawn a => encS 0 a 0 0x10 0
  | .retire => encS 0 0 0 0x11 0
  | .join d a => encS d a 0 0x12 0
  | .launch d a b => encS d a b 0x13 0
  | .enq a b sc => encS 0 a b 0x14 (0#2 ++ sc)
  | .amsg d a b => encS d a b 0x15 0
  | .marke a => encS 0 a 0 0x16 0
  | .rmov a b n => encS 0 a b 0x17 n
  | .fnew d => encS d 0 0 0x18 0
  | .fset a b => encS 0 a b 0x19 0
  | .fsetF a b => encS 0 a b 0x1A 0
  | .fget d a => encS d a 0 0x1B 0
  | .fwait d a => encS d a 0 0x1C 0
  | .ffree a => encS 0 a 0 0x1D 0
  | .binit a b => encS 0 a b 0x1E 0
  | .arrive d a => encS d a 0 0x1F 0
  | .bwait d a b => encS d a b 0x20 0
  | .waitLimitTrap _ => 0
  | .producerArrive _ _ => 0
  | .rmovArrive _ _ => 0
  | .storeAck _ _ => 0
  | .homeAccess _ _ => 0
  | .remoteWriteUnbacked _ _ => 0
  | .remoteAccessRefused _ _ => 0
  | .icacheFill _ => 0
  | .translationWalk _ => 0
  | .strandStart _ => 0
  | .queueRefill _ => 0
  | .heldRecordPush _ => 0
  | .recordPromote _ => 0
  | .launchDoorbell _ _ => 0
  | .launchEntryTake _ => 0
  | .podSheafAccept _ => 0
  | .nodePlace _ _ => 0
  | .nodeReserve _ _ => 0
  | .residencyPlace _ _ => 0
  | .edgeGraphBind _ _ => 0
  | .groupBindingPlace _ _ => 0
  | .nodeStart _ _ => 0
  | .nodeComplete _ _ => 0
  | .sheafComplete _ => 0
  | .viewEosSend _ => 0
  | .amsgDeliver _ => 0
  | .phaseWake _ _ => 0
  | .trunkSleep _ _ => 0
  | .mma _ => 0
  | .mmaStep _ => 0
  | .ringTileArrive _ => 0
  | .mld _ => 0
  | .mst _ => 0
  | .mcvt _ => 0
  | .mzero _ => 0
  | .mring _ => 0
  | .xcopy _ => 0
  | .xfill _ => 0
  | .xgath _ => 0
  | .xscat _ => 0
  | .xswz _ => 0
  | .ltx _ => 0
  | .lrx _ => 0
  | .lgrpEnrol _ => 0
  | .lgrpDissolve _ => 0
  | .lgrpRd _ => 0
  | .ered _ => 0
  | .cred _ => 0
  | .gbind _ => 0
  | .gacc _ => 0
  | .gunbind _ => 0
  | .blockSend _ => 0
  | .demandUpdate _ _ => 0
  | .slotFill _ _ _ => 0
  | .blockResend _ => 0
  | .groupStall _ => 0
  | .ringHandoff _ => 0
  | .krxfWrite _ _ => 0
  | .redRouterAdd _ _ => 0
  | .credDistribute _ => 0
  | .credResultFlit _ _ => 0
  | .viewAccess _ _ => 0
  | .accumulateWrite _ _ => 0
  | .configWordLoad _ => 0
  | .configStep _ => 0
  | .requestToken _ _ => 0
  | .calleeRest _ => 0
  | .creqPlace _ => 0
  | .plut _ => 0
  | .pag _ => 0
  | .padd _ => 0
  | .psub _ => 0
  | .pmul _ => 0
  | .pfma _ => 0
  | .pmin _ => 0
  | .pmax _ => 0
  | .pcmp _ => 0
  | .plog _ => 0
  | .pshf _ => 0
  | .pcvt _ => 0
  | .pacc _ => 0
  | .pld _ => 0
  | .pst _ => 0
  | .ccall _ => 0
  | .cret _ => 0
  | .creq _ => 0
  | .routerPass _ => 0
  | .steer _ => 0
  | .carry _ => 0
  | .invar _ => 0
  | .merge _ => 0
  | .kpresWrite _ _ => 0
  | .krseedWrite _ _ => 0
  | .kqseedWrite _ _ => 0
  | .kxinvPage _ _ => 0
  | .kxinvAsid _ _ => 0
  | .kxinvAll _ _ => 0
  | .ksvcKill _ _ => 0
  | .ksvcRetry _ _ => 0
  | .ksvcContinue _ _ => 0
  | .ksvcPreempt _ _ => 0
  | .ksvcRestore _ _ => 0
  | .ksvcCheckpoint _ _ => 0
  | .ksvcKillAll _ _ => 0
  | .preemptQuiesce _ _ => 0
  | .awnReceive _ _ => 0
  | .checkpointSave _ => 0
  | .watchdogExpire _ => 0
  | .eventPost _ _ => 0
  | .grainInterval _ => 0
  | .tradingPeriod _ => 0
  | .grantReceive _ => 0
  | .throttleEntry _ _ => 0
  | .throttleExit _ => 0
  | .kfclkWrite _ _ => 0
  | .hopComplete _ => 0
  | .hopAbandon _ => 0
  | .hopRetry _ => 0
  | .fieldHot _ => 0
  | .fieldCool _ => 0
  | .nodeMigrate _ _ => 0
  | .budgetDecay _ => 0
  | .timeFlit _ => 0
  | .flitReceive _ => 0
  | .flitReplay _ => 0
  | .linkDown _ => 0
  | .wavelengthSteer _ _ => 0
  | .keyRolloverRequest _ => 0
  | .keyRollover _ => 0
  | .keySlotFree _ => 0
  | .moduleReset _ => 0
  | .bootStageVerify _ => 0
  | .krcvcGo _ _ => 0
  | .recoveryLoadDone _ => 0
  | .katnWrite _ _ => 0
  | .attestReportDone _ => 0
  | .podFormation _ _ _ => 0
  | .linkUp _ => 0
  | .ksvqhWrite _ _ => 0
  | .ktrbWrite _ _ => 0
  | .hostWindowWrite _ _ _ _ => 0
  | .hbmScrub _ => 0

end Sys2Proof
end

