-- ==== Sys2Proof/Config.lean ====
section
/-! DEFINITION. What one chip fixes and what the spec leaves open. An opaque constant here has no body: a
statement that holds of the model holds for every value of it. Each is named in the assumption log. -/

namespace Sys2Proof

/-- Who moves next, and on what. -/
inductive Act where
  /-- A control core issues the instruction at its pc (10_scheduling.md R202). -/
  | issue (core : Nat)
  /-- An engine queue acts on the command at its head (13_encodings.md R255). -/
  | engine (queue : Nat)
  /-- A fabric cell, router or generator fires (08_fabric.md R158). -/
  | fabric (res site : Nat)
  /-- A machine event of the opcode table takes place. -/
  | event (i : Instr)
  /-- The quad's instruction cache loses a line (10_scheduling.md R202: its replacement is not described). -/
  | evict (quad line : Nat)
  /-- An uncorrectable error marks a memory word poisoned (04_memory.md R83). -/
  | upset (word : Nat)
  /-- An uncorrectable error in a row of an accumulator store (R83). -/
  | upsetRow (core row : Nat)
  /-- An uncorrectable error in a line of an instruction cache (R83). -/
  | upsetLine (quad line : Nat)
  /-- A correctable error is met on an access to a physical address, corrected and counted (R83). -/
  | corrected (pa : Nat)
  /-- A read of a core performs ahead of its load's place in program order (05_ordering.md R98, R100, R109). -/
  | early (core pa size : Nat)
  /-- A correctable error is met in the cell memory or husk storage of an island, corrected and counted (R83). -/
  | correctedIsland (island : Nat)
  /-- An uncorrectable error in what an island holds of a plane of a residency (R83): kind 0 token `i` of the on-chip part of channel `at_`,
  1 those latched or waiting at copy `at_`, 2 the value that router `at_` holds, 3 the sum of copy `at_`. -/
  | upsetPlane (res depth kind at_ i : Nat)
  /-- A host writes bytes of device memory (12_power.md R230). -/
  | hostWrite (port pa : Nat) (bs : List Byte)
  /-- A host reads `size` bytes of device memory (12_power.md R230). -/
  | hostLoad (pa size : Nat)
  /-- A host reads `size` bytes at an offset of a port's register window (12_power.md R231). -/
  | hostRead (wafer port off size : Nat)
  /-- A throttle source changes: 0 the alarm pin, 1 over-current, 2 + f the droop of field f (12_power.md R223). -/
  | source (wafer src : Nat) (on : Bool)
  deriving DecidableEq, Repr, Inhabited

/-- One move of the machine: `dt` nanoseconds pass, then `act` takes place (log 1). -/
structure Move where
  dt : Nat
  act : Act
  deriving DecidableEq, Repr, Inhabited

/-- The header of a Fareno flit (12_power.md R233). -/
structure FlitHdr where
  seq : W32
  ack : W32
  kidx : Bool
  type : BitVec 7
  cred : BitVec 24
  deriving DecidableEq, Repr, Inhabited

namespace Config

/-- The move that comes next when the agenda is empty: any interleaving (log 1). -/
opaque schedule : Nat → Move

/-- VEXP and VLOG2 and VTANH at FP32 where the spec gives an accuracy only, by 8 × vop + flg and operand
(23_ref_t_z.md R400; log 12). -/
opaque approx : Nat → W32 → W32

/-- MCVT activations 3 to 5 at FP32, by act and operand (22_ref_m_s.md R363; log 12). -/
opaque activation : Nat → W32 → W32

/-- Energy in picojoules that a field spent in an interval, by 2 × field for the active and 2 × field + 1 for the idle part, and
move (12_power.md R222; log 13). -/
opaque energy : Nat → Nat → Nat

/-- The temperature of a field in degrees (12_power.md R229; log 13). -/
opaque temperature : Nat → Nat → BitVec 8

/-- Values read where the spec says unspecified (00_scope.md R9; log 14). -/
opaque unspecified : Nat → W64

/-- What a read of a live residency's rings finds, by move and address (04_memory.md R92; log 38). -/
opaque ringByte : Nat → Nat → Byte

/-- Whether the trap for a reserved bit of a vector command's values shows the operand, as 23_ref_t_z.md R396 says, or the instruction word, as
13_encodings.md R261 and 10_scheduling.md R204 say (log 44). -/
opaque rsvdShowsOperand : Bool

/-- What the word of a ring in which an uncorrectable error is met holds, by move and address: the depth of the plane, and the kind, place and
number of the item (04_memory.md R83, R92; log 38). -/
opaque ringHolds : Nat → Nat → Nat × Nat × Nat × Nat

/-- Bytes of the spill rings of a residency of height h (04_memory.md R92; log 38). -/
opaque spillBytes : Nat → BitVec 32

/-- Whether a host write falls on a trace page (04_memory.md R90: the host's accesses name physical addresses; log 24). -/
opaque hostTrace : Nat → Bool

/-- Where FNEW begins to look for a free entry of its field (02_execution.md R46: any free entry; log 17). -/
opaque freeEntry : Nat → Nat

/-- The image that the boot ROM, or stage 1, of a wafer finds at a move (12_power.md R236; log 15). -/
opaque bootImage : Nat → Nat → Nat

/-- The image that a host holds in a range of its memory at a move, by move, bus address and length (12_power.md R237; log 15). -/
opaque hostImage : Nat → Nat → Nat → Nat

/-- Whether both signatures of an image verify: 0 yes, 1 ECDSA fails, 2 HSS fails, 4 format (12_power.md R236; log 15). -/
opaque imageFault : Nat → Nat

/-- The version an image carries (12_power.md R236; log 15). -/
opaque imageVersion : Nat → BitVec 32

/-- SHA-384 of an image, byte by byte (12_power.md R238; log 15). -/
opaque imageHash : Nat → Nat → Byte

/-- The version floor in the fuses (12_power.md R236; log 15). -/
opaque versionFloor : Nat → BitVec 32

/-- The fused serial number of a wafer, byte by byte (12_power.md R238; log 15). -/
opaque serial : Nat → Nat → Byte

/-- The ECDSA signature, and behind it the HSS signature, that a wafer makes for its n-th report over the bytes given, byte by byte
(12_power.md R238; log 15). -/
opaque signature : Nat → Nat → List Byte → Nat → Byte

/-- Whether the HSS key of a wafer has signatures left for the n-th report (12_power.md R238; log 15). -/
opaque signaturesLeft : Nat → Nat → Bool

/-- The next result flit of the switch: CRED group, round, element offset and 56 elements (07_networks.md R156; log 16). -/
opaque resultFlit : Nat → (Nat × Nat × Nat × List W32)

/-- The header of a Fareno flit as received, by move (12_power.md R233; log 16). -/
opaque flit : Nat → FlitHdr

/-- Whether the tag of the flit received at a move checks under the key of a slot and a nonce (12_power.md R233; log 16). -/
opaque tagOk : Nat → Bool → BitVec 96 → Bool

/-- Which unacknowledged flit a link replays, its type and the receive credits it returns (12_power.md R233; log 16). -/
opaque replay : Nat → (Nat × BitVec 7 × BitVec 24)

/-- How far above the numbers accepted so far the number lies from which a peer seals under its new key (12_power.md R235; log 16). -/
opaque peerKey : Nat → Nat

/-- Traffic of a link at a move: flits sent since the last, and flits that wait (12_power.md R233, R234; log 16). -/
opaque linkLoad : Nat → Nat → Nat × Nat

/-- What a scrub of a controller's HBM finds: correctable errors, and the offset of a word with an uncorrectable one
(04_memory.md R83; log 47). -/
opaque scrub : Nat → (Nat × Option Nat)

/-- Whether the residue check of an MMA finds the array's products wrong, by move (06_matrix.md R136; log 25). -/
opaque residueFault : Nat → Bool

end Config

end Sys2Proof
end

