-- ==== Sys2Proof/Machine/State.lean ====
section
/-! DEFINITION. The state of a pod of W8 modules as plain data, and its value after reset. Collections are sparse
sorted lists whose unlisted entries read as the reset record. Agents are named as the spec names them: a core by its
core name (01_machine.md R17), a quad by its core 0's name div 4, a field by wafer × 128 + f, a controller or link by
wafer × 64 + number. -/

namespace Sys2Proof.Machine

/-- A sparse collection: keys strictly rising. -/
abbrev Map (α : Type) := List (Nat × α)

/-! ## Numbers and tokens -/

/-- A number before rounding (03_numbers.md): NaN, an infinity, or (−1)^neg × m × 2^e. -/
inductive Fp where
  | nan
  | inf (neg : Bool)
  | fin (neg : Bool) (m : Nat) (e : Int)
  deriving DecidableEq, Repr

/-- A fabric token (08_fabric.md R157): data with its poison mark, or end-of-stream. A data token carries the scale of
its burst (R64), the rel mark of its edge (R115), and a mark of the access to its edge slot that it stems from, 0 for none
(09_edge.md R182; log 109). -/
inductive Tok where
  | data (v : W64) (poison : Bool) (scale : BitVec 16) (rel : Bool) (acc : Nat)
  | eos
  deriving DecidableEq, Repr

/-! ## Nodes, strands and cores -/

/-- A node of a live sheaf: the sheaf's key (wafer × 4096 + partition × 64 + place) and the node number
(10_scheduling.md R189). -/
structure NodeRef where
  sheaf : Nat
  node : Nat
  deriving DecidableEq, Repr

/-- The operation of an AMO (13_encodings.md R245). -/
inductive AmoOp where
  | add | and | or | xor | min | max | minn | maxn | swp | cas
  deriving DecidableEq, Repr

/-- The kinds of access of a control core's load-store port (05_ordering.md R94), and the read of a word of a continuation record that a
SPAWN makes through an edge window (02_execution.md R40; 09_edge.md R180). -/
inductive AccKind where
  | ld | st | sta | amo (op : AmoOp) | ldfe | stfe | waitf | record
  deriving DecidableEq, Repr

/-- Where an access stands: issued; waiting at its home (LDFE on an empty word, WAITF on an equal one), with its place
in the home's order; in an edge graph, or come back from one poisoned; performed with a value; refused by a remote home (22_ref_m_s.md
R388). -/
inductive Phase where
  | issued
  | waiting (stamp : Nat)
  | viewing
  | tainted
  | performed (v : W64)
  | refused
  deriving DecidableEq, Repr

/-- One access of a core's load-store port: what it is; whether and at what scope it is a release (05_ordering.md R99, R108), and whether
an acquire; the address space and node that issued it (R89, R32); and when, but for one that has waited at its home (18_prog_alltoall.md
R301). -/
structure Access where
  id : Nat
  kind : AccKind
  va : W64
  pa : Nat
  size : Nat
  data : W64
  cmp : W64
  dst : Reg
  zext : Bool
  sc : Nat
  rel : Bool
  relSc : Nat
  acq : Bool
  trc : Bool
  hadFull : Bool
  asid : Nat
  ref : Option NodeRef
  born : Option Nat
  phase : Phase
  deriving DecidableEq, Repr

/-- An agent as scopes tell agents apart (01_machine.md R24, R25): a core with its vector unit and matrix engine, by its name; the copy or
network engine of a quad; an island of a field; an agent that belongs to no quad or island, by its wafer: a controller, an edge fabric, a
port, the graph sequencer that coordinates a wafer's, its supervisor queue. -/
inductive Party where
  | core (n : Nat)
  | engine (quad : Nat)
  | island (field : Nat)
  | outside (wafer : Nat)
  deriving DecidableEq, Repr

/-- A release (05_ordering.md R96, R99): who released, and at what scope. -/
structure Rel where
  who : Party
  sc : Nat
  deriving DecidableEq, Repr

/-- A read that has performed ahead of its load (05_ordering.md R98, R100): its address and size, the value, and the releases that wrote
the bytes it read. Of what the core has done since it performed: the releases that later reads returned (`since`), whether something came
that no scope sets aside (`late`: a read of no release, an instruction that learns of another agent, a fence; R96, R108), and whether the
core's vector unit has written its bytes (`vec`; 23_ref_t_z.md R405). -/
structure Early where
  pa : Nat
  size : Nat
  v : W64
  rels : List Rel
  since : List Rel
  late : Bool
  vec : Bool
  deriving DecidableEq, Repr

/-- Why a core issues nothing (02_execution.md R53; 23_ref_t_z.md R394): a waiting access, FWAIT, BWAIT, TIMEDGO with the time at which
it was issued, or a KWR to KSVC whose action is under way (11_faults.md R209), for a kill the nodes whose strands still end. -/
inductive Hold where
  | none
  | access (id : Nat)
  | fwait (handle : W64) (d : Reg) (had : Bool)
  | bwait (point : Nat) (par : Bool) (d : Reg)
  | timedgo (t : W64) (since : Nat)
  | svc
  | kill (nodes : List NodeRef)
  deriving DecidableEq, Repr

/-- A strand that is ending: how (0 as RETIRE does, else the reason of 02_execution.md R41), the second cause and
address of a double trap (11_faults.md R205), and whether the trap of a plain end's RETIRE has begun its handler. -/
structure Ending where
  reason : Nat
  dbl : Option (Nat × W64)
  trapped : Bool
  deriving DecidableEq, Repr

/-- The strand a core runs (02_execution.md R38): the cp it started at, its priority and its node. -/
structure Strand where
  startCp : W64
  prio : Nat
  ref : NodeRef
  deriving DecidableEq, Repr

/-- The team a core belongs to (02_execution.md R34, R35). -/
structure Team where
  ref : NodeRef
  tq0 : Nat
  ty0 : Nat
  tw : Nat
  th : Nat
  deriving DecidableEq, Repr

/-- A command of the vector unit (23_ref_t_z.md R396): its operand values, next element and running sum. -/
structure VCmd where
  id : Nat
  vop : Nat
  fmt : Nat
  flg : Nat
  a : W64
  b : W64
  next : Nat
  paid : Nat
  acc : W64
  accPoison : Bool
  deriving DecidableEq, Repr

/-- A B tile in a ring latch (06_matrix.md R124): format, swizzle tag and 256 elements with their poison marks. -/
structure Tile where
  fmt : Nat
  tag : Nat
  el : List (Fp × Bool)
  deriving DecidableEq, Repr

/-- One control core with its vector unit and the state of its matrix engine (01_machine.md R18), with the tile that its last step has to
forward (`fwd`, 06_matrix.md R124). Of its ordering
(05_ordering.md): the reads performed ahead, newest first (`early`), and the scope at which the next write is FENCE.rel's release
(`fence`). It may wait for an access that is made again after a fault (`again`, 22_ref_m_s.md R388), TIMEDGO may just have let it go (`go`, 12_power.md R227), and an access that it
issues may wait for its translation, since when and to what address (`tried`, 18_prog_alltoall.md R301). -/
structure Core where
  x : Vector W64 32
  full : BitVec 32
  ovr : BitVec 32
  pc : W64
  tm : Bool
  priv : Bool
  kcause : BitVec 8
  kepc : W64
  ktval : W64
  ktvec : W64
  kscr : W64
  kwlim : BitVec 32
  kasid : BitVec 10
  krseed : W64
  kggeo : W64
  khbeat : W64
  mgen : W32
  vgen : W32
  kap : BitVec 128
  acs : Map W32
  team : Option Team
  strand : Option Strand
  ending : Option Ending
  hold : Hold
  fault : Option Nat
  wait : Option Nat
  port : List Access
  nextId : Nat
  fetch : List (W64 × W32)
  vq : List VCmd
  vfault : Option Nat
  ring : Option (Nat × Nat × Nat)
  latch : List Tile
  fwd : Option (Nat × Tile)
  sent : List (Nat × Tile)
  beat0 : W64
  beat : Bool
  lastTime : Nat
  early : List Early
  fence : Option Nat
  again : Option Nat
  go : Bool
  tried : Option (Nat × W64)
  deriving DecidableEq, Repr

/-- A continuation record in a queue (02_execution.md R36): its core field as the name of a core of the quad that pushed it,
the pops it has seen (10_scheduling.md R198), the node that pushed it, and whether pre-emption has moved it from the chip to its queue's
spill ring (11_faults.md R214). -/
structure Rec where
  cp : W64
  fp : W64
  jc : W64
  node : Nat
  rsm : Bool
  core : Nat
  pin : Bool
  prio : Nat
  pops : Nat
  ref : NodeRef
  out : Bool
  deriving DecidableEq, Repr

/-- A continuation queue: the records on chip, oldest first, and the records in its spill ring (R197). -/
structure ContQ where
  chip : List Rec
  ring : List Rec
  deriving DecidableEq, Repr

/-- A record held at its join block or future entry for want of room (10_scheduling.md R196). -/
structure HeldRec where
  quad : Nat
  crec : Rec
  deriving DecidableEq, Repr

/-- A parked strand (02_execution.md R39): its number, its save area, the core that parked it, and what it waits on; the number of the
first access that its core's port issued after it, and where a KEND or a kill has ended it, the reason (R42, R348). -/
structure Parked where
  id : Nat
  save : W64
  asid : Nat
  core : Nat
  ref : NodeRef
  fget : Bool
  obj : W64
  after : Nat
  ends : Option Nat
  deriving DecidableEq, Repr

/-! ## Engine queues -/

/-- A command in an engine queue: the core that enqueued it, its privilege, node and kick scope, and for a command of a
section its pass, whether it is the last, its place in the section and how far the earlier passes have advanced its destination
(02_execution.md R33; 13_encodings.md R255, R257); its place in the order in which commands were enqueued; and its section's tile count and
number of commands. -/
structure QCmd where
  c : Cmd
  core : Nat
  priv : Bool
  asid : Nat
  ref : Option NodeRef
  scope : Nat
  sect : Bool
  pass : Nat
  last : Bool
  idx : Nat
  adv : Nat
  ord : Nat
  tiles : Nat
  slen : Nat
  deriving DecidableEq, Repr

/-- How far the command at the head has come: whether it has passed its checks (`on`), its pass or step (`u`) and counters of its
own (`i` to `m`, `mode`, `adv`), the bytes of the pass read ahead (`buf`), what its current access has read (`got`), what it has
yet to write (`out`) and how many bytes of it are written (`put`), whether an edge graph holds a piece of it (`view`), an access
abandoned by KSVC op 0x3 (`skip`), the ACS rows an MLD has loaded and found poisoned, and where in `buf` bytes stand that could not be read
ahead (`holes`). -/
structure Prog where
  on : Bool
  u : Nat
  i : Nat
  j : Nat
  k : Nat
  n : Nat
  m : Nat
  mode : Nat
  adv : Nat
  buf : List (Byte × Bool)
  got : List (Byte × Bool)
  out : Option (List (Byte × Bool))
  put : Nat
  view : Bool
  skip : Bool
  seen : BitVec 128
  hit : BitVec 128
  holes : List Nat
  deriving DecidableEq, Repr

/-- An engine queue (13_encodings.md R255): commands, those that the GS has still to feed (14_assembly.md R281), the count of mailboxes written, a
halt (11_faults.md R212) with the number of its stop (R209), and a held fault. -/
structure EngQ where
  cmds : List QCmd
  feed : List QCmd
  prog : Prog
  seq : Nat
  halt : Bool
  stop : Nat
  stopped : Bool
  fault : Option Nat
  deriving DecidableEq, Repr

/-! ## Quads and fields -/

/-- The state of an RXB slot (07_networks.md R142). -/
inductive SlotSt where
  | free
  | posted (group : Nat)
  | filled (group : Nat)
  deriving DecidableEq, Repr

/-- A quad's membership of a photonic group (07_networks.md R141, R145). -/
structure Memb where
  group : Nat
  enrol : Nat
  fill : List Nat
  posted : Nat
  next : Nat
  deriving DecidableEq, Repr

/-- What a quad's four cores share (01_machine.md R18), the lines of its instruction cache that hold an uncorrectable error and the count
of errors corrected in it among them (04_memory.md R83), and the queue whose chunk its copy engine moved last (23_ref_t_z.md R408). The fetch that waits is the core, the physical and virtual address and the
address space. -/
structure Quad where
  icache : Map (List W32)
  miss : Option (Nat × Nat × Nat × Nat)
  slots : Map SlotSt
  slotEnrol : Map Nat
  membs : List Memb
  crc : W32
  hnd : W32
  xseed : W32
  xgen : W32
  contq : ContQ
  bad : List Nat
  corr : Nat
  xlast : Nat
  deriving DecidableEq, Repr

/-- The state of a future (02_execution.md R44). -/
inductive FutSt where
  | free | pending | set | failed
  deriving DecidableEq, Repr

/-- An entry of a future table (02_execution.md R44). -/
structure Fut where
  val : W64
  st : FutSt
  gen : BitVec 9
  waiters : List Nat
  deriving DecidableEq, Repr

/-- A valid leaf held by a translation cache of a wafer (04_memory.md R86, R88). -/
structure Leaf where
  wafer : Nat
  asid : Nat
  base : Nat
  size : Nat
  pte : W64
  deriving DecidableEq, Repr

/-- A pair of AMSG, or the end-of-stream token of MARKE, on its way to a message port (02_execution.md R49;
22_ref_m_s.md R360). -/
structure Msg where
  graph : Nat
  a : W64
  b : W64
  eos : Bool
  core : Nat
  sheaf : Nat
  deriving DecidableEq, Repr

/-- A field's shared state: its future table and queues, translation cache, grains, clock and temperature. -/
structure Field where
  futs : Map Fut
  contq : ContQ
  msgq : List Msg
  tlb : List Leaf
  used : Nat
  bud : Nat
  pool : Nat
  usedNow : Nat
  reqNow : Nat
  lots : Map Nat
  waiting : List Nat
  lastServed : Nat
  spent : Map Nat
  depthLim : BitVec 11
  abt : BitVec 8
  busy : Bool
  src : Bool
  cur : BitVec 2
  want : BitVec 2
  hopFrom : Option Nat
  retryAt : Option Nat
  hot : Bool
  drp : Bool
  cycBase : Nat
  timeBase : Nat
  deriving DecidableEq, Repr

/-- Who made an access that a fault may hold (11_faults.md R210) or an edge slot may carry: a core's port before or after the access
has issued, its fetch port or vector unit, an engine queue, the read generator of an LTX, a cell or generator of a fabric (2 ×
residency, or 2 × controller + 1), an accumulate slot, a reduction group's root, a wafer's CRED copy, the GS
binding a node's groups. -/
inductive Owner where
  | port (core : Nat)
  | fetch (core : Nat)
  | late (core id : Nat)
  | vec (core : Nat)
  | queue (q : Nat)
  | ltx (ctl : Nat) (group : Nat)
  | fab (fab site : Nat)
  | edge (ctl slot : Nat)
  | red (grp : Nat)
  | cred (grp wafer : Nat)
  | gs (sheaf node : Nat)
  deriving DecidableEq, Repr

/-- How far a write by hardware in pieces has come: bytes written, whether an edge graph holds a piece, a held fault, and an access
abandoned by KSVC op 0x3. -/
structure Drain where
  put : Nat
  view : Bool
  fault : Option Nat
  skip : Bool
  deriving DecidableEq, Repr

/-! ## Fabric -/

/-- A channel into one input, with its tokens of the five kinds of 08_fabric.md R157 (R162): data and end-of-stream on chip, oldest first, and
those spilled to its ring behind them; requests, as the bursts that its consumer has asked for; configuration words on their way to the site
(R168); and whether an awn stands behind the tokens (11_faults.md R218). Then the elements left of the burst being sent, and whether that
burst spills. -/
structure Chan where
  toks : List Tok
  ring : List Tok
  dem : Nat
  conf : List (List W64)
  awn : Bool
  left : Nat
  spill : Bool
  deriving DecidableEq, Repr

/-- One copy of a site's operator (08_fabric.md R158, R163): whether a firing is under way, its operands by source; results that wait for
demand; whether end-of-stream has reached a copy of a replicated operator; firings completed; whether it has passed it; its sum
(R371); whether an edge graph holds its access; a held fault, and an access abandoned by KSVC op 0x3; and, where its operands stem from no access to
its edge slot, the mark of the access that its read serves (09_edge.md R182; log 109). -/
structure Lane where
  on : Bool
  ops : List Tok
  out : List Tok
  deal : Bool
  count : Nat
  past : Bool
  sum : Option (Fp × Bool)
  busy : Bool
  fault : Option Nat
  skip : Bool
  serves : Nat
  deriving DecidableEq, Repr

/-- A cell, router or generator of a configuration: its words, and whether they have reached it (R168); operand sets taken and results
sent; the inputs whose end-of-stream has been taken, whether that has closed it, whether its own has left and whether it has ended; its
operator's state and held value; loop counters of a generator; and whether an awn has stopped it (11_faults.md R218). -/
structure Cell where
  words : List W64
  ready : Bool
  taken : Nat
  sent : Nat
  ended : Nat
  closed : Bool
  left : Bool
  done : Bool
  st : Nat
  val : Option Tok
  ctr : List Nat
  awn : Bool
  deriving DecidableEq, Repr

/-- Where a plane is kept (08_fabric.md R175): on its region, on the on-die stack, in cell memory from an offset on, or in the husk ring
from an address on. -/
inductive Kept where
  | region
  | stack
  | cellMem (off : Nat)
  | ring (va : W64)
  deriving DecidableEq, Repr

/-- One plane of a region: the live configuration, or a husk (08_fabric.md R174, R175): its number, list index, cells, copies of its
operators, channels, call port, the CCALL that waits for its return, its generators' translation entries, and where it is kept. -/
structure Plane where
  id : Nat
  cc : Nat
  cells : Map Cell
  lanes : Map Lane
  chans : Map Chan
  call : List Tok
  caller : Option Nat
  streams : Map Leaf
  kept : Kept
  deriving DecidableEq, Repr

/-- An entry of a configuration list as the fabric manager read it (08_fabric.md R169): its image, next and iters. -/
structure ListEntry where
  img : W64
  next : Nat
  iters : Nat
  deriving DecidableEq, Repr

/-- How a residency stands. -/
inductive ResSt where
  | reach | loading | running | freezing (site : Nat) | returning (site : Nat) | over
  deriving DecidableEq, Repr

/-- A residency on its region (08_fabric.md R169 to R178): its field key, island column and lowest row, height; node; for an
instance of CREQ its requester, cell and plane; configuration list, its length and the entries reached; planes of cell memory; depth limit; graph; status
word's fields (R170); counters; the callee to load; planes frozen, oldest first; the sites that a load has yet to reach, in order; message port; tokens
that instances returned, by plane and cell; the islands' generators; a fabric manager's address; whether a PE has fired in the
watchdog's interval; its husk ring and spill rings, and the 4 KiB pages that these and those lie in; and the fabric bindings of stream
edges by generator. -/
structure Resid where
  field : Nat
  col : Nat
  row : Nat
  h : Nat
  ref : NodeRef
  asid : Nat
  inst : Option (Nat × Nat × Nat)
  list : W64
  nlist : Nat
  entries : Map ListEntry
  cmres : Nat
  limit : Nat
  graph : Nat
  strict : Bool
  cause : Nat
  halt : Bool
  lenmis : Bool
  retd : Bool
  cc : Nat
  it : Nat
  iters : Nat
  next : Nat
  live : Plane
  planes : List Plane
  load : List Nat
  st : ResSt
  msgs : List Tok
  backs : List (Nat × Nat × Tok)
  gens : Map W32
  fired : Bool
  husk : W64
  spill : W64
  huskPages : List Nat
  spillPages : List Nat
  binds : Map W64
  deriving DecidableEq, Repr

/-- A CREQ whose instance is not yet placed (08_fabric.md R173): the number of its request (10_scheduling.md R194), the residency, cell and plane that ask, the node, and the tokens it
holds. -/
structure Creq where
  stamp : Nat
  res : Nat
  site : Nat
  plane : Nat
  node : Nat
  toks : List Tok
  deriving DecidableEq, Repr

/-- An access in an edge slot's order (09_edge.md R182): its number from 1 on; who made it, in which wafer and address space, window
offset, bytes, written data with poison; how many of its words have been offered to the graph and what has come back; and of an accumulate
slot the bytes of its backing buffer that it has read or added to (R185). -/
structure VAcc where
  owner : Owner
  wafer : Nat
  asid : Nat
  off : Nat
  size : Nat
  wr : Option (List (Byte × Bool))
  sent : Nat
  back : List (W64 × Bool)
  id : Nat
  got : List (Byte × Bool)
  deriving DecidableEq, Repr

/-- A stream slot of an edge fabric (09_edge.md R180 to R186): its holder; descriptor fields and binder's address space; word 4's
fields; whether it is being unbound; accesses in order, and how many have come; tokens at the access port, the accumulate input and the return port; the
sites of its graph; the CRED group that holds it; a held fault of its accumulate generator, and an access abandoned by KSVC op
0x3; and whether its accesses have been handled as in a kill (R186). -/
structure EdgeSlot where
  bound : Bool
  held : Option NodeRef
  kind : Nat
  strict : Bool
  desc : W64
  asid : Nat
  wlen : Nat
  acc : W64
  img : W64
  cause : Nat
  halt : Bool
  extra : Bool
  lenmis : Bool
  cnt : W32
  closing : Bool
  accs : List VAcc
  seen : Nat
  port : List Tok
  acin : List Tok
  ret : List Tok
  sites : List Nat
  cred : Option Nat
  fault : Option Nat
  skip : Bool
  killed : Bool
  deriving DecidableEq, Repr

/-! ## Photonics, reductions, memory controllers and links -/

/-- A member of a photonic group as the controller knows it (07_networks.md R140, R145): its quad number, and the posted count that
has been reported. -/
structure Member where
  quad : Nat
  known : Nat
  deriving DecidableEq, Repr

/-- A group-table entry (07_networks.md R139): its word 0, its blocks sent, the number of its enrolment, the partition and node it
was written for, its members, since when its next block has been ready, the block whose stall is posted (R146), whether it
is being dissolved (R141), and the move at which it last sent (R138). -/
structure Gt where
  w0 : W64
  sent : Nat
  enrol : Nat
  part : Nat
  ref : Option NodeRef
  membs : List Member
  since : Nat
  stalled : Option Nat
  dissolve : Bool
  turn : Nat
  deriving DecidableEq, Repr

/-- An accepted LTX (21_ref_d_l.md R359): its queue and command, group, whether the controller has found its entry valid, the
blocks sent and the number of the first, the next block once read, and the hold of its read generator. -/
structure Ltx where
  queue : Nat
  q : QCmd
  group : Nat
  found : Bool
  sent : Nat
  first : Nat
  buf : Option (List (Byte × Bool))
  view : Bool
  fault : Option Nat
  skip : Bool
  deriving DecidableEq, Repr

/-- A block on its way to a member (07_networks.md R147): its failed checks, whether it waits for a resend, and whether it is a copy
that a resend to the whole group brings to a member that has taken the block. -/
structure Flight where
  group : Nat
  quad : Nat
  blk : Nat
  bytes : List (Byte × Bool)
  tag : Nat
  tries : Nat
  again : Bool
  dup : Bool
  deriving DecidableEq, Repr

/-- A memory controller with its transmitter and edge fabric (01_machine.md R21). -/
structure Ctl where
  gt : Map Gt
  jobs : List Ltx
  flights : List Flight
  trunks : Map (Bool × Nat)
  trcSeq : W32
  corr : Nat
  slots : Map EdgeSlot
  fab : Plane
  gen : W32
  deriving DecidableEq, Repr

/-- A reduction group of a node (07_networks.md R152 to R154; 14_assembly.md R284): its declaration; the round under way; vectors
by rank, quads' local sums and routers' outputs; commands whose vectors have not left their quad; and the root's write. -/
structure RedGroup where
  dst : W64
  done : W64
  sc : Nat
  count : Nat
  root : Nat
  first : Nat
  last : Nat
  round : Nat
  vecs : Map (List (W32 × Bool))
  locs : Map (List (W32 × Bool))
  outs : Map (List (W32 × Bool))
  pend : List (Nat × QCmd)
  drain : Drain
  deriving DecidableEq, Repr

/-- A reduction flit (07_networks.md R156): its header's CRED group, round, element offset and sender, and its 56 FP32 elements. -/
structure RedFlit where
  group : Nat
  round : Nat
  off : Nat
  sender : Nat
  els : List W32
  deriving DecidableEq, Repr

/-- One wafer's part in a CRED group (07_networks.md R155; 20_ref_a_c.md R328 to R330): its sheaf, destination, done word and address
space; rounds sent and released; the queue whose CRED contributes to the next round; the flits sent whose result has not come, the
results that have, by offset; and the copy of the sum under way. -/
structure CredW where
  sheaf : Nat
  dst : W64
  done : W64
  asid : Nat
  sent : Nat
  released : Nat
  sender : Option Nat
  flits : List RedFlit
  got : Map (List W32)
  drain : Drain
  deriving DecidableEq, Repr

/-- A CRED group of a pod-wide launch: its declaration, the home slot it takes (controller key and slot) and the acceptance number from
which it waits for it (10_scheduling.md R195), whether its slot is bound, the round whose destination has been zeroed, the elements that
wafers sent poisoned to the switch, by round (11_faults.md R211), and each wafer's part. -/
structure CredG where
  pod : Nat
  gid : Nat
  wafers : W32
  count : Nat
  home : Nat
  placement : Nat
  slot : Option (Nat × Nat)
  seq : Nat
  bound : Bool
  zeroed : Nat
  marks : Map (List Nat)
  parts : Map CredW
  deriving DecidableEq, Repr

/-- A Fareno link (12_power.md R233 to R235): up, wavelengths and queued flits of KFLNK; failed checks and replays; consecutive
failed checks; the next extended sequence number to send and the first not acknowledged; the next expected from the peer and
those accepted beyond it; the key slot in use, the number N while the old slot is held, flits sealed under the key, whether a
rollover has been asked for; flits of an unknown type; result flits that matched none (07_networks.md R156); the number from
which the peer seals under its new key; receive credits that the peer has returned; the last flit replayed, by extended number and
header; and grants on it, by wafer and grains (R219). -/
structure Link where
  up : Bool
  wl : Nat
  qd : Nat
  bad : BitVec 16
  rpl : BitVec 16
  fails : Nat
  txSeq : Nat
  txAcked : Nat
  rxSeq : Nat
  rxGot : List Nat
  kidx : Bool
  held : Option Nat
  sealed : Nat
  asked : Bool
  dropped : Nat
  strayed : Nat
  rxN : Nat
  cred : Nat
  wire : Option (Nat × FlitHdr)
  grants : List (Nat × Nat)
  deriving DecidableEq, Repr

/-! ## Sheaves, partitions and events -/

/-- How a node of a sheaf stands (02_execution.md R31, R32). -/
inductive NodeSt where
  | waiting | placed | running | done
  deriving DecidableEq, Repr

/-- Where a node is placed. -/
inductive Place where
  | none
  | team (tq0 ty0 tw th : Nat)
  | region (res : Nat)
  | slots
  | groups
  deriving DecidableEq, Repr

/-- A node of a live sheaf: its entry (14_assembly.md R279), its standing, age (10_scheduling.md R193), the number of its request for
a region (R194), early hint (02_execution.md R50), whether its views have been sent end-of-stream (R305), abnormal end and status (R285), place, frame region as address and bytes
(R37), the place that it had when it completed (`was`, 05_ordering.md R118), energy in whole picojoules and the fraction of one beside them (12_power.md R222), the status word of its residency (08_fabric.md R170), when it last migrated, the field of its region, and of a
group binding the records that the GS has still to write, the held fault of a member map, and a read of it abandoned by KSVC op 0x3 (R282). -/
structure Node where
  words : List W64
  st : NodeSt
  age : Nat
  stamp : Nat
  hinted : Bool
  eos : Bool
  abn : Bool
  status : Nat
  place : Place
  was : Place
  frame : Nat × Nat
  energy : Nat
  part : Nat × Nat
  rstat : W64
  movedAt : Option Nat
  field : Nat
  binds : List (Nat × W64)
  fault : Option Nat
  skip : Bool
  deriving DecidableEq, Repr

/-- A live sheaf (14_assembly.md R278; 10_scheduling.md R189): its address, priority, tag, whether it came from the host queue, its
acceptance number and time, its header, the partition entry and field map read at acceptance, whether the GS has considered its nodes,
these and its edges; for a pod-wide launch its number and submitting wafer (R300); why it is refused (1 malformed, 2 unreachable); and the phases whose trunks have
been woken. -/
structure Sheaf where
  va : W64
  prio : Nat
  tag : W64
  host : Bool
  seq : Nat
  time : Nat
  hdr : List W64
  part : List W64
  fmap : BitVec 72
  read : Bool
  nodes : Map Node
  edges : List W64
  pod : Option Nat
  master : Nat
  bad : Nat
  woken : List Nat
  deriving DecidableEq, Repr

/-- A pod-wide launch passed to another wafer (R300): the launch's number, the submitting wafer, the launch entry, and whether another
wafer has refused it. -/
structure PodEntry where
  pod : Nat
  master : Nat
  part : Nat
  prio : Nat
  tag : W64
  va : W64
  host : Bool
  refused : Bool
  deriving DecidableEq, Repr

/-- How a partition stands (11_faults.md R214 to R216). -/
inductive PartSt where
  | run | gating | swapped
  deriving DecidableEq, Repr

/-- A partition's state, pool allocations as offset and bytes (10_scheduling.md R187), the node reserved for and its rectangle's
origin (R193), the nodes that the watchdog kills once it is saved (11_faults.md R217), the quads whose local stores it has evicted (R215), when the watchdog's interval of it began, and since
when that interval has been paused. -/
structure Part where
  st : PartSt
  pool : List (Nat × Nat)
  reserved : Option (NodeRef × Nat × Nat)
  killAfter : List NodeRef
  saved : List Nat
  wdogAt : Nat
  paused : Option Nat
  deriving DecidableEq, Repr

/-- What a supervisor event is about, so that KSVC can answer it (11_faults.md R209): a held fault, or one stop of an engine queue. -/
inductive EvWhat where
  | other
  | fault (id : Nat)
  | queue (q stop : Nat)
  deriving DecidableEq, Repr

/-- A supervisor event (11_faults.md R208): kind, node, words 1 to 6, and who is held while it is not written. -/
structure Ev where
  kind : Nat
  ref : Option NodeRef
  words : List W64
  what : EvWhat
  core : Option Nat
  deriving DecidableEq, Repr

/-- A held access of an address generator: class and agent, generator index, stream, address, type, access, loop counters
(11_faults.md R210) and what it needs to be made again. -/
structure GenFault where
  owner : Owner
  ref : Option NodeRef
  wafer : Nat
  cls : Nat
  agent : Nat
  gen : Nat
  stream : Nat
  va : W64
  ty : Nat
  acc : Nat
  ctrs : List Nat
  deriving DecidableEq, Repr

/-- A translation that missed (04_memory.md R88): the stream's identifier, the field whose walker serves it, address space,
privilege, address and access; the fault to raise if the walk fails. -/
structure Walk where
  gid : Nat
  field : Nat
  asid : Nat
  priv : Bool
  va : W64
  acc : Nat
  fault : GenFault
  deriving DecidableEq, Repr

/-- A value that RMOV sent (02_execution.md R49; 22_ref_m_s.md R385). -/
structure Send where
  src : Nat
  dst : Nat
  n : Reg
  v : W64
  deriving DecidableEq, Repr

/-- A checkpoint under way (11_faults.md R218): its round and the units that have stopped; those that are sites of a fabric say so
themselves. -/
structure Round where
  n : Nat
  stopped : List Nat
  deriving DecidableEq, Repr

/-- One wafer's registers and what its sequencers, tiller tree, firmware and ports hold. -/
structure Wafer where
  index : Nat
  podsize : Nat
  fen : BitVec 72
  spare : Map Nat
  kastb : W64
  ktrb : W64
  kptb : W64
  klqb : W64
  klqTail : W32
  klqHead : W32
  ksvqb : W64
  svqLost : W32
  svqTail : W32
  svqHead : W32
  ksva : W64
  kwdog : W32
  kgstall : W32
  klead : W64
  khot : BitVec 8
  kpbudMin : BitVec 24
  budget : Nat
  thrAct : Bool
  thrCnt : BitVec 29
  thrOcs : Bool
  thrDrs : Bool
  thrPin : Bool
  srcPin : Bool
  srcOcs : Bool
  clearAt : Nat
  skew : Nat
  kbstat : W64
  katn : W64
  reports : Nat
  krcva : W64
  krcvl : W64
  krcvc : BitVec 4
  recFrom : Nat
  images : Nat × Nat
  hostVal : W64
  hostGot : List (Byte × Bool)
  raised : List Ev
  posted : Map (EvWhat × Nat)
  round : Option Round
  pendingSvc : List (W64 × Option Nat)
  demand : Nat
  given : Nat
  drawn : Nat
  intvls : Nat
  told : Nat × Nat
  traded : Nat
  gain : Nat
  lastIntvl : Nat
  lastTrade : Nat
  lastDecay : Nat
  steered : Map Nat
  podIn : List PodEntry
  switchRed : Bool
  deriving DecidableEq, Repr

/-- A rendezvous point (02_execution.md R47). -/
structure Point where
  expected : Nat
  arrivals : Nat
  parity : Bool
  deriving DecidableEq, Repr

/-- The whole pod. `rels` names, for a byte of memory that a release wrote last, that release (05_ordering.md R96, R101); `cellMem` holds what
each island's cell memory holds of the planes kept there, by island × 16 + j (08_fabric.md R175), and `islCorr` counts the errors corrected
in an island's memories (04_memory.md R83). -/
structure State where
  agenda : List Move
  tick : Nat
  time : Nat
  cur : Nat
  curQ : Nat
  curRes : Nat
  curSite : Nat
  mem : List Host.Cell
  poison : List Nat
  rels : Map Rel
  qtags : List Nat
  swz : Map Nat
  cores : Map Core
  quads : Map Quad
  fields : Map Field
  wafers : Map Wafer
  ctls : Map Ctl
  links : Map Link
  queues : Map EngQ
  sheaves : Map Sheaf
  parts : Map Part
  parked : List Parked
  held : List HeldRec
  points : Map Point
  reds : Map RedGroup
  creds : Map CredG
  resids : Map Resid
  cellMem : Map Plane
  islCorr : Map Nat
  streams : Map Leaf
  walks : List Walk
  faults : Map GenFault
  sends : List Send
  creqs : List Creq
  serial : Nat
  podBudget : Nat
  epoch : Nat
  deriving DecidableEq, Repr

/-! ## Why the machine stops -/

/-- The faults that end a run. A fault of the hardware (11_faults.md) is no fault here: it is held in the state and
posted to the supervisor. -/
inductive Fault where
  /-- Raised by `step` when a move of the agenda names a core, queue, cell or controller that the pod does not have: no
  hardware makes that move. Safe: the machine stops where nothing would have happened. -/
  | noSuchUnit
  deriving DecidableEq, Repr

/-- The refusals that end a run. -/
inductive Refusal where
  /-- Raised by `exec` for an instruction whose meaning is not written. Safe: nothing is claimed of it. -/
  | notModelled (mnemonic : String)
  /-- Raised by `step` when a move of the agenda offers as an event an instruction that is none. Safe: no hardware makes
  that move. -/
  | badMove
  deriving DecidableEq, Repr

/-! ## Reset (00_scope.md R7; 12_power.md R232)

Where the spec gives no reset value, a log entry names the value: 1 to 9 of the assumption log. -/

/-- A core after reset: presence bits full (R75), KRSEED and the generators at their seeds of 1 (R67). -/
def resetCore : Core where
  x := Vector.replicate 32 0
  full := 0xFFFFFFFF
  ovr := 0
  pc := 0
  tm := false
  priv := false
  kcause := 0
  kepc := 0
  ktval := 0
  ktvec := 0
  kscr := 0
  kwlim := 0
  kasid := 0
  krseed := 0x0000000100000001
  kggeo := 0
  khbeat := 0
  mgen := 1
  vgen := 1
  kap := 0
  acs := []
  team := none
  strand := none
  ending := none
  hold := .none
  fault := none
  wait := none
  port := []
  nextId := 0
  fetch := []
  vq := []
  vfault := none
  ring := none
  latch := []
  fwd := none
  sent := []
  beat0 := 0
  beat := false
  lastTime := 0
  early := []
  fence := none
  again := none
  go := false
  tried := none

/-- An empty continuation queue. -/
def resetContQ : ContQ := ⟨[], []⟩

/-- Progress before a command has begun. -/
def resetProg : Prog := ⟨false, 0, 0, 0, 0, 0, 0, 0, 0, [], [], none, 0, false, false, 0, 0, []⟩

/-- An empty engine queue. -/
def resetEngQ : EngQ := ⟨[], [], resetProg, 0, false, 0, false, none⟩

/-- A quad after reset: every slot free (R142), KQSEED and its generator at 1 (R67). -/
def resetQuad : Quad where
  icache := []
  miss := none
  slots := []
  slotEnrol := []
  membs := []
  crc := 0
  hnd := 0
  xseed := 1
  xgen := 1
  contq := resetContQ
  bad := []
  corr := 0
  xlast := 3

/-- A free future (R44). -/
def resetFut : Fut := ⟨0, .free, 0, []⟩

/-- A field after reset: KCDEPTH.lim 1,024 (R176), clock A at 1.5 GHz (R224). -/
def resetField : Field where
  futs := []
  contq := resetContQ
  msgq := []
  tlb := []
  used := 0
  bud := 0
  pool := 0
  usedNow := 0
  reqNow := 0
  lots := []
  waiting := []
  lastServed := 0
  spent := []
  depthLim := 1024
  abt := 0
  busy := false
  src := false
  cur := 0
  want := 0
  hopFrom := none
  retryAt := none
  hot := false
  drp := false
  cycBase := 0
  timeBase := 0

/-- A channel with nothing on it. -/
def resetChan : Chan := ⟨[], [], 0, [], false, 0, false⟩

/-- A copy of an operator before its first firing. -/
def resetLane : Lane := ⟨false, [], [], false, 0, false, none, false, none, false, 0⟩

/-- A site with no word. -/
def resetCell : Cell := ⟨[], false, 0, 0, 0, false, false, false, 0, none, [], false⟩

/-- A plane with no configuration. -/
def resetPlane : Plane := ⟨0, 0, [], [], [], [], none, [], .region⟩

/-- A write in pieces that has not begun. -/
def resetDrain : Drain := ⟨0, false, none, false⟩

/-- An unbound edge slot (R180). -/
def resetSlot : EdgeSlot where
  bound := false
  held := none
  kind := 0
  strict := false
  desc := 0
  asid := 0
  wlen := 0
  acc := 0
  img := 0
  cause := 0
  halt := false
  extra := false
  lenmis := false
  cnt := 0
  closing := false
  accs := []
  seen := 0
  port := []
  acin := []
  ret := []
  sites := []
  cred := none
  fault := none
  skip := false
  killed := false

/-- An invalid group-table entry (R139). -/
def resetGt : Gt := ⟨0, 0, 0, 0, none, [], 0, none, false, 0⟩

/-- A controller after reset. -/
def resetCtl : Ctl := ⟨[], [], [], [], 0, 0, [], resetPlane, 1⟩

/-- A link after reset: down, 25 wavelengths (R234). -/
def resetLink : Link where
  up := false
  wl := 25
  qd := 0
  bad := 0
  rpl := 0
  fails := 0
  txSeq := 0
  txAcked := 0
  rxSeq := 0
  rxGot := []
  kidx := false
  held := none
  sealed := 0
  asked := false
  dropped := 0
  strayed := 0
  rxN := 0
  cred := 0
  wire := none
  grants := []

/-- A node that waits. -/
def resetNode : Node where
  words := []
  st := .waiting
  age := 0
  stamp := 0
  hinted := false
  eos := false
  abn := false
  status := 0
  place := .none
  was := .none
  frame := (0, 0)
  energy := 0
  part := (0, 1)
  rstat := 0
  movedAt := none
  field := 0
  binds := []
  fault := none
  skip := false

/-- A wafer's part in a CRED group before its first round. -/
def resetCredW : CredW := ⟨0, 0, 0, 0, 0, 0, none, [], [], resetDrain⟩

/-- A partition in which nothing has been placed. -/
def resetPart : Part := ⟨.run, [], none, [], [], 0, none⟩

/-- A point that no BINIT has initialised holds no record; one just initialised has parity 0 (R48). -/
def resetPoint : Point := ⟨0, 0, false⟩

/-- A wafer after module reset (R232), with every register at the Reset column of its map. -/
def resetWafer : Wafer where
  index := 0
  podsize := 1
  fen := BitVec.allOnes 72
  spare := []
  kastb := 0
  ktrb := 0
  kptb := 0
  klqb := 0
  klqTail := 0
  klqHead := 0
  ksvqb := 0
  svqLost := 0
  svqTail := 0
  svqHead := 0
  ksva := 0
  kwdog := 0x00002710
  kgstall := 0x000186A0
  klead := 0x000000C800000014
  khot := 95
  kpbudMin := 0
  budget := 0
  thrAct := false
  thrCnt := 0
  thrOcs := false
  thrDrs := false
  thrPin := false
  srcPin := false
  srcOcs := false
  clearAt := 0
  skew := 0
  kbstat := 0
  katn := 0
  reports := 0
  krcva := 0
  krcvl := 0
  krcvc := 0
  recFrom := 0
  images := (0, 0)
  hostVal := 0
  hostGot := []
  raised := []
  posted := []
  round := none
  pendingSvc := []
  demand := 0
  given := 0
  drawn := 0
  intvls := 0
  told := (0, 0)
  traded := 0
  gain := 0
  lastIntvl := 0
  lastTrade := 0
  lastDecay := 0
  steered := []
  podIn := []
  switchRed := false

/-- The machine right after reset: one wafer, nothing listed anywhere. -/
def State.reset : State where
  agenda := []
  tick := 0
  time := 0
  cur := 0
  curQ := 0
  curRes := 0
  curSite := 0
  mem := []
  poison := []
  rels := []
  qtags := []
  swz := []
  cores := []
  quads := []
  fields := []
  wafers := []
  ctls := []
  links := []
  queues := []
  sheaves := []
  parts := []
  parked := []
  held := []
  points := []
  reds := []
  creds := []
  resids := []
  cellMem := []
  islCorr := []
  streams := []
  walks := []
  faults := []
  sends := []
  creqs := []
  serial := 0
  podBudget := 0
  epoch := 0

end Sys2Proof.Machine
end

