-- ==== Sys2Proof/Machine/Map.lean ====
section
/-! DEFINITION. Sparse sorted collections, and bit fields of words. -/

namespace Sys2Proof.Machine

/-- The value at key `k`, or `d` where none is listed. -/
def mget {α : Type} (m : Map α) (k : Nat) (d : α) : α :=
  match m with
  | [] => d
  | (k', v) :: r => if k' = k then v else mget r k d

/-- Whether key `k` is listed. -/
def mhas {α : Type} (m : Map α) (k : Nat) : Bool :=
  match m with
  | [] => false
  | (k', _) :: r => if k' = k then true else mhas r k

/-- The value at key `k`, if listed. -/
def mfind {α : Type} (m : Map α) (k : Nat) : Option α :=
  match m with
  | [] => none
  | (k', v) :: r => if k' = k then some v else mfind r k

/-- Puts `v` at key `k`, keeping keys rising. -/
def mput {α : Type} (m : Map α) (k : Nat) (v : α) : Map α :=
  match m with
  | [] => [(k, v)]
  | (k', v') :: r => if k' = k then (k, v) :: r else if k < k' then (k, v) :: (k', v') :: r else (k', v') :: mput r k v

/-- Takes key `k` out. -/
def mdel {α : Type} (m : Map α) (k : Nat) : Map α :=
  match m with
  | [] => []
  | (k', v) :: r => if k' = k then r else (k', v) :: mdel r k

/-- Takes a key out, if there is one. -/
def mdelOpt {α : Type} (m : Map α) (k : Option Nat) : Map α :=
  match k with
  | some k => mdel m k
  | none => m

/-- Puts `n` into a rising list of numbers without repeats. -/
def sput (l : List Nat) (n : Nat) : List Nat :=
  match l with
  | [] => [n]
  | a :: r => if a = n then a :: r else if n < a then n :: a :: r else a :: sput r n

/-- Takes `n` out of a list of numbers. -/
def sdel (l : List Nat) (n : Nat) : List Nat :=
  match l with
  | [] => []
  | a :: r => if a = n then r else a :: sdel r n

/-- Whether `n` is in a list of numbers. -/
def shas (l : List Nat) (n : Nat) : Bool :=
  match l with
  | [] => false
  | a :: r => if a = n then true else shas r n

/-! ## Bit fields (00_scope.md R3) -/

/-- Bits hi:lo of a word, as a number. -/
def bits {n : Nat} (w : BitVec n) (hi lo : Nat) : Nat := (w.toNat >>> lo) % 2 ^ (hi + 1 - lo)

/-- Bit i of a word. -/
def bitAt {n : Nat} (w : BitVec n) (i : Nat) : Bool := bits w i i == 1

/-- A word of 64 bits from a number. -/
def w64 (n : Nat) : W64 := BitVec.ofNat 64 n

/-- A number of bits hi:lo shifted to its place. -/
def place (v lo : Nat) : Nat := v <<< lo

/-- Sign-extends the low `n` bits of a number to 64 bits (00_scope.md R10). -/
def sext64 (v n : Nat) : W64 :=
  if (v >>> (n - 1)) % 2 = 1 then w64 (v % 2 ^ n + (2 ^ 64 - 2 ^ n)) else w64 (v % 2 ^ n)

/-- The low `n` bits of a number as a signed integer. -/
def sgn (v n : Nat) : Int := if (v >>> (n - 1)) % 2 = 1 then (v % 2 ^ n : Nat) - (2 ^ n : Nat) else (v % 2 ^ n : Nat)

/-- An integer's low `n` bits. -/
def wrapInt (v : Int) (n : Nat) : Nat := (v % (2 ^ n : Nat)).toNat

/-- 1 for true. -/
def b2n (b : Bool) : Nat := if b then 1 else 0

/-- The pieces of a list by `n`, at most `k` of them. -/
def chunks {α : Type} (n : Nat) : Nat → List α → List (List α)
  | 0, _ => []
  | k + 1, l => if l.isEmpty then [] else l.take n :: chunks n k (l.drop n)

/-- Replaces element `i` of a list. -/
def setNth {α : Type} (l : List α) (i : Nat) (v : α) : List α :=
  match l, i with
  | [], _ => []
  | _ :: r, 0 => v :: r
  | a :: r, i + 1 => a :: setNth r i v

/-- Element `i` of a list, or `d`. -/
def nth {α : Type} (l : List α) (i : Nat) (d : α) : α :=
  match l, i with
  | [], _ => d
  | a :: _, 0 => a
  | _ :: r, i + 1 => nth r i d

end Sys2Proof.Machine
end

