-- ==== Sys2Proof/Machine/Geo.lean ====
section
/-! DEFINITION. Places on the wafer (01_machine.md): fields, quads, trunks, core names and scopes; the homes of
physical addresses (04_memory.md R80 to R82; 09_edge.md R180); field clocks and device time (12_power.md R225, R226). -/

namespace Sys2Proof.Machine

/-! ## Names (R13 to R17) -/

/-- Node column of quad column q (R16 turned round). -/
def qCol (q : Nat) : Nat := 3 * (q / 2) + q % 2

/-- Wafer of a core name (R17). -/
def nWafer (name : Nat) : Nat := name / 2 ^ 15

/-- Core number within the wafer (R17). -/
def nCnum (name : Nat) : Nat := name % 2 ^ 15

/-- Quad number of a core name (R17). -/
def nQn (name : Nat) : Nat := nCnum name / 4

/-- Core within the quad. -/
def nC (name : Nat) : Nat := name % 4

/-- Key of a core's quad. -/
def nQuad (name : Nat) : Nat := name / 4

/-- Node row of quad number qn (R16). -/
def qnRow (qn : Nat) : Nat := qn / 72

/-- Quad column of quad number qn (R16). -/
def qnCol (qn : Nat) : Nat := qn % 72

/-- Field index of a node (R13, R15). -/
def fieldAt (nx ny : Nat) : Nat := (ny / 11) * 9 + nx / 12

/-- Field index of quad number qn. -/
def qnField (qn : Nat) : Nat := fieldAt (qCol (qnCol qn)) (qnRow qn)

/-- Key of a field: wafer × 128 + f. -/
def fieldKey (w f : Nat) : Nat := w * 128 + f

/-- Key of the field of a core. -/
def nField (name : Nat) : Nat := fieldKey (nWafer name) (qnField (nQn name))

/-- A core name from wafer, quad number and core (R17). -/
def mkName (w qn c : Nat) : Nat := w * 2 ^ 15 + qn * 4 + c

/-- Key of a quad from wafer and quad number. -/
def quadKey (w qn : Nat) : Nat := w * 2 ^ 13 + qn

/-- The wafer record of index w. -/
def State.wafer (s : State) (w : Nat) : Wafer := mget s.wafers w resetWafer

/-- Whether wafer w has field f enabled (R26, R27). -/
def State.fieldOn (s : State) (w f : Nat) : Bool := f < 72 && (s.wafer w).fen.getLsbD f

/-- Wafers in the pod (R27). -/
def State.podsize (s : State) : Nat := (s.wafer 0).podsize

/-- Whether a register value names a core that exists (R17). -/
def State.coreOk (s : State) (v : W64) : Bool :=
  v.toNat < 2 ^ 20 && nWafer v.toNat < s.podsize && nQn v.toNat < 6336
    && s.fieldOn (nWafer v.toNat) (qnField (nQn v.toNat))

/-- The spare physical row of a field (R14): 11 unless the fuses say otherwise. -/
def Wafer.spareRow (w : Wafer) (f : Nat) : Nat := mget w.spare f 11

/-- The global physical row of a node row in field f (R14, R15). -/
def Wafer.prow (w : Wafer) (f ny : Nat) : Nat :=
  let ly := ny % 11
  (ny / 11) * 12 + (if ly < w.spareRow f then ly else ly + 1)

/-- Row trunk and column trunk of a quad (R22). -/
def Wafer.trunks (w : Wafer) (qn : Nat) : Nat × Nat :=
  let py := w.prow (qnField qn) (qnRow qn)
  (py, 24 * (py / 24) + qnCol qn / 3)

/-- The controller and its trunk number that drive row trunk py (R22). -/
def rowDriver (py : Nat) : Nat × Nat := (if py % 2 = 0 then py / 8 else 24 + py / 8, (py % 8) / 2)

/-- The controller and its trunk number that drive column trunk t (R22). -/
def colDriver (t : Nat) : Nat × Nat :=
  let b := t / 24
  let g := t % 24
  if b < 2 then (36 + g / 2, 2 * b + g % 2) else (12 + g / 2, 2 * (b - 2) + g % 2)

/-! ## Field clocks and device time (12_power.md R224 to R226) -/

/-- The field record of a field key. -/
def State.field (s : State) (k : Nat) : Field := mget s.fields k resetField

/-- Fortieths of a cycle per nanosecond: 60 at 1.5 GHz, a quarter under throttle (R223, R224). -/
def State.rate (s : State) (k : Nat) : Nat :=
  let f := s.field k
  let r := match f.cur.toNat with
    | 0 => 60
    | 1 => 48
    | 2 => 36
    | _ => 24
  if (s.wafer (k / 128)).thrAct then r / 4 else r

/-- Device time as wafer w reads it, from the instant of pod formation (R225). -/
def State.devTime (s : State) (w : Nat) : Nat := s.time - s.epoch + (s.wafer w).skew

/-- Edges of a field's clock from device time 0 to `d`, at the rate now in force: an edge falls on every whole microsecond, so that each
counts 1,000 × f cycles (R226). -/
def State.edges (s : State) (k d : Nat) : Nat := s.rate k * d / 40

/-- Whole cycles that the field has counted: those up to the last change of its clock, and the edges since (R226). -/
def State.cycles (s : State) (k : Nat) : Nat :=
  (s.field k).cycBase + s.edges k (s.devTime (k / 128)) - s.edges k (s.field k).timeBase

/-- The first device time, in whole nanoseconds, at which an edge of a field's clock at or past `d` has come (R227). -/
def State.edgeAt (s : State) (k d : Nat) : Nat :=
  let r := s.rate k
  if r * d % 40 = 0 then d else (40 * (s.edges k d + 1) + r - 1) / r

/-- The device time at which TIMEDGO lets core `n` go: the first edge at or past its target and its issue (R227; 23_ref_t_z.md R394). -/
def State.goEdge (s : State) (n : Nat) (t : W64) (since : Nat) : Nat := s.edgeAt (nField n) (max t.toNat since)

/-! ## Homes (04_memory.md R80 to R82) -/

/-- The home of a physical byte address. -/
inductive Home where
  /-- HBM of controller m of wafer w, at offset o of its stack. -/
  | hbm (w m o : Nat)
  /-- Window of slot sl of controller m (09_edge.md R180), at offset o. -/
  | window (w m sl o : Nat)
  /-- Local space of a quad, at local address l. -/
  | quad (w qn l : Nat)
  /-- Host memory behind port p. -/
  | host (w p : Nat)
  /-- Unbacked. -/
  | none
  deriving DecidableEq, Repr

/-- The home of a 53-bit physical address, by the map of R80 alone. -/
def homeOf (pa : Nat) : Home :=
  let w := pa / 2 ^ 48
  let p := pa % 2 ^ 48
  if p < 0x024000000000 then
    let g := p / 4096
    .hbm w (g % 48) ((g / 48) * 4096 + p % 4096)
  else if 0x100000000000 ≤ p ∧ p < 0x130000000000 then
    let m := (p - 0x100000000000) / 0x1000000000
    let o := (p - 0x100000000000) % 0x1000000000
    if o < 0xC00000000 then .hbm w m o
    else .window w m ((o - 0xC00000000) / 0x40000000) ((o - 0xC00000000) % 0x40000000)
  else if 0x200000000000 ≤ p ∧ p < 0x2000C6000000 then
    .quad w ((p - 0x200000000000) / 0x80000) ((p - 0x200000000000) % 0x80000)
  else if 0x400000000000 ≤ p ∧ p < 0x800000000000 then .host w ((p / 2 ^ 44) % 4)
  else .none

/-- The one address under which a byte is kept: the direct-window alias of an interleaved address (R81). -/
def canon (pa : Nat) : Nat :=
  match homeOf pa with
  | .hbm w m o => w * 2 ^ 48 + 0x100000000000 + m * 0x1000000000 + o
  | _ => pa

/-- The physical address of local address l of a quad (R80). -/
def quadPa (w qn l : Nat) : Nat := w * 2 ^ 48 + 0x200000000000 + qn * 0x80000 + l

/-- The first byte of the window of slot sl of controller m (09_edge.md R180). -/
def winPa (w m sl : Nat) : Nat := w * 2 ^ 48 + 0x100000000000 + m * 0x1000000000 + 0xC00000000 + sl * 0x40000000

/-- The physical address of a wafer's register-held local physical address. -/
def waferPa (w p : Nat) : Nat := w * 2 ^ 48 + p

/-- The local window (04_memory.md R77). -/
def localBase : Nat := 0xFFFFFFFFF80000

/-- Whether a virtual address lies in the local window. -/
def inLocal (va : W64) : Bool := localBase ≤ va.toNat && va.toNat < localBase + 0x80000

/-- Whether a home lies inside the instance of scope `sc` that contains a core (R311; 01_machine.md R24). -/
def homeInScope (name sc : Nat) (h : Home) : Bool :=
  match h with
  | .quad w qn _ =>
    if sc ≤ 1 then w == nWafer name && qn == nQn name
    else if sc = 2 then w == nWafer name && qnField qn == qnField (nQn name)
    else if sc = 3 then w == nWafer name
    else true
  | .hbm w _ _ => if sc ≤ 2 then false else if sc = 3 then w == nWafer name else true
  | .window w _ _ _ => if sc ≤ 2 then false else if sc = 3 then w == nWafer name else true
  | .host _ _ => sc == 5
  | .none => true

/-- The quad numbers of a rectangle. -/
def rectQuads (tq0 ty0 tw th : Nat) : List Nat :=
  (List.range th).flatMap fun y => (List.range tw).map fun x => (ty0 + y) * 72 + tq0 + x

end Sys2Proof.Machine
end

