-- ==== Sys2Proof/Machine/Regs.lean ====
section
/-! DEFINITION. Reading and writing the registers of a core with their presence bits (04_memory.md R74, R75), the cores
and units of the state, and raising supervisor events (11_faults.md R207, R208) and holding faults (R210). -/

namespace Sys2Proof.Machine

/-! ## Registers -/

/-- x[r]; x0 reads zero (R74). -/
def Core.get (c : Core) (r : Reg) : W64 := if r = 0 then 0 else c.x.get r.toFin

/-- present(x[r]); x0 is always full (R74). -/
def Core.isFull (c : Core) (r : Reg) : Bool := r == 0 || c.full.getLsbD r.toNat

/-- The mask of one register's bit. -/
def regMask (r : Reg) : BitVec 32 := 1#32 <<< r.toNat

/-- Writes x[r] and marks it full; writes to x0 are discarded (R74). -/
def Core.put (c : Core) (r : Reg) (v : W64) : Core :=
  if r = 0 then c else { c with x := c.x.set r.toNat v r.isLt, full := c.full ||| regMask r }

/-- Marks x[r] empty, as a long-latency producer does at issue (R74). -/
def Core.mkEmpty (c : Core) (r : Reg) : Core := if r = 0 then c else { c with full := c.full &&& ~~~ regMask r }

/-- Whether an access is a producer whose value has not reached its register: a load, an AMO or an LDFE with d ≠ 0. -/
def Access.pends (a : Access) (r : Reg) : Bool :=
  r != 0 && a.dst == r && (match a.kind with
    | .ld => true
    | .amo _ => true
    | .ldfe => true
    | _ => false)

/-- Whether x[r] has a local producer outstanding (R74): an access of the port, or an FWAIT that waits. -/
def Core.producing (c : Core) (r : Reg) : Bool :=
  c.port.any (·.pends r) || (match c.hold with
    | .fwait _ d _ => r != 0 && d == r
    | _ => false)

/-! ## Units of the state -/

/-- The core of a name. -/
def State.core (s : State) (n : Nat) : Core := mget s.cores n resetCore

/-- Puts back a core. -/
def State.setCore (s : State) (n : Nat) (c : Core) : State := { s with cores := mput s.cores n c }

/-- The core that issues. -/
def State.me (s : State) : Core := s.core s.cur

/-- Puts back the core that issues. -/
def State.setMe (s : State) (c : Core) : State := s.setCore s.cur c

/-- The quad of a key. -/
def State.quad (s : State) (k : Nat) : Quad := mget s.quads k resetQuad

/-- Puts back a quad. -/
def State.setQuad (s : State) (k : Nat) (q : Quad) : State := { s with quads := mput s.quads k q }

/-- Puts back a field. -/
def State.setField (s : State) (k : Nat) (f : Field) : State := { s with fields := mput s.fields k f }

/-- Puts back a wafer. -/
def State.setWafer (s : State) (k : Nat) (w : Wafer) : State := { s with wafers := mput s.wafers k w }

/-- The controller of a key. -/
def State.ctl (s : State) (k : Nat) : Ctl := mget s.ctls k resetCtl

/-- Puts back a controller. -/
def State.setCtl (s : State) (k : Nat) (c : Ctl) : State := { s with ctls := mput s.ctls k c }

/-- The engine queue of a key. -/
def State.queue (s : State) (k : Nat) : EngQ := mget s.queues k resetEngQ

/-- Puts back an engine queue. -/
def State.setQueue (s : State) (k : Nat) (q : EngQ) : State := { s with queues := mput s.queues k q }

/-- The link of a key. -/
def State.link (s : State) (k : Nat) : Link := mget s.links k resetLink

/-- Puts back a link. -/
def State.setLink (s : State) (k : Nat) (l : Link) : State := { s with links := mput s.links k l }

/-- The partition record of wafer × 64 + partition. -/
def State.part (s : State) (k : Nat) : Part := mget s.parts k resetPart

/-- Puts back a partition. -/
def State.setPart (s : State) (k : Nat) (p : Part) : State := { s with parts := mput s.parts k p }

/-- The node that a reference names, if its sheaf is live. -/
def State.node? (s : State) (r : NodeRef) : Option Node :=
  match mfind s.sheaves r.sheaf with
  | some sh => mfind sh.nodes r.node
  | none => none

/-- Puts back a node of a live sheaf. -/
def State.setNode (s : State) (r : NodeRef) (n : Node) : State :=
  match mfind s.sheaves r.sheaf with
  | some sh => { s with sheaves := mput s.sheaves r.sheaf { sh with nodes := mput sh.nodes r.node n } }
  | none => s

/-- Changes a node of a live sheaf. -/
def State.modNode (s : State) (r : NodeRef) (f : Node → Node) : State :=
  match s.node? r with
  | some n => s.setNode r (f n)
  | none => s

/-- Wafer of a sheaf key. -/
def shWafer (k : Nat) : Nat := k / 4096

/-- Partition of a sheaf key. -/
def shPart (k : Nat) : Nat := (k / 64) % 64

/-- Place of a sheaf key in its partition's list (R189). -/
def shSlot (k : Nat) : Nat := k % 64

/-- The partition record's key of a sheaf key. -/
def shPartKey (k : Nat) : Nat := k / 64

/-- Key of queue `q` of engine `eng` (0 matrix, 1 copy, 2 network): of a core for the matrix engine, of a quad's core 0
for the others (R255). -/
def queueKey (name eng q : Nat) : Nat := ((if eng = 0 then name else 4 * nQuad name) * 4 + eng) * 4 + q

/-- Core name of a queue key. -/
def qName (k : Nat) : Nat := k / 16

/-- Engine code of a queue key. -/
def qEng (k : Nat) : Nat := (k / 4) % 4

/-! ## Events and faults -/

/-- Raises a supervisor event: it waits with its unit until EVENT_POST writes it (R207). -/
def State.raiseEv (s : State) (w : Nat) (e : Ev) : State :=
  s.setWafer w { s.wafer w with raised := (s.wafer w).raised ++ [e] }

/-- Word 2 of an event of kind 4 (R210). -/
def GenFault.word2 (f : GenFault) : W64 :=
  w64 (place f.cls 60 + place f.ty 56 + place f.gen 52 + place f.stream 48 + place f.acc 46 + f.agent % 2 ^ 20)

/-- Words 3 to 5 of an event of kind 4: the loop counters, i0 in bits 31:0 of word 3 (R210). -/
def ctrWords (c : List Nat) : List W64 :=
  let g := fun i => nth c i 0 % 2 ^ 32
  [w64 (g 0 + place (g 1) 32), w64 (g 2 + place (g 3) 32), w64 (g 4 + place (g 5) 32)]

/-- The kind 4 event of a fault (R210). -/
def GenFault.event (f : GenFault) (what : EvWhat) : Ev :=
  { kind := 4, ref := f.ref, words := f.va :: f.word2 :: ctrWords f.ctrs ++ [0], what := what, core := none }

/-- Holds a fault under a fresh number and posts its event (R210). -/
def State.holdFault (s : State) (f : GenFault) : State × Nat :=
  let id := s.serial
  ({ s with faults := mput s.faults id f, serial := s.serial + 1 }.raiseEv f.wafer (f.event (.fault id)), id)

/-- The node whose strand a core runs. -/
def Core.ref (c : Core) : Option NodeRef := c.strand.map (·.ref)

/-- A fault of a core's load-store port (class 0, depth zero) or fetch port (R210). -/
def State.portFault (s : State) (n : Nat) (owner : Owner) (va : W64) (ty acc : Nat) : GenFault :=
  { owner := owner, ref := (s.core n).ref, wafer := nWafer n, cls := 0, agent := n, gen := 0, stream := 0,
    va := va, ty := ty, acc := acc, ctrs := [] }

/-- Stops a core at a fault (R210): it issues nothing until the supervisor acts. -/
def State.stopCore (s : State) (n : Nat) (owner : Owner) (va : W64) (ty acc : Nat) : State :=
  let (s1, id) := s.holdFault (s.portFault n owner va ty acc)
  s1.setCore n { s1.core n with fault := some id, wait := none, tried := none }

/-- The core without the reads performed ahead of any byte of a run (05_ordering.md R98). -/
def Core.dropEarly (c : Core) (pa size : Nat) : Core :=
  { c with early := c.early.filter fun e => !(canon e.pa < canon pa + size && canon pa < canon e.pa + e.size) }

/-- A read performed ahead, after the core has performed a read that returned the releases `rels`; of none, the read is one that no scope
sets aside (05_ordering.md R96, R108). -/
def Early.after (e : Early) (rels : List Rel) : Early :=
  if rels.isEmpty then { e with late := true } else { e with since := rels.filter (fun r => !e.since.contains r) ++ e.since }

/-- The core after a read of the releases `rels`, as to its reads performed ahead. -/
def Core.noted (c : Core) (rels : List Rel) : Core := { c with early := c.early.map (·.after rels) }

/-- The core after an instruction that has learnt of another agent, or that a FENCE.acq after it may not set aside (R108; log 36). -/
def Core.learnt (c : Core) : Core := c.noted []

/-- The core after a read of `size` bytes has performed: nothing read earlier serves those bytes (R98), and the releases that it returned
count for the next fence (R108). -/
def Core.didRead (c : Core) (pa size : Nat) (rels : List Rel) : Core := (c.dropEarly pa size).noted rels

/-- The core after its vector unit has written `size` bytes: a read of them performed ahead serves no load past a VFENCE
(23_ref_t_z.md R405). -/
def Core.vecWrote (c : Core) (pa size : Nat) : Core :=
  { c with early := c.early.map fun e =>
      if canon e.pa < canon pa + size && canon pa < canon e.pa + e.size then { e with vec := true } else e }

/-- The core after a FENCE.rel at scope `sc` has completed (R108, R338): the next write of its port is the release, and no read made before
serves a load past a FENCE.acq. -/
def Core.relFence (c : Core) (sc : Nat) : Core := { c.learnt with fence := some (max sc (c.fence.getD 0)) }

/-- Whether a core's strand is ending, and no handler of its RETIRE's trap runs (02_execution.md R42, 21_ref_d_l.md R348). -/
def Core.ends (c : Core) : Bool :=
  match c.ending with
  | some e => !(e.trapped && c.tm)
  | none => false

/-- Whether a core's port or fetch port may stop it: it runs a strand that is neither stopped nor taken from it. -/
def State.stoppable (s : State) (n : Nat) : Bool :=
  (s.core n).strand.isSome && (s.core n).fault.isNone && (match (s.core n).ending with
    | some e => e.reason == 0
    | none => true)

/-! ## Fabrics -/

/-- The controller whose edge fabric a fabric key names, where it is odd (2 × controller + 1); else it is 2 × residency. -/
def fabCtl (k : Nat) : Option Nat := if k % 2 = 1 then some (k / 2) else none

/-- The live plane of a fabric. -/
def State.plane (s : State) (k : Nat) : Plane :=
  match fabCtl k with
  | some c => (s.ctl c).fab
  | none =>
    match mfind s.resids (k / 2) with
    | some r => r.live
    | none => resetPlane

/-- Puts back the live plane of a fabric. -/
def State.setPlane (s : State) (k : Nat) (p : Plane) : State :=
  match fabCtl k with
  | some c => s.setCtl c { s.ctl c with fab := p }
  | none =>
    match mfind s.resids (k / 2) with
    | some r => { s with resids := mput s.resids (k / 2) { r with live := p } }
    | none => s

/-- The cell, router or generator of a site of a plane. -/
def Plane.cell (p : Plane) (site : Nat) : Cell := mget p.cells site resetCell

/-- Puts back a cell. -/
def Plane.setCell (p : Plane) (site : Nat) (c : Cell) : Plane := { p with cells := mput p.cells site c }

/-- The cell of a site of a fabric. -/
def State.cell (s : State) (k site : Nat) : Cell := (s.plane k).cell site

/-- Puts back a cell of a fabric. -/
def State.setCell (s : State) (k site : Nat) (c : Cell) : State := s.setPlane k ((s.plane k).setCell site c)

/-- The copy of an operator at a site of a plane. -/
def Plane.lane (p : Plane) (site : Nat) : Lane := mget p.lanes site resetLane

/-- Puts back a copy. -/
def Plane.setLane (p : Plane) (site : Nat) (l : Lane) : Plane := { p with lanes := mput p.lanes site l }

/-- The copy of an operator at a site of a fabric. -/
def State.lane (s : State) (k site : Nat) : Lane := (s.plane k).lane site

/-- Puts back a copy of a fabric's plane. -/
def State.setLane (s : State) (k site : Nat) (l : Lane) : State := s.setPlane k ((s.plane k).setLane site l)

/-- A channel of a plane: into cell × 16 + port at a router, 15 for the cell's result; into consumer × 16 + selector for a
generator's stream (4 to 11) and for the message port's end-of-stream (12). -/
def Plane.chan (p : Plane) (k : Nat) : Chan := mget p.chans k resetChan

/-- Puts back a channel. -/
def Plane.setChan (p : Plane) (k : Nat) (c : Chan) : Plane := { p with chans := mput p.chans k c }

/-- Whether an accepted LTX has a block that has not been sent and that it has not yet read (07_networks.md R144). -/
def Ltx.reading (j : Ltx) : Bool := j.buf.isNone && j.sent < bits j.q.c.w2 25 14 + 1

/-- The first job of a list that has a block to read: the one whose read generator is at work (21_ref_d_l.md R359). -/
def holdJob (g id : Nat) : List Ltx → List Ltx
  | [] => []
  | j :: r => if j.group = g ∧ j.reading then { j with fault := some id } :: r else j :: holdJob g id r

/-- A generator faults (R210): its event is posted, and its owner holds the access. -/
def State.raiseGen (s : State) (f : GenFault) : State :=
  let (s', id) := s.holdFault f
  match f.owner with
  | .port n => if s.stoppable n then s'.setCore n { s.core n with fault := some id, wait := none } else s
  | .fetch n => if s.stoppable n then s'.setCore n { s.core n with fault := some id, wait := none } else s
  | .late n _ => s'.setCore n { s.core n with fault := some id, wait := none }
  | .vec n => s'.setCore n { s.core n with vfault := some id }
  | .queue q => s'.setQueue q { s.queue q with fault := some id }
  | .ltx c g =>
    let k := s'.ctl c
    s'.setCtl c { k with jobs := holdJob g id k.jobs }
  | .fab k site => s'.setLane k site { s'.lane k site with fault := some id }
  | .edge c sl =>
    let e := mget (s'.ctl c).slots sl resetSlot
    s'.setCtl c { s'.ctl c with slots := mput (s'.ctl c).slots sl { e with fault := some id } }
  | .red g =>
    match mfind s'.reds g with
    | some r => { s' with reds := mput s'.reds g { r with drain := { r.drain with fault := some id } } }
    | none => s'
  | .cred g w =>
    match mfind s'.creds g with
    | some r =>
      let p := mget r.parts w resetCredW
      { s' with creds := mput s'.creds g { r with parts := mput r.parts w { p with drain := { p.drain with fault := some id } } } }
    | none => s'
  | .gs sheaf node => s'.modNode ⟨sheaf, node⟩ fun n => { n with fault := some id }

end Sys2Proof.Machine
end

