-- ==== Sys2Proof/Machine/Port.lean ====
section
/-! DEFINITION. The accesses of a core's load-store port and their order (05_ordering.md R94 to R108): what an access is, whether it may
perform, what releases and acquires wait for, and which of them synchronise. -/

namespace Sys2Proof.Machine

/-! ## What the core's earlier work still has to do -/

/-- Whether an access has performed. -/
def Access.performed (a : Access) : Bool :=
  match a.phase with
  | .performed _ => true
  | _ => false

/-- An ST or STFE that no acknowledgement has answered (22_ref_m_s.md R387). -/
def Access.unackedStore (a : Access) : Bool :=
  match a.kind with
  | .st => true
  | .stfe => true
  | _ => false

/-- An STA that no acknowledgement has answered (R389). -/
def Access.isSta (a : Access) : Bool := a.kind == .sta

/-- A read of the port: a load, an AMO, an LDFE or a WAITF. -/
def Access.isRead (a : Access) : Bool :=
  match a.kind with
  | .st => false
  | .stfe => false
  | .sta => false
  | _ => true

/-- A write of the port: a store, or an AMO (20_ref_a_c.md R310). -/
def Access.isWrite (a : Access) : Bool :=
  match a.kind with
  | .st => true
  | .stfe => true
  | .sta => true
  | .amo _ => true
  | _ => false

/-- A write to a host window, which a release narrower than system scope does not wait for (21_ref_d_l.md R338). -/
def Access.toHost (a : Access) : Bool :=
  match homeOf a.pa with
  | .host _ _ => !a.isRead
  | _ => false

/-- Whether an access may still be outstanding when a release at scope `sc` performs: an STA of a wider sc (R99, R107). -/
def Access.beyond (a : Access) (sc : Nat) : Bool := a.isSta && sc < a.sc

/-- Whether an access may still be outstanding when a FENCE.rel at scope `sc` completes: as for any release, or a host-window
write outside the scope (R338). -/
def Access.beyondFence (a : Access) (sc : Nat) : Bool := a.beyond sc || (a.toHost && sc < 5)

/-- Whether every earlier access of the core and of its vector commands has performed, for a release at `sc` (R99). -/
def Core.released (c : Core) (sc : Nat) : Bool :=
  c.port.all (fun a => a.performed && !a.isSta && !a.toHost || a.beyond sc) && c.vq.isEmpty

/-- Whether FENCE.rel at `sc` completes (R108, R338), and with it the fence of a RETIRE (02_execution.md R42). -/
def Core.fenced (c : Core) (sc : Nat) : Bool :=
  c.port.all (fun a => a.performed && !a.isSta && !a.toHost || a.beyondFence sc) && c.vq.isEmpty

/-- Whether every earlier read has returned its value (R108). -/
def Core.acquired (c : Core) : Bool := c.port.all (fun a => !a.isRead) && c.vq.isEmpty

/-! ## Acquires and what they order (05_ordering.md R96, R100, R108) -/

/-- The quad of an agent, where it belongs to one. -/
def Party.quad (p : Party) : Option Nat :=
  match p with
  | .core n => some (nQuad n)
  | .engine q => some q
  | _ => none

/-- The field of an agent, where it belongs to a quad or island. -/
def Party.field (p : Party) : Option Nat :=
  match p with
  | .core n => some (nField n)
  | .engine q => some (nField (4 * q))
  | .island f => some f
  | .outside _ => none

/-- The wafer of an agent. -/
def Party.wafer (p : Party) : Nat :=
  match p with
  | .core n => nWafer n
  | .engine q => nWafer (4 * q)
  | .island f => f / 128
  | .outside w => w

/-- The narrowest scope that an agent treats as such (01_machine.md R25): one on an island treats core and quad scope as field scope; one
that belongs to no quad or island treats core, quad and field scope as wafer scope. -/
def Party.least (p : Party) : Nat :=
  match p with
  | .core _ => 0
  | .engine _ => 0
  | .island _ => 2
  | .outside _ => 3

/-- Whether agent `q` lies in the instance of scope `sc` that contains agent `p` (R24, R25). R24 names no copy or network engine in a core
scope: the instance of core scope that contains one holds no core (DESIGN CHOICE, log 101). -/
def Party.covers (p : Party) (sc : Nat) (q : Party) : Bool :=
  match max sc p.least with
  | 0 => p == q
  | 1 => q.quad == p.quad
  | 2 => q.field == p.field
  | 3 => q.wafer == p.wafer
  | _ => true

/-- Whether a release and an acquire at scope `sc` by core `n` can synchronise (R96). -/
def synchronises (n sc : Nat) (r : Rel) : Bool := r.who.covers r.sc (.core n) && (Party.core n).covers sc r.who

/-- The core after an acquire: no read that performed ahead serves a later load (R100). -/
def Core.acquire (c : Core) : Core := { c with early := [] }

/-- Whether a read performed ahead outlives a FENCE.acq of core `n` at scope `sc`: all that the core has done since is reads that returned
releases, and each of them fails R96, so that the pair creates no order (R96, R108; log 36). -/
def Early.outlives (e : Early) (n sc : Nat) : Bool := !e.late && !e.since.isEmpty && !e.since.any (synchronises n sc)

/-- The core after a FENCE.acq of core `n` at scope `sc` (R108): no later access performs before the earlier reads, except where R96 sets the
order aside. -/
def Core.acquireAt (c : Core) (n sc : Nat) : Core := { c with early := c.early.filter (·.outlives n sc) }

/-- The core after an acquire of core `n` at scope `sc` whose own read returned the releases `rels` (R100): no order where each fails R96. -/
def Core.acquireRead (c : Core) (n sc : Nat) (rels : List Rel) : Core :=
  if rels.isEmpty || rels.any (synchronises n sc) then c.acquire else c

/-- The core's ordering state as a strand finds it. -/
def Core.unordered (c : Core) : Core := { c with early := [], fence := none, again := none, go := false, tried := none }

/-- Whether a store may issue: every earlier ST and STFE has been acknowledged (R387). -/
def Core.storesAcked (c : Core) : Bool := c.port.all (fun a => !a.unackedStore)

/-! ## Accesses of the port -/

/-- Whether two accesses touch a common byte. -/
def Access.overlaps (a b : Access) : Bool :=
  let p := canon a.pa
  let q := canon b.pa
  p < q + b.size && q < p + a.size

/-- The access with an identifier in a core's port. -/
def Core.find (c : Core) (id : Nat) : Option Access := c.port.find? (·.id == id)

/-- Changes the phase of an access. -/
def Core.setPhase (c : Core) (id : Nat) (p : Phase) : Core :=
  { c with port := c.port.map fun a => if a.id == id then { a with phase := p } else a }

/-- An access of the core has performed with a value (0 for a write): a core that waited for it to be made again goes on (22_ref_m_s.md
R388). -/
def Core.done (c : Core) (id : Nat) (v : W64) : Core :=
  { c.setPhase id (.performed v) with again := if c.again = some id then none else c.again }

/-- An AMO.CAS, which writes nothing where it does not match (20_ref_a_c.md R310). -/
def Access.isCas (a : Access) : Bool := a.kind == .amo .cas

/-- Whether an access has yet to be known as FENCE.rel's next write, behind an AMO.CAS that carries the fence's release and may yet write
nothing, and no other write than such (R108, R310): `earlier` are the accesses before it. -/
def heir (earlier : List Access) : Bool :=
  earlier.any fun c => c.isCas && c.rel && !c.performed && earlier.all fun b => b.id ≤ c.id || !b.isWrite || b.isCas

/-- Whether an issued access may perform now: program order to a common byte (R98), no earlier unperformed acquire
(R100), for a release everything before it at its home, the exception of R107 apart (R99), and for a write no doubt whether it is
FENCE.rel's (R108). -/
def Core.mayPerform (c : Core) (a : Access) : Bool :=
  let earlier := c.port.filter (·.id < a.id)
  earlier.all (fun b => b.performed || (!a.overlaps b && !b.acq)) && !(a.isWrite && heir earlier)
    && (!a.rel || (earlier.all (fun b => b.performed && !b.isSta && !b.toHost || b.beyond a.relSc)
        && c.vq.all (fun v => a.id < v.id)))

/-- The release that a write of core `n` is (05_ordering.md R96, R99). -/
def Access.release (a : Access) (n : Nat) : Option Rel := if a.rel then some ⟨.core n, a.relSc⟩ else none

/-- Whether a read performed ahead serves a load: of the same bytes, by a load that is no acquire (R98). -/
def Early.serves (e : Early) (a : Access) : Bool := !a.acq && canon e.pa == canon a.pa && e.size == a.size

/-- The read performed ahead that serves a load. -/
def Core.earlyFor (c : Core) (a : Access) : Option Early := c.early.find? (·.serves a)

/-- The reads performed ahead, newest first, after a load: where one of them serves it, the load has performed before those in front of
it, and only those behind it are older. -/
def agedBy (a : Access) (rels : List Rel) : List Early → List Early
  | [] => []
  | e :: r => if e.serves a then r.map (·.after rels) else e :: agedBy a rels r

/-- The core after its load `a` has performed and returned the releases `rels`. -/
def Core.didLoad (c : Core) (a : Access) (rels : List Rel) : Core :=
  match c.earlyFor a with
  | some _ => { c with early := agedBy a rels c.early }.dropEarly a.pa a.size
  | none => c.didRead a.pa a.size rels

/-- The core after its load `a` has returned `v`, written by the releases `rels`: the read has performed, and an LD with ord=1 acquires
(R100), without an order where R96 allows none. -/
def Core.loaded (c : Core) (n : Nat) (a : Access) (v : W64) (rels : List Rel) : Core :=
  let c := (c.done a.id v).didLoad a rels
  if a.acq then c.acquireRead n a.sc rels else c

/-- The core after an AMO.CAS that was the next write after a FENCE.rel has written nothing: the write after it is the fence's release
(05_ordering.md R108; 20_ref_a_c.md R310). -/
def Core.passFence (c : Core) (a : Access) : Core :=
  if !a.rel then c
  else match c.port.find? fun b => a.id < b.id && b.isWrite && !b.performed with
    | some w => { c with port := c.port.map fun b => if b.id == w.id then { b with rel := true, relSc := max b.relSc a.relSc } else b }
    | none => { c with fence := some (max a.relSc (c.fence.getD 0)) }

/-- The new stored word of an AMO on `n` bits (R309). -/
def amoNew (op : AmoOp) (n m v : Nat) : Nat :=
  match op with
  | .add => (m + v) % 2 ^ n
  | .and => m &&& v
  | .or => m ||| v
  | .xor => m ^^^ v
  | .min => if sgn m n ≤ sgn v n then m else v
  | .max => if sgn m n ≤ sgn v n then v else m
  | .minn => if m ≤ v then m else v
  | .maxn => if m ≤ v then v else m
  | .swp => v
  | .cas => v

end Sys2Proof.Machine
end

