-- ==== Sys2Proof/Machine/Memory.lean ====
section
/-! DEFINITION. Bytes at their homes: reading, and the one write every agent makes, with its poison (11_faults.md R211),
swizzle tags (06_matrix.md R133), trace ring (04_memory.md R90) and the watches it ends (23_ref_t_z.md R406). -/

namespace Sys2Proof.Machine

/-! ## The list of bytes -/

/-- The byte at a key; a byte that nothing has written reads 0 (log 4). -/
def memGet (m : List Host.Cell) (a : Nat) : Byte :=
  match m with
  | [] => 0
  | (a', b) :: r => if a' = a then b else memGet r a

/-- Takes the entry of `a` out of rising cells. -/
def memDel (m : List Host.Cell) (a : Nat) : List Host.Cell :=
  match m with
  | [] => []
  | (a', b) :: r => if a' = a then r else (a', b) :: memDel r a

/-- Puts a byte into rising cells. -/
def memIns (m : List Host.Cell) (a : Nat) (v : Byte) : List Host.Cell :=
  match m with
  | [] => [(a, v)]
  | (a', b) :: r => if a' = a then (a, v) :: r else if a < a' then (a, v) :: (a', b) :: r else (a', b) :: memIns r a v

/-- Writes a byte: writing what an unlisted byte reads as removes the entry. -/
def memPut (m : List Host.Cell) (a : Nat) (v : Byte) : List Host.Cell := if v = 0 then memDel m a else memIns m a v

/-- The canonical form: addresses strictly rising above `lo`, no entry 0. -/
def memWfFrom (lo : Nat) (m : List Host.Cell) : Bool :=
  match m with
  | [] => true
  | (a, b) :: r => lo ≤ a && b != 0 && memWfFrom (a + 1) r

/-- The canonical form of memory. -/
def Memory.wf (m : List Host.Cell) : Bool := memWfFrom 0 m

/-! ## Rings of residencies (R92; 08_fabric.md R175) -/

/-- The number of the 4 KiB page of a physical address. -/
def pageOf (pa : Nat) : Nat := canon (pa / 4096 * 4096) / 4096

/-- Whether a physical address lies in a spill or husk ring of a live residency. -/
def State.inRing (s : State) (pa : Nat) : Bool :=
  s.resids.any fun e => shas e.2.spillPages (pageOf pa) || shas e.2.huskPages (pageOf pa)

/-- Whether some byte of a run lies in such a ring. -/
def State.ringRun (s : State) (pa n : Nat) : Bool := (List.range ((pa + n + 4095) / 4096 - pa / 4096)).any fun i => s.inRing ((pa / 4096 + i) * 4096)

/-! ## Reading -/

/-- The byte of a physical address; a ring's layout is not defined, and what a read of it finds is left open (R92). -/
def State.byteAt (s : State) (pa : Nat) : Byte :=
  if s.inRing pa then Config.ringByte s.tick (canon pa) else memGet s.mem (canon pa)

/-- Whether the memory word that holds a physical address is poisoned (R211). -/
def State.poisonAt (s : State) (pa : Nat) : Bool := shas s.poison (canon (pa / 8 * 8))

/-- `n` bytes from `pa` with their words' poison marks. -/
def State.readRun (s : State) (pa n : Nat) : List (Byte × Bool) :=
  match n with
  | 0 => []
  | k + 1 => (s.byteAt pa, s.poisonAt pa) :: s.readRun (pa + 1) k

/-- The number that `n` bytes from `pa` hold. -/
def State.readNat (s : State) (pa n : Nat) : Nat :=
  match n with
  | 0 => 0
  | k + 1 => (s.byteAt pa).toNat + 256 * s.readNat (pa + 1) k

/-- The 64-bit word at `pa`. -/
def State.readW (s : State) (pa : Nat) : W64 := w64 (s.readNat pa 8)

/-- Whether a memory word of the run of `n` bytes from `pa` is poisoned. -/
def State.poisonRun (s : State) (pa n : Nat) : Bool :=
  (List.range ((pa + n + 7) / 8 - pa / 8)).any fun i => s.poisonAt ((pa / 8 + i) * 8)

/-- The number that bytes hold (R3). -/
def runNat (bs : List (Byte × Bool)) : Nat :=
  match bs with
  | [] => 0
  | (b, _) :: r => b.toNat + 256 * runNat r

/-- Little-endian bytes of a number with one poison mark. -/
def natRun (n v : Nat) (p : Bool) : List (Byte × Bool) :=
  match n with
  | 0 => []
  | k + 1 => (BitVec.ofNat 8 v, p) :: natRun k (v / 256) p

/-! ## Writing -/

/-- What a write says of itself: the trace kind, class and agent of R90, whether its page is a trace page, and the
swizzle tag it sets. -/
structure WInfo where
  kind : Nat
  cls : Nat
  agent : Nat
  trc : Bool
  tag : Nat

/-- Puts bytes into memory, from `pa` on. -/
def putBytes (m : List Host.Cell) (pa : Nat) (bs : List (Byte × Bool)) : List Host.Cell :=
  match bs with
  | [] => m
  | (b, _) :: r => putBytes (memPut m (canon pa) b) (pa + 1) r

/-- The poison of word `i` after a run is written (R211): set by poisoned bytes, cleared by 8 clean bytes, otherwise
as it was. -/
def wordPoison (p : List Nat) (pa : Nat) (bs : List (Byte × Bool)) (i : Nat) : List Nat :=
  let lo := i * 8
  let inside := (bs.drop (lo - pa)).take (lo + 8 - max lo pa)
  let key := canon lo
  if inside.any (·.2) then sput p key
  else if pa ≤ lo ∧ lo + 8 ≤ pa + bs.length then sdel p key
  else p

/-- The numbers of the memory words that a run touches. -/
def runWords (pa n : Nat) : List Nat := (List.range ((pa + n + 7) / 8 - pa / 8)).map (· + pa / 8)

/-- The swizzle tags after a write: each QSP or RXB block written takes the write's tag (06_matrix.md R133). -/
def setTags (z : Map Nat) (pa n tag : Nat) : Map Nat :=
  match homeOf pa with
  | .quad _ _ _ =>
    ((List.range ((pa + n + 511) / 512 - pa / 512)).map (· + pa / 512)).foldl
      (fun z b => if tag = 0 then mdel z b else mput z b tag) z
  | _ => z

/-- What the bytes of a run say of the release that wrote them, after a write: `rel` is none for a write that is no release
(05_ordering.md R96, R101). -/
def setRels (m : Map Rel) (pa n : Nat) (rel : Option Rel) : Map Rel :=
  match n with
  | 0 => m
  | k + 1 => setRels (match rel with
    | some r => mput m (canon pa) r
    | none => mdel m (canon pa)) (pa + 1) k rel

/-- The releases that last wrote the bytes of a run, for those that a release wrote last. -/
def State.relsAt (s : State) (pa n : Nat) : List Rel :=
  match n with
  | 0 => []
  | k + 1 =>
    let r := s.relsAt (pa + 1) k
    match mfind s.rels (canon pa) with
    | some x => if r.contains x then r else x :: r
    | none => r

/-- A run of bytes placed at its home: bytes, poison (R211), swizzle tags (06_matrix.md R133) and releases. -/
def State.putRun (s : State) (pa : Nat) (bs : List (Byte × Bool)) (tag : Nat) (rel : Option Rel) : State :=
  { s with
    mem := putBytes s.mem pa bs
    poison := (runWords pa bs.length).foldl (fun p k => wordPoison p pa bs k) s.poison
    swz := setTags s.swz pa bs.length tag
    rels := setRels s.rels pa bs.length rel }

/-- The canonical addresses of the words of a run. -/
def wordKeys (pa n : Nat) : List Nat := (runWords pa n).map fun k => canon (k * 8)

/-- The swizzle tag of the block that holds a local physical address. -/
def State.tagAt (s : State) (pa : Nat) : Nat := mget s.swz (pa / 512) 0

/-- Ends a watch of core `n` with the word's new value (R406). -/
def State.endWatch (s : State) (n : Nat) (a : Access) (v : W64) : State :=
  let c := s.core n
  let c := { c with port := c.port.filter (·.id != a.id), hold := .none, wait := none, again := none, pc := c.pc + 4 }
  s.setCore n ((c.didRead a.pa 8 (s.relsAt a.pa 8)).put a.dst v)

/-- The core without the words of a record that its SPAWN reads through an edge window (02_execution.md R40). -/
def Core.dropRecords (c : Core) : Core := { c with port := c.port.filter (·.kind != .record) }

/-- Withdraws an access from a core's port. -/
def Core.withdraw (c : Core) (id : Nat) : Core := { c with port := c.port.filter (·.id != id), hold := .none }

/-- What a write to the watched words does to a core that waits in WAITF (R406): the first write that leaves the word
different ends the wait, and a poisoned word is a fault of type 3, for which a core that is stopped already performs the access again
(11_faults.md R210). -/
def State.wakeOne (s : State) (n : Nat) (words : List Nat) : State :=
  let c := s.core n
  match c.hold with
  | .access id =>
    match c.port.find? (·.id == id) with
    | some a =>
      match a.kind, a.phase with
      | .waitf, .waiting _ =>
        if shas words (canon a.pa) then
          if s.poisonAt a.pa then
            if c.fault.isSome then s.setCore n (c.setPhase id .issued) else (s.setCore n (c.withdraw id)).stopCore n (.port n) a.va 3 0
          else if s.readW a.pa ≠ a.cmp then s.endWatch n a (s.readW a.pa)
          else s
        else s
      | _, _ => s
    | none => s
  | _ => s

/-- Ends the watches that a write satisfies, core by core. -/
def State.wake (s : State) (words : List Nat) : State :=
  (s.cores.map (·.1)).foldl (fun s n => s.wakeOne n words) s

/-- Writes one ring entry of controller m for a piece of a write, which performs as a write does, and steps the port's sequence counter
(R90; 23_ref_t_z.md R406). -/
def State.logPiece (s : State) (w m pa len : Nat) (i : WInfo) : State :=
  let c := s.ctl (w * 64 + m)
  let base := (s.wafer w).ktrb.toNat / 2 ^ 22 * 2 ^ 22
  let at_ := waferPa w (base + m * 0x10000 + (c.trcSeq.toNat % 4096) * 16)
  let w0 := place i.kind 61 + place (len - 1) 55 + pa
  let w1 := place c.trcSeq.toNat 32 + place i.cls 28 + i.agent % 2 ^ 20
  let s := s.setCtl (w * 64 + m) { c with trcSeq := c.trcSeq + 1 }
  (s.putRun at_ (natRun 8 w0 false ++ natRun 8 w1 false) 0 none).wake (wordKeys at_ 16)

/-- Logs a run in pieces within aligned 64-byte blocks, in ascending order (R90). -/
def State.logRun (s : State) (w m pa n : Nat) (i : WInfo) : Nat → State
  | 0 => s
  | k + 1 =>
    if n = 0 then s
    else
      let len := min n (64 - pa % 64)
      State.logRun (s.logPiece w m pa len i) w m (pa + len) (n - len) i k

/-- Logs a write at a controller port when its page is a trace page and KTRB.en is set (R90). -/
def State.trace (s : State) (pa n : Nat) (i : WInfo) : State :=
  if i.trc && n != 0 then
    match homeOf pa with
    | .hbm w m _ => if bitAt (s.wafer w).ktrb 0 then s.logRun w m pa n i (n / 64 + 2) else s
    | _ => s
  else s

/-- A spilled token whose ring an agent has written: its element is left open (R92). -/
def spoilTok (tick i : Nat) (t : Tok) : Tok :=
  match t with
  | .data _ p sc r n => .data (Config.unspecified (tick + i)) p sc r n
  | .eos => .eos

/-- A plane whose spilled tokens are spoilt. -/
def Plane.spoil (p : Plane) (tick : Nat) : Plane :=
  { p with chans := p.chans.map fun e =>
      (e.1, { e.2 with ring := (List.range e.2.ring.length).map fun i => spoilTok tick (64 * e.1 + i) (nth e.2.ring i .eos) }) }

/-- What a write of a run does to the tokens that live residencies have spilled there (R92). -/
def State.spoil (s : State) (pa n : Nat) : State :=
  let hit := fun (r : Resid) => (List.range ((pa + n + 4095) / 4096 - pa / 4096)).any fun i => shas r.spillPages (pageOf ((pa / 4096 + i) * 4096))
  if s.resids.any fun e => hit e.2 then
    { s with resids := s.resids.map fun e =>
        if hit e.2 then (e.1, { e.2 with live := e.2.live.spoil s.tick, planes := e.2.planes.map fun p => p.spoil s.tick }) else e }
  else s

/-- A token poisoned where it lies. -/
def Tok.spoil (t : Tok) : Tok :=
  match t with
  | .data v _ sc r n => .data v true sc r n
  | .eos => .eos

/-- Element i of a list, changed. -/
def atNth {α : Type} (f : α → α) (l : List α) (i : Nat) : List α :=
  match l[i]? with
  | some x => setNth l i (f x)
  | none => l

/-- A plane with an uncorrectable error in what its islands hold of it: a token on chip of a channel, the tokens at a copy, the value that a
router holds, or a copy's sum. -/
def Plane.upset (p : Plane) (kind at_ i : Nat) : Plane :=
  match kind with
  | 0 => let c := p.chan at_; p.setChan at_ { c with toks := atNth Tok.spoil c.toks i }
  | 1 => let l := p.lane at_; p.setLane at_ { l with ops := l.ops.map Tok.spoil, out := l.out.map Tok.spoil }
  | 2 => let c := p.cell at_; p.setCell at_ { c with val := c.val.map Tok.spoil }
  | _ => let l := p.lane at_; p.setLane at_ { l with sum := l.sum.map fun v => (v.1, true) }

/-- Whether a plane is kept on the wafer. -/
def Plane.onDie (p : Plane) : Bool :=
  match p.kept with
  | .ring _ => false
  | _ => true

/-- A residency with its plane of depth `k` changed: the live one at depth 0, or the one that the call to depth `k` froze. -/
def Resid.onPlane (r : Resid) (k : Nat) (f : Plane → Plane) : Resid :=
  if k = 0 then { r with live := f r.live } else { r with planes := atNth f r.planes (k - 1) }

/-- A plane with an uncorrectable error in the tokens that a channel has spilled. -/
def Plane.upsetSpilt (p : Plane) (at_ i : Nat) : Plane :=
  let c := p.chan at_
  p.setChan at_ { c with ring := atNth Tok.spoil c.ring i }

/-- What an uncorrectable error in a word of a residency's rings poisons of it, as the word turns out to hold it (R83): a token spilled there
(R92), or what a plane kept in the husk ring holds (08_fabric.md R175). -/
def Resid.ringHit (r : Resid) (pa k kind at_ i : Nat) : Resid :=
  if shas r.spillPages (pageOf pa) then r.onPlane k (·.upsetSpilt at_ i)
  else if shas r.huskPages (pageOf pa) then r.onPlane k fun p => if p.onDie then p else p.upset kind at_ i
  else r

/-- An uncorrectable error in a ring's word: the rings' layout is not defined (R92), and which token or value the word holds is left open
(log 38). -/
def State.ringError (s : State) (pa : Nat) : State :=
  if s.inRing pa then
    let (k, kind, at_, i) := Config.ringHolds s.tick (canon pa)
    { s with resids := s.resids.map fun e => (e.1, e.2.ringHit pa k kind at_ i) }
  else s

/-- A write of a run of bytes takes its place at its home (R95), as the release `rel` where it is one: bytes, poison, swizzle tags, trace
entries, watches; tokens spilled there are spoilt. -/
def State.land (s : State) (pa : Nat) (bs : List (Byte × Bool)) (i : WInfo) (rel : Option Rel) : State :=
  (((s.putRun pa bs i.tag rel).trace pa bs.length i).wake (wordKeys pa bs.length)).spoil pa bs.length

/-! ## What only a remote home finds (22_ref_m_s.md R388) -/

/-- The slot of an edge window. -/
def State.slotAt (s : State) (w m sl : Nat) : EdgeSlot := mget (s.ctl (w * 64 + m)).slots sl resetSlot

/-- Whether an edge window backs no byte at an offset (09_edge.md R180, R184). -/
def EdgeSlot.unbacked (e : EdgeSlot) (o : Nat) : Bool := !e.bound || e.closing || o ≥ (e.wlen + 1) * 4096

/-- Whether only the remote home finds an address unbacked: a quad of a field disabled there, or an edge window that no slot backs there
(R388; 01_machine.md R26; 09_edge.md R180). -/
def State.remoteUnbacked (s : State) (wf pa : Nat) : Bool :=
  match homeOf pa with
  | .quad w qn _ => w != wf && !s.fieldOn w (qnField qn)
  | .window w m sl o => w != wf && (s.slotAt w m sl).unbacked o
  | _ => false

/-! ## Reads and AMOs that perform before a word is poisoned -/

/-- What a write of core `n` says of itself in a trace ring (R90). -/
def coreInfo (n kind : Nat) (trc : Bool) : WInfo := ⟨kind, 0, n, trc, 0⟩

/-- A load performs on memory as it stands. -/
def State.ldAt (s : State) (n : Nat) (a : Access) : State :=
  s.setCore n ((s.core n).loaded n a (w64 (s.readNat a.pa a.size)) (s.relsAt a.pa a.size))

/-- An AMO performs (20_ref_a_c.md R310). -/
def State.amoAt (s : State) (n : Nat) (op : AmoOp) (a : Access) : State :=
  let m := s.readNat a.pa a.size
  let c := ((s.core n).done a.id (w64 m)).didRead a.pa a.size (s.relsAt a.pa a.size)
  if op == .cas && m != a.cmp.toNat then s.setCore n (c.passFence a)
  else (s.setCore n c).land a.pa (natRun a.size (amoNew op (8 * a.size) m a.data.toNat) false) (coreInfo n 2 a.trc) (a.release n)

/-- A store performs. -/
def State.performSt (s : State) (n kind : Nat) (a : Access) : State :=
  (s.setCore n ((s.core n).done a.id 0)).land a.pa (natRun a.size a.data.toNat false) (coreInfo n kind a.trc) (a.release n)

/-- The first LDFE in the word's order that waits at `pa`: core and access (R78). -/
def State.firstWaiter (s : State) (pa : Nat) : Option (Nat × Access) :=
  s.cores.foldl (fun best p =>
    match p.2.hold with
    | .access id =>
      match p.2.find id with
      | some a =>
        match a.kind, a.phase with
        | .ldfe, .waiting k =>
          if canon a.pa != canon pa then best
          else match best with
            | some (_, b) =>
              match b.phase with
              | .waiting kb => if k < kb then some (p.1, a) else best
              | _ => best
            | none => some (p.1, a)
        | _, _ => best
      | none => best
    | _ => best) none

/-- An LDFE takes its word: the tag becomes empty, the core goes on, and the value is on its way (R352). -/
def State.takeWord (s : State) (n : Nat) (a : Access) : State :=
  let s := { s with qtags := sdel s.qtags (canon a.pa) }
  let c := ((s.core n).done a.id (s.readW a.pa)).didRead a.pa 8 (s.relsAt a.pa 8)
  s.setCore n { c with hold := .none, wait := none, pc := c.pc + 4 }

/-- An STFE sets its word's tag full and satisfies at most one waiting LDFE (R78). -/
def State.fillWord (s : State) (pa : Nat) : State :=
  let s := { s with qtags := sput s.qtags (canon pa) }
  match s.firstWaiter pa with
  | some (n, a) => s.takeWord n a
  | none => s

/-- Whether the core is stopped at this very access (R210, R388): then it waits for the supervisor. -/
def State.heldAt (s : State) (n id : Nat) : Bool :=
  match (s.core n).fault with
  | some f => match mfind s.faults f with
    | some g => g.owner == .late n id
    | none => false
  | none => false

/-- Whether an access of core `n` performs at its home once its order lets it: not one to an edge window, nor one that a remote home finds
unbacked (22_ref_m_s.md R388). -/
def State.sure (s : State) (n : Nat) (a : Access) : Bool :=
  match homeOf a.pa with
  | .window _ _ _ _ => false
  | _ => !s.remoteUnbacked (nWafer n) a.pa

/-- An issued access performs, where its order lets it and its words are sound. -/
def State.settleOne (s : State) (n id : Nat) : State :=
  match (s.core n).find id with
  | none => s
  | some a =>
    if a.phase == .issued && (s.core n).mayPerform a && !s.heldAt n id && s.sure n a then
      match a.kind with
      | .ld => if ((s.core n).earlyFor a).isSome || s.poisonRun a.pa a.size then s else s.ldAt n a
      | .amo op => if s.poisonRun a.pa a.size then s else s.amoAt n op a
      | .st => s.performSt n 0 a
      | .sta => s.performSt n 1 a
      | .stfe => (s.performSt n 0 a).fillWord a.pa
      | _ => s
    else s

/-- Whether an access of a port may hold back a later one of it (R98, R99, R100, R108). -/
def Access.holdsBack (a b : Access) : Bool := a.overlaps b || a.acq || a.rel || (b.rel && !a.beyond b.relSc)

/-- Of a port, newest access first: the loads and AMOs of some words that have not performed, and what may hold them back, in order. -/
def settling (words : List Nat) : List Access → List Access → List Access
  | [], got => got
  | a :: r, got =>
    let due := a.isRead && (wordKeys a.pa a.size).any (shas words)
    if !a.performed && (due || got.any a.holdsBack) then settling words r (a :: got) else settling words r got

/-- The loads and AMOs under way of some words perform, each core's in order and behind what they wait for: a core has gone on past them,
and is never stopped after an access whose words were sound when it issued (20_ref_a_c.md R311; log 102). -/
def State.settle (s : State) (words : List Nat) : State :=
  s.cores.foldl (fun s p => (settling words (s.core p.1).port.reverse []).foldl (fun s a => s.settleOne p.1 a.id) s) s

/-- An uncorrectable error: the memory word of a physical address is poisoned (R83), after the reads of it that cores have issued, and with
it what a ring keeps there. -/
def State.poisonWord (s : State) (pa : Nat) : State :=
  let k := canon (pa / 8 * 8)
  let s := s.settle [k]
  { s with poison := sput s.poison k }.ringError (pa / 8 * 8)

/-- A write of a run of bytes performs at its home (R95), as the release `rel` where it is one; where it poisons words, after the reads of
them that cores have issued. -/
def State.writeAs (s : State) (pa : Nat) (bs : List (Byte × Bool)) (i : WInfo) (rel : Option Rel) : State :=
  if bs.any (·.2) then (s.settle (wordKeys pa bs.length)).land pa bs i rel else s.land pa bs i rel

/-- A write that is no release. -/
def State.write (s : State) (pa : Nat) (bs : List (Byte × Bool)) (i : WInfo) : State := s.writeAs pa bs i none

/-- A hardware write of a 64-bit word that no trace ring logs. -/
def State.writeW (s : State) (pa : Nat) (v : W64) (cls agent : Nat) : State :=
  s.write pa (natRun 8 v.toNat false) ⟨3, cls, agent, false, 0⟩

end Sys2Proof.Machine
end

