-- ==== Sys2Proof/Machine/Translate.lean ====
section
/-! DEFINITION. Translation (04_memory.md R85 to R89, R414) and the check that a physical address may be reached
(R77, R80; 09_edge.md R180). -/

namespace Sys2Proof.Machine

/-- Whose address is translated: the stream's identifier, wafer, field, quad (for the local window), address space and
privilege. -/
structure Who where
  gid : Nat
  wafer : Nat
  field : Nat
  quad : Option Nat
  asid : Nat
  priv : Bool

/-- What translation gives: a physical address with the trc and fmt attributes of its page, a miss, or a fault type. -/
inductive Tr where
  | ok (pa : Nat) (trc fmt : Bool)
  | miss
  | bad (ty : Nat)
  deriving DecidableEq, Repr

/-! ## The walk (R85, R86) -/

/-- The level that follows a table entry: its index bits, leaf size and the alignment of the next table; level 1 has
no leaf. R86 gives no fault for a table entry whose bits 52:48, zero by its map, are not: they are ignored (DESIGN CHOICE, log 96). -/
def walkStep (s : State) (wf asid : Nat) (va : Nat) : Nat → Nat → Except Nat Leaf
  | 0, _ => .error 1
  | left + 1, table =>
    let (lo, width, leafSize, align) := match left with
      | 3 => (43, 13, 0, 0x10000)
      | 2 => (30, 13, 2 ^ 30, 0x1000)
      | 1 => (21, 9, 2 ^ 21, 0x100)
      | _ => (16, 5, 2 ^ 16, 1)
    let at_ := waferPa wf (table + ((va >>> lo) % 2 ^ width) * 8)
    let e := s.readW at_
    let addr := bits e 52 0
    if s.poisonAt at_ then .error 3
    else if !bitAt e 63 || bits e 55 53 != 0 then .error 1
    else if bitAt e 62 then
      if leafSize = 0 || addr % leafSize != 0 then .error 1
      else .ok ⟨wf, asid, va / leafSize * leafSize, leafSize, e⟩
    else if left = 0 || addr % align != 0 then .error 1
    else walkStep s wf asid va left (addr % 2 ^ 48)

/-- The walk of a virtual address under an identifier: the leaf, or the fault type of a failed walk (R87, R88). -/
def walkVa (s : State) (wf asid : Nat) (va : W64) : Except Nat Leaf :=
  let base := bits (s.wafer wf).kastb 47 14 * 2 ^ 14
  let at_ := waferPa wf (base + asid * 16)
  let e := s.readW at_
  if base = 0 then .error 1
  else if s.poisonAt at_ then .error 3
  else if !bitAt e 63 then .error 1
  else walkStep s wf asid va.toNat 4 (bits e 47 16 * 2 ^ 16)

/-! ## The cached translation (R88) -/

/-- Whether a leaf maps an address of an address space. -/
def Leaf.maps (l : Leaf) (asid : Nat) (va : W64) : Bool :=
  l.asid == asid && l.base ≤ va.toNat && va.toNat < l.base + l.size

/-- Whether a leaf permits an access: 0 read, 1 write, 2 AMO, 3 fetch (R86). -/
def Leaf.permits (l : Leaf) (acc : Nat) (priv : Bool) : Bool :=
  (priv || !bitAt l.pte 56) && (match acc with
    | 0 => bitAt l.pte 61
    | 3 => bitAt l.pte 59
    | _ => bitAt l.pte 60)

/-- The physical address of a mapped address. -/
def Leaf.pa (l : Leaf) (va : W64) : Nat := bits l.pte 52 0 + (va.toNat - l.base)

/-- The leaf of a stream's entry, if it maps the address: every stream has one entry (R88). -/
def State.cachedLeaf (s : State) (w : Who) (va : W64) : Option Leaf :=
  match mfind s.streams w.gid with
  | some l => if l.maps w.asid va then some l else none
  | none => none

/-- The leaf of the field's cache that maps an address. -/
def State.fieldLeaf (s : State) (field asid : Nat) (va : W64) : Option Leaf := (s.field field).tlb.find? (·.maps asid va)

/-! ## Reaching an address -/

/-- The fault type of an access of `n` bytes at `pa` by an agent of wafer `wf`, if it is unbacked or forbidden
(R77, R80; 09_edge.md R180, R181, R185); what only a remote home finds unbacked is none (22_ref_m_s.md R388). -/
def State.forbidden (s : State) (wf pa n acc : Nat) : Option Nat :=
  if pa / 2 ^ 48 ≥ s.podsize then some 2 else
  match homeOf pa with
  | .hbm _ _ _ => none
  | .host _ _ => none
  | .none => some 2
  | .quad w qn l =>
    if w == wf && !s.fieldOn w (qnField qn) then some 2
    else if l ≥ 0x48000 then some 2
    else if l ≥ 0x40000 && acc != 0 && acc != 3 then some 2
    else none
  | .window w m sl o =>
    let e := s.slotAt w m sl
    if e.unbacked o && acc ≤ 1 && w != wf then none
    else if e.unbacked o || o + n > (e.wlen + 1) * 4096 then some 2
    else match acc with
      | 0 => if e.kind = 1 then some 2 else none
      | 1 => if e.kind = 0 then some 2
          else if e.kind = 1 then (if o % 8 = 0 && n % 8 = 0 then none else some 2)
          else if o % 4 = 0 && n % 4 = 0 then none else some 2
      | _ => some 2

/-- Whether a page's map, and the sup-only map of the rings that it holds (R92; 08_fabric.md R175), permit an access of `n` bytes. -/
def State.permits (s : State) (l : Leaf) (w : Who) (va : W64) (n acc : Nat) : Bool :=
  l.permits acc w.priv && (w.priv || !s.ringRun (l.pa va) n)

/-- Translates the address of one access of `n` bytes that lies in one page (R88, R414). A generator of an island or edge fabric has no
quad, and no local window: its access there is a fault of type 2 (DESIGN CHOICE, log 96). -/
def State.translate (s : State) (w : Who) (va : W64) (n acc : Nat) : Tr :=
  if bits va 63 56 != 0 then .bad 2
  else if inLocal va then
    match w.quad with
    | none => .bad 2
    | some q =>
      let pa := quadPa w.wafer (q % 2 ^ 13) (va.toNat - localBase)
      match s.forbidden w.wafer pa n acc with
      | some t => .bad t
      | none => .ok pa false false
  else match s.cachedLeaf w va with
    | none => .miss
    | some l =>
      if !s.permits l w va n acc then .bad (if acc = 2 then 2 else 1)
      else match s.forbidden w.wafer (l.pa va) n acc with
        | some t => .bad t
        | none => .ok (l.pa va) (bitAt l.pte 57) (bitAt l.pte 58)

/-- Whether `n` bytes from a physical address lie at one home without a gap, within one part of local space (R77, R81, R82). -/
def oneHome (pa n : Nat) : Bool :=
  match homeOf pa, homeOf (pa + (n - 1)) with
  | .hbm w m o, .hbm w' m' o' => w == w' && m == m' && o' == o + (n - 1)
  | .quad w q l, .quad w' q' l' => w == w' && q == q' && (l < 0x40000) == (l' < 0x40000) && (l < 0x48000) == (l' < 0x48000)
  | .window w m sl _, .window w' m' sl' _ => w == w' && m == m' && sl == sl'
  | .host w p, .host w' p' => w == w' && p == p'
  | _, _ => false

/-- Bytes of the piece of an access at `va` of which `rest` bytes remain, where nothing is known of its home: pieces do not cross 4 KiB,
the granule of the interleaved window (R81). -/
def pieceLen (va : W64) (rest : Nat) : Nat := min rest (4096 - va.toNat % 4096)

/-- Bytes of the next piece of a stream's access: all that remain where they lie in one page at one home, which is one access there
(R95; 17_prog_ragged.md R297), or in one page that does not let it be made; else up to the next 4 KiB (log 97). -/
def State.piece (s : State) (w : Who) (va : W64) (rest acc : Nat) : Nat :=
  let last := va + w64 (rest - 1)
  let page := if inLocal va then inLocal last else !inLocal last && (s.cachedLeaf w va).any (·.maps w.asid last)
  match s.translate w va (pieceLen va rest) acc with
  | .ok pa _ _ => if page && oneHome pa rest && (s.forbidden w.wafer pa rest acc).isNone then rest else pieceLen va rest
  | .bad _ => if page then rest else pieceLen va rest
  | .miss => pieceLen va rest

/-- A stream whose entry does not map an address has it refilled from the field's cache, where that maps it (R88). -/
def State.refill (s : State) (w : Who) (va : W64) : State :=
  if inLocal va || (s.cachedLeaf w va).isSome then s
  else match s.fieldLeaf w.field w.asid va with
    | some l => { s with streams := mput s.streams w.gid l }
    | none => s

/-- A stream's entry does not map an address: it is refilled from the field's cache, else the field's walker is asked (R88); `f` is the
fault to raise if the walk fails. The stream makes its access again in a later move. -/
def State.askWalk (s : State) (w : Who) (va : W64) (acc : Nat) (f : GenFault) : State :=
  match s.fieldLeaf w.field w.asid va with
  | some l => { s with streams := mput s.streams w.gid l }
  | none =>
  if s.walks.any (fun k => k.gid == w.gid && k.va == va) then s
  else { s with walks := s.walks ++ [⟨w.gid, w.field, w.asid, w.priv, va, acc, f⟩] }

/-- Puts a leaf into a field's cache of 2,048 leaves and into the stream's entry. R88 does not say which leaf leaves a full cache: the oldest
does (DESIGN CHOICE, log 121). -/
def State.cacheLeaf (s : State) (field gid : Nat) (l : Leaf) : State :=
  let f := s.field field
  let tlb := (f.tlb.filter (fun k => !(k.asid == l.asid && k.base == l.base && k.size == l.size))) ++ [l]
  let s := s.setField field { f with tlb := tlb.drop (tlb.length - 2048) }
  { s with streams := mput s.streams gid l }

/-! ## A translation made at once, for the hardware's own accesses -/

/-- Whether a physical address lies in an edge window: an agent with no load or store form takes a permission fault there (09_edge.md
R180). -/
def windowed (pa : Nat) : Bool :=
  match homeOf pa with
  | .window _ _ _ _ => true
  | _ => false

/-- Translates without caches, as the GS and the other hardware units do: physical address or fault type. They belong to no quad, and the
local window is never translated: their access there is a fault of type 2 (R77; log 96). -/
def State.hwVa (s : State) (wf asid : Nat) (va : W64) (n acc : Nat) : Except Nat Nat :=
  if bits va 63 56 != 0 || inLocal va then .error 2
  else match walkVa s wf asid va with
    | .error t => .error t
    | .ok l =>
      if !l.permits acc true then .error 1
      else match s.forbidden wf (l.pa va) n acc with
        | some t => .error t
        | none => if windowed (l.pa va) || s.remoteUnbacked wf (l.pa va) then .error 2 else .ok (l.pa va)

/-- Whether the page of an address is a trace page (R90). -/
def State.traced (s : State) (wf asid : Nat) (va : W64) : Bool :=
  match walkVa s wf asid va with
  | .ok l => bitAt l.pte 57
  | .error _ => false

/-- Reads a 64-bit word as the GS does; none where it cannot be reached or is poisoned. -/
def State.hwRead (s : State) (wf asid : Nat) (va : W64) : Option W64 :=
  match s.hwVa wf asid va 8 0 with
  | .ok pa => if s.poisonAt pa then none else some (s.readW pa)
  | .error _ => none

/-- Reads `n` 64-bit words as the GS does. -/
def State.hwReads (s : State) (wf asid : Nat) (va : W64) : Nat → Option (List W64)
  | 0 => some []
  | n + 1 =>
    match s.hwRead wf asid va, s.hwReads wf asid (va + 8) n with
    | some v, some vs => some (v :: vs)
    | _, _ => none

/-- Writes a 64-bit word as the GS does, as the release `rel` where it is one; nothing where it cannot be reached. -/
def State.hwWriteAs (s : State) (wf asid : Nat) (va : W64) (v : W64) (rel : Option Rel) : State :=
  match s.hwVa wf asid va 8 1 with
  | .ok pa => s.writeAs pa (natRun 8 v.toNat false) ⟨3, 0, 0, false, 0⟩ rel
  | .error _ => s

/-- Writes a 64-bit word as the GS does. -/
def State.hwWrite (s : State) (wf asid : Nat) (va : W64) (v : W64) : State := s.hwWriteAs wf asid va v none

end Sys2Proof.Machine
end

