-- ==== Sys2Proof/Machine/Ops.lean ====
section
/-! DEFINITION. The issue of an instruction: completing, blocking, reading sources (13_encodings.md R240, R242), and
TAKING A TRAP (11_faults.md R204, R205) with the return from one (23_ref_t_z.md R395). -/

namespace Sys2Proof.Machine

/-- What an instruction answers. -/
abbrev Res := Host.Outcome State Fault Refusal

/-- Trap causes (R204). -/
def causeIllegal : Nat := 0x01
def causePriv : Nat := 0x02
def causeEmpty : Nat := 0x03
def causeWait : Nat := 0x04
def causeSys : Nat := 0x05
def causeMisaligned : Nat := 0x06
def causeStale : Nat := 0x07
def causeFailed : Nat := 0x08
def causeSync : Nat := 0x09
def causeSpill : Nat := 0x0A
def causeName : Nat := 0x0B

/-! ## Completing and waiting -/

/-- Cycles of the issuing core's field clock. -/
def State.now (s : State) (n : Nat) : Nat := s.cycles (nField n)

/-- The instruction completes with the core as given: the pc moves past it and no wait is counted. -/
def State.finish (s : State) (c : Core) : State := s.setMe { c with pc := c.pc + 4, wait := none }

/-- The instruction completes and the pc goes to `t`. -/
def State.jump (s : State) (c : Core) (t : W64) : State := s.setMe { c with pc := t, wait := none }

/-- The instruction writes x[d] and completes. -/
def State.result (s : State) (c : Core) (d : Reg) (v : W64) : State := s.finish (c.put d v)

/-- The instruction waits, bounded by KWLIM: the wait counts from the cycle in which it began (R52). -/
def State.block (s : State) : State :=
  match s.me.wait with
  | some _ => s
  | none => s.setMe { s.me with wait := some (s.now s.cur) }

/-! ## Taking a trap -/

/-- Core `n` takes a trap at the instruction at its pc (R205). With KSTAT.tm set or no handler it is a double trap: the
saved registers keep the first trap's values and the strand begins to end abnormally with reason 1. -/
def State.trapOn (s : State) (n : Nat) (cause : Nat) (tval : W64) : State :=
  let c := s.core n
  let epc := if cause = causeSys then c.pc + 4 else c.pc
  if c.tm || c.ktvec == 0 then
    s.setCore n { c with ending := some ⟨1, some (cause, epc), false⟩, hold := .none, wait := none }
  else
    s.setCore n { c with
      kepc := epc, kcause := BitVec.ofNat 8 cause, ktval := tval, tm := true, pc := c.ktvec, hold := .none,
      wait := none }

/-- The issuing core takes a trap. -/
def State.trap (s : State) (cause : Nat) (tval : W64) : State := s.trapOn s.cur cause tval

/-- The instruction word as KTVAL shows it (R204). -/
def wordVal (i : Instr) : W64 := (encode i).setWidth 64

/-- The illegal-instruction trap (R261). -/
def State.illegal (s : State) (i : Instr) : State := s.trap causeIllegal (wordVal i)

/-- The privilege trap (R242 step 2). -/
def State.noPriv (s : State) (i : Instr) : State := s.trap causePriv (wordVal i)

/-- Returns from a trap handler (R395). -/
def State.trapReturn (s : State) : State :=
  let c := s.me
  if !c.tm then s.trap causeSync 0
  else if bits c.kepc 1 0 != 0 then s.trap causeMisaligned c.kepc
  else s.jump { c with tm := false } c.kepc

/-! ## Sources and destinations -/

/-- The source that raises the empty-register trap: the first empty one that a w bit of its register governs
(R240, R242 step 3). -/
def Core.emptyTrap (c : Core) (srcs : List (Reg × Bool)) : Option Reg :=
  (srcs.find? fun p => !c.isFull p.1 && srcs.any fun q => q.1 == p.1 && q.2).map (·.1)

/-- Whether a source or a destination that a local producer will write holds the instruction back (R74, R242 step 4). -/
def Core.mustWait (c : Core) (srcs : List (Reg × Bool)) (d : Reg) : Bool :=
  srcs.any (fun p => !c.isFull p.1) || (!c.isFull d && c.producing d)

/-- Reads the sources of an instruction with destination `d` (0 for none) and goes on with `k` (R242 steps 3 and 4). -/
def State.issue (s : State) (srcs : List (Reg × Bool)) (d : Reg) (k : Core → State) : State :=
  match s.me.emptyTrap srcs with
  | some r => s.trap causeEmpty (w64 r.toNat)
  | none => if s.me.mustWait srcs d then s.block else k s.me

/-- A register operation of two sources. -/
def State.op2 (s : State) (d a b : Reg) (wa wb : Bool) (f : W64 → W64 → W64) : State :=
  s.issue [(a, wa), (b, wb)] d fun c => s.result c d (f (c.get a) (c.get b))

/-- A register operation of one source. -/
def State.op1 (s : State) (d a : Reg) (wa : Bool) (f : W64 → W64) : State :=
  s.issue [(a, wa)] d fun c => s.result c d (f (c.get a))

end Sys2Proof.Machine
end

