-- ==== Sys2Proof/Machine/Operands.lean ====
section
/-! DEFINITION. Operand forms of scalar instructions (13_encodings.md R241, R246, R247): immediates, offsets, addresses,
access sizes, and the two values of a vector command (R249). -/

namespace Sys2Proof.Machine

/-- A sign-extended I-format immediate (R241). -/
def immS (i : BitVec 15) : W64 := i.signExtend 64

/-- A natural I-format immediate, for LHI (R246). -/
def immN (i : BitVec 15) : W64 := i.setWidth 64

/-- A word offset in bytes: 4 × sext (R241). -/
def wordOff {n : Nat} (off : BitVec n) : W64 := off.signExtend 64 * 4

/-- The access size of sz, in bytes (R247): 0 for the reserved code. -/
def szBytes (sz : Nat) : Nat :=
  match sz with
  | 0 => 1
  | 1 => 2
  | 2 => 4
  | 3 => 8
  | 4 => 1
  | 5 => 2
  | 6 => 4
  | _ => 0

/-- The address of an M-format access: x[a] + sext(imm) × size (R241). -/
def memAddr (base : W64) (imm : BitVec 8) (size : Nat) : W64 := base + imm.signExtend 64 * w64 size

/-- A loaded value of `size` bytes, sign-extended unless sz says otherwise (R247). -/
def loadExt (zext : Bool) (size : Nat) (v : W64) : W64 :=
  if zext || size = 8 then w64 (v.toNat % 2 ^ (8 * size)) else sext64 v.toNat (8 * size)

/-- The low bytes of a stored register (R247). -/
def storeVal (size : Nat) (v : W64) : W64 := w64 (v.toNat % 2 ^ (8 * size))

/-! ## The values of a vector command (R249) -/

/-- src1. -/
def vSrc1 (a : W64) : Nat := bits a 31 0

/-- src2. -/
def vSrc2 (a : W64) : Nat := bits a 63 32

/-- dst. -/
def vDst (b : W64) : Nat := bits b 31 0

/-- count. -/
def vCount (b : W64) : Nat := bits b 47 32

/-- stride, 0 read as 1 (23_ref_t_z.md R397). -/
def vStride (b : W64) : Nat := if bits b 55 48 = 0 then 1 else bits b 55 48

/-- stype. -/
def vStype (b : W64) : Nat := bits b 59 56

/-- Bits of an element type (R250): 4 for FP4, 0 for formatted blocks and the reserved code. -/
def typeBits (t : Nat) : Nat :=
  match t with
  | 0x0 => 16
  | 0x1 => 16
  | 0x2 => 8
  | 0x3 => 8
  | 0x4 => 8
  | 0x5 => 4
  | 0x7 => 32
  | 0x8 => 16
  | 0x9 => 32
  | 0xA => 64
  | 0xB => 8
  | 0xC => 16
  | 0xD => 32
  | 0xE => 64
  | _ => 0

/-- Bytes an address of the type is aligned on: one for FP4 (R397), 64 for formatted blocks (R404). -/
def typeAlign (t : Nat) : Nat := if t = 6 then 64 else if t = 5 then 1 else typeBits t / 8

/-- Whether a type is floating (R250). -/
def typeFloat (t : Nat) : Bool := t ≤ 3 || t == 5 || t == 6 || t == 7

/-- Whether a type is a signed integer (R250). -/
def typeSigned (t : Nat) : Bool := t == 4 || t == 8 || t == 9 || t == 0xA

end Sys2Proof.Machine
end

