-- ==== Sys2Proof/Machine/Num.lean ====
section
/-! DEFINITION. Numbers to the bit (03_numbers.md): the values of the element types, one rounding of an exact value
(R65, R66), saturation (R68), and the exact sum, product, quotient and root that are rounded. -/

namespace Sys2Proof.Machine

/-! ## Formats -/

/-- A floating format: exponent bits, fraction bits, bias, whether it has infinities and NaNs as in IEEE 754, and its
largest finite value as m × 2^e (R55, R57 to R59). -/
structure Fmt where
  eb : Nat
  mb : Nat
  bias : Nat
  ieee : Bool
  maxM : Nat
  maxE : Int

/-- The format of a floating type code (R250); FP32 for the others. -/
def fmtOf (t : Nat) : Fmt :=
  match t with
  | 0x0 => ⟨8, 7, 127, true, 255, 120⟩
  | 0x1 => ⟨5, 10, 15, true, 2047, 5⟩
  | 0x2 => ⟨4, 3, 7, false, 14, 5⟩
  | 0x3 => ⟨5, 2, 15, true, 7, 13⟩
  | 0x5 => ⟨2, 1, 1, false, 3, 1⟩
  | _ => ⟨8, 23, 127, true, 2 ^ 24 - 1, 104⟩

/-- The canonical NaN (R56); FP4 has none and takes +0 (R68). -/
def canonNan (t : Nat) : Nat :=
  match t with
  | 0x0 => 0x7FC0
  | 0x1 => 0x7E00
  | 0x2 => 0x7F
  | 0x3 => 0x7E
  | 0x5 => 0
  | _ => 0x7FC00000

/-- The value of the pattern `v` of a floating type (R55 to R59). -/
def fpRead (t v : Nat) : Fp :=
  let f := fmtOf t
  let m := v % 2 ^ f.mb
  let e := (v >>> f.mb) % 2 ^ f.eb
  let neg := (v >>> (f.mb + f.eb)) % 2 = 1
  if f.ieee && e = 2 ^ f.eb - 1 then (if m = 0 then .inf neg else .nan)
  else if t = 2 && e = 15 && m = 7 then .nan
  else if e = 0 then .fin neg m (1 - (f.bias : Int) - f.mb)
  else .fin neg (2 ^ f.mb + m) ((e : Int) - f.bias - f.mb)

/-- An integer as a value. -/
def fpInt (i : Int) : Fp := .fin (i < 0) i.natAbs 0

/-- The value of the low bits of an element of any type (R54 to R59). -/
def elemRead (t v : Nat) : Fp :=
  if typeFloat t then fpRead t v
  else if typeSigned t then fpInt (sgn v (typeBits t))
  else fpInt ((v % 2 ^ typeBits t : Nat) : Int)

/-- The number of bits of a number. -/
def bitLen (n : Nat) : Nat := if n = 0 then 0 else n.log2 + 1

/-! ## Rounding (R65, R66) -/

/-- Whether a discarded part `rem` of `2^k` rounds the magnitude `n` up: by the rounding code, the sign, and for the
stochastic code the generator state (R66). -/
def roundUp (mode : Nat) (neg : Bool) (n rem k s : Nat) : Bool :=
  match mode with
  | 0 => 2 * rem > 2 ^ k || (2 * rem = 2 ^ k && n % 2 = 1 && rem != 0)
  | 1 => false
  | 2 => rem != 0 && !neg
  | 3 => rem != 0 && neg
  | _ => rem * 2 ^ 32 / 2 ^ k + s ≥ 2 ^ 32

/-- The magnitude m × 2^e in units of 2^q, rounded. -/
def roundAt (mode : Nat) (neg : Bool) (m : Nat) (e q : Int) (s : Nat) : Nat :=
  if q ≤ e then m * 2 ^ (e - q).toNat
  else
    let k := (q - e).toNat
    let n := m / 2 ^ k
    if roundUp mode neg n (m % 2 ^ k) k s then n + 1 else n

/-- The exponent of the unit in which a format holds m × 2^e. -/
def ulpExp (f : Fmt) (m : Nat) (e : Int) : Int := max (e + bitLen m - 1 - f.mb) (1 - (f.bias : Int) - f.mb)

/-- The pattern of sign and a magnitude n × 2^q that the format holds. -/
def fpPack (f : Fmt) (neg : Bool) (n : Nat) (q : Int) : Nat :=
  let sgnBit := b2n neg <<< (f.mb + f.eb)
  if n < 2 ^ f.mb then sgnBit + n
  else if n = 2 ^ (f.mb + 1) then sgnBit + (((q + 1 + f.mb + f.bias).toNat) <<< f.mb)
  else sgnBit + (((q + f.mb + f.bias).toNat) <<< f.mb) + n % 2 ^ f.mb

/-- The pattern of an infinity, or of what R68 puts in its place. -/
def infPattern (t : Nat) (neg : Bool) : Nat :=
  let f := fmtOf t
  if t = 2 then 0x7F
  else if t = 5 then fpPack f neg f.maxM f.maxE
  else b2n neg <<< (f.mb + f.eb) ||| ((2 ^ f.eb - 1) <<< f.mb)

/-- The largest finite pattern. -/
def maxPattern (t : Nat) (neg : Bool) : Nat := fpPack (fmtOf t) neg (fmtOf t).maxM (fmtOf t).maxE

/-- Whether n × 2^q exceeds the format's largest finite value. -/
def overflows (f : Fmt) (n : Nat) (q : Int) : Bool :=
  if q ≤ f.maxE then n > f.maxM * 2 ^ (f.maxE - q).toNat else n * 2 ^ (q - f.maxE).toNat > f.maxM

/-- A value rounded once to a floating type, then saturated under `sat` (R65, R68). -/
def fpRound (t mode : Nat) (sat : Bool) (s : Nat) (v : Fp) : Nat :=
  let f := fmtOf t
  match v with
  | .nan => canonNan t
  | .inf neg => if sat then maxPattern t neg else infPattern t neg
  | .fin neg m e =>
    if m = 0 then b2n neg <<< (f.mb + f.eb)
    else
      let q := ulpExp f m e
      let n := roundAt mode neg m e q s
      if overflows f n q then
        if sat || t = 5 then maxPattern t neg
        else if t = 2 then 0x7F
        else if mode = 1 || (mode = 2 && neg) || (mode = 3 && !neg) then maxPattern t neg
        else infPattern t neg
      else fpPack f neg n q

/-- A value rounded to an integer of `n` bits: clamped under `sat`, else its low bits; NaN gives 0 and an infinity an
end of the range (R68). -/
def intRound (t mode : Nat) (sat : Bool) (s : Nat) (v : Fp) : Nat :=
  let n := typeBits t
  let lo : Int := if typeSigned t then -(2 ^ (n - 1) : Nat) else 0
  let hi : Int := if typeSigned t then (2 ^ (n - 1) : Nat) - 1 else (2 ^ n : Nat) - 1
  match v with
  | .nan => 0
  | .inf neg => wrapInt (if neg then lo else hi) n
  | .fin neg m e =>
    let mag := roundAt mode neg m e 0 s
    let i : Int := if neg then -(mag : Int) else mag
    wrapInt (if sat then max lo (min hi i) else i) n

/-- A value converted to an element of any type (R404, R377). -/
def elemRound (t mode : Nat) (sat : Bool) (s : Nat) (v : Fp) : Nat :=
  if typeFloat t then fpRound t mode sat s v else intRound t mode sat s v

/-- One step of a stochastic generator (R66). -/
def lfsr (s : W32) : W32 := if s.getLsbD 0 then (s >>> 1) ^^^ 0x80200003 else s >>> 1

/-- A seed as it is loaded: 0 loads 1 (R67). -/
def seedOf (v : Nat) : W32 := if v % 2 ^ 32 = 0 then 1 else BitVec.ofNat 32 v

/-! ## Exact arithmetic (R55, R56) -/

/-- The negation of a value. -/
def Fp.neg : Fp → Fp
  | .nan => .nan
  | .inf n => .inf (!n)
  | .fin n m e => .fin (!n) m e

/-- The magnitude of a value. -/
def Fp.abs : Fp → Fp
  | .nan => .nan
  | .inf _ => .inf false
  | .fin _ m e => .fin false m e

/-- The exact product (R55). -/
def Fp.mul (a b : Fp) : Fp :=
  match a, b with
  | .nan, _ => .nan
  | _, .nan => .nan
  | .inf x, .inf y => .inf (x != y)
  | .inf x, .fin y m _ => if m = 0 then .nan else .inf (x != y)
  | .fin x m _, .inf y => if m = 0 then .nan else .inf (x != y)
  | .fin x m e, .fin y n k => .fin (x != y) (m * n) (e + k)

/-- A magnitude as a signed integer in units of 2^q. -/
def scaled (neg : Bool) (m : Nat) (e q : Int) : Int :=
  let v : Int := ((m * 2 ^ (e - q).toNat : Nat) : Int)
  if neg then -v else v

/-- The exact sum; an exact zero sum of opposite signs is +0, or −0 toward −∞ (R372, R399). -/
def Fp.add (mode : Nat) (a b : Fp) : Fp :=
  match a, b with
  | .nan, _ => .nan
  | _, .nan => .nan
  | .inf x, .inf y => if x = y then .inf x else .nan
  | .inf x, _ => .inf x
  | _, .inf y => .inf y
  | .fin x m e, .fin y n k =>
    if m = 0 && n = 0 then .fin (if x = y then x else mode == 3) 0 0
    else if m = 0 then .fin y n k
    else if n = 0 then .fin x m e
    else
      let q := min e k
      let t := scaled x m e q + scaled y n k q
      if t = 0 then .fin (mode == 3) 0 0 else .fin (t < 0) t.natAbs q

/-- Whether a < b; false with a NaN. -/
def Fp.lt (a b : Fp) : Bool :=
  match a, b with
  | .nan, _ => false
  | _, .nan => false
  | .inf x, .inf y => x && !y
  | .inf x, _ => x
  | _, .inf y => !y
  | .fin x m e, .fin y n k => scaled x m e (min e k) < scaled y n k (min e k)

/-- Whether a = b as numbers, −0 equal to +0; false with a NaN. -/
def Fp.eq (a b : Fp) : Bool :=
  match a, b with
  | .nan, _ => false
  | _, .nan => false
  | .inf x, .inf y => x == y
  | .inf _, _ => false
  | _, .inf _ => false
  | .fin x m e, .fin y n k => scaled x m e (min e k) == scaled y n k (min e k)

/-- Whether a value is a NaN. -/
def Fp.isNan : Fp → Bool
  | .nan => true
  | _ => false

/-- The sign of a value. -/
def Fp.sign : Fp → Bool
  | .nan => false
  | .inf n => n
  | .fin n _ _ => n

/-- The lesser value, −0 below +0, NaN if either is (R56). -/
def Fp.min (a b : Fp) : Fp :=
  if a.isNan || b.isNan then .nan
  else if a.lt b then a else if b.lt a then b else if a.sign then a else b

/-- The greater value (R56). -/
def Fp.max (a b : Fp) : Fp :=
  if a.isNan || b.isNan then .nan
  else if a.lt b then b else if b.lt a then a else if a.sign then b else a

/-- The reciprocal to 128 bits with a sticky last bit, which rounds as the exact quotient does (R400). -/
def Fp.rcp (a : Fp) : Fp :=
  match a with
  | .nan => .nan
  | .inf n => .fin n 0 0
  | .fin n m e =>
    if m = 0 then .inf n
    else
      let k := 128 + bitLen m
      let q := 2 ^ k / m
      .fin n (2 * q + b2n (2 ^ k % m != 0)) (-(k : Int) - 1 - e)

/-- The reciprocal square root, with a sticky last bit (R400). -/
def Fp.rsqrt (a : Fp) : Fp :=
  match a with
  | .nan => .nan
  | .inf n => if n then .nan else .fin false 0 0
  | .fin n m e =>
    if m = 0 then .inf n
    else if n then .nan
    else
      let odd := e % 2 != 0
      let m' := if odd then 2 * m else m
      let e' := if odd then e - 1 else e
      let k := 2 * (64 + bitLen m')
      let q := 2 ^ (2 * k) / m'
      let r := q.sqrt
      let exact := 2 ^ (2 * k) % m' = 0 && r * r = q
      .fin false (2 * r + b2n (!exact)) (-(k : Int) - 1 - e' / 2)

/-! ## FP32 sums (R69 to R71) -/

/-- An FP32 sum rounded to nearest-even. -/
def add32 (a b : W32) : W32 := BitVec.ofNat 32 (fpRound 7 0 false 0 ((fpRead 7 a.toNat).add 0 (fpRead 7 b.toNat)))

/-- A value as FP32, rounded to nearest-even. -/
def to32 (v : Fp) : W32 := BitVec.ofNat 32 (fpRound 7 0 false 0 v)

/-- The pairwise tree of R69, level by level. -/
def pairSum : Nat → List W32 → W32
  | 0, l => l.headD 0
  | n + 1, l =>
    let rec level : List W32 → List W32
      | a :: b :: r => add32 a b :: level r
      | l => l
    pairSum n (level l)

/-! ## Formatted blocks (R62, R63) -/

/-- The value of an E3M5 sub-scale (R60). -/
def subScale (b : Nat) : Fp :=
  let e := b / 32
  let m := b % 32
  if e = 0 then .fin false m (-7) else .fin false (32 + m) ((e : Int) - 8)

/-- Elements of a formatted block of 64 bytes, valued by R63 with a band scale of 1.0: 96 for FP4, 60 for the 1-byte
codes, none for a raw block, 60 poisoned for a reserved code (R62, R404). -/
def blockElems (bs : List (Byte × Bool)) : List (Fp × Bool) :=
  let byte := fun i => (nth bs i (0, false)).1.toNat
  let pois := fun i => (nth bs i (0, false)).2
  let hdr := pois 0
  let be : Fp := .fin false 1 (sgn (byte 1) 8)
  match byte 0 with
  | 0 => []
  | 1 => (List.range 96).map fun i =>
      let v := byte (2 + i / 2)
      ((fpRead 5 (if i % 2 = 0 then v % 16 else v / 16)).mul ((subScale (byte (50 + i / 8))).mul be),
        hdr || pois (2 + i / 2) || pois (50 + i / 8))
  | 2 => (List.range 60).map fun i => ((fpRead 2 (byte (2 + i))).mul be, hdr || pois (2 + i))
  | 3 => (List.range 60).map fun i => ((fpRead 3 (byte (2 + i))).mul be, hdr || pois (2 + i))
  | 4 => (List.range 60).map fun i => ((fpInt (sgn (byte (2 + i)) 8)).mul be, hdr || pois (2 + i))
  | _ => (List.range 60).map fun _ => (.nan, true)

end Sys2Proof.Machine
end

