-- ==== Sys2Proof/Machine/Approx.lean ====
section
/-! DEFINITION. Functions of which the spec gives the accuracy (22_ref_m_s.md R363, 23_ref_t_z.md R400): their values to far more bits
than FP32 has, and the FP32 results within a number of ulp of them. -/

namespace Sys2Proof.Machine

/-! ## Values to 160 fractional bits -/

/-- 2^160, one in the fixed-point numbers of this file. -/
def fixOne : Nat := 2 ^ 160

/-- ln 2 in units of 2^-160. -/
def ln2Fix : Nat := 1013035739299659071135698605846798551586536899366

/-- log₂ e in units of 2^-160. -/
def log2eFix : Nat := 2108501164428393954197770173035669514763056903505

/-- The quotient of two values to 160 bits with a sticky last bit; the divisor is not zero. -/
def Fp.div (a b : Fp) : Fp :=
  match a, b with
  | .fin x m e, .fin y n k =>
    let q := m * 2 ^ (160 + bitLen n) / n
    .fin (x != y) (2 * q + b2n (m * 2 ^ (160 + bitLen n) % n != 0)) (e - k - (160 + bitLen n : Nat) - 1)
  | _, _ => .nan

/-- The sum of x^i / i! from the term `t` = x^i / i! on. -/
def expTerms (x : Nat) : Nat → Nat → Nat → Nat
  | 0, _, _ => 0
  | fuel + 1, i, t => t + expTerms x fuel (i + 1) (t * x / fixOne / (i + 1))

/-- A value in units of 2^-160, rounded down. -/
def Fp.toFix (v : Fp) : Int :=
  match v with
  | .fin n m e =>
    let a : Nat := if 0 ≤ e + 160 then m * 2 ^ (Min.min (e + 160) 400).toNat else m / 2 ^ (-(e + 160)).toNat
    if n then -(a : Int) - b2n (!(0 ≤ e + 160 || m % 2 ^ (-(e + 160)).toNat = 0)) else a
  | _ => 0

/-- 2^v, the exponent held within ±1024. -/
def Fp.exp2 (v : Fp) : Fp :=
  let a := v.toFix
  let whole := a / (fixOne : Int)
  let part := (a % (fixOne : Int)).toNat
  .fin false (expTerms (part * ln2Fix / fixOne) 48 0 fixOne) (Max.max (-1024) (Min.min 1024 whole) - 160)

/-- e^v. -/
def Fp.exp (v : Fp) : Fp := (v.mul (.fin false log2eFix (-160))).exp2

/-- The sum of z^(2i+1) / (2i+1) from the term `t` = z^(2i+1) on. -/
def atanhTerms (z2 : Nat) : Nat → Nat → Nat → Nat
  | 0, _, _ => 0
  | fuel + 1, i, t => t / (2 * i + 1) + atanhTerms z2 fuel (i + 1) (t * z2 / fixOne)

/-- log₂ of the positive value m × 2^e: that of x, within 3/4 and 3/2, by the series of ln x = 2 atanh ((x − 1) / (x + 1)), and a
whole exponent. -/
def log2Of (m : Nat) (e : Int) : Fp :=
  let k := bitLen m
  let up := 3 * 2 ^ k ≤ 4 * m
  let den := 2 ^ (if up then k else k - 1)
  let z := (if m < den then den - m else m - den) * fixOne / (m + den)
  let ln := 2 * atanhTerms (z * z / fixOne) 48 0 z
  let f : Fp := .fin (m < den) (ln * log2eFix / fixOne) (-160)
  (fpInt (e + (if up then k else k - 1 : Nat))).add 0 f

/-- log₂ of a positive finite value. -/
def Fp.log2 (v : Fp) : Fp :=
  match v with
  | .fin _ m e => log2Of m e
  | _ => .nan

/-- 1 as a value. -/
def fpOne : Fp := .fin false 1 0

/-- 1 / (1 + e^(−v)). -/
def Fp.sigmoid (v : Fp) : Fp := fpOne.div (fpOne.add 0 v.neg.exp)

/-- tanh v: its series to v^5 below 2^-20, elsewhere (1 − t) / (1 + t) with t = e^(−2|v|) and the operand's sign. -/
def Fp.tanh (v : Fp) : Fp :=
  if v.abs.lt (.fin false 1 (-20)) then
    let v2 := v.mul v
    (v.mul ((fpInt 15).add 0 ((v2.mul (fpInt (-5))).add 0 ((v2.mul v2).mul (fpInt 2))))).div (fpInt 15)
  else
    let t := (v.abs.mul (fpInt (-2))).exp
    let q := (fpOne.add 0 t.neg).div (fpOne.add 0 t)
    if v.sign then q.neg else q

/-- 0.5 v (1 + tanh u), u = 0.797_884_6 (v + 0.044_715 v³), which is v / (1 + e^(−2u)). -/
def Fp.gelu (v : Fp) : Fp :=
  let cube := ((v.mul v).mul v).mul ((fpInt 44715).div (fpInt 1000000))
  let u := (v.add 0 cube).mul ((fpInt 7978846).div (fpInt 10000000))
  v.mul (u.mul (fpInt 2)).sigmoid

/-! ## FP32 results within a number of ulp -/

/-- Whether a finite value `w` lies within `n` FP32 ulp of the finite value `y`, of the same sign; the 2^-20 of an ulp more leaves room
for the error of `y`. -/
def Fp.within (n : Nat) (y w : Fp) : Bool :=
  match y, w with
  | .fin a m e, .fin b k f =>
    let q := if m = 0 then -149 else ulpExp (fmtOf 7) m e
    let u := Min.min (Min.min e f) (q - 20)
    a == b && (scaled a m e u - scaled b k f u).natAbs ≤ (n * 2 ^ 20 + 1) * 2 ^ (q - 20 - u).toNat
  | _, _ => false

/-- An FP32 result within `n` ulp of `y`: the free value `w` where it is one, else `y` rounded by `mode` (log 12). -/
def nearest32 (n mode : Nat) (y : Fp) (w : W32) : Fp :=
  if y.within n (fpRead 7 w.toNat) then fpRead 7 w.toNat else fpRead 7 (fpRound 7 mode false 0 y)

end Sys2Proof.Machine
end

