-- ==== Sys2Proof/Machine/Flags.lean ====
section
/-! DEFINITION. The W8 has no arithmetic flags (20_ref_a_c.md R308: no flag, no trap on overflow). What stands in
their place is the condition of a branch (13_encodings.md R248) and the truth of a comparison (R361). -/

namespace Sys2Proof.Machine

/-- Signed less-than of two registers. -/
def ltS (a b : W64) : Bool := a.slt b

/-- Natural less-than of two registers. -/
def ltN (a b : W64) : Bool := a.ult b

/-- 1 when a comparison holds, else 0 (R361). -/
def truth (b : Bool) : W64 := if b then 1 else 0

end Sys2Proof.Machine
end

