-- ==== Sys2Proof/Machine/Grains.lean ====
section
/-! DEFINITION. Whether a unit may act (11_faults.md R214, R218), and the grains it draws (10_scheduling.md R200). -/

namespace Sys2Proof.Machine

/-! ## Units that an awn round stops (R218) -/

/-- A unit of a wafer: core, vector unit, matrix engine (by core number), copy or network engine (by the number of its
quad's core 0), the fabric manager of a residency (by its key), a controller's transmitter and slots, and a site of a fabric. -/
inductive UnitKind where
  | core | vector | matrix | copy | network | resid | ctl | site
  deriving DecidableEq, Repr

/-- The number of a unit in an awn round. -/
def unitNo (k : UnitKind) (x : Nat) : Nat :=
  8 * x + (match k with
    | .core => 0
    | .vector => 1
    | .matrix => 2
    | .copy => 3
    | .network => 4
    | .resid => 5
    | .ctl => 6
    | .site => 7)

/-- The number of a site of a fabric among the units. -/
def siteUnit (k site : Nat) : Nat := unitNo .site (k * 16384 + site)

/-- Whether a unit has stopped in the round under way on wafer w. -/
def State.awnStopped (s : State) (w u : Nat) : Bool :=
  match (s.wafer w).round with
  | none => false
  | some r => shas r.stopped u

/-- The partition record's key of the node a core works for. -/
def Core.partKey (c : Core) : Option Nat :=
  match c.strand, c.team with
  | some t, _ => some (shPartKey t.ref.sheaf)
  | none, some t => some (shPartKey t.ref.sheaf)
  | none, none => none

/-- Whether the partition with a key runs: neither gating nor swapped out (R214). -/
def State.partRuns (s : State) (k : Nat) : Bool := (s.part k).st == .run

/-- Whether a core's partition runs. -/
def State.coreRuns (s : State) (n : Nat) : Bool :=
  match (s.core n).partKey with
  | some k => s.partRuns k
  | none => true

/-- Whether a vector unit or engine of core `n` may act. -/
def State.unitRuns (s : State) (n : Nat) (k : UnitKind) : Bool :=
  s.coreRuns n && !s.awnStopped (nWafer n) (unitNo k (nCnum n))

/-! ## Grains -/

/-- The number of a unit that draws grains, ascending by node (R200): node row, node column, then the unit. -/
def grainUnit (nx ny u : Nat) : Nat := (ny * 128 + nx) * 256 + u

/-- The grain unit of core `n`: 0 its matrix engine, 1 its vector unit, and of its quad: 16 the copy engine, 17 the
network engine. -/
def coreUnit (n k : Nat) : Nat :=
  grainUnit (qCol (qnCol (nQn n))) (qnRow (nQn n)) (if k < 16 then 4 * nC n + k else k)

/-- A node reference as one number. -/
def NodeRef.key (r : NodeRef) : Nat := r.sheaf * 4096 + r.node

/-- Counts one grain of a field as spent for a node. -/
def Field.spend (f : Field) (ref : Option NodeRef) : Field :=
  { f with
    usedNow := f.usedNow + 1
    spent := match ref with
      | some r => mput f.spent r.key (mget f.spent r.key 0 + 1)
      | none => f.spent }

/-- A unit draws one grain: from the lot it holds, else from a lot of 16 out of the pool when no other unit waits; else it
waits its turn (R200). -/
def Field.draw (f : Field) (unit : Nat) (ref : Option NodeRef) : Field × Bool :=
  let have_ := mget f.lots unit 0
  if have_ ≠ 0 then ({ f with lots := if have_ = 1 then mdel f.lots unit else mput f.lots unit (have_ - 1) }.spend ref, true)
  else if f.pool ≠ 0 && (f.waiting.isEmpty) then
    let lot := min 16 f.pool
    ({ f with pool := f.pool - lot, lots := if lot = 1 then f.lots else mput f.lots unit (lot - 1), lastServed := unit }.spend
      ref, true)
  else ({ f with waiting := sput f.waiting unit, reqNow := f.reqNow + b2n (!shas f.waiting unit) }, false)

/-- The next waiting unit after the last one served, round-robin (R200). -/
def Field.nextWaiting (f : Field) : Option Nat :=
  match f.waiting.find? (f.lastServed < ·) with
  | some u => some u
  | none => f.waiting.head?

/-- Serves waiting units a lot each while the pool lasts. -/
def Field.serve (f : Field) : Nat → Field
  | 0 => f
  | k + 1 =>
    if f.pool = 0 then f
    else match f.nextWaiting with
      | none => f
      | some u =>
        let lot := min 16 f.pool
        Field.serve { f with
          pool := f.pool - lot, waiting := sdel f.waiting u, lastServed := u,
          lots := mput f.lots u (mget f.lots u 0 + lot) } k

/-- A unit of a field draws one grain for a node. -/
def State.grain (s : State) (field unit : Nat) (ref : Option NodeRef) : State × Bool :=
  let (f, ok) := (s.field field).draw unit ref
  (s.setField field f, ok)

end Sys2Proof.Machine
end

