-- ==== Sys2Proof/Machine/Alu.lean ====
section
/-! DEFINITION. Register arithmetic: majors 0x01, 0x02 and the immediate majors (13_encodings.md R244, R246;
20_ref_a_c.md R308 to R333; 21_ref_d_l.md R334, R355; 22_ref_m_s.md R361, R376; 23_ref_t_z.md R413). -/

namespace Sys2Proof.Machine

/-! ## The functions -/

/-- The shift count x[b][5:0] (R361). -/
def shCount (b : W64) : Nat := b.toNat % 64

/-- Shift left, wrapping (R361). -/
def shlV (a : W64) (n : Nat) : W64 := a <<< n

/-- Logical shift right (R361). -/
def shrV (a : W64) (n : Nat) : W64 := a >>> n

/-- Arithmetic shift right (R361). -/
def sraV (a : W64) (n : Nat) : W64 := a.sshiftRight n

/-- Rotate right (R361). -/
def rotV (a : W64) (n : Nat) : W64 := a.rotateRight n

/-- Leading zeros of the low `n` bits (R324). -/
def clzN (v : Nat) : Nat → Nat
  | 0 => 0
  | n + 1 => if v.testBit n then 0 else 1 + clzN v n

/-- Trailing zeros, from bit `i` up, of at most `n` bits (R333). -/
def ctzN (v i : Nat) : Nat → Nat
  | 0 => 0
  | n + 1 => if v.testBit i then 0 else 1 + ctzN v (i + 1) n

/-- Set bits among the low `n` (R361). -/
def popN (v : Nat) : Nat → Nat
  | 0 => 0
  | n + 1 => b2n (v.testBit n) + popN v n

/-- Position and width of a bit field (R316). -/
def bfPos (b : W64) : Nat := bits b 5 0

/-- Width of a bit field, 1 to 64 (R316). -/
def bfWidth (b : W64) : Nat := bits b 13 8 + 1

/-- BEXT (R316). -/
def bextV (a b : W64) : W64 := w64 ((a.toNat >>> bfPos b) % 2 ^ bfWidth b)

/-- BINS (R318). -/
def binsV (d a b : W64) : W64 :=
  let mask : W64 := w64 ((2 ^ bfWidth b - 1) <<< bfPos b)
  (d &&& ~~~ mask) ||| ((a <<< bfPos b) &&& mask)

/-- High half of a signed product (R361). -/
def mulhV (a b : W64) : W64 := w64 (wrapInt (a.toInt * b.toInt / (2 ^ 64 : Nat)) 64)

/-- High half of a natural product (R361). -/
def mulhnV (a b : W64) : W64 := w64 (a.toNat * b.toNat / 2 ^ 64)

/-- Signed quotient toward zero (R334). -/
def divV (a b : W64) : W64 := if b = 0 then BitVec.allOnes 64 else w64 (wrapInt (a.toInt.tdiv b.toInt) 64)

/-- Natural quotient (R334). -/
def divnV (a b : W64) : W64 := if b = 0 then BitVec.allOnes 64 else w64 (a.toNat / b.toNat)

/-- Signed remainder: x[a] − q × x[b] (R361). -/
def modV (a b : W64) : W64 := if b = 0 then a else a - divV a b * b

/-- Natural remainder (R361). -/
def modnV (a b : W64) : W64 := if b = 0 then a else w64 (a.toNat % b.toNat)

/-! ## The instructions -/

/-- ADD (R308): the wrapping sum. -/
def execAdd (d a b : Reg) (wa wb : Bool) (s : State) : Res :=
  .next (s.op2 d a b wa wb fun x y => x + y)

/-- SUB (R361). -/
def execSub (d a b : Reg) (wa wb : Bool) (s : State) : Res :=
  .next (s.op2 d a b wa wb fun x y => x - y)

/-- AND (R313). -/
def execAnd (d a b : Reg) (wa wb : Bool) (s : State) : Res :=
  .next (s.op2 d a b wa wb fun x y => x &&& y)

/-- OR (R361). -/
def execOr (d a b : Reg) (wa wb : Bool) (s : State) : Res :=
  .next (s.op2 d a b wa wb fun x y => x ||| y)

/-- XOR (R413). -/
def execXor (d a b : Reg) (wa wb : Bool) (s : State) : Res :=
  .next (s.op2 d a b wa wb fun x y => x ^^^ y)

/-- SHL (R361). -/
def execShl (d a b : Reg) (wa wb : Bool) (s : State) : Res :=
  .next (s.op2 d a b wa wb fun x y => shlV x (shCount y))

/-- SHR (R361). -/
def execShr (d a b : Reg) (wa wb : Bool) (s : State) : Res :=
  .next (s.op2 d a b wa wb fun x y => shrV x (shCount y))

/-- SRA (R361). -/
def execSra (d a b : Reg) (wa wb : Bool) (s : State) : Res :=
  .next (s.op2 d a b wa wb fun x y => sraV x (shCount y))

/-- ROT (R361). -/
def execRot (d a b : Reg) (wa wb : Bool) (s : State) : Res :=
  .next (s.op2 d a b wa wb fun x y => rotV x (shCount y))

/-- SLT (R361). -/
def execSlt (d a b : Reg) (wa wb : Bool) (s : State) : Res :=
  .next (s.op2 d a b wa wb fun x y => truth (ltS x y))

/-- SLTN (R361). -/
def execSltn (d a b : Reg) (wa wb : Bool) (s : State) : Res :=
  .next (s.op2 d a b wa wb fun x y => truth (ltN x y))

/-- MIN (R361). -/
def execMin (d a b : Reg) (wa wb : Bool) (s : State) : Res :=
  .next (s.op2 d a b wa wb fun x y => if ltS x y then x else y)

/-- MINN (R361). -/
def execMinn (d a b : Reg) (wa wb : Bool) (s : State) : Res :=
  .next (s.op2 d a b wa wb fun x y => if ltN x y then x else y)

/-- MAX (R361). -/
def execMax (d a b : Reg) (wa wb : Bool) (s : State) : Res :=
  .next (s.op2 d a b wa wb fun x y => if ltS x y then y else x)

/-- MAXN (R361). -/
def execMaxn (d a b : Reg) (wa wb : Bool) (s : State) : Res :=
  .next (s.op2 d a b wa wb fun x y => if ltN x y then y else x)

/-- BEXT (R316). -/
def execBext (d a b : Reg) (wa wb : Bool) (s : State) : Res :=
  .next (s.op2 d a b wa wb fun x y => bextV x y)

/-- MUL (R361). -/
def execMul (d a b : Reg) (wa wb : Bool) (s : State) : Res :=
  .next (s.op2 d a b wa wb fun x y => x * y)

/-- MULH (R361). -/
def execMulh (d a b : Reg) (wa wb : Bool) (s : State) : Res :=
  .next (s.op2 d a b wa wb fun x y => mulhV x y)

/-- MULHN (R361). -/
def execMulhn (d a b : Reg) (wa wb : Bool) (s : State) : Res :=
  .next (s.op2 d a b wa wb fun x y => mulhnV x y)

/-- DIV (R334). -/
def execDiv (d a b : Reg) (wa wb : Bool) (s : State) : Res :=
  .next (s.op2 d a b wa wb fun x y => divV x y)

/-- DIVN (R334). -/
def execDivn (d a b : Reg) (wa wb : Bool) (s : State) : Res :=
  .next (s.op2 d a b wa wb fun x y => divnV x y)

/-- MOD (R361). -/
def execMod (d a b : Reg) (wa wb : Bool) (s : State) : Res :=
  .next (s.op2 d a b wa wb fun x y => modV x y)

/-- MODN (R361). -/
def execModn (d a b : Reg) (wa wb : Bool) (s : State) : Res :=
  .next (s.op2 d a b wa wb fun x y => modnV x y)

/-- ADDI (R308). -/
def execAddi (d a : Reg) (wa : Bool) (imm : BitVec 15) (s : State) : Res :=
  .next (s.op1 d a wa fun x => x + immS imm)

/-- ANDI (R313). -/
def execAndi (d a : Reg) (wa : Bool) (imm : BitVec 15) (s : State) : Res :=
  .next (s.op1 d a wa fun x => x &&& immS imm)

/-- ORI (R361). -/
def execOri (d a : Reg) (wa : Bool) (imm : BitVec 15) (s : State) : Res :=
  .next (s.op1 d a wa fun x => x ||| immS imm)

/-- XORI (R413). -/
def execXori (d a : Reg) (wa : Bool) (imm : BitVec 15) (s : State) : Res :=
  .next (s.op1 d a wa fun x => x ^^^ immS imm)

/-- SLTI (R361). -/
def execSlti (d a : Reg) (wa : Bool) (imm : BitVec 15) (s : State) : Res :=
  .next (s.op1 d a wa fun x => truth (ltS x (immS imm)))

/-- SHLI (R361). -/
def execShli (d a : Reg) (wa : Bool) (imm : BitVec 6) (s : State) : Res :=
  .next (s.op1 d a wa fun x => shlV x imm.toNat)

/-- SHRI (R361). -/
def execShri (d a : Reg) (wa : Bool) (imm : BitVec 6) (s : State) : Res :=
  .next (s.op1 d a wa fun x => shrV x imm.toNat)

/-- SRAI (R361). -/
def execSrai (d a : Reg) (wa : Bool) (imm : BitVec 6) (s : State) : Res :=
  .next (s.op1 d a wa fun x => sraV x imm.toNat)

/-- LHI (R355). -/
def execLhi (d a : Reg) (wa : Bool) (imm : BitVec 15) (s : State) : Res :=
  .next (s.op1 d a wa fun x => (x <<< 15) ||| immN imm)

/-- CLZ (R324). -/
def execClz (d a : Reg) (wa : Bool) (s : State) : Res := .next (s.op1 d a wa fun x => w64 (clzN x.toNat 64))

/-- CTZ (R333). -/
def execCtz (d a : Reg) (wa : Bool) (s : State) : Res := .next (s.op1 d a wa fun x => w64 (ctzN x.toNat 0 64))

/-- POPC (R361). -/
def execPopc (d a : Reg) (wa : Bool) (s : State) : Res := .next (s.op1 d a wa fun x => w64 (popN x.toNat 64))

/-- BINS (R318): x[d] is a third source, read blocking and never under a w bit. -/
def execBins (d a b : Reg) (wa wb : Bool) (s : State) : Res :=
  .next <| match s.me.emptyTrap [(a, wa), (b, wb)] with
    | some r => s.trap causeEmpty (w64 r.toNat)
    | none =>
      if s.me.mustWait [(a, wa), (b, wb), (d, false)] d then s.block
      else s.result s.me d (binsV (s.me.get d) (s.me.get a) (s.me.get b))

/-- PCREL (R376). -/
def execPcrel (d : Reg) (imm : BitVec 15) (s : State) : Res :=
  .next (s.issue [] d fun c => s.result c d (c.pc + wordOff imm))

end Sys2Proof.Machine
end

