-- ==== Sys2Proof/Machine/LoadStore.lean ====
section
/-! DEFINITION. The load-store port: issue of LD, ST, STA, AMO, LDFE, STFE and WAITF (13_encodings.md R245, R247;
20_ref_a_c.md R309 to R311; 21_ref_d_l.md R351, R352; 22_ref_m_s.md R387 to R391; 23_ref_t_z.md R406), their
performance at their homes (05_ordering.md R95 to R107), and what comes back. -/

namespace Sys2Proof.Machine

/-- Whose addresses a core's load-store port translates. -/
def State.portWho (s : State) (n : Nat) : Who :=
  ⟨8 * n, nWafer n, nField n, some (nQuad n), (s.core n).kasid.toNat, (s.core n).priv⟩

/-- The access code of a kind (11_faults.md R210): 0 read, 1 write, 2 AMO. -/
def AccKind.code (k : AccKind) : Nat :=
  match k with
  | .ld => 0
  | .ldfe => 0
  | .waitf => 0
  | .amo _ => 2
  | .record => 0
  | _ => 1

/-! ## Issue -/

/-- Limits on the home of an access beyond the map's own: the scope of an AMO or STA (R311, R389), the AMOs a host window
carries (R311), no window or host window for WAITF (R406), the QSP alone for LDFE and STFE (R78). -/
def accessLimit (name sc : Nat) (k : AccKind) (pa : Nat) : Option Nat :=
  let h := homeOf pa
  match k with
  | .amo op =>
    if !homeInScope name sc h then some 2
    else match h with
      | .host _ _ => if op == .add || op == .swp || op == .cas then none else some 2
      | _ => none
  | .sta => if homeInScope name sc h then none else some 2
  | .waitf => match h with
    | .window _ _ _ _ => some 2
    | .host _ _ => some 2
    | _ => none
  | .ldfe => match h with
    | .quad _ _ l => if l < 0x40000 then none else some 2
    | _ => some 2
  | .stfe => match h with
    | .quad _ _ l => if l < 0x40000 then none else some 2
    | _ => some 2
  | _ => none

/-- Whether the access would deliver poison to a register as its words now stand (R211): then the core stops before the
instruction. An access that an earlier one of the port may still change waits for it, so that the core still stops before the instruction (20_ref_a_c.md R311). -/
def State.poisonNow (s : State) (a : Access) : Bool :=
  a.isRead && s.poisonRun a.pa a.size && (a.kind != .ldfe || shas s.qtags (canon a.pa))

/-- Whether an access of the port that has not performed touches a byte of this one. -/
def Core.openTo (c : Core) (a : Access) : Bool := c.port.any fun b => a.overlaps b && !b.performed

/-- Whether the core is held until the access performs: LDFE and WAITF (R53). -/
def AccKind.holds (k : AccKind) : Bool := k == .ldfe || k == .waitf

/-- When the core issued the access to an address: when it first found its translation missing (18_prog_alltoall.md R301), else now. -/
def Core.triedAt (c : Core) (va : W64) (now : Nat) : Nat :=
  match c.tried with
  | some (t, v) => if v = va then t else now
  | none => now

/-- The access as it enters the port: numbered, with its address space, node and time, and for a write after a FENCE.rel with that
fence's release (05_ordering.md R108). -/
def State.stamped (s : State) (c : Core) (a : Access) : Access :=
  let fence := if a.isWrite then c.fence else none
  { a with id := c.nextId, hadFull := c.isFull a.dst, asid := c.kasid.toNat, ref := c.ref,
           born := some (c.triedAt a.va s.time),
           rel := a.rel || fence.isSome, relSc := max a.relSc (fence.getD 0) }

/-- The core's ordering state after a write has issued: the fence has its release, no read ahead of it serves its bytes, and it has come
after every read performed so far. -/
def Core.didWrite (c : Core) (a : Access) : Core := if a.isWrite then { (c.dropEarly a.pa a.size).learnt with fence := none } else c

/-- The access enters the port: its destination is marked empty where the access is a producer (R74), and the
instruction completes, or holds the core (R53). -/
def State.pushAccess (s : State) (c : Core) (a : Access) : State :=
  let a := s.stamped c a
  let c1 := (if a.pends a.dst then c.mkEmpty a.dst else c).didWrite a
  let c2 := { c1 with port := c1.port ++ [a], nextId := c1.nextId + 1, tried := none }
  if a.kind.holds then s.setMe { c2 with hold := .access a.id, wait := some (s.now s.cur) }
  else s.finish c2

/-- The scopes at which an access of core `c` is, or may yet become, a release (R99, R108). -/
def Core.relScopes (c : Core) (a : Access) : List Nat :=
  (if a.rel then [a.relSc] else [])
    ++ (if a.isWrite then c.fence.toList ++ (c.port.filter fun b => b.rel && b.isCas && !b.performed).map (·.relSc) else [])

/-- Whether an access waits at issue: a read, or an access to another wafer, behind what may stay open for good, an access to an edge window
or one that a remote home refuses, or a vector command. Once it has issued, only what performs in time holds it back (20_ref_a_c.md R311;
18_prog_alltoall.md R301; log 102). -/
def State.mayStall (s : State) (c : Core) (a : Access) : Bool :=
  (a.isRead || a.pa / 2 ^ 48 != nWafer s.cur) && (
    c.port.any (fun b => b.acq && !b.performed && !s.sure s.cur b)
    || (c.relScopes a).any fun sc => !c.vq.isEmpty
      || c.port.any fun b => !b.beyond sc && (!b.performed && !s.sure s.cur b || b.isSta || b.toHost))

/-- The instruction waits for an earlier access of its port; where that may stay open for good, its own has not issued (R301). -/
def State.standBy (s : State) (c : Core) : State :=
  s.setMe { c with wait := none, tried := if c.port.any (fun b => !b.performed && !s.sure s.cur b) then none else c.tried }

/-- Issues an access whose sources are read and whose address is aligned (R242 step 6): translation, the limits of its
home, for an STFE the acknowledgement of earlier stores (22_ref_m_s.md R391), poison, then the port. -/
def State.access (s : State) (c : Core) (a : Access) : State :=
  let acc := a.kind.code
  let s := s.refill (s.portWho s.cur) a.va
  match s.translate (s.portWho s.cur) a.va a.size acc with
  | .miss => (s.setMe { c with wait := none, tried := some (c.triedAt a.va s.time, a.va) }).askWalk (s.portWho s.cur) a.va acc
      (s.portFault s.cur (.port s.cur) a.va 1 acc)
  | .bad t => s.stopCore s.cur (.port s.cur) a.va t acc
  | .ok pa trc _ =>
    let a := { a with pa := pa, trc := trc }
    match accessLimit s.cur a.sc a.kind pa with
    | some t => s.stopCore s.cur (.port s.cur) a.va t acc
    | none =>
      if a.kind == .stfe && !c.storesAcked then s.setMe { c with wait := none }
      else if s.poisonNow a then
        if c.openTo a then s.standBy c else s.stopCore s.cur (.port s.cur) a.va 3 acc
      else if s.mayStall c a then s.setMe { c with wait := none, tried := none }
      else s.pushAccess c a

/-- A fresh access of `size` bytes at `va`. -/
def mkAccess (k : AccKind) (va : W64) (size : Nat) (dst : Reg) : Access :=
  { id := 0, kind := k, va := va, pa := 0, size := size, data := 0, cmp := 0, dst := dst, zext := false, sc := 0,
    rel := false, relSc := 0, acq := false, trc := false, hadFull := false, asid := 0, ref := none, born := none, phase := .issued }

/-- Goes on with `k` when the address is aligned, else takes the misaligned trap (R242 step 5). -/
def State.aligned (s : State) (va : W64) (size : Nat) (k : State) : State :=
  if va.toNat % size != 0 then s.trap causeMisaligned va else k

/-- LD (R351). -/
def execLd (t a : Reg) (wa : Bool) (sz sc : BitVec 3) (ord : Bool) (imm : BitVec 8) (s : State) : Res :=
  .next <|
    if !(Instr.ld t a wa sz sc ord imm).wf then s.illegal (.ld t a wa sz sc ord imm)
    else s.issue [(a, wa)] t fun c =>
      let size := szBytes sz.toNat
      let va := memAddr (c.get a) imm size
      s.aligned va size <| s.access c
        { mkAccess .ld va size t with zext := 4 ≤ sz.toNat, sc := sc.toNat, acq := ord }

/-- ST (R387). -/
def execSt (t a : Reg) (wa : Bool) (sz : BitVec 2) (sc : BitVec 3) (ord : Bool) (imm : BitVec 8) (s : State) : Res :=
  .next <|
    if !(Instr.st t a wa sz sc ord imm).wf then s.illegal (.st t a wa sz sc ord imm)
    else s.issue [(a, wa), (t, wa)] 0 fun c =>
      let size := szBytes sz.toNat
      let va := memAddr (c.get a) imm size
      s.aligned va size <|
        if !c.storesAcked then s.setMe { c with wait := none }
        else s.access c
          { mkAccess .st va size 0 with data := storeVal size (c.get t), sc := sc.toNat, rel := ord, relSc := sc.toNat }

/-- Outstanding STAs (R389). -/
def Core.stas (c : Core) : Nat := (c.port.filter (·.isSta)).length

/-- STA (R389). -/
def execSta (t a : Reg) (wa : Bool) (sz : BitVec 2) (sc : BitVec 3) (imm : BitVec 8) (s : State) : Res :=
  .next <|
    if !(Instr.sta t a wa sz sc imm).wf then s.illegal (.sta t a wa sz sc imm)
    else s.issue [(a, wa), (t, wa)] 0 fun c =>
      let size := szBytes sz.toNat
      let va := memAddr (c.get a) imm size
      s.aligned va size <|
        if c.stas ≥ 64 then s.setMe { c with wait := none }
        else s.access c { mkAccess .sta va size 0 with data := storeVal size (c.get t), sc := sc.toNat }

/-- LDFE (R352). -/
def execLdfe (t a : Reg) (wa : Bool) (imm : BitVec 8) (s : State) : Res :=
  .next <| s.issue [(a, wa)] t fun c =>
    let va := memAddr (c.get a) imm 8
    s.aligned va 8 <| s.access c (mkAccess .ldfe va 8 t)

/-- STFE (R391). -/
def execStfe (t a : Reg) (wa : Bool) (imm : BitVec 8) (s : State) : Res :=
  .next <| s.issue [(a, wa), (t, wa)] 0 fun c =>
    let va := memAddr (c.get a) imm 8
    s.aligned va 8 <| s.access c { mkAccess .stfe va 8 0 with data := c.get t }

/-- WAITF (R406). -/
def execWaitf (d a b : Reg) (s : State) : Res :=
  .next <| s.issue [(a, false), (b, false)] d fun c =>
    s.aligned (c.get a) 8 <| s.access c { mkAccess .waitf (c.get a) 8 d with cmp := c.get b }

/-! ## AMO (R309 to R311) -/

/-- Issues an AMO (R310). CAS reads x[d] first, blocking under R74. -/
def State.amo (s : State) (op : AmoOp) (i : Instr) (d a b : Reg) (wa wb wide : Bool) (sc : BitVec 3) : State :=
  if !i.wf then s.illegal i
  else
    match s.me.emptyTrap [(a, wa), (b, wb)] with
    | some r => s.trap causeEmpty (w64 r.toNat)
    | none =>
      let c := s.me
      let srcs := [(a, wa), (b, wb)] ++ (if op == .cas then [(d, false)] else [])
      if c.mustWait srcs d then s.block
      else
        let size := if wide then 8 else 4
        let va := c.get a
        s.aligned va size <| s.access c
          { mkAccess (.amo op) va size d with data := storeVal size (c.get b), cmp := storeVal size (c.get d), sc := sc.toNat }

/-- AMO.ADD. -/
def execAmoAdd (d a b : Reg) (wa wb wide : Bool) (sc : BitVec 3) (s : State) : Res :=
  .next (s.amo .add (.amoAdd d a b wa wb wide sc) d a b wa wb wide sc)

/-- AMO.AND. -/
def execAmoAnd (d a b : Reg) (wa wb wide : Bool) (sc : BitVec 3) (s : State) : Res :=
  .next (s.amo .and (.amoAnd d a b wa wb wide sc) d a b wa wb wide sc)

/-- AMO.OR. -/
def execAmoOr (d a b : Reg) (wa wb wide : Bool) (sc : BitVec 3) (s : State) : Res :=
  .next (s.amo .or (.amoOr d a b wa wb wide sc) d a b wa wb wide sc)

/-- AMO.XOR. -/
def execAmoXor (d a b : Reg) (wa wb wide : Bool) (sc : BitVec 3) (s : State) : Res :=
  .next (s.amo .xor (.amoXor d a b wa wb wide sc) d a b wa wb wide sc)

/-- AMO.MIN. -/
def execAmoMin (d a b : Reg) (wa wb wide : Bool) (sc : BitVec 3) (s : State) : Res :=
  .next (s.amo .min (.amoMin d a b wa wb wide sc) d a b wa wb wide sc)

/-- AMO.MAX. -/
def execAmoMax (d a b : Reg) (wa wb wide : Bool) (sc : BitVec 3) (s : State) : Res :=
  .next (s.amo .max (.amoMax d a b wa wb wide sc) d a b wa wb wide sc)

/-- AMO.MINN. -/
def execAmoMinn (d a b : Reg) (wa wb wide : Bool) (sc : BitVec 3) (s : State) : Res :=
  .next (s.amo .minn (.amoMinn d a b wa wb wide sc) d a b wa wb wide sc)

/-- AMO.MAXN. -/
def execAmoMaxn (d a b : Reg) (wa wb wide : Bool) (sc : BitVec 3) (s : State) : Res :=
  .next (s.amo .maxn (.amoMaxn d a b wa wb wide sc) d a b wa wb wide sc)

/-- AMO.SWP. -/
def execAmoSwp (d a b : Reg) (wa wb wide : Bool) (sc : BitVec 3) (s : State) : Res :=
  .next (s.amo .swp (.amoSwp d a b wa wb wide sc) d a b wa wb wide sc)

/-- AMO.CAS. -/
def execAmoCas (d a b : Reg) (wa wb wide : Bool) (sc : BitVec 3) (s : State) : Res :=
  .next (s.amo .cas (.amoCas d a b wa wb wide sc) d a b wa wb wide sc)

/-! ## Performing at the home -/

/-- A fault found when the access performs (R211): the core stops with the access held; a core held by the access, or at a SPAWN that reads
its record, stops before its instruction. While the core is stopped at another fault, the access waits (R210). -/
def State.lateFault (s : State) (n : Nat) (a : Access) (ty : Nat) : State :=
  if (s.core n).fault.isSome then s
  else if a.kind == .record then (s.setCore n (s.core n).dropRecords).stopCore n (.port n) a.va ty 0
  else if a.kind.holds then
    let c := (s.core n).withdraw a.id
    let c := if a.hadFull && a.kind == .ldfe && a.dst != 0 then { c with full := c.full ||| regMask a.dst } else c
    (s.setCore n c).stopCore n (.port n) a.va ty a.kind.code
  else s.stopCore n (.late n a.id) a.va ty a.kind.code

/-- An access to an edge window takes its place in the slot's order (09_edge.md R182). -/
def State.enterView (s : State) (w m sl : Nat) (v : VAcc) : State :=
  let c := s.ctl (w * 64 + m)
  let e := mget c.slots sl resetSlot
  s.setCtl (w * 64 + m) { c with slots := mput c.slots sl { e with accs := e.accs ++ [{ v with id := e.seen + 1 }], seen := e.seen + 1 } }

/-- A load performs: on the value that a read ahead of it has fixed (R98, R100), or on memory as it stands. -/
def State.performLd (s : State) (n : Nat) (a : Access) : State :=
  let c := s.core n
  match c.earlyFor a with
  | some e => s.setCore n (c.loaded n a e.v e.rels)
  | none => if s.poisonRun a.pa a.size then s.lateFault n a 3 else s.ldAt n a

/-- An AMO performs (R310). -/
def State.performAmo (s : State) (n : Nat) (op : AmoOp) (a : Access) : State :=
  if s.poisonRun a.pa a.size then s.lateFault n a 3 else s.amoAt n op a

/-- The access of a core has found its home not ready and waits: no bound on its time holds any more (18_prog_alltoall.md R301). -/
def Core.waits (c : Core) (id stamp : Nat) : Core :=
  { c with port := c.port.map fun a => if a.id == id then { a with phase := .waiting stamp, born := none } else a }

/-- An LDFE or WAITF waits at its home, behind those that came before. -/
def State.performWait (s : State) (n : Nat) (a : Access) : State :=
  { s with serial := s.serial + 1 }.setCore n ((s.core n).waits a.id s.serial)

/-- The access performs at its home in the home's order (R95). One that finds its edge window unbound is a fault of type 2 (09_edge.md
R184). -/
def State.perform (s : State) (n : Nat) (a : Access) : State :=
  match homeOf a.pa with
  | .window w m sl o =>
    match s.forbidden (nWafer n) a.pa a.size a.kind.code with
    | some t => s.lateFault n a t
    | none =>
      let wr := if a.isRead then none else some (natRun a.size a.data.toNat false)
      (s.setCore n ((s.core n).setPhase a.id .viewing)).enterView w m sl ⟨.late n a.id, nWafer n, a.asid, o, a.size, wr, 0, [], 0, []⟩
  | _ =>
    match a.kind with
    | .ld => s.performLd n a
    | .st => s.performSt n 0 a
    | .sta => s.performSt n 1 a
    | .stfe => (s.performSt n 0 a).fillWord a.pa
    | .record => s.performLd n a
    | .ldfe =>
      if shas s.qtags (canon a.pa) then
        if s.poisonAt a.pa then s.lateFault n a 3 else s.takeWord n a
      else s.performWait n a
    | .waitf =>
      if s.poisonAt a.pa then s.lateFault n a 3
      else if s.readW a.pa != a.cmp then s.endWatch n a (s.readW a.pa)
      else s.performWait n a
    | .amo op => s.performAmo n op a

/-- An access whose edge window has answered with poison stops its core, once nothing else does (09_edge.md R186; 11_faults.md R211). -/
def State.taintFault (s : State) (n : Nat) (a : Access) : State :=
  if (s.core n).fault.isSome then s else (s.setCore n ((s.core n).setPhase a.id .issued)).lateFault n a 3

/-- The value of a producer as its register takes it. -/
def Access.value (a : Access) (v : W64) : W64 :=
  match a.kind with
  | .amo _ => loadExt false a.size v
  | _ => loadExt a.zext a.size v

/-- Whether core `n` will not take up the record that its SPAWN has read: its strand ends, or its partition is taken off. -/
def State.deserted (s : State) (n : Nat) : Bool :=
  (s.core n).ends || (s.core n).ending.any (·.reason != 0) || (s.part (shPartKey (((s.core n).ref.map (·.sheaf)).getD 0))).st != .run

/-- PRODUCER_ARRIVE: the value of a performed load, AMO or LDFE reaches its register and sets its presence bit (R74); a word of a record
that no SPAWN waits for is dropped. -/
def execProducerArrive (core id : Nat) (s : State) : Res :=
  .next <| match (s.core core).find id with
    | some a =>
      match a.phase, a.kind with
      | .performed _, .st => s
      | .performed _, .sta => s
      | .performed _, .stfe => s
      | .performed _, .record => if s.deserted core then s.setCore core { s.core core with port := (s.core core).port.filter (·.id != id) } else s
      | .performed v, _ =>
        let c := s.core core
        s.setCore core ({ c with port := c.port.filter (·.id != id) }.put a.dst (a.value v))
      | _, _ => s
    | none => s

/-- REMOTE_ACCESS_REFUSED: the refusal of a load, AMO, LDFE or WAITF arrives and the port takes a type 2 fault (R388). -/
def execRemoteAccessRefused (core id : Nat) (s : State) : Res :=
  .next <| match (s.core core).find id with
    | some a =>
      if a.phase == .issued && a.isRead && (s.core core).mayPerform a && s.remoteUnbacked (nWafer core) a.pa
        && (s.core core).fault.isNone then
        if a.kind == .record then s.lateFault core a 2
        else (s.setCore core ((s.core core).setPhase id .refused)).stopCore core (.late core id) a.va 2 a.kind.code
      else s
    | none => s

end Sys2Proof.Machine
end

