-- ==== Sys2Proof/Machine/Work.lean ====
section
/-! DEFINITION. Strands and what they wait on: continuation queues (10_scheduling.md R196 to R198), join blocks and the
release of parked strands (02_execution.md R39, R41, R42), and the end of a strand. -/

namespace Sys2Proof.Machine

/-! ## A core's atomic accesses to blocks and records -/

/-- Translates for core `n` without caches, so that it never misses: an access by hardware on a strand's behalf. -/
def State.coreTr (s : State) (n asid : Nat) (va : W64) (size acc : Nat) : Tr :=
  if bits va 63 56 != 0 then .bad 2
  else if inLocal va then
    match s.translate ⟨8 * n, nWafer n, nField n, some (nQuad n), asid, true⟩ va size acc with
    | .miss => .bad 1
    | r => r
  else match walkVa s (nWafer n) asid va with
    | .error t => .bad t
    | .ok l =>
      if !l.permits acc true then .bad (if acc = 2 then 2 else 1)
      else match s.forbidden (nWafer n) (l.pa va) size acc with
        | some t => .bad t
        | none => if windowed (l.pa va) || s.remoteUnbacked (nWafer n) (l.pa va) then .bad 2
          else .ok (l.pa va) (bitAt l.pte 57) (bitAt l.pte 58)

/-- A word of memory at a strand's address; a free value where it cannot be reached (log 18). -/
def State.coreWord (s : State) (n asid : Nat) (va : W64) : W64 :=
  match s.coreTr n asid va 8 0 with
  | .ok pa _ _ => s.readW pa
  | _ => Config.unspecified s.tick

/-- Writes a word at a strand's address. -/
def State.putCoreWord (s : State) (n asid : Nat) (va v : W64) : State :=
  match s.coreTr n asid va 8 1 with
  | .ok pa trc _ => s.write pa (natRun 8 v.toNat false) ⟨0, 0, n, trc, 0⟩
  | _ => s

/-- The state once no access of the issuing core waits for its translation (18_prog_alltoall.md R301). -/
def State.untried (s : State) : State := if s.me.tried.isSome then s.setMe { s.me with tried := none } else s

/-- The issuing core's port reaches `size` bytes for an instruction that performs there at once (SPAWN, JOIN, RETIRE):
translation, faults, poison (R210, R211), and the core's earlier accesses to the same bytes first (R98, R100). No such instruction acts on
an edge window: a join block is changed as by an AMO, which no window takes (09_edge.md R180); for a save area and a command that is the
model's choice (DESIGN CHOICE, log 115). -/
def State.reach (s : State) (c : Core) (va : W64) (size acc : Nat) (k : State → Nat → Bool → State) : State :=
  let s := (s.refill (s.portWho s.cur) va).untried
  match s.translate (s.portWho s.cur) va size acc with
  | .miss => (s.setMe { c with wait := none, tried := some (c.triedAt va s.time, va) }).askWalk (s.portWho s.cur) va acc (s.portFault s.cur (.port s.cur) va 1 acc)
  | .bad t => s.stopCore s.cur (.port s.cur) va t acc
  | .ok pa trc _ =>
    let me : Access := { mkAccess .ld va size 0 with pa := pa }
    if windowed pa || s.remoteUnbacked (nWafer s.cur) pa then s.stopCore s.cur (.port s.cur) va 2 acc
    else if c.port.any (fun b => !b.performed && (b.acq || b.overlaps me)) then s.standBy c
    else if acc != 1 && s.poisonRun pa size then s.stopCore s.cur (.port s.cur) va 3 acc
    else k s pa trc

/-! ## Continuation queues -/

/-- The partition entry that a node's sheaf read at acceptance (R187). -/
def State.partEntry (s : State) (r : NodeRef) : List W64 := ((mfind s.sheaves r.sheaf).map (·.part)).getD []

/-- Records a quad spill ring holds (R187). -/
def State.qlen (s : State) (r : NodeRef) : Nat := bits (nth (s.partEntry r) 4 0) 31 16

/-- Records a field spill ring holds (R187). -/
def State.flen (s : State) (r : NodeRef) : Nat := bits (nth (s.partEntry r) 4 0) 15 0

/-- Records on chip in a quad queue and in a field queue (R38). -/
def quadChip : Nat := 64

/-- Records on chip in a field queue (R38). -/
def fieldChip : Nat := 1024

/-- Records on chip. -/
def ContQ.onChip (q : ContQ) : Nat := (q.chip.filter (!·.out)).length

/-- Records in the spill ring: those that found no room on chip, and those that pre-emption has moved there (11_faults.md R214). -/
def ContQ.inRing (q : ContQ) : Nat := q.ring.length + (q.chip.filter (·.out)).length

/-- Whether a record's partition has records that pre-emption has moved. -/
def ContQ.away (q : ContQ) (r : Rec) : Bool := q.chip.any fun x => x.out && shPartKey x.ref.sheaf == shPartKey r.ref.sheaf

/-- Spilled records come back to the on-chip part, oldest first (R197). -/
def ContQ.refill (q : ContQ) (cap : Nat) : ContQ :=
  let back := (q.ring.filter (!q.away ·)).take (cap - q.onChip)
  ⟨q.chip ++ back, back.foldl List.erase q.ring⟩

/-- Pushes a record behind all others: on chip, else into the ring of `len` records; none where neither has room. -/
def ContQ.push (q : ContQ) (cap len : Nat) (r : Rec) : Option ContQ :=
  let q := q.refill cap
  if q.onChip < cap && q.ring.isEmpty then some ⟨q.chip ++ [r], q.ring⟩
  else if q.inRing < len then some ⟨q.chip, q.ring ++ [r]⟩
  else none

/-- The words of a record (R36). -/
def Rec.words (r : Rec) : List W64 :=
  [r.cp, r.fp, r.jc, w64 (place r.node 16 + place (b2n r.rsm) 5 + place (r.core % 4) 3 + place (b2n r.pin) 2 + r.prio)]

/-- The words of a record lie in a queue's ring, which starts at `base` (R187), in place `slot`. -/
def State.spillAt (s : State) (base : W64) (slot : Nat) (r : Rec) : State :=
  let e := s.partEntry r.ref
  (List.range 4).foldl (fun s i =>
    s.hwWrite (shWafer r.ref.sheaf) (bits (nth e 1 0) 17 8) (base + w64 (32 * slot + 8 * i)) (nth r.words i 0)) s

/-- The words of the record that a push has put last in a queue's ring lie in that ring: in the place that its number among the ring's
records gives (log 38). -/
def State.spill (s : State) (q : ContQ) (base : W64) (r : Rec) : State :=
  if q.ring.getLast? != some r then s else s.spillAt base (q.inRing - 1) r

/-- Where the spill ring of a quad starts (R187). -/
def State.quadRing (s : State) (quad : Nat) (r : NodeRef) : W64 := nth (s.partEntry r) 2 0 + w64 (quad % 2 ^ 13 * s.qlen r * 32)

/-- Where the spill ring of a field starts (R187). -/
def State.fieldRing (s : State) (field : Nat) (r : NodeRef) : W64 := nth (s.partEntry r) 3 0 + w64 (field % 128 * s.flen r * 32)

/-- A queue whose on-chip records of a partition have gone to its ring of `len` records, oldest first, as far as it has room
(11_faults.md R214). -/
def ContQ.spilt (q : ContQ) (part len : Nat) : ContQ :=
  q.chip.foldl (fun (p : ContQ) r =>
    ⟨p.chip ++ [if shPartKey r.ref.sheaf = part && p.inRing < len then { r with out := true } else r], p.ring⟩) ⟨[], q.ring⟩

/-- The records of a queue that pre-emption has moved: their words lie in its ring behind those that were there. -/
def State.spillOut (s : State) (q : ContQ) (base : NodeRef → W64) : State :=
  let rs := q.chip.filter (·.out)
  (List.range rs.length).foldl (fun s i =>
    match rs[i]? with
    | some r => s.spillAt (base r.ref) (q.ring.length + i) r
    | none => s) s

/-- A queue whose records of a partition are back on chip (R214). -/
def ContQ.returned (q : ContQ) (part : Nat) : ContQ :=
  ⟨q.chip.map fun r => if shPartKey r.ref.sheaf = part then { r with out := false } else r, q.ring⟩

/-- Pushes as SPAWN does (R40): the quad queue's on-chip part, else the field queue. -/
def State.pushSpawn (s : State) (n : Nat) (r : Rec) : Option State :=
  let q := s.quad (nQuad n)
  match q.contq.push quadChip 0 r with
  | some c => some (s.setQuad (nQuad n) { q with contq := c })
  | none =>
    let f := s.field (nField n)
    match f.contq.push fieldChip (s.flen r.ref) r with
    | some c => some ((s.setField (nField n) { f with contq := c }).spill c (s.fieldRing (nField n) r.ref) r)
    | none => none

/-- Pushes a record behind all others of a quad queue, on chip or into its spill ring; none where neither has room (R196). -/
def State.pushQuad (s : State) (quad : Nat) (r : Rec) : Option State :=
  let q := s.quad quad
  (q.contq.push quadChip (s.qlen r.ref) r).map fun c =>
    (s.setQuad quad { q with contq := c }).spill c (s.quadRing quad r.ref) r

/-- Pushes as the hardware does (R196): the quad queue or its spill ring, else the record is held. -/
def State.pushHard (s : State) (quad : Nat) (r : Rec) : State :=
  let hold : State := { s with held := s.held ++ [⟨quad, r⟩] }
  if s.held.any (·.quad == quad) then hold else (s.pushQuad quad r).getD hold

/-- Whether core `n` of a team may pop a record (R38, R196): the record's node is its team's, and it is unpinned or pinned to
this core of this quad. -/
def Rec.eligible (r : Rec) (n : Nat) (ref : NodeRef) : Bool := r.ref == ref && (!r.pin || r.core == n)

/-- The first eligible record of the highest level that holds one (R197). -/
def ContQ.best (q : ContQ) (n : Nat) (ref : NodeRef) : Option Rec :=
  let l := (q.chip ++ q.ring).filter (·.eligible n ref)
  match l.find? (·.prio == 3) with
  | some r => some r
  | none => match l.find? (·.prio == 2) with
    | some r => some r
    | none => match l.find? (·.prio == 1) with
      | some r => some r
      | none => l.head?

/-- Whether a pop must wait for a refill: nothing on chip, eligible records in the ring (R197). -/
def ContQ.starved (q : ContQ) (n : Nat) (ref : NodeRef) : Bool :=
  q.onChip = 0 && q.ring.any (·.eligible n ref)

/-- Takes one record out. -/
def ContQ.take (q : ContQ) (r : Rec) : ContQ :=
  if q.chip.contains r then ⟨q.chip.erase r, q.ring⟩ else ⟨q.chip, q.ring.erase r⟩

/-- Counts a pop on every record that stays in a field queue (R198). -/
def ContQ.counted (q : ContQ) : ContQ :=
  let f := fun (r : Rec) => { r with pops := r.pops + 1 }
  ⟨q.chip.map f, q.ring.map f⟩

/-! ## Parked strands -/

/-- Words 0 to 5 of a save area (R39), for a strand that parks: rpc, link, sx2, sx3, kind and obj, node, d and prio. -/
def saveWords (c : Core) (kind : Nat) (obj : W64) (d : Reg) (t : Strand) : List W64 :=
  [w64 (bits (c.pc + 4) 55 0), 0, c.x.get 2, c.x.get 3, w64 (place kind 56 + bits obj 55 0),
    w64 (place t.ref.node 16 + place d.toNat 10 + t.prio)]

/-- The bytes of a save area that the park writes (R39): words 0 to 5 and scp; out and val are written at the release. -/
def saveRun (c : Core) (kind : Nat) (obj : W64) (d : Reg) (t : Strand) : List (Byte × Bool) :=
  ((saveWords c kind obj d t).flatMap fun w => natRun 8 w.toNat false) ++ natRun 7 (bits t.startCp 55 0) false

/-- The strand leaves its core, which becomes idle (R42). -/
def Core.idle (c : Core) : Core :=
  { c.dropRecords.unordered with strand := none, ending := none, hold := .none, wait := none, fault := none, fetch := [] }

/-- Reaches the save area at x[1]: its two halves, which may lie in two pages (R39). -/
def State.reachSave (s : State) (c : Core) (k : State → Nat × Bool → Nat × Bool → State) : State :=
  s.reach c (c.get 1) 32 1 fun s pa trc => s.reach c (c.get 1 + 32) 32 1 fun s pa' trc' => k s (pa, trc) (pa', trc')

/-- Parks the strand of core `n` (R39): the halves of its save area, at the physical addresses `lo` and `hi`, are written. -/
def State.park (s : State) (n : Nat) (c : Core) (lo hi : Nat × Bool) (kind : Nat) (obj : W64) (d : Reg) (t : Strand) : State :=
  let run := saveRun c kind obj d t
  let s := s.write lo.1 (run.take 32) ⟨0, 0, n, lo.2, 0⟩
  let s := s.write hi.1 (run.drop 32) ⟨0, 0, n, hi.2, 0⟩
  let p : Parked := ⟨s.serial, c.x.get 1, c.kasid.toNat, n, t.ref, kind == 2, obj, c.nextId, none⟩
  { s with parked := s.parked ++ [p], serial := s.serial + 1 }.setCore n c.idle

/-- Writes the out byte of a save area (R39). -/
def State.putOut (s : State) (n asid : Nat) (va : W64) (out : Nat) : State :=
  match s.coreTr n asid va 1 1 with
  | .ok pa trc _ => s.write pa (natRun 1 out false) ⟨0, 0, n, trc, 0⟩
  | _ => s

/-- Releases a parked strand (R39): out and val are written, and a resume record is pushed at no less than `prio`. -/
def State.unpark (s : State) (p : Parked) (out : Nat) (val : W64) (prio : Nat) : State :=
  let rd := fun (i : Nat) => s.coreWord p.core p.asid (p.save + w64 (8 * i))
  let w0 := rd 0
  let w5 := rd 5
  let s := s.putOut p.core p.asid (p.save + 55) out
  let s := s.putCoreWord p.core p.asid (p.save + 56) val
  { s with parked := s.parked.filter (·.id != p.id) }.pushHard (nQuad p.core)
    { cp := w64 (bits w0 55 0), fp := p.save, jc := 0, node := bits w5 27 16, rsm := true, core := p.core, pin := false,
      prio := max (bits w5 1 0) prio, pops := 0, ref := p.ref, out := false }

/-! ## Join blocks (R41, R42) -/

/-- The decrement of a join block at physical address `pa` (R42), the release of the strand's end at field scope: `reason` 0 for a normal
end. -/
def State.decBlock (s : State) (n asid pa : Nat) (trc : Bool) (reason : Nat) (cp : W64) : State :=
  let w0 := s.readW pa
  let w1 := s.readW (pa + 8)
  let w2 := s.readW (pa + 16)
  let count := bits w0 62 0
  let reason := if count = 0 then 4 else reason
  let count := count - 1
  let abn := bitAt w0 63 || reason != 0
  let w1' := if reason != 0 && bits w1 63 56 = 0 then w64 (place reason 56 + bits cp 55 0) else w1
  let free_ := count = 0 && w2 != 0
  let s := s.writeAs pa (natRun 8 (place (b2n abn) 63 + count) false ++ natRun 8 w1'.toNat false
    ++ natRun 8 (if free_ then 0 else w2.toNat) false) ⟨2, 0, n, trc, 0⟩ (some ⟨.core n, 2⟩)
  if free_ then
    match s.parked.find? (fun p => !p.fget && p.save == w2 && p.asid == asid && p.ends.isNone) with
    | some p => s.unpark p 0 (if abn then w1' else 0) 0
    | none => s
  else s

/-- Whether a decrement at `pa` finds the count at zero, which makes the end abnormal (R42). -/
def State.underflow (s : State) (pa : Nat) : Bool := bits (s.readW pa) 62 0 == 0

/-- What became of the block of a strand that ended: decremented, left alone though nonzero, or found at zero. -/
inductive Dec where
  | done | unusable | underflow
  deriving DecidableEq, Repr

/-- The decrement that stands for a strand removed by a kill, the watchdog, KEND or a double trap (R42): nothing is
decremented where the block cannot be used. -/
def State.decFor (s : State) (n asid : Nat) (va : W64) (reason : Nat) (cp : W64) : State × Dec :=
  if va = 0 then (s, .done)
  else if bits va 4 0 != 0 then (s, .unusable)
  else match s.coreTr n asid va 32 2 with
    | .ok pa trc _ =>
      if s.poisonRun pa 32 then (s, .unusable)
      else (s.decBlock n asid pa trc reason cp, if s.underflow pa then .underflow else .done)
    | _ => (s, .unusable)

/-! ## The end of a strand -/

/-- A strand that ended abnormally marks its node (R32): the status of R285 for a reason of R42. -/
def State.markAbn (s : State) (r : NodeRef) (reason : Nat) : State :=
  s.modNode r fun n => { n with abn := true, status := if n.status = 0 then (if reason = 2 || reason = 3 then reason else 1) else n.status }

/-- Withdraws what holds a core: a waiting access leaves the port, with its destination as it was. -/
def Core.unhold (c : Core) : Core :=
  match c.hold with
  | .access id =>
    match c.find id with
    | some a =>
      let c := c.withdraw id
      if a.kind == .ldfe && a.hadFull && a.dst != 0 then { c with full := c.full ||| regMask a.dst, wait := none }
      else { c with wait := none }
    | none => { c with hold := .none, wait := none }
  | .fwait _ d had =>
    { c with hold := .none, wait := none, full := if had && d != 0 then c.full ||| regMask d else c.full }
  | _ => { c with hold := .none, wait := none }

/-- The access of a core's port that a fault holds. -/
def State.lateId (s : State) (n : Nat) : Option Nat :=
  match (s.core n).fault with
  | none => none
  | some f =>
    match mfind s.faults f with
    | some g => match g.owner with
      | .late _ id => some id
      | _ => none
    | none => none

/-- Forgets the fault that holds a core, and a held vector command with those behind it. -/
def State.dropFault (s : State) (n : Nat) : State :=
  let c := s.core n
  let port := c.port.filter fun a => some a.id != s.lateId n
  let vq := if c.vfault.isSome then [] else c.vq
  { s with faults := mdelOpt (mdelOpt s.faults c.fault) c.vfault }.setCore n { c with
    fault := none, again := none, port := port, vq := vq, vfault := none }

/-- The strand of core `n` begins to end (R42): its waits are abandoned. One that a KEND ends and that a fault has stopped before an
instruction stands at the boundary at which it retires (R348; log 93). -/
def State.beginEnd (s : State) (n reason : Nat) : State :=
  let c := s.core n
  let s' := if reason = 0 && c.fault.isSome && (s.lateId n).isNone then
      { s with faults := mdelOpt s.faults c.fault }.setCore n { c with fault := none } else s
  match c.strand, c.ending with
  | none, _ => s
  | some _, none => s'.setCore n { (s'.core n).unhold with ending := some ⟨reason, none, false⟩ }
  | some _, some e =>
    if e.reason = 0 && reason != 0 then s.setCore n { c.unhold with ending := some ⟨reason, none, false⟩ } else s

/-- Whether the producers and vector commands of an ending strand have landed; what a fault holds is abandoned (R42). -/
def State.landed (s : State) (n : Nat) : Bool :=
  let c := s.core n
  let rest := c.port.filter fun a => some a.id != s.lateId n
  rest.all (fun a => !a.isRead && (a.performed && !a.isSta && !a.toHost || a.beyondFence 2))
    && (c.vq.isEmpty || c.vfault.isSome)

/-- Completes the end of a strand that a kill, the watchdog or a double trap takes, once its producers have landed (R42): the decrement,
the node's mark, a double trap's event (R205, R208), and the core is idle. -/
def State.finishEnd (s : State) (n : Nat) : State :=
  let c := s.core n
  match c.ending, c.strand with
  | some e, some t =>
    if !s.landed n then s
    else
      let s := s.dropFault n
      let (s, d) := if c.isFull 2 then s.decFor n c.kasid.toNat (c.x.get 2) e.reason t.startCp else (s, Dec.unusable)
      let s := s.markAbn t.ref e.reason
      let s := s.setCore n (s.core n).idle
      match e.dbl with
      | some (cause, at_) =>
        s.raiseEv (nWafer n) { kind := 7, ref := some t.ref,
                               words := [w64 n, c.kepc, w64 cause, at_, truth (d == .unusable && c.x.get 2 != 0), 0],
                               what := .other, core := some n }
      | none => s
  | _, _ => s

/-! ## Strands of a node -/

/-- Records of a queue that belong to a node. -/
def ContQ.of (q : ContQ) (ref : NodeRef) : List Rec := (q.chip ++ q.ring).filter (·.ref == ref)

/-- A queue without the records of a node. -/
def ContQ.without (q : ContQ) (ref : NodeRef) : ContQ := ⟨q.chip.filter (·.ref != ref), q.ring.filter (·.ref != ref)⟩

/-- Whether a node has a strand: running, queued, held or parked (R32). -/
def State.hasStrand (s : State) (ref : NodeRef) : Bool :=
  s.cores.any (fun p => p.2.ref == some ref)
    || s.quads.any (fun p => !(p.2.contq.of ref).isEmpty)
    || s.fields.any (fun p => !(p.2.contq.of ref).isEmpty)
    || s.held.any (fun h => h.crec.ref == ref)
    || s.parked.any (fun p => p.ref == ref)

/-- The address space of a node's sheaf. -/
def State.refAsid (s : State) (r : NodeRef) : Nat := bits (nth (s.partEntry r) 1 0) 17 8

/-- The decrement for a strand that was not running, with its node's mark. -/
def State.decRemoved (s : State) (n asid : Nat) (jc : W64) (reason : Nat) (cp : W64) (ref : NodeRef) : State :=
  let (s, d) := s.decFor n asid jc reason cp
  if reason != 0 || d == .underflow then s.markAbn ref reason else s

/-- The decrement for a removed record: its jc stands for x[2] and its cp for the start cp (R42). -/
def State.decRec (s : State) (reason : Nat) (r : Rec) : State :=
  s.decRemoved r.core (s.refAsid r.ref) r.jc reason r.cp r.ref

/-- The decrement for a removed parked strand: the save area's sx2 and scp stand for x[2] and the start cp (R42). -/
def State.decParked (s : State) (reason : Nat) (p : Parked) : State :=
  let blk := s.coreWord p.core p.asid (p.save + 16)
  let scp := s.coreWord p.core p.asid (p.save + 48)
  s.decRemoved p.core p.asid blk reason (w64 (bits scp 55 0)) p.ref

/-- Whether the writes that a parked strand made have performed at their homes, for the release of its end (R42). -/
def State.parkedDone (s : State) (p : Parked) : Bool :=
  (s.core p.core).port.all fun a => p.after ≤ a.id || (a.performed && !a.isSta && !a.toHost || a.beyondFence 2)

/-- The parked strands of core `n` that a KEND or a kill has ended, and whose writes have performed, are removed: their blocks are
decremented (R42, R348). -/
def State.endParked (s : State) (n : Nat) : State :=
  let go := s.parked.filter fun p => p.core == n && p.ends.isSome && s.parkedDone p
  go.foldl (fun s p => { s with parked := s.parked.filter (·.id != p.id) }.decParked (p.ends.getD 0) p) s

/-- A future entry without the waiters of a list. -/
def Fut.forget (e : Fut) (ids : List Nat) : Fut := { e with waiters := e.waiters.filter fun i => !shas ids i }

/-- Takes every queued and held strand of a node out of the state; its parked strands wait on nothing any more, and end for `reason` once
their writes have performed. -/
def State.dropStrands (s : State) (ref : NodeRef) (reason : Nat) : State :=
  let ids := (s.parked.filter (·.ref == ref)).map (·.id)
  { s with
    quads := s.quads.map fun p => (p.1, { p.2 with contq := p.2.contq.without ref })
    fields := s.fields.map fun p =>
      (p.1, { p.2 with contq := p.2.contq.without ref, futs := p.2.futs.map fun e => (e.1, e.2.forget ids) })
    held := s.held.filter (·.crec.ref != ref)
    parked := s.parked.map fun p => if p.ref == ref && p.ends.isNone then { p with ends := some reason } else p }

/-- Ends every strand of a node but the one core `keep` runs: running strands begin to end, queued and parked ones are removed
(R42, R348). -/
def State.endStrands (s : State) (ref : NodeRef) (reason : Nat) (keep : Option Nat) : State :=
  let recs := s.quads.flatMap (fun p => p.2.contq.of ref) ++ s.fields.flatMap (fun p => p.2.contq.of ref)
    ++ (s.held.filter (·.crec.ref == ref)).map (·.crec)
  let ps := s.parked.filter (·.ref == ref)
  let s := (s.cores.filter fun p => p.2.ref == some ref && keep != some p.1).foldl (fun s p => s.beginEnd p.1 reason) s
  let s := s.dropStrands ref reason
  let s := recs.foldl (fun s r => s.decRec reason r) s
  ps.foldl (fun s p => s.endParked p.core) s

end Sys2Proof.Machine
end

