-- ==== Sys2Proof/Machine/Engines.lean ====
section
/-! DEFINITION. Engine queues (13_encodings.md R254, R255): ENQ (21_ref_d_l.md R335), the checks at the head, the accesses
of an engine's generators with their faults (11_faults.md R210), and mailboxes and halts (R212). -/

namespace Sys2Proof.Machine

/-! ## Fields common to every command (R254) -/

/-- The opcode. -/
def Cmd.op (c : Cmd) : Nat := bits c.w0 63 56
/-- trg. -/
def Cmd.trg (c : Cmd) : Nat := bits c.w0 47 44
/-- tslot. -/
def Cmd.tslot (c : Cmd) : Nat := bits c.w0 43 36
/-- cnt. -/
def Cmd.cnt (c : Cmd) : Nat := bits c.w0 35 20
/-- fmt. -/
def Cmd.fmt (c : Cmd) : Nat := bits c.w0 19 12
/-- flg. -/
def Cmd.flg (c : Cmd) : Nat := bits c.w0 11 0
/-- mbox. -/
def Cmd.mbox (c : Cmd) : Nat := bits c.w3 14 0
/-- msc. -/
def Cmd.msc (c : Cmd) : Nat := bits c.w3 17 15

/-- The checks at the head that every command shares: trg and tslot for MMA alone, cnt, and the mailbox scope
(R254, R255, 02_execution.md R33). -/
def QCmd.headOk (q : QCmd) : Bool :=
  (Cmd.op q.c == 1 || (Cmd.trg q.c == 0 && Cmd.tslot q.c == 0)) && Cmd.msc q.c ≤ 5
    && (if q.sect then Cmd.cnt q.c == 0
        else Cmd.cnt q.c ≠ 0 && (Cmd.cnt q.c == 1 || (Cmd.op q.c ≠ 6 && Cmd.op q.c < 0x20)))

/-- The first pass that this command stands for: a section's command is fed once for each pass. -/
def QCmd.pass0 (q : QCmd) : Nat := if q.sect then q.pass else 0

/-- One past the last pass that this command stands for. -/
def QCmd.passEnd (q : QCmd) : Nat := if q.sect then q.pass + 1 else Cmd.cnt q.c

/-! ## The queue at its head -/

/-- The core name that an engine's traffic carries (R90): its core, or its quad's core 0. -/
def engAgent (q : Nat) : Nat := qName q

/-- The class code of an engine (R90). -/
def engCls (q : Nat) : Nat :=
  match qEng q with
  | 0 => 3
  | 1 => 1
  | _ => 2

/-- The number of stream `k` of an engine's port, for its translations (04_memory.md R88). -/
def engGid (q k : Nat) : Nat := 2 ^ 80 + 1024 * q + k

/-- Whose addresses an engine translates: the enqueuing core's (04_memory.md R87). -/
def engWho (q : Nat) (c : QCmd) (k : Nat) : Who :=
  ⟨engGid q k, nWafer (qName q), nField (qName q), some (nQuad (qName q)), c.asid, c.priv⟩

/-- The command at the head. -/
def State.headCmd (s : State) (q : Nat) : Option QCmd := (s.queue q).cmds.head?

/-- The progress of the command at the head. -/
def State.prog (s : State) (q : Nat) : Prog := (s.queue q).prog

/-- Puts back the progress. -/
def State.setProg (s : State) (q : Nat) (p : Prog) : State := s.setQueue q { s.queue q with prog := p }

/-- Commands that a queue holds (R335). -/
def queueDepth : Nat := 32

/-- The GS feeds commands at once, while the queue has a place: before a core's ENQ where both wait for one (DESIGN CHOICE, log 114). -/
def EngQ.fed (e : EngQ) : EngQ :=
  { e with cmds := (e.cmds ++ e.feed).take (max queueDepth e.cmds.length), feed := (e.cmds ++ e.feed).drop (max queueDepth e.cmds.length) }

/-- A section's command for its next pass (02_execution.md R33). -/
def QCmd.again (c : QCmd) : QCmd := { c with pass := c.pass + 1, last := c.pass + 2 == c.tiles }

/-- What stands behind the command at the head, fed or not, once that leaves it: a section's command that has passes to come goes behind the
other commands of its section (R33). -/
def EngQ.behind (e : EngQ) : List QCmd :=
  let l := e.cmds.drop 1 ++ e.feed
  match e.cmds with
  | [] => l
  | c :: _ => if c.sect && !c.last then l.take (c.slen - 1) ++ c.again :: l.drop (c.slen - 1) else l

/-- The queue after the command at its head has left its place (R335). -/
def EngQ.popped (e : EngQ) : EngQ :=
  { e with cmds := e.behind.take queueDepth, feed := e.behind.drop queueDepth, prog := resetProg, stopped := false }

/-- The command at the head leaves its place (R335). -/
def State.popCmd (s : State) (q : Nat) : State := s.setQueue q (s.queue q).popped

/-- A local physical address of the queue's quad. -/
def engPa (q l : Nat) : Nat := quadPa (nWafer (qName q)) (nQn (qName q)) l

/-- The mailbox word (R212). -/
def mailWord (st op opnd seq : Nat) : W64 := w64 (place st 56 + place op 48 + place opnd 40 + seq)

/-- The agent that an engine is (R24): a matrix engine its core's, the others their quad's. -/
def engParty (q : Nat) : Party := if qEng q = 0 then .core (qName q) else .engine (nQuad (qName q))

/-- Writes the mailbox of a command, its release at the command's scope (R212; 05_ordering.md R99). -/
def State.mailbox (s : State) (q : Nat) (c : QCmd) (st opnd : Nat) : State :=
  let seq := ((s.queue q).seq + 1) % 2 ^ 32
  (s.setQueue q { s.queue q with seq := seq }).writeAs (engPa q (8 * Cmd.mbox c.c)) (natRun 8 (mailWord st (Cmd.op c.c) opnd seq).toNat false)
    ⟨3, engCls q, engAgent q, false, 0⟩ (some ⟨engParty q, Cmd.msc c.c⟩)

/-- The command completes with a status: the mailbox is released, in a section after its last pass, and the command
leaves (R212, R33). -/
def State.cmdDone (s : State) (q : Nat) (c : QCmd) (st : Nat) : State :=
  if c.sect && !c.last then s.popCmd q else (s.mailbox q c st 0).popCmd q

/-- The core that an event of kind 5 names (R208). -/
def trapCore (q : Nat) (c : QCmd) : Nat := if qEng q = 0 then qName q else c.core

/-- The command traps with st 1 to 3: the mailbox is written, the queue halts with the command at its head, and an event of
kind 5 is posted (R212), which names this one stop of the queue (R209). -/
def State.cmdTrap (s : State) (q : Nat) (c : QCmd) (st opnd : Nat) : State :=
  let n := s.serial
  let s := { s with serial := n + 1 }.mailbox q c st opnd
  let e := s.queue q
  (s.setQueue q { e with halt := true, stop := n }).raiseEv (nWafer (qName q))
    { kind := 5, ref := c.ref,
      words := [w64 (trapCore q c), w64 (qEng q), mailWord st (Cmd.op c.c) opnd e.seq, 0, 0, 0], what := .queue q n,
      core := none }

/-- Runs the effect `k` of the head command when every check at the head holds, else the command-format trap. -/
def State.checked (s : State) (ok : QCmd → Bool) (k : QCmd → State) : State :=
  match s.headCmd s.curQ with
  | none => s
  | some c => if c.headOk && ok c then k c else s.cmdTrap s.curQ c 1 0

/-! ## Accesses of an engine's generators (R210) -/

/-- What an engine's access is about: stream, address, access code and loop counters. -/
structure EngAcc where
  gen : Nat
  stream : Nat
  va : W64
  acc : Nat
  ctrs : List Nat

/-- The stream of its queue's port that an access belongs to: generator, stream, and reads apart from writes. -/
def EngAcc.port (a : EngAcc) : Nat := 64 * a.gen + 4 * a.stream + a.acc

/-- The fault of an engine's access at byte `off`. -/
def engFault (q : Nat) (c : QCmd) (a : EngAcc) (off ty : Nat) : GenFault :=
  { owner := .queue q, ref := c.ref, wafer := nWafer (qName q), cls := engCls q, agent := engAgent q, gen := a.gen,
    stream := a.stream, va := a.va + w64 off, ty := ty, acc := a.acc, ctrs := a.ctrs }

/-- Whether the pieces of an access from byte `put` on can be made: else the state in which the engine waits, for a walk or for the
supervisor. -/
def State.restOk (s : State) (q : Nat) (c : QCmd) (a : EngAcc) (put n : Nat) : Nat → Except State State
  | 0 => .ok s
  | k + 1 =>
    if put ≥ n then .ok s
    else
      let w := engWho q c a.port
      let va := a.va + w64 put
      let s := s.refill w va
      let len := s.piece w va (n - put) a.acc
      match s.translate w va len a.acc with
      | .miss => .error (s.askWalk w va a.acc (engFault q c a put 1))
      | .bad t => .error (s.raiseGen (engFault q c a put t))
      | .ok _ _ _ => s.restOk q c a (put + len) n k

/-- One more piece of a read of `n` bytes; the bytes once all have come, else the state in which the engine waits. A read that the
supervisor abandons delivers zeros, poisoned, for all its bytes. -/
def State.engRead (s : State) (q : Nat) (c : QCmd) (a : EngAcc) (n : Nat) : Except State (State × List (Byte × Bool)) :=
  let p := s.prog q
  if p.got.length ≥ n then .ok (s, p.got)
  else if p.view then .error s
  else
    let va := a.va + w64 p.got.length
    let len := s.piece (engWho q c a.port) va (n - p.got.length) 0
    let more := fun (s : State) (bs : List (Byte × Bool)) =>
      let s := s.setProg q { p with got := p.got ++ bs, skip := false }
      if p.got.length + len ≥ n then .ok (s, p.got ++ bs) else .error s
    if p.skip then
      let z := List.replicate n ((0 : Byte), true)
      .ok (s.setProg q { p with got := z, skip := false }, z)
    else match s.translate (engWho q c a.port) va len 0 with
      | .miss => .error (s.askWalk (engWho q c a.port) va 0 (engFault q c a p.got.length 1))
      | .bad t => .error (s.raiseGen (engFault q c a p.got.length t))
      | .ok pa _ _ =>
        if s.remoteUnbacked (nWafer (qName q)) pa then .error (s.raiseGen (engFault q c a p.got.length 2))
        else match homeOf pa with
          | .window w m sl o => .error ((s.setProg q { p with view := true }).enterView w m sl ⟨.queue q, nWafer (qName q), c.asid, o, len, none, 0, [], 0, []⟩)
          | _ => more s (s.readRun pa len)

/-- Whether a read of `n` bytes would fault at byte `put` or behind it, as memory and its tables now stand. -/
def State.readFaults (s : State) (q : Nat) (c : QCmd) (a : EngAcc) (put n : Nat) : Nat → Bool
  | 0 => false
  | k + 1 =>
    if put ≥ n then false
    else
      let w := engWho q c a.port
      let va := a.va + w64 put
      let s := s.refill w va
      let len := s.piece w va (n - put) 0
      match s.translate w va len 0 with
      | .miss => match walkVa s w.wafer w.asid va with
        | .error _ => true
        | .ok _ => false
      | .bad _ => true
      | .ok pa _ _ => s.remoteUnbacked (nWafer (qName q)) pa || s.readFaults q c a (put + len) n k

/-- The bytes that a write of half-bytes stores, as it performs at its home: the first byte keeps its low nibble where `lo`, the last its
high nibble where `hi`, and a word of which a nibble is kept stays poisoned (22_ref_m_s.md R363; 11_faults.md R211). -/
def State.mergeHalf (s : State) (pa : Nat) (bs : List (Byte × Bool)) (lo hi : Bool) : List (Byte × Bool) :=
  (List.range bs.length).map fun i =>
    let b := nth bs i (0, false)
    if lo && i == 0 then (b.1 ||| (s.byteAt pa &&& 0x0F), b.2 || s.poisonAt pa)
    else if hi && i + 1 == bs.length then (b.1 ||| (s.byteAt (pa + i) &&& 0xF0), b.2 || s.poisonAt (pa + i))
    else b

/-- The home of a physical address outside the edge windows, as one number (R77, R81). -/
def homeNo (pa : Nat) : Option Nat :=
  match homeOf pa with
  | .hbm w m _ => some (4 * (w * 64 + m))
  | .quad w q l => some (4 * (2 * (w * 2 ^ 13 + q) + b2n (l ≥ 0x40000)) + 1)
  | .host w p => some (4 * (w * 2 ^ 16 + p) + 2)
  | _ => none

/-- The pieces of a write at one home, the home numbered `home` once the first is known: they are written in one move, as one write
(05_ordering.md R95; 17_prog_ragged.md R297), also where the run crosses a page. The state once all bytes are written, else the state in
which the engine waits. -/
def State.engPieces (s : State) (q : Nat) (c : QCmd) (a : EngAcc) (bs : List (Byte × Bool)) (tag : Nat) (lo hi : Bool)
    (home : Option Nat) : Nat → Except State State
  | 0 => .error s
  | k + 1 =>
    let p := s.prog q
    let n := bs.length
    let w := engWho q c a.port
    let va := a.va + w64 p.put
    let u := s.refill w va
    let len := u.piece w va (n - p.put) 1
    let lo' := lo && p.put == 0
    let hi' := hi && p.put + len == n
    let out := (bs.drop p.put).take len
    let more := fun (s : State) (home : Option Nat) =>
      let s := s.setProg q { p with put := p.put + len }
      if p.put + len ≥ n then .ok s else if home.isNone then .error s else s.engPieces q c a bs tag lo hi home k
    match u.translate w va len 1 with
      | .miss => .error (u.askWalk w va 1 (engFault q c a p.put 1))
      | .bad t => .error (u.raiseGen (engFault q c a p.put t))
      | .ok pa trc _ =>
        if home.isSome && homeNo pa != home then .error s
        else if u.remoteUnbacked (nWafer (qName q)) pa then
          more (u.raiseEv (nWafer (qName q)) ((engFault q c a p.put 2).event .other)) none
        else match homeOf pa with
          | .window w m sl o =>
            if lo' || hi' then .error (u.raiseGen (engFault q c a p.put 2))
            else .error ((u.setProg q { p with view := true }).enterView w m sl
              ⟨.queue q, nWafer (qName q), c.asid, o, len, some out, 0, [], 0, []⟩)
          | _ => more (u.write pa (u.mergeHalf pa out lo' hi') ⟨3, engCls q, engAgent q, trc, tag⟩) (homeNo pa)

/-- A write of bytes with the swizzle tag `tag`, whose first byte keeps its low nibble where `lo` and whose last its
high nibble where `hi`; the state once all are written, else the state in which the engine waits. Nothing is written before every piece
can be, and none of a write that the supervisor abandons. A write that only a remote home finds unbacked is discarded with an event
(22_ref_m_s.md R388). An edge window has no form of a write that keeps a nibble (09_edge.md R180). -/
def State.engWriteHalf (s : State) (q : Nat) (c : QCmd) (a : EngAcc) (bs : List (Byte × Bool)) (tag : Nat) (lo hi : Bool) :
    Except State State :=
  let p := s.prog q
  let n := bs.length
  if p.put ≥ n then .ok s
  else if p.view then .error s
  else if p.skip then .ok (s.setProg q { p with put := n, skip := false })
  else match s.restOk q c a p.put n (n / 4096 + 2) with
  | .error s => .error s
  | .ok s => s.engPieces q c a bs tag lo hi none (n / 4096 + 2)

/-- A write of whole bytes. -/
def State.engWrite (s : State) (q : Nat) (c : QCmd) (a : EngAcc) (bs : List (Byte × Bool)) (tag : Nat) : Except State State :=
  s.engWriteHalf q c a bs tag false false

/-! ## Sections and boundaries (R33, R214) -/

/-- The section's next pass of the command at the head begins where `adv` says (R257). -/
def EngQ.moved (e : EngQ) (adv : Nat) : EngQ :=
  match e.cmds with
  | [] => e
  | c :: r => { e with cmds := { c with adv := adv } :: r }

/-- The kind of unit that an engine of a queue is. -/
def engKind (q : Nat) : UnitKind :=
  match qEng q with
  | 0 => .matrix
  | 1 => .copy
  | _ => .network

/-- Whether a queue stands at a command or step boundary, its accesses performed (R214, R218). -/
def Prog.atStep (p : Prog) : Bool := !p.view && p.got.isEmpty && p.out.isNone && p.put == 0

/-- Whether an engine may act: its partition runs, or is being gated while the engine stands within a step, which it then finishes; and no
round has stopped it (R214, R218). -/
def State.engRuns (s : State) (q : Nat) : Bool :=
  s.unitRuns (qName q) (engKind q)
    || ((s.core (qName q)).partKey.any (fun k => (s.part k).st == .gating) && !(s.prog q).atStep
      && !s.awnStopped (nWafer (qName q)) (unitNo (engKind q) (nCnum (qName q))))

/-! ## ENQ (R335) -/

/-- Whether a register value names a queue (R255). -/
def queueNameOk (v : W64) : Bool := v.toNat < 64 && bits v 3 0 ≤ 2 && (bits v 3 0 ≠ 0 || bits v 5 4 == 0)

/-- The queue that a core names. -/
def queueOf (n : Nat) (v : W64) : Nat := queueKey n (bits v 3 0) (bits v 5 4)

/-- Four words of memory as a command. -/
def State.readCmd (s : State) (pa : Nat) : Cmd := ⟨s.readW pa, s.readW (pa + 8), s.readW (pa + 16), s.readW (pa + 24)⟩

/-- ENQ: waits while the queue is full, then the command's 32 bytes are read once and appended to the queue, after the kick's release. While
the GS has commands of a table still to feed, the queue is full: they take its places first (`EngQ.fed`; DESIGN CHOICE, log 114). -/
def execEnq (a b : Reg) (sc : BitVec 3) (s : State) : Res :=
  .next <|
    if !(Instr.enq a b sc).wf then s.illegal (.enq a b sc)
    else s.issue [(a, false), (b, false)] 0 fun c =>
      let va := c.get a
      let q := queueOf s.cur (c.get b)
      if !queueNameOk (c.get b) then s.trap causeSync (c.get b)
      else if bits va 4 0 != 0 then s.trap causeMisaligned va
      else if !(localBase ≤ va.toNat && va.toNat < localBase + 0x40000) then s.stopCore s.cur (.port s.cur) va 2 0
      else if (s.queue q).cmds.length ≥ queueDepth then s.block
      else if !c.released sc.toNat then s.setMe { c with wait := none }
      else s.reach c va 32 0 fun s pa _ =>
        let cmd : QCmd := { c := s.readCmd pa, core := s.cur, priv := c.priv, asid := c.kasid.toNat, ref := c.ref,
                            scope := sc.toNat, sect := false, pass := 0, last := true, idx := 0, adv := 0,
                            ord := s.serial, tiles := 1, slen := 1 }
        let e := s.queue q
        ({ s with serial := s.serial + 1 }.setQueue q { e with cmds := e.cmds ++ [cmd] }).finish s.me.learnt

end Sys2Proof.Machine
end

