-- ==== Sys2Proof/Machine/Slots.lean ====
section
/-! DEFINITION. Receive slots of a quad (07_networks.md R142): posting, filling and consuming. -/

namespace Sys2Proof.Machine

/-- The state of slot `i`. -/
def Quad.slotSt (q : Quad) (i : Nat) : SlotSt := mget q.slots i .free

/-- Puts a slot into a state; a free slot is not listed. -/
def Quad.setSlot (q : Quad) (i : Nat) (st : SlotSt) : Quad :=
  { q with slots := match st with
    | .free => mdel q.slots i
    | _ => mput q.slots i st }

/-- Whether a slot is filled. -/
def Quad.slotFull (q : Quad) (i : Nat) : Bool :=
  match q.slotSt i with
  | .filled _ => true
  | _ => false

/-- The quad's membership of a group. -/
def Quad.memb? (q : Quad) (g : Nat) : Option Memb := q.membs.find? (·.group == g)

/-- Changes the membership of a group. -/
def Quad.modMemb (q : Quad) (g : Nat) (f : Memb → Memb) : Quad :=
  { q with membs := q.membs.map fun m => if m.group = g then f m else m }

/-- Posts slots for a group, in order (R142, R357). -/
def Quad.post (q : Quad) (g : Nat) (slots : List Nat) : Quad :=
  (slots.foldl (fun q i => q.setSlot i (.posted g)) q).modMemb g fun m =>
    { m with fill := m.fill ++ slots, posted := (m.posted + slots.length) % 2 ^ 32 }

/-- Consumes a filled slot (06_matrix.md R125): free, or posted back for the enrolment of the group that filled it. -/
def Quad.consume (q : Quad) (i : Nat) (repost : Bool) : Quad :=
  match q.slotSt i with
  | .filled g =>
    if repost && q.membs.any (fun m => m.group == g && m.enrol == mget q.slotEnrol i 0) then q.post g [i]
    else q.setSlot i .free
  | _ => q

/-- Fills the slot at the head of a group's queue (R142): the slot, and the quad after it. -/
def Quad.fillHead (q : Quad) (g : Nat) : Option (Nat × Quad) :=
  match q.memb? g with
  | none => none
  | some m =>
    match m.fill with
    | [] => none
    | i :: rest =>
      let q := (q.setSlot i (.filled g)).modMemb g fun m => { m with fill := rest, next := (m.next + 1) % 2 ^ 32 }
      some (i, { q with slotEnrol := mput q.slotEnrol i m.enrol })

end Sys2Proof.Machine
end

