-- ==== Sys2Proof/Machine/Vector.lean ====
section
/-! DEFINITION. The vector unit (13_encodings.md R249; 23_ref_t_z.md R396 to R405): issue of its commands, their elements,
VBUSY and VFENCE. -/

namespace Sys2Proof.Machine

/-! ## Operation codes (R249) -/

/-- An operation code of R249. -/
def vopAdd : Nat := 0x01
/-- An operation code of R249. -/
def vopSub : Nat := 0x02
/-- An operation code of R249. -/
def vopMul : Nat := 0x03
/-- An operation code of R249. -/
def vopFma : Nat := 0x04
/-- An operation code of R249. -/
def vopMin : Nat := 0x05
/-- An operation code of R249. -/
def vopMax : Nat := 0x06
/-- An operation code of R249. -/
def vopAbs : Nat := 0x07
/-- An operation code of R249. -/
def vopNeg : Nat := 0x08
/-- An operation code of R249. -/
def vopRcp : Nat := 0x09
/-- An operation code of R249. -/
def vopRsq : Nat := 0x0A
/-- An operation code of R249. -/
def vopExp : Nat := 0x0B
/-- An operation code of R249. -/
def vopLog2 : Nat := 0x0C
/-- An operation code of R249. -/
def vopTanh : Nat := 0x0D
/-- An operation code of R249. -/
def vopCvt : Nat := 0x0E
/-- An operation code of R249. -/
def vopCvtS : Nat := 0x0F
/-- An operation code of R249. -/
def vopCmp : Nat := 0x10
/-- An operation code of R249. -/
def vopSel : Nat := 0x11
/-- An operation code of R249. -/
def vopShuf : Nat := 0x12
/-- An operation code of R249. -/
def vopFill : Nat := 0x13
/-- An operation code of R249. -/
def vopRed : Nat := 0x14
/-- An operation code of R249. -/
def vopScan : Nat := 0x15
/-- An operation code of R249. -/
def vopDot : Nat := 0x16

/-- Whether an operation is VCVT or VCVT.S. -/
def vIsCvt (vop : Nat) : Bool := vop == vopCvt || vop == vopCvtS

/-- Whether an operation is one of the sums of R403. -/
def vIsSum (vop : Nat) : Bool := vop == vopRed || vop == vopScan || vop == vopDot

/-- Whether an operation reads source one as elements at src1. -/
def vUses1 (vop : Nat) : Bool := vop != vopFill

/-- Whether an operation reads source two. -/
def vUses2 (vop : Nat) : Bool :=
  vop == vopAdd || vop == vopSub || vop == vopMul || vop == vopFma || vop == vopMin || vop == vopMax || vop == vopCmp
    || vop == vopSel || vop == vopShuf || vop == vopDot

/-- The type of source one. -/
def vType1 (vop fmt : Nat) (b : W64) : Nat := if vIsCvt vop then vStype b else fmt

/-- The type of source two: mask bytes, NAT16 indices, else fmt. -/
def vType2 (vop fmt : Nat) : Nat := if vop = vopSel then 0xB else if vop = vopShuf then 0xC else fmt

/-- The type of a destination element (R398). -/
def vTypeD (vop fmt : Nat) : Nat :=
  if vop = vopCmp then 0xB else if vIsSum vop then (if typeFloat fmt then 7 else 0xE) else fmt

/-! ## Issue (R396) -/

/-- Whether a reserved bit of a command's values is set: of x[b] bits 63:60 (R249). -/
def vReserved (b : W64) : Bool := bits b 63 60 != 0

/-- Whether stype names a source type that a conversion takes, and is 0 where the operation is none (R398, R404). -/
def vStypeOk (vop : Nat) (b : W64) : Bool := if vIsCvt vop then vStype b != 0xF && (vStype b != 6 || vStride b == 1) else vStype b == 0

/-- The first misaligned base of a command (R397). -/
def vMisaligned (vop fmt : Nat) (a b : W64) : Option Nat :=
  if vUses1 vop && vType1 vop fmt b != 0xF && vSrc1 a % typeAlign (vType1 vop fmt b) != 0 then some (vSrc1 a)
  else if vUses2 vop && vSrc2 a % typeAlign (vType2 vop fmt) != 0 then some (vSrc2 a)
  else if vDst b % typeAlign (vTypeD vop fmt) != 0 then some (vDst b)
  else none

/-- KTVAL of the trap for a reserved bit in the values of a command: R261 and R204 name the instruction word, R396 the operand, and the
model leaves open which of the two it is (log 44). -/
def vRsvdTval (i : Instr) (b : W64) : W64 := if Config.rsvdShowsOperand then b else wordVal i

/-- Why the values of a command trap at step 5, cause and KTVAL, in R396's order: reserved bits, alignment, stype. A bad source type of a
conversion shows the operand, as R396 states; the stype of any other operation is reserved bits (R249). -/
def vCheck (i : Instr) (vop fmt : Nat) (a b : W64) : Option (Nat × W64) :=
  if vReserved b then some (causeIllegal, vRsvdTval i b)
  else match vMisaligned vop fmt a b with
    | some l => some (causeMisaligned, w64 l)
    | none => if vStypeOk vop b then none else some (causeIllegal, if vIsCvt vop then b else vRsvdTval i b)

/-- Issues a vector command: values checked, then the command waits for the core's stores and for a place (R396). -/
def State.vIssue (s : State) (vop : Nat) (i : Instr) (a b : Reg) (wa wb : Bool) (fmt : BitVec 4) (flg : BitVec 3) : State :=
  if !i.wf then s.illegal i
  else s.issue [(a, wa), (b, wb)] 0 fun c =>
    match vCheck i vop fmt.toNat (c.get a) (c.get b) with
    | some (cause, v) => s.trap cause v
    | none =>
      if !c.storesAcked || c.vq.length ≥ 4 then s.setMe { c with wait := none }
      else s.finish { c with
        nextId := c.nextId + 1
        vq := c.vq ++ [{
          id := c.nextId, vop := vop, fmt := fmt.toNat, flg := flg.toNat, a := c.get a, b := c.get b, next := 0, paid := 0, acc := 0, accPoison := false }] }

/-- VADD. -/
def execVadd (a b : Reg) (wa wb : Bool) (fmt : BitVec 4) (flg : BitVec 3) (s : State) : Res :=
  .next (s.vIssue vopAdd (.vadd a b wa wb fmt flg) a b wa wb fmt flg)

/-- VSUB. -/
def execVsub (a b : Reg) (wa wb : Bool) (fmt : BitVec 4) (flg : BitVec 3) (s : State) : Res :=
  .next (s.vIssue vopSub (.vsub a b wa wb fmt flg) a b wa wb fmt flg)

/-- VMUL. -/
def execVmul (a b : Reg) (wa wb : Bool) (fmt : BitVec 4) (flg : BitVec 3) (s : State) : Res :=
  .next (s.vIssue vopMul (.vmul a b wa wb fmt flg) a b wa wb fmt flg)

/-- VFMA. -/
def execVfma (a b : Reg) (wa wb : Bool) (fmt : BitVec 4) (flg : BitVec 3) (s : State) : Res :=
  .next (s.vIssue vopFma (.vfma a b wa wb fmt flg) a b wa wb fmt flg)

/-- VMIN. -/
def execVmin (a b : Reg) (wa wb : Bool) (fmt : BitVec 4) (s : State) : Res :=
  .next (s.vIssue vopMin (.vmin a b wa wb fmt) a b wa wb fmt 0)

/-- VMAX. -/
def execVmax (a b : Reg) (wa wb : Bool) (fmt : BitVec 4) (s : State) : Res :=
  .next (s.vIssue vopMax (.vmax a b wa wb fmt) a b wa wb fmt 0)

/-- VABS. -/
def execVabs (a b : Reg) (wa wb : Bool) (fmt : BitVec 4) (s : State) : Res :=
  .next (s.vIssue vopAbs (.vabs a b wa wb fmt) a b wa wb fmt 0)

/-- VNEG. -/
def execVneg (a b : Reg) (wa wb : Bool) (fmt : BitVec 4) (s : State) : Res :=
  .next (s.vIssue vopNeg (.vneg a b wa wb fmt) a b wa wb fmt 0)

/-- VRCP. -/
def execVrcp (a b : Reg) (wa wb : Bool) (fmt : BitVec 4) (flg : BitVec 3) (s : State) : Res :=
  .next (s.vIssue vopRcp (.vrcp a b wa wb fmt flg) a b wa wb fmt flg)

/-- VRSQ. -/
def execVrsq (a b : Reg) (wa wb : Bool) (fmt : BitVec 4) (flg : BitVec 3) (s : State) : Res :=
  .next (s.vIssue vopRsq (.vrsq a b wa wb fmt flg) a b wa wb fmt flg)

/-- VEXP. -/
def execVexp (a b : Reg) (wa wb : Bool) (fmt : BitVec 4) (flg : BitVec 3) (s : State) : Res :=
  .next (s.vIssue vopExp (.vexp a b wa wb fmt flg) a b wa wb fmt flg)

/-- VLOG2. -/
def execVlog2 (a b : Reg) (wa wb : Bool) (fmt : BitVec 4) (flg : BitVec 3) (s : State) : Res :=
  .next (s.vIssue vopLog2 (.vlog2 a b wa wb fmt flg) a b wa wb fmt flg)

/-- VTANH. -/
def execVtanh (a b : Reg) (wa wb : Bool) (fmt : BitVec 4) (flg : BitVec 3) (s : State) : Res :=
  .next (s.vIssue vopTanh (.vtanh a b wa wb fmt flg) a b wa wb fmt flg)

/-- VCVT. -/
def execVcvt (a b : Reg) (wa wb : Bool) (fmt : BitVec 4) (flg : BitVec 3) (s : State) : Res :=
  .next (s.vIssue vopCvt (.vcvt a b wa wb fmt flg) a b wa wb fmt flg)

/-- VCVT.S. -/
def execVcvtS (a b : Reg) (wa wb : Bool) (fmt : BitVec 4) (flg : BitVec 3) (s : State) : Res :=
  .next (s.vIssue vopCvtS (.vcvtS a b wa wb fmt flg) a b wa wb fmt flg)

/-- VCMP. -/
def execVcmp (a b : Reg) (wa wb : Bool) (fmt : BitVec 4) (flg : BitVec 3) (s : State) : Res :=
  .next (s.vIssue vopCmp (.vcmp a b wa wb fmt flg) a b wa wb fmt flg)

/-- VSEL. -/
def execVsel (a b : Reg) (wa wb : Bool) (fmt : BitVec 4) (s : State) : Res :=
  .next (s.vIssue vopSel (.vsel a b wa wb fmt) a b wa wb fmt 0)

/-- VSHUF. -/
def execVshuf (a b : Reg) (wa wb : Bool) (fmt : BitVec 4) (s : State) : Res :=
  .next (s.vIssue vopShuf (.vshuf a b wa wb fmt) a b wa wb fmt 0)

/-- VFILL. -/
def execVfill (a b : Reg) (wa wb : Bool) (fmt : BitVec 4) (s : State) : Res :=
  .next (s.vIssue vopFill (.vfill a b wa wb fmt) a b wa wb fmt 0)

/-- VRED. -/
def execVred (a b : Reg) (wa wb : Bool) (fmt : BitVec 4) (s : State) : Res :=
  .next (s.vIssue vopRed (.vred a b wa wb fmt) a b wa wb fmt 0)

/-- VSCAN. -/
def execVscan (a b : Reg) (wa wb : Bool) (fmt : BitVec 4) (s : State) : Res :=
  .next (s.vIssue vopScan (.vscan a b wa wb fmt) a b wa wb fmt 0)

/-- VDOT. -/
def execVdot (a b : Reg) (wa wb : Bool) (fmt : BitVec 4) (s : State) : Res :=
  .next (s.vIssue vopDot (.vdot a b wa wb fmt) a b wa wb fmt 0)

/-! ## What an element becomes (R399 to R404) -/

/-- 2^v as a value, where the spec fixes it; none where it gives an accuracy only (R400). -/
def expV (v : Fp) : Option Fp :=
  match v with
  | .nan => some .nan
  | .inf n => some (if n then .fin false 0 0 else .inf false)
  | .fin n m e =>
    if m = 0 then some (.fin false 1 0)
    else
      let whole := if 0 ≤ e then m * 2 ^ (min e 12).toNat else m / 2 ^ (-e).toNat
      let exact := 0 ≤ e || m % 2 ^ (-e).toNat = 0
      let k : Int := min whole 1000
      if exact then some (.fin false 1 (if n then -k else k))
      else if !n && whole ≥ 128 then some (.fin false 1 1000)
      else if n && whole ≥ 150 then some (.fin false 1 (-1000))
      else none

/-- log₂ v where the spec fixes it (R400). -/
def logV (v : Fp) : Option Fp :=
  match v with
  | .nan => some .nan
  | .inf n => some (if n then .nan else .inf false)
  | .fin n m e =>
    if m = 0 then some (.inf true)
    else if n then some .nan
    else if m = 2 ^ m.log2 then some (fpInt (m.log2 + e))
    else none

/-- tanh v where the spec fixes it (R400). -/
def tanhV (v : Fp) : Option Fp :=
  match v with
  | .nan => some .nan
  | .inf n => some (.fin n 1 0)
  | .fin n m _ => if m = 0 then some (.fin n 0 0) else none

/-- A value within 2 FP32 ulp of `y` for operand `v`, which the spec leaves open (R400; log 12). -/
def vOpen (vop flg : Nat) (v y : Fp) : Fp := nearest32 2 flg y (Config.approx (8 * vop + flg) (to32 v))

/-- f(v) of R400 as a value: fixed points as the table gives them, elsewhere within the accuracy that it gives. -/
def vFunc (vop flg : Nat) (v : Fp) : Fp :=
  match vop with
  | 0x09 => v.rcp
  | 0x0A => v.rsqrt
  | 0x0B => (expV v).getD (vOpen vop flg v v.exp2)
  | 0x0C => (logV v).getD (vOpen vop flg v v.log2)
  | _ => (tanhV v).getD (vOpen vop flg v v.tanh)

/-- The elementwise result of R399 and R400 on bit patterns of type `t`. -/
def vArith (vop t flg x y d : Nat) : Nat :=
  if typeFloat t then
    let a := fpRead t x
    let b := fpRead t y
    let r := fun v => fpRound t flg false 0 v
    match vop with
    | 0x01 => r (a.add flg b)
    | 0x02 => r (a.add flg b.neg)
    | 0x03 => r (a.mul b)
    | 0x04 => r ((a.mul b).add flg (fpRead t d))
    | 0x05 => r (a.min b)
    | 0x06 => r (a.max b)
    | 0x07 => r a.abs
    | 0x08 => r a.neg
    | _ => r (vFunc vop flg a)
  else
    let n := typeBits t
    let lt := if typeSigned t then sgn x n < sgn y n else x < y
    match vop with
    | 0x01 => (x + y) % 2 ^ n
    | 0x02 => (x + 2 ^ n - y) % 2 ^ n
    | 0x03 => (x * y) % 2 ^ n
    | 0x04 => (x * y + d) % 2 ^ n
    | 0x05 => if lt then x else y
    | 0x06 => if lt then y else x
    | 0x07 => if sgn x n < 0 then (2 ^ n - x) % 2 ^ n else x
    | _ => (2 ^ n - x) % 2 ^ n

/-- Whether a comparison of R401 holds. -/
def vCompare (t flg x y : Nat) : Bool :=
  let (eq, lt) :=
    if typeFloat t then ((fpRead t x).eq (fpRead t y), (fpRead t x).lt (fpRead t y))
    else if typeSigned t then (x == y, decide (sgn x (typeBits t) < sgn y (typeBits t)))
    else (x == y, decide (x < y))
  match flg with
  | 0 => eq
  | 1 => !eq
  | 2 => lt
  | _ =>
    if typeFloat t then !lt && !(fpRead t x).isNan && !(fpRead t y).isNan else !lt

/-- The running sum of R403 after one element. -/
def vSum (vop t : Nat) (acc : W64) (x y : Nat) : W64 :=
  if typeFloat t then
    let a := fpRead 7 acc.toNat
    let v := if vop = vopDot then (fpRead t x).mul (fpRead t y) else fpRead t x
    w64 (fpRound 7 0 false 0 (v.add 0 a))
  else
    let ext := fun v => if typeSigned t then sext64 v (typeBits t) else w64 v
    acc + (if vop = vopDot then ext x * ext y else ext x)

/-! ## Elements in local space (R397) -/

/-- Whether an element at local address `l` is outside the core's reach. -/
def vBad (l : Nat) (wr : Bool) : Bool := 0x48000 ≤ l || (wr && 0x40000 ≤ l)

/-- A fault of the vector unit's generator: the local address and the access. -/
abbrev VFault := Nat × Nat

/-- Reads the element of type `t` at position `q` from `base`: its bits and poison. -/
def State.vRead (s : State) (n t base q : Nat) : Except VFault (Nat × Bool) :=
  let sz := typeBits t / 8
  let l := if t = 5 then base + q / 2 else base + q * sz
  if vBad l false then .error (l, 0)
  else
    let pa := quadPa (nWafer n) (nQn n) l
    if t = 5 then .ok (((s.byteAt pa).toNat / (if q % 2 = 0 then 1 else 16)) % 16, s.poisonAt pa)
    else .ok (s.readNat pa sz, s.poisonRun pa sz)

/-- The vector unit of core `n` writes a run: a read of its bytes that the core has performed ahead serves no load past a VFENCE (R405). -/
def State.vStore (s : State) (n pa : Nat) (bs : List (Byte × Bool)) : State :=
  (s.setCore n ((s.core n).vecWrote pa bs.length)).write pa bs ⟨0, 0, n, false, 0⟩

/-- Writes the element of type `t` at position `q` from `base`. -/
def State.vWrite (s : State) (n t base q v : Nat) (p : Bool) : Except VFault State :=
  let sz := typeBits t / 8
  let l := if t = 5 then base + q / 2 else base + q * sz
  if vBad l true then .error (l, 1)
  else
    let pa := quadPa (nWafer n) (nQn n) l
    if t = 5 then
      let old := (s.byteAt pa).toNat
      let new := if q % 2 = 0 then old / 16 * 16 + v % 16 else old % 16 + 16 * (v % 16)
      .ok (s.vStore n pa (natRun 1 new p))
    else .ok (s.vStore n pa (natRun sz v p))

/-- The p-th element of formatted blocks from `l` on (R404), looking at no more than `k` blocks. -/
def State.vBlock (s : State) (n l p : Nat) : Nat → Except VFault (Fp × Bool)
  | 0 => .error (l, 0)
  | k + 1 =>
    if vBad l false then .error (l, 0)
    else
      let es := blockElems (s.readRun (quadPa (nWafer n) (nQn n) l) 64)
      if p < es.length then .ok (nth es p (.nan, true)) else s.vBlock n (l + 64) (p - es.length) k

/-- Source one of a conversion, as a value. -/
def State.vValue (s : State) (n : Nat) (v : VCmd) (p : Nat) : Except VFault (Fp × Bool) :=
  if vStype v.b = 6 then s.vBlock n (vSrc1 v.a) p 8192
  else match s.vRead n (vStype v.b) (vSrc1 v.a) (p * vStride v.b) with
    | .error f => .error f
    | .ok (x, px) => .ok (elemRead (vStype v.b) x, px)

/-- Source one's element `p`. -/
def State.vS1 (s : State) (n : Nat) (v : VCmd) (p : Nat) : Except VFault (Nat × Bool) :=
  s.vRead n v.fmt (vSrc1 v.a) (p * vStride v.b)

/-- Source two's element `p`. -/
def State.vS2 (s : State) (n : Nat) (v : VCmd) (p : Nat) : Except VFault (Nat × Bool) :=
  s.vRead n (vType2 v.vop v.fmt) (vSrc2 v.a) (p * vStride v.b)

/-- Writes element `p` of a command's result of type `ty`. -/
def State.vOut (s : State) (n : Nat) (v : VCmd) (p x : Nat) (px : Bool) : Except VFault (State × VCmd) :=
  match s.vWrite n (vTypeD v.vop v.fmt) (vDst v.b) (p * vStride v.b) x px with
  | .ok s => .ok (s, v)
  | .error f => .error f

/-- VSEL: the mask element chooses whether element `p` is written (R402). -/
def State.vElemSel (s : State) (n : Nat) (v : VCmd) (p : Nat) : Except VFault (State × VCmd) :=
  match s.vS2 n v p with
  | .error f => .error f
  | .ok (m, pm) =>
    if m = 0 && !pm then .ok (s, v)
    else match s.vS1 n v p with
      | .error f => .error f
      | .ok (x, px) => s.vOut n v p x (px || pm)

/-- VSHUF: the index element names the element written, 0 past the last (R402). -/
def State.vElemShuf (s : State) (n : Nat) (v : VCmd) (p : Nat) : Except VFault (State × VCmd) :=
  match s.vS2 n v p with
  | .error f => .error f
  | .ok (k, pk) =>
    if k ≥ vCount v.b then s.vOut n v p 0 pk
    else match s.vS1 n v k with
      | .error f => .error f
      | .ok (x, px) => s.vOut n v p x (px || pk)

/-- VCVT and VCVT.S: the element rounded to the target; stochastic rounding steps the generator. A formatted source's element goes to FP32 by
the command's own code, where R63 by itself would round to nearest-even (DESIGN CHOICE, log 120). -/
def State.vElemCvt (s : State) (n : Nat) (v : VCmd) (p : Nat) : Except VFault (State × VCmd) :=
  match s.vValue n v p with
  | .error f => .error f
  | .ok (x, px) =>
    let c := s.core n
    let g := if v.flg = 4 then lfsr c.vgen else c.vgen
    (s.setCore n { c with vgen := g }).vOut n v p (elemRound v.fmt v.flg (v.vop == vopCvtS) g.toNat x) px

/-- VCMP. -/
def State.vElemCmp (s : State) (n : Nat) (v : VCmd) (p : Nat) : Except VFault (State × VCmd) :=
  match s.vS1 n v p, s.vS2 n v p with
  | .ok (x, px), .ok (y, py) => s.vOut n v p (b2n (vCompare v.fmt v.flg x y)) (px || py)
  | .error f, _ => .error f
  | _, .error f => .error f

/-- VRED, VSCAN and VDOT: the running sum takes element `p`. -/
def State.vElemSum (s : State) (n : Nat) (v : VCmd) (p : Nat) : Except VFault (State × VCmd) :=
  match s.vS1 n v p, (if v.vop = vopDot then s.vS2 n v p else .ok (0, false)) with
  | .ok (x, px), .ok (y, py) =>
    let v := { v with acc := vSum v.vop v.fmt v.acc x y, accPoison := v.accPoison || px || py }
    if v.vop = vopScan then s.vOut n v p v.acc.toNat v.accPoison else .ok (s, v)
  | .error f, _ => .error f
  | _, .error f => .error f

/-- The arithmetic commands. -/
def State.vElemArith (s : State) (n : Nat) (v : VCmd) (p : Nat) : Except VFault (State × VCmd) :=
  match s.vS1 n v p, (if vUses2 v.vop then s.vS2 n v p else .ok (0, false)),
      (if v.vop = vopFma then s.vRead n v.fmt (vDst v.b) (p * vStride v.b) else .ok (0, false)) with
  | .ok (x, px), .ok (y, py), .ok (d, pd) => s.vOut n v p (vArith v.vop v.fmt v.flg x y d) (px || py || pd)
  | .error f, _, _ => .error f
  | _, .error f, _ => .error f
  | _, _, .error f => .error f

/-- The unit executes element `p` of a command: the state after it and the command with its sum. -/
def State.vElem (s : State) (n : Nat) (v : VCmd) (p : Nat) : Except VFault (State × VCmd) :=
  if v.vop = vopFill then s.vOut n v p (v.a.toNat % 2 ^ typeBits (vTypeD v.vop v.fmt)) false
  else if v.vop = vopSel then s.vElemSel n v p
  else if v.vop = vopShuf then s.vElemShuf n v p
  else if vIsCvt v.vop then s.vElemCvt n v p
  else if v.vop = vopCmp then s.vElemCmp n v p
  else if vIsSum v.vop then s.vElemSum n v p
  else s.vElemArith n v p

/-! ## Chunks (R396) -/

/-- The unit's generator faults at element `i` (R397): it holds the element, and busy stays set. -/
def State.vHold (s : State) (n : Nat) (v : VCmd) (f : VFault) : State :=
  let g : GenFault := {
    owner := .vec n, ref := (s.core n).ref, wafer := nWafer n, cls := 0, agent := n, gen := 1, stream := 0, va := w64 (localBase + f.1), ty := 2, acc := f.2, ctrs := [v.next] }
  let (s, id) := s.holdFault g
  s.setCore n { s.core n with vfault := some id, vq := v :: (s.core n).vq.drop 1 }

/-- The command at the head leaves the unit, its accesses performed: no earlier read serves a load past a FENCE.acq (05_ordering.md R108). -/
def State.vDone (s : State) (n : Nat) : State := s.setCore n { (s.core n).learnt with vq := (s.core n).vq.drop 1 }

/-- The command's end: VRED and VDOT write their one result (R403). -/
def State.vEnd (s : State) (n : Nat) (v : VCmd) : State :=
  if v.vop = vopRed || v.vop = vopDot then
    match s.vWrite n (vTypeD v.vop v.fmt) (vDst v.b) 0 v.acc.toNat v.accPoison with
    | .ok s => s.vDone n
    | .error f => s.vHold n v f
  else s.vDone n

/-- Runs up to `k` elements from the next one on, and ends the command after its last. -/
def State.vRun (s : State) (n : Nat) (v : VCmd) : Nat → State
  | 0 => if v.next ≥ vCount v.b then s.vEnd n v else s.setCore n { s.core n with vq := v :: (s.core n).vq.drop 1 }
  | k + 1 =>
    if v.next ≥ vCount v.b then s.vEnd n v
    else match s.vElem n v v.next with
      | .ok (s, v) => s.vRun n { v with next := v.next + 1 } k
      | .error f => s.vHold n v f

/-- Whether the chunk that the command stands in still needs its grain: each chunk needs one, and so does the one result
of a VRED or VDOT of no element (R396). -/
def VCmd.unpaid (v : VCmd) : Bool :=
  if vCount v.b = 0 then (v.vop == vopRed || v.vop == vopDot) && v.paid == 0
  else v.next < vCount v.b && v.paid ≤ v.next / 64

/-- Whether an acquire that the core issued before a vector command has still to perform (05_ordering.md R100). -/
def Core.acquiring (c : Core) (v : VCmd) : Bool := c.port.any fun a => a.acq && !a.performed && a.id < v.id

/-- VECTOR_CHUNK: the unit draws a grain and executes the chunk its head command stands in (R396). -/
def execVectorChunk (core : Nat) (s : State) : Res :=
  .next <| match (s.core core).vq with
    | [] => s
    | v :: _ =>
      if (s.core core).vfault.isSome || !s.unitRuns core .vector || (s.core core).acquiring v then s
      else if v.unpaid then
        let (s, ok) := s.grain (nField core) (coreUnit core 1) (s.core core).ref
        if ok then s.vRun core { v with paid := v.next / 64 + 1 } (64 - v.next % 64) else s
      else s.vRun core v (64 - v.next % 64)

/-! ## VBUSY and VFENCE (R405) -/

/-- The busy flag: a command remains. -/
def Core.busy (c : Core) : Bool := !c.vq.isEmpty

/-- VBUSY. -/
def execVbusy (d : Reg) (s : State) : Res := .next <| s.issue [] d fun c => s.result c d (truth c.busy)

/-- The core after VFENCE: no read performed ahead of a vector command's write serves a later load of its bytes. -/
def Core.vecFenced (c : Core) : Core := { c with early := c.early.filter (!·.vec) }

/-- VFENCE: waits until the busy flag clears, bounded by KWLIM; a later load returns the vector commands' writes. -/
def execVfence (s : State) : Res := .next <| s.issue [] 0 fun c => if c.busy then s.block else s.finish c.vecFenced

end Sys2Proof.Machine
end

