-- ==== Sys2Proof/Machine/Matrix.lean ====
section
/-! DEFINITION. The matrix engine (06_matrix.md R119 to R137; 13_encodings.md R256; 22_ref_m_s.md R362 to R368): MLD, MST,
MCVT, MZERO, MMA and its steps, MRING and the tiles that a ring forwards. -/

namespace Sys2Proof.Machine

/-! ## The accumulator store (04_memory.md R79) and its masks (R126, R128) -/

/-- ACS(row, col). -/
def Core.acsAt (c : Core) (row col : Nat) : W32 := mget c.acs (row * 128 + col) 0

/-- Writes ACS(row, col). -/
def Core.acsPut (c : Core) (row col : Nat) (v : W32) : Core := { c with acs := mput c.acs (row * 128 + col) v }

/-- The poison bit of an ACS row (R135). -/
def Core.rowPoison (c : Core) (row : Nat) : Bool := c.kap.getLsbD row

/-- Sets or clears the poison bit of a row. -/
def Core.setRowPoison (c : Core) (row : Nat) (p : Bool) : Core :=
  { c with kap := if p then c.kap ||| (1#128 <<< row) else c.kap &&& ~~~ (1#128 <<< row) }

/-- Whether element `n` is on: its off-mask bit is 0 and, under a limit that is not 0, its global index is below it. -/
def maskOn (off lim origin n : Nat) : Bool := off.testBit n == false && (lim == 0 || origin + n < lim)

/-- Rows of the problem, from KGGEO (R127). -/
def geoRows (g : W64) : Nat := bits g 61 50
/-- Columns of the problem. -/
def geoCols (g : W64) : Nat := bits g 49 38
/-- Depth of the problem. -/
def geoDepth (g : W64) : Nat := bits g 37 26
/-- The first global row of the core's sub-range (R128). -/
def geoRow0 (g : W64) : Nat := bits g 15 11 * 16 * (bits g 5 3 + 1)
/-- The first global column of the core's sub-range (R128). -/
def geoCol0 (g : W64) : Nat := bits g 10 6 * 16 * (bits g 2 0 + 1)
/-- Whether the core lies outside its grid (R128). -/
def geoOutside (g : W64) : Bool := bits g 15 11 > bits g 25 21 || bits g 10 6 > bits g 20 16

/-! ## MLD, MST, MCVT, MZERO: fields (R256) -/

/-- The flg bit geo. -/
def Cmd.geo (c : Cmd) : Bool := bitAt c.w0 3
/-- addr. -/
def Cmd.mAddr (c : Cmd) : W64 := w64 (bits c.w1 55 0)
/-- tadv, in bytes. -/
def Cmd.mTadv (c : Cmd) : W64 := sext64 (bits c.w2 63 44) 20
/-- tw. -/
def Cmd.mTw (c : Cmd) : Nat := bits c.w2 35 33
/-- th. -/
def Cmd.mTh (c : Cmd) : Nat := bits c.w2 32 30
/-- acol. -/
def Cmd.mCol (c : Cmd) : Nat := bits c.w2 29 23
/-- arow. -/
def Cmd.mRow (c : Cmd) : Nat := bits c.w2 22 16
/-- ld. -/
def Cmd.mLd (c : Cmd) : Nat := bits c.w2 15 0
/-- cmoff. -/
def Cmd.mCmoff (c : Cmd) : Nat := bits c.w3 63 48
/-- rmoff. -/
def Cmd.mRmoff (c : Cmd) : Nat := bits c.w3 47 32

/-- The element type on the memory side: fp32, but for MCVT. -/
def Cmd.mType (c : Cmd) : Nat := if Cmd.op c = 4 then Cmd.fmt c else 7

/-- The checks that the four commands share (R131, R256). -/
def moveOk (c : Cmd) : Bool :=
  (Cmd.flg c == 0 || Cmd.flg c == 8) && bits c.w1 63 56 == 0 && bits c.w3 31 18 == 0
    && Cmd.mRow c % 16 == 0 && Cmd.mCol c % 16 == 0
    && Cmd.mRow c + 16 * Cmd.mTh c ≤ 112 && Cmd.mCol c + 16 * Cmd.mTw c ≤ 112

/-- The checks of MLD and MST: sat, rnd, act and fmt are reserved, addr aligned on 4 bytes. -/
def ldStOk (q : QCmd) : Bool :=
  moveOk q.c && Cmd.fmt q.c == 0 && bits q.c.w2 43 36 == 0 && bits q.c.w1 1 0 == 0

/-- The checks of MCVT (R256, R363). -/
def cvtOk (q : QCmd) : Bool :=
  moveOk q.c && (Cmd.fmt q.c ≤ 5 || Cmd.fmt q.c == 7) && bits q.c.w2 42 40 ≤ 4 && bits q.c.w2 39 36 ≤ 5
    && (Cmd.mAddr q.c).toNat % typeAlign (Cmd.fmt q.c) == 0

/-- The checks of MZERO: addr, ld, tadv, fmt, sat, rnd and act are reserved. -/
def zeroOk (q : QCmd) : Bool :=
  moveOk q.c && Cmd.fmt q.c == 0 && q.c.w1 == 0 && bits q.c.w2 63 36 == 0 && Cmd.mLd q.c == 0

/-! ## The walk of R362 -/

/-- Row `i` of tile row `r` is on. -/
def Cmd.rowOn (c : Cmd) (g : W64) (r i : Nat) : Bool :=
  if Cmd.geo c then maskOn (Cmd.mRmoff c) (geoRows g) (geoRow0 g + Cmd.mRow c + 16 * r) i
  else maskOn (Cmd.mRmoff c) 0 0 i

/-- Column `j` of tile column `t` is on. -/
def Cmd.colOn (c : Cmd) (g : W64) (t j : Nat) : Bool :=
  if Cmd.geo c then maskOn (Cmd.mCmoff c) (geoCols g) (geoCol0 g + Cmd.mCol c + 16 * t) j
  else maskOn (Cmd.mCmoff c) 0 0 j

/-- The first run of consecutive on columns from `j` on: its first column and its length. -/
def nextRun (on : Nat → Bool) (j : Nat) : Option (Nat × Nat) :=
  match (List.range 16).find? (fun x => j ≤ x && on x) with
  | none => none
  | some j0 =>
    match (List.range 16).find? (fun x => j0 < x && !on x) with
    | none => some (j0, 16 - j0)
    | some e => some (j0, e - j0)

/-- The place of the walk: tile row, tile column and row within the tile, of position `i`. -/
def Cmd.walkAt (c : Cmd) (i : Nat) : Nat × Nat × Nat := (i / 16 / (Cmd.mTw c + 1), i / 16 % (Cmd.mTw c + 1), i % 16)

/-- Positions of the walk in one pass. -/
def Cmd.walkLen (c : Cmd) : Nat := (Cmd.mTh c + 1) * (Cmd.mTw c + 1) * 16

/-- A run that the walk stands at: ACS row, first column, length, tile column, first element of the run within the row, and
row of the rectangle. -/
structure Run where
  row : Nat
  col : Nat
  len : Nat
  tile : Nat
  el : Nat
  line : Nat

/-- The virtual address of element 0 of a line in pass `p`. -/
def Cmd.lineVa (c : Cmd) (p line : Nat) : W64 := Cmd.mAddr c + w64 p * Cmd.mTadv c + w64 (line * Cmd.mLd c)

/-- The virtual address of a run. -/
def Cmd.runVa (c : Cmd) (p : Nat) (r : Run) : W64 := Cmd.lineVa c p r.line + w64 (r.el * typeBits (Cmd.mType c) / 8)

/-- The access of a run (R362: p in i0, 16r + i in i1 and q in i2). -/
def Cmd.runAcc (c : Cmd) (p : Nat) (r : Run) (acc : Nat) : EngAcc := ⟨0, 0, Cmd.runVa c p r, acc, [p, r.line, r.tile]⟩

/-- The matrix engine's core. -/
def State.mCore (s : State) (q : Nat) : Core := s.core (qName q)

/-- Puts back the matrix engine's core. -/
def State.setMCore (s : State) (q : Nat) (c : Core) : State := s.setCore (qName q) c

/-- The run at the walk's position, from column `j` on. -/
def Cmd.runAt (c : Cmd) (g : W64) (i j : Nat) : Option Run :=
  let (r, t, n) := Cmd.walkAt c i
  if !Cmd.rowOn c g r n then none
  else (nextRun (Cmd.colOn c g t) j).map fun x =>
    { row := Cmd.mRow c + 16 * r + n, col := Cmd.mCol c + 16 * t + x.1, len := x.2, tile := t, el := 16 * t + x.1,
      line := 16 * r + n }

/-- The end of a pass of MLD: the row poison bits are decided (R131). -/
def Core.passEnd (c : Core) (p : Prog) : Core := { c with kap := (c.kap &&& ~~~ p.seen) ||| p.hit }

/-- One run of the walk: `act` makes the run's access and says whether it is done. -/
def State.walkRun (s : State) (q : Nat) (c : QCmd) (act : Nat → Run → Except State State) : State :=
  let p := s.prog q
  if !p.on then s.setProg q { resetProg with on := true, u := c.pass0 }
  else if p.u ≥ c.passEnd then s.cmdDone q c 0
  else if p.i ≥ Cmd.walkLen c.c then
    (s.setMCore q ((s.mCore q).passEnd p)).setProg q { resetProg with on := true, u := p.u + 1 }
  else match Cmd.runAt c.c (s.mCore q).kggeo p.i p.j with
    | none => s.setProg q { p with i := p.i + 1, j := 0 }
    | some r =>
      match act p.u r with
      | .error s => s
      | .ok s =>
        let p := s.prog q
        s.setProg q { p with j := r.col + r.len - (Cmd.mCol c.c + 16 * r.tile), k := 0, got := [], put := 0 }

/-! ## MZERO -/

/-- The on elements of the rectangle, as ACS rows and columns. -/
def Cmd.rectOn (c : Cmd) (g : W64) : List (Nat × Nat) :=
  (List.range (Cmd.walkLen c)).flatMap fun i =>
    let (r, t, n) := Cmd.walkAt c i
    if Cmd.rowOn c g r n then
      ((List.range 16).filter (Cmd.colOn c g t)).map fun j => (Cmd.mRow c + 16 * r + n, Cmd.mCol c + 16 * t + j)
    else []

/-- The rows of the rectangle that are on in every column. -/
def Cmd.wholeRows (c : Cmd) (g : W64) : List Nat :=
  if (List.range (16 * (Cmd.mTw c + 1))).all (fun x => Cmd.colOn c g (x / 16) (x % 16)) then
    ((List.range (16 * (Cmd.mTh c + 1))).filter fun x => Cmd.rowOn c g (x / 16) (x % 16)).map (Cmd.mRow c + ·)
  else []

/-- The core after MZERO (R131, R362). -/
def Core.zeroRect (c : Core) (m : Cmd) : Core :=
  let c' := (Cmd.rectOn m c.kggeo).foldl (fun c e => c.acsPut e.1 e.2 0) c
  (Cmd.wholeRows m c.kggeo).foldl (fun c r => c.setRowPoison r false) c'

/-- MZERO (R362): every pass has the same effect, and nothing outside the engine sees between them. -/
def execMzero (_c : Cmd) (s : State) : Res :=
  .next <| s.checked zeroOk fun c =>
    let s := if c.pass0 < c.passEnd then s.setMCore s.curQ ((s.mCore s.curQ).zeroRect c.c) else s
    s.cmdDone s.curQ c 0

/-! ## MLD and MST -/

/-- FP32 elements of bytes, with whether any of their words is poisoned. -/
def words32 (bs : List (Byte × Bool)) : List W32 := (chunks 4 (bs.length / 4) bs).map fun w => BitVec.ofNat 32 (runNat w)

/-- Puts elements into a row of the ACS from a column on. -/
def Core.acsRow (c : Core) (row col : Nat) (vs : List W32) : Core :=
  match vs with
  | [] => c
  | v :: r => (c.acsPut row col v).acsRow row (col + 1) r

/-- MLD (R131, R362). -/
def execMld (_c : Cmd) (s : State) : Res :=
  .next <| s.checked ldStOk fun c =>
    let q := s.curQ
    s.walkRun q c fun p r =>
      match s.engRead q c (Cmd.runAcc c.c p r 0) (4 * r.len) with
      | .error s => .error s
      | .ok (s, bs) =>
        let s := s.setMCore q ((s.mCore q).acsRow r.row r.col (words32 bs))
        let m := 1#128 <<< r.row
        let g := s.prog q
        .ok (s.setProg q { g with seen := g.seen ||| m, hit := if bs.any (·.2) then g.hit ||| m else g.hit })

/-- The elements of a run. -/
def Core.acsRun (c : Core) (r : Run) : List W32 := (List.range r.len).map fun x => c.acsAt r.row (r.col + x)

/-- MST (R131, R132, R362). -/
def execMst (_c : Cmd) (s : State) : Res :=
  .next <| s.checked ldStOk fun c =>
    let q := s.curQ
    let m := s.mCore q
    s.walkRun q c fun p r =>
      s.engWrite q c (Cmd.runAcc c.c p r 1) ((m.acsRun r).flatMap fun v => natRun 4 v.toNat (m.rowPoison r.row)) 0

/-! ## MCVT (R363) -/

/-- The values of activations 3 to 5 at an infinity are their limits; the spec gives none of code 5 at −∞, where the free value stands
(log 12). -/
def actInf (act : Nat) (neg : Bool) (w : W32) : Fp :=
  match act with
  | 3 => nearest32 2 0 (.fin neg 1 0) w
  | 4 => nearest32 2 0 (if neg then .fin false 0 0 else fpOne) w
  | _ => if neg then fpRead 7 w.toNat else .inf false

/-- The activation of code `act`, formed in FP32; codes 3 to 5 lie within the accuracy that the rule gives (log 12). -/
def activate (act : Nat) (v : W32) : Fp :=
  let x := fpRead 7 v.toNat
  match act with
  | 0 => x
  | 1 => x.max (.fin false 0 0)
  | 2 => if x.lt (.fin false 0 0) then fpRead 7 (to32 (x.mul (.fin false 1 (-3)))).toNat else x
  | _ => match x with
    | .nan => .nan
    | .inf n => actInf act n (Config.activation act v)
    | .fin .. =>
      match act with
      | 3 => nearest32 2 0 x.tanh (Config.activation act v)
      | 4 => nearest32 2 0 x.sigmoid (Config.activation act v)
      | _ => nearest32 4 0 x.gelu (Config.activation act v)

/-- The generator's state after `n` results under rounding code `rnd`. -/
def genAfter (rnd : Nat) (g : W32) : Nat → W32
  | 0 => g
  | n + 1 => genAfter rnd (if rnd = 4 then lfsr g else g) n

/-- The converted elements of a run, as bit patterns. -/
def cvtRun (c : Cmd) (g : W32) (vs : List W32) : List Nat :=
  (List.range vs.length).map fun x =>
    elemRound (Cmd.fmt c) (bits c.w2 42 40) (bitAt c.w2 43) (genAfter (bits c.w2 42 40) g (x + 1)).toNat
      (activate (bits c.w2 39 36) (nth vs x 0))

/-- Pairs of nibbles as bytes; the last may stand alone. -/
def nibBytes (vs : List Nat) (p : Bool) : List (Byte × Bool) := (chunks 2 vs.length vs).flatMap fun x =>
  natRun 1 (nth x 0 0 + 16 * nth x 1 0) p

/-- The write of a run of FP4 elements: one write, which keeps the nibbles of off elements that share its first and last byte (R297,
R363). -/
def State.cvtNibbles (s : State) (q : Nat) (c : QCmd) (p : Nat) (r : Run) (vs : List Nat) (bad : Bool) : Except State State :=
  let odd := r.el % 2 == 1
  s.engWriteHalf q c (Cmd.runAcc c.c p r 1) (nibBytes (if odd then 0 :: vs else vs) bad) 0 odd ((r.el + vs.length) % 2 == 1)

/-- MCVT (R362, R363): the generator steps once for each on element, when its run is written. -/
def execMcvt (_c : Cmd) (s : State) : Res :=
  .next <| s.checked cvtOk fun c =>
    let q := s.curQ
    let m := s.mCore q
    s.walkRun q c fun p r =>
      let vs := cvtRun c.c m.mgen (m.acsRun r)
      let bad := m.rowPoison r.row
      let w := if Cmd.fmt c.c = 5 then s.cvtNibbles q c p r vs bad
        else s.engWrite q c (Cmd.runAcc c.c p r 1) (vs.flatMap fun v => natRun (typeBits (Cmd.fmt c.c) / 8) v bad) 0
      match w with
      | .error s => .error s
      | .ok s => .ok (s.setMCore q { s.mCore q with mgen := genAfter (bits c.c.w2 42 40) m.mgen vs.length })

/-! ## MMA: fields and checks (R129, R130, R256) -/

/-- A's format. -/
def Cmd.fa (c : Cmd) : Nat := bits c.w0 15 12
/-- B's format. -/
def Cmd.fb (c : Cmd) : Nat := bits c.w0 19 16
/-- bsrc. -/
def Cmd.bsrc (c : Cmd) : Nat := bits c.w0 8 7
/-- band. -/
def Cmd.band (c : Cmd) : Bool := bitAt c.w0 4
/-- ks. -/
def Cmd.ks (c : Cmd) : Nat := bits c.w1 58 51
/-- aks. -/
def Cmd.aks (c : Cmd) : Nat := bits c.w1 50 35
/-- lda. -/
def Cmd.lda (c : Cmd) : Nat := bits c.w1 34 19
/-- aadr. -/
def Cmd.aadr (c : Cmd) : Nat := bits c.w1 18 0
/-- arow. -/
def Cmd.arow (c : Cmd) : Nat := bits c.w2 57 51
/-- ldb. -/
def Cmd.ldb (c : Cmd) : Nat := bits c.w2 34 19
/-- badr or scadr. -/
def Cmd.badr (c : Cmd) : Nat := bits c.w2 18 0
/-- acol. -/
def Cmd.acol (c : Cmd) : Nat := bits c.w3 30 24
/-- bswz. -/
def Cmd.bswz (c : Cmd) : Nat := bits c.w3 23 21
/-- aswz. -/
def Cmd.aswz (c : Cmd) : Nat := bits c.w3 20 18
/-- W2 bits 50:35: bks or kmoff. -/
def Cmd.mid (c : Cmd) : Nat := bits c.w2 50 35
/-- bks, 0 where the word does not carry it. -/
def Cmd.bks (c : Cmd) : Nat := if Cmd.bsrc c = 0 && Cmd.ks c > 0 then Cmd.mid c else 0
/-- kmoff, 0 where the word does not carry it. -/
def Cmd.kmoff (c : Cmd) : Nat := if (Cmd.bsrc c = 0 && Cmd.ks c > 0) || Cmd.geo c then 0 else Cmd.mid c
/-- kofs. -/
def Cmd.kofs (c : Cmd) : Nat := if Cmd.geo c then bits c.w3 47 32 else 0
/-- rmoff. -/
def Cmd.rmoff (c : Cmd) : Nat := if Cmd.geo c then 0 else bits c.w3 47 32
/-- cmoff. -/
def Cmd.cmoff (c : Cmd) : Nat := if Cmd.geo c then 0 else bits c.w3 63 48

/-- Bytes an operand of a format is aligned on (R130). R130 names the element size, which a formatted operand does not have before it is
read: it is aligned on its 64-byte blocks (DESIGN CHOICE, log 94). -/
def mmaAlign (f : Nat) : Nat := if f = 6 then 64 else if f ≤ 1 then 2 else 1

/-- The checks of MMA; `g` is KGGEO. Both band scales lie in the QSP (R123, R130). The addresses aadr and badr alone are checked for
alignment: rows and steps that a pitch or an advance leaves unaligned are read where they lie (DESIGN CHOICE, log 94). -/
def mmaOk (g : W64) (q : QCmd) : Bool :=
  let c := q.c
  bits c.w0 11 10 == 0 && Cmd.fa c ≤ 6 && Cmd.fb c ≤ 6 && Cmd.trg c ≤ 1 && Cmd.tslot c ≤ 63 && Cmd.bsrc c ≠ 3
    && bits c.w1 63 59 == 0 && bits c.w2 63 58 == 0 && !bitAt c.w3 31
    && (Cmd.tslot c == 0 || Cmd.bsrc c == 1 || Cmd.trg c == 1)
    && !(Cmd.band c && Cmd.bsrc c == 0)
    && (Cmd.bsrc c == 0 || Cmd.band c || Cmd.badr c == 0)
    && (Cmd.bsrc c ≠ 2 || Cmd.ldb c == 0)
    && Cmd.arow c % 16 == 0 && Cmd.acol c % 16 == 0 && Cmd.aswz c ≤ 2 && Cmd.bswz c ≤ 2
    && (!Cmd.geo c || (bits c.w3 63 48 == 0 && !geoOutside g && ((Cmd.bsrc c == 0 && Cmd.ks c > 0) || Cmd.mid c == 0)))
    && Cmd.aadr c % mmaAlign (Cmd.fa c) == 0
    && (if Cmd.bsrc c = 0 then Cmd.badr c % mmaAlign (Cmd.fb c) == 0
        else !Cmd.band c || (Cmd.badr c % 2 == 0 && Cmd.badr c + 4 ≤ 0x40000))

/-- Steps of one pass. -/
def Cmd.steps (c : Cmd) : Nat := Cmd.ks c + 1

/-! ## Operands (R120 to R123, R133) -/

/-- The place in its 512-byte block of a byte under a swizzle tag (R133). -/
def swzByte (tag l : Nat) : Nat :=
  let r := l % 512 / 32
  let x := l % 32
  match tag with
  | 1 => l / 512 * 512 + 32 * r + (x ^^^ (16 * (r / 8)))
  | 2 => l / 512 * 512 + 2 * (16 * (x / 2) + r) + x % 2
  | _ => l

/-- A byte of the quad's local space read under a tag. -/
def State.tagByte (s : State) (q tag l : Nat) : Byte × Bool :=
  let pa := engPa q (swzByte tag l)
  (s.byteAt pa, s.poisonAt pa)

/-- Element `e` of row `r` of a tile of a fixed element size. -/
def State.tileElem (s : State) (q code base pitch tag r e : Nat) : Fp × Bool :=
  let n := typeBits code
  let l := base + r * pitch + e * n / 8
  let bs := (List.range (max 1 (n / 8))).map fun i => s.tagByte q tag (l + i)
  let raw := if n = 4 then runNat bs / (if e % 2 = 0 then 1 else 16) % 16 else runNat bs
  (elemRead code raw, bs.any (·.2))

/-- A tile operand as read: its 256 elements by rows and the 512-byte blocks read, or the local address of a fault. -/
abbrev Operand := Except Nat (List (Fp × Bool) × List Nat)

/-- The numbers of the 512-byte blocks that `n` bytes from `l` touch. -/
def blocksOf (l n : Nat) : List Nat := (List.range ((l + n + 511) / 512 - l / 512)).map (· + l / 512)

/-- The blocks of a tile of a fixed element size. -/
def tileBlocks (code base pitch : Nat) : List Nat := (List.range 16).flatMap fun r => blocksOf (base + r * pitch) (2 * typeBits code)

/-- A tile of a fixed element size whose rows must end below `limit`. Every row of the tile is read, the rows that the masks turn off
too: one beyond the limit faults, and each enters the swizzle comparison (DESIGN CHOICE, log 94). -/
def State.plainTile (s : State) (q code base pitch tag limit : Nat) : Operand :=
  match (List.range 16).find? fun r => base + r * pitch + 2 * typeBits code > limit with
  | some r => .error (base + r * pitch)
  | none =>
    .ok ((List.range 256).map fun x => s.tileElem q code base pitch tag (x / 16) (x % 16), tileBlocks code base pitch)

/-- A tile of formatted blocks: the next 256 elements from block `l` on (R120). -/
def State.blockTile (s : State) (q tag limit : Nat) : Nat → Nat → List (Fp × Bool) → List Nat → Operand
  | 0, l, _, _ => .error l
  | k + 1, l, es, bl =>
    if es.length ≥ 256 then .ok (es.take 256, bl)
    else if l + 64 > limit then .error l
    else s.blockTile q tag limit k (l + 64) (es ++ blockElems ((List.range 64).map fun i => s.tagByte q tag (l + i)))
      (bl ++ [l / 512])

/-- A tile operand of any format. -/
def State.operand (s : State) (q code base pitch tag limit : Nat) : Operand :=
  if code = 6 then s.blockTile q tag limit 8193 base [] [] else s.plainTile q code base pitch tag limit

/-- The local address of A in step u. -/
def Cmd.aBase (c : Cmd) (u : Nat) : Nat := Cmd.aadr c + u * Cmd.aks c * (if Cmd.fa c = 6 then 64 else 1)

/-- The slot of step u (R122, R256). -/
def Cmd.slotOf (c : Cmd) (u : Nat) : Nat := (Cmd.tslot c + u) % 64

/-- The local address of B in step u, from the QSP or a slot. -/
def Cmd.bBase (c : Cmd) (u : Nat) : Nat :=
  if Cmd.bsrc c = 1 then 0x40000 + Cmd.slotOf c u * 0x200
  else Cmd.badr c + u * Cmd.bks c * (if Cmd.fb c = 6 then 64 else 1)

/-- An operand that KSVC op 0x3 abandoned: zeros marked poisoned (11_faults.md R210). -/
def deadTile : List (Fp × Bool) × List Nat := (List.replicate 256 (.fin false 0 0, true), [])

/-- Whether an operand's blocks carry the named tag. -/
def State.tagsAgree (s : State) (q tag : Nat) (blocks : List Nat) : Bool :=
  blocks.all fun b => b ≥ 576 || s.tagAt (engPa q (512 * b)) == tag

/-- Which operand's tags disagree before the first step of pass-relative steps `us` (R366): 0 none, 1 A, 2 B. R121 and R366 do not say
whether an A operand outside the QSP faults before its tags are compared: those of the RXB part are compared first (DESIGN CHOICE,
log 104). -/
def State.passMismatch (s : State) (q : Nat) (c : Cmd) (us : List Nat) : Nat :=
  if bitAt c.w0 5 then 0
  else if Cmd.fa c ≠ 6 && !us.all (fun u => s.tagsAgree q (Cmd.aswz c) (tileBlocks (Cmd.fa c) (Cmd.aBase c u) (Cmd.lda c))) then 1
  else if Cmd.bsrc c = 0 && Cmd.fb c ≠ 6
      && !us.all (fun u => s.tagsAgree q (Cmd.bswz c) (tileBlocks (Cmd.fb c) (Cmd.bBase c u) (Cmd.ldb c))) then 2
  else 0

/-! ## A step (R119, R365) -/

/-- Band scales of the 16 rows of A (R123), with poison. -/
def State.bandScales (s : State) (q : Nat) (c : Cmd) : List (Fp × Bool) :=
  (List.range 16).map fun i =>
    if Cmd.band c then
      let bs := s.readRun (engPa q (Cmd.badr c + 2 * ((Cmd.arow c + i) / 64))) 2
      (fpRead 0 (runNat bs), bs.any (·.2))
    else (.fin false 1 0, false)

/-- What a step computes with: A by rows, B by rows, A's band scales, and the masks. -/
structure StepArgs where
  a : List (Fp × Bool)
  b : List (Fp × Bool)
  sa : List (Fp × Bool)
  row : Nat → Bool
  col : Nat → Bool
  dep : Nat → Bool

/-- The masks and operands of step u. -/
def stepArgs (c : Cmd) (g : W64) (u : Nat) (a b sa : List (Fp × Bool)) : StepArgs where
  a := if bitAt c.w0 1 then (List.range 256).map fun x => nth a (16 * (x % 16) + x / 16) (.nan, false) else a
  b := b
  sa := sa
  row := if Cmd.geo c then maskOn 0 (geoRows g) (geoRow0 g + Cmd.arow c) else maskOn (Cmd.rmoff c) 0 0
  col := if Cmd.geo c then maskOn 0 (geoCols g) (geoCol0 g + Cmd.acol c) else maskOn (Cmd.cmoff c) 0 0
  dep := if Cmd.geo c then maskOn 0 (geoDepth g) (Cmd.kofs c + 16 * u) else maskOn (Cmd.kmoff c) 0 0

/-- The FP32 sum of the products of row i and column j (03_numbers.md R69). -/
def StepArgs.dot (t : StepArgs) (i j : Nat) : W32 :=
  pairSum 4 ((List.range 16).map fun k =>
    if t.dep k then
      to32 (((nth t.a (16 * i + k) (.nan, false)).1.mul (nth t.sa i (.nan, false)).1).mul (nth t.b (16 * k + j) (.nan, false)).1)
    else 0)

/-- Where element (i, j) lands (R119). -/
def Cmd.land (c : Cmd) (i j : Nat) : Nat × Nat :=
  if bitAt c.w0 2 then (Cmd.arow c + j, Cmd.acol c + i) else (Cmd.arow c + i, Cmd.acol c + j)

/-- The core after the sums of a step; `zero` takes the tile as +0. -/
def Core.mmaSum (m : Core) (c : Cmd) (t : StepArgs) (zero : Bool) : Core :=
  ((List.range 256).filter fun x => t.row (x / 16) && t.col (x % 16)).foldl (fun m x =>
    let (r, k) := Cmd.land c (x / 16) (x % 16)
    m.acsPut r k (add32 (if zero then 0 else m.acsAt r k) (t.dot (x / 16) (x % 16)))) m

/-- The rows i whose A elements that are on are poisoned. -/
def StepArgs.badRows (t : StepArgs) : List Nat :=
  (List.range 16).filter fun i => t.row i && (List.range 16).any fun k =>
    t.dep k && ((nth t.a (16 * i + k) (.nan, false)).2 || (nth t.sa i (.nan, false)).2)

/-- Whether a B element that is on is poisoned. -/
def StepArgs.badB (t : StepArgs) : Bool :=
  (List.range 256).any fun x => t.dep (x / 16) && t.col (x % 16) && (nth t.b x (.nan, false)).2

/-- Marks the ACS rows of a step with poisoned operands (R134). -/
def Core.markRows (m : Core) (c : Cmd) (t : StepArgs) : Core :=
  let rows := if t.badB || (bitAt c.w0 2 && !t.badRows.isEmpty) then List.range 16 else t.badRows
  rows.foldl (fun m i => m.setRowPoison (Cmd.arow c + i) true) m

/-- The fault of a poison stop, or of a residue fault, which generator index 2 names (R134, R136), in step u at address `va`. -/
def stopFault (q : Nat) (c : QCmd) (u gen : Nat) (va : W64) : GenFault :=
  { owner := .queue q, ref := c.ref, wafer := nWafer (qName q), cls := engCls q, agent := engAgent q, gen := gen,
    stream := 0, va := va, ty := if gen = 2 then 4 else 3, acc := 0, ctrs := [u] }

/-- Stops the command in step u: the kind 4 event, the mailbox with st 3, the halt, and the kind 5 event; both events name the one stop
(R134, R136, R209). -/
def State.poisonStop (s : State) (q : Nat) (c : QCmd) (u gen : Nat) (va : W64) : State :=
  let s := s.setProg q { s.prog q with u := u + 1, i := 0, j := 0, k := 0, got := [], skip := false }
  let s := s.setQueue q { s.queue q with stopped := true }
  (s.raiseEv (nWafer (qName q)) ((stopFault q c u gen va).event (.queue q s.serial))).cmdTrap q c 3 0

/-! ## Rings (R124) -/

/-- Tiles a latch holds. -/
def latchDepth : Nat := 2

/-- The next member that a core forwards to, if it does. -/
def Core.forwardTo (m : Core) : Option Nat :=
  match m.ring with
  | some (n, pos, next) => if pos + 1 < n then some next else none
  | none => none

/-- Whether the next member's latch has a place for one more tile. R124 does not say from when a tile takes its place: one sent and not
yet arrived counts (DESIGN CHOICE, log 95). -/
def State.latchRoom (s : State) (next : Nat) : Bool :=
  let coming := (s.cores.map fun p => (p.2.sent.filter (·.1 == next)).length).foldl (· + ·) 0
  (s.core next).latch.length + coming < latchDepth

/-- RING_TILE_ARRIVE: the oldest tile that core `core` forwarded reaches the next member's latch (R124). -/
def execRingTileArrive (core : Nat) (s : State) : Res :=
  .next <| match (s.core core).sent with
    | [] => s
    | (next, t) :: r =>
      let s := s.setCore core { s.core core with sent := r }
      s.setCore next { s.core next with latch := (s.core next).latch ++ [t] }

/-- The checks of MRING that its word alone makes (R256, R368). -/
def ringOk (n : Nat) (q : QCmd) : Bool :=
  let c := q.c
  bits c.w0 19 0 == 0 && bits c.w1 63 52 == 0 && bits c.w1 31 8 == 0 && c.w2 == 0 && bits c.w3 63 18 == 0
    && bits c.w1 7 4 ≤ bits c.w1 3 0 && !(bits c.w1 51 32 == n && bits c.w1 3 0 > 0)

/-- Whether `next` names a core of the team of core `n` (R124, R368). -/
def State.teamMate (s : State) (n next : Nat) : Bool :=
  s.coreOk (w64 next) && (match (s.core n).team, (s.core next).team with
    | some a, some b => a.ref == b.ref
    | _, _ => false)

/-- MRING (R368): waits until the latch is empty and no forward is outstanding. -/
def execMring (_c : Cmd) (s : State) : Res :=
  .next <| s.checked (fun c => ringOk (qName s.curQ) c && s.teamMate (qName s.curQ) (bits c.c.w1 51 32)) fun c =>
    let q := s.curQ
    let m := s.mCore q
    if !m.latch.isEmpty || !m.sent.isEmpty || m.fwd.isSome then s
    else
      let n := bits c.c.w1 3 0 + 1
      (s.setMCore q { m with ring := if n = 1 then none else some (n, bits c.c.w1 7 4, bits c.c.w1 51 32) }).cmdDone q c 0

/-! ## MMA (R365) -/

/-- Whether an LRX that posts a slot, enqueued before the command with number `ord`, stands at the head of a network queue of the
quad: it finds the slot as it is before that command's step consumes it (DEDUCED, 15_prog_multicast.md R294; log 105). -/
def State.lrxFirst (s : State) (q ord slot : Nat) : Bool :=
  (List.range 4).any fun i =>
    let e := s.queue (queueKey (4 * nQuad (qName q)) 2 i)
    !e.halt && e.cmds.head?.any fun x => Cmd.op x.c == 0x21 && x.ord < ord && bitAt x.c.w1 slot

/-- Whether step u must wait: for its slot, or for a latch tile (R124, R125). -/
def State.mmaWaits (s : State) (q : Nat) (c : QCmd) (u : Nat) : Bool :=
  let slot := Cmd.slotOf c.c u
  (Cmd.trg c.c == 1 && (!(s.quad (nQuad (qName q))).slotFull slot || s.lrxFirst q c.ord slot))
    || (Cmd.bsrc c.c == 2 && (s.mCore q).latch.isEmpty)

/-- An operand, or what became of its fault: an operand abandoned by op 0x3 is delivered as poisoned zeros. The flag says that
operand `k` (0 A, 1 B) has been abandoned already. -/
def State.operandOr (s : State) (q : Nat) (c : QCmd) (u k : Nat) (dead : Bool) (o : Operand) :
    Except State (List (Fp × Bool) × List Nat) :=
  match o with
  | .ok v => .ok v
  | .error l =>
    if dead then .ok deadTile
    else if (s.prog q).skip then
      let p := s.prog q
      .error (s.setProg q (if k = 0 then { p with i := 1, skip := false } else { p with j := 1, skip := false }))
    else .error (s.raiseGen (engFault q c ⟨k, 0, w64 (localBase + l), 0, [u]⟩ 0 2))

/-- The B operand of step u: a latch tile, a slot or the QSP (R122). A latch tile gives the elements as its sender read them, also where
reint is set and another layout is named (DESIGN CHOICE, log 94). -/
def State.bOperand (s : State) (q : Nat) (c : Cmd) (u : Nat) : Operand :=
  if Cmd.bsrc c = 2 then
    match (s.mCore q).latch with
    | t :: _ => .ok (t.el, [])
    | [] => .ok deadTile
  else s.operand q (Cmd.fb c) (Cmd.bBase c u) (Cmd.ldb c) (Cmd.bswz c) (if Cmd.bsrc c = 1 then 0x48000 else 0x40000)

/-- Which operand's tags disagree at step u, over the blocks it has read (R366). -/
def State.stepMismatch (s : State) (q : Nat) (c : Cmd) (ab bb : List Nat) : Nat :=
  if bitAt c.w0 5 then 0
  else if Cmd.fa c = 6 && !s.tagsAgree q (Cmd.aswz c) ab then 1
  else if Cmd.bsrc c = 2 then
    (match (s.mCore q).latch with
      | t :: _ => if t.tag == Cmd.bswz c then 0 else 2
      | [] => 0)
  else if (Cmd.bsrc c = 1 || Cmd.fb c = 6) && !s.tagsAgree q (Cmd.bswz c) bb then 2
  else 0

/-- The swizzle tag that a B tile read from blocks `bb` carries on a ring (R124): its own, which the comparison has found to be the named
one unless reint is set. Of a tile that lies in blocks of different tags it is the first's (DESIGN CHOICE, log 95). -/
def State.tileTag (s : State) (q : Nat) (c : Cmd) (bb : List Nat) : Nat :=
  if Cmd.bsrc c = 2 then ((s.mCore q).latch.head?.map (·.tag)).getD (Cmd.bswz c)
  else if bitAt c.w0 5 then (bb.head?.map fun b => s.tagAt (engPa q (512 * b))).getD (Cmd.bswz c)
  else Cmd.bswz c

/-- After the sums of step u: the slot, the latch, and the tile to forward (R365). -/
def State.mmaRelease (s : State) (q : Nat) (c : Cmd) (u : Nat) (b : List (Fp × Bool)) (bb : List Nat) : State :=
  let k := nQuad (qName q)
  let tag := s.tileTag q c bb
  let s := if Cmd.trg c = 1 then s.setQuad k ((s.quad k).consume (Cmd.slotOf c u) (bitAt c.w0 6)) else s
  let m := s.mCore q
  let m := if Cmd.bsrc c = 2 then { m with latch := m.latch.drop 1 } else m
  s.setMCore q (match m.forwardTo with
    | some next => { m with fwd := some (next, ⟨Cmd.fb c, tag, b⟩) }
    | none => m)

/-- Whether a step forms a product: masked elements enter no sum (R126, R136). -/
def StepArgs.forms (t : StepArgs) : Bool :=
  (List.range 16).any t.row && (List.range 16).any t.col && (List.range 16).any t.dep

/-- Whether the residue check of this move's step finds the array wrong, where the command asks for it (R136; log 25). -/
def State.residueWrong (s : State) (c : Cmd) (t : StepArgs) : Bool := bitAt c.w0 9 && t.forms && Config.residueFault s.tick

/-- The end of step u, whose sums and slot are done: B is forwarded once the next latch has a place, and the step stops the command where
it has met poison in A (`mode` 1) or B (2) or a residue fault (3), else the next follows (R124, R134, R136, R365). Word 1 of a poison stop
is the address of the operand's first element, for a tile from the latch that of badr or scadr (log 60); of a residue fault it is the
local address of A. -/
def State.mmaForward (s : State) (q : Nat) (c : QCmd) (u : Nat) : State :=
  let m := s.mCore q
  let p := s.prog q
  if m.fwd.any (fun x => !s.latchRoom x.1) then s
  else
    let s := (s.setMCore q { m with sent := m.sent ++ m.fwd.toList, fwd := none }).setProg q { p with k := 0, mode := 0 }
    match p.mode with
    | 0 => s.setProg q { s.prog q with u := u + 1, i := 0, j := 0 }
    | 1 => s.poisonStop q c u 0 (w64 (localBase + Cmd.aBase c.c u))
    | 2 => s.poisonStop q c u 1 (w64 (localBase + Cmd.bBase c.c u))
    | _ => s.poisonStop q c u 2 (w64 (Cmd.aBase c.c u))

/-- The sums of step u and what follows them (R134, R136, R365); `k` of the progress says that they are done. Of a step that meets poison
in both operands, the one stop names A (DESIGN CHOICE, log 94). -/
def State.mmaSums (s : State) (q : Nat) (c : QCmd) (u : Nat) (a b : List (Fp × Bool)) (bb : List Nat) : State :=
  let t := stepArgs c.c (s.mCore q).kggeo u a b (s.bandScales q c.c)
  let m := (s.mCore q).mmaSum c.c t (bitAt c.c.w0 0 && u == 0)
  let m := m.markRows c.c t
  let bad := s.residueWrong c.c t
  let m := if bad then (List.range 16).foldl (fun m i => m.setRowPoison (Cmd.arow c.c + i) true) m else m
  let s := (s.setMCore q m).mmaRelease q c.c u b bb
  let stop := if !t.badRows.isEmpty then 1 else if t.badB then 2 else if bad then 3 else 0
  (s.setProg q { s.prog q with k := 1, mode := stop }).mmaForward q c u

/-- The comparison before the pass's first step (R366): made once, and `m` tells for which step, counted from 1. -/
def State.passCheck (s : State) (q : Nat) (c : QCmd) (u : Nat) : Nat :=
  if u % Cmd.steps c.c = 0 && (s.prog q).m ≠ u + 1 then s.passMismatch q c.c ((List.range (Cmd.steps c.c)).map (· + u)) else 0

/-- The comparison at step u, or the state in which the engine waits (R365, R366): made once, and `n` tells for which step, counted from 1. A
slot or a latch tile is compared before any operand is read; an operand of formatted blocks is read, and may fault, for its comparison, A
before B. -/
def State.stepTags (s : State) (q : Nat) (c : QCmd) (u : Nat) : Except State Nat :=
  let p := s.prog q
  if p.n = u + 1 then .ok 0
  else match (if Cmd.fa c.c = 6 then
        s.operandOr q c u 0 (p.i == 1) (s.operand q (Cmd.fa c.c) (Cmd.aBase c.c u) (Cmd.lda c.c) (Cmd.aswz c.c) 0x40000)
      else .ok ([], [])) with
    | .error s => .error s
    | .ok (_, ab) =>
      if s.stepMismatch q c.c ab [] = 1 then .ok 1
      else match (if Cmd.fb c.c = 6 && Cmd.bsrc c.c ≠ 2 then s.operandOr q c u 1 (p.j == 1) (s.bOperand q c.c u)
          else .ok ([], tileBlocks (Cmd.fb c.c) (Cmd.bBase c.c u) (Cmd.ldb c.c))) with
        | .error s => .error s
        | .ok (_, bb) => .ok (s.stepMismatch q c.c ab bb)

/-- The step draws its grain, once (`k` 2), or the engine waits for it. -/
def State.stepGrain (s : State) (q : Nat) (c : QCmd) (u : Nat) : Except State State :=
  let p := s.prog q
  if p.k = 2 then .ok s
  else
    let (s, ok) := (s.setProg q { p with n := u + 1 }).grain (nField (qName q)) (coreUnit (qName q) 0) c.ref
    if ok then .ok (s.setProg q { s.prog q with k := 2 }) else .error s

/-- Step u of an MMA that has begun: waits, tags, a grain, operands, sums (R365). A tag that changes after its comparison has no effect
(R133). -/
def State.mmaStepAt (s : State) (q : Nat) (c : QCmd) (u : Nat) : State :=
  let bad := s.passCheck q c u
  if bad ≠ 0 then s.cmdTrap q c 2 bad
  else
    let s := s.setProg q { s.prog q with m := u + 1 }
    let p := s.prog q
    if s.mmaWaits q c u then s
    else if Cmd.bsrc c.c = 2 && ((s.mCore q).latch.take 1).any (fun t => t.fmt != Cmd.fb c.c) then s.cmdTrap q c 1 0
    else match s.stepTags q c u with
      | .error s => s
      | .ok bad =>
        if bad ≠ 0 then s.cmdTrap q c 2 bad
        else match s.stepGrain q c u with
          | .error s => s
          | .ok s =>
            match s.operandOr q c u 0 (p.i == 1)
                (s.operand q (Cmd.fa c.c) (Cmd.aBase c.c u) (Cmd.lda c.c) (Cmd.aswz c.c) 0x40000) with
            | .error s => s
            | .ok (a, _) =>
              match s.operandOr q c u 1 (p.j == 1) (s.bOperand q c.c u) with
              | .error s => s
              | .ok (b, bb) => s.mmaSums q c u a b bb

/-- MMA: the command is checked and begins (R255, R365). -/
def execMma (_c : Cmd) (s : State) : Res :=
  .next <|
    let q := s.curQ
    if (s.prog q).on then s
    else s.checked (mmaOk (s.mCore q).kggeo) fun c =>
      s.setProg q { resetProg with on := true, u := c.pass0 * Cmd.steps c.c }

/-- MMA_STEP: the next step of the MMA at the head of a core's matrix queue, or its end (R365). -/
def execMmaStep (core : Nat) (s : State) : Res :=
  .next <|
    let q := queueKey core 0 0
    match s.headCmd q with
    | none => s
    | some c =>
      let p := s.prog q
      if Cmd.op c.c ≠ 1 || !p.on || (s.queue q).halt || (s.queue q).fault.isSome || !s.engRuns q then s
      else if p.k = 1 then s.mmaForward q c p.u
      else if p.u ≥ c.passEnd * Cmd.steps c.c then s.cmdDone q c 0
      else s.mmaStepAt q c p.u

end Sys2Proof.Machine
end

