-- ==== Sys2Proof/Machine/Copy.lean ====
section
/-! DEFINITION. The copy engine (13_encodings.md R257; 23_ref_t_z.md R408 to R412; 04_memory.md R93): XCOPY, XFILL, XGATH,
XSCAT and XSWZ, one chunk of at most 512 bytes at a time. -/

namespace Sys2Proof.Machine

/-! ## Fields (R257) -/

/-- Rows. -/
def Cmd.cRows (c : Cmd) : Nat := bits c.w1 63 56 + 1
/-- src. -/
def Cmd.cSrc (c : Cmd) : W64 := w64 (bits c.w1 55 0)
/-- dst. -/
def Cmd.cDst (c : Cmd) : W64 := w64 (bits c.w2 55 0)
/-- Bytes of a source row. -/
def Cmd.cLen (c : Cmd) : Nat := bits c.w3 33 18 + 1
/-- The source pitch in bytes. -/
def Cmd.cSpitch (c : Cmd) : Nat := 16 * bits c.w3 48 34
/-- The destination pitch in bytes. -/
def Cmd.cDpitch (c : Cmd) : Nat := 16 * bits c.w3 63 49
/-- The source type code. -/
def Cmd.cFsrc (c : Cmd) : Nat := bits c.w0 15 12
/-- The destination type code. -/
def Cmd.cFdst (c : Cmd) : Nat := bits c.w0 19 16
/-- The rounding code. -/
def Cmd.cRnd (c : Cmd) : Nat := bits c.w0 2 0
/-- The sat bit. -/
def Cmd.cSat (c : Cmd) : Bool := bitAt c.w0 3
/-- The local address of the indices. -/
def Cmd.cIadr (c : Cmd) : Nat := bits c.w3 52 34

/-- Whether the command converts. -/
def Cmd.cConv (c : Cmd) : Bool := Cmd.cFsrc c ≠ Cmd.cFdst c

/-- Whether the command reads through an index list. -/
def Cmd.cIndexed (c : Cmd) : Bool := Cmd.op c == 0x12 || Cmd.op c == 0x13

/-! ## Checks (R408 to R411) -/

/-- XCOPY (R409). -/
def xcopyOk (q : QCmd) : Bool :=
  let c := q.c
  bits c.w2 63 56 == 0 && bits c.w0 11 4 == 0 && Cmd.cFsrc c ≠ 0xF && Cmd.cFdst c ≠ 0xF && Cmd.cFdst c ≠ 6
    && (if Cmd.cConv c then
          Cmd.cRnd c ≤ 4 && (Cmd.cSrc c).toNat % typeAlign (Cmd.cFsrc c) == 0
            && (Cmd.cDst c).toNat % typeAlign (Cmd.cFdst c) == 0 && Cmd.cLen c % typeAlign (Cmd.cFsrc c) == 0
        else Cmd.flg c == 0)

/-- XFILL (R410). -/
def xfillOk (q : QCmd) : Bool :=
  let c := q.c
  bits c.w0 19 0 == 0 && bits c.w1 55 32 == 0 && bits c.w2 63 56 == 0 && Cmd.cSpitch c == 0

/-- XGATH and XSCAT (R411). -/
def xindexOk (q : QCmd) : Bool :=
  let c := q.c
  bits c.w0 19 0 == 0 && bits c.w2 63 56 == 0 && bits c.w3 63 53 == 0 && Cmd.cIadr c % 4 == 0
    && Cmd.cIadr c + 4 * Cmd.cRows c ≤ 0x40000

/-! ## Rows and chunks -/

/-- Source bytes of a full chunk: 512 bytes of the larger of the two streams; one block of a formatted source. -/
def Cmd.cChunk (c : Cmd) : Nat :=
  if !Cmd.cConv c then 512
  else if Cmd.cFsrc c = 6 then 64
  else 512 * typeBits (Cmd.cFsrc c) / max (typeBits (Cmd.cFsrc c)) (typeBits (Cmd.cFdst c))

/-- Chunks of a row. -/
def Cmd.cChunks (c : Cmd) : Nat := (Cmd.cLen c + Cmd.cChunk c - 1) / Cmd.cChunk c

/-- Destination bytes of a row of a fixed element size; of a formatted source the most that its blocks can give (log 26). -/
def Cmd.cOutLen (c : Cmd) : Nat :=
  if !Cmd.cConv c then Cmd.cLen c
  else if Cmd.cFsrc c = 6 then Cmd.cLen c / 64 * 96 * typeBits (Cmd.cFdst c) / 8
  else (Cmd.cLen c * 8 / typeBits (Cmd.cFsrc c) * typeBits (Cmd.cFdst c) + 7) / 8

/-- Bytes that the source advances in a pass (R257, R408). -/
def Cmd.cSadv (c : Cmd) : Nat :=
  if Cmd.cIndexed c then Cmd.cRows c * Cmd.cLen c
  else if Cmd.cSpitch c = 0 then Cmd.cLen c else Cmd.cRows c * Cmd.cSpitch c

/-- Bytes that the destination advances in a pass whose rows were `len` bytes long. -/
def Cmd.cDadv (c : Cmd) (len : Nat) : Nat :=
  if Cmd.cIndexed c then Cmd.cRows c * Cmd.cLen c
  else if Cmd.cDpitch c = 0 then len else Cmd.cRows c * Cmd.cDpitch c

/-- The address of source row `i` with index `x` in pass `u`. -/
def Cmd.cSrcRow (c : Cmd) (u i x : Nat) : W64 :=
  Cmd.cSrc c + w64 (u * Cmd.cSadv c
    + (if Cmd.op c = 0x12 then x * Cmd.cLen c else if Cmd.op c = 0x13 then i * Cmd.cLen c else i * Cmd.cSpitch c))

/-- The address of destination row `i` with index `x`, where earlier passes advanced by `adv`. -/
def Cmd.cDstRow (c : Cmd) (adv i x : Nat) : W64 :=
  Cmd.cDst c + w64 (adv
    + (if Cmd.op c = 0x13 then x * Cmd.cLen c else if Cmd.op c = 0x12 then i * Cmd.cLen c else i * Cmd.cDpitch c))

/-- The local address of the index of row `i` in pass `u` (R408). -/
def Cmd.cIdxAt (c : Cmd) (u i : Nat) : Nat := Cmd.cIadr c + 4 * Cmd.cRows c * u + 4 * i

/-- An index as it stands. -/
def State.peekIdx (s : State) (q : Nat) (c : Cmd) (u i : Nat) : Nat :=
  if Cmd.cIndexed c then s.readNat (engPa q (Cmd.cIdxAt c u i)) 4 else 0

/-! ## Overlap (R93) -/

/-- The physical place of an address if it lies in a scratchpad, whatever accesses its page permits. -/
def State.padPlace (s : State) (q : Nat) (c : QCmd) (va : W64) : Option Nat :=
  let pa? := if inLocal va then some (engPa q (va.toNat - localBase))
    else match walkVa s (nWafer (qName q)) c.asid va with
      | .ok l => some (l.pa va)
      | .error _ => none
  pa?.bind fun pa => match homeOf pa with
    | .quad _ _ _ => some pa
    | _ => none

/-- The parts of a row in scratchpads, as physical place and bytes, page by page. -/
def State.padRuns (s : State) (q : Nat) (c : QCmd) (va : W64) (n : Nat) : Nat → List (Nat × Nat)
  | 0 => []
  | f + 1 =>
    if n = 0 then []
    else
      let k := min n (65536 - va.toNat % 65536)
      ((s.padPlace q c va).map fun p => (p, k)).toList ++ s.padRuns q c (va + w64 k) (n - k) f

/-- The parts of a row of any length in scratchpads. -/
def State.padParts (s : State) (q : Nat) (c : QCmd) (va : W64) (n : Nat) : List (Nat × Nat) := s.padRuns q c va n (n / 65536 + 2)

/-- Whether two runs of bytes overlap, as virtual addresses or within one scratchpad. -/
def State.runsMeet (s : State) (q : Nat) (c : QCmd) (a : W64) (n : Nat) (b : W64) (k : Nat) : Bool :=
  (a.toNat < b.toNat + k && b.toNat < a.toNat + n)
    || (s.padParts q c a n).any fun x => (s.padParts q c b k).any fun y => x.1 < y.1 + y.2 && y.1 < x.1 + x.2

/-- Where the destination of pass `v` begins, if each row of a converting copy is as long as it can be. -/
def QCmd.cAdv (q : QCmd) (v : Nat) : Nat := q.adv + (v - q.pass0) * Cmd.cDadv q.c (Cmd.cOutLen q.c)

/-- Whether a destination row of pass `v` overlaps a source row of pass `u`. -/
def State.passMeets (s : State) (q : Nat) (c : QCmd) (u v : Nat) : Bool :=
  (List.range (Cmd.cRows c.c)).any fun i => (List.range (Cmd.cRows c.c)).any fun j =>
    s.runsMeet q c (Cmd.cSrcRow c.c u i (s.peekIdx q c.c u i)) (Cmd.cLen c.c)
      (Cmd.cDstRow c.c (c.cAdv v) j (s.peekIdx q c.c v j)) (Cmd.cOutLen c.c)

/-- Whether a pass of the command writes what it or a later pass reads. -/
def State.copyMeets (s : State) (q : Nat) (c : QCmd) : Bool :=
  (List.range (c.passEnd - c.pass0)).any fun x => (List.range (x + 1)).any fun y =>
    s.passMeets q c (c.pass0 + x) (c.pass0 + y)

/-- Whether some row of a stream lies in a scratchpad through page tables, whose pages need not follow one another there. -/
def State.padMapped (s : State) (q : Nat) (c : QCmd) (row : Nat → W64) : Bool :=
  (List.range (Cmd.cRows c.c)).any fun i => !inLocal (row i) && !(s.padParts q c (row i) (Cmd.cLen c.c)).isEmpty

/-- Whether ascending or descending order of chunks alone makes an overlapping copy right: bytes copied in one pass between streams of
one pitch whose rows do not overlap themselves, and no row of which page tables lay in a scratchpad. -/
def State.cOneWay (s : State) (k : Nat) (q : QCmd) : Bool :=
  let c := q.c
  q.passEnd - q.pass0 == 1 && Cmd.op c == 0x10 && !Cmd.cConv c
    && (Cmd.cRows c == 1 || (Cmd.cSpitch c == Cmd.cDpitch c && Cmd.cLen c ≤ Cmd.cSpitch c))
    && !s.padMapped k q (fun i => Cmd.cSrcRow c q.pass0 i 0) && !s.padMapped k q fun i => Cmd.cDstRow c q.adv i 0

/-- How a command goes: 0 ascending, 1 descending, 2 reading everything first (R93: the engine chooses; log 97). -/
def State.copyMode (s : State) (q : Nat) (c : QCmd) : Nat :=
  if Cmd.op c.c = 0x11 || !s.copyMeets q c then 0
  else if !s.cOneWay q c then 2
  else if (Cmd.cDstRow c.c c.adv 0 0).toNat ≤ (Cmd.cSrcRow c.c c.pass0 0 0).toNat then 0 else 1

/-- Begins pass `u`, where earlier passes have advanced the destination by `adv`, in mode `mode` with the bytes `buf` read ahead, but for
those at `holes`. -/
def State.copyPass (s : State) (q : Nat) (u adv mode : Nat) (buf : List (Byte × Bool)) (holes : List Nat) : State :=
  s.setProg q { resetProg with on := true, u := u, adv := adv, mode := mode, buf := buf, holes := holes }

/-! ## Elements -/

/-- The elements of source bytes, with poison. -/
def copyElems (code : Nat) (bs : List (Byte × Bool)) : List (Fp × Bool) :=
  if code = 6 then blockElems bs
  else if code = 5 then bs.flatMap fun b => [(fpRead 5 (b.1.toNat % 16), b.2), (fpRead 5 (b.1.toNat / 16), b.2)]
  else (chunks (typeBits code / 8) bs.length bs).map fun w => (elemRead code (runNat w), w.any (·.2))

/-- Converted elements as bit patterns with poison; the generator steps before each under code 4. A formatted source's element goes to FP32 by
the command's own code, where 03_numbers.md R63 by itself would round to nearest-even (DESIGN CHOICE, log 120). -/
def convElems (c : Cmd) (g : W32) : List (Fp × Bool) → List (Nat × Bool)
  | [] => []
  | (v, p) :: r =>
    let g' := if Cmd.cRnd c = 4 then lfsr g else g
    (elemRound (Cmd.cFdst c) (Cmd.cRnd c) (Cmd.cSat c) g'.toNat v, p) :: convElems c g' r

/-- Bit patterns of `n` bits as bytes; FP4 elements two to a byte, the last alone in its byte where their number is odd. -/
def packElems (n : Nat) : List (Nat × Bool) → List (Byte × Bool)
  | [] => []
  | (v, p) :: r =>
    if n = 4 then
      match r with
      | (v', p') :: r' => natRun 1 (v % 16 + 16 * (v' % 16)) (p || p') ++ packElems n r'
      | [] => natRun 1 (v % 16) p
    else natRun (n / 8) v p ++ packElems n r

/-- What a chunk writes, and the number of its elements. -/
def Cmd.cOut (c : Cmd) (g : W32) (bs : List (Byte × Bool)) : List (Byte × Bool) × Nat :=
  if !Cmd.cConv c then (bs, bs.length)
  else
    let es := copyElems (Cmd.cFsrc c) bs
    (packElems (typeBits (Cmd.cFdst c)) (convElems c g es), es.length)

/-! ## The turns of the four queues (R408) -/

/-- Whether a copy queue has a chunk that it could move: its command has begun, and no halt, fault, translation or edge graph holds it. -/
def State.copyReady (s : State) (q : Nat) : Bool :=
  let e := s.queue q
  e.prog.on && !e.prog.view && !e.halt && e.fault.isNone && s.engRuns q && !s.walks.any (·.fault.owner == .queue q)

/-- Whether it is a copy queue's turn: no queue between the one whose chunk was moved last and it, round the four, could move one. -/
def State.copyTurn (s : State) (q : Nat) : Bool :=
  let last := (s.quad (nQuad (qName q))).xlast
  (List.range ((q % 4 + 3 - last) % 4)).all fun j => !s.copyReady (q / 4 * 4 + (last + 1 + j) % 4)

/-- The engine has moved a chunk of a queue (`whole`), or a part of one, which the rest of it follows. -/
def State.copyServed (s : State) (q : Nat) (whole : Bool) : State :=
  let k := nQuad (qName q)
  s.setQuad k { s.quad k with xlast := if whole then q % 4 else (q % 4 + 3) % 4 }

/-- Whether `big` more bytes of the pass end a 512-byte chunk, counted as grains are (R408), or the pass. -/
def QCmd.chunkOver (c : QCmd) (p : Prog) (big : Nat) : Bool :=
  (p.m + big) / 512 ≠ p.m / 512 || (p.j + 1 ≥ Cmd.cChunks c.c && p.i + 1 ≥ Cmd.cRows c.c)

/-! ## One chunk -/

/-- The place of a chunk: its row, its number and first byte in the row and its source bytes. -/
def Cmd.cAt (c : Cmd) (p : Prog) : Nat × Nat × Nat × Nat :=
  let row := if p.mode = 1 then Cmd.cRows c - 1 - p.i else p.i
  let ch := if p.mode = 1 then Cmd.cChunks c - 1 - p.j else p.j
  let off := ch * Cmd.cChunk c
  (row, (if Cmd.cFsrc c = 6 && Cmd.cConv c then off / 512 else ch), off, min (Cmd.cChunk c) (Cmd.cLen c - off))

/-- Draws the grains that the chunk needs, one at a time: one for each 512 bytes of the pass on the larger side (R408). -/
def State.copyGrain (s : State) (q : Nat) (c : QCmd) (big : Nat) : Except State State :=
  let p := s.prog q
  if 512 * p.k ≥ p.m + big then .ok s
  else
    let (s, ok) := s.grain (nField (qName q)) (coreUnit (qName q) 16) c.ref
    if ok then
      let s := s.setProg q { p with k := p.k + 1 }
      if 512 * (p.k + 1) ≥ p.m + big then .ok s else .error s
    else .error s

/-- Where in the bytes read ahead those of the chunk stand. -/
def QCmd.bufAt (c : QCmd) (p : Prog) : Nat :=
  let (row, _, off, _) := Cmd.cAt c.c p
  ((p.u - c.pass0) * Cmd.cRows c.c + row) * Cmd.cLen c.c + off

/-- Whether the chunk's bytes have been read ahead. -/
def QCmd.ahead (c : QCmd) (p : Prog) : Bool := p.mode == 3 && !p.holes.contains (c.bufAt p)

/-- The index of the chunk's row, latched at the row's first chunk: 0 where there is none to read; a poisoned index is a fault of
type 3, and an index abandoned by op 0x3 gives none (R411, 11_faults.md R210). -/
def State.copyIndex (s : State) (q : Nat) (c : QCmd) (row : Nat) : Except State (State × Option Nat) :=
  let p := s.prog q
  let l := Cmd.cIdxAt c.c p.u row
  let pa := engPa q l
  if !Cmd.cIndexed c.c || (p.mode = 2 && Cmd.op c.c = 0x13) || (c.ahead p && Cmd.op c.c = 0x12) then .ok (s, some 0)
  else if p.n = 1 then .ok (s, none)
  else if p.n ≥ 2 then .ok (s, some (p.n - 2))
  else if p.skip then .ok (s.setProg q { p with n := 1, skip := false }, none)
  else
    let a : EngAcc := ⟨0, 2, w64 (localBase + l), 0, [row, 0]⟩
    if l + 4 > 0x40000 then .error (s.raiseGen (engFault q c a 0 2))
    else if s.poisonRun pa 4 then .error (s.raiseGen (engFault q c a 0 3))
    else .ok (s.setProg q { p with n := s.readNat pa 4 + 2 }, some (s.readNat pa 4))

/-- The source bytes of the chunk. -/
def State.copySource (s : State) (q : Nat) (c : QCmd) (idx : Option Nat) : Except State (State × List (Byte × Bool)) :=
  let p := s.prog q
  let (row, ch, off, len) := Cmd.cAt c.c p
  if Cmd.op c.c = 0x11 then
    .ok (s, (List.range len).map fun x => (BitVec.ofNat 8 (bits c.c.w1 31 0 >>> (8 * ((off + x) % 4))), false))
  else if c.ahead p then .ok (s, (p.buf.drop (c.bufAt p)).take len)
  else match idx with
    | none => if Cmd.op c.c = 0x12 then .ok (s, List.replicate len (0, true)) else .ok (s, List.replicate len (0, false))
    | some x => s.engRead q c ⟨0, 0, Cmd.cSrcRow c.c p.u row x + w64 off, 0, [row, ch]⟩ len

/-- The progress after a row's piece of `big` bytes and `n` elements, and the state. -/
def State.copyNext (s : State) (q : Nat) (c : QCmd) (big n : Nat) : State :=
  let s := s.copyServed q (c.chunkOver (s.prog q) big)
  let p := s.prog q
  let p := { p with got := [], out := none, put := 0, m := p.m + big }
  let cnt := if Cmd.cConv c.c then p.n + n else p.n
  if p.j + 1 < Cmd.cChunks c.c then s.setProg q { p with j := p.j + 1, n := cnt }
  else if p.i + 1 < Cmd.cRows c.c then s.setProg q { p with i := p.i + 1, j := 0, n := 0 }
  else if p.mode = 2 then
    if p.u + 1 < c.passEnd then s.copyPass q (p.u + 1) p.adv 2 p.buf p.holes else s.copyPass q c.pass0 p.adv 3 p.buf p.holes
  else
    let len := if Cmd.cConv c.c then (cnt * typeBits (Cmd.cFdst c.c) + 7) / 8 else Cmd.cLen c.c
    s.copyPass q (p.u + 1) (p.adv + Cmd.cDadv c.c len) p.mode p.buf p.holes

/-- Writes what the chunk has to write. -/
def State.copyPut (s : State) (q : Nat) (c : QCmd) (idx : Option Nat) (bs : List (Byte × Bool)) (n : Nat) : Except State State :=
  let p := s.prog q
  let (row, ch, off, _) := Cmd.cAt c.c p
  let at_ := if Cmd.cConv c.c then p.n * typeBits (Cmd.cFdst c.c) / 8 else off
  let a : EngAcc := ⟨0, 1, Cmd.cDstRow c.c p.adv row (idx.getD 0) + w64 at_, 1, [row, ch]⟩
  if idx.isNone && Cmd.op c.c = 0x13 then .ok s
  else s.engWriteHalf q c a bs 0 false (Cmd.cConv c.c && Cmd.cFdst c.c == 5 && n % 2 == 1)

/-- The quad of a copy queue after `n` stochastic results (03_numbers.md R66). -/
def State.stepXgen (s : State) (q : Nat) (c : Cmd) (n : Nat) : State :=
  let k := nQuad (qName q)
  s.setQuad k { s.quad k with xgen := genAfter (if Cmd.cConv c then Cmd.cRnd c else 0) (s.quad k).xgen n }

/-- Whether the chunk cannot be read now: its row's index or its source faults. -/
def State.copyHole (s : State) (q : Nat) (c : QCmd) : Bool :=
  let p := s.prog q
  let (row, ch, off, len) := Cmd.cAt c.c p
  let l := Cmd.cIdxAt c.c p.u row
  let pa := engPa q l
  if Cmd.op c.c = 0x11 || p.view then false
  else if Cmd.op c.c = 0x12 && p.n < 2 && (l + 4 > 0x40000 || s.poisonRun pa 4) then true
  else
    let x := if Cmd.op c.c ≠ 0x12 then 0 else if p.n ≥ 2 then p.n - 2 else s.readNat pa 4
    s.readFaults q c ⟨0, 0, Cmd.cSrcRow c.c p.u row x + w64 off, 0, [row, ch]⟩ p.got.length len (len / 4096 + 2)

/-- A chunk that is being read ahead cannot be read: the copy goes on past it, and takes its fault once the chunks before it are written
(R408). -/
def State.copyPast (s : State) (q : Nat) (c : QCmd) : State :=
  let p := s.prog q
  let (_, _, _, len) := Cmd.cAt c.c p
  (s.setProg q { p with buf := p.buf ++ List.replicate len (0, false), holes := c.bufAt p :: p.holes }).copyNext q c len 0

/-- One chunk of a copy: index, source, grain, conversion, write (R408 to R411). In mode 2 the chunk is only read ahead. -/
def State.copyChunk (s : State) (q : Nat) (c : QCmd) : State :=
  let p := s.prog q
  let (row, _, _, len) := Cmd.cAt c.c p
  if p.mode = 2 && s.copyHole q c then s.copyPast q c
  else match s.copyIndex q c row with
  | .error s => s
  | .ok (s, idx) =>
    match s.copySource q c idx with
    | .error s => s
    | .ok (s, bs) =>
      if p.mode = 2 then
        let s := s.setProg q { s.prog q with buf := (s.prog q).buf ++ bs }
        s.copyNext q c len 0
      else
        let (bytes, n) := match (s.prog q).out with
          | some b => (b, (Cmd.cOut c.c 0 bs).2)
          | none => Cmd.cOut c.c (s.quad (nQuad (qName q))).xgen bs
        let big := max (if Cmd.op c.c = 0x11 then 0 else len) bytes.length
        match s.copyGrain q c big with
        | .error s => s
        | .ok s =>
          let s := if (s.prog q).out.isSome then s
            else (s.stepXgen q c.c n).setProg q { s.prog q with out := some bytes }
          match s.copyPut q c idx bytes n with
          | .error s => s
          | .ok s => s.copyNext q c big n

/-- The later passes of a section's command begin past the bytes that this one has covered (R257). -/
def State.copyMoved (s : State) (q : Nat) (c : QCmd) (adv : Nat) : State :=
  if c.sect then s.setQueue q ((s.queue q).moved adv) else s

/-- The next move of a copy command that has passed its checks. -/
def State.copyMove (s : State) (q : Nat) (c : QCmd) : State :=
  let p := s.prog q
  if !p.on then s.copyPass q c.pass0 c.adv (s.copyMode q c) [] []
  else if p.u ≥ c.passEnd then (s.copyMoved q c p.adv).cmdDone q c 0
  else if !s.copyTurn q then s
  else s.copyChunk q c

/-- XCOPY (R409). -/
def execXcopy (_c : Cmd) (s : State) : Res := .next <| s.checked xcopyOk fun c => s.copyMove s.curQ c

/-- XFILL (R410). -/
def execXfill (_c : Cmd) (s : State) : Res := .next <| s.checked xfillOk fun c => s.copyMove s.curQ c

/-- XGATH (R411). -/
def execXgath (_c : Cmd) (s : State) : Res := .next <| s.checked xindexOk fun c => s.copyMove s.curQ c

/-- XSCAT (R411). -/
def execXscat (_c : Cmd) (s : State) : Res := .next <| s.checked xindexOk fun c => s.copyMove s.curQ c

/-! ## XSWZ (R412) -/

/-- Blocks. -/
def Cmd.zBlocks (c : Cmd) : Nat := bits c.w3 29 18 + 1
/-- The tag. -/
def Cmd.zTag (c : Cmd) : Nat := bits c.w3 32 30

/-- The checks of XSWZ. -/
def xswzOk (q : QCmd) : Bool :=
  let c := q.c
  let src := bits c.w1 55 0
  let dst := bits c.w2 55 0
  bits c.w0 19 0 == 0 && bits c.w1 63 56 == 0 && bits c.w2 63 56 == 0 && bits c.w3 63 33 == 0 && Cmd.zTag c ≤ 2
    && src % 512 == 0 && dst % 512 == 0 && localBase ≤ src && src < localBase + 0x48000
    && localBase ≤ dst && dst < localBase + 0x40000

/-- A block read under its own tag and laid out under another. -/
def relayout (own tag : Nat) (bs : List (Byte × Bool)) : List (Byte × Bool) :=
  (List.range 512).map fun x => nth bs (swzByte own (swzByte tag x)) (0, false)

/-- Blocks of all passes of an XSWZ, which follow one another. -/
def QCmd.zTotal (q : QCmd) : Nat := Cmd.zBlocks q.c * (q.passEnd - q.pass0)

/-- How an XSWZ goes (R93, R412: the engine chooses the order; log 97): 0 block by block from the first, 1 from the last where its one pass
overwrites what it reads later, 2 reading everything first where several passes do, which run in turn (R408). -/
def QCmd.zMode (q : QCmd) : Nat :=
  let src := bits q.c.w1 55 0
  let dst := bits q.c.w2 55 0
  if src < dst && dst < src + 512 * q.zTotal then (if q.passEnd - q.pass0 = 1 then 1 else 2) else 0

/-- The source of block `x` of an XSWZ, counted over all passes. -/
def QCmd.zSource (q : QCmd) (x : Nat) : EngAcc :=
  ⟨0, 0, Cmd.cSrc q.c + w64 (512 * (Cmd.zBlocks q.c * q.pass0 + x)), 0, [x % Cmd.zBlocks q.c, 0]⟩

/-- Block `x` of an XSWZ, read under its own tag and laid out under the command's. -/
def State.swzRead (s : State) (q : Nat) (c : QCmd) (x : Nat) : Except State (State × List (Byte × Bool)) :=
  let a := c.zSource x
  match s.engRead q c a 512 with
  | .error s => .error s
  | .ok (s, bs) => .ok (s, relayout (s.tagAt (engPa q (a.va.toNat - localBase))) (Cmd.zTag c.c) bs)

/-- The next block of an XSWZ is read ahead; one that cannot be read is left, and takes its fault in its turn. -/
def State.swzAhead (s : State) (q : Nat) (c : QCmd) : State :=
  let p := s.prog q
  let go := fun (s : State) (bs : List (Byte × Bool)) (holes : List Nat) =>
    (s.copyServed q true).setProg q { resetProg with on := true, mode := 2, i := p.i + 1, buf := p.buf ++ bs, holes := holes }
  if !p.view && s.readFaults q c (c.zSource p.i) p.got.length 512 2 then go s (List.replicate 512 (0, false)) (p.i :: p.holes)
  else match s.swzRead q c p.i with
    | .error s => s
    | .ok (s, bs) => go s bs p.holes

/-- The bytes of block `x` of an XSWZ: as read ahead, else read now. -/
def State.swzBytes (s : State) (q : Nat) (c : QCmd) (x : Nat) : Except State (State × List (Byte × Bool)) :=
  let p := s.prog q
  if p.mode = 3 && !p.holes.contains x then .ok (s, (p.buf.drop (512 * x)).take 512) else s.swzRead q c x

/-- The next block of XSWZ: its bytes, a grain, the write under its tag. -/
def State.swzBlock (s : State) (q : Nat) (c : QCmd) : State :=
  let p := s.prog q
  let x := if p.mode = 1 then c.zTotal - 1 - p.i else p.i
  match s.swzBytes q c x with
  | .error s => s
  | .ok (s, bs) =>
    match s.copyGrain q c 512 with
    | .error s => s
    | .ok s =>
      let out := ((s.prog q).out).getD bs
      let s := s.setProg q { s.prog q with out := some out }
      match s.engWrite q c ⟨0, 1, Cmd.cDst c.c + w64 (512 * (Cmd.zBlocks c.c * c.pass0 + x)), 1, [x % Cmd.zBlocks c.c, 0]⟩ out
          (Cmd.zTag c.c) with
      | .error s => s
      | .ok s => (s.copyServed q true).setProg q { resetProg with on := true, mode := p.mode, i := p.i + 1, buf := p.buf, holes := p.holes }

/-- XSWZ. -/
def execXswz (_c : Cmd) (s : State) : Res :=
  .next <| s.checked xswzOk fun c =>
    let p := s.prog s.curQ
    if !p.on then s.setProg s.curQ { resetProg with on := true, mode := c.zMode }
    else if p.i ≥ c.zTotal then
      if p.mode = 2 then s.setProg s.curQ { resetProg with on := true, mode := 3, buf := p.buf, holes := p.holes }
      else s.cmdDone s.curQ c 0
    else if !s.copyTurn s.curQ then s
    else if p.mode = 2 then s.swzAhead s.curQ c
    else s.swzBlock s.curQ c

end Sys2Proof.Machine
end

