-- ==== Sys2Proof/Machine/Photonic.lean ====
section
/-! DEFINITION. Photonic multicast (07_networks.md R138 to R149; 21_ref_d_l.md R353 to R359): group tables, LRX, LTX, sending,
filling and resending blocks, stalls and sleeping trunks. A group is named by its group word g; across wafers by
wafer × 2^14 + g. -/

namespace Sys2Proof.Machine

/-! ## Names -/

/-- Controller of a group word (R139). -/
def gCtl (g : Nat) : Nat := g % 2 ^ 14 / 256

/-- Key of the controller of a group's name. -/
def gKey (name : Nat) : Nat := name / 2 ^ 14 * 64 + gCtl name

/-- The group-table entry of a group's name. -/
def State.gt (s : State) (name : Nat) : Gt := mget (s.ctl (gKey name)).gt (name % 256) resetGt

/-- Puts back a group-table entry. -/
def State.setGt (s : State) (name : Nat) (e : Gt) : State :=
  let c := s.ctl (gKey name)
  s.setCtl (gKey name) { c with gt := mput c.gt (name % 256) e }

/-- v. -/
def Gt.v (e : Gt) : Bool := bitAt e.w0 63

/-- tmask. -/
def Gt.tmask (e : Gt) : Nat := bits e.w0 62 59

/-- wl. -/
def Gt.wl (e : Gt) : Nat := bits e.w0 58 54

/-- The group word of a network command. -/
def Cmd.group (c : Cmd) : Nat := bits c.w2 13 0

/-- The name of a command's group. -/
def groupName (q : Nat) (c : Cmd) : Nat := nWafer (qName q) * 2 ^ 14 + Cmd.group c

/-- The partition that a command acts for: the record's key. -/
def QCmd.part (q : Nat) (c : QCmd) : Nat :=
  match c.ref with
  | some r => shPartKey r.sheaf
  | none => nWafer (qName q) * 64

/-- What the network commands' checks share: fmt and flg, W3 63:18, and the group word (R258). -/
def netOk (c : Cmd) : Bool := bits c.w0 19 0 == 0 && bits c.w3 63 18 == 0

/-- The checks of a group word. -/
def groupOk (c : Cmd) : Bool := gCtl (Cmd.group c) ≤ 47

/-! ## LRX (R356, R357) -/

/-- The checks of LRX. -/
def lrxOk (q : QCmd) : Bool := netOk q.c && bits q.c.w2 63 14 == 0 && groupOk q.c

/-- LRX: posts slots at the receiver, as one act. -/
def execLrx (_c : Cmd) (s : State) : Res :=
  .next <| s.checked lrxOk fun c =>
    let q := s.curQ
    let k := nQuad (qName q)
    let slots := (List.range 64).filter fun i => bitAt c.c.w1 i
    if ((s.quad k).memb? (Cmd.group c.c)).isNone then s.cmdTrap q c 1 0
    else if slots.any fun i => (s.quad k).slotSt i ≠ .free then s.cmdDone q c 0x11
    else (s.setQuad k ((s.quad k).post (Cmd.group c.c) slots)).cmdDone q c 0

/-! ## LTX (R358, R359) -/

/-- The checks of LTX. -/
def ltxOk (q : QCmd) : Bool :=
  let c := q.c
  netOk c && bits c.w1 63 56 == 0 && bits c.w2 63 29 == 0 && groupOk c && bits c.w2 28 26 ≤ 2 && bits c.w1 8 0 == 0

/-- Blocks of an LTX. -/
def Cmd.blocks (c : Cmd) : Nat := bits c.w2 25 14 + 1

/-- A unit draws up to `n` grains: how many it drew. -/
def State.grains (s : State) (field unit : Nat) (ref : Option NodeRef) : Nat → State × Nat
  | 0 => (s, 0)
  | n + 1 =>
    let (s, ok) := s.grain field unit ref
    if ok then
      let (s, k) := s.grains field unit ref n
      (s, k + 1)
    else (s, 0)

/-- LTXs that a controller holds (R359). -/
def ltxRoom : Nat := 64

/-- LTX: draws its grains, waits for room at the controller and is accepted. -/
def execLtx (_c : Cmd) (s : State) : Res :=
  .next <| s.checked ltxOk fun c =>
    let q := s.curQ
    let p := s.prog q
    let need := Cmd.blocks c.c - p.k
    let (s, k) := s.grains (nField (qName q)) (coreUnit (qName q) 17) c.ref need
    let name := groupName q c.c
    let m := s.ctl (gKey name)
    if k < need || m.jobs.length ≥ ltxRoom then s.setProg q { p with k := p.k + k }
    else
      let j : Ltx := {
        queue := q, q := c, group := name, found := false, sent := 0, first := 0, buf := none, view := false, fault := none,
        skip := false }
      (s.setCtl (gKey name) { m with jobs := m.jobs ++ [j] }).popCmd q

/-! ## Jobs at the controller -/

/-- Changes the first job of a group that has blocks to send. -/
def modJob (g : Nat) (f : Ltx → Ltx) : List Ltx → List Ltx
  | [] => []
  | j :: r => if j.group = g && j.sent < Cmd.blocks j.q.c then f j :: r else j :: modJob g f r

/-- Changes it in the state. -/
def State.modJob (s : State) (g : Nat) (f : Ltx → Ltx) : State :=
  let c := s.ctl (gKey g)
  s.setCtl (gKey g) { c with jobs := Machine.modJob g f c.jobs }

/-- The first job of a group that has blocks to send (R144). -/
def State.jobOf (s : State) (g : Nat) : Option Ltx :=
  (s.ctl (gKey g)).jobs.find? fun j => j.group == g && j.sent < Cmd.blocks j.q.c

/-- Whether a flight carries a block of a job. -/
def Ltx.carries (j : Ltx) (f : Flight) : Bool :=
  f.group == j.group && !f.dup && (f.blk + 2 ^ 32 - j.first) % 2 ^ 32 < Cmd.blocks j.q.c

/-- Whether the last block of a job has been filled at every member (R144). -/
def Ltx.over (j : Ltx) (fl : List Flight) : Bool := j.sent ≥ Cmd.blocks j.q.c && !fl.any j.carries

/-- A job ends with a status: its mailbox is released (R212). -/
def State.endJob (s : State) (ctl : Nat) (j : Ltx) (st : Nat) : State :=
  let c := s.ctl ctl
  (s.setCtl ctl { c with jobs := c.jobs.erase j }).mailbox j.queue j.q st 0

/-- Ends the jobs of a controller that are over. -/
def State.endJobs (s : State) (ctl : Nat) : State :=
  let c := s.ctl ctl
  (c.jobs.filter (·.over c.flights)).foldl (fun s j => s.endJob ctl j 0) s

/-- Serial comparison (R145). -/
def serLess (a b : Nat) : Bool :=
  let d := (b + 2 ^ 32 - a) % 2 ^ 32
  1 ≤ d && d < 2 ^ 31

/-- Whether every member has reported a posted count that exceeds block `b` (R145). -/
def Gt.demand (e : Gt) (b : Nat) : Bool := !e.membs.isEmpty && e.membs.all fun m => serLess b m.known

/-- A member with the lowest posted count (R146). -/
def Gt.lowest (e : Gt) : Option Member :=
  e.membs.foldl (fun best m => match best with
    | none => some m
    | some b => if serLess m.known b.known then some m else some b) none

/-- The fault of a job's read generator at its next block. -/
def ltxFault (g : Nat) (j : Ltx) (ty : Nat) : GenFault :=
  { engFault j.queue j.q ⟨0, 0, w64 (bits j.q.c.w1 55 0) + w64 (512 * j.sent), 0, [j.sent]⟩ 0 ty with owner := .ltx (gKey g) g }

/-- Whose addresses the transmitter translates. -/
def ltxWho (g : Nat) (j : Ltx) : Who := { engWho j.queue j.q 2 with gid := 8 * g + 6 }

/-- Whether a home is controller m of wafer w (R144). -/
def homedAt (pa w m : Nat) : Bool :=
  match homeOf pa with
  | .hbm w' m' _ => w' == w && m' == m
  | .window w' m' _ _ => w' == w && m' == m
  | _ => false

/-- The read generator reads the job's next block (R144, R359). -/
def State.readBlock (s : State) (g : Nat) (j : Ltx) : State :=
  let va := w64 (bits j.q.c.w1 55 0) + w64 (512 * j.sent)
  let have_ := fun (s : State) (bs : List (Byte × Bool)) =>
    (s.modJob g fun j => { j with buf := some bs, skip := false, view := false }).setGt g { s.gt g with since := s.time }
  if j.skip then have_ s (List.replicate 512 (0, true))
  else match s.translate (ltxWho g j) va 512 0 with
    | .miss => s.askWalk (ltxWho g j) va 0 (ltxFault g j 1)
    | .bad t => s.raiseGen (ltxFault g j t)
    | .ok pa _ _ =>
      if !homedAt pa (g / 2 ^ 14) (gCtl g) then s.raiseGen (ltxFault g j 2)
      else match homeOf pa with
        | .window w m sl o => (s.modJob g fun j => { j with view := true }).enterView w m sl
            ⟨.ltx (gKey g) g, nWafer (qName j.queue), j.q.asid, o, 512, none, 0, [], 0, []⟩
        | _ => have_ s (s.readRun pa 512)

/-- A trunk of a controller: awake, and when it last sent or woke. -/
def State.trunk (s : State) (ctl k : Nat) : Bool × Nat := mget (s.ctl ctl).trunks k (false, 0)

/-- Wakes the trunks of a mask, or notes that they send. -/
def State.wakeTrunks (s : State) (ctl mask : Nat) : State :=
  let c := s.ctl ctl
  s.setCtl ctl { c with
    trunks := ((List.range 4).filter (fun k => mask.testBit k)).foldl (fun t k => mput t k (true, s.time)) c.trunks }

/-- Whether every trunk of a mask is awake. -/
def State.trunksAwake (s : State) (ctl mask : Nat) : Bool :=
  ((List.range 4).filter fun k => mask.testBit k).all fun k => (s.trunk ctl k).1

/-- Whether a group's next block could be sent now: read, in demand, its trunks awake, and its partition running (11_faults.md R214). -/
def State.sendReady (s : State) (g : Nat) : Bool :=
  let e := s.gt g
  e.v && !e.dissolve && e.demand e.sent && s.trunksAwake (gKey g) e.tmask && (match s.jobOf g with
    | some j => j.found && j.fault.isNone && j.buf.isSome && s.partRuns (QCmd.part j.queue j.q)
    | none => false)

/-- Whether it is a group's turn: no other group of its transmitter that shares a trunk and the wavelength, and was served less lately,
is ready (R138). -/
def State.myTurn (s : State) (g : Nat) : Bool :=
  let e := s.gt g
  (s.ctl (gKey g)).gt.all fun x =>
    x.1 == g % 256 || x.2.wl != e.wl || x.2.tmask &&& e.tmask == 0 || e.turn ≤ x.2.turn || !s.sendReady (g / 256 * 256 + x.1)

/-- A block with its poison marks: one for each 64 bytes (R144). -/
def markBlock (bs : List (Byte × Bool)) : List (Byte × Bool) :=
  (chunks 64 8 bs).flatMap fun p => p.map fun b => (b.1, p.any (·.2))

/-- Sends the job's block to every member (R138, R145). -/
def State.sendBlock (s : State) (g : Nat) (j : Ltx) (bs : List (Byte × Bool)) : State :=
  let e := s.gt g
  let tag := bits j.q.c.w2 28 26
  let fl := e.membs.map fun m => Flight.mk g m.quad e.sent (markBlock bs) tag 0 false false
  let s := s.modJob g fun j => { j with sent := j.sent + 1, first := if j.sent = 0 then e.sent else j.first, buf := none }
  let s := (s.setGt g { e with sent := (e.sent + 1) % 2 ^ 32, turn := s.tick }).wakeTrunks (gKey g) e.tmask
  s.setCtl (gKey g) { s.ctl (gKey g) with flights := (s.ctl (gKey g)).flights ++ fl }

/-- BLOCK_SEND: the group's next block is read, or sent when demand allows and it is the group's turn (R138, R144, R145, R149). -/
def execBlockSend (group : Nat) (s : State) : Res :=
  .next <| match s.jobOf group with
    | none => s
    | some j =>
      let e := s.gt group
      if s.awnStopped (group / 2 ^ 14) (unitNo .ctl (gCtl group)) || !s.partRuns (QCmd.part j.queue j.q) then s
      else if !j.found then
        if !e.v || e.part ≠ QCmd.part j.queue j.q then s.endJob (gKey group) j 0x13
        else if e.dissolve then s.endJob (gKey group) j 0x12
        else s.modJob group fun j => { j with found := true }
      else if j.fault.isSome || j.view || e.dissolve then s
      else match j.buf with
        | none => s.readBlock group j
        | some bs =>
          if !e.demand e.sent then s
          else if !s.trunksAwake (gKey group) e.tmask then s.wakeTrunks (gKey group) e.tmask
          else if !s.myTurn group then s
          else s.sendBlock group j bs

/-- DEMAND_UPDATE: the quad's posted count for a group word reaches the controller (R145). -/
def execDemandUpdate (quad group : Nat) (s : State) : Res :=
  .next <|
    let name := quad / 2 ^ 13 * 2 ^ 14 + group
    match (s.quad quad).memb? group with
    | none => s
    | some m =>
      let e := s.gt name
      if e.v && e.enrol = m.enrol then
        s.setGt name { e with membs := e.membs.map fun x => if x.quad = quad % 2 ^ 13 then { x with known := m.posted } else x }
      else s

/-! ## Filling and resending (R142, R147) -/

/-- The first flight of a list to a quad for a group, with the lists before and after it. -/
def findFlight (g quad : Nat) : List Flight → Option (List Flight × Flight × List Flight)
  | [] => none
  | f :: r =>
    if f.group = g ∧ f.quad = quad then some ([], f, r)
    else match findFlight g quad r with
      | some (a, x, b) => some (f :: a, x, b)
      | none => none

/-- A block lost to eight failed resends: bytes that the spec leaves open, all poisoned. -/
def lostBlock (tick : Nat) : List (Byte × Bool) :=
  (List.range 64).flatMap fun i => natRun 8 (Config.unspecified (tick + i)).toNat true

/-- A block fills the slot at the head of its queue (R142). -/
def State.fillSlot (s : State) (quad g : Nat) (f : Flight) (bs : List (Byte × Bool)) : State :=
  match (s.quad quad).fillHead (g % 2 ^ 14) with
  | none => s
  | some (i, q) =>
    (s.setQuad quad q).write (quadPa (quad / 2 ^ 13) (quad % 2 ^ 13) (0x40000 + 512 * i)) bs
      ⟨3, 2, quad * 4, false, f.tag⟩

/-- SLOT_FILL: the next block on its way to a quad arrives, its check passing or failing (R142, R147). A member that has taken the block
discards a resent copy, also one that fails its check, for which it asks no resend (DESIGN CHOICE, log 117). -/
def execSlotFill (quad group : Nat) (ok : Bool) (s : State) : Res :=
  .next <|
    let g := quad / 2 ^ 13 * 2 ^ 14 + group
    let c := s.ctl (gKey g)
    match findFlight g (quad % 2 ^ 13) c.flights with
    | none => s
    | some (a, f, b) =>
      let gone := s.setCtl (gKey g) { c with flights := a ++ b }
      let count := fun (s : State) => s.setQuad quad { s.quad quad with crc := (s.quad quad).crc + 1 }
      if f.again then s
      else if f.dup then (if ok then gone else count gone)
      else if ok then (gone.fillSlot quad g f f.bytes).endJobs (gKey g)
      else if f.tries ≥ 8 then ((count gone).fillSlot quad g f (lostBlock s.tick)).endJobs (gKey g)
      else count (s.setCtl (gKey g) { c with flights := a ++ { f with tries := f.tries + 1, again := true } :: b })

/-- BLOCK_RESEND: a block that a member asked for again is sent to the whole group (R147), on trunks that are awake (R149). -/
def execBlockResend (group : Nat) (s : State) : Res :=
  .next <|
    let c := s.ctl (gKey group)
    match c.flights.find? fun f => f.group == group && f.again with
    | none => s
    | some f =>
      if !s.trunksAwake (gKey group) (s.gt group).tmask then s.wakeTrunks (gKey group) (s.gt group).tmask
      else
        let fl := c.flights.map fun x => if x.group = group ∧ x.blk = f.blk ∧ x.again then { x with again := false } else x
        let others := (s.gt group).membs.filter fun m => !fl.any fun x => x.group == group && x.quad == m.quad && x.blk == f.blk
        (s.setCtl (gKey group) { c with
          flights := fl ++ others.map fun m => { f with quad := m.quad, again := false, dup := true, tries := 0 } }).wakeTrunks (gKey group)
          (s.gt group).tmask

/-! ## LGRP (R139 to R141, R353, R354) -/

/-- The local address of an LGRP image or LGRP.RD destination. -/
def Cmd.img (c : Cmd) : Nat := bits c.w1 18 0

/-- The checks of LGRP and LGRP.RD; `al` is the alignment. -/
def lgrpOk (al : Nat) (q : QCmd) : Bool :=
  let c := q.c
  netOk c && bits c.w1 63 19 == 0 && bits c.w2 63 14 == 0 && groupOk c && Cmd.img c % al == 0 && Cmd.img c < 0x40000 && q.priv

/-- Word 0 of the image of the LGRP at the head, which is read once (R354). -/
def State.imageW (s : State) (q : Nat) (c : Cmd) : W64 :=
  if (s.prog q).on then w64 (s.prog q).adv else s.readW (engPa q (Cmd.img c))

/-- Keeps the image's word 0 while the LGRP stays at the head. -/
def State.holdImage (s : State) (q : Nat) (w0 : W64) : State := s.setProg q { s.prog q with on := true, adv := w0.toNat }

/-- Whether the image of an LGRP enrols: its v. -/
def State.imageV (s : State) (q : Nat) (c : Cmd) : Bool := bitAt (s.imageW q c) 63

/-- A member-map entry is in order for controller m with `tmask` on wafer w (R140, R141). -/
def State.memberOk (s : State) (w m tmask g : Nat) (e : Nat) : Bool :=
  let qn := e % 2 ^ 13
  let trk := e / 2 ^ 27 % 4
  let t := (s.wafer w).trunks qn
  e / 2 ^ 13 % 2 ^ 14 == 0 && qn < 6336 && tmask.testBit trk && s.fieldOn w (qnField qn)
    && (rowDriver t.1 == (m, trk) || colDriver t.2 == (m, trk))
    && (s.quad (quadKey w qn)).membs.length < 16 && ((s.quad (quadKey w qn)).memb? g).isNone

/-- Whether a list of quads names none twice. -/
def noneTwice : List Nat → Bool
  | [] => true
  | a :: r => !r.contains a && noneTwice r

/-- A member count that no group has (R354). -/
def memBad (n : Nat) : Bool := n == 0 || n > 288

/-- Enrols the members of a group and writes its entry (R141, R354). -/
def State.enrol (s : State) (name : Nat) (w0 : W64) (part : Nat) (ref : Option NodeRef) (quads : List Nat) : State :=
  let w := name / 2 ^ 14
  let n := s.serial
  let s := { s with serial := s.serial + 1 }.setGt name
    { w0 := w0, sent := 0, enrol := n, part := part, ref := ref, membs := quads.map fun q => ⟨q, 0⟩, since := 0, stalled := none,
      dissolve := false, turn := 0 }
  quads.foldl (fun s q =>
    let k := quadKey w q
    s.setQuad k { s.quad k with membs := (s.quad k).membs ++ [⟨name % 2 ^ 14, n, [], 0, 0⟩] }) s

/-- Writes an entry from an image, if every rule of R141 and R354 holds; the status. -/
def State.lgrpWrite (s : State) (name : Nat) (w0 : W64) (part : Nat) (ref : Option NodeRef) : State × Nat :=
  let w := name / 2 ^ 14
  let n := bits w0 50 42
  let map := (List.range n).map fun i => s.readNat (waferPa w (bits w0 41 0 * 64 + 4 * i)) 4
  let quads := map.map (· % 2 ^ 13)
  if (s.gt name).v || memBad n then (s, 0x10)
  else if !map.all (s.memberOk w (gCtl name) (bits w0 62 59) (name % 2 ^ 14)) || !noneTwice quads then (s, 0x10)
  else (s.enrol name w0 part ref quads, 0)

/-- The fault type of reading the member map of an image (R354). -/
def State.mapFault (s : State) (w : Nat) (w0 : W64) : Option Nat :=
  let pa := waferPa w (bits w0 41 0 * 64)
  let n := 4 * bits w0 50 42
  match homeOf pa, homeOf (pa + n - 1) with
  | .hbm _ _ _, .hbm _ _ _ => if s.poisonRun pa n then some 3 else none
  | _, _ => some 2

/-- Enrols the group of an image word, or completes with 0x10; a map that cannot be read is a fault of the read generator. -/
def State.enrolCmd (s : State) (q : Nat) (c : QCmd) (name : Nat) (w0 : W64) : State :=
  if (s.gt name).v || memBad (bits w0 50 42) || (s.prog q).skip then s.cmdDone q c 0x10
  else match s.mapFault (nWafer (qName q)) w0 with
    | some t => (s.holdImage q w0).raiseGen (engFault q c ⟨0, 0, w64 (bits w0 41 0 * 64), 0, []⟩ 0 t)
    | none =>
      let r := s.lgrpWrite name w0 (QCmd.part q c) c.ref
      r.1.cmdDone q c r.2

/-- LGRP with v = 1: enrols (R141, R354). -/
def execLgrpEnrol (_c : Cmd) (s : State) : Res :=
  .next <| s.checked (lgrpOk 16) fun c =>
    s.enrolCmd s.curQ c (groupName s.curQ c.c) (s.imageW s.curQ c.c)

/-- Begins the dissolution of a group: its unsent blocks are discarded and their LTXs end with 0x12 (R141). -/
def State.unbind (s : State) (name : Nat) : State :=
  let s := s.setGt name { s.gt name with dissolve := true }
  let js := (s.ctl (gKey name)).jobs.filter fun j => j.group == name && j.sent < Cmd.blocks j.q.c
  js.foldl (fun s j => s.endJob (gKey name) j 0x12) s

/-- Ends a dissolution: members are withdrawn, their posted slots freed, and v becomes 0 (R141, R354). -/
def State.withdrawGroup (s : State) (name : Nat) : State :=
  let w := name / 2 ^ 14
  let g := name % 2 ^ 14
  let s := (s.gt name).membs.foldl (fun s m =>
    let k := quadKey w m.quad
    let q := s.quad k
    s.setQuad k { q with
      membs := q.membs.filter (·.group != g), slots := q.slots.filter fun e => e.2 != .posted g }) s
  let e := s.gt name
  s.setGt name { resetGt with w0 := w64 (bits e.w0 62 0), sent := e.sent, turn := e.turn }

/-- LGRP with v = 0: dissolves (R141, R354). -/
def execLgrpDissolve (_c : Cmd) (s : State) : Res :=
  .next <| s.checked (lgrpOk 16) fun c =>
    let q := s.curQ
    let name := groupName q c.c
    if !(s.gt name).v then s.cmdDone q c 0
    else if !(s.gt name).dissolve then (s.unbind name).holdImage q (s.imageW q c.c)
    else if (s.ctl (gKey name)).flights.any fun f => f.group == name then s
    else (s.withdrawGroup name).cmdDone q c 0

/-- LGRP.RD: word 1 of the entry is stored (R354). -/
def execLgrpRd (_c : Cmd) (s : State) : Res :=
  .next <| s.checked (lgrpOk 8) fun c =>
    let q := s.curQ
    let v := place ((s.gt (groupName q c.c)).sent % 2 ^ 32) 32
    match s.engWrite q c ⟨0, 1, w64 (localBase + Cmd.img c.c), 1, []⟩ (natRun 8 v false) 0 with
    | .error s => s
    | .ok s => s.cmdDone q c 0

/-! ## Stalls, handoffs and sleep (R146, R148, R149) -/

/-- The node of an event, if it is live (R208). -/
def State.liveRef (s : State) (r : Option NodeRef) : Option NodeRef :=
  match r with
  | some r => match s.node? r with
    | some n => if n.st == .done then none else some r
    | none => none
  | none => none

/-- GROUP_STALL: the group's next block has waited longer than KGSTALL.lim, whatever it waits for (R146). -/
def execGroupStall (group : Nat) (s : State) : Res :=
  .next <| match s.jobOf group with
    | none => s
    | some j =>
      let e := s.gt group
      let w := group / 2 ^ 14
      let lim := (s.wafer w).kgstall.toNat
      if j.buf.isNone || e.stalled == some e.sent || lim = 0 || s.time - e.since ≤ lim * 1000 then s
      else
        (s.setGt group { e with stalled := some e.sent }).raiseEv w
          { kind := 1, ref := s.liveRef e.ref,
            words := [w64 (group % 2 ^ 14), w64 e.sent, w64 ((e.lowest.map (·.quad)).getD 0), 0, 0, 0], what := .other, core := none }

/-- RING_HANDOFF: a quad moves a wavelength to its other ring (R148). -/
def execRingHandoff (quad : Nat) (s : State) : Res :=
  .next <| s.setQuad quad { s.quad quad with hnd := (s.quad quad).hnd + 1 }

/-- Words of a phase entry of a sheaf (R284). -/
def State.phaseWords (s : State) (k : Nat) (sh : Sheaf) (ph : Nat) : List W64 :=
  (s.hwReads (shWafer k) (bits (nth sh.part 1 0) 17 8) (nth sh.hdr 5 0 + w64 (32 * ph)) 4).getD []

/-- The group words of a phase: the first always, the others where v is set (R284). -/
def phaseGroups (ws : List W64) : List Nat :=
  (List.range ws.length).filterMap fun i => if i = 0 || bitAt (nth ws i 0) 63 then some (bits (nth ws i 0) 13 0) else none

/-- PHASE_WAKE: the GS wakes the trunks of a declared phase, KLEAD.lead before it begins, in device time (R149; 14_assembly.md R284). -/
def execPhaseWake (sheaf phase : Nat) (s : State) : Res :=
  .next <| match mfind s.sheaves sheaf with
    | none => s
    | some sh =>
      let w := shWafer sheaf
      let ws := s.phaseWords sheaf sh phase
      let begins := sh.time + 1000 * bits (nth ws 0 0) 63 32
      let lead := 1000 * bits (s.wafer w).klead 15 0
      if sh.bad != 0 || phase ≥ bits (nth sh.hdr 1 0) 23 16 || shas sh.woken phase || s.devTime w + lead < begins then s
      else
        let s := { s with sheaves := mput s.sheaves sheaf { sh with woken := sput sh.woken phase } }
        (phaseGroups ws).foldl (fun s g => s.wakeTrunks (w * 64 + gCtl g) (s.gt (w * 2 ^ 14 + g)).tmask) s

/-- Whether a trunk lies in a declared phase: one that has been woken for a live sheaf (log 27). -/
def State.inPhase (s : State) (ctl trunk : Nat) : Bool :=
  s.sheaves.any fun p => p.2.woken.any fun ph => (phaseGroups (s.phaseWords p.1 p.2 ph)).any fun g =>
    shWafer p.1 * 64 + gCtl g == ctl && (s.gt (shWafer p.1 * 2 ^ 14 + g)).tmask.testBit trunk

/-- TRUNK_SLEEP: a trunk that has sent nothing for KLEAD.idle and lies in no declared phase sleeps (R149). -/
def execTrunkSleep (ctl trunk : Nat) (s : State) : Res :=
  .next <|
    let t := s.trunk ctl trunk
    if t.1 && s.time - t.2 > 1000 * bits (s.wafer (ctl / 64)).klead 47 32 && !s.inPhase ctl trunk then
      s.setCtl ctl { s.ctl ctl with trunks := mput (s.ctl ctl).trunks trunk (false, t.2) }
    else s

end Sys2Proof.Machine
end

