-- ==== Sys2Proof/Machine/Reduce.lean ====
section
/-! DEFINITION. Reductions: ERED and its routers (07_networks.md R152 to R154; 21_ref_d_l.md R336, R337; 03_numbers.md R70), and
CRED across the wafers of a pod (R155, R156; R327 to R330). A reduction group is keyed by its node's number × 16 + group; a CRED
group by its launch × 2^16 + group. -/

namespace Sys2Proof.Machine

/-! ## A write by hardware, in pieces -/

/-- The next piece of a write of `bs` at `va` whose progress is `d`, as the release `rel` where it is one; `put` puts the progress back,
`f` is the fault at a byte (11_faults.md R210). -/
def State.drainStep (s : State) (put : State → Drain → State) (who : Who) (f : Nat → GenFault) (va : W64)
    (bs : List (Byte × Bool)) (i : WInfo) (rel : Option Rel) (d : Drain) : State :=
  if d.put ≥ bs.length || d.view || d.fault.isSome then s
  else
    let at_ := va + w64 d.put
    let len := s.piece who at_ (bs.length - d.put) 1
    let next := fun (s : State) => put s { d with put := d.put + len, skip := false }
    if d.skip then next s
    else match s.translate who at_ len 1 with
      | .miss => s.askWalk who at_ 1 (f d.put)
      | .bad t => s.raiseGen { f d.put with ty := t }
      | .ok pa trc _ =>
        if s.remoteUnbacked who.wafer pa then next (s.raiseEv who.wafer ({ f d.put with ty := 2 }.event .other))
        else match homeOf pa with
          | .window w m sl o =>
            (put s { d with view := true }).enterView w m sl ⟨(f 0).owner, who.wafer, who.asid, o, len, some ((bs.drop d.put).take len), 0, [], 0, []⟩
          | _ => next (s.writeAs pa ((bs.drop d.put).take len) { i with trc := trc } rel)

/-- Elements as bytes, each with its poison mark. -/
def elemBytes (v : List (W32 × Bool)) : List (Byte × Bool) := v.flatMap fun e => natRun 4 e.1.toNat e.2

/-- Bytes as FP32 elements: a poisoned byte poisons its element. -/
def bytesElems (k : Nat) (bs : List (Byte × Bool)) : List (W32 × Bool) :=
  (chunks k bs.length bs).map fun p =>
    (BitVec.ofNat 32 (runNat p * (if k = 2 then 2 ^ 16 else 1)), p.any (·.2))

/-- Element by element sums in FP32, nearest-even; a poisoned input poisons its sum (R153). -/
def addVec (a b : List (W32 × Bool)) : List (W32 × Bool) := a.zipWith (fun x y => (add32 x.1 y.1, x.2 || y.2)) b

/-- The sum of the present inputs, one at a time; a single one passes unchanged (R70). -/
def sumVecs (vs : List (List (W32 × Bool))) : List (W32 × Bool) :=
  match vs with
  | [] => []
  | v :: r => r.foldl addVec v

/-! ## Teams and trees -/

/-- The rank of a core in its team (02_execution.md R34). -/
def Team.rank (t : Team) (n : Nat) : Nat := ((qnRow (nQn n) - t.ty0) * t.tw + (qnCol (nQn n) - t.tq0)) * 4 + nC n

/-- The quad number of the quad of a rank. -/
def Team.quadOf (t : Team) (rank : Nat) : Nat := (t.ty0 + rank / 4 / t.tw) * 72 + t.tq0 + rank / 4 % t.tw

/-- The name of the core of a rank on wafer w. -/
def Team.coreOf (t : Team) (w rank : Nat) : Nat := mkName w (t.quadOf rank) (rank % 4)

/-- The member ranks of a group. -/
def RedGroup.ranks (r : RedGroup) : List Nat := (List.range (r.last + 1 - r.first)).map (· + r.first)

/-- The member ranks that lie in a quad, in ascending c. -/
def RedGroup.inQuad (r : RedGroup) (t : Team) (qn : Nat) : List Nat := r.ranks.filter fun k => t.quadOf k == qn

/-- Whether some member of the group lies in a quad that `p` selects. -/
def RedGroup.anyMember (r : RedGroup) (t : Team) (p : Nat → Bool) : Bool := r.ranks.any fun k => p (t.quadOf k)

/-- The children of the router beside a quad, in the port order west, north, east, south, and its local contribution as the quad
itself (R70, R152): a contribution moves along its row to the root's column, then along that to the root's row. -/
def RedGroup.children (r : RedGroup) (t : Team) (qn : Nat) : List Nat :=
  let root := t.quadOf r.root
  let row := qnRow qn
  let col := qnCol qn
  let west := col ≤ qnCol root && r.anyMember t fun k => qnRow k == row && qnCol k < col
  let east := col ≥ qnCol root && r.anyMember t fun k => qnRow k == row && qnCol k > col
  let north := col = qnCol root && row ≥ qnRow root && r.anyMember t fun k => qnRow k > row
  let south := col = qnCol root && row ≤ qnRow root && r.anyMember t fun k => qnRow k < row
  (if west then [qn - 1] else []) ++ (if north then [qn + 72] else []) ++ (if east then [qn + 1] else [])
    ++ (if south then [qn - 72] else [])

/-! ## ERED (R336, R337) -/

/-- Element bytes of an ERED. -/
def eredSize (c : Cmd) : Nat := if Cmd.fmt c = 7 then 4 else 2

/-- Elements of an ERED. -/
def Cmd.redCount (c : Cmd) : Nat := bits c.w1 31 20 + 1

/-- src of an ERED. -/
def Cmd.redSrc (c : Cmd) : Nat := bits c.w1 18 0

/-- The checks of ERED that its words alone decide. -/
def eredOk (q : QCmd) : Bool :=
  let c := q.c
  (Cmd.fmt c == 0 || Cmd.fmt c == 7) && Cmd.flg c == 0 && bits c.w1 63 36 == 0 && bits c.w1 19 19 == 0 && c.w2 == 0
    && bits c.w3 63 18 == 0 && Cmd.redSrc c % eredSize c == 0 && Cmd.redSrc c + Cmd.redCount c * eredSize c ≤ 0x40000

/-- The key of a node's reduction group. -/
def redKey (r : NodeRef) (g : Nat) : Nat := r.key * 16 + g

/-- Puts back a reduction group. -/
def State.setRed (s : State) (k : Nat) (r : RedGroup) : State := { s with reds := mput s.reds k r }

/-- Grains for a number of bytes (10_scheduling.md R200). -/
def grainsFor (n : Nat) : Nat := (n + 511) / 512

/-- The quad's members have all contributed: their vectors leave the quad as its local contribution and their mailboxes are
released (R153, R337). -/
def State.redLeave (s : State) (k : Nat) (t : Team) (qn : Nat) : State :=
  match mfind s.reds k with
  | none => s
  | some r =>
    let ms := r.inQuad t qn
    if !ms.all (mhas r.vecs) then s
    else
      let local_ := sumVecs (ms.map fun m => mget r.vecs m [])
      let mine := fun (p : Nat × QCmd) => nQn p.2.core == qn
      let s := s.setRed k { r with locs := mput r.locs qn local_, pend := r.pend.filter fun p => !mine p }
      (r.pend.filter mine).foldl (fun s p => s.mailbox p.1 p.2 0 0) s

/-- An ERED whose words are in order, for a group that its node declares: reads its vector and leaves the head. -/
def State.eredRun (s : State) (c : QCmd) (k : Nat) (r : RedGroup) (t : Team) : State :=
  let q := s.curQ
  let rank := t.rank c.core
  let n := Cmd.redCount c.c * eredSize c.c
  if mhas r.vecs rank then s
  else
    let p := s.prog q
    let need := grainsFor n - p.k
    let (s, got) := s.grains (nField (qName q)) (coreUnit (qName q) 17) c.ref need
    let s := s.setProg q { p with k := p.k + got }
    if got < need then s
    else match s.engRead q c ⟨0, 0, w64 (localBase + Cmd.redSrc c.c), 0, []⟩ n with
      | .error s => s
      | .ok (s, bs) =>
        let r := { r with vecs := mput r.vecs rank (bytesElems (eredSize c.c) bs), pend := r.pend ++ [(q, c)] }
        ((s.setRed k r).popCmd q).redLeave k t (nQn c.core)

/-- ERED: contributes the core's vector to the round (log 28). -/
def execEred (_c : Cmd) (s : State) : Res :=
  .next <| s.checked eredOk fun c =>
    let bad := s.cmdTrap s.curQ c 1 0
    match c.ref, (s.core c.core).team with
    | some ref, some t =>
      match mfind s.reds (redKey ref (bits c.c.w1 35 32)) with
      | none => bad
      | some r =>
        let rank := t.rank c.core
        if rank < r.first || rank > r.last || r.count != Cmd.redCount c.c then bad
        else s.eredRun c (redKey ref (bits c.c.w1 35 32)) r t
    | _, _ => bad

/-! ## Routers and the root (R70, R153, R154) -/

/-- The team that runs a node. -/
def State.nodeTeam (s : State) (r : NodeRef) : Option Team :=
  (s.node? r).bind fun n => match n.place with
    | .team tq0 ty0 tw th => some ⟨r, tq0, ty0, tw, th⟩
    | _ => none

/-- The node of a reduction group's key. -/
def redRef (k : Nat) : NodeRef := ⟨k / 16 / 4096, k / 16 % 4096⟩

/-- The fault of a root's store at byte `off` of dst, or of the done word past it. -/
def redFault (k : Nat) (r : RedGroup) (root n off : Nat) : GenFault :=
  { owner := .red k, ref := some (redRef k), wafer := nWafer root, cls := 2, agent := 4 * nQuad root, gen := 0, stream := 1,
    va := if off < n then r.dst + w64 off else r.done + w64 (off - n), ty := 1, acc := 1, ctrs := [] }

/-- Whose addresses a root's store translates: the root core's. -/
def State.redWho (s : State) (k root : Nat) : Who :=
  ⟨engGid (queueKey root 2 0) 4, nWafer root, nField root, some (nQuad root), s.refAsid (redRef k), (s.core root).priv⟩

/-- The root stores the round's result, then the done word as a release of its quad's network engine at the group's scope; the next round
then begins (R154). -/
def State.redStore (s : State) (k : Nat) (r : RedGroup) (root : Nat) (v : List (W32 × Bool)) : State :=
  let put := fun (s : State) (d : Drain) => s.setRed k { r with drain := d }
  let bs := elemBytes v
  let i : WInfo := ⟨3, 2, 4 * nQuad root, false, 0⟩
  if r.drain.put < bs.length then s.drainStep put (s.redWho k root) (redFault k r root bs.length) r.dst bs i none r.drain
  else if r.drain.put < bs.length + 8 then
    let d := { r.drain with put := r.drain.put - bs.length }
    s.drainStep (fun s d => put s { d with put := d.put + bs.length }) (s.redWho k root)
      (fun o => redFault k r root bs.length (o + bs.length)) r.done (natRun 8 r.round false) i
      (some ⟨.engine (nQuad root), r.sc⟩) d
  else s.setRed k { r with round := r.round + 1, vecs := [], locs := [], outs := [], drain := resetDrain }

/-- RED_ROUTER_ADD: the router beside quad `node` adds once every child and its local contribution have delivered, and the root
stores its round. -/
def execRedRouterAdd (grp node : Nat) (s : State) : Res :=
  .next <| match mfind s.reds grp, s.nodeTeam (redRef grp) with
    | some r, some t =>
      let root := t.coreOf (shWafer (redRef grp).sheaf) r.root
      if !s.partRuns (shPartKey (redRef grp).sheaf) then s
      else if mhas r.outs node then
        if node = nQn root then s.redStore grp r root (mget r.outs node []) else s
      else
        let kids := r.children t node
        let mine := !(r.inQuad t node).isEmpty
        if !kids.all (mhas r.outs) || (mine && !mhas r.locs node) || (kids.isEmpty && !mine) then s
        else
          let ins := kids.map (fun k => mget r.outs k []) ++ (if mine then [mget r.locs node []] else [])
          s.setRed grp { r with outs := mput r.outs node (sumVecs ins) }
    | _, _ => s

/-! ## CRED (R327, R328) -/

/-- The checks of CRED that its words alone decide. -/
def credOk (q : QCmd) : Bool :=
  let c := q.c
  Cmd.fmt c == 7 && Cmd.flg c == 0 && bits c.w1 63 56 == 0 && bits c.w1 1 0 == 0 && bits c.w2 63 17 == 0 && bits c.w3 63 18 == 0

/-- Puts back a CRED group. -/
def State.setCred (s : State) (k : Nat) (g : CredG) : State := { s with creds := mput s.creds k g }

/-- Puts back a wafer's part in a CRED group. -/
def State.setCredW (s : State) (k w : Nat) (p : CredW) : State :=
  match mfind s.creds k with
  | some g => s.setCred k { g with parts := mput g.parts w p }
  | none => s

/-- The CRED group that a command names: its key, if the launch declares it and this wafer takes part in it. -/
def State.credOf (s : State) (q : Nat) (c : QCmd) : Option (Nat × CredG) :=
  match c.ref with
  | none => none
  | some r =>
    match (mfind s.sheaves r.sheaf).bind (·.pod) with
    | none => none
    | some p =>
      let k := p * 2 ^ 16 + bits c.c.w2 15 0
      match mfind s.creds k with
      | none => none
      | some g => if bitAt g.wafers (nWafer (qName q)) && bits c.c.w2 16 16 = g.placement then some (k, g) else none

/-- Bytes of a CRED group's vector. -/
def CredG.bytes (g : CredG) : Nat := 4 * (g.count + 1)

/-- Sets a destination to +0, page by page, as the edge fabric of controller m writes (R329). -/
def State.zeroDst (s : State) (w m asid : Nat) (va : W64) (n : Nat) : Nat → State
  | 0 => s
  | k + 1 =>
    if n = 0 then s
    else
      let len := pieceLen va n
      let s := match s.hwVa w asid va len 1 with
        | .ok pa => s.write pa (List.replicate len (0, false)) ⟨3, 5, w * 2 ^ 15 + m, s.traced w asid va, 0⟩
        | .error _ => s
      State.zeroDst s w m asid (va + w64 len) (n - len) k

/-- The address space that a physically addressed access names: none (R329; 04_memory.md R84 has 1,024). -/
def physAsid : Nat := 1024

/-- A contribution at the memory edge: the home's own CRED zeroes the destination; then the vector goes to the home slot as window
writes, and the mailbox is released when all have performed (R329). -/
def State.credEdge (s : State) (q : Nat) (c : QCmd) (k : Nat) (g : CredG) (p : CredW) (slot : Nat × Nat) (bs : List (Byte × Bool)) : State :=
  let w := nWafer (qName q)
  let r := p.sent + 1
  let pr := s.prog q
  if !g.bound then s
  else if g.zeroed < r then
    if w = g.home && g.parts.all (fun x => x.2.released + 1 ≥ r) then
      (s.zeroDst w (slot.1 % 64) p.asid p.dst g.bytes (g.bytes / 4096 + 2)).setCred k { g with zeroed := r }
    else s
  else if pr.put ≥ bs.length then (s.setCredW k w { p with sent := r, sender := none }).cmdDone q c 0
  else if pr.view then s
  else
    let len := min 512 (bs.length - pr.put)
    (s.setProg q { pr with view := true }).enterView g.home (slot.1 % 64) slot.2
      ⟨.queue q, w, physAsid, pr.put, len, some ((bs.drop pr.put).take len), 0, [], 0, []⟩

/-- The offsets of the flits of a vector of `n` elements (R156, R330). -/
def flitOffsets (n : Nat) : List Nat := (List.range ((n + 55) / 56)).map (· * 56)

/-- The 56 elements of a flit from element `off` on, +0 beyond the vector's end (R330). -/
def flitElems (v : List W32) (off : Nat) : List W32 := (List.range 56).map fun i => nth v (off + i) 0

/-- The 32-byte header of a flit (R156). -/
def RedFlit.header (f : RedFlit) : List Byte :=
  ((natRun 2 f.group false ++ natRun 4 f.round false ++ natRun 4 f.off false ++ natRun 1 f.sender false).map (·.1))
    ++ List.replicate 21 0

/-- The bytes of a flit as the Fareno port takes it: the header and 56 FP32 elements (R156). -/
def RedFlit.bytes (f : RedFlit) : List Byte := f.header ++ (f.els.flatMap fun e => (natRun 4 e.toNat false).map (·.1))

/-- The flits of a wafer's vector in a round (R330). -/
def credFlits (g : CredG) (w r : Nat) (v : List W32) : List RedFlit :=
  (flitOffsets (g.count + 1)).map fun o => ⟨g.gid, r, o, w, flitElems v o⟩

/-- The numbers of the poisoned elements of a vector. -/
def poisonedElems (v : List (W32 × Bool)) : List Nat := (List.range v.length).filter fun i => (nth v i (0, false)).2

/-- A contribution to the switch: the flits go out, and the mailbox is released once the port has them (R330). A flit has no place for a
poison mark: the elements sent poisoned are kept by round, and poison their sums (R328; log 98). -/
def State.credSwitch (s : State) (q : Nat) (c : QCmd) (k : Nat) (g : CredG) (p : CredW) (bs : List (Byte × Bool)) : State :=
  let w := nWafer (qName q)
  let r := p.sent + 1
  let v := bytesElems 4 bs
  let marks := mput g.marks r ((poisonedElems v).foldl sput (mget g.marks r []))
  let p := { p with sent := r, sender := none, flits := credFlits g w r (v.map (·.1)), got := [] }
  (s.setCred k { g with marks := marks, parts := mput g.parts w p }).cmdDone q c 0

/-- Another queue of the wafer whose command at the head contributes to the group's next round: each wafer contributes one vector to a
round (R328). -/
def State.credHolder (s : State) (q k : Nat) (p : CredW) : Option Nat :=
  p.sender.filter fun h => h != q && ((s.headCmd h).bind (s.credOf h)).any (·.1 == k)

/-- CRED: contributes this wafer's vector to its next round. -/
def execCred (_c : Cmd) (s : State) : Res :=
  .next <| s.checked credOk fun c =>
    let q := s.curQ
    match s.credOf q c with
    | none => s.cmdTrap q c 1 0
    | some (k, g) =>
      let w := nWafer (qName q)
      let p := mget g.parts w resetCredW
      if g.placement = 0 && g.slot.isNone then s.cmdDone q c 0x14
      else if g.placement = 1 && !(s.wafer w).switchRed then s.cmdDone q c 0x14
      else if p.sent != p.released || (s.credHolder q k p).isSome then s
      else
        let p := { p with sender := some q }
        let s := s.setCredW k w p
        let pr := s.prog q
        let need := grainsFor g.bytes - pr.k
        let (s, got) := s.grains (nField (qName q)) (coreUnit (qName q) 17) c.ref need
        let s := s.setProg q { pr with k := pr.k + got }
        if got < need then s
        else match s.engRead q c ⟨0, 0, w64 (bits c.c.w1 55 0), 0, []⟩ g.bytes with
          | .error s => s
          | .ok (s, bs) =>
            match g.slot with
            | some sl => if g.placement = 0 then s.credEdge q c k g p sl bs else s.credSwitch q c k g p bs
            | none => s.credSwitch q c k g p bs

end Sys2Proof.Machine
end

