-- ==== Sys2Proof/Machine/Fabric.lean ====
section
/-! DEFINITION. Fabrics (08_fabric.md; 09_edge.md R179; 19_prog_recursion.md R304): the places of cells, routers and generators,
their words and the checks of them, channels with demand, and configuration images.

A fabric is named by 2 × residency or by 2 × controller + 1. In a fabric the cell idx of island isl, a PE or a LUT cell, is site
isl × 160 + idx, where LUT cell n has idx 144 + n (in an edge fabric 48 + n); its router is site 4096 + that; generator g of
island isl is site 8192 + isl × 8 + g. -/

namespace Sys2Proof.Machine

/-! ## Places (R160, R166; R179, R304) -/

/-- The kind of a site: 0 cell, 1 router, 2 generator. -/
def siteKind (site : Nat) : Nat := site / 4096

/-- The router of a cell. -/
def rtSite (c : Nat) : Nat := 4096 + c

/-- Generator g of an island. -/
def genSite (isl g : Nat) : Nat := 8192 + isl * 8 + g

/-- The island of a site. -/
def siteIsl (site : Nat) : Nat := if siteKind site = 2 then (site - 8192) / 8 else site % 4096 / 160

/-- The cell whose router ports a site's selectors name (R160, R373). -/
def siteCell (site : Nat) : Nat :=
  if siteKind site = 2 then (site - 8192) / 8 * 160 + (site - 8192) % 8 else site % 4096

/-- Whether the cell idx of an island or edge fabric is a LUT cell. -/
def isLut (ef : Bool) (c : Nat) : Bool := if ef then c ≥ 48 else c % 160 ≥ 144

/-- Where a port leads: to the opposite port of another router, to the return port of an edge slot, or outside. -/
inductive Dest where
  | port (cell p : Nat)
  | ret
  | out
  deriving DecidableEq, Repr

/-- Where port p (0 north, 1 east, 2 south, 3 west) of a router leads in an edge fabric. R304 places routers 48 to 63 west and east of the PE rows
and joins them to nothing else: their other ports lead outside (DESIGN CHOICE, log 123). -/
def nbrEdge (c p : Nat) : Dest :=
  if c < 48 then
    match p with
    | 0 => if c < 42 then .port (c + 6) 2 else .ret
    | 1 => if c % 6 < 5 then .port (c + 1) 3 else .port (56 + c / 6) 3
    | 2 => if c ≥ 6 then .port (c - 6) 0 else .out
    | _ => if c % 6 > 0 then .port (c - 1) 1 else .port (48 + c / 6) 1
  else if c < 56 then (if p = 1 then .port ((c - 48) * 6) 3 else .out)
  else if p = 3 then .port ((c - 56) * 6 + 5) 1 else .out

/-- Where port p of a router leads in a region of h islands. -/
def nbrIsland (h c p : Nat) : Dest :=
  let isl := c / 160
  let i := c % 160
  let b := isl * 160
  if i < 144 then
    match p with
    | 0 => if i < 132 then .port (c + 12) 2 else if isl + 1 < h then .port (b + 160 + i % 12) 2 else .out
    | 1 => if i % 12 < 11 then .port (c + 1) 3 else .port (b + 144 + i / 12) 3
    | 2 => if i ≥ 12 then .port (c - 12) 0 else if isl > 0 then .port (b - 160 + 132 + i) 0 else .out
    | _ => if i % 12 > 0 then .port (c - 1) 1 else if i / 12 % 3 = 0 then .port (b + 156 + i / 36) 1 else .out
  else if i < 156 then
    match p with
    | 0 => if i < 155 then .port (c + 1) 2 else if isl + 1 < h then .port (b + 160 + 144) 2 else .out
    | 2 => if i > 144 then .port (c - 1) 0 else if isl > 0 then .port (b - 160 + 155) 0 else .out
    | 3 => .port (b + (i - 144) * 12 + 11) 1
    | _ => .out
  else if p = 1 then .port (b + (i - 156) * 36) 3 else .out

/-- Where port p of a router leads. -/
def nbr (ef : Bool) (h c p : Nat) : Dest := if ef then nbrEdge c p else nbrIsland h c p

/-! ## Fields of a cell word (R159, R260) -/

/-- op. -/
def wOp (w : W64) : Nat := bits w 63 56
/-- ia. -/
def wIa (w : W64) : Nat := bits w 55 52
/-- ib. -/
def wIb (w : W64) : Nat := bits w 51 48
/-- ic. -/
def wIc (w : W64) : Nat := bits w 47 44
/-- omask. -/
def wOmask (w : W64) : Nat := bits w 43 40
/-- Copies. -/
def wRep (w : W64) : Nat := bits w 39 34 + 1
/-- bm. -/
def wBm (w : W64) : Nat := bits w 33 32
/-- fn. -/
def wFn (w : W64) : Nat := bits w 11 8
/-- sat. -/
def wSat (w : W64) : Bool := bitAt w 7
/-- rnd. -/
def wRnd (w : W64) : Nat := bits w 6 4
/-- ty. -/
def wTy (w : W64) : Nat := bits w 3 0

/-- The ports set in a mask. -/
def maskPorts (m : Nat) : List Nat := (List.range 4).filter fun n => m.testBit n

/-- The inputs that an operator reads (R160). -/
def wInputs (w : W64) : List Nat :=
  match wOp w with
  | 0x01 => [wIa w]
  | 0x13 => [wIa w, wIb w, wIc w]
  | 0x19 => [wIa w]
  | 0x1A => [wIa w]
  | 0x20 => [wIa w]
  | 0x30 => if wIb w = 0xF then [wIa w] else [wIa w, wIb w]
  | 0x31 => if wIb w = 0xF then [wIa w] else [wIa w, wIb w]
  | 0x32 => if wIb w = 0xF then [wIa w] else [wIa w, wIb w]
  | _ => [wIa w, wIb w]

/-! ## Checks of words (R159 to R165, R259, R260, R320 to R325, R331, R371 to R383) -/

/-- No router-port code stands in two selectors of one word (R160). -/
def portsOnce (sels : List Nat) : Bool := noneTwice (sels.filter (· ≤ 3))

/-- A type code that a fabric operator takes. -/
def wTyOk (t : Nat) : Bool := t ≠ 6 && t ≠ 0xF

/-- The prm of an arithmetic or logic operator (R260). -/
def prmOk (w : W64) : Bool :=
  let op := wOp w
  bits w 15 12 == 0 && wTyOk (wTy w)
    && (match op with
      | 0x16 => wFn w ≤ 3
      | 0x17 => wFn w ≤ 3
      | 0x18 => wFn w ≤ 3
      | 0x19 => wTyOk (wFn w)
      | 0x1A => wFn w ≤ 1
      | _ => wFn w == 0)
    && (op == 0x19 || !wSat w)
    && (match op with
      | 0x16 => wRnd w == 0
      | 0x17 => wRnd w == 0
      | 0x18 => wRnd w == 0
      | 0x19 => wRnd w ≤ 4
      | _ => wRnd w ≤ 3)
    && (op ≠ 0x17 && op ≠ 0x18 || !typeFloat (wTy w))

/-- The types that a generator, PLD or PST moves (R373). -/
def memTyOk (t : Nat) : Bool := wTyOk t && t ≠ 5

/-- Operators that call or request, which an edge fabric does not take (R322). -/
def isCall (op : Nat) : Bool := op == 0x30 || op == 0x31 || op == 0x32

/-- The selectors of a PE word: those it reads name a source and the others are 0xF. -/
def selsOk (w : W64) : Bool :=
  let ins := wInputs w
  let all := [wIa w, wIb w, wIc w]
  ins.all (· ≠ 0xF) && (all.drop ins.length).all (· == 0xF) && portsOnce all

/-- A PE's cell word. PLD and PST have no constant (R379, R383): selector 0xE names no source of theirs, and their word breaks R160
(DESIGN CHOICE, log 106). -/
def peWordOk (ef : Bool) (w : W64) : Bool :=
  let op := wOp w
  selsOk w && wBm w ≤ 2
    && (if 0x10 ≤ op && op ≤ 0x1A then prmOk w
        else if op = 0x20 then bits w 31 4 == 0 && memTyOk (wTy w) && wIa w ≠ 0xE
        else if op = 0x21 then bits w 31 4 == 0 && memTyOk (wTy w) && wIa w ≠ 0xE && wIb w ≠ 0xE
        else if isCall op then
          !ef && wIa w ≠ 0xE && wIb w ≠ 0xE && wRep w == 1
            && (if op = 0x30 then bits w 31 8 == 0
                else if op = 0x31 then bits w 31 0 == 0 && wOmask w == 0
                else bits w 31 12 == 0)
        else false)

/-- A LUT cell's word (R165). PLUT has no constant: selector 0xE names no source of it (DESIGN CHOICE, log 106). -/
def lutWordOk (w : W64) : Bool :=
  wOp w == 1 && wIa w ≤ 0xD && bits w 51 44 == 0 && bits w 39 32 == 0 && bits w 31 4 == 0

/-- dir of a PAG word. -/
def gDir (w : W64) : Nat := bits w 31 30
/-- Loop levels. -/
def gLv (w : W64) : Nat := bits w 29 27 + 1
/-- Element type. -/
def gTy (w : W64) : Nat := bits w 26 23
/-- gx. -/
def gGx (w : W64) : Bool := bitAt w 22

/-- A generator's words (R373). -/
def genWordsOk (ws : List W64) : Bool :=
  let w := nth ws 0 0
  wOp w == 2 && wIc w == 0xF && bits w 43 32 == 0 && gDir w ≤ 1 && bits w 29 27 ≤ 5 && memTyOk (gTy w) && bits w 21 0 == 0
    && (if gDir w = 1 then wIa w ≤ 0xD else wIa w == 0) && (if gGx w then wIb w ≤ 0xD else wIb w == 0)
    && !(gDir w = 1 && gGx w && wIa w ≤ 3 && wIa w = wIb w)
    && bits (nth ws 1 0) 63 56 == 0 && (ws.drop 2).all fun l => bits l 63 32 != 0

/-- The ports of a router word: p0, p1, p2, p3. -/
def rtPorts (w : W64) : List Nat := [bits w 27 24, bits w 23 20, bits w 19 16, bits w 15 12]

/-- Whether position i of a router word of op is an input (R164). -/
def rtIsIn (op i : Nat) : Bool :=
  match op, i with
  | 0, 0 => true
  | 0, _ => false
  | 1, 0 => true
  | 1, 1 => true
  | 1, _ => false
  | _, 2 => false
  | 3, 3 => false
  | _, _ => true

/-- Whether position i of a router word may hold 0xF. -/
def rtMayNone (op i : Nat) : Bool :=
  match op, i with
  | 0, 0 => false
  | 0, _ => true
  | 1, 3 => true
  | 3, 3 => true
  | _, _ => false

/-- A router word (R164, R320, R321, R344, R364, R390). -/
def rtWordOk (w : W64) : Bool :=
  let op := bits w 31 28
  let ps := rtPorts w
  bits w 63 32 == 0 && op ≤ 4 && bits w 11 0 == 0 && (op ≠ 3 || nth ps 3 0 == 0xF)
    && noneTwice (ps.filter (· ≠ 0xF))
    && (List.range 4).all fun i =>
      let p := nth ps i 0
      p ≤ 3 || (p == 4 && rtIsIn op i) || (p == 0xF && rtMayNone op i)

/-- An output edge word and an input edge word (R161). -/
def outEdgeOk (e : W64) : Bool := bits e 40 0 == 0
/-- An input edge word. -/
def inEdgeOk (e : W64) : Bool := bits e 63 1 == 0

/-- The edge words of a PE word are in order. -/
def edgesOk (ws : List W64) : Bool :=
  let w := nth ws 0 0
  let outs := if wBm w = 0 then 0 else (maskPorts (wOmask w)).length
  ((ws.drop 1).take outs).all outEdgeOk && (ws.drop (1 + outs)).all inEdgeOk

/-- The words that a record's first word calls for (R161, R165, R167, R373). -/
def wordsFor (kind : Nat) (w : W64) : Nat :=
  match kind with
  | 0 => 1 + (if wBm w = 0 then 0 else (maskPorts (wOmask w)).length)
      + (if wBm w = 2 then ([wIa w, wIb w, wIc w].filter (· ≠ 0xF)).length else 0)
  | 1 => 5
  | 2 => 1
  | _ => gLv w + 2

/-- A record as it reaches its cell (R167, R259): its kind and words. -/
def recordOk (ef : Bool) (kind : Nat) (ws : List W64) : Bool :=
  let w := nth ws 0 0
  ws.length == wordsFor kind w && (match kind with
    | 0 => peWordOk ef w && edgesOk ws
    | 1 => lutWordOk w
    | 2 => rtWordOk w
    | _ => genWordsOk ws)

/-! ## Images (R167) -/

/-- The site of a placement word, if it is in range. -/
def siteOf (ef : Bool) (h : Nat) (p : W64) : Option Nat :=
  let isl := bits p 59 56
  let idx := bits p 55 48
  let pes := if ef then 48 else 144
  let cells := if ef then 64 else 160
  if isl ≥ h || bits p 43 0 != 0 || bits p 47 44 = 0 || bits p 47 44 > 8 then none
  else match bits p 63 60 with
    | 0 => if idx < pes then some (isl * 160 + idx) else none
    | 1 => if idx < 16 then some (isl * 160 + pes + idx) else none
    | 2 => if idx < cells then some (4096 + isl * 160 + idx) else none
    | 3 => if idx < 8 then some (genSite isl idx) else none
    | _ => none

/-- The site under which a bad placement word stands in a list of records. -/
def badSite : Nat := 2 ^ 16

/-- The records of an image, as site and words, a bad placement word's as `badSite`; one that does not say where the next record stands
ends the list. None where a word cannot be read: the whole image is read first (R169). -/
def State.readImage (s : State) (wf asid : Nat) (ef : Bool) (h : Nat) (va : W64) : Nat → Option (List (Nat × List W64))
  | 0 => some [(badSite, [])]
  | k + 1 =>
    match s.hwRead wf asid va with
    | none => none
    | some p =>
      let n := bits p 47 44
      if bits p 63 60 = 0xF then (if p = w64 (0xF * 2 ^ 60) then some [] else some [(badSite, [])])
      else if n = 0 || n > 8 then some [(badSite, [])]
      else match s.hwReads wf asid (va + 8) n with
        | none => none
        | some ws =>
          match s.readImage wf asid ef h (va + 8 + w64 (8 * n)) k with
          | none => none
          | some r => some (((siteOf ef h p).getD badSite, ws) :: r)

/-- Records that an image holds at most: R167 sets no bound, and one with more is a format trap (DESIGN CHOICE, log 107). -/
def imageFuel : Nat := 8192

/-- The kind of record that a site takes. -/
def recordKind (ef : Bool) (site : Nat) : Nat :=
  if siteKind site = 1 then 2 else if siteKind site = 2 then 3 else if isLut ef site then 1 else 0

/-- A cell as its words find it. -/
def cellOf (ws : List W64) : Cell := { resetCell with words := ws }

/-! ## Checks across words (R159, R160, R163) -/

/-- The first word of a site. -/
def Plane.word (p : Plane) (site : Nat) : W64 := nth (p.cell site).words 0 0

/-- The copies of a replicated PE word by their sites, in ascending PE order (R163): the count runs on into the next island. -/
def copySite (ef : Bool) (site k : Nat) : Nat :=
  if ef then site + k
  else
    let n := site / 160 * 144 + site % 160 + k
    n / 144 * 160 + n % 144

/-- Copies of the operator of a site: those of a PE's word (R163). -/
def Plane.copies (p : Plane) (ef : Bool) (site : Nat) : Nat :=
  if siteKind site = 0 && !isLut ef site && mhas p.cells site then wRep (p.word site) else 1

/-- The site whose word the copy at a site follows. -/
def Plane.baseOf (p : Plane) (ef : Bool) (x : Nat) : Nat :=
  if mhas p.cells x then x
  else ((p.cells.find? fun e => (List.range (p.copies ef e.1)).any fun i => copySite ef e.1 i == x).map (·.1)).getD x

/-- The router ports that a site claims as inputs, as channel numbers (R160). -/
def Plane.claims (p : Plane) (site : Nat) : List Nat :=
  let w := p.word site
  let c := siteCell site
  let sels := match siteKind site with
    | 1 => (List.range 4).filterMap fun i => if rtIsIn (bits w 31 28) i then some (nth (rtPorts w) i 0xF) else none
    | 2 => (if gDir w = 1 then [wIa w] else []) ++ (if gGx w then [wIb w] else [])
    | _ => wInputs w
  (sels.filter (· ≤ 3)).map (c * 16 + ·)

/-- The ports on which a site sends. -/
def Plane.ports (p : Plane) (site : Nat) : List Nat :=
  let w := p.word site
  match siteKind site with
  | 1 => (List.range 4).filterMap fun i =>
      if rtIsIn (bits w 31 28) i || nth (rtPorts w) i 0xF > 3 then none else some (nth (rtPorts w) i 0xF)
  | 2 => []
  | _ => maskPorts (wOmask w)

/-- A port leads to a router inside whose cell, if a LUT cell, has a word; or to the return port. -/
def Plane.portOk (p : Plane) (ef : Bool) (h c n : Nat) : Bool :=
  match nbr ef h c n with
  | .out => false
  | .ret => true
  | .port d _ => !isLut ef d || mhas p.cells d

/-- The copies of a PE word lie on PEs of the region without words of their own. -/
def Plane.repOk (p : Plane) (ef : Bool) (h site : Nat) : Bool :=
  let n := wRep (p.word site)
  siteKind site != 0 || isLut ef site || n == 1 ||
    ((if ef then site + n ≤ 48 else site / 160 * 144 + site % 160 + n ≤ 144 * h)
      && ((List.range n).drop 1).all fun k => !mhas p.cells (copySite ef site k))

/-- The first of some sites whose word breaks a rule that spans words. R159 speaks of ports that results leave on: an input port that leads
outside the region is no trap, and nothing ever comes on it (DESIGN CHOICE, log 106). -/
def Plane.firstBad (p : Plane) (ef : Bool) (h : Nat) (sites : List Nat) : Option Nat :=
  let all := p.cells.flatMap fun e => p.claims e.1
  let copies := p.cells.flatMap fun e =>
    if siteKind e.1 = 0 && !isLut ef e.1 then (List.range (wRep (p.word e.1))).map (copySite ef e.1) else []
  sites.find? fun site =>
    (p.claims site).any (fun c => (all.filter (· == c)).length > 1)
      || !(p.ports site).all (p.portOk ef h (siteCell site))
      || !p.repOk ef h site
      || (siteKind site = 0 && (copies.filter (· == site)).length > 1)

/-! ## Channels and demand (R162) -/

/-- The channel that selector `sel` of a site reads. -/
def chanOf (site sel : Nat) : Nat := if sel ≤ 3 then siteCell site * 16 + sel else site * 16 + sel

/-- The selectors that a site reads, beside its router ports: streams and ports (R160). -/
def Plane.sources (p : Plane) (site : Nat) : List Nat :=
  let w := p.word site
  match siteKind site with
  | 1 => []
  | 2 => (if gDir w = 1 then [wIa w] else []) ++ (if gGx w then [wIb w] else [])
  | _ => wInputs w

/-- The sites that read a selector in an island. -/
def Plane.readers (p : Plane) (isl sel : Nat) : List Nat :=
  (p.cells.filter fun e => siteIsl e.1 == isl && (p.sources e.1).contains sel).map (·.1)

/-- The sites of a plane that read a selector, in any island. -/
def Plane.anyReaders (p : Plane) (sel : Nat) : List Nat := (p.cells.filter fun e => (p.sources e.1).contains sel).map (·.1)

/-- An output: the channel it enters (none: the return port), and its edge's scale, rel mark and burst length (R161). -/
structure OutP where
  ch : Option Nat
  scale : BitVec 16
  rel : Bool
  blen : Nat

/-- A scale of 1.0. -/
def scaleOne : BitVec 16 := 0x3F80

/-- An output with no edge word. -/
def plainOut (ch : Option Nat) : OutP := ⟨ch, scaleOne, false, 1⟩

/-- Whether a cell's router word names the cell's result as an input (R164). -/
def Plane.tapped (p : Plane) (c : Nat) : Bool :=
  mhas p.cells (rtSite c) && (List.range 4).any fun i =>
    rtIsIn (bits (p.word (rtSite c)) 31 28) i && nth (rtPorts (p.word (rtSite c))) i 0xF == 4

/-- Where a port's tokens go. -/
def portOut (ef : Bool) (h c n : Nat) : Option (Option Nat) :=
  match nbr ef h c n with
  | .port d q => some (some (d * 16 + q))
  | .ret => some none
  | .out => none

/-- The outputs of a cell. -/
def Plane.cellOuts (p : Plane) (ef : Bool) (h site : Nat) : List OutP :=
  let ws := (p.cell site).words
  let w := nth ws 0 0
  let ports := maskPorts (wOmask w)
  let outs := (List.range ports.length).filterMap fun i =>
    (portOut ef h site (nth ports i 0)).map fun ch =>
      if wBm w = 0 || isLut ef site then plainOut ch
      else
        let e := nth ws (1 + i) 0
        ⟨ch, BitVec.ofNat 16 (bits e 63 48), bitAt e 41, bits e 47 42 + 1⟩
  outs ++ (if p.tapped site then [plainOut (some (site * 16 + 15))] else [])

/-- The output of a router on one of its port codes. -/
def rtOut (ef : Bool) (h c code : Nat) : List OutP :=
  if code > 3 then [] else ((portOut ef h c code).map plainOut).toList

/-- The outputs of a generator: every reader of its stream (R374). -/
def Plane.genOuts (p : Plane) (site : Nat) : List OutP :=
  (p.readers (siteIsl site) (4 + (site - 8192) % 8)).map fun r => plainOut (some (chanOf r (4 + (site - 8192) % 8)))

/-- Whether every consumer has requested one more element than the next `n`. -/
def Plane.room (p : Plane) (os : List OutP) (n : Nat) : Bool :=
  os.all fun o => match o.ch with
    | none => true
    | some k => n < (p.chan k).left + (p.chan k).dem * o.blen

/-- Whether every consumer has requested the next element. -/
def Plane.canEmit (p : Plane) (os : List OutP) : Bool :=
  os.all fun o => match o.ch with
    | none => true
    | some k => let c := p.chan k; c.left > 0 || c.dem > 0

/-- Whether a burst of `blen` finds the channel full: 4 bursts on chip, or tokens of its own in its ring (R162). -/
def Chan.full (c : Chan) (blen : Nat) : Bool := !c.ring.isEmpty || 3 * blen < c.toks.length

/-- A token enters behind the others, in the ring where its burst spills. -/
def Chan.put (c : Chan) (t : Tok) : Chan :=
  if c.spill && !c.toks.isEmpty then { c with ring := c.ring ++ [t] } else { c with toks := c.toks ++ [t] }

/-- A channel takes an element of a burst of `blen`: a granted burst that finds it full spills (R162), in an edge fabric, for which R92 and
R179 name no ring, to a ring that lies in no memory that an agent reaches (DESIGN CHOICE, log 38). -/
def Chan.take1 (c : Chan) (blen : Nat) (t : Tok) : Chan :=
  if c.left > 0 then { c.put t with left := c.left - 1 }
  else { { c with spill := c.full blen }.put t with dem := c.dem - 1, left := blen - 1 }

/-- A channel takes end-of-stream, which closes its burst. -/
def Chan.close (c : Chan) : Chan := { { c with spill := !c.ring.isEmpty }.put .eos with left := 0 }

/-- The first token leaves, and the oldest spilled one comes back (R162, R92). -/
def Chan.pop (c : Chan) : Chan :=
  match c.ring with
  | [] => { c with toks := c.toks.drop 1 }
  | t :: r => { c with toks := c.toks.drop 1 ++ [t], ring := r }

/-- Whether no token lies on a channel. -/
def Chan.idle (c : Chan) : Bool := c.toks.isEmpty && c.ring.isEmpty

/-- A token as it leaves on an output. -/
def OutP.mark (o : OutP) (t : Tok) : Tok :=
  match t with
  | .data v p _ _ n => .data v p o.scale o.rel n
  | .eos => .eos

/-- The slot of an edge fabric whose graph holds a site. -/
def Ctl.slotOf (c : Ctl) (site : Nat) : Option (Nat × EdgeSlot) := c.slots.find? fun e => e.2.sites.contains site

/-- A token reaches the return port of the slot that a site belongs to; the port absorbs end-of-stream (R304). -/
def State.toReturn (s : State) (k site : Nat) (t : Tok) : State :=
  match fabCtl k, t with
  | some c, .data _ _ _ _ _ =>
    match (s.ctl c).slotOf site with
    | some (sl, e) => s.setCtl c { s.ctl c with slots := mput (s.ctl c).slots sl { e with ret := e.ret ++ [t] } }
    | none => s
  | _, _ => s

/-- Sends a token on every output; `keep` leaves its scale and mark as they are, as a router does. -/
def State.emit (s : State) (k site : Nat) (os : List OutP) (keep : Bool) (t : Tok) : State :=
  os.foldl (fun s o =>
    let t := if keep then t else o.mark t
    match o.ch with
    | none => s.toReturn k site t
    | some ch =>
      let p := s.plane k
      s.setPlane k (p.setChan ch (match t with
        | .eos => (p.chan ch).close
        | _ => (p.chan ch).take1 o.blen t))) s

/-! ## Regions -/

/-- Whether a fabric is an edge fabric, and its islands. -/
def State.fabShape (s : State) (k : Nat) : Bool × Nat :=
  match fabCtl k with
  | some _ => (true, 1)
  | none => (false, ((mfind s.resids (k / 2)).map (·.h)).getD 0)

/-- Puts back a residency. -/
def State.setResid (s : State) (i : Nat) (r : Resid) : State := { s with resids := mput s.resids i r }

/-- Changes a residency. -/
def State.modResid (s : State) (i : Nat) (f : Resid → Resid) : State :=
  match mfind s.resids i with
  | some r => s.setResid i (f r)
  | none => s

/-- Changes the slot that a site of an edge fabric belongs to. -/
def State.modSlotOf (s : State) (c site : Nat) (f : EdgeSlot → EdgeSlot) : State :=
  match (s.ctl c).slotOf site with
  | some (sl, e) => s.setCtl c { s.ctl c with slots := mput (s.ctl c).slots sl (f e) }
  | none => s

/-- The node that a site works for. -/
def State.fabRef (s : State) (k site : Nat) : Option NodeRef :=
  match fabCtl k with
  | some c => ((s.ctl c).slotOf site).bind fun e => e.2.held
  | none => (mfind s.resids (k / 2)).map (·.ref)

/-- Wafer of a fabric. -/
def State.fabWafer (s : State) (k : Nat) : Nat :=
  match fabCtl k with
  | some c => c / 64
  | none => ((mfind s.resids (k / 2)).map (fun r => r.field / 128)).getD 0

/-- Whether a fabric is in strict mode at a site (R170, R183). -/
def State.fabStrict (s : State) (k site : Nat) : Bool :=
  match fabCtl k with
  | some c => (((s.ctl c).slotOf site).map (·.2.strict)).getD false
  | none => ((mfind s.resids (k / 2)).map (·.strict)).getD false

/-- Node column of a region's islands, and node row of island isl (R13, R15; 01_machine.md R18). -/
def Resid.nx (r : Resid) : Nat := r.field % 128 % 9 * 12 + 3 * r.col + 2
/-- Node row of an island of a region. -/
def Resid.ny (r : Resid) (isl : Nat) : Nat := r.field % 128 / 9 * 11 + r.row + isl

/-- The island number of an island of a region (04_memory.md R90). -/
def Resid.island (r : Resid) (isl : Nat) : Nat := r.ny isl * 36 + r.nx / 3

/-! ## Status words (R170, R183) -/

/-- The status word of a residency (R170). -/
def Resid.status (r : Resid) : W64 :=
  w64 (place r.cause 56 + place (b2n r.halt) 55 + place (b2n r.strict) 54 + place (b2n r.lenmis) 53 + place (b2n r.retd) 52
    + place r.planes.length 41 + place r.cc 33 + r.it % 2 ^ 32)

/-- Word 4 of a slot's descriptor (R183). -/
def EdgeSlot.word4 (e : EdgeSlot) : W64 :=
  w64 (place e.cause 56 + place (b2n e.halt) 55 + place (b2n e.extra) 54 + place (b2n e.lenmis) 53 + e.cnt.toNat)

/-- The address of a node's record (14_assembly.md R285). -/
def Sheaf.record (sh : Sheaf) (node : Nat) : W64 := w64 (bits (nth sh.hdr 4 0) 55 0) + w64 (64 + 32 * node)

/-- Address space of a sheaf. -/
def Sheaf.asid (sh : Sheaf) : Nat := bits (nth sh.part 1 0) 17 8

/-- The fabric manager rewrites a residency's status word in its node's record (R170). An instance of CREQ has no record. -/
def State.putStatus (s : State) (i : Nat) : State :=
  match mfind s.resids i with
  | none => s
  | some r =>
    if r.inst.isSome then s
    else match mfind s.sheaves r.ref.sheaf with
      | none => s
      | some sh =>
        (s.hwWrite (shWafer r.ref.sheaf) sh.asid (sh.record r.ref.node + 16) r.status).modNode r.ref fun n => { n with rstat := r.status }

/-- The hardware rewrites word 4 of a slot's descriptor (R183). A slot of a CRED group has no descriptor. -/
def State.putWord4 (s : State) (c sl : Nat) : State :=
  let e := mget (s.ctl c).slots sl resetSlot
  if e.bound && e.cred.isNone then s.hwWrite (c / 64) e.asid (e.desc + 32) e.word4 else s

/-- The cell idx of a site as events name it. -/
def siteIdx (site : Nat) : Nat := if siteKind site = 2 then (site - 8192) % 8 else site % 4096 % 160

/-- A configuration trap (11_faults.md R213): the residency or slot halts with its cause, and an event of kind 6 is posted. -/
def State.fabHalt (s : State) (k site cause : Nat) : State :=
  match fabCtl k with
  | some c =>
    match (s.ctl c).slotOf site with
    | none => s
    | some (sl, e) =>
      if e.halt then s
      else
        let e := { e with cause := cause, halt := true }
        let s := (s.setCtl c { s.ctl c with slots := mput (s.ctl c).slots sl e }).putWord4 c sl
        s.raiseEv (c / 64)
          { kind := 6, ref := e.held, words := [e.word4, w64 (c % 64), w64 (siteIdx site), 0, 0, 0], what := .other, core := none }
  | none =>
    match mfind s.resids (k / 2) with
    | none => s
    | some r =>
      if r.halt then s
      else
        let r := { r with cause := cause, halt := true }
        ((s.setResid (k / 2) r).putStatus (k / 2)).raiseEv (r.field / 128)
          { kind := 6, ref := some r.ref, words := [r.status, w64 (r.island (siteIsl site)), w64 (siteIdx site), 0, 0, 0],
            what := .other, core := none }

/-- lenmis is set (R171). -/
def State.setLenmis (s : State) (k site : Nat) : State :=
  match fabCtl k with
  | some c =>
    match (s.ctl c).slotOf site with
    | none => s
    | some (sl, e) =>
      if e.lenmis then s
      else (s.setCtl c { s.ctl c with slots := mput (s.ctl c).slots sl { e with lenmis := true } }).putWord4 c sl
  | none =>
    match mfind s.resids (k / 2) with
    | none => s
    | some r => if r.lenmis then s else (s.setResid (k / 2) { r with lenmis := true }).putStatus (k / 2)

end Sys2Proof.Machine
end

