-- ==== Sys2Proof/Machine/Cells.lean ====
section
/-! DEFINITION. Cells and routers at work (08_fabric.md R157 to R165, R171, R172; 20_ref_a_c.md R320, R321; 21_ref_d_l.md R344;
22_ref_m_s.md R364, R370 to R383, R390). The act of a copy of an operator is one step: it begins a firing, with its operands and its
grain, and ends it, or goes on with one that an access holds. The site is `curSite` of fabric `curRes`. -/

namespace Sys2Proof.Machine

/-! ## Whether a site may act -/

/-- The copy of an operator that acts: its fabric, the site of its word, its own site, its number among the copies, and how many there
are (R163). -/
structure Seat where
  k : Nat
  b : Nat
  x : Nat
  j : Nat
  n : Nat
  deriving DecidableEq, Repr

/-- The copy at a site of a fabric. -/
def State.seatAt (s : State) (k x : Nat) : Seat :=
  let ef := (s.fabShape k).1
  let b := (s.plane k).baseOf ef x
  let n := (s.plane k).copies ef b
  ⟨k, b, x, if n = 1 then 0 else ((List.range n).find? fun i => copySite ef b i == x).getD 0, n⟩

/-- The copy that the acting site names. -/
def State.seat (s : State) : Seat := s.seatAt s.curRes s.curSite

/-- Whether a copy has a firing to finish: its operands taken, or results to send. A call operator's firing waits for arbitration. -/
def State.under (s : State) (k b x : Nat) : Bool :=
  let l := s.lane k x
  !l.out.isEmpty || (l.on && !isCall (wOp ((s.plane k).word b)))

/-- Whether a fabric acts at the copy at `x` of the word at `b`: a residency whose word has arrived (R168), or a bound slot; no awn has
stopped the site (11_faults.md R218). Once it is halted, frozen or returning it only finishes firings (R174, R177; 11_faults.md R213). Only generators stop when
the partition's sources close, after their iteration (11_faults.md R214). -/
def State.fabRuns (s : State) (k b x : Nat) : Bool :=
  match fabCtl k with
  | some c =>
    match (s.ctl c).slotOf b with
    | some (_, e) => e.bound && !e.killed && (!e.halt || s.under k b x) && !(s.cell k b).awn
        && (siteKind b != 2 || (s.lane k x).on || (match e.held with
          | some r => s.partRuns (shPartKey r.sheaf)
          | none => true))
    | none => false
  | none =>
    match mfind s.resids (k / 2) with
    | some r =>
      (s.cell k b).ready && (!r.halt || s.under k b x) && !(s.cell k b).awn
        && (match r.st with
          | .running => true
          | .loading => true
          | .freezing y => y == b || s.under k b x
          | .returning y => y == b || s.under k b x
          | _ => false)
        && (match (s.part (shPartKey r.ref.sheaf)).st with
          | .run => true
          | .gating => siteKind b != 2 || (s.lane k x).on
          | .swapped => false)
    | none => false

/-! ## Inputs (R160, R172; R181, R185; 19_prog_recursion.md R304) -/

/-- Whether a selector is a port that several cells share. -/
def isPort (sel : Nat) : Bool := sel == 0xC || sel == 0xD

/-- The tokens at a shared port of a site: the message or access port, the call port or accumulate input. -/
def State.portToks (s : State) (k site sel : Nat) : List Tok :=
  match fabCtl k with
  | some c =>
    match (s.ctl c).slotOf site with
    | some (_, e) => if sel = 0xC then e.port else e.acin
    | none => []
  | none =>
    if sel = 0xC then ((mfind s.resids (k / 2)).map (·.msgs)).getD []
    else (s.plane k).call

/-- Puts back the tokens at a shared port. -/
def State.setPortToks (s : State) (k site sel : Nat) (ts : List Tok) : State :=
  match fabCtl k with
  | some c => s.modSlotOf c site fun e => if sel = 0xC then { e with port := ts } else { e with acin := ts }
  | none =>
    if sel = 0xC then s.modResid (k / 2) fun r => { r with msgs := ts }
    else s.setPlane k { s.plane k with call := ts }

/-- The token that stands at an input of a site. -/
def State.peek (s : State) (k site sel : Nat) : Option Tok :=
  if isPort sel then
    match ((s.plane k).chan (chanOf site sel)).toks with
    | t :: _ => some t
    | [] =>
      match s.portToks k site sel with
      | .data v p sc r n :: _ => some (.data v p sc r n)
      | _ => none
  else ((s.plane k).chan (chanOf site sel)).toks.head?

/-- Takes the token that stands at an input of a site. -/
def State.takeIn (s : State) (k site sel : Nat) : State :=
  let p := s.plane k
  let c := p.chan (chanOf site sel)
  if isPort sel && c.toks.isEmpty then s.setPortToks k site sel ((s.portToks k site sel).drop 1)
  else s.setPlane k (p.setChan (chanOf site sel) c.pop)

/-- End-of-stream at the head of the message or access port reaches every cell that reads it, and leaves the port
(22_ref_m_s.md R360). -/
def State.spreadEos (s : State) (k site : Nat) : State :=
  match s.portToks k site 0xC with
  | .eos :: rest =>
    let p := s.plane k
    let all := p.anyReaders 0xC
    let rs := match fabCtl k with
      | some c => match (s.ctl c).slotOf site with
        | some (_, e) => all.filter e.sites.contains
        | none => []
      | none => all
    if rs.isEmpty then s
    else
      let p := rs.foldl (fun p r => if (p.cell r).done then p else p.setChan (chanOf r 0xC) (p.chan (chanOf r 0xC)).close) p
      (s.setPlane k p).setPortToks k site 0xC rest
  | _ => s

/-- The inputs of a cell: position and selector of each that it reads, but for the constant. -/
def inputsOf (sels : List Nat) : List (Nat × Nat) :=
  ((List.range sels.length).map fun i => (i, nth sels i 0xF)).filter fun p => p.2 ≠ 0xE && p.2 ≠ 0xF

/-- The distinct selectors of some inputs: a token feeds every input that names its source (R160). -/
def distinct (ins : List (Nat × Nat)) : List Nat := ins.foldl (fun l p => if l.contains p.2 then l else l ++ [p.2]) []

/-- The tokens that stand at the distinct sources of some inputs, in their order. -/
def State.atHeads (s : State) (k site : Nat) (ins : List (Nat × Nat)) : List Tok := (distinct ins).filterMap fun x => s.peek k site x

/-- Takes one token from each source. -/
def State.takeAll (s : State) (k site : Nat) (sels : List Nat) : State := sels.foldl (fun s x => s.takeIn k site x) s

/-- The mark of a token that stems from what access n brought to its edge slot's graph; a mark that is even is of a token that a read made for
access n has given, and 0 of one that stems from no access (09_edge.md R181, R182; log 109). -/
def ownMark (n : Nat) : Nat := 2 * n + 1

/-- The mark of what a read made for access n gives. -/
def readMark (n : Nat) : Nat := 2 * n

/-- The mark of a token. -/
def Tok.tag : Tok → Nat
  | .data _ _ _ _ m => m
  | .eos => 0

/-- The number of the access to its edge slot that a token stems from, 0 for none. -/
def Tok.from (t : Tok) : Nat := t.tag / 2

/-- Whether a token stems from what an access brought. -/
def Tok.own (t : Tok) : Bool := t.tag % 2 == 1

/-- The mark of what stems from two tokens: the later of the accesses that brought one, else of those that one was read for. -/
def joinMark (a b : Nat) : Nat := if a % 2 = b % 2 then max a b else if a % 2 = 1 then a else b

/-- A token with a mark joined to its own. -/
def Tok.stamp (t : Tok) (m : Nat) : Tok :=
  match t with
  | .data v p sc r n => .data v p sc r (joinMark n m)
  | .eos => .eos

/-- A token that stems from some others too. -/
def Tok.after (t : Tok) (ts : List Tok) : Tok := ts.foldl (fun t x => t.stamp x.tag) t

/-- Whether a token is end-of-stream. -/
def Tok.isEos : Tok → Bool
  | .eos => true
  | _ => false

/-! ## The end of a cell's streams (R171) -/

/-- A cell that has sent end-of-stream drains its other inputs up to theirs, but for shared ports. `flag`: lenmis is set by each
token that is discarded. -/
def State.drainSite (s : State) (k site : Nat) (ins : List (Nat × Nat)) (flag : Bool) : State :=
  let c := s.cell k site
  let left := ins.filter fun p => !c.ended.testBit p.1 && !isPort p.2
  match left with
  | [] => s.setCell k site { c with done := c.left }
  | _ =>
    match left.find? fun p => (s.peek k site p.2).isSome with
    | none => s
    | some (i, sel) =>
      let eos := (s.peek k site sel).any (·.isEos)
      let same := ins.filter (·.2 == sel)
      let s := s.takeIn k site sel
      if eos then s.setCell k site { s.cell k site with ended := same.foldl (fun m p => m ||| 1 <<< p.1) (c.ended ||| 1 <<< i) }
      else if flag then s.setLenmis k site
      else s

/-- A cell ends: it takes the end-of-stream tokens that stand at its inputs and sends its own. -/
def State.endSite (s : State) (k site : Nat) (ins : List (Nat × Nat)) (os : List OutP) : State :=
  let eos := ins.filter fun p => (s.peek k site p.2).any (·.isEos)
  let s := s.takeAll k site (distinct eos)
  let c := s.cell k site
  let mask := eos.foldl (fun m p => m ||| 1 <<< p.1) c.ended
  let s := s.setCell k site { c with closed := true, left := true, ended := mask }
  s.emit k site os false .eos

/-- What the inputs of a cell say. -/
inductive InSt where
  | waits | fires | ends | mismatch
  deriving DecidableEq, Repr

/-- A cell fires when every input holds data; it ends when every input that is no shared port holds a token and one holds
end-of-stream; in strict mode end-of-stream on one input beside data on another is cause 4 at once (R158, R171). -/
def State.inputs (s : State) (k site : Nat) (ins : List (Nat × Nat)) : InSt :=
  let held := ins.map fun p => (p.2, s.peek k site p.2)
  if held.any fun p => p.2.any (·.isEos) then
    if s.fabStrict k site && held.any (fun p => !isPort p.1 && p.2.any fun t => !t.isEos) then .mismatch
    else if !held.all fun p => p.2.isSome || isPort p.1 then .waits
    else .ends
  else if held.all fun p => p.2.isSome then .fires
  else .waits

/-! ## Grains (R158) -/

/-- The field and grain unit of the PE of a site, none in an edge fabric (R179). -/
def State.peUnit (s : State) (k site : Nat) : Option (Nat × Nat) :=
  match fabCtl k with
  | some _ => none
  | none => (mfind s.resids (k / 2)).map fun r => (r.field, grainUnit r.nx (r.ny (siteIsl site)) (32 + site % 160))

/-- Draws the grain of a firing of the copy at `x`. -/
def State.payGrain (s : State) (k x : Nat) : State × Bool :=
  match s.peUnit k x with
  | none => (s, true)
  | some (f, u) =>
    let (s, ok) := s.grain f u (s.fabRef k x)
    if ok then (s.modResid (k / 2) fun r => { r with fired := true }, true) else (s, false)

/-! ## Operands (R64, R260, R370) -/

/-- An operand: its value and the 64 bits of its token. -/
structure Opnd where
  v : Fp
  raw : Nat
  bad : Bool

/-- The constant of a word as an operand of type `ty` (R260): a BF16 value, or the 64 bits of sext(konst, 64) as an integer, exactly (R370),
natural for a natural type (DEDUCED, log 108). -/
def konst (w : W64) (ty : Nat) : Opnd :=
  let k := bits w 31 16
  if typeFloat (wTy w) then ⟨fpRead 0 k, k, false⟩
  else
    let v := (sext64 k 16).toNat
    ⟨elemRead (if typeFloat ty || typeSigned ty then 0xA else 0xE) v, v, false⟩

/-- A token read as type `ty`: none where a scale other than 1.0 reaches an integer operand (R161). -/
def readOpnd (ty : Nat) (t : Tok) : Option Opnd :=
  match t with
  | .eos => some ⟨.fin false 0 0, 0, false⟩
  | .data v p sc _ _ =>
    if sc = scaleOne then some ⟨elemRead ty v.toNat, v.toNat, p⟩
    else if typeFloat ty then
      let x := (fpRead ty (v.toNat % 2 ^ typeBits ty)).mul (fpRead 0 sc.toNat)
      some ⟨fpRead 7 (fpRound 7 0 false 0 x), v.toNat, p⟩
    else none

/-- A result of type `ty` from its low bits (R370). -/
def extend (ty n : Nat) : W64 :=
  let b := typeBits ty
  if typeFloat ty || !typeSigned ty then w64 (n % 2 ^ b) else sext64 n b

/-- The tokens of a word's inputs out of those of its distinct sources. -/
def inputToks (w : W64) (ts : List Tok) : List Tok :=
  (wInputs w).map fun x => nth ts ((distinct (inputsOf (wInputs w))).idxOf x) .eos

/-- The operands of a word as type `ty`, out of the tokens of its distinct sources. -/
def readOps (w : W64) (ty : Nat) (ts : List Tok) : Option (List Opnd) :=
  ((wInputs w).zip (inputToks w ts)).mapM fun p => if p.1 = 0xE then some (konst w ty) else readOpnd ty p.2

/-! ## A cell's act -/

/-- The outputs of a site's cell. -/
def State.outs (s : State) (k site : Nat) : List OutP :=
  (s.plane k).cellOuts (s.fabShape k).1 (s.fabShape k).2 site

/-- A copy's result leaves, in the copies' order and once it is requested (R162, R163). -/
def State.collect (s : State) (a : Seat) (os : List OutP) : State :=
  let c := s.cell a.k a.b
  match (s.lane a.k a.x).out with
  | [] => s
  | t :: rest =>
    if (a.n = 1 || c.sent % a.n = a.j) && (s.plane a.k).canEmit os then
      ((s.setLane a.k a.x { s.lane a.k a.x with out := rest }).setCell a.k a.b { c with sent := c.sent + 1 }).emit a.k a.b os false t
    else s

/-- A result of a firing, which stems from its operands. -/
def Lane.result (l : Lane) (t : Tok) : Tok := (t.stamp l.serves).after l.ops

/-- A copy's firing is over, with some results to send. -/
def State.endFiring (s : State) (a : Seat) (ts : List Tok) : State :=
  let l := s.lane a.k a.x
  s.setLane a.k a.x { l with on := false, ops := [], serves := 0, out := ts.map l.result, count := l.count + 1 }

/-- A copy's firing begins: its operands are taken (R158). -/
def State.latch (s : State) (a : Seat) (ins : List (Nat × Nat)) : State :=
  let ts := s.atHeads a.k a.b ins
  let s := s.takeAll a.k a.b (distinct ins)
  s.setLane a.k a.x { s.lane a.k a.x with on := true, ops := ts }

/-- A replicated operator whose inputs have ended: it drains them, and its end-of-stream leaves once every copy has passed it (R163). -/
def State.endStep (s : State) (a : Seat) (ins : List (Nat × Nat)) (os : List OutP) (flag : Bool) : State :=
  let c := s.cell a.k a.b
  let ef := (s.fabShape a.k).1
  if c.left then s.drainSite a.k a.b ins flag
  else if (List.range a.n).all fun i => let l := s.lane a.k (copySite ef a.b i); l.past && l.out.isEmpty then
    (s.setCell a.k a.b { c with left := true }).emit a.k a.b os false .eos
  else s

/-- What every act of a copy begins with: nothing where its word is not `w` or it may not act; results that wait; a firing under way;
draining. -/
def State.onSite (s : State) (a : Seat) (w : W64) (os : List OutP) (ins : List (Nat × Nat)) (flag : Bool) (act : State → State) : State :=
  let c := s.cell a.k a.b
  let l := s.lane a.k a.x
  if c.words.isEmpty || nth c.words 0 0 != w || c.done || !s.fabRuns a.k a.b a.x || l.fault.isSome || l.busy then s
  else if !l.out.isEmpty then s.collect a os
  else if c.closed && !l.on && !l.deal then s.endStep a ins os flag
  else act (s.spreadEos a.k a.b)

/-- End-of-stream at the inputs of a replicated operator goes to every copy (R163). -/
def State.dealEos (s : State) (a : Seat) (ins : List (Nat × Nat)) : State :=
  let ef := (s.fabShape a.k).1
  let eos := ins.filter fun p => (s.peek a.k a.b p.2).any (·.isEos)
  let s := s.takeAll a.k a.b (distinct eos)
  let c := s.cell a.k a.b
  let s := s.setCell a.k a.b { c with closed := true, ended := eos.foldl (fun m p => m ||| 1 <<< p.1) c.ended }
  (List.range a.n).foldl (fun s i =>
    let x := copySite ef a.b i
    s.setLane a.k x { s.lane a.k x with deal := true }) s

/-- Whether result number e of the operator is requested, those before it that have not left having theirs first (R162, R163). -/
def State.wanted (s : State) (a : Seat) (os : List OutP) (e : Nat) : Bool := (s.plane a.k).room os (e - (s.cell a.k a.b).sent)

/-- A copy begins its next firing once its operands are present, the set being its own by the dealing of R163, its result is requested where
`sends`, and it has its grain (R158, R162; log 62):
`ok` says which tokens its operands take (cause 1 else), `last` what end-of-stream's firing sends, `go` does the work of a firing. -/
def State.startFiring (s : State) (a : Seat) (ins : List (Nat × Nat)) (os : List OutP) (sends : Bool) (ok : List Tok → Bool)
    (last : Lane → List Tok) (go : State → State) : State :=
  let l := s.lane a.k a.x
  if a.n = 1 then
    match s.inputs a.k a.b ins with
    | .waits => s
    | .mismatch => s.fabHalt a.k a.b 4
    | .ends =>
      if !(last l).isEmpty && !(s.plane a.k).canEmit os then s
      else
        let (s, got) := s.payGrain a.k a.x
        if got then ((last l).foldl (fun s t => s.emit a.k a.b os false t) s).endSite a.k a.b ins os else s
    | .fires =>
      if !ok (s.atHeads a.k a.b ins) then s.fabHalt a.k a.b 1
      else if sends && !(s.plane a.k).canEmit os then s
      else
        let (s, got) := s.payGrain a.k a.x
        if got then go (s.latch a ins) else s
  else if l.deal then
    if !(last l).isEmpty && !s.wanted a os a.j then s
    else
      let (s, got) := s.payGrain a.k a.x
      if got then s.setLane a.k a.x { l with deal := false, past := true, out := last l } else s
  else match s.inputs a.k a.b ins with
    | .waits => s
    | .mismatch => s.fabHalt a.k a.b 4
    | .ends => s.dealEos a ins
    | .fires =>
      let c := s.cell a.k a.b
      if c.taken % a.n ≠ a.j then s
      else if !ok (s.atHeads a.k a.b ins) then s.fabHalt a.k a.b 1
      else if sends && !s.wanted a os c.taken then s
      else
        let (s, got) := s.payGrain a.k a.x
        if got then go ((s.setCell a.k a.b { c with taken := c.taken + 1 }).latch a ins) else s

/-- The act of a PE's operator: a firing under way goes on, or the next begins. -/
def State.operate (s : State) (w : W64) (sends : Bool) (ok : List Tok → Bool) (last : Lane → List Tok)
    (go : Seat → List OutP → State → State) : State :=
  let a := s.seat
  let ins := inputsOf (wInputs w)
  let os := s.outs a.k a.b
  s.onSite a w os ins true fun s =>
    if (s.lane a.k a.x).on then go a os s else s.startFiring a ins os sends ok last (go a os)

/-- The rounding generator of the island of a site, or of an edge fabric (R66). -/
def State.fabGen (s : State) (k x : Nat) : W32 :=
  match fabCtl k with
  | some c => (s.ctl c).gen
  | none => mget (((mfind s.resids (k / 2)).map (·.gens)).getD []) (siteIsl x) 1

/-- Puts back that generator. -/
def State.setFabGen (s : State) (k x : Nat) (g : W32) : State :=
  match fabCtl k with
  | some c => s.setCtl c { s.ctl c with gen := g }
  | none => s.modResid (k / 2) fun r => { r with gens := mput r.gens (siteIsl x) g }

/-- A PE operator of one result for each set of operands, formed by `f` from the operands and the generator's state; `rs` says
whether its results step that generator (R66, R370). -/
def State.peOp (s : State) (w : W64) (ty : Nat) (f : W32 → List Opnd → Nat) (rty : Nat) (rs : Bool) : State :=
  s.operate w true (fun ts => (readOps w ty ts).isSome) (fun _ => []) fun a os s =>
    match readOps w ty (s.lane a.k a.x).ops with
    | none => s.fabHalt a.k a.b 1
    | some ops =>
      let g := if rs then lfsr (s.fabGen a.k a.x) else s.fabGen a.k a.x
      let s := if rs then s.setFabGen a.k a.x g else s
      (s.endFiring a [.data (extend rty (f g ops)) (ops.any (·.bad)) scaleOne false 0]).collect a os

/-- Operand i of a list. -/
def op (l : List Opnd) (i : Nat) : Fp := (nth l i ⟨.nan, 0, false⟩).v

/-- The bits of operand i. -/
def opRaw (l : List Opnd) (i : Nat) : Nat := (nth l i ⟨.nan, 0, false⟩).raw

/-- PADD (R372). -/
def execPadd (w : W64) (s : State) : Res :=
  .next <| s.peOp w (wTy w) (fun _ l => elemRound (wTy w) (wRnd w) false 0 ((op l 0).add (wRnd w) (op l 1))) (wTy w) false

/-- PSUB (R372). -/
def execPsub (w : W64) (s : State) : Res :=
  .next <| s.peOp w (wTy w) (fun _ l => elemRound (wTy w) (wRnd w) false 0 ((op l 0).add (wRnd w) (op l 1).neg)) (wTy w) false

/-- PMUL (R372). -/
def execPmul (w : W64) (s : State) : Res :=
  .next <| s.peOp w (wTy w) (fun _ l => elemRound (wTy w) (wRnd w) false 0 ((op l 0).mul (op l 1))) (wTy w) false

/-- PFMA (R378). -/
def execPfma (w : W64) (s : State) : Res :=
  .next <| s.peOp w (wTy w)
    (fun _ l => elemRound (wTy w) (wRnd w) false 0 (((op l 0).mul (op l 1)).add (wRnd w) (op l 2))) (wTy w) false

/-- PMIN (R372, R56). -/
def execPmin (w : W64) (s : State) : Res :=
  .next <| s.peOp w (wTy w) (fun _ l => elemRound (wTy w) (wRnd w) false 0 ((op l 0).min (op l 1))) (wTy w) false

/-- PMAX (R372, R56). -/
def execPmax (w : W64) (s : State) : Res :=
  .next <| s.peOp w (wTy w) (fun _ l => elemRound (wTy w) (wRnd w) false 0 ((op l 0).max (op l 1))) (wTy w) false

/-- The test of a PCMP (R375). -/
def pcmpTest (fn : Nat) (a b : Fp) : Bool :=
  match fn with
  | 0 => a.eq b
  | 1 => !a.eq b
  | 2 => a.lt b
  | _ => !a.isNan && !b.isNan && !a.lt b

/-- PCMP (R375): the NAT64 token 1 or 0. -/
def execPcmp (w : W64) (s : State) : Res :=
  .next <| s.peOp w (wTy w) (fun _ l => b2n (pcmpTest (wFn w) (op l 0) (op l 1))) 0xE false

/-- The bits of a PLOG (R380). -/
def plogBits (fn n a b : Nat) : Nat :=
  match fn with
  | 0 => a &&& b
  | 1 => a ||| b
  | 2 => a ^^^ b
  | _ => a &&& (b ^^^ (2 ^ n - 1))

/-- PLOG (R380). -/
def execPlog (w : W64) (s : State) : Res :=
  let n := typeBits (wTy w)
  .next <| s.peOp w (wTy w) (fun _ l => plogBits (wFn w) n (opRaw l 0 % 2 ^ n) (opRaw l 1 % 2 ^ n)) (wTy w) false

/-- The shift of a PSHF within n bits (R382). -/
def pshfBits (fn n a sh : Nat) : Nat :=
  match fn with
  | 0 => if sh ≥ n then 0 else a <<< sh % 2 ^ n
  | 1 => if sh ≥ n then 0 else a >>> sh
  | 2 => wrapInt (sgn a n / 2 ^ (min sh n)) n
  | _ =>
    let r := sh % n
    (a >>> r ||| a <<< (n - r)) % 2 ^ n

/-- PSHF (R382). -/
def execPshf (w : W64) (s : State) : Res :=
  let n := typeBits (wTy w)
  .next <| s.peOp w (wTy w) (fun _ l => pshfBits (wFn w) n (opRaw l 0 % 2 ^ n) (opRaw l 1 % 64)) (wTy w) false

/-- PCVT (R377): from type fn to type ty. -/
def execPcvt (w : W64) (s : State) : Res :=
  .next <| s.peOp w (wFn w) (fun g l => elemRound (wTy w) (wRnd w) (wSat w) g.toNat (op l 0)) (wTy w) (wRnd w == 4)

/-! ## PACC (R371) -/

/-- The sum of a copy, the constant before its first element. -/
def Lane.total (l : Lane) (w : W64) : Fp × Bool := l.sum.getD ((konst w (wTy w)).v, false)

/-- A sum as a token. -/
def sumTok (w : W64) (v : Fp × Bool) : Tok := .data (extend (wTy w) (elemRound (wTy w) (wRnd w) false 0 v.1)) v.2 scaleOne false 0

/-- PACC: each copy sums the elements dealt to it; with fn 0 its sum leaves at end-of-stream, in that firing. -/
def execPacc (w : W64) (s : State) : Res :=
  .next <| s.operate w (wFn w == 1) (fun ts => (readOps w (wTy w) ts).isSome) (fun l => if wFn w = 1 then [] else [sumTok w (l.total w)])
    fun a os s =>
      let l := s.lane a.k a.x
      match readOps w (wTy w) l.ops with
      | none => s.fabHalt a.k a.b 1
      | some ops =>
        let n := elemRound (wTy w) (wRnd w) false 0 ((l.total w).1.add (wRnd w) (op ops 0))
        let bad := (l.total w).2 || ops.any (·.bad)
        let s := s.setLane a.k a.x { l with sum := some (elemRead (wTy w) n, bad) }
        (s.endFiring a (if wFn w = 1 then [.data (extend (wTy w) n) bad scaleOne false 0] else [])).collect a os

/-! ## PLUT (R165, R381) -/

/-- The table entry of a nibble. -/
def lutEntry (ws : List W64) (t : Nat) : W64 := w64 (bits (nth ws (1 + t / 4) 0) (16 * (t % 4) + 15) (16 * (t % 4)))

/-- PLUT: for each input token, one token for each of its nibbles. -/
def execPlut (w : W64) (s : State) : Res :=
  .next <|
    let a := s.seat
    let ins := inputsOf [wIa w]
    let os := s.outs a.k a.b
    s.onSite a w os ins true fun s =>
      match s.peek a.k a.b (wIa w) with
      | none => s
      | some .eos => s.endSite a.k a.b ins os
      | some (.data v p sc _ from_) =>
        if sc ≠ scaleOne then s.fabHalt a.k a.b 1
        else if !(s.plane a.k).canEmit os then s
        else
          let ws := (s.cell a.k a.b).words
          let toks := (List.range (bits w 3 0 + 1)).map fun n => Tok.data (lutEntry ws (bits v (4 * n + 3) (4 * n))) p scaleOne false from_
          ((s.takeIn a.k a.b (wIa w)).endFiring a toks).collect a os

/-! ## Memory: PLD, PST (R379, R383) -/

/-- Bytes of an element (R373). -/
def memSize (ty : Nat) : Nat := typeBits ty / 8

/-- Whose addresses a site translates, as a stream of its own (04_memory.md R88): of an edge fabric through the cache and walker of the field that
bears the controller's number, since R88 names no field for it (DESIGN CHOICE, log 67). -/
def State.fabWho (s : State) (k site : Nat) : Who :=
  let gid := 8 * (2 ^ 48 + k * 16384 + site) + 4
  let priv := match s.fabRef k site with
    | some r => bitAt (nth (((s.node? r).map (·.words)).getD []) 0 0) 57 && ((mfind s.sheaves r.sheaf).map (·.host)).getD false
    | none => false
  match fabCtl k with
  | some c =>
    ⟨gid, c / 64, fieldKey (c / 64) (c % 64), none, (((s.ctl c).slotOf site).map (·.2.asid)).getD 0, priv⟩
  | none =>
    match mfind s.resids (k / 2) with
    | some r => ⟨gid, r.field / 128, r.field, none, r.asid, priv⟩
    | none => ⟨gid, 0, 0, none, 0, priv⟩

/-- Class and agent of a fabric's accesses (R90). -/
def State.fabAgent (s : State) (k site : Nat) : Nat × Nat :=
  match fabCtl k with
  | some c => (5, c / 64 * 2 ^ 15 + c % 64)
  | none =>
    match mfind s.resids (k / 2) with
    | some r => (4, r.field / 128 * 2 ^ 15 + r.island (siteIsl site))
    | none => (4, 0)

/-- The fault of an access of a site. -/
def State.fabFault (s : State) (k site gen : Nat) (va : W64) (ty acc : Nat) (ctrs : List Nat) : GenFault :=
  { owner := .fab k site, ref := s.fabRef k site, wafer := s.fabWafer k, cls := (s.fabAgent k site).1, agent := (s.fabAgent k site).2,
    gen := gen, stream := 0, va := va, ty := ty, acc := acc, ctrs := ctrs }

/-- A trace ring logs a write of an edge fabric's own generators and PSTs with kind 3 and class 5: 04_memory.md R90 names kind 3 for islands and
engines, and 4 for the accumulate slots (DESIGN CHOICE, log 122). -/
def fabWriteKind : Nat := 3

/-- One access of a site's generator of `n` aligned bytes at `va`; `f` is its fault. A read answers its bytes; both answer the state
in which it waits (for a walk, for the supervisor, or for an edge graph). -/
def State.fabAccess (s : State) (k site : Nat) (va : W64) (bad : Bool) (n : Nat) (wr : Option (List (Byte × Bool))) (f : GenFault) :
    Except State (State × List (Byte × Bool)) :=
  let l := s.lane k site
  let acc := if wr.isSome then 1 else 0
  if l.skip then .ok (s.setLane k site { l with skip := false }, List.replicate n (0, true))
  else if bad then .error (s.raiseGen { f with ty := 3 })
  else if va.toNat % n ≠ 0 then .error (s.raiseGen { f with ty := 2 })
  else match s.translate (s.fabWho k site) va n acc with
    | .miss => .error (s.askWalk (s.fabWho k site) va acc { f with ty := 1 })
    | .bad t => .error (s.raiseGen { f with ty := t })
    | .ok pa trc _ =>
      let who := s.fabWho k site
      if s.remoteUnbacked who.wafer pa then
        match wr with
        | some _ => .ok (s.raiseEv who.wafer ({ f with ty := 2 }.event .other), [])
        | none => .error (s.raiseGen { f with ty := 2 })
      else match homeOf pa with
        | .window w m sl o =>
          .error ((s.setLane k site { l with busy := true }).enterView w m sl ⟨.fab k site, who.wafer, who.asid, o, n, wr, 0, [], 0, []⟩)
        | _ =>
          match wr with
          | some bs => .ok (s.write pa bs ⟨fabWriteKind, (s.fabAgent k site).1, (s.fabAgent k site).2, trc, 0⟩, [])
          | none => .ok (s, s.readRun pa n)

/-- A value of type `ty` from bytes, as a token. -/
def memTok (ty : Nat) (bs : List (Byte × Bool)) : Tok := .data (extend ty (runNat bs)) (bs.any (·.2)) scaleOne false 0

/-- The act of PLD and PST, whose operands are an address and, for PST, an element; `go` makes the access with them. -/
def State.portOp (s : State) (w : W64) (go : Seat → List OutP → Opnd → Opnd → State → State) : State :=
  s.operate w true (fun ts => (readOps w 0xE ts).isSome) (fun _ => []) fun a os s =>
    match readOps w 0xE (s.lane a.k a.x).ops with
    | none => s.fabHalt a.k a.b 1
    | some ops => go a os (nth ops 0 ⟨.nan, 0, false⟩) (nth ops 1 ⟨.nan, 0, false⟩) s

/-- What a port's firing sends once its access has performed: a PLD its element, a PST its completion token. -/
def memToks (w : W64) (bs : List (Byte × Bool)) : List Tok :=
  if wOp w = 0x20 then [memTok (wTy w) bs] else if wOmask w = 0 then [] else [.data 0 false scaleOne false 0]

/-- PLD: reads the element at the address that its token holds. -/
def execPld (w : W64) (s : State) : Res :=
  .next <| s.portOp w fun a os p _ s =>
    match s.fabAccess a.k a.x (w64 p.raw) p.bad (memSize (wTy w)) none (s.fabFault a.k a.x 0xF (w64 p.raw) 1 0 [siteIdx a.x]) with
    | .error s => s
    | .ok (s, bs) => (s.endFiring a (memToks w bs)).collect a os

/-- PST: writes its second operand at the address that its first holds; its completion token leaves once the store has
performed. -/
def execPst (w : W64) (s : State) : Res :=
  .next <| s.portOp w fun a os p d s =>
    let n := memSize (wTy w)
    match s.fabAccess a.k a.x (w64 p.raw) p.bad n (some (natRun n (d.raw % 2 ^ (8 * n)) d.bad))
        (s.fabFault a.k a.x 0xF (w64 p.raw) 1 1 [siteIdx a.x]) with
    | .error s => s
    | .ok (s, _) => (s.endFiring a (memToks w [])).collect a os

/-! ## PAG (R373, R374) -/

/-- Count and stride of a level. -/
def gLevel (ws : List W64) (l : Nat) : Nat × Int := (bits (nth ws (2 + l) 0) 63 32, sgn (bits (nth ws (2 + l) 0) 31 0) 32)

/-- The loop counters as they stand, innermost last; 0 before the first. -/
def Cell.ctrs (c : Cell) (lv : Nat) : List Nat := (List.range lv).map fun i => nth c.ctr i 0

/-- The counters after one iteration; none when the nest is exhausted. -/
def stepCtrs (ws : List W64) (cs : List Nat) : Option (List Nat) :=
  let rec go : Nat → List Nat → Option (List Nat)
    | 0, _ => none
    | l + 1, cs =>
      let i := nth cs l 0 + 1
      if i < (gLevel ws l).1 then some (setNth cs l i) else go l (setNth cs l 0)
  go cs.length cs

/-- The pass that level 0 runs on with: it at depth 0 of a residency, else 0 (R374). -/
def State.genPass (s : State) (k : Nat) : Nat :=
  match fabCtl k with
  | some _ => 0
  | none =>
    match mfind s.resids (k / 2) with
    | some r => if r.planes.isEmpty then r.it else 0
    | none => 0

/-- The counters as addresses and events use them: level 0 counts across passes. -/
def State.genCtrs (s : State) (k site : Nat) (ws : List W64) : List Nat :=
  let cs := (s.cell k site).ctrs (gLv (nth ws 0 0))
  match cs with
  | [] => []
  | i :: r => (s.genPass k * (gLevel ws 0).1 + i) :: r

/-- The address of an iteration, before an index. -/
def genAddr (ws : List W64) (base : W64) (cs : List Nat) : W64 :=
  (List.range cs.length).foldl (fun a l => a + BitVec.ofInt 64 ((nth cs l 0 : Int) * (gLevel ws l).2)) base

/-- The base of a generator, with the window that a stream edge joins it to (14_assembly.md R283). -/
def State.genBase (s : State) (k site : Nat) (ws : List W64) : W64 :=
  let base := nth ws 1 0
  match fabCtl k with
  | some _ => base
  | none => base + mget (((mfind s.resids (k / 2)).map (·.binds)).getD []) (site - 8192) 0

/-- A generator goes to its next iteration; `st` 1 says that its nest is exhausted. -/
def Cell.nextIter (c : Cell) (ws : List W64) : Cell :=
  match stepCtrs ws (c.ctrs (gLv (nth ws 0 0))) with
  | some cs => { c with ctr := cs }
  | none => { c with st := 1 }

/-- The walk of a generator ends early because an input has ended: lenmis, or cause 4 in strict mode (R374). -/
def State.genShort (s : State) (k site : Nat) (ins : List (Nat × Nat)) (os : List OutP) : State :=
  if s.fabStrict k site then s.fabHalt k site 4
  else (s.endSite k site ins os).setLenmis k site

/-- The data and index selectors of a generator's word. -/
def genSels (w : W64) : List Nat := (if gDir w = 1 then [wIa w] else []) ++ (if gGx w then [wIb w] else [])

/-- An iteration is over: the counters step, and what it read leaves. -/
def State.genDone (s : State) (k site : Nat) (os : List OutP) (ws : List W64) (bs : List (Byte × Bool)) : State :=
  let l := s.lane k site
  let s := s.setLane k site { l with on := false, ops := [], serves := 0, count := l.count + 1 }
  let s := s.setCell k site ((s.cell k site).nextIter ws)
  if gDir (nth ws 0 0) = 1 then s
  else s.emit k site os false (l.result (memTok (gTy (nth ws 0 0)) bs))

/-- The access of the iteration under way (R374). -/
def State.genGo (s : State) (k site : Nat) (os : List OutP) (ws : List W64) : State :=
  let w := nth ws 0 0
  let n := memSize (gTy w)
  let srcs := distinct (inputsOf (genSels w))
  let rd := fun (sel : Nat) => (readOpnd 0xE (nth (s.lane k site).ops (srcs.idxOf sel) .eos)).getD ⟨.nan, 0, false⟩
  let d := rd (wIa w)
  let i := rd (wIb w)
  let cs := s.genCtrs k site ws
  let va := genAddr ws (s.genBase k site ws) cs + (if gGx w then w64 (i.raw * n) else 0)
  let wr := if gDir w = 1 then some (natRun n (d.raw % 2 ^ (8 * n)) d.bad) else none
  match s.fabAccess k site va (gGx w && i.bad) n wr (s.fabFault k site ((site - 8192) % 8) va 1 (if gDir w = 1 then 1 else 0) cs) with
  | .error s => s
  | .ok (s, bs) => s.genDone k site os ws bs

/-- One iteration of a generator's walk begins: its inputs are present, and what it reads is requested (R162, R374). The end of an input ends
the walk, whatever the other still waits for. -/
def State.genIter (s : State) (a : Seat) (ins : List (Nat × Nat)) (os : List OutP) (ws : List W64) : State :=
  let w := nth ws 0 0
  if ins.any fun p => (s.peek a.k a.b p.2).any (·.isEos) then s.genShort a.k a.b ins os
  else if ins.any fun p => (s.peek a.k a.b p.2).isNone then s
  else if gDir w = 0 && !(s.plane a.k).canEmit os then s
  else if (s.atHeads a.k a.b ins).any fun t => (readOpnd 0xE t).isNone then s.fabHalt a.k a.b 1
  else (s.latch a ins).genGo a.k a.b os ws

/-- PAG: one step of a generator's walk. -/
def execPag (w : W64) (s : State) : Res :=
  .next <|
    let a := s.seat
    let ws := (s.cell a.k a.b).words
    let ins := inputsOf (genSels w)
    let os := (s.plane a.k).genOuts a.b
    s.onSite a w os ins true fun s =>
      let c := s.cell a.k a.b
      if (s.lane a.k a.x).on then s.genGo a.k a.b os ws
      else if gDir w = 0 && os.isEmpty then s.setCell a.k a.b { c with done := true }
      else if c.st = 1 then
        (s.setCell a.k a.b { c with closed := true, left := true, done := gDir w == 0 && ins.isEmpty }).emit a.k a.b os false .eos
      else s.genIter a ins os ws

/-! ## Routers (R164, R320) -/

/-- The channel of a router's port code. -/
def rtChan (c code : Nat) : Nat := if code = 4 then c * 16 + 15 else c * 16 + code

/-- The token at a port code of a router. -/
def State.rtPeek (s : State) (k c code : Nat) : Option Tok := ((s.plane k).chan (rtChan c code)).toks.head?

/-- Takes the token at a port code of a router. -/
def State.rtTake (s : State) (k c code : Nat) : State :=
  let p := s.plane k
  let ch := p.chan (rtChan c code)
  s.setPlane k (p.setChan (rtChan c code) ch.pop)

/-- Whether a control token is true: its element is nonzero and it is not poisoned (R211). -/
def Tok.isTrue : Tok → Bool
  | .data v p _ _ _ => v != 0 && !p
  | .eos => false

/-- Whether a token is poisoned. -/
def Tok.poisoned : Tok → Bool
  | .data _ p _ _ _ => p
  | .eos => false

/-- A data token, poisoned where `p` says so. -/
def Tok.taint (t : Tok) (p : Bool) : Tok :=
  match t with
  | .data v q sc r n => .data v (q || p) sc r n
  | .eos => .eos

/-- The router ends at end-of-stream on position `i`: it goes to every output, and the other inputs are drained with no flag. -/
def State.rtEnd (s : State) (k site : Nat) (ps : List Nat) (i : Nat) (os : List OutP) : State :=
  let s := s.rtTake k (siteCell site) (nth ps i 0xF)
  let c := s.cell k site
  (s.setCell k site { c with closed := true, left := true, ended := c.ended ||| 1 <<< i }).emit k site os false .eos

/-- A router that has ended drains one token of an input that has not. -/
def State.rtDrain (s : State) (k site op : Nat) (ps : List Nat) : State :=
  let c := s.cell k site
  let left := (List.range 4).filter fun i => rtIsIn op i && nth ps i 0xF ≤ 4 && !c.ended.testBit i
  match left with
  | [] => s.setCell k site { c with done := true }
  | _ =>
    match left.find? fun i => (s.rtPeek k (siteCell site) (nth ps i 0xF)).isSome with
    | none => s
    | some i =>
      let eos := (s.rtPeek k (siteCell site) (nth ps i 0xF)).any (·.isEos)
      let s := s.rtTake k (siteCell site) (nth ps i 0xF)
      if eos then s.setCell k site { s.cell k site with ended := c.ended ||| 1 <<< i } else s

/-- What every act of a router begins with. -/
def State.onRouter (s : State) (w : W64) (act : Nat → Nat → List Nat → State) : State :=
  let k := s.curRes
  let site := s.curSite
  let c := s.cell k site
  let ps := rtPorts w
  if siteKind site ≠ 1 || nth c.words 0 0 != w || c.words.isEmpty || c.done || !s.fabRuns k site site then s
  else if c.closed then s.rtDrain k site (bits w 31 28) ps
  else act k site ps

/-- The outputs of a router on one port code. -/
def State.rtOuts (s : State) (k site code : Nat) : List OutP := rtOut (s.fabShape k).1 (s.fabShape k).2 (siteCell site) code

/-- A router sends a token on some outputs once they have requested it, after taking from some port codes, from whose tokens it stems. -/
def State.rtSend (s : State) (k site : Nat) (takes : List Nat) (os : List OutP) (t : Tok) (st : Cell → Cell) : State :=
  if (s.plane k).canEmit os then
    let t := t.after (takes.filterMap fun p => s.rtPeek k (siteCell site) p)
    let s := takes.foldl (fun s p => s.rtTake k (siteCell site) p) s
    (s.setCell k site (st (s.cell k site))).emit k site os true t
  else s

/-- Pass: forwards each token to every port other than 0xF (R164). -/
def execRouterPass (w : W64) (s : State) : Res :=
  .next <| s.onRouter w fun k site ps =>
    let os := (ps.drop 1).flatMap (s.rtOuts k site)
    match s.rtPeek k (siteCell site) (nth ps 0 0xF) with
    | none => s
    | some .eos => s.rtEnd k site ps 0 os
    | some t => s.rtSend k site [nth ps 0 0xF] os t id

/-- STEER (R390). -/
def execSteer (w : W64) (s : State) : Res :=
  .next <| s.onRouter w fun k site ps =>
    let c := siteCell site
    let all := s.rtOuts k site (nth ps 2 0xF) ++ s.rtOuts k site (nth ps 3 0xF)
    match s.rtPeek k c (nth ps 0 0xF) with
    | none => s
    | some .eos => s.rtEnd k site ps 0 all
    | some ct =>
      match s.rtPeek k c (nth ps 1 0xF) with
      | none => s
      | some .eos => (s.rtTake k c (nth ps 0 0xF)).rtEnd k site ps 1 all
      | some d => s.rtSend k site [nth ps 0 0xF, nth ps 1 0xF] (s.rtOuts k site (nth ps (if ct.isTrue then 2 else 3) 0xF))
          (d.taint ct.poisoned) id

/-- CARRY (R321): state 0 initial, 1 looping. -/
def execCarry (w : W64) (s : State) : Res :=
  .next <| s.onRouter w fun k site ps =>
    let c := siteCell site
    let os := s.rtOuts k site (nth ps 2 0xF)
    if (s.cell k site).st = 0 then
      match s.rtPeek k c (nth ps 1 0xF) with
      | none => s
      | some .eos => s.rtEnd k site ps 1 os
      | some t => s.rtSend k site [nth ps 1 0xF] os t fun x => { x with st := 1 }
    else match s.rtPeek k c (nth ps 0 0xF) with
      | none => s
      | some .eos => s.rtEnd k site ps 0 os
      | some ct =>
        if ct.isTrue then
          match s.rtPeek k c (nth ps 3 0xF) with
          | none => s
          | some .eos => (s.rtTake k c (nth ps 0 0xF)).rtEnd k site ps 3 os
          | some t => s.rtSend k site [nth ps 0 0xF, nth ps 3 0xF] os t id
        else
          let s := s.rtTake k c (nth ps 0 0xF)
          s.setCell k site { s.cell k site with st := 0 }

/-- INVAR (R344): the held value is `val`. -/
def execInvar (w : W64) (s : State) : Res :=
  .next <| s.onRouter w fun k site ps =>
    let c := siteCell site
    let os := s.rtOuts k site (nth ps 2 0xF)
    match (s.cell k site).val with
    | none =>
      match s.rtPeek k c (nth ps 1 0xF) with
      | none => s
      | some .eos => s.rtEnd k site ps 1 os
      | some t =>
        let s := s.rtTake k c (nth ps 1 0xF)
        s.setCell k site { s.cell k site with val := some t }
    | some v =>
      match s.rtPeek k c (nth ps 0 0xF) with
      | none => s
      | some .eos => s.rtEnd k site ps 0 os
      | some ct =>
        if ct.isTrue then s.rtSend k site [nth ps 0 0xF] os v id
        else
          let s := s.rtTake k c (nth ps 0 0xF)
          s.setCell k site { s.cell k site with val := none }

/-- MERGE (R364). -/
def execMerge (w : W64) (s : State) : Res :=
  .next <| s.onRouter w fun k site ps =>
    let c := siteCell site
    let os := s.rtOuts k site (nth ps 2 0xF)
    match s.rtPeek k c (nth ps 0 0xF) with
    | none => s
    | some .eos => s.rtEnd k site ps 0 os
    | some ct =>
      let i := if ct.isTrue then 1 else 3
      match s.rtPeek k c (nth ps i 0xF) with
      | none => s
      | some .eos => (s.rtTake k c (nth ps 0 0xF)).rtEnd k site ps i os
      | some t => s.rtSend k site [nth ps 0 0xF, nth ps i 0xF] os (t.taint ct.poisoned) id

/-! ## Whether a site can go on, for telling rest (R177; 09_edge.md R182; 11_faults.md R214) -/

/-- A source of tokens that a site's next act needs: the tokens that stand there, and the channel that they come on, none for a shared
port. -/
structure Need where
  toks : List Tok
  ch : Option Nat

/-- Whether a source's next token is end-of-stream. -/
def Need.ends (n : Need) : Bool := n.toks.head?.any (·.isEos)

/-- The need of a cell or generator for its selector `sel`. -/
def State.need (s : State) (k site sel : Nat) : Need :=
  let c := (s.plane k).chan (chanOf site sel)
  if isPort sel then ⟨c.toks ++ c.ring ++ s.portToks k site sel, none⟩ else ⟨c.toks ++ c.ring, some (chanOf site sel)⟩

/-- The need of a router for the port code at position `i` of its word. -/
def State.rtNeed (s : State) (k site : Nat) (ps : List Nat) (i : Nat) : Need :=
  let ch := rtChan (siteCell site) (nth ps i 0xF)
  ⟨((s.plane k).chan ch).toks ++ ((s.plane k).chan ch).ring, some ch⟩

/-- What a router's next act needs, and the ports on which it sends (R164). -/
def State.rtPlan (s : State) (k site : Nat) : List Need × List OutP :=
  let w := (s.plane k).word site
  let ps := rtPorts w
  let c := s.cell k site
  let at_ := s.rtNeed k site ps
  let out := fun (i : Nat) => s.rtOuts k site (nth ps i 0xF)
  let ctl := at_ 0
  let go := ctl.toks.head?.any Tok.isTrue
  if bits w 31 28 = 0 then ([ctl], out 1 ++ out 2 ++ out 3)
  else if ctl.ends && !(bits w 31 28 = 2 && c.st = 0) && !(bits w 31 28 = 3 && c.val.isNone) then
    ([ctl], out 2 ++ (if bits w 31 28 = 1 then out 3 else []))
  else match bits w 31 28 with
    | 1 => ([ctl, at_ 1], if ctl.toks.isEmpty then [] else out (if go then 2 else 3))
    | 2 => if c.st = 0 then ([at_ 1], out 2) else if go then ([ctl, at_ 3], out 2) else ([ctl], [])
    | 3 => if c.val.isNone then ([at_ 1], []) else ([ctl], if go then out 2 else [])
    | _ => (if ctl.toks.isEmpty then [ctl] else [ctl, at_ (if go then 1 else 3)], out 2)

/-- What the next act of a site needs, and the outputs on which it sends. -/
def State.plan (s : State) (k site : Nat) : List Need × List OutP :=
  let w := (s.plane k).word site
  match siteKind site with
  | 1 => s.rtPlan k site
  | 2 =>
    let ns := (distinct (inputsOf (genSels w))).map (s.need k site)
    (if (s.cell k site).st = 1 then [] else if ns.any (·.ends) then ns.filter (·.ends) else ns,
      if gDir w = 0 then (s.plane k).genOuts site else [])
  | _ =>
    let ns := (distinct (inputsOf (if isLut (s.fabShape k).1 site then [wIa w] else wInputs w))).map (s.need k site)
    let ends := ns.any (·.ends)
    (if ends then ns.filter (fun n => n.ends || n.ch.isSome) else ns,
      if wOp w = 0x1A && wFn w = 0 && !isLut (s.fabShape k).1 site && !ends then [] else s.outs k site)

/-- Every output of a site. -/
def State.siteOuts (s : State) (k site : Nat) : List OutP :=
  let w := (s.plane k).word site
  match siteKind site with
  | 1 => ((List.range 4).filter fun i => !rtIsIn (bits w 31 28) i).flatMap fun i => s.rtOuts k site (nth (rtPorts w) i 0xF)
  | 2 => (s.plane k).genOuts site
  | _ => s.outs k site

/-- Bursts of demand that an input may hold (R162). -/
def demandMax : Nat := 16

/-- Whether an output takes an element, however much its consumer has yet to request. -/
def State.takes (s : State) (k : Nat) (o : OutP) : Bool :=
  match o.ch with
  | none => true
  | some ch =>
    let c := (s.plane k).chan ch
    c.dem > 0 || c.left > 0 || c.toks.length + c.ring.length < demandMax

/-- Whether a copy of an operator has a firing under way, or end-of-stream to pass. -/
def Lane.works (l : Lane) : Bool := l.on || l.busy || l.deal || l.fault.isSome || !l.out.isEmpty

/-- The copies of a site's operator at work. -/
def State.works (s : State) (k site : Nat) : List Lane :=
  let ef := (s.fabShape k).1
  ((List.range ((s.plane k).copies ef site)).map fun i => s.lane k (copySite ef site i)).filter (·.works)

/-- Whether a site has end-of-stream to send, or tokens to drain behind it (R171). -/
def State.drains (s : State) (k site : Nat) : Bool :=
  let c := s.cell k site
  let w := (s.plane k).word site
  if !c.left then (s.works k site).isEmpty else if siteKind site = 1 then
      (List.range 4).any fun i => rtIsIn (bits w 31 28) i && nth (rtPorts w) i 0xF ≤ 4 && !c.ended.testBit i
        && !(s.rtNeed k site (rtPorts w) i).toks.isEmpty
    else (inputsOf (if siteKind site = 2 then genSels w else if isLut (s.fabShape k).1 site then [wIa w] else wInputs w)).any fun p =>
      !c.ended.testBit p.1 && !isPort p.2 && !(s.need k site p.2).toks.isEmpty

/-- Whether a site can begin an act now, once its outputs are requested and it has its grain. -/
def State.ready (s : State) (k site : Nat) : Bool :=
  let c := s.cell k site
  if c.words.isEmpty || c.done then false
  else if c.closed then s.drains k site
  else (s.plan k site).1.all (!·.toks.isEmpty) && (s.plan k site).2.all (s.takes k)

/-- Whether the copy at a site can begin an act now: to send a result in its order, to pass end-of-stream, or to take its turn at a firing. A
call operator's firing waits for its arbitration (R174). -/
def State.stirs (s : State) (k x : Nat) : Bool :=
  let a := s.seatAt k x
  let c := s.cell k a.b
  let l := s.lane k x
  s.fabRuns k a.b x && !l.busy && l.fault.isNone && !(siteKind a.b == 0 && isCall (wOp ((s.plane k).word a.b)))
    && (if !l.out.isEmpty then (a.n == 1 || c.sent % a.n == a.j) && (s.siteOuts k a.b).all (s.takes k)
      else !l.on && (l.deal
        || ((a.n == 1 || c.taken % a.n == a.j || (s.plan k a.b).1.any (·.ends)) && s.ready k a.b)))

end Sys2Proof.Machine
end

