-- ==== Sys2Proof/Machine/Homes.lean ====
section
/-! DEFINITION. What homes answer a core's port (05_ordering.md R95, R97, R107; 22_ref_m_s.md R387, R388), and with it the end of a parked
strand that waited for its writes (02_execution.md R42). -/

namespace Sys2Proof.Machine

/-- HOME_ACCESS: an issued access of core `n` performs, if the ordering rules let it (R95, R97); one whose edge window has answered with
poison stops its core. -/
def execHomeAccess (core id : Nat) (s : State) : Res :=
  .next <| match (s.core core).find id with
    | some a =>
      if a.phase == .tainted then s.taintFault core a
      else if a.phase == .issued && (s.core core).mayPerform a && !s.remoteUnbacked (nWafer core) a.pa
        && !s.heldAt core id
      then (s.perform core a).endParked core else s
    | none => s

/-- STORE_ACK: a performed store's acknowledgement reaches its core (R107, R387). -/
def execStoreAck (core id : Nat) (s : State) : Res :=
  .next <| match (s.core core).find id with
    | some a =>
      if a.performed && !a.isRead then
        (s.setCore core { s.core core with port := (s.core core).port.filter (·.id != id) }).endParked core
      else s
    | none => s

/-- REMOTE_WRITE_UNBACKED: the remote home discards and acknowledges the write, and an event of kind 4 with type 2 is
posted on the issuing wafer (R388). -/
def execRemoteWriteUnbacked (core id : Nat) (s : State) : Res :=
  .next <| match (s.core core).find id with
    | some a =>
      if a.phase == .issued && !a.isRead && (s.core core).mayPerform a && s.remoteUnbacked (nWafer core) a.pa then
        let f := s.portFault core (.late core id) a.va 2 1
        ((s.setCore core ((s.core core).done id 0)).raiseEv (nWafer core) (f.event .other)).endParked core
      else s
    | none => s

end Sys2Proof.Machine
end

