-- ==== Sys2Proof/Machine/Strands.lean ====
section
/-! DEFINITION. Strands: SPAWN, RETIRE, JOIN, KEND, HINTSUCC, WAITPRED (02_execution.md R38 to R43, R50 to R52;
21_ref_d_l.md R343, R347, R348; 22_ref_m_s.md R384, R386; 23_ref_t_z.md R407), their start, and the movement of their
records (10_scheduling.md R196 to R198). -/

namespace Sys2Proof.Machine

/-! ## SPAWN (R40, R386) -/

/-- Whether a reserved field of a record is set, or rsm (R40). -/
def recReserved (w : Nat → W64) : Bool :=
  bits (w 0) 63 56 != 0 || bits (w 1) 63 56 != 0 || bits (w 2) 63 56 != 0 || bits (w 3) 63 28 != 0 || bits (w 3) 15 5 != 0

/-- The record that a strand of node `ref` on core `n` pushes (R40). -/
def mkRec (n : Nat) (ref : NodeRef) (w : Nat → W64) : Rec :=
  { cp := w64 (bits (w 0) 55 0), fp := w64 (bits (w 1) 55 0), jc := w64 (bits (w 2) 55 0), node := ref.node, rsm := false,
    core := 4 * nQuad n + bits (w 3) 4 3, pin := bitAt (w 3) 2, prio := bits (w 3) 1 0, pops := 0, ref := ref, out := false }

/-- Pushes a spawned record, or traps with the join count left raised (R40). -/
def State.spawnPush (s : State) (va : W64) (r : Rec) : State :=
  match s.pushSpawn s.cur r with
  | some s' => s'.finish s'.me
  | none => s.trap causeSpill va

/-- The words of a record that the issuing core's SPAWN reads through an edge window, where it has asked for them. -/
def Core.records (c : Core) : List Access := c.port.filter (·.kind == .record)

/-- The value of an access that has performed. -/
def Access.got (a : Access) : W64 :=
  match a.phase with
  | .performed v => v
  | _ => 0

/-- The four reads of a record through an edge window enter the port (R40; 09_edge.md R181). -/
def State.askRecord (s : State) (c : Core) (va : W64) (pa : Nat) : State :=
  (List.range 4).foldl (fun s i =>
    let c := s.me
    let a := { s.stamped c { mkAccess .record (va + w64 (8 * i)) 8 0 with pa := pa + 8 * i } with born := none }
    s.setMe { c with port := c.port ++ [a], nextId := c.nextId + 1 }) (s.setMe { c.dropRecords with wait := none, tried := none })

/-- Reads the 32 bytes of a record at `va` once, as the core's port reads (R40): through an edge window, whose read view or accumulate slot
serves them, the core stays at its SPAWN until the words have come (09_edge.md R180, R181). -/
def State.reachRecord (s : State) (c : Core) (va : W64) (k : State → (Nat → W64) → State) : State :=
  let rs := c.records
  if rs.any (!·.performed) then s.setMe { c with wait := none }
  else if rs.length = 4 then k (s.setMe c.dropRecords) fun i => ((rs[i]?).map (·.got)).getD 0
  else
    let u := (s.refill (s.portWho s.cur) va).untried
    match u.translate (s.portWho s.cur) va 32 0 with
    | .ok pa _ _ =>
      if windowed pa && !u.remoteUnbacked (nWafer s.cur) pa then
        if u.mayStall c { mkAccess .record va 32 0 with pa := pa } then u.standBy c else u.askRecord c va pa
      else s.reach c va 32 0 fun s pa _ => k (s.setMe (s.me.didRead pa 32 (s.relsAt pa 32))) fun i => s.readW (pa + 8 * i)
    | _ => s.reach c va 32 0 fun s pa _ => k (s.setMe (s.me.didRead pa 32 (s.relsAt pa 32))) fun i => s.readW (pa + 8 * i)

/-- SPAWN. -/
def execSpawn (a : Reg) (s : State) : Res :=
  .next <| s.issue [(a, false)] 0 fun c =>
    let va := c.get a
    s.aligned va 32 <| s.reachRecord c va fun s w =>
      let fp := w64 (bits (w 1) 55 0)
      let jc := w64 (bits (w 2) 55 0)
      if bits fp 4 0 != 0 then s.trap causeMisaligned fp
      else if bits jc 4 0 != 0 then s.trap causeMisaligned jc
      else if recReserved w then s.trap causeSync va
      else match c.strand with
        | none => s
        | some t =>
          let r := mkRec s.cur t.ref w
          if jc = 0 then s.spawnPush va r
          else s.reach s.me jc 32 2 fun s b trc =>
            let old := s.readW b
            let new := place (bits old 63 63) 63 + (bits old 62 0 + 1) % 2 ^ 63
            ((s.setMe (s.me.didRead b 8 (s.relsAt b 8))).write b (natRun 8 new false) (coreInfo s.cur 2 trc)).spawnPush va r

/-! ## RETIRE (R42, R384) -/

/-- The strand's block is decremented and its core becomes idle. -/
def State.retireAt (s : State) (t : Strand) (pa : Nat) (trc : Bool) : State :=
  let c := s.me
  let reason := if c.tm then 1 else 0
  let bad := c.tm || s.underflow pa
  let s := s.decBlock s.cur c.kasid.toNat pa trc reason t.startCp
  let s := if bad then s.markAbn t.ref 1 else s
  s.setMe s.me.idle

/-- The strand ends without a block. -/
def State.retireBare (s : State) (t : Strand) : State :=
  let s := if s.me.tm then s.markAbn t.ref 1 else s
  s.setMe s.me.idle

/-- RETIRE's steps: producers land, x[2] is read, the release, then the block (R384). -/
def State.retire (s : State) : State :=
  if s.me.port.any (·.isRead) then s.setMe { s.me with wait := none }
  else s.issue [(2, false)] 0 fun c =>
    let va := c.get 2
    if va != 0 && bits va 4 0 != 0 then s.trap causeMisaligned va
    else if !c.fenced 2 then s.setMe { c with wait := none }
    else match c.strand with
      | none => s
      | some t =>
        if va = 0 then s.retireBare t
        else s.reach c va 32 2 fun s pa trc => s.retireAt t pa trc

/-- Marks that the trap of an ending strand's RETIRE has begun its handler, where `s` has just become `s'` on core `n` (R348). -/
def State.trapMark (s s' : State) (n : Nat) : State :=
  let c := s'.core n
  if c.tm && !(s.core n).tm then s'.setCore n { c with ending := c.ending.map fun e => { e with trapped := true } } else s'

/-- The turn of a strand that a KEND ends: it retires at its instruction boundary, as RETIRE does (R42, R348). -/
def State.endTurn (s : State) (n : Nat) : State := if (s.core n).fault.isSome then s else s.trapMark s.retire n

/-- RETIRE. -/
def execRetire (s : State) : Res := .next s.retire

/-- KEND (R348): the node's other strands end, and the issuing strand retires. -/
def execKend (s : State) : Res :=
  .next <| match s.me.strand with
    | none => s
    | some t => (s.endStrands t.ref 0 (some s.cur)).retire

/-! ## JOIN (R43, R347) -/

/-- The strand parks on the block at physical address `b` (R43, R347). -/
def State.joinPark (s : State) (c : Core) (va : W64) (d : Reg) (b : Nat) (trc : Bool) : State :=
  if c.tm then s.trap causeSync va
  else if !c.isFull 1 then s.block
  else if bits (c.get 1) 4 0 != 0 then s.trap causeMisaligned (c.get 1)
  else match c.strand with
    | none => s
    | some t => s.reachSave c fun s lo hi =>
      let s := s.write (b + 16) (natRun 8 (c.get 1).toNat false) (coreInfo s.cur 2 trc)
      s.park s.cur c lo hi 1 va d t

/-- JOIN. -/
def execJoin (d a : Reg) (s : State) : Res :=
  .next <| s.issue [(a, false)] d fun c =>
    let va := c.get a
    s.aligned va 32 <|
      if !c.acquired then s.setMe { c with wait := none }
      else s.reach c va 32 2 fun s b trc =>
        let w0 := s.readW b
        let c := s.me.didRead b 32 (s.relsAt b 32)
        if bits w0 62 0 = 0 then s.result (c.acquireRead s.cur 2 (s.relsAt b 32)) d (if bitAt w0 63 then s.readW (b + 8) else 0)
        else if s.readW (b + 16) != 0 then s.trap causeSync va
        else s.joinPark c va d b trc

/-! ## HINTSUCC and WAITPRED (R50, R51, R407) -/

/-- HINTSUCC: the GS may place the node's early successors. -/
def execHintsucc (s : State) : Res :=
  .next <| match s.me.strand with
    | some t => let s := s.modNode t.ref fun n => { n with hinted := true }
      s.finish s.me
    | none => s.finish s.me

/-- Whether an edge is a dependence edge into a node (R283). -/
def edgeInto (e : W64) (node : Nat) : Bool := bits e 63 62 == 0 && bits e 45 34 == node

/-- The predecessor that an edge names (R283). -/
def edgeFrom (e : W64) : Nat := bits e 57 46

/-- The nodes on the dependence edges into a node. -/
def Sheaf.preds (sh : Sheaf) (node : Nat) : List Nat := (sh.edges.filter (edgeInto · node)).map edgeFrom

/-- A node of a sheaf. -/
def Sheaf.nodeAt (sh : Sheaf) (k : Nat) : Node := mget sh.nodes k resetNode

/-- Whether every predecessor's completion release has performed (R51). -/
def Sheaf.predsDone (sh : Sheaf) (node : Nat) : Bool := (sh.preds node).all fun p => (sh.nodeAt p).st == .done

/-- The lowest-numbered abnormal predecessor (R51). -/
def Sheaf.badPred (sh : Sheaf) (node : Nat) : Option Nat :=
  ((sh.preds node).filter fun p => (sh.nodeAt p).abn).foldl
    (fun m p => match m with
      | some q => some (min p q)
      | none => some p) none

/-- The value of WAITPRED (R51). -/
def Sheaf.predStatus (sh : Sheaf) (node : Nat) : W64 :=
  match sh.badPred node with
  | some p => w64 (1 + p)
  | none => 0

/-- The agents whose accesses a node's completion releases, by the place that it had (05_ordering.md R118): a team's quads, a residency's islands, else
agents of the wafer that belong to none. One that was killed before it was placed made none. -/
def Node.parties (nd : Node) (w : Nat) : List Party :=
  match nd.was with
  | .none => []
  | .team tq0 ty0 tw th => (rectQuads tq0 ty0 tw th).map fun q => .engine (w * 2 ^ 13 + q)
  | .region _ => [.island nd.field]
  | _ => [.outside w]

/-- Whether WAITPRED of core `n` synchronises with the completion that an edge brings, a release and an acquire at the edge's scope (R51;
05_ordering.md R96): every agent of the predecessor lies in the instance, and the core in theirs. -/
def Sheaf.synced (sh : Sheaf) (n : Nat) (e : W64) : Bool :=
  let sc := bits e 60 58
  ((sh.nodeAt (edgeFrom e)).parties (nWafer n)).all fun p => synchronises n sc ⟨p, sc⟩

/-- The core after WAITPRED's acquire at each edge's scope; where no edge synchronises, the reads performed ahead serve loads before the next
FENCE.acq. -/
def Sheaf.acquired (sh : Sheaf) (c : Core) (n node : Nat) : Core :=
  let es := sh.edges.filter (edgeInto · node)
  if es.isEmpty || es.any (sh.synced n) then c.acquire else c.learnt

/-- WAITPRED: waits, without limit, for the predecessors' releases, and acquires at each edge's scope. -/
def execWaitpred (d : Reg) (s : State) : Res :=
  .next <| s.issue [] d fun c =>
    match c.strand with
    | none => s
    | some t =>
      match mfind s.sheaves t.ref.sheaf with
      | none => s.result c.acquire d 0
      | some sh =>
        if sh.predsDone t.ref.node then s.result (sh.acquired c s.cur t.ref.node) d (sh.predStatus t.ref.node)
        else s.setMe { c with wait := none }

/-! ## The wait limit (R52) -/

/-- WAIT_LIMIT_TRAP: a bounded wait has passed KWLIM.lim. -/
def execWaitLimitTrap (core : Nat) (s : State) : Res :=
  .next <|
    let c := s.core core
    match c.wait with
    | none => s
    | some t0 =>
      let waited := s.now core - t0
      if c.kwlim = 0 || waited ≤ c.kwlim.toNat || c.fault.isSome || (c.ending.any (·.reason != 0)) || !s.unitRuns core .core then s
      else s.trapMark ((s.setCore core c.unhold).trapOn core causeWait (w64 waited)) core

/-! ## The start of a strand (R38, R39) -/

/-- The node entry's words of a strand's node (R279, R280). -/
def State.nodeWords (s : State) (r : NodeRef) : List W64 := ((s.node? r).map (·.words)).getD []

/-- Whether the GS honours the privileged flag: the sheaf came from the host launch queue (R206). -/
def State.nodePriv (s : State) (r : NodeRef) : Bool :=
  bitAt (nth (s.nodeWords r) 0 0) 57 && ((mfind s.sheaves r.sheaf).map (·.host)).getD false

/-- Word 3 of a record, as x[3] shows it (R36). -/
def Rec.word3 (r : Rec) : W64 :=
  w64 (place r.node 16 + place (b2n r.rsm) 5 + place (r.core % 4) 3 + place (b2n r.pin) 2 + r.prio)

/-- The core as a strand finds it (R38). -/
def State.startCore (s : State) (n : Nat) (r : Rec) (x2 x3 startCp : W64) : Core :=
  let c := s.core n
  let w := s.nodeWords r.ref
  { c.unordered with
    x := (((Vector.replicate 32 (0 : W64)).set 1 r.fp).set 2 x2).set 3 x3
    full := BitVec.allOnes 32
    pc := r.cp
    tm := false
    priv := s.nodePriv r.ref
    ktvec := w64 (bits (nth w 3 0) 55 2 * 4)
    kscr := 0
    kwlim := BitVec.ofNat 32 (bits (nth w 2 0) 31 0)
    strand := some ⟨startCp, r.prio, r.ref⟩
    ending := none
    hold := .none
    wait := none
    fetch := [] }

/-- Starts a strand from a record; a resume record completes the parked instruction first (R38, R39). -/
def State.startStrand (s : State) (n : Nat) (r : Rec) : State :=
  if !r.rsm then s.setCore n (s.startCore n r r.jc r.word3 r.cp)
  else
    let asid := (s.core n).kasid.toNat
    let rd := fun (i : Nat) => s.coreWord n asid (r.fp + w64 (8 * i))
    let w4 := rd 4
    let w5 := rd 5
    let w6 := rd 6
    let c := s.startCore n r (rd 2) (rd 3) (w64 (bits w6 55 0))
    if bits w6 63 56 = 1 then (s.setCore n { c with pc := r.cp - 4 }).trapOn n causeFailed (w64 (bits w4 31 0))
    else s.setCore n (c.put (BitVec.ofNat 5 (bits w5 14 10)) (rd 7))

/-- Whether an idle core may take a strand: its node runs, its partition runs, and no double-trap event of it waits
(R207, R214, R218). -/
def State.mayStart (s : State) (n : Nat) (t : Team) : Bool :=
  (s.core n).strand.isNone && s.partRuns (shPartKey t.ref.sheaf) && !s.awnStopped (nWafer n) (unitNo .core (nCnum n))
    && !((s.wafer (nWafer n)).raised.any fun e => e.kind == 7 && e.core == some n)

/-- A field queue after the first record with 2^16 pops has risen one level and gone behind all others; one at level 3 already keeps its
place, and its count begins again (R197, R198). -/
def ContQ.promote (q : ContQ) : ContQ :=
  let l := q.chip ++ q.ring
  match l.find? (fun r => r.pops ≥ 65536) with
  | none => q
  | some r =>
    let l := if r.prio ≥ 3 then l.replace r { r with pops := 0 } else l.erase r ++ [{ r with prio := r.prio + 1, pops := 0 }]
    ⟨l.take q.chip.length, l.drop q.chip.length⟩

/-- A field queue after every record with 2^16 pops has been promoted. -/
def ContQ.promoteAll (q : ContQ) : ContQ :=
  ((q.chip ++ q.ring).filter (fun r => r.pops ≥ 65536)).foldl (fun q _ => q.promote) q

/-- STRAND_START: an idle core pops an eligible record (R38, R197); records that this pop brings to 2^16 are promoted at once (R198). -/
def execStrandStart (core : Nat) (s : State) : Res :=
  .next <| match (s.core core).team with
    | none => s
    | some t =>
      if !s.mayStart core t then s
      else
        let q := s.quad (nQuad core)
        match q.contq.best core t.ref with
        | some r =>
          if q.contq.starved core t.ref then s
          else (s.setQuad (nQuad core) { q with contq := q.contq.take r }).startStrand core r
        | none =>
          let f := s.field (nField core)
          match f.contq.best core t.ref with
          | some r =>
            if f.contq.starved core t.ref then s
            else (s.setField (nField core) { f with contq := (f.contq.take r).counted.promoteAll }).startStrand core r
          | none => s

/-! ## Movement of records (R196 to R198) -/

/-- QUEUE_REFILL: spilled records come on chip. Queue 2 × quad is a quad's, 2 × field + 1 a field's. -/
def execQueueRefill (q : Nat) (s : State) : Res :=
  .next <|
    if q % 2 = 0 then s.setQuad (q / 2) { s.quad (q / 2) with contq := (s.quad (q / 2)).contq.refill quadChip }
    else s.setField (q / 2) { s.field (q / 2) with contq := (s.field (q / 2)).contq.refill fieldChip }

/-- Takes element `k` out of a list. -/
def dropNth {α : Type} (l : List α) (k : Nat) : List α := l.take k ++ l.drop (k + 1)

/-- HELD_RECORD_PUSH: the k-th held record, the first of its quad, is pushed when room appears. -/
def execHeldRecordPush (k : Nat) (s : State) : Res :=
  .next <| match s.held[k]? with
    | none => s
    | some h =>
      if (s.held.take k).any (·.quad == h.quad) || !s.partRuns (shPartKey h.crec.ref.sheaf) then s
      else ({ s with held := dropNth s.held k }.pushQuad h.quad h.crec).getD s

/-- RECORD_PROMOTE: a record that has reached 2^16 pops is promoted; the pop that it counted last has done so already. -/
def execRecordPromote (field : Nat) (s : State) : Res :=
  .next (s.setField field { s.field field with contq := (s.field field).contq.promote })

end Sys2Proof.Machine
end

