-- ==== Sys2Proof/Machine/Edge.lean ====
section
/-! DEFINITION. Stream graphs at the memory edge (09_edge.md R179 to R186; 21_ref_d_l.md R340, R341): binding and unbinding
slots, view accesses, accumulate slots, and what comes back to the agent that made an access. -/

namespace Sys2Proof.Machine

/-! ## Rest: what a graph still does for an access (R181, R182, R184; log 109) -/

/-- Slot sl of controller c. -/
def State.slot (s : State) (c sl : Nat) : EdgeSlot := mget (s.ctl c).slots sl resetSlot

/-- Puts back a slot. -/
def State.setSlot (s : State) (c sl : Nat) (e : EdgeSlot) : State :=
  s.setCtl c { s.ctl c with slots := mput (s.ctl c).slots sl e }

/-- Whether the GS has sent end-of-stream into the graph of a slot. -/
def State.slotEos (s : State) (e : EdgeSlot) : Bool := ((e.held.bind s.node?).map (·.eos)).getD false

/-- Whether a site's next act would be a read of memory that follows nothing that an access brought: of a generator before the end of its
nest, or of a PLD (R182). -/
def State.readsAhead (s : State) (k site : Nat) (e : EdgeSlot) : Bool :=
  let w := (s.plane k).word site
  (if siteKind site = 2 then gDir w == 0 && (s.cell k site).st == 0 else siteKind site == 0 && !isLut true site && wOp w == 0x20)
    && !s.slotEos e && !(s.cell k site).closed && (s.plan k site).1.all fun d => d.toks.head?.all fun t => !t.isEos && t.from == 0

/-- The tokens at the inputs of a site and those that its copies hold. -/
def State.siteToks (s : State) (k site : Nat) : List Tok :=
  let w := (s.plane k).word site
  ((s.works k site).flatMap fun l => (l.ops ++ l.out) ++ (if l.on then [Tok.data 0 false scaleOne false l.serves] else [])) ++ (if siteKind site = 1 then
      ((List.range 4).filter (rtIsIn (bits w 31 28))).flatMap fun i => (s.rtNeed k site (rtPorts w) i).toks
    else (s.plan k site).1.flatMap (·.toks))

/-- Whether a site feeds a channel. -/
def State.feeds (s : State) (k site : Nat) (ch : Option Nat) : Bool := ch.isSome && (s.siteOuts k site).any (·.ch == ch)

/-- Whether a site holds a token that stems from one of the accesses 1 to n. -/
def State.holdsOf (s : State) (k n site : Nat) : Bool := (s.siteToks k site).any fun t => 1 ≤ t.from && t.from ≤ n

/-- The sources that a site lacks for its next act, no copy of it being at work. -/
def State.lacksAt (s : State) (k site : Nat) : List Need :=
  let c := s.cell k site
  if c.words.isEmpty || c.done || c.closed || !(s.works k site).isEmpty then [] else (s.plan k site).1.filter (·.toks.isEmpty)

/-- The first access of a slot that waits for a word whose offset its graph has, and that the graph has yet to return. -/
def EdgeSlot.lacking (e : EdgeSlot) : Option Nat :=
  if e.kind = 1 || !e.ret.isEmpty then none
  else (e.accs.find? fun v => v.back.length < v.sent && (e.kind == 0 || v.wr.isSome)).map (·.id)

/-- Whether a site works for one of the accesses 1 to n itself: it holds what one of them brought, or feeds the return port while one of them
waits for a word. -/
def State.worksFor (s : State) (k n : Nat) (e : EdgeSlot) (site : Nat) : Bool :=
  (s.siteToks k site).any (fun t => t.own && 1 ≤ t.from && t.from ≤ n)
    || (e.lacking.any (· ≤ n) && (s.siteOuts k site).any (·.ch.isNone))

/-- The sites that work for the accesses 1 to n, after a number of rounds: themselves, or by feeding a source that one of them lacks. -/
def State.wantSet (s : State) (k n : Nat) (e : EdgeSlot) : Nat → List Nat
  | 0 => e.sites.filter (s.worksFor k n e)
  | r + 1 =>
    let ws := s.wantSet k n e r
    e.sites.filter fun y => ws.contains y || ws.any fun x => (s.lacksAt k x).any fun d => s.feeds k y d.ch

/-- The sites of a slot that work for the accesses 1 to n. -/
def State.wants (s : State) (c n : Nat) (e : EdgeSlot) : List Nat := s.wantSet (2 * c + 1) n e e.sites.length

/-- The access that a read of a site which follows nothing that an access brought serves: the first that the site works for (R182). -/
def State.readFor (s : State) (c site : Nat) (e : EdgeSlot) : Option Nat :=
  (e.accs.map (·.id)).find? fun m => (s.wants c m e).contains site

/-- Whether a token may go on with what the accesses up to number n bring: what memory has given may. -/
def Tok.upTo (t : Tok) (n : Nat) : Bool := !t.own || t.from ≤ n

/-- Whether a site can go on with what the accesses up to number n have brought, the sites of `go` having gone on: a copy is at work, or
each source of its next act holds a token or is fed by one of `go`, and each of its outputs takes one or is drained by one of `go`. A read
that follows nothing that an access brought goes on where it serves one of these accesses (`want`). -/
def State.canGo (s : State) (k n : Nat) (e : EdgeSlot) (want go : List Nat) (site : Nat) : Bool :=
  let c := s.cell k site
  let ls := s.works k site
  if !ls.isEmpty then ls.all fun l => (l.ops ++ l.out).all (·.upTo n)
  else if c.words.isEmpty || c.done then false
  else if c.closed then !c.left
  else
    (!s.readsAhead k site e || want.contains site)
    && ((s.plan k site).1.all fun x => match x.toks with
      | t :: _ => t.upTo n
      | [] => go.any fun y => s.feeds k y x.ch)
    && (s.plan k site).2.all fun o => s.takes k o || go.any fun y => (s.plan k y).1.any (·.ch == o.ch)

/-- The sites that can go on, after a number of rounds. -/
def State.goSet (s : State) (k n : Nat) (e : EdgeSlot) (want : List Nat) : Nat → List Nat
  | 0 => []
  | r + 1 =>
    let go := s.goSet k n e want r
    e.sites.filter (s.canGo k n e want go)

/-- The sites of a slot that can go on with what the accesses up to number n have brought. -/
def State.goes (s : State) (c n : Nat) (e : EdgeSlot) : List Nat := s.goSet (2 * c + 1) n e (s.wants c n e) e.sites.length

/-- Whether the graph of a slot has nothing more to do for the accesses up to number n. -/
def State.settled (s : State) (c sl n : Nat) : Bool :=
  let e := s.slot c sl
  (s.goes c n e).all fun x => !s.holdsOf (2 * c + 1) n x

/-- Whether no site of a slot can act but for those that read ahead. -/
def State.idles (s : State) (c : Nat) (e : EdgeSlot) : Bool :=
  let k := 2 * c + 1
  e.sites.all fun x => (s.works k x).isEmpty && (s.readsAhead k x e || !s.ready k x)

/-- Whether the graph of a slot is at rest: it has nothing more to do for any access, and no site of it can act but for those that read
ahead. -/
def State.slotRest (s : State) (c sl : Nat) : Bool := s.idles c (s.slot c sl) && s.settled c sl (s.slot c sl).seen

/-- The mark of the access that the next act of the copy at site `x`, whose word stands at `site`, serves where it reads ahead, 0 where it does
not; none where it would read for no access (R182). A firing under way keeps its own. -/
def State.serving (s : State) (k site x : Nat) : Option Nat :=
  match fabCtl k with
  | none => some 0
  | some c => match (s.ctl c).slotOf site with
    | none => some 0
    | some (_, e) =>
      if (s.lane k x).works then some (s.lane k x).serves
      else if s.readsAhead k site e then (s.readFor c site e).map readMark else some 0

/-- The copy at a site with the mark of the access that it serves. -/
def State.mark (s : State) (k x m : Nat) : State := if (s.lane k x).serves = m then s else s.setLane k x { s.lane k x with serves := m }

/-! ## What comes back to the agent (R181, R186) -/

/-- The result of an access to a window reaches the core whose port holds it: poison is a fault of type 3, which waits while another
holds the core (R186; 11_faults.md R210). -/
def State.viewCore (s : State) (n id : Nat) (v : VAcc) (bs : List (Byte × Bool)) : State :=
  match (s.core n).find id with
  | none => s
  | some a =>
    if a.phase != .viewing then s
    else if v.wr.isSome then (s.setCore n ((s.core n).done id 0)).endParked n
    else if bs.any (·.2) then (s.setCore n ((s.core n).setPhase id .tainted)).taintFault n a
    else s.setCore n ((s.core n).loaded n a (w64 (runNat bs)) [])

/-- It reaches a generator, PLD or PST of a fabric, whose firing ends (08_fabric.md R158). -/
def State.viewFab (s : State) (k site : Nat) (bs : List (Byte × Bool)) : State :=
  let l := s.lane k site
  if !l.busy then s
  else
    let a := s.seatAt k site
    let ws := (s.cell k a.b).words
    let s := s.setLane k site { l with busy := false }
    if siteKind site = 2 then s.genDone k site ((s.plane k).genOuts site) ws bs else s.endFiring a (memToks (nth ws 0 0) bs)

/-- It reaches the unit that made the access: the bytes of a read, or the acknowledgement of a write. -/
def State.viewDone (s : State) (v : VAcc) (bs : List (Byte × Bool)) : State :=
  match v.owner with
  | .late n id => s.viewCore n id v bs
  | .queue q =>
    let p := s.prog q
    if !p.view then s
    else if v.wr.isSome then s.setProg q { p with view := false, put := p.put + v.size }
    else s.setProg q { p with view := false, got := p.got ++ bs }
  | .ltx _ g =>
    match s.jobOf g with
    | some j =>
      if j.view then
        (s.modJob g fun j => { j with view := false, buf := some bs }).setGt g { s.gt g with since := s.time }
      else s
    | none => s
  | .fab k site => s.viewFab k site bs
  | .red g =>
    match mfind s.reds g with
    | some r => if r.drain.view then s.setRed g { r with drain := { r.drain with view := false, put := r.drain.put + v.size } } else s
    | none => s
  | .cred g w =>
    match mfind s.creds g with
    | some r =>
      let p := mget r.parts w resetCredW
      if p.drain.view then s.setCredW g w { p with drain := { p.drain with view := false, put := p.drain.put + v.size } } else s
    | none => s
  | _ => s

/-! ## Accesses of a slot in order (R182) -/

/-- Memory words that an access touches. -/
def VAcc.words (v : VAcc) : Nat := (v.off + v.size + 7) / 8 - v.off / 8

/-- The written word number i of an access, zero in bytes that it does not cover, with its poison. -/
def VAcc.word (v : VAcc) (i : Nat) : W64 × Bool :=
  let lo := (v.off / 8 + i) * 8
  let bs := v.wr.getD []
  let cell := fun (j : Nat) => if lo + j < v.off then ((0 : Byte), false) else nth bs (lo + j - v.off) (0, false)
  let run := (List.range 8).map cell
  (w64 (runNat run), run.any (·.2))

/-- The bytes that a read asked for, out of the words that came back. -/
def VAcc.bytes (v : VAcc) : List (Byte × Bool) :=
  ((v.back.flatMap fun p => natRun 8 p.1.toNat p.2).drop (v.off % 8)).take v.size

/-- An access has performed: it leaves the order, cnt rises, and its agent hears of it. -/
def State.viewOver (s : State) (c sl : Nat) (v : VAcc) (bs : List (Byte × Bool)) : State :=
  let e := s.slot c sl
  ((s.setSlot c sl { e with accs := e.accs.erase v, cnt := e.cnt + 1 }).putWord4 c sl).viewDone v bs

/-- An access handled as a kill handles it: a read returns poison, a write performs nowhere (R186). -/
def State.viewKill (s : State) (v : VAcc) : State := s.viewDone v (List.replicate v.size (0, true))

/-- Every outstanding access of a slot handled so. -/
def State.slotKill (s : State) (c sl : Nat) : State :=
  let e := s.slot c sl
  e.accs.foldl (fun s v => s.viewKill v) (s.setSlot c sl { e with accs := [], killed := true })

/-- Gives a returned word to the first access that still expects one: the accesses after it, and whether one did. -/
def giveBack (t : W64 × Bool) : List VAcc → List VAcc × Bool
  | [] => ([], false)
  | v :: r =>
    if v.back.length < v.sent then ({ v with back := v.back ++ [t] } :: r, true)
    else
      let (r', ok) := giveBack t r
      (v :: r', ok)

/-- A token at the return port (R181): the word of an offset, or one too many. The cell that the event of a cause 8 halt names is the
first site of the slot's image, since no cell has caused it (DESIGN CHOICE, log 113). -/
def State.viewReturn (s : State) (c sl : Nat) (e : EdgeSlot) (t : Tok) (rest : List Tok) : State :=
  match t with
  | .eos => s.setSlot c sl { e with ret := rest }
  | .data v p _ _ _ =>
    let (accs, ok) := if e.kind = 1 then (e.accs, false) else giveBack (v, p) e.accs
    if ok then s.setSlot c sl { e with accs := accs, ret := rest }
    else if e.strict then
      match e.sites with
      | site :: _ => s.fabHalt (2 * c + 1) site 8
      | [] => s
    else (s.setSlot c sl { e with ret := rest, extra := true }).putWord4 c sl

/-- The first access with words that the graph is to have and has not yet been offered: of an accumulate slot, written words (R185). -/
def offerNext (kind : Nat) : List VAcc → Option (VAcc × Nat)
  | [] => none
  | v :: r => if v.sent < v.words && (kind ≠ 2 || v.wr.isSome) then some (v, v.sent) else offerNext kind r

/-- Offers the next word of the order to the graph (R181, R185), each token with the mark of its access. -/
def State.viewOffer (s : State) (c sl : Nat) (e : EdgeSlot) : State :=
  match offerNext e.kind e.accs with
  | none => s
  | some (v, i) =>
    let off : Tok := .data (w64 ((v.off / 8 + i) * 8)) false scaleOne false (ownMark v.id)
    let d := v.word i
    let wt : Tok := .data d.1 d.2 scaleOne false (ownMark v.id)
    let accs := e.accs.map fun x => if x = v then { x with sent := i + 1 } else x
    s.setSlot c sl { e with
      accs := accs
      port := e.port ++ (if e.kind = 1 then [off, wt] else [off])
      acin := if e.kind = 2 then e.acin ++ [wt] else e.acin }

/-- Whether a controller takes part: no round has stopped it. -/
def State.ctlRuns (s : State) (c : Nat) : Bool := !s.awnStopped (c / 64) (unitNo .ctl (c % 64))

/-- VIEW_ACCESS: one step of slot `slot`'s accesses through its graph: a returned word, a performed access, or the next word on
offer (R181, R182). The first access of the order performs once its words have come back, or of a write view have gone in, and the graph
has made every backing access for it; what later accesses do or hold does not delay it (R186). -/
def execViewAccess (ctl slot : Nat) (s : State) : Res :=
  .next <|
    let e := s.slot ctl slot
    if !e.bound || e.halt || !s.ctlRuns ctl || (e.kind = 2 && e.img = 0) then s
    else match e.ret with
      | t :: rest => s.viewReturn ctl slot e t rest
      | [] =>
        match e.accs with
        | [] => s
        | v :: _ =>
          if e.kind = 0 && v.back.length = v.words && s.settled ctl slot v.id then s.viewOver ctl slot v v.bytes
          else if e.kind = 1 && v.sent = v.words && s.settled ctl slot v.id then s.viewOver ctl slot v []
          else s.viewOffer ctl slot e

/-! ## Accumulate slots (R185, 03_numbers.md R71) -/

/-- Whose addresses the accumulate generator of a slot translates, through the cache and walker of the field that bears the controller's number
(DESIGN CHOICE, log 67). -/
def State.accWho (s : State) (c sl : Nat) (e : EdgeSlot) : Who :=
  ⟨8 * (2 ^ 47 + c * 16 + sl) + 7, c / 64, fieldKey (c / 64) (c % 64), none, e.asid,
    match e.held with
    | some r => s.nodePriv r
    | none => e.cred.isSome⟩

/-- A fault of the accumulate generator. -/
def accFault (c sl : Nat) (e : EdgeSlot) (va : W64) (ty acc : Nat) : GenFault :=
  { owner := .edge c sl, ref := e.held, wafer := c / 64, cls := 5, agent := c / 64 * 2 ^ 15 + c % 64, gen := 8, stream := 0,
    va := va, ty := ty, acc := acc, ctrs := [] }

/-- The FP32 values that a write adds, by element: as written, or as the graph returned them. -/
def VAcc.addends (v : VAcc) (graph : Bool) : List (W32 × Bool) :=
  if graph then
    (bytesElems 4 ((v.back.flatMap fun p => natRun 8 p.1.toNat p.2).drop (v.off % 8))).take (v.size / 4)
  else bytesElems 4 (v.wr.getD [])

/-- The oldest access of an accumulate slot reaches the next piece of its backing bytes, up to a 4 KiB boundary: each piece is translated
and its home checked for itself. A read takes the bytes, a write's elements are added by the port adders; once no piece is left the
access performs. -/
def State.accPiece (s : State) (c sl : Nat) (e : EdgeSlot) (v : VAcc) : State :=
  let d := v.got.length
  let va := e.acc + w64 (v.off + d)
  let n := pieceLen va (v.size - d)
  let acc := if v.wr.isSome then 1 else 0
  let go := fun (s : State) (bs : List (Byte × Bool)) =>
    let e := s.slot c sl
    let v' := { v with got := v.got ++ bs }
    if v'.got.length < v.size then s.setSlot c sl { e with accs := e.accs.map fun x => if x.id = v.id then v' else x }
    else (s.setSlot c sl { e with accs := e.accs.map fun x => if x.id = v.id then v' else x }).viewOver c sl v' (if v.wr.isSome then [] else v'.got)
  if e.skip then go (s.setSlot c sl { e with skip := false }) (List.replicate n (0, true))
  else match s.translate (s.accWho c sl e) va n acc with
    | .miss => s.askWalk (s.accWho c sl e) va acc (accFault c sl e va 1 acc)
    | .bad t => s.raiseGen (accFault c sl e va t acc)
    | .ok pa trc _ =>
      match homeOf pa with
      | .hbm w m _ =>
        if w ≠ c / 64 || m ≠ c % 64 then s.raiseGen (accFault c sl e va 2 acc)
        else if v.wr.isSome then
          let add := ((v.addends (e.img != 0)).drop (d / 4)).take (n / 4)
          let bs := elemBytes (addVec (bytesElems 4 (s.readRun pa n)) add)
          go (s.write pa bs ⟨4, 5, c / 64 * 2 ^ 15 + c % 64, trc, 0⟩) bs
        else go s (s.readRun pa n)
      | _ => s.raiseGen (accFault c sl e va 2 acc)

/-- ACCUMULATE_WRITE: a piece of the oldest access of an accumulate slot reaches the backing buffer, once its graph has returned the words
of a write. -/
def execAccumulateWrite (ctl slot : Nat) (s : State) : Res :=
  .next <|
    let e := s.slot ctl slot
    if !e.bound || e.halt || e.kind != 2 || e.fault.isSome || !s.ctlRuns ctl then s
    else match e.accs with
      | [] => s
      | v :: _ =>
        if e.img != 0 && v.wr.isSome && !(v.back.length ≥ v.words && s.settled ctl slot v.id) then s
        else s.accPiece ctl slot e v

/-! ## Descriptors and images (R183, R341) -/

/-- A descriptor breaks no rule of R341 for a bind of kind `acc` (2) or of a view. R183 wants img aligned on 8 bytes and acc zero but in kind 2,
and R341's list of bad descriptors names neither: a descriptor that is otherwise is bad too (DESIGN CHOICE, log 119). -/
def descOk (acc : Bool) (ds : List W64) : Bool :=
  let w0 := nth ds 0 0
  let w1 := nth ds 1 0
  let w2 := nth ds 2 0
  let w3 := nth ds 3 0
  let kind := bits w0 63 62
  bits w0 60 32 == 0 && bits w1 63 56 == 0 && bits w2 63 18 == 0 && bits w3 63 56 == 0 && nth ds 5 0 == 0 && nth ds 6 0 == 0
    && nth ds 7 0 == 0 && kind ≠ 3 && (kind == 2 || (w1 != 0 && w3 == 0)) && bits w1 2 0 == 0 && bits w3 11 0 == 0
    && (acc == (kind == 2))

/-- How far the words of an image go: more words are needed, the image is over, or a placement word is bad (08_fabric.md R167). -/
inductive ImgSt where
  | more (n : Nat)
  | over (recs : List (Nat × List W64))
  | bad
  deriving DecidableEq, Repr

/-- Reads the words of an image so far. -/
def parseImage (ef : Bool) (h : Nat) : Nat → List W64 → List (Nat × List W64) → ImgSt
  | 0, _, _ => .bad
  | _ + 1, [], _ => .more 1
  | k + 1, p :: r, recs =>
    if bits p 63 60 = 0xF then (if p = w64 (0xF * 2 ^ 60) then .over recs else .bad)
    else match siteOf ef h p with
      | none => .bad
      | some site =>
        let n := bits p 47 44
        if r.length < n then .more (n - r.length)
        else parseImage ef h k (r.drop n) (recs ++ [(site, r.take n)])

/-- The plane that an image alone makes. -/
def planeOf (recs : List (Nat × List W64)) : Plane :=
  { resetPlane with cells := recs.foldl (fun m p => mput m p.1 (cellOf p.2)) [] }

/-- The words of a graph's image are in order. -/
def graphOk (recs : List (Nat × List W64)) : Bool :=
  let p := planeOf recs
  recs.all (fun x => x.1 < badSite && recordOk true (recordKind true x.1) x.2) && (p.firstBad true 1 (recs.map (·.1))).isNone

/-- The sites of an image and of the copies of its words. -/
def graphSites (recs : List (Nat × List W64)) : List Nat :=
  let p := planeOf recs
  p.cells.flatMap fun e =>
    if siteKind e.1 = 0 && !isLut true e.1 then (List.range (wRep (p.word e.1))).map (copySite true e.1) else [e.1]

/-- Whether another bound slot of the fabric uses a site of the image (R184). -/
def State.cellsBusy (s : State) (c sl : Nat) (recs : List (Nat × List W64)) : Bool :=
  (s.ctl c).slots.any fun e => e.1 != sl && e.2.bound && (graphSites recs).any e.2.sites.contains

/-- A plane without the channels into some sites, and with no copy of them at work. -/
def Plane.clear (p : Plane) (sites : List Nat) : Plane :=
  let ports := sites.flatMap fun x => p.claims x ++ (if siteKind x = 1 then [] else [x * 16 + 15])
  { p with
    chans := p.chans.filter fun e => !ports.contains e.1 && !(e.1 % 16 > 3 && e.1 % 16 < 15 && sites.contains (e.1 / 16))
    lanes := p.lanes.filter fun e => !sites.contains e.1 }

/-- Binds a slot at one instant (R184, R341): its graph takes its cells, the seed goes into the fabric's generator, and word 4 of the
descriptor is cleared. -/
def State.bindSlot (s : State) (c sl : Nat) (desc : W64) (asid : Nat) (ds : List W64) (recs : List (Nat × List W64)) : State :=
  let e := s.slot c sl
  let k := s.ctl c
  let p := recs.foldl (fun (p : Plane) x => p.setCell x.1 { cellOf x.2 with ready := true }) k.fab
  let sites := graphSites recs
  let s := s.setCtl c { k with fab := p.clear sites, gen := seedOf (bits (nth ds 0 0) 31 0) }
  (s.setSlot c sl {
    resetSlot with bound := true, held := e.held, kind := bits (nth ds 0 0) 63 62, strict := bitAt (nth ds 0 0) 61, desc := desc,
                   asid := asid, wlen := bits (nth ds 2 0) 17 0, acc := nth ds 3 0, img := nth ds 1 0, sites := sites }).putWord4 c sl

/-- Begins to unbind a slot: later accesses fault; those of a halted slot are handled as in a kill (R184, R186). -/
def State.closeSlot (s : State) (c sl : Nat) : State :=
  let s := s.setSlot c sl { s.slot c sl with closing := true }
  if (s.slot c sl).halt then s.slotKill c sl else s

/-- A slot that is being unbound is unbound once its accesses have performed, with all their backing accesses (R184); those of a slot
that has halted meanwhile are handled as in a kill (R186). Its cells are free. -/
def State.freeSlot (s : State) (c sl : Nat) : State :=
  let s := if (s.slot c sl).closing && (s.slot c sl).halt && !(s.slot c sl).killed then s.slotKill c sl else s
  let e := s.slot c sl
  if !e.closing || !e.accs.isEmpty || !(e.killed || s.slotRest c sl) then s
  else
    let k := s.ctl c
    let p := k.fab.clear e.sites
    let s := s.setCtl c { k with fab := { p with cells := p.cells.filter fun x => !e.sites.contains x.1 } }
    let fs := s.faults.filter fun f => match f.2.owner with
      | .fab x site => !(x == 2 * c + 1 && e.sites.contains site)
      | .edge x y => !(x == c && y == sl)
      | _ => true
    { s with faults := fs }.setSlot c sl { resetSlot with held := e.held }

/-! ## GBIND, GACC, GUNBIND (R340, R341) -/

/-- slot of an edge-graph command. -/
def Cmd.eslot (c : Cmd) : Nat := bits c.w2 11 8

/-- ctl of an edge-graph command. -/
def Cmd.ectl (c : Cmd) : Nat := bits c.w2 5 0

/-- The checks of an edge-graph command. -/
def gOk (unbind : Bool) (q : QCmd) : Bool :=
  let c := q.c
  netOk c && bits c.w2 63 12 == 0 && bits c.w2 7 6 == 0 && Cmd.ectl c ≤ 47
    && (if unbind then c.w1 == 0 else bits c.w1 63 56 == 0 && bits c.w1 5 0 == 0)

/-- Whether a slot is held by a node of a command's partition. -/
def EdgeSlot.heldBy (e : EdgeSlot) (part : Nat) : Bool :=
  match e.held with
  | some r => shPartKey r.sheaf == part
  | none => false

/-- 64-bit words of bytes. -/
def runWords64 (bs : List (Byte × Bool)) : List W64 := (chunks 8 (bs.length / 8 + 1) bs).map fun p => w64 (runNat p)

/-- Reads the next `n` bytes at `va` for a bind: a read abandoned by KSVC ends the command with `st`, a poisoned word is a fault of
type 3, and `k` goes on with the bytes. -/
def State.bindRead (s : State) (c : QCmd) (va : W64) (n st : Nat) (k : State → List (Byte × Bool) → State) : State :=
  let q := s.curQ
  if (s.prog q).skip then s.cmdDone q c st
  else match s.engRead q c ⟨0, 0, va, 0, []⟩ n with
    | .error s => s
    | .ok (s, bs) =>
      let s := s.setProg q { s.prog q with got := [] }
      if bs.any (·.2) then s.raiseGen (engFault q c ⟨0, 0, va, 0, []⟩ 0 3) else k s bs

/-- Binds when the image is whole and its cells are free; the status. -/
def State.bindEnd (s : State) (c : QCmd) (ds : List W64) (recs : List (Nat × List W64)) : State :=
  let q := s.curQ
  let ctl := nWafer (qName q) * 64 + Cmd.ectl c.c
  let sl := Cmd.eslot c.c
  if !graphOk recs then s.cmdDone q c 0x17
  else if s.cellsBusy ctl sl recs then s.cmdDone q c 0x16
  else (s.bindSlot ctl sl (w64 (bits c.c.w1 55 0)) c.asid ds recs).cmdDone q c 0

/-- GBIND and GACC: the descriptor, its checks, the image, and the bind (R341). -/
def State.bind (s : State) (acc : Bool) (c : QCmd) : State :=
  let q := s.curQ
  let ctl := nWafer (qName q) * 64 + Cmd.ectl c.c
  let sl := Cmd.eslot c.c
  let p := s.prog q
  if !p.on then
    s.bindRead c (w64 (bits c.c.w1 55 0)) 64 0x18 fun s bs => s.setProg q { s.prog q with on := true, buf := bs }
  else
    let all := runWords64 p.buf
    let ds := all.take 8
    let e := s.slot ctl sl
    if !descOk acc ds then s.cmdDone q c 0x18
    else if !e.heldBy (QCmd.part q c) then s.cmdDone q c 0x15
    else if e.bound || e.closing then s.cmdDone q c 0x1A
    else if nth ds 1 0 = 0 then s.bindEnd c ds []
    else match parseImage true 1 imageFuel (all.drop 8) [] with
      | .bad => s.cmdDone q c 0x17
      | .over recs => s.bindEnd c ds recs
      | .more n =>
        s.bindRead c (nth ds 1 0 + w64 (8 * (all.length - 8))) (8 * n) 0x17 fun s bs =>
          s.setProg q { s.prog q with buf := p.buf ++ bs }

/-- GBIND: binds a read or write view. -/
def execGbind (_c : Cmd) (s : State) : Res := .next <| s.checked (gOk false) fun c => s.bind false c

/-- GACC: binds an accumulate slot. -/
def execGacc (_c : Cmd) (s : State) : Res := .next <| s.checked (gOk false) fun c => s.bind true c

/-- GUNBIND: releases a slot; its mailbox is released when every earlier access has performed (R184). -/
def execGunbind (_c : Cmd) (s : State) : Res :=
  .next <| s.checked (gOk true) fun c =>
    let q := s.curQ
    let ctl := nWafer (qName q) * 64 + Cmd.ectl c.c
    let sl := Cmd.eslot c.c
    let e := s.slot ctl sl
    if (s.prog q).on then
      if e.closing then
        let s := s.freeSlot ctl sl
        if (s.slot ctl sl).closing then s else s.cmdDone q c 0
      else s.cmdDone q c 0
    else if !e.heldBy (QCmd.part q c) then s.cmdDone q c 0x15
    else if !e.bound || e.closing then s.cmdDone q c 0x19
    else (s.closeSlot ctl sl).setProg q { s.prog q with on := true }

end Sys2Proof.Machine
end

