-- ==== Sys2Proof/Machine/Futures.lean ====
section
/-! DEFINITION. Futures and rendezvous points (02_execution.md R44 to R48; 20_ref_a_c.md R314, R317, R319;
21_ref_d_l.md R339). Each acts atomically at its table or point at the instant the instruction completes. -/

namespace Sys2Proof.Machine

/-! ## Handles (R44, R45) -/

/-- The field index of a handle. -/
def hField (h : W64) : Nat := bits h 31 25

/-- The entry of a handle. -/
def hEntry (h : W64) : Nat := bits h 24 9

/-- The generation of a handle. -/
def hGen (h : W64) : Nat := bits h 8 0

/-- A handle from its fields. -/
def mkHandle (field entry gen : Nat) : W64 := w64 (field * 2 ^ 25 + entry * 2 ^ 9 + gen)

/-- The field key of a handle that a core of wafer `w` holds. -/
def hKey (w : Nat) (h : W64) : Nat := fieldKey w (hField h)

/-- The entry of a handle. -/
def State.fut (s : State) (w : Nat) (h : W64) : Fut := mget (s.field (hKey w h)).futs (hEntry h) resetFut

/-- Puts back the entry of a handle. -/
def State.setFut (s : State) (w : Nat) (h : W64) (f : Fut) : State :=
  let fl := s.field (hKey w h)
  s.setField (hKey w h) { fl with futs := mput fl.futs (hEntry h) f }

/-- Whether a handle is stale (R45). -/
def State.stale (s : State) (w : Nat) (h : W64) : Bool :=
  bits h 63 32 != 0 || !s.fieldOn w (hField h) || hEntry h == 0 || (s.fut w h).st == .free
    || hGen h != (s.fut w h).gen.toNat

/-! ## FNEW -/

/-- The first free entry at or after `e`, within `k` looks, round 1 to 65,535 (R46). -/
def freeFrom (m : Map Fut) (e : Nat) : Nat → Nat
  | 0 => 0
  | k + 1 => if (mget m e resetFut).st == .free then e else freeFrom m (if e ≥ 65535 then 1 else e + 1) k

/-- Any free entry of a table, 0 where it has none. -/
def anyFree (m : Map Fut) (hint : Nat) : Nat := freeFrom m (hint % 65535 + 1) (min 65535 (m.length + 1))

/-- FNEW: takes any free entry of the core's own field; with d = 0 it has no effect (R339). -/
def execFnew (d : Reg) (s : State) : Res :=
  .next <| s.issue [] d fun c =>
    if d = 0 then s.finish c
    else
      let k := nField s.cur
      let e := anyFree (s.field k).futs (Config.freeEntry s.tick)
      if e = 0 then s.result c d 0
      else
        let f := s.field k
        let old := mget f.futs e resetFut
        let s := s.setField k { f with futs := mput f.futs e { old with st := .pending, val := 0, waiters := [] } }
        s.result c.learnt d (mkHandle (k % 128) e old.gen.toNat)

/-! ## Releasing waiters -/

/-- Releases the strands parked on an entry, in list order (R39, R46). -/
def State.releaseAll (s : State) (ids : List Nat) (out : Nat) (val : W64) (prio : Nat) : State :=
  ids.foldl (fun s i =>
    match s.parked.find? (·.id == i) with
    | some p => s.unpark p out val prio
    | none => s) s

/-- An FWAIT that waits on a handle ends, with the value or, as FGET does on a failed or freed entry, by the future-failed
trap (R46, R53; log 20). -/
def State.wakeFwait (s : State) (h : W64) (w : Nat) (val : Option W64) : State :=
  (s.cores.map (·.1)).foldl (fun s n =>
    let c := s.core n
    match c.hold with
    | .fwait h' d _ =>
      if h' == h && nWafer n == w then
        match val with
        | some v => s.setCore n ({ c.acquire with hold := .none, wait := none, pc := c.pc + 4 }.put d v)
        | none => (s.setCore n c.unhold).trapOn n causeFailed h
      else s
    | _ => s) s

/-- The priority of a core's strand. -/
def Core.prio (c : Core) : Nat := (c.strand.map (·.prio)).getD 0

/-- FSET and FSET.F (R46): FENCE.rel at wafer scope, then the entry's new state, at the entry's table. -/
def State.futSet (s : State) (a b : Reg) (ok : Bool) : State :=
  s.issue [(a, false), (b, false)] 0 fun c =>
    let h := c.get a
    let w := nWafer s.cur
    if s.stale w h then s.trap causeStale h
    else if !c.fenced 3 then s.setMe { c with wait := none }
    else
      let s := s.setMe (c.relFence 3)
      let e := s.fut w h
      if e.st != .pending then s.trap causeStale h
      else
        let v := if ok then c.get b else 0
        let s := s.setFut w h { e with st := if ok then .set else .failed, val := v, waiters := [] }
        let s := s.releaseAll e.waiters (if ok then 0 else 1) v c.prio
        let s := s.wakeFwait h w (if ok then some v else none)
        s.finish s.me

/-- FSET. -/
def execFset (a b : Reg) (s : State) : Res := .next (s.futSet a b true)

/-- FSET.F. -/
def execFsetF (a b : Reg) (s : State) : Res := .next (s.futSet a b false)

/-! ## FGET, FWAIT, FFREE -/

/-- The strand parks on a pending entry (R39, R46): its save area joins the entry's list through the link words. -/
def State.futPark (s : State) (c : Core) (h : W64) (d : Reg) : State :=
  let w := nWafer s.cur
  if c.tm then s.trap causeSync h
  else if !c.isFull 1 then s.block
  else if bits (c.get 1) 4 0 != 0 then s.trap causeMisaligned (c.get 1)
  else match c.strand with
    | none => s
    | some t => s.reachSave c fun s lo hi =>
      let e := s.fut w h
      let s := match (e.waiters.getLast?).bind fun i => s.parked.find? (·.id == i) with
        | some p => s.putCoreWord p.core p.asid (p.save + 8) (c.get 1)
        | none => s
      let s := s.setFut w h { e with waiters := e.waiters ++ [s.serial] }
      s.park s.cur c lo hi 2 h d t

/-- FGET: of a set entry its value, with FENCE.acq at wafer scope, which waits for the core's earlier reads and vector commands (R46, R108);
of a pending one it parks the strand. -/
def execFget (d a : Reg) (s : State) : Res :=
  .next <| s.issue [(a, false)] d fun c =>
    let h := c.get a
    let w := nWafer s.cur
    if s.stale w h then s.trap causeStale h
    else
      let e := s.fut w h
      if e.st == .failed then s.trap causeFailed h
      else if !c.acquired then s.setMe { c with wait := none }
      else if e.st == .set then s.result c.acquire d e.val
      else s.futPark c h d

/-- FWAIT: as FGET, but a pending entry holds the core, bounded by KWLIM, with x[d] marked empty (R339). -/
def execFwait (d a : Reg) (s : State) : Res :=
  .next <| s.issue [(a, false)] d fun c =>
    let h := c.get a
    let w := nWafer s.cur
    if s.stale w h then s.trap causeStale h
    else
      let e := s.fut w h
      if e.st == .failed then s.trap causeFailed h
      else if !c.acquired then s.setMe { c with wait := none }
      else if e.st == .set then s.result c.acquire d e.val
      else
        s.setMe { c.mkEmpty d with hold := .fwait h d (c.isFull d), wait := some (s.now s.cur) }

/-- FFREE: the entry is freed, its generation steps, and its waiters fail (R46). -/
def execFfree (a : Reg) (s : State) : Res :=
  .next <| s.issue [(a, false)] 0 fun c =>
    let h := c.get a
    let w := nWafer s.cur
    if s.stale w h then s.trap causeStale h
    else
      let e := s.fut w h
      let s := s.setFut w h { e with st := .free, gen := e.gen + 1, waiters := [] }
      let s := s.releaseAll e.waiters 1 0 0
      let s := s.wakeFwait h w none
      s.finish s.me

/-! ## Rendezvous points (R47, R48) -/

/-- Whether a register holds a point word: an index to 23 and a scope from quad to pod (R48). -/
def pointOk (v : W64) : Bool :=
  bits v 63 11 == 0 && bits v 7 5 == 0 && bits v 4 0 ≤ 23 && 1 ≤ bits v 10 8 && bits v 10 8 ≤ 4

/-- The scope of a point word. -/
def pointScope (v : W64) : Nat := bits v 10 8

/-- What shares a point (R47): for a team's point its sheaf and node, for a pod point of a pod-wide launch the launch. -/
def pointOwner (sheaf : Nat) (pod : Option Nat) (sc : Nat) : Nat :=
  match pod with
  | some k => if sc = 4 then 2 * k + 1 else 2 * sheaf
  | none => 2 * sheaf

/-- The part of the machine that a point of scope `sc` covers, seen from core `n`. -/
def pointPlace (n sc : Nat) : Nat := if sc = 1 then nQuad n else if sc = 2 then nField n else 0

/-- The key of a point. -/
def State.pointKey (s : State) (n : Nat) (r : NodeRef) (v : W64) : Nat :=
  let pod := (mfind s.sheaves r.sheaf).bind (·.pod)
  let sc := pointScope v
  ((pointOwner r.sheaf pod sc * 4096 + r.node) * 2 ^ 20 + pointPlace n sc) * 256 + sc * 32 + bits v 4 0

/-- The core's strand, for a point. -/
def State.point (s : State) (c : Core) (v : W64) (k : Nat → State) : State :=
  if !pointOk v then s.trap causeSync v
  else match c.strand with
    | none => s
    | some t => k (s.pointKey s.cur t.ref v)

/-- BINIT (R317). -/
def execBinit (a b : Reg) (s : State) : Res :=
  .next <| s.issue [(a, false), (b, false)] 0 fun c =>
    s.point c (c.get a) fun k =>
      let v := c.get b
      if bits v 63 16 != 0 || bits v 15 0 = 0 then s.trap causeSync v
      else if mhas s.points k then s.trap causeSync (c.get a)
      else { s with points := mput s.points k ⟨bits v 15 0, 0, false⟩ }.finish c

/-- Ends the BWAITs that wait on a point for a parity other than theirs (R48). -/
def State.wakeBwait (s : State) (k : Nat) (par : Bool) : State :=
  (s.cores.map (·.1)).foldl (fun s n =>
    let c := s.core n
    match c.hold with
    | .bwait k' p d =>
      if k' == k && p != par then s.setCore n ({ c.acquire with hold := .none, wait := none, pc := c.pc + 4 }.put d (truth par))
      else s
    | _ => s) s

/-- A point after one arrival (R48). -/
def Point.arrive (p : Point) : Point :=
  if p.arrivals + 1 = p.expected then { p with arrivals := 0, parity := !p.parity } else { p with arrivals := p.arrivals + 1 }

/-- ARRIVE (R314): a release at the point's scope, then one arrival. -/
def execArrive (d a : Reg) (s : State) : Res :=
  .next <| s.issue [(a, false)] d fun c =>
    s.point c (c.get a) fun k =>
      if !c.released (pointScope (c.get a)) then s.setMe { c with wait := none }
      else match mfind s.points k with
        | none => s.trap causeSync (c.get a)
        | some p =>
          let p' := p.arrive
          let s := { s with points := mput s.points k p' }
          let s := if p'.parity != p.parity then s.wakeBwait k p'.parity else s
          s.result s.me.learnt d (truth p.parity)

/-- BWAIT (R319): waits until the parity differs from x[b][0], then acquires. -/
def execBwait (d a b : Reg) (s : State) : Res :=
  .next <| s.issue [(a, false), (b, false)] d fun c =>
    s.point c (c.get a) fun k =>
      match mfind s.points k with
      | none => s.trap causeSync (c.get a)
      | some p =>
        let old := bitAt (c.get b) 0
        if p.parity != old then s.result c.acquire d (truth p.parity)
        else s.setMe { c with hold := .bwait k old d, wait := some (s.now s.cur) }

end Sys2Proof.Machine
end

