-- ==== Sys2Proof/Machine/Resid.lean ====
section
/-! DEFINITION. Fabric residencies (08_fabric.md R168 to R178; 20_ref_a_c.md R322 to R325, R331, R332): their configuration lists,
loading, demand, calls and returns, requests for subgraphs; and messages to them (02_execution.md R49; R312, R360). -/

namespace Sys2Proof.Machine

/-! ## Configuration lists (R169) -/

/-- A list entry, read and checked when the residency first reaches it: a cause, or the entry. -/
def State.listEntry (s : State) (r : Resid) (idx : Nat) : Except Nat ListEntry :=
  match mfind r.entries idx with
  | some e => .ok e
  | none =>
    match s.hwReads (r.field / 128) r.asid (r.list + w64 (16 * idx)) 2 with
    | some [w0, w1] =>
      if bits w0 63 56 != 0 || bits w0 2 0 != 0 || bits w1 55 32 != 0 then .error 1
      else .ok ⟨w0, bits w1 63 56, bits w1 31 0⟩
    | _ => .error 7

/-- A list entry and, where it has a pass to run, the records of its whole image: a cause, or both. A call runs one whatever `iters`
says. -/
def State.readEntry (s : State) (r : Resid) (idx : Nat) (call : Bool) : Except Nat (ListEntry × List (Nat × List W64)) :=
  match s.listEntry r idx with
  | .error c => .error c
  | .ok e =>
    if e.iters = 0 && !call then .ok (e, [])
    else match s.readImage (r.field / 128) r.asid false r.h e.img imageFuel with
      | some recs => .ok (e, recs)
      | none => .error 7

/-- Whether the fabric manager of a residency goes on with a configuration that it has begun: its node has started, it is not halted, no
round has stopped it, and it is not swapped out. A partition's pre-emption waits for it (R178; 11_faults.md R214). -/
def State.loadRuns (s : State) (i : Nat) (r : Resid) : Bool :=
  !r.halt && !s.awnStopped (r.field / 128) (unitNo .resid i) && (s.part (shPartKey r.ref.sheaf)).st != .swapped
    && (r.inst.isSome || (match s.node? r.ref with
      | some n => n.st == .running
      | none => false))

/-- Whether it goes on to another: its partition runs too. -/
def State.residRuns (s : State) (i : Nat) (r : Resid) : Bool := s.loadRuns i r && s.partRuns (shPartKey r.ref.sheaf)

/-- A residency goes to the entry that `next` names, or ends (R169). -/
def State.residNext (s : State) (i : Nat) (r : Resid) (next : Nat) : State :=
  if next = 0xFF then (s.setResid i { r with st := .over }).putStatus i
  else if next ≥ r.nlist then (s.setResid i r).fabHalt (2 * i) 0 1
  else (s.setResid i { r with cc := next, it := 0, st := .reach }).putStatus i

/-- The channel on which configuration words reach a site. -/
def confCh (site : Nat) : Nat := site * 16 + 14

/-- A plane with a record on its way to a site. -/
def Plane.sendConf (p : Plane) (x : Nat × List W64) : Plane :=
  let c := p.chan (confCh x.1)
  p.setChan (confCh x.1) { c with conf := c.conf ++ [x.2] }

/-- The load of an image over a region begins: its words are on their channels, in order, to cells that none has yet reached (R157, R168). -/
def Resid.loading (r : Resid) (id cc : Nat) (call : List Tok) (recs : List (Nat × List W64)) : Resid :=
  let cells := recs.foldl (fun m x => if x.1 < badSite then mput m x.1 (cellOf x.2) else m) []
  { r with
    live := recs.foldl Plane.sendConf { resetPlane with id := id, cc := cc, cells := cells, call := call }
    load := recs.map (·.1), st := .loading }

/-- Whether every stream of the pass has drained (R169). -/
def Plane.passed (p : Plane) : Bool := p.cells.all fun e => e.2.done

/-- CONFIG_WORD_LOAD: the next record leaves its channel and reaches its cell, which begins to act; or the load is over, and the rules across
words hold or the configuration halts (R168, R159). -/
def execConfigWordLoad (res : Nat) (s : State) : Res :=
  .next <| match mfind s.resids res with
    | none => s
    | some r =>
      if !s.loadRuns res r then s
      else match r.st, r.load with
        | .loading, site :: rest =>
          let c := r.live.chan (confCh site)
          match c.conf with
          | [] => s.setResid res { r with load := rest }
          | ws :: more =>
            if site ≥ badSite || !recordOk false (recordKind false site) ws then s.fabHalt (2 * res) (site % badSite) 1
            else s.setResid res { r with
              live := (r.live.setChan (confCh site) { c with conf := more }).setCell site { cellOf ws with ready := true }, load := rest }
        | .loading, [] =>
          match r.live.firstBad false r.h (r.live.cells.map (·.1)) with
          | some site => s.fabHalt (2 * res) site 1
          | none => s.setResid res { r with st := .running }
        | _, _ => s

/-! ## Demand (R162) -/

/-- Whether some input whose word has arrived, and that no awn has stopped, reads a channel. -/
def Plane.consumes (p : Plane) (ch : Nat) : Bool :=
  let c := ch / 16
  let n := ch % 16
  if n ≤ 3 then p.cells.any fun e => e.2.ready && !e.2.awn && (p.claims e.1).contains ch
  else if n = 15 then (p.cell (rtSite c)).ready && !(p.cell (rtSite c)).awn && p.tapped c
  else 4 ≤ n && n ≤ 11 && (p.cell c).ready && !(p.cell c).awn && (p.sources c).contains n

/-- Whether a fabric's inputs may request: a residency that runs or loads a configuration, or an edge fabric. -/
def State.fabOpen (s : State) (k : Nat) : Bool :=
  match fabCtl k with
  | some _ => true
  | none =>
    match mfind s.resids (k / 2) with
    | some r => (r.st == .running || r.st == .loading) && s.loadRuns (k / 2) r
    | none => false

/-- REQUEST_TOKEN: the input that reads channel `chan` of a fabric requests one more burst, up to 16. -/
def execRequestToken (res chan : Nat) (s : State) : Res :=
  .next <|
    let p := s.plane res
    let c := p.chan chan
    if s.fabOpen res && p.consumes chan && c.dem < 16 then s.setPlane res (p.setChan chan { c with dem := c.dem + 1 }) else s

/-! ## Calls (R174, R323) -/

/-- Whether a token carries a scale other than 1.0, which only a float operand takes (R161). -/
def Tok.scaled (t : Tok) : Bool :=
  match t with
  | .data _ _ sc _ _ => sc != scaleOne
  | .eos => false

/-- A token as a call delivers it. -/
def Tok.plain (t : Tok) : Tok :=
  match t with
  | .data v p _ _ _ => .data v p scaleOne false 0
  | .eos => .eos

/-- The operands of a call operator's firing as they are delivered, a then b. -/
def Lane.args (l : Lane) (w : W64) : List Tok := (inputToks w l.ops).map Tok.plain

/-- Whether every firing in progress in a plane has completed, but for those of call operators, which wait for arbitration (R174 steps 1
and 2). -/
def Plane.quiet (p : Plane) : Bool :=
  p.lanes.all fun e => isCall (wOp (p.word e.1)) && siteKind e.1 == 0 || (!e.2.on && !e.2.busy && e.2.fault.isNone)

/-- The place of plane k of a residency (R175). -/
def Resid.keptAt (r : Resid) (k : Nat) : Kept :=
  if k ≤ 4 then .stack
  else if k ≤ 4 + r.cmres then .cellMem (0x10000 - (k - 4) * 0x1400)
  else .ring (r.husk + w64 ((k - 5 - r.cmres) * 5120 * r.h))

/-- What one island holds of a plane. -/
def Plane.island (p : Plane) (isl : Nat) : Plane :=
  { p with
    cells := p.cells.filter fun e => siteIsl e.1 == isl
    lanes := p.lanes.filter fun e => siteIsl e.1 == isl
    chans := p.chans.filter fun e => siteIsl (e.1 / 16) == isl
    streams := p.streams.filter fun e => siteIsl (e.1 / 8 % 16384) == isl }

/-- Where block j of the cell memory of an island of a region stands in the state. -/
def Resid.cellKey (r : Resid) (isl j : Nat) : Nat := (r.field / 128 * 2 ^ 15 + r.island isl) * 16 + j

/-- A plane that cell memory keeps lies there, island by island, until another takes its place (R175). -/
def State.putCells (s : State) (r : Resid) (p : Plane) : State :=
  match p.kept with
  | .cellMem off =>
    { s with cellMem := (List.range r.h).foldl (fun m isl => mput m (r.cellKey isl ((0x10000 - off) / 0x1400)) (p.island isl)) s.cellMem }
  | _ => s

/-- The translation entries of a fabric's generators and cells, as `fabWho` names their streams. -/
def isFabStream (k gid : Nat) : Bool := gid / 8 ≥ 2 ^ 48 && (gid / 8 - 2 ^ 48) / 16384 == k

/-- Takes a fabric's misses back from the walkers. -/
def State.dropWalks (s : State) (k : Nat) : State := { s with walks := s.walks.filter fun q => !isFabStream k q.gid }

/-- The freeze: the plane is captured, and the callee's load begins (R174 steps 2 to 6). -/
def State.freeze (s : State) (a : Seat) (r : Resid) (w : W64) : State :=
  let i := a.k / 2
  if !r.live.quiet then s
  else match s.readEntry r (bits w 7 0) true with
    | .error c => s.fabHalt a.k a.b c
    | .ok (e, recs) =>
      let l := r.live.lane a.x
      let p := { r.live.setLane a.x { l with on := false, ops := [] } with
        caller := some a.b
        streams := s.streams.filter fun e => isFabStream a.k e.1
        kept := r.keptAt (r.planes.length + 1) }
      let n := s.serial
      let s := { s with serial := n + 1, streams := s.streams.filter fun e => !isFabStream a.k e.1 }.putCells r p
      (s.setResid i ({ r with entries := mput r.entries (bits w 7 0) e, planes := r.planes ++ [p] }.loading n (bits w 7 0) (l.args w)
        recs)).putStatus i

/-- The act of a call operator: its firing takes its operands and its grain, and then waits until the region runs no other call or
return (R174 step 1). `go` acts for a firing that wins; `cont` goes on with the one that `mine` says has won. -/
def State.callOp (s : State) (w : W64) (mine : Resid → Nat → Bool) (cont go : State → Seat → Resid → State) : State :=
  let a := s.seat
  let ins := inputsOf (wInputs w)
  let os := s.outs a.k a.b
  let act := fun (s : State) => match fabCtl a.k, mfind s.resids (a.k / 2) with
    | none, some r => if mine r a.b then cont s a r else if r.st == .running then go s a r else s
    | _, _ => s
  s.onSite a w os ins true fun s =>
    if (s.lane a.k a.x).on then act s
    else s.startFiring a ins os false (fun ts => !ts.any (·.scaled)) (fun _ => []) act

/-- CCALL. -/
def execCcall (w : W64) (s : State) : Res :=
  .next <| s.callOp w (fun r site => r.st == .freezing site) (fun s a r => s.freeze a r w) fun s a r =>
    if bits w 7 0 ≥ r.nlist then s.fabHalt a.k a.b 1
    else if r.planes.length + 1 > r.limit then s.fabHalt a.k a.b 2
    else s.setResid (a.k / 2) { r with st := .freezing a.b }

/-! ## Returns (R177, R332) -/

/-- Whether no token lies with a copy, and no firing of it is under way. -/
def Lane.idle (l : Lane) : Bool :=
  !l.on && l.ops.isEmpty && l.out.isEmpty && !l.deal && !l.busy && l.fault.isNone

/-- Whether a plane holds tokens beside those at its message port: on channels, latched, waiting to leave, or at the call port,
which R177 does not name among the callee's channels (DESIGN CHOICE, log 69). -/
def Plane.holds (p : Plane) : Bool :=
  p.chans.any (fun e => !e.2.idle) || p.lanes.any (fun e => !e.2.idle) || p.cells.any (fun e => e.2.val.isSome) || !p.call.isEmpty

/-- The last of a list of planes, and those before it. -/
def lastPlane (ps : List Plane) : Option (List Plane × Plane) := ps.getLast?.map fun p => (ps.dropLast, p)

/-- A plane takes its region back: the firing of the CCALL that froze it ends with the tokens that the return passed (R177 steps 3
and 4). -/
def Plane.thawed (p : Plane) (args : List Tok) : Plane :=
  let x := p.caller.getD 0
  let l := p.lane x
  { p.setLane x { l with out := args, count := l.count + 1 } with caller := none, streams := [], kept := .region }

/-- The return: the callee's tokens are discarded, and the caller's plane thaws (R177 steps 2 to 4). Instances that a CREQ of the callee has
placed run on, and what they give back then goes to no cell (DESIGN CHOICE, log 103). -/
def State.thaw (s : State) (a : Seat) (r : Resid) (w : W64) : State :=
  let i := a.k / 2
  if !r.live.quiet then s
  else
    let held := fun (c : Creq) => c.res == i && c.plane == r.live.id
    let left := (r.live.setLane a.x resetLane).holds || s.creqs.any held
    if left && r.strict then s.fabHalt a.k a.b 5
    else match lastPlane r.planes with
      | none => s
      | some (rest, p) =>
        let own := s.streams.filter fun e => !isFabStream a.k e.1
        let s := { s with
          creqs := s.creqs.filter fun c => !held c
          streams := p.streams.foldl (fun (m : Map Leaf) (e : Nat × Leaf) => mput m e.1 e.2) own }
        (s.setResid i { r with
          planes := rest, live := p.thawed ((r.live.lane a.x).args w), st := .running, retd := r.retd || left }).putStatus i

/-- Bytes of a husk ring (08_fabric.md R175). -/
def huskBytes (limit cmres h : Nat) : Nat := (limit - 4 - cmres) * 5120 * h

/-- Whether a residency took the block of its partition's pool at an address for its husk ring or its spill rings (R92, R175). -/
def Resid.tookRing (r : Resid) (a : Nat) : Bool :=
  (huskBytes r.limit r.cmres r.h != 0 && a == r.husk.toNat) || ((Config.spillBytes r.h).toNat != 0 && a == r.spill.toNat)

/-- A residency leaves the fabric, with its faults, misses and requests, the instances placed for it, and its rings (R92, R175). -/
def State.dropResid (s : State) (i : Nat) : State :=
  let gone := i :: ((s.resids.filter fun e => (e.2.inst.map (·.1)) == some i).map (·.1))
  let s := gone.foldl (fun s j => s.dropWalks (2 * j)) s
  let s := { s with
    faults := s.faults.filter fun f => match f.2.owner with
      | .fab k _ => !(k % 2 == 0 && gone.contains (k / 2))
      | _ => true
    creqs := s.creqs.filter fun c => !gone.contains c.res }
  gone.foldl (fun s j =>
    match mfind s.resids j with
    | none => s
    | some r =>
      let key := shPartKey r.ref.sheaf
      let p := s.part key
      { s with resids := mdel s.resids j }.setPart key { p with
        pool := p.pool.filter fun a => !r.tookRing a.1 }) s

/-- CONFIG_STEP: a residency at depth 0 reaches a list entry, or goes on after a pass. An instance of CREQ runs one pass of entry 0,
and ends with it where no CRET has ended it (R326; log 61). -/
def execConfigStep (res : Nat) (s : State) : Res :=
  .next <| match mfind s.resids res with
    | none => s
    | some r =>
      if !s.residRuns res r then s
      else match r.st with
        | .reach =>
          match s.readEntry r r.cc r.inst.isSome with
          | .error c => s.fabHalt (2 * res) 0 c
          | .ok (e, recs) =>
            let r := { r with entries := mput r.entries r.cc e, iters := e.iters, next := e.next }
            if e.iters = 0 && r.inst.isNone then s.residNext res r e.next
            else s.setResid res (r.loading r.live.id r.cc r.live.call recs)
        | .running =>
          if !r.planes.isEmpty || !r.live.passed then s
          else if r.inst.isSome then s.dropResid res
          else
            let r := { r with it := r.it + 1 }
            if r.it < r.iters then (s.setResid res { r with st := .reach }).putStatus res
            else s.residNext res r r.next
        | _ => s

/-- An instance of CREQ returns its tokens to its requester and ends (R325). -/
def State.instReturn (s : State) (a : Seat) (r : Resid) (w : W64) (req : Nat × Nat × Nat) : State :=
  let args := (r.live.lane a.x).args w
  (s.modResid req.1 fun r => { r with backs := r.backs ++ args.map fun t => (req.2.2, req.2.1, t) }).dropResid (a.k / 2)

/-- CRET. -/
def execCret (w : W64) (s : State) : Res :=
  .next <| s.callOp w (fun r site => r.st == .returning site) (fun s a r => s.thaw a r w) fun s a r =>
    if r.planes.isEmpty then
      match r.inst with
      | some req => s.instReturn a r w req
      | none => s.fabHalt a.k a.b 3
    else s.setResid (a.k / 2) { r with st := .returning a.b }

/-! ## Requests for subgraphs (R173, R325) -/

/-- The instance placed for a cell of a plane. -/
def State.instOf (s : State) (i site plane : Nat) : Option (Nat × Resid) :=
  s.resids.find? fun e => e.2.inst == some (i, site, plane) && e.2.st != .over

/-- Tokens go to a residency's call port at depth 0. -/
def Resid.callIn (r : Resid) (ts : List Tok) : Resid :=
  match r.planes with
  | [] => { r with live := { r.live with call := r.live.call ++ ts } }
  | p :: rest => { r with planes := { p with call := p.call ++ ts } :: rest }

/-- The nodes of a sheaf. -/
def Sheaf.count (sh : Sheaf) : Nat := bits (nth sh.hdr 1 0) 51 40 + 1

/-- The kind of a node: 0 core kernel, 1 residency, 2 edge graph, 3 group binding (14_assembly.md R279). -/
def Node.kind (n : Node) : Nat := bits (nth n.words 0 0) 63 60

/-- Whether a CREQ names a residency of its sheaf. -/
def State.creqNode (s : State) (r : Resid) (n : Nat) : Bool :=
  match mfind s.sheaves r.ref.sheaf with
  | some sh => n < sh.count && (sh.nodeAt n).kind == 1
  | none => false

/-- Removes the first returned token of a cell. -/
def dropBack (plane site : Nat) : List (Nat × Nat × Tok) → List (Nat × Nat × Tok)
  | [] => []
  | b :: r => if b.1 = plane ∧ b.2.1 = site then r else b :: dropBack plane site r

/-- A firing of CREQ: its tokens go to the instance, or ask for one. -/
def State.creqFire (s : State) (a : Seat) (w : W64) : State :=
  let i := a.k / 2
  match mfind s.resids i with
  | none => s
  | some r =>
    let ts := (r.live.lane a.x).args w
    if !s.creqNode r (bits w 11 0) then s.fabHalt a.k a.b 1
    else match s.instOf i a.b r.live.id with
      | some (j, _) => (s.endFiring a []).modResid j fun x => x.callIn ts
      | none =>
        let s := s.endFiring a []
        { s with creqs := s.creqs ++ [⟨s.serial + 1, i, a.b, r.live.id, bits w 11 0, ts⟩], serial := s.serial + 1 }

/-- CREQ: a token that its instance returned leaves, or the cell fires, or it ends once its instance has. -/
def execCreq (w : W64) (s : State) : Res :=
  .next <|
    let a := s.seat
    let i := a.k / 2
    let ins := inputsOf (wInputs w)
    let os := s.outs a.k a.b
    s.onSite a w os ins true fun s =>
      match fabCtl a.k, mfind s.resids i with
      | none, some r =>
        let asked := s.creqs.any fun c => c.res == i && c.site == a.b && c.plane == r.live.id
        match r.backs.find? fun b => b.1 == r.live.id && b.2.1 == a.b with
        | some (_, _, t) =>
          if (s.plane a.k).canEmit os then
            (s.modResid i fun r => { r with backs := dropBack r.live.id a.b r.backs }).emit a.k a.b os false t
          else s
        | none =>
          if asked || (s.lane a.k a.x).on || (s.inputs a.k a.b ins == .ends && (s.instOf i a.b r.live.id).isSome) then s
          else s.startFiring a ins os false (fun ts => !ts.any (·.scaled)) (fun _ => []) fun s => s.creqFire a w
      | _, _ => s

/-! ## Callees at rest (R177) -/

/-- Whether some site of a plane with empty channels can fire: a generator whose walk goes on or whose end-of-stream is still to send, or a
cell; every source that it reads is the constant or a call port that holds tokens. -/
def Plane.canFire (p : Plane) : Bool :=
  p.cells.any fun e =>
    let here := (p.sources e.1).all fun x => x == 0xE || (x == 0xD && !p.call.isEmpty)
    if e.2.done || e.2.closed then false
    else match siteKind e.1 with
      | 0 => here
      | 2 => (gDir (p.word e.1) = 1 || !(p.genOuts e.1).isEmpty) && (e.2.st = 1 || here)
      | _ => false

/-- Whether the callee of a residency is at rest. -/
def State.atRest (s : State) (i : Nat) (r : Resid) : Bool :=
  let p := r.live
  r.st == .running && !r.planes.isEmpty
    && (p.anyReaders 0xC).isEmpty
    && p.chans.all (fun e => e.2.idle)
    && p.lanes.all (fun e => e.2.idle)
    && p.cells.all (fun e => e.2.val.isNone && (!e.2.closed || e.2.left))
    && !p.canFire
    && !(s.creqs.any fun c => c.res == i && c.plane == p.id)
    && !(s.resids.any fun e => match e.2.inst with
      | some (j, _, pl) => j == i && pl == p.id
      | none => false)
    && !(r.backs.any fun b => b.1 == p.id)

/-- CALLEE_REST: a callee that has come to rest without a CRET raises cause 6, at the cell that called it. -/
def execCalleeRest (res : Nat) (s : State) : Res :=
  .next <| match mfind s.resids res with
    | none => s
    | some r =>
      if s.residRuns res r && s.atRest res r then
        s.fabHalt (2 * res) ((r.planes.getLast?.bind (·.caller)).getD 0) 6
      else s

/-! ## Messages (02_execution.md R49; R172, R312, R360) -/

/-- The residency bound to a graph, among the live ones of a partition. -/
def State.graphOf (s : State) (part g : Nat) : Option Nat :=
  (s.resids.find? fun e =>
    e.2.graph == g && e.2.inst.isNone && e.2.st != .over && shPartKey e.2.ref.sheaf == part).map (·.1)

/-- The tokens of a message. -/
def Msg.toks (m : Msg) : List Tok :=
  if m.eos then [.eos] else [.data m.a false scaleOne false 0, .data m.b false scaleOne false 0]

/-- Pairs that a field's message queue holds. -/
def msgRoom : Nat := 256

/-- Sends a message of the issuing core: to the region bound to its graph, behind the core's earlier messages, or into the field's
queue; a full queue stalls the core. -/
def State.message (s : State) (c : Core) (g : W64) (a b : W64) (eos : Bool) : State :=
  if bits g 63 16 != 0 || g = 0 then s.trap causeSync g
  else match c.strand with
    | none => s
    | some t =>
      let k := nField s.cur
      let f := s.field k
      let m : Msg := ⟨g.toNat, a, b, eos, s.cur, t.ref.sheaf⟩
      let wait := f.msgq.any fun x => x.core == s.cur && x.graph == m.graph && shPartKey x.sheaf == shPartKey m.sheaf
      match if wait then none else s.graphOf (shPartKey t.ref.sheaf) m.graph with
      | some i => (s.modResid i fun r => { r with msgs := r.msgs ++ m.toks }).finish c.learnt
      | none =>
        if f.msgq.length < msgRoom then (s.setField k { f with msgq := f.msgq ++ [m] }).finish c.learnt else s.block

/-- AMSG. -/
def execAmsg (d a b : Reg) (s : State) : Res :=
  .next <| s.issue [(d, false), (a, false), (b, false)] 0 fun c => s.message c (c.get d) (c.get a) (c.get b) false

/-- MARKE. -/
def execMarke (a : Reg) (s : State) : Res :=
  .next <| s.issue [(a, false)] 0 fun c => s.message c (c.get a) 0 0 true

/-- AMSG_DELIVER: the first message of a field's queue whose graph is bound reaches its region's port; the queue holds those of a
partition that is being pre-empted (11_faults.md R214). -/
def execAmsgDeliver (field : Nat) (s : State) : Res :=
  .next <|
    let f := s.field field
    let here := fun (m : Msg) => if s.partRuns (shPartKey m.sheaf) then s.graphOf (shPartKey m.sheaf) m.graph else none
    match f.msgq.find? fun m => (here m).isSome with
    | none => s
    | some m =>
      match here m with
      | none => s
      | some i => (s.setField field { f with msgq := f.msgq.erase m }).modResid i fun r => { r with msgs := r.msgs ++ m.toks }

end Sys2Proof.Machine
end

