-- ==== Sys2Proof/Machine/KRegs.lean ====
section
/-! DEFINITION. The control registers (13_encodings.md R252, R253): what a read returns and what a write stores, by the Access
codes of 00_scope.md R6 and each register's own map. -/

namespace Sys2Proof.Machine

/-! ## Numbers (R253) -/

/-- The per-core, per-quad, per-field and per-wafer numbers of R253, in its order. -/
inductive KReg where
  | kstat | kcause | kepc | ktval | ktvec | kscr | kwlim | kpres | kasid | krseed | kggeo | kaplo | kaphi | kteam | knode
  | kener | khbeat | kqseed | krxf | krxp | koptc | kgrain | kcdepth | kfclk | ktemp | kwid | kfenl | kfenh | ktime | kpbud
  | kthr | kastb | kxinv | ktrb | kptb | klqb | klqdb | klqh | ksvqb | ksvqt | ksvqh | ksvc | ksva | kwdog | kgstall | klead
  | khot | kbstat | katn
  | kflnk (l : Nat)
  deriving DecidableEq, Repr

/-- The register of a kreg number. -/
def kregOf (k : Nat) : Option KReg :=
  match k with
  | 0x000 => some .kstat
  | 0x001 => some .kcause
  | 0x002 => some .kepc
  | 0x003 => some .ktval
  | 0x004 => some .ktvec
  | 0x005 => some .kscr
  | 0x006 => some .kwlim
  | 0x007 => some .kpres
  | 0x008 => some .kasid
  | 0x009 => some .krseed
  | 0x00A => some .kggeo
  | 0x00B => some .kaplo
  | 0x00C => some .kaphi
  | 0x00D => some .kteam
  | 0x00E => some .knode
  | 0x00F => some .kener
  | 0x010 => some .khbeat
  | 0x040 => some .kqseed
  | 0x041 => some .krxf
  | 0x042 => some .krxp
  | 0x043 => some .koptc
  | 0x080 => some .kgrain
  | 0x081 => some .kcdepth
  | 0x082 => some .kfclk
  | 0x083 => some .ktemp
  | 0x0C0 => some .kwid
  | 0x0C1 => some .kfenl
  | 0x0C2 => some .kfenh
  | 0x0C3 => some .ktime
  | 0x0C4 => some .kpbud
  | 0x0C5 => some .kthr
  | 0x100 => some .kastb
  | 0x101 => some .kxinv
  | 0x102 => some .ktrb
  | 0x103 => some .kptb
  | 0x104 => some .klqb
  | 0x105 => some .klqdb
  | 0x106 => some .klqh
  | 0x107 => some .ksvqb
  | 0x108 => some .ksvqt
  | 0x109 => some .ksvqh
  | 0x10A => some .ksvc
  | 0x10B => some .ksva
  | 0x10C => some .kwdog
  | 0x10D => some .kgstall
  | 0x10E => some .klead
  | 0x10F => some .khot
  | 0x110 => some .kbstat
  | 0x111 => some .katn
  | k => if 0x400 ≤ k ∧ k < 0x430 then some (.kflnk (k - 0x400)) else none

/-- Whether a read needs KSTAT.priv (R253). -/
def KReg.readPriv (r : KReg) : Bool :=
  match r with
  | .kfclk => true
  | .kastb => true
  | .kxinv => true
  | .ktrb => true
  | .kptb => true
  | .klqb => true
  | .klqdb => true
  | .klqh => true
  | .ksvqb => true
  | .ksvqt => true
  | .ksvqh => true
  | .ksvc => true
  | .ksva => true
  | .kwdog => true
  | .kgstall => true
  | .klead => true
  | .khot => true
  | .kbstat => true
  | .katn => true
  | _ => false

/-- Whether a write needs KSTAT.priv (R253). -/
def KReg.writePriv (r : KReg) : Bool :=
  r.readPriv || (match r with
    | .kasid => true
    | .kaplo => true
    | .kaphi => true
    | .kcdepth => true
    | .kpbud => true
    | .kthr => true
    | _ => false)

/-! ## Reading -/

/-- KTEAM (02_execution.md R34, R35): zero outside a team. -/
def Core.kteam (c : Core) (n : Nat) : W64 :=
  match c.team with
  | none => 0
  | some t =>
    let rank := ((qnRow (nQn n) - t.ty0) * t.tw + (qnCol (nQn n) - t.tq0)) * 4 + nC n
    w64 (place t.ref.node 48 + place t.th 41 + place t.tw 34 + place t.ty0 27 + place t.tq0 20 + rank)

/-- KNODE (01_machine.md R27). -/
def State.knode (s : State) (n : Nat) : W64 :=
  let qn := nQn n
  let w := s.wafer (nWafer n)
  let (r, c) := w.trunks qn
  w64 (place c 51 + place r 44 + place (w.prow (qnField qn) (qnRow qn)) 37 + place (qnField qn) 30 + place (qnRow qn) 23
    + place (qCol (qnCol qn)) 16 + nCnum n)

/-- Enabled fields of a wafer. -/
def Wafer.nfield (w : Wafer) : Nat := ((List.range 72).filter fun i => w.fen.getLsbD i).length

/-- KWID (R27). -/
def Wafer.kwid (w : Wafer) : W64 := w64 (place w.podsize 16 + place w.nfield 8 + w.index)

/-- KTHR (12_power.md R223). -/
def Wafer.kthr (w : Wafer) : W64 :=
  w64 (place (b2n w.thrAct) 34 + place w.thrCnt.toNat 3 + place (b2n w.thrOcs) 2 + place (b2n w.thrDrs) 1 + b2n w.thrPin)

/-- KFCLK (R224). -/
def Field.kfclk (f : Field) : W64 :=
  w64 (place f.abt.toNat 16 + place (b2n f.busy) 9 + place (b2n f.src) 8 + place f.cur.toNat 4 + f.want.toNat)

/-- KFLNK (R234). -/
def Link.kflnk (l : Link) : W64 :=
  w64 (place (b2n l.up) 63 + place l.wl 56 + place l.qd 32 + place l.bad.toNat 16 + l.rpl.toNat)

/-- The bits of slots in a state (07_networks.md R143). -/
def slotBits (m : Map SlotSt) (p : SlotSt → Bool) : W64 :=
  w64 (((m.filter fun e => p e.2).map fun e => 2 ^ e.1).sum)

/-- Whether a slot is filled. -/
def SlotSt.isFilled : SlotSt → Bool
  | .filled _ => true
  | _ => false

/-- Whether a slot is posted. -/
def SlotSt.isPosted : SlotSt → Bool
  | .posted _ => true
  | _ => false

/-- Energy charged so far to the node of KTEAM.node (12_power.md R222). -/
def State.kener (s : State) (c : Core) : W64 :=
  match c.team.bind fun t => s.node? t.ref with
  | some n => w64 (n.energy / 1000000)
  | none => 0

/-- The time a core reads: device time, never less than it has read before (R225, R393). -/
def State.timeFor (s : State) (n : Nat) : Nat := max (s.core n).lastTime (s.devTime (nWafer n))

/-- A register of a wafer, as the window and KRD read it. -/
def State.waferReg (s : State) (wf : Nat) (r : KReg) : W64 :=
  let w := s.wafer wf
  match r with
  | .kwid => w.kwid
  | .kfenl => w64 (w.fen.toNat % 2 ^ 64)
  | .kfenh => w64 (w.fen.toNat / 2 ^ 64)
  | .ktime => w64 (s.devTime wf)
  | .kpbud => w64 (place w.kpbudMin.toNat 40 + w.budget % 2 ^ 40)
  | .kthr => w.kthr
  | .kastb => w.kastb
  | .ktrb => w.ktrb
  | .kptb => w.kptb
  | .klqb => w.klqb
  | .klqdb => w64 w.klqTail.toNat
  | .klqh => w64 w.klqHead.toNat
  | .ksvqb => w.ksvqb
  | .ksvqt => w64 (place w.svqLost.toNat 32 + w.svqTail.toNat)
  | .ksvqh => w64 w.svqHead.toNat
  | .ksva => w.ksva
  | .kwdog => w64 w.kwdog.toNat
  | .kgstall => w64 w.kgstall.toNat
  | .klead => w.klead
  | .khot => w64 w.khot.toNat
  | .kbstat => w.kbstat
  | .katn => w.katn
  | _ => 0

/-! ## The host's window (12_power.md R231, R237) -/

/-- The register at an offset of the window. -/
def windowReg (off : Nat) : Option KReg :=
  match off with
  | 0x00 => some .klqb
  | 0x08 => some .klqdb
  | 0x10 => some .klqh
  | 0x18 => some .ksvqb
  | 0x20 => some .ksvqt
  | 0x28 => some .ksvqh
  | 0x40 => some .ksvc
  | 0x48 => some .kpbud
  | 0x50 => some .kthr
  | 0x58 => some .ktime
  | 0x60 => some .kbstat
  | 0x68 => some .katn
  | 0x70 => some .kptb
  | 0x78 => some .kastb
  | 0x80 => some .ksva
  | 0x88 => some .ktrb
  | 0x90 => some .kwdog
  | 0x98 => some .kgstall
  | 0xA0 => some .klead
  | 0xA8 => some .khot
  | 0xB0 => some .kxinv
  | _ => none

/-- stage of KBSTAT (R236). -/
def Wafer.stage (x : Wafer) : Nat := bits x.kbstat 3 0

/-- A recovery register, as port 0 reads it in recovery; anything else reads zero (R237). -/
def Wafer.recoveryReg (x : Wafer) (port off : Nat) : W64 :=
  if port ≠ 0 ∨ x.stage ≠ 0xF then 0
  else match off with
    | 0x100 => x.krcva
    | 0x108 => x.krcvl
    | 0x110 => w64 (place x.krcvc.toNat 4)
    | _ => 0

/-- What a read of `size` bytes at an offset of a port's window returns: zero at any other offset and for any access that is not an
aligned one of 8 bytes (R231). -/
def State.windowRead (s : State) (wafer port off size : Nat) : W64 :=
  if size ≠ 8 then 0
  else match windowReg off with
    | some r => s.waferReg wafer r
    | none => (s.wafer wafer).recoveryReg port off

/-- A host reads a register of a port's window; the value returned stays in the state (R231). -/
def State.hostReads (s : State) (wafer port off size : Nat) : State :=
  s.setWafer wafer { s.wafer wafer with hostVal := s.windowRead wafer port off size }

/-- What a KRD of core `n` returns at this instant (R349). -/
def State.kread (s : State) (n : Nat) (r : KReg) : W64 :=
  let c := s.core n
  let q := s.quad (nQuad n)
  let f := s.field (nField n)
  match r with
  | .kstat => w64 (place (b2n c.tm) 1 + b2n c.priv)
  | .kcause => w64 c.kcause.toNat
  | .kepc => c.kepc
  | .ktval => c.ktval
  | .ktvec => c.ktvec
  | .kscr => c.kscr
  | .kwlim => w64 c.kwlim.toNat
  | .kpres => w64 (place c.ovr.toNat 32 + c.full.toNat)
  | .kasid => w64 c.kasid.toNat
  | .krseed => c.krseed
  | .kggeo => c.kggeo
  | .kaplo => w64 (c.kap.toNat % 2 ^ 64)
  | .kaphi => w64 (c.kap.toNat / 2 ^ 64)
  | .kteam => c.kteam n
  | .knode => s.knode n
  | .kener => s.kener c
  | .khbeat => c.khbeat
  | .kqseed => w64 q.xseed.toNat
  | .krxf => slotBits q.slots (·.isFilled)
  | .krxp => slotBits q.slots (·.isPosted)
  | .koptc => w64 (place q.crc.toNat 32 + q.hnd.toNat)
  | .kgrain => w64 (place (f.used % 2 ^ 32) 32 + f.bud % 2 ^ 32)
  | .kcdepth => w64 f.depthLim.toNat
  | .kfclk => f.kfclk
  | .ktemp => w64 (Config.temperature (nField n) s.tick).toNat
  | .ktime => w64 (s.timeFor n)
  | .kflnk l => (s.link (nWafer n * 64 + l)).kflnk
  | r => s.waferReg (nWafer n) r

/-! ## Writing: registers with a behaviour of their own -/

/-- A write to KPRES of core `n` (04_memory.md R75). -/
def Core.kpres (c : Core) (v : W64) : Core :=
  let clear := (List.range 32).foldl (fun (m : BitVec 32) i =>
    if i != 0 && bitAt v i && !c.producing (BitVec.ofNat 5 i) then m ||| (1#32 <<< i) else m) 0
  { c with full := c.full &&& ~~~ clear, ovr := c.ovr &&& ~~~ BitVec.ofNat 32 (bits v 63 32) }

/-- A write to KRSEED (03_numbers.md R67). -/
def Core.krseedW (c : Core) (v : W64) : Core :=
  { c with krseed := v, mgen := seedOf (bits v 63 32), vgen := seedOf (bits v 31 0) }

/-- A write to KQSEED (R67). -/
def Quad.kqseedW (q : Quad) (v : W64) : Quad := { q with xseed := BitVec.ofNat 32 v.toNat, xgen := seedOf v.toNat }

/-- A write to KRXF frees the filled slots named by its 1 bits (07_networks.md R143; R292). -/
def Quad.krxfW (q : Quad) (v : W64) : Quad := { q with slots := q.slots.filter fun e => !(e.2.isFilled && bitAt v e.1) }

/-- A field's cycle count is carried over to the state `s'`, in which its clock or its device time has changed (12_power.md R226). -/
def State.rebase (s s' : State) (k : Nat) : State :=
  s'.setField k { s'.field k with cycBase := s.cycles k, timeBase := s'.devTime (k / 128) }

/-- A hop that was asked for begins, unless one is under way or throttle is in force (R224). -/
def State.startHop (s : State) (k : Nat) : State :=
  let f := s.field k
  if f.want = f.cur && f.hopFrom.isNone then s.setField k { f with busy := false }
  else if f.hopFrom.isSome || f.retryAt.isSome || (s.wafer (k / 128)).thrAct || f.drp then s.setField k { f with busy := true }
  else s.setField k { f with busy := true, hopFrom := some f.want.toNat }

/-- A write to KFCLK (R224). -/
def State.kfclkW (s : State) (k : Nat) (v : W64) : State :=
  (s.setField k { s.field k with want := BitVec.ofNat 2 (bits v 1 0) }).startHop k

/-- A write to KTRB: en going from 0 to 1 restarts every port's counter (04_memory.md R90). -/
def State.ktrbW (s : State) (wf : Nat) (v : W64) : State :=
  let w := s.wafer wf
  let new := w64 (bits v 47 22 * 2 ^ 22 + bits v 0 0)
  let s := s.setWafer wf { w with ktrb := new }
  if !bitAt w.ktrb 0 && bitAt new 0 then
    (List.range 48).foldl (fun s m => s.setCtl (wf * 64 + m) { s.ctl (wf * 64 + m) with trcSeq := 0 }) s
  else s

/-- A write to KSVQH (11_faults.md R207). -/
def State.ksvqhW (s : State) (wf : Nat) (v : W64) : State :=
  s.setWafer wf { s.wafer wf with svqHead := BitVec.ofNat 32 v.toNat }

/-- Entries of a ring of size code lsz. -/
def ringSize (b : W64) : Nat := 2 ^ (bits b 3 0 + 6)

/-- A write to KLQDB (10_scheduling.md R188): one that would overrun the ring is ignored, and an event of kind 2 posted. -/
def State.klqdbW (s : State) (wf : Nat) (v : W64) : State :=
  let w := s.wafer wf
  let tail : W32 := BitVec.ofNat 32 v.toNat
  if (tail - w.klqHead).toNat > ringSize w.klqb then
    s.raiseEv wf { kind := 2, ref := none, words := [w64 tail.toNat, 2, 0, 0, 0, 0], what := .other, core := none }
  else s.setWafer wf { w with klqTail := tail }

/-- Whether a local physical address lies in a host window (04_memory.md R80). -/
def hostWindow (p : Nat) : Bool := 0x400000000000 ≤ p && p < 0x800000000000

/-- A write to KATN (12_power.md R238): ignored while a report is under way; an address outside the host windows ends at
once with code 2. -/
def State.katnW (s : State) (wf : Nat) (v : W64) : State :=
  let w := s.wafer wf
  let addr := bits v 47 13 * 2 ^ 13
  if bits w.katn 47 13 != 0 then s
  else if addr = 0 then s
  else if hostWindow addr then s.setWafer wf { w with katn := w64 addr }
  else s.setWafer wf { w with katn := 2 }

/-- Whether a KXINV value names a translation of a wafer (04_memory.md R89). -/
def kxinvHits (wf : Nat) (v : W64) (l : Leaf) : Bool :=
  l.wafer == wf && (match bits v 63 62 with
    | 0 => l.maps (bits v 61 52) (w64 (bits v 39 0 * 2 ^ 16))
    | 1 => l.asid == bits v 61 52
    | 2 => true
    | _ => false)

/-- A plane without the matching entries of its generators' streams. -/
def Plane.kxinv (p : Plane) (wf : Nat) (v : W64) : Plane := { p with streams := p.streams.filter fun e => !kxinvHits wf v e.2 }

/-- KXINV drops the matching translations of the wafer's caches and streams, those captured with a plane too (R89). -/
def State.kxinv (s : State) (wf : Nat) (v : W64) : State :=
  { s with
    resids := s.resids.map fun e => (e.1, { e.2 with planes := e.2.planes.map (·.kxinv wf v) })
    cellMem := s.cellMem.map fun e => (e.1, e.2.kxinv wf v)
    streams := s.streams.filter fun e => !kxinvHits wf v e.2
    fields := s.fields.map fun e => (e.1, { e.2 with tlb := e.2.tlb.filter fun l => !kxinvHits wf v l }) }

/-- Whether a KXINV value names the translations of an address space. -/
def kxinvNames (v : W64) (asid : Nat) : Bool :=
  match bits v 63 62 with
  | 0 => asid == bits v 61 52
  | 1 => asid == bits v 61 52
  | 2 => true
  | _ => false

/-- Whether an access translated with a dropped translation has still to perform (R89): one of a core's port, one of any agent in an edge
slot's order, or a fetch. -/
def State.kxinvBusy (s : State) (wf : Nat) (v : W64) : Bool :=
  s.cores.any (fun e => nWafer e.1 == wf && e.2.port.any fun a => !a.performed && !inLocal a.va && kxinvNames v a.asid)
    || s.ctls.any (fun e => e.2.slots.any fun sl => sl.2.accs.any fun a => a.wafer == wf && kxinvNames v a.asid)
    || s.quads.any (fun e => e.1 / 2 ^ 13 == wf && (match e.2.miss with
      | some (_, _, va, asid) => !inLocal (w64 va) && kxinvNames v asid
      | none => false))

/-! ## Writing: plain registers -/

/-- The value that a plain per-wafer register stores (R6). -/
def State.waferPlain (s : State) (wf : Nat) (r : KReg) (v : W64) : State :=
  let w := s.wafer wf
  match r with
  | .kpbud => s.setWafer wf { w with kpbudMin := BitVec.ofNat 24 (bits v 63 40) }
  | .kthr => s.setWafer wf { w with
      thrOcs := w.thrOcs && !bitAt v 2, thrDrs := w.thrDrs && !bitAt v 1, thrPin := w.thrPin && !bitAt v 0 }
  | .kastb => s.setWafer wf { w with kastb := w64 (bits v 47 14 * 2 ^ 14) }
  | .kptb => s.setWafer wf { w with kptb := w64 (bits v 47 12 * 2 ^ 12) }
  | .klqb => s.setWafer wf { w with klqb := w64 (bits v 47 12 * 2 ^ 12 + min 10 (bits v 3 0)) }
  | .ksvqb => s.setWafer wf { w with ksvqb := w64 (bits v 47 12 * 2 ^ 12 + min 12 (bits v 3 0)) }
  | .ksva => s.setWafer wf { w with ksva := w64 (bits v 47 16 * 2 ^ 16) }
  | .kwdog => s.setWafer wf { w with kwdog := BitVec.ofNat 32 v.toNat }
  | .kgstall => s.setWafer wf { w with kgstall := BitVec.ofNat 32 v.toNat }
  | .klead => s.setWafer wf { w with klead := w64 (place (bits v 47 32) 32 + bits v 15 0) }
  | .khot => s.setWafer wf { w with khot := BitVec.ofNat 8 v.toNat }
  | _ => s

/-- A write to a per-wafer register other than KSVC, by KWR or through the window of R231. -/
def State.waferWrite (s : State) (wf : Nat) (r : KReg) (v : W64) : State :=
  match r with
  | .ktrb => s.ktrbW wf v
  | .ksvqh => s.ksvqhW wf v
  | .klqdb => s.klqdbW wf v
  | .katn => s.katnW wf v
  | .kxinv => s.kxinv wf v
  | r => s.waferPlain wf r v

/-- A KWR of core `n` to a register other than KSVC (R252). -/
def State.kwrite (s : State) (n : Nat) (r : KReg) (v : W64) : State :=
  let c := s.core n
  match r with
  | .kcause => s.setCore n { c with kcause := BitVec.ofNat 8 v.toNat }
  | .kepc => s.setCore n { c with kepc := v }
  | .ktval => s.setCore n { c with ktval := v }
  | .ktvec => s.setCore n { c with ktvec := w64 (bits v 55 2 * 4) }
  | .kscr => s.setCore n { c with kscr := v }
  | .kwlim => s.setCore n { c with kwlim := BitVec.ofNat 32 v.toNat }
  | .kpres => s.setCore n (c.kpres v)
  | .kasid => s.setCore n { c with kasid := BitVec.ofNat 10 v.toNat }
  | .krseed => s.setCore n (c.krseedW v)
  | .kggeo => s.setCore n { c with kggeo := w64 (bits v 61 0) }
  | .kaplo => s.setCore n { c with kap := c.kap &&& ~~~ BitVec.ofNat 128 v.toNat }
  | .kaphi => s.setCore n { c with kap := c.kap &&& ~~~ BitVec.ofNat 128 (v.toNat * 2 ^ 64) }
  | .khbeat => s.setCore n { c with khbeat := v, beat := c.beat || v != c.beat0 }
  | .kqseed => s.setQuad (nQuad n) ((s.quad (nQuad n)).kqseedW v)
  | .krxf => s.setQuad (nQuad n) ((s.quad (nQuad n)).krxfW v)
  | .kcdepth => s.setField (nField n) { s.field (nField n) with depthLim := BitVec.ofNat 11 (min 1024 (bits v 10 0)) }
  | .kfclk => s.kfclkW (nField n) v
  | r => s.waferWrite (nWafer n) r v

/-! ## Rows of the opcode table for registers with a behaviour of their own -/

/-- KPRES_WRITE. -/
def execKpresWrite (core : Nat) (v : W64) (s : State) : Res := .next (s.kwrite core .kpres v)

/-- KRSEED_WRITE. -/
def execKrseedWrite (core : Nat) (v : W64) (s : State) : Res := .next (s.kwrite core .krseed v)

/-- KQSEED_WRITE. -/
def execKqseedWrite (core : Nat) (v : W64) (s : State) : Res := .next (s.kwrite core .kqseed v)

/-- KRXF_WRITE. -/
def execKrxfWrite (core : Nat) (v : W64) (s : State) : Res := .next (s.kwrite core .krxf v)

/-- KFCLK_WRITE. -/
def execKfclkWrite (core : Nat) (v : W64) (s : State) : Res := .next (s.kwrite core .kfclk v)

/-- KXINV_PAGE: a write of op 0b00. -/
def execKxinvPage (wafer : Nat) (v : W64) (s : State) : Res :=
  .next (if bits v 63 62 = 0 then s.waferWrite wafer .kxinv v else s)

/-- KXINV_ASID: a write of op 0b01. -/
def execKxinvAsid (wafer : Nat) (v : W64) (s : State) : Res :=
  .next (if bits v 63 62 = 1 then s.waferWrite wafer .kxinv v else s)

/-- KXINV_ALL: a write of op 0b10. -/
def execKxinvAll (wafer : Nat) (v : W64) (s : State) : Res :=
  .next (if bits v 63 62 = 2 then s.waferWrite wafer .kxinv v else s)

/-- KTRB_WRITE. -/
def execKtrbWrite (wafer : Nat) (v : W64) (s : State) : Res := .next (s.waferWrite wafer .ktrb v)

/-- KSVQH_WRITE. -/
def execKsvqhWrite (wafer : Nat) (v : W64) (s : State) : Res := .next (s.waferWrite wafer .ksvqh v)

/-- LAUNCH_DOORBELL: a write to KLQDB. -/
def execLaunchDoorbell (wafer : Nat) (v : W64) (s : State) : Res := .next (s.waferWrite wafer .klqdb v)

/-- KATN_WRITE. -/
def execKatnWrite (wafer : Nat) (v : W64) (s : State) : Res := .next (s.waferWrite wafer .katn v)

end Sys2Proof.Machine
end

