-- ==== Sys2Proof/Machine/Turn.lean ====
section
/-! DEFINITION. What a move of the agenda selects: the instruction that runs and the state it runs in. Fetch of a core's
instruction (10_scheduling.md R202; 04_memory.md R91), of an engine's command (13_encodings.md R255) and of a fabric's word
(08_fabric.md R158). -/

namespace Sys2Proof.Machine

/-- What a move selects. -/
inductive Turn where
  /-- An instruction or event runs in a state. -/
  | run (i : Instr) (s : State)
  /-- Nothing is executed. -/
  | done (s : State)
  /-- The move offers as an event an instruction that is none. -/
  | bad
  /-- The move names a unit that the pod does not have. -/
  | noUnit

/-! ## Fetch -/

/-- Instructions of a fetch and of a cache line: 32 bytes (R202). -/
def lineBytes : Nat := 32

/-- Lines of the instruction cache: 64 KiB (04_memory.md R91). -/
def icacheLines : Nat := 2048

/-- Whose addresses a core's fetch port translates. -/
def State.fetchWho (s : State) (n : Nat) : Who := { s.portWho n with gid := 8 * n + 1 }

/-- The instruction of an address in a fetch buffer. -/
def Core.fetched (c : Core) (va : W64) : Option W32 := (c.fetch.find? (·.1 == va)).map (·.2)

/-- A fetch buffer filled from a line that starts at address `va`. -/
def bufferOf (va : W64) (ws : List W32) : List (W64 × W32) :=
  (List.range ws.length).map fun i => (va + w64 (4 * i), nth ws i 0)

/-- The line base of an address. -/
def lineOf (va : W64) : W64 := w64 (va.toNat / lineBytes * lineBytes)

/-- A quad without one line of its instruction cache. -/
def Quad.dropLine (q : Quad) (line : Nat) : Quad := { q with icache := mdel q.icache line, bad := sdel q.bad line }

/-- The core asks its quad's cache for the line at its pc: a hit fills its buffer; a miss waits for a fill, one at a time for the
quad (R202). A line with an uncorrectable error is delivered poisoned, which is a fault of the fetch port, and leaves the cache
(04_memory.md R83; log 21). -/
def State.fetchLine (s : State) (n : Nat) : State :=
  let c := s.core n
  let va := lineOf c.pc
  match s.translate (s.fetchWho n) va lineBytes 3 with
  | .miss => s.askWalk (s.fetchWho n) va 3 (s.portFault n (.fetch n) va 1 3)
  | .bad t => s.stopCore n (.fetch n) c.pc t 3
  | .ok pa _ _ =>
    if s.remoteUnbacked (nWafer n) pa then s.stopCore n (.fetch n) c.pc 2 3
    else
      let q := s.quad (nQuad n)
      let line := canon pa / lineBytes
      match mfind q.icache line with
      | some ws =>
        if shas q.bad line then (s.setQuad (nQuad n) (q.dropLine line)).stopCore n (.fetch n) c.pc 3 3
        else s.setCore n { c with fetch := bufferOf va ws }
      | none =>
        match q.miss with
        | some _ => s
        | none => s.setQuad (nQuad n) { q with miss := some (n, pa, va.toNat, c.kasid.toNat) }

/-- ICACHE_FILL: the line that the quad waits for arrives from memory (R202). A poisoned line is a fault of the fetch port
(log 21). -/
def execIcacheFill (quad : Nat) (s : State) : Res :=
  .next <|
    let q := s.quad quad
    match q.miss with
    | none => s
    | some (n, pa, va, _) =>
      if q.icache.length ≥ icacheLines then s
      else
        let s := s.setQuad quad { q with miss := none }
        if s.poisonRun pa lineBytes then
          if (s.core n).strand.isSome && lineOf (s.core n).pc == w64 va && (s.core n).fault.isNone then
            s.stopCore n (.fetch n) (s.core n).pc 3 3
          else s
        else
          let ws := (List.range 8).map fun i => BitVec.ofNat 32 (s.readNat (pa + 4 * i) 4)
          s.setQuad quad { s.quad quad with icache := mput q.icache (canon pa / lineBytes) ws }

/-! ## A core's turn -/

/-- Whether a core may issue: it runs a strand that is not ending, nothing holds it, its partition runs, and no round has
stopped it. -/
def State.canIssue (s : State) (n : Nat) : Bool :=
  let c := s.core n
  c.strand.isSome && !c.ends && c.hold == .none && c.fault.isNone && c.again.isNone && s.unitRuns n .core

/-- The instruction address as fetch uses it: bits 1:0 are not used (log 22). -/
def Core.fetchPc (c : Core) : W64 := w64 (c.pc.toNat / 4 * 4)

/-- A KWR to KSVC that kills completes when the killed strands have ended (11_faults.md R209). -/
def State.killTurn (s : State) (n : Nat) (refs : List NodeRef) : State :=
  if s.cores.any (fun p => p.2.ending.isSome && (match p.2.ref with
    | some r => refs.contains r
    | none => false)) then s
  else
    let c := s.core n
    s.setCore n { c with hold := .none, pc := c.pc + 4 }

/-- The state in which core `n` issues: TIMEDGO's edge is used (12_power.md R227). -/
def State.going (s : State) (n : Nat) : State := if (s.core n).go then s.setCore n { s.core n with go := false } else s

/-- The issuing core's turn while its strand runs: the instruction at its pc is fetched and issues. -/
def State.issueTurn (s : State) (n : Nat) : Turn :=
  match (s.core n).hold with
  | .kill refs => .done (s.killTurn n refs)
  | _ =>
    if !s.canIssue n then .done s
    else match (s.core n).fetched (s.core n).fetchPc with
      | none => .done (s.fetchLine n)
      | some w =>
        match decodeWord w with
        | .ok i => .run i (s.going n)
        | .error _ => .done ((s.going n).trap causeIllegal (w.setWidth 64))

/-- The turn of core `n`: its ending strand ends, or it issues. -/
def State.coreTurn (s : State) (n : Nat) : Turn :=
  if !s.coreOk (w64 n) then .noUnit
  else
    let s := { s with cur := n }
    match (s.core n).ending with
    | none => s.issueTurn n
    | some e =>
      if e.reason != 0 then .done (s.finishEnd n)
      else if (s.core n).ends then .done (if s.unitRuns n .core then s.endTurn n else s)
      else s.issueTurn n

/-! ## An engine's turn -/

/-- Whether a queue key names a queue of the pod (R255). -/
def State.queueOk (s : State) (q : Nat) : Bool :=
  s.coreOk (w64 (qName q)) && (match qEng q with
    | 0 => q % 4 == 0
    | 1 => nC (qName q) == 0
    | 2 => nC (qName q) == 0
    | _ => false)

/-- The turn of an engine queue: the command at its head, decoded for its engine; while an MMA steps, its next step. -/
def State.engineTurn (s : State) (q : Nat) : Turn :=
  if !s.queueOk q then .noUnit
  else
    let s := { s with curQ := q }
    let e := s.queue q
    if e.halt || e.fault.isSome || !s.engRuns q then .done s
    else
      match s.headCmd q with
      | none => .done s
      | some c =>
        match decodeCmd (s.imageV q c.c) c.c with
        | .error _ => .done (s.cmdTrap q c 1 0)
        | .ok i =>
          if bits c.c.w0 51 48 ≠ qEng q then .done (s.cmdTrap q c 1 0)
          else if Cmd.op c.c = 1 ∧ (s.prog q).on then .run (.mmaStep (qName q)) s
          else .run i s

/-! ## A fabric's turn -/

/-- Whether a fabric key and site name a cell, router or generator that may hold a word. -/
def State.fabricOk (s : State) (k site : Nat) : Bool :=
  site < 3 * 4096 && (match fabCtl k with
    | some c => c % 64 < 48 && c / 64 < s.podsize
    | none => true)

/-- The turn of a site of a fabric: its word, which is its operator's where a copy of one stands there (R163). A read of an edge fabric that
follows no access waits for one to serve (09_edge.md R182). -/
def State.fabricTurn (s : State) (k site : Nat) : Turn :=
  if !s.fabricOk k site then .noUnit
  else
    let s := { s with curRes := k, curSite := site }
    let b := (s.plane k).baseOf (s.fabShape k).1 site
    if (s.cell k b).words.isEmpty then .done s
    else match s.serving k b site with
      | none => .done s
      | some m =>
        let w := (s.plane k).word b
        match (if siteKind b = 1 then decodeRouter w else decodeCell w) with
        | .ok i => .run i (s.mark k site m)
        | .error _ => .done s

/-! ## Events -/

/-- Whether a row of the table is an event that may take place by itself: no scalar instruction, command or fabric word, and
no write that only a core's KWR makes. -/
def spontaneous : Instr → Bool
  | .mma _ => false
  | .mld _ => false
  | .mst _ => false
  | .mcvt _ => false
  | .mzero _ => false
  | .mring _ => false
  | .xcopy _ => false
  | .xfill _ => false
  | .xgath _ => false
  | .xscat _ => false
  | .xswz _ => false
  | .ltx _ => false
  | .lrx _ => false
  | .lgrpEnrol _ => false
  | .lgrpDissolve _ => false
  | .lgrpRd _ => false
  | .ered _ => false
  | .cred _ => false
  | .gbind _ => false
  | .gacc _ => false
  | .gunbind _ => false
  | .plut _ => false
  | .pag _ => false
  | .padd _ => false
  | .psub _ => false
  | .pmul _ => false
  | .pfma _ => false
  | .pmin _ => false
  | .pmax _ => false
  | .pcmp _ => false
  | .plog _ => false
  | .pshf _ => false
  | .pcvt _ => false
  | .pacc _ => false
  | .pld _ => false
  | .pst _ => false
  | .ccall _ => false
  | .cret _ => false
  | .creq _ => false
  | .routerPass _ => false
  | .steer _ => false
  | .carry _ => false
  | .invar _ => false
  | .merge _ => false
  | .kpresWrite _ _ => false
  | .krseedWrite _ _ => false
  | .kqseedWrite _ _ => false
  | .krxfWrite _ _ => false
  | .kfclkWrite _ _ => false
  | i => !i.scalar

/-! ## Outside the units -/

/-- The wafer at whose homes a host's access of `n` bytes to device memory or to its own memory performs (12_power.md R230, R80): one access
stays within 4 KiB, the granule of the interleaved window, and so at one home. -/
def hostHome (pa n : Nat) : Option Nat :=
  if n = 0 || 4096 < pa % 4096 + n then none
  else match homeOf pa with
    | .hbm w _ _ => some w
    | .host w _ => some w
    | _ => none

/-- A write by a host performs at its home (R230). -/
def State.hostMem (s : State) (port pa : Nat) (bs : List Byte) : State :=
  match hostHome pa bs.length with
  | none => s
  | some w => s.write pa (bs.map fun b => (b, false)) ⟨5, 6, w * 2 ^ 15 + port, Config.hostTrace s.tick, 0⟩

/-- A read by a host performs at its home (R230): the bytes that it answers. -/
def State.hostLoads (s : State) (pa n : Nat) : State :=
  match hostHome pa n with
  | none => s
  | some w => s.setWafer w { s.wafer w with hostGot := s.readRun pa n }

/-- An uncorrectable error: the memory word is poisoned (04_memory.md R83). -/
def State.upset (s : State) (word : Nat) : State := s.poisonWord (word * 8)

/-- An uncorrectable error in a row of an accumulator store, which is then poisoned (R83). -/
def State.upsetRow (s : State) (n row : Nat) : State :=
  if row < 128 then s.setCore n { s.core n with kap := (s.core n).kap ||| (1#128 <<< row) } else s

/-- An uncorrectable error in a line that a quad's instruction cache holds (R83). -/
def State.upsetLine (s : State) (quad line : Nat) : State :=
  let q := s.quad quad
  if mhas q.icache line then s.setQuad quad { q with bad := sput q.bad line } else s

/-- An uncorrectable error in an island's cells, husk storage or cell memory poisons what it held of a residency's plane: the live one at
depth 0, or the one that the call to depth `k` froze (R83, 08_fabric.md R175; log 111). -/
def State.upsetPlane (s : State) (res k kind at_ i : Nat) : State :=
  match mfind s.resids res with
  | none => s
  | some r =>
    if k = 0 then s.setResid res { r with live := r.live.upset kind at_ i }
    else match r.planes[k - 1]? with
      | none => s
      | some p =>
        if !p.onDie then s
        else
          let p := p.upset kind at_ i
          (s.putCells r p).setResid res { r with planes := setNth r.planes (k - 1) p }

/-- A correctable error in an island's memories is corrected and counted (R83). -/
def State.countIsland (s : State) (isl : Nat) : State := { s with islCorr := mput s.islCorr isl (mget s.islCorr isl 0 + 1) }

/-- A correctable error is met on an access, corrected and counted, at the controller or the quad whose memory it lies in (R83). -/
def State.countError (s : State) (pa : Nat) : State :=
  match homeOf pa with
  | .hbm w m _ => s.setCtl (w * 64 + m) { s.ctl (w * 64 + m) with corr := (s.ctl (w * 64 + m)).corr + 1 }
  | .quad w qn _ =>
    let q := s.quad (quadKey w qn)
    s.setQuad (quadKey w qn) { q with corr := q.corr + 1 }
  | _ => s

/-- Whether a physical address is memory that a read may fetch ahead. -/
def State.plainHome (s : State) (pa : Nat) : Bool :=
  match homeOf pa with
  | .hbm w _ _ => w < s.podsize
  | .quad w qn l => w < s.podsize && s.fieldOn w (qnField qn) && l < 0x48000
  | _ => false

/-- A read of core `n` performs ahead of the load that program order puts later (05_ordering.md R98, R100, R109): no earlier access to its
bytes and no earlier acquire may still be open, and the words it reads are sound. -/
def State.readEarly (s : State) (n pa size : Nat) : State :=
  let c := s.core n
  let a : Access := { mkAccess .ld 0 size 0 with pa := pa }
  if c.strand.isNone || !(size == 1 || size == 2 || size == 4 || size == 8) || pa % size != 0 || !s.plainHome pa
    || s.poisonRun pa size || c.port.any (fun b => !b.performed && (b.acq || b.overlaps a)) then s
  else s.setCore n { c with early := ⟨pa, size, w64 (s.readNat pa size), s.relsAt pa size, [], false, false⟩ :: (c.dropEarly pa size).early }

/-- The quad's instruction cache loses a line. -/
def State.evictLine (s : State) (quad line : Nat) : State := s.setQuad quad ((s.quad quad).dropLine line)

/-- A source of throttle is asserted or cleared (12_power.md R223): 0 the alarm pin, 1 the over-current detector, 2 + f the
droop detector of field f. A droop during a hop abandons it, and its clearing sets when the hop is retried; a hop asked for during the
droop starts, unless throttle is in force (R224). -/
def State.throttleSource (s : State) (wafer src : Nat) (on : Bool) : State :=
  let w := s.wafer wafer
  match src with
  | 0 => s.setWafer wafer { w with srcPin := on, thrPin := w.thrPin || on, clearAt := if on then w.clearAt else s.time }
  | 1 => s.setWafer wafer { w with srcOcs := on, thrOcs := w.thrOcs || on, clearAt := if on then w.clearAt else s.time }
  | k + 2 =>
    let s := s.setWafer wafer { w with thrDrs := w.thrDrs || on, clearAt := if on then w.clearAt else s.time }
    let f := s.field (fieldKey wafer k)
    let again := if on then f.hopFrom.isSome || f.retryAt.isSome else f.retryAt.isSome
    let starts := !on && !again && f.busy && f.hopFrom.isNone && !w.thrAct
    s.setField (fieldKey wafer k) { f with
      drp := on, retryAt := if again then some (s.time + 10000) else none
      hopFrom := if starts then some f.want.toNat else f.hopFrom }

/-! ## The next move -/

/-- The next move: the agenda's first, else the schedule's (log 1). -/
def State.nextMove (s : State) : Move :=
  match s.agenda with
  | m :: _ => m
  | [] => Config.schedule s.tick

/-- Whether the pod carries the traffic of one sheaf at most, or of one pod-wide launch (18_prog_alltoall.md R301). -/
def State.quiet (s : State) : Bool :=
  match s.sheaves with
  | [] => true
  | (_, a) :: r => r.isEmpty || (a.pod.isSome && r.all fun e => e.2.pod == a.pod)

/-- The time by which an access of core `n` must have performed or answered in a quiet pod (R301): 760 ns after its issue. R301 names the
bound for accesses to other wafers; R302 and R303 rest on it for the core's own wafer too (DEDUCED, log 100). One that an earlier access or a
fault holds back, that waits at its home or in an edge graph, is not bounded by itself. -/
def Core.dueBy (c : Core) (a : Access) : Option Nat :=
  match a.phase with
  | .issued => if c.mayPerform a && c.fault.isNone then a.born.map (· + 760) else none
  | .performed _ => a.born.map (· + 760)
  | _ => none

/-- The time by which an access that waits for its translation must be made again and perform: 760 ns after its first issue (R301). -/
def State.triedBy (s : State) (n : Nat) (c : Core) : List Nat :=
  match c.tried with
  | none => []
  | some (t, va) =>
    match walkVa s (nWafer n) c.kasid.toNat va with
    | .ok _ => if s.canIssue n then [t + 760] else []
    | .error _ => []

/-- The times that time may not pass for core `n`: those of its accesses (R301), TIMEDGO's edge, and the instant itself while the
instruction that issues on that edge has not issued (12_power.md R227). -/
def State.bounds (s : State) (n : Nat) (c : Core) : List Nat :=
  (if s.quiet then c.port.filterMap c.dueBy ++ s.triedBy n c else [])
    ++ (match c.hold with
      | .timedgo t since =>
        if s.unitRuns n .core && c.fault.isNone && c.ending.isNone then
          [s.goEdge n t since + s.epoch - (s.wafer (nWafer n)).skew] else []
      | _ => [])
    ++ (if c.go && s.canIssue n then [s.time] else [])

/-- The times that time may not pass for a wafer: the microsecond edges on which its next interval and its next trading period begin
(12_power.md R226). -/
def State.waferBounds (s : State) (w : Nat) : List Nat :=
  let x := s.wafer w
  [x.lastIntvl + 1000 + s.epoch - x.skew, x.lastTrade + 100000 + s.epoch - x.skew]

/-- Time after `dt` nanoseconds, as far as what is due lets it go. -/
def State.timeAfter (s : State) (dt : Nat) : Nat :=
  max s.time (((List.range s.podsize).flatMap s.waferBounds ++ s.cores.flatMap fun e => s.bounds e.1 e.2).foldl min (s.time + dt))

/-- The state as the move finds it. -/
def State.advance (s : State) : State :=
  { s with agenda := s.agenda.drop 1, tick := s.tick + 1, time := s.timeAfter s.nextMove.dt }

/-- What an act selects in a state. -/
def State.select (s : State) (a : Act) : Turn :=
  match a with
  | .issue n => s.coreTurn n
  | .engine q => s.engineTurn q
  | .fabric k site => s.fabricTurn k site
  | .event i => if spontaneous i then .run i s else .bad
  | .evict quad line => .done (s.evictLine quad line)
  | .upset word => .done (s.upset word)
  | .upsetRow core row => .done (s.upsetRow core row)
  | .upsetLine quad line => .done (s.upsetLine quad line)
  | .corrected pa => .done (s.countError pa)
  | .early core pa size => .done (s.readEarly core pa size)
  | .correctedIsland isl => .done (s.countIsland isl)
  | .upsetPlane res k kind at_ i => .done (s.upsetPlane res k kind at_ i)
  | .hostWrite port pa bs => .done (s.hostMem port pa bs)
  | .hostLoad pa n => .done (s.hostLoads pa n)
  | .hostRead wafer port off size => .done (s.hostReads wafer port off size)
  | .source wafer src on => .done (s.throttleSource wafer src on)

/-- What the next move selects. -/
def State.turn (s : State) : Turn := s.advance.select s.nextMove.act

/-- The state with an instruction word where the next step fetches it: in the fetch buffer of core 0 at its pc, core 0 running a
strand, and the agenda giving it the next move (log 23). -/
def State.placeScalar (s : State) (w : W32) : State :=
  let c := s.core 0
  let c := { c with
    fetch := [(c.fetchPc, w)], strand := some (c.strand.getD ⟨c.pc, 0, ⟨0, 0⟩⟩), ending := none, hold := .none, fault := none, again := none }
  { s with agenda := [⟨0, .issue 0⟩] }.setCore 0 c

/-- The state with a command at the head of queue 0 of its engine, on core 0's quad. -/
def State.placeCmd (s : State) (c : Cmd) : State :=
  let q := queueKey 0 (bits c.w0 51 48) 0
  { s with agenda := [⟨0, .engine q⟩] }.setQueue q { resetEngQ with cmds := [⟨c, 0, true, 0, none, 0, false, 0, true, 0, 0, 0, 1, 1⟩] }

/-- The state with a word in the first cell, or its router, of the edge fabric of controller 0. -/
def State.placeFabric (s : State) (w : W64) : State :=
  let site := if cellOp w = 0 then rtSite 0 else 0
  { s with agenda := [⟨0, .fabric 1 site⟩] }.setCell 1 site { cellOf [w] with ready := true }

end Sys2Proof.Machine
end

