-- ==== Sys2Proof/Machine/System.lean ====
section
/-! DEFINITION. System instructions (21_ref_d_l.md R338, R342, R345, R349; 22_ref_m_s.md R369, R392; 23_ref_t_z.md R393 to
R395), RMOV (R76, R385) and the walker (04_memory.md R88). -/

namespace Sys2Proof.Machine

/-- NOP (R369). -/
def execNop (s : State) : Res := .next (s.finish s.me)

/-- SYS (R392): the system-call trap. KTVAL is the sub field, 0x040 + N. -/
def execSys (svc : BitVec 5) (s : State) : Res := .next (s.trap causeSys (w64 (0x040 + svc.toNat)))

/-- TRET (R395). -/
def execTret (s : State) : Res := .next s.trapReturn

/-- ISYNC (R345, R91): the quad's cache loses every line, and the core refetches. -/
def execIsync (s : State) : Res :=
  .next <|
    let k := nQuad s.cur
    let s := s.setQuad k { s.quad k with icache := [], miss := none, bad := [] }
    s.finish { s.me with fetch := [] }

/-- FENCE.acq (R338, R108): completes when every earlier read has returned its value, and makes of each that returned a release's value an
acquire. -/
def execFenceAcq (sc : BitVec 3) (s : State) : Res :=
  .next <|
    if !(Instr.fenceAcq sc).wf then s.illegal (.fenceAcq sc)
    else if s.me.acquired then s.finish (s.me.acquireAt s.cur sc.toNat)
    else s.setMe { s.me with wait := none }

/-- FENCE.rel (R338, R108): completes when every earlier access has performed; the next write of the port is its release. -/
def execFenceRel (sc : BitVec 3) (s : State) : Res :=
  .next <|
    if !(Instr.fenceRel sc).wf then s.illegal (.fenceRel sc)
    else if s.me.fenced sc.toNat then s.finish (s.me.relFence sc.toNat)
    else s.setMe { s.me with wait := none }

/-- A core notes the time it has read (R225). -/
def State.readTime (s : State) : State := s.setMe { s.me.learnt with lastTime := s.timeFor s.cur }

/-- TIME (R393). -/
def execTime (d : Reg) (s : State) : Res :=
  .next <| s.issue [] d fun _ =>
    let t := s.timeFor s.cur
    let s := s.readTime
    s.result s.me d (w64 t)

/-- TIMEDGO (R394): holds the core until device time reaches x[a]. -/
def execTimedgo (a : Reg) (s : State) : Res :=
  .next <| s.issue [(a, false)] 0 fun c => s.setMe { c with hold := .timedgo (c.get a) (s.devTime (nWafer s.cur)), wait := none }

/-- TIMEDGO_RELEASE: the first field-clock edge at which device time is at or past the target has come, and the next instruction issues
on it (R227, R394). -/
def execTimedgoRelease (core : Nat) (s : State) : Res :=
  .next <| match (s.core core).hold with
    | .timedgo t since =>
      if s.goEdge core t since ≤ s.devTime (nWafer core) && s.unitRuns core .core then
        s.setCore core { (s.core core).learnt with hold := .none, pc := (s.core core).pc + 4, go := true }
      else s
    | _ => s

/-- KRD (R349). -/
def execKrd (d : Reg) (kreg : BitVec 12) (s : State) : Res :=
  .next <| match kregOf kreg.toNat with
    | none => s.illegal (.krd d kreg)
    | some r =>
      if r.readPriv && !s.me.priv then s.noPriv (.krd d kreg)
      else s.issue [] d fun c =>
        let v := s.kread s.cur r
        if r == .ktime then s.result { c.learnt with lastTime := s.timeFor s.cur } d v else s.result c.learnt d v

/-! ## RMOV (R76, R385) -/

/-- Whether core `n` belongs to the team of core `c`. -/
def Core.sameTeam (c : Core) (o : Core) : Bool :=
  match c.team, o.team with
  | some a, some b => a.ref == b.ref
  | _, _ => false

/-- RMOV: the send is queued (R385). -/
def execRmov (a b : Reg) (n : BitVec 5) (s : State) : Res :=
  .next <| s.issue [(a, false), (b, false)] 0 fun c =>
    let t := c.get a
    if !s.coreOk t || !c.sameTeam (s.core t.toNat) then s.trap causeName t
    else { s with sends := s.sends ++ [Send.mk s.cur t.toNat n (c.get b)] }.finish c

/-- A value arrives by RMOV at x[n] (R76): written in any case, and its presence bit set; ovr is set when the register was full or awaited a local
producer (R75). -/
def Core.receive (c : Core) (n : Reg) (v : W64) : Core :=
  if n = 0 then c
  else if c.isFull n || c.producing n then { c.learnt.put n v with ovr := c.ovr ||| regMask n }
  else c.learnt.put n v

/-- RMOV_ARRIVE: a value on its way from `src` to `dst` arrives, the oldest between their two quads, which are nodes of the network (R76;
07_networks.md R151). -/
def execRmovArrive (src dst : Nat) (s : State) : Res :=
  .next <| match s.sends.find? fun m => nQuad m.src == nQuad src && nQuad m.dst == nQuad dst with
    | none => s
    | some m => if m.src != src || m.dst != dst then s else { s with sends := s.sends.erase m }.setCore dst ((s.core dst).receive m.n m.v)

/-! ## The walker (R88) -/

/-- TRANSLATION_WALK: the k-th miss is answered, from the field's cache or by a walk (R88). A leaf goes to the cache and the
stream; a failed walk raises the fault of the access. -/
def execTranslationWalk (k : Nat) (s : State) : Res :=
  .next <| match s.walks[k]? with
    | none => s
    | some q =>
      let s := { s with walks := dropNth s.walks k }
      match s.fieldLeaf q.field q.asid q.va with
      | some l => { s with streams := mput s.streams q.gid l }
      | none =>
        match walkVa s q.fault.wafer q.asid q.va with
        | .ok l => s.cacheLeaf q.field q.gid l
        | .error t => s.raiseGen { q.fault with ty := t }

end Sys2Proof.Machine
end

