-- ==== Sys2Proof/Machine/Accept.lean ====
section
/-! DEFINITION. The launch queue and what the graph sequencer accepts (10_scheduling.md R187 to R191; 14_assembly.md R278 to
R285; 18_prog_alltoall.md R300; 21_ref_d_l.md R350). -/

namespace Sys2Proof.Machine

/-! ## The partition table (R187) -/

/-- The words of a partition's entry; none is valid while KPTB is not set (12_power.md R232). -/
def State.partWords (s : State) (w part : Nat) : List W64 :=
  let base := bits (s.wafer w).kptb 47 12 * 4096
  (List.range 8).map fun i => if base = 0 then 0 else s.readW (waferPa w (base + part * 64 + 8 * i))

/-- Whether an entry is valid. -/
def partValid (e : List W64) : Bool := bitAt (nth e 1 0) 63

/-- The field map of an entry. -/
def partMap (e : List W64) : BitVec 72 := BitVec.ofNat 72 ((nth e 0 0).toNat + place (bits (nth e 1 0) 7 0) 64)

/-- The fields that belong to a partition: not those of a lower-numbered valid one. -/
def State.partFields (s : State) (w part : Nat) : BitVec 72 :=
  (List.range part).foldl (fun m k =>
    let e := s.partWords w k
    if partValid e then m &&& ~~~ partMap e else m) (partMap (s.partWords w part))

/-- The address space of a partition entry. -/
def partAsid (e : List W64) : Nat := bits (nth e 1 0) 17 8

/-! ## Words that a sheaf is made of -/

/-- The fields of a header break no rule (R278). -/
def hdrOk (h : List W64) : Bool :=
  let w0 := nth h 0 0
  let w1 := nth h 1 0
  bits w0 63 48 == 1 && bits w0 47 32 == 0 && bits w0 31 0 == 0x46454853 && bits w1 62 52 == 0 && bits w1 7 0 == 0
    && (List.range 5).all (fun i => bits (nth h (2 + i) 0) 63 56 == 0)
    && nth h 7 0 == 0 && bits (nth h 2 0) 5 0 == 0 && bits (nth h 4 0) 5 0 == 0

/-- Nodes of a header. -/
def hdrNodes (h : List W64) : Nat := bits (nth h 1 0) 51 40 + 1

/-- Edges of a header. -/
def hdrEdges (h : List W64) : Nat := bits (nth h 1 0) 39 24

/-- Address fields with bits 63:56 zero. -/
def addrOk (v : W64) : Bool := bits v 63 56 == 0

/-- Width and height of a core kernel's team (R280). -/
def teamDims (ws : List W64) : Nat × Nat := (bits (nth ws 4 0) 6 0 + 1, bits (nth ws 4 0) 13 7 + 1)

/-- A core kernel's words break no rule (R280). -/
def coreNodeOk (ws : List W64) : Bool :=
  let w := fun i => nth ws i 0
  let d := teamDims ws
  addrOk (w 1) && bits (w 1) 1 0 == 0 && bits (w 2) 63 32 % 32 == 0 && bits (w 2) 63 32 ≥ 64 && addrOk (w 3) && bits (w 4) 63 14 == 0
    && d.1 ≤ 72 && d.2 ≤ 88 && bits (w 5) 63 62 == 0 && bits (w 6) 63 60 ≤ 9 && bits (w 6) 59 56 == 0 && bits (w 7) 63 59 ≤ 16
    && bits (w 7) 58 56 == 0

/-- A residency's words break no rule (R282, R194). -/
def residNodeOk (ws : List W64) : Bool :=
  let w := fun i => nth ws i 0
  addrOk (w 1) && 1 ≤ bits (w 2) 3 0 && bits (w 2) 3 0 ≤ 11 && bits (w 2) 7 4 ≤ 12 && 1 ≤ bits (w 2) 26 19 && bits (w 2) 63 27 == 0
    && bits (w 3) 63 16 == 0 && w 4 == 0 && w 5 == 0 && w 6 == 0 && w 7 == 0

/-- Slot k of an edge-graph node: v, controller, slot (R282). -/
def slotField (ws : List W64) (k : Nat) : Bool × Nat × Nat :=
  let f := bits (nth ws 5 0) (16 * k + 15) (16 * k)
  (f ≥ 32768, f / 16 % 64, f % 16)

/-- The slots that an edge-graph node uses: k, controller, slot. -/
def nodeSlots (ws : List W64) : List (Nat × Nat × Nat) :=
  (List.range 4).filterMap fun k => match slotField ws k with
    | (true, m, sl) => some (k, m, sl)
    | _ => none

/-- An edge graph's words break no rule (R282). -/
def edgeNodeOk (ws : List W64) : Bool :=
  let w := fun i => nth ws i 0
  (List.range 4).all (fun k => addrOk (w (1 + k)) && bits (w 5) (16 * k + 14) (16 * k + 10) == 0)
    && (nodeSlots ws).all (fun x => x.2.1 ≤ 47) && w 6 == 0 && w 7 == 0

/-- A group binding's words break no rule (R282). -/
def groupNodeOk (ws : List W64) : Bool :=
  let w := fun i => nth ws i 0
  addrOk (w 1) && 1 ≤ bits (w 2) 7 0 && bits (w 2) 63 8 == 0 && w 3 == 0 && w 4 == 0 && w 5 == 0 && w 6 == 0 && w 7 == 0

/-- A node entry breaks no rule (R279). -/
def nodeOk (ws : List W64) : Bool :=
  let w0 := nth ws 0 0
  bits w0 55 50 ≤ 48 && bits w0 49 0 == 0 && (match bits w0 63 60 with
    | 0 => coreNodeOk ws
    | 1 => residNodeOk ws
    | 2 => edgeNodeOk ws
    | 3 => groupNodeOk ws
    | _ => false)

/-- A queue entry breaks no rule (R281). -/
def queueEntryOk (ws : List W64) : Bool :=
  let w := fun i => nth ws i 0
  addrOk (w 0) && addrOk (w 1) && bits (w 2) 39 6 == 0 && w 3 == 0 && bits (w 2) 3 0 ≤ 2 && (bits (w 2) 3 0 ≠ 0 || bits (w 2) 5 4 == 0)

/-- Tiles, first and length of a section table entry (R281). -/
def sectOf (e : W64) : Nat × Nat × Nat := (bits e 63 48, bits e 15 0, bits e 31 16)

/-- Sections of a queue entry overlap none and run within its commands. -/
def sectsOk (ncmd : Nat) : List W64 → Bool
  | [] => true
  | e :: r =>
    let (_, f, n) := sectOf e
    bits e 47 32 == 0 && f + n ≤ ncmd
      && r.all (fun e' =>
        let (_, f', n') := sectOf e'
        f + n ≤ f' || f' + n' ≤ f)
      && sectsOk ncmd r

/-- A reduction-group entry breaks no rule for a team of n cores (R284). -/
def redEntryOk (n : Nat) (ws : List W64) : Bool :=
  let w := fun i => nth ws i 0
  addrOk (w 0) && addrOk (w 1) && bits (w 2) 63 63 == 0 && (bits (w 2) 62 60 == 2 || bits (w 2) 62 60 == 3)
    && bits (w 2) 47 47 == 0 && bits (w 2) 31 0 == 0 && bits (w 2) 46 32 < n && bits (w 3) 63 31 == 0 && bits (w 3) 15 15 == 0
    && bits (w 3) 14 0 < n && bits (w 3) 30 16 ≤ bits (w 3) 14 0

/-- An edge entry breaks no rule, given the nodes' words (R283). -/
def edgeOk (nodes : List (List W64)) (e : W64) : Bool :=
  let a := nth nodes (bits e 57 46) []
  let b := nth nodes (bits e 45 34) []
  let kind := fun (ws : List W64) => bits (nth ws 0 0) 63 60
  let resPort := fun (ws : List W64) (p : Nat) => kind ws == 1 && p / 8 < bits (nth ws 2 0) 3 0
  let edgePort := fun (ws : List W64) (p : Nat) => kind ws == 2 && p ≤ 3 && (slotField ws p).1
  let fp := bits e 31 24
  let tp := bits e 23 16
  bits e 63 62 ≤ 1 && bits e 33 32 == 0 && bits e 15 0 == 0 && bits e 57 46 < nodes.length && bits e 45 34 < nodes.length
    && (if bits e 63 62 = 0 then bits e 60 58 ≤ 5
        else !a.isEmpty && !b.isEmpty && ((resPort a fp && edgePort b tp) || (edgePort a fp && resPort b tp)))

/-- A phase entry breaks no rule (R284): its group words name controllers (07_networks.md R139). -/
def phaseOk (ws : List W64) : Bool :=
  bits (nth ws 0 0) 31 14 == 0 && (List.range 3).all (fun i => bits (nth ws (1 + i) 0) 62 14 == 0)
    && (phaseGroups ws).all fun g => g / 256 ≤ 47

/-- A CRED entry breaks no rule (R284): the home of a placement-0 group takes part. -/
def credEntryOk (ws : List W64) : Bool :=
  let w := fun i => nth ws i 0
  addrOk (w 0) && addrOk (w 1) && bits (w 2) 31 29 == 0 && bits (w 2) 2 1 == 0 && bits (w 3) 63 16 == 0
    && (bitAt (w 2) 0 || bitAt (w 2) (32 + bits (w 2) 7 3))

/-! ## Reading the tables -/

/-- Reads `k` entries of `n` words. -/
def State.readTable (s : State) (w asid : Nat) (va : W64) (n : Nat) : Nat → Option (List (List W64))
  | 0 => some []
  | k + 1 =>
    match s.hwReads w asid va n, s.readTable w asid (va + w64 (8 * n)) n k with
    | some e, some r => some (e :: r)
    | _, _ => none

/-- The queue entries of a core kernel with their section tables break no rule. -/
def State.queuesOk (s : State) (w asid : Nat) (ws : List W64) : Bool :=
  match s.readTable w asid (w64 (bits (nth ws 6 0) 55 0)) 4 (bits (nth ws 6 0) 63 60) with
  | none => false
  | some es => es.all fun e =>
    queueEntryOk e && (match s.hwReads w asid (nth e 1 0) (bits (nth e 2 0) 47 40) with
      | some ss => sectsOk (bits (nth e 2 0) 63 48) ss
      | none => false)

/-- The reduction groups of a core kernel break no rule. -/
def State.redsOk (s : State) (w asid : Nat) (ws : List W64) : Bool :=
  let d := teamDims ws
  match s.readTable w asid (w64 (bits (nth ws 7 0) 55 0)) 4 (bits (nth ws 7 0) 63 59) with
  | none => false
  | some es => es.all (redEntryOk (4 * d.1 * d.2))

/-- The tables that a core kernel names break no rule. -/
def State.coreTablesOk (s : State) (w asid : Nat) (ws : List W64) : Bool :=
  bits (nth ws 0 0) 63 60 ≠ 0 || (s.queuesOk w asid ws && s.redsOk w asid ws)

/-! ## CRED groups of a pod-wide launch (20_ref_a_c.md R329) -/

/-- The controller in whose direct-window slot `n` bytes at `va` lie. -/
def State.directCtl (s : State) (w asid : Nat) (va : W64) (n : Nat) : Nat → Option Nat
  | 0 => none
  | k + 1 =>
    let len := pieceLen va n
    match s.hwVa w asid va len 1 with
    | .error _ => none
    | .ok pa =>
      let p := pa % 2 ^ 48
      match homeOf pa with
      | .hbm w' m _ =>
        if w' ≠ w || p < 0x100000000000 then none
        else if n ≤ len then some m
        else match s.directCtl w asid (va + w64 len) (n - len) k with
          | some m' => if m = m' then some m else none
          | none => none
      | _ => none

/-- Bytes of the vector that a CRED entry declares. -/
def credBytes (ws : List W64) : Nat := 4 * (bits (nth ws 2 0) 28 8 + 1)

/-- The controller of a CRED entry's home slot, if it has placement 0 and its home is this wafer. -/
def State.credHome (s : State) (w asid : Nat) (ws : List W64) : Option Nat :=
  if bitAt (nth ws 2 0) 0 || bits (nth ws 2 0) 7 3 ≠ w then none
  else s.directCtl w asid (nth ws 0 0) (credBytes ws) (credBytes ws / 4096 + 2)

/-- The home slots of a sheaf's CRED groups by group number: slots 15 and down at each controller, in ascending group number. -/
def State.credSlots (s : State) (w asid : Nat) (cs : List (List W64)) : List (Nat × Nat × Nat) :=
  let homes := cs.filterMap fun ws => (s.credHome w asid ws).map fun m => (bits (nth ws 3 0) 15 0, m)
  homes.filterMap fun (g, m) =>
    let before := (homes.filter fun x => x.2 == m && x.1 < g).length
    if before < 16 then some (g, w * 64 + m, 15 - before) else none

/-- Whether an edge-graph node names a slot held for a CRED group. -/
def namesCred (w : Nat) (slots : List (Nat × Nat × Nat)) (ws : List W64) : Bool :=
  bits (nth ws 0 0) 63 60 == 2 && (nodeSlots ws).any fun x => slots.any fun c => c.2.1 == w * 64 + x.2.1 && c.2.2 == x.2.2

/-! ## Acceptance (R189, R278) -/

/-- The lowest free place of a partition's list. -/
def State.freePlace (s : State) (w part : Nat) : Option Nat :=
  (List.range 64).find? fun k => !mhas s.sheaves (w * 4096 + part * 64 + k)

/-- Whether an area can be read and written in an address space, and holds no poison. -/
def State.areaOk (s : State) (w asid : Nat) (va : W64) (n : Nat) : Nat → Bool
  | 0 => false
  | k + 1 =>
    let len := pieceLen va n
    match s.hwVa w asid va len 0, s.hwVa w asid va len 1 with
    | .ok pa, .ok _ => !s.poisonRun pa len && (n ≤ len || s.areaOk w asid (va + w64 len) (n - len) k)
    | _, _ => false

/-- Whether the record area that a header names can be reached (R189). -/
def State.recOk (s : State) (w asid : Nat) (h : List W64) : Bool :=
  let n := 64 + 32 * hdrNodes h
  s.areaOk w asid (w64 (bits (nth h 4 0) 55 0)) n (n / 4096 + 2)

/-- The CRED entries of a sheaf, which the GS reads with its header; none where either breaks a rule. -/
def State.readCreds (s : State) (w asid : Nat) (h : List W64) : Option (List (List W64)) :=
  if !hdrOk h then none
  else (s.readTable w asid (nth h 6 0) 4 (bits (nth h 1 0) 15 8)).filter fun cs => cs.all credEntryOk

/-- The nodes and edges of a sheaf, with what they name; none where one breaks a rule. `slots` are held for its CRED groups. -/
def State.readNodes (s : State) (w asid : Nat) (h : List W64) (slots : List (Nat × Nat × Nat)) : Option (List (List W64) × List W64) :=
  match s.readTable w asid (nth h 2 0) 8 (hdrNodes h), s.hwReads w asid (nth h 3 0) (hdrEdges h),
      s.readTable w asid (nth h 5 0) 4 (bits (nth h 1 0) 23 16) with
  | some ns, some es, some ps =>
    if ns.all (fun ws => nodeOk ws && s.coreTablesOk w asid ws && !namesCred w slots ws) && es.all (edgeOk ns) && ps.all phaseOk
    then some (ns, es) else none
  | _, _, _ => none

/-- A node that waits, with its words. -/
def nodeOf (ws : List W64) : Node := { resetNode with words := ws }

/-- A wafer's part in a CRED group. -/
def credPart (sheaf asid : Nat) (ws : List W64) : CredW :=
  { resetCredW with sheaf := sheaf, dst := nth ws 0 0, done := nth ws 1 0, asid := asid }

/-- A CRED group as its entry declares it. -/
def credOfEntry (pod : Nat) (ws : List W64) : CredG :=
  { pod := pod, gid := bits (nth ws 3 0) 15 0, wafers := BitVec.ofNat 32 (bits (nth ws 2 0) 63 32), count := bits (nth ws 2 0) 28 8,
    home := bits (nth ws 2 0) 7 3, placement := bits (nth ws 2 0) 0 0, slot := none, seq := 0, bound := false, zeroed := 0, marks := [],
    parts := [] }

/-- A wafer joins the CRED groups that a pod-wide launch declares; at its home a group waits for its slot from there on. -/
def State.joinCreds (s : State) (w key asid pod seq : Nat) (cs : List (List W64)) : State :=
  let slots := s.credSlots w asid cs
  cs.foldl (fun s ws =>
    let gid := bits (nth ws 3 0) 15 0
    let k := pod * 2 ^ 16 + gid
    let g := (mfind s.creds k).getD (credOfEntry pod ws)
    let g := if g.home = w && g.placement = 0 then { g with slot := (slots.find? (·.1 == gid)).map (·.2), seq := seq } else g
    if bitAt g.wafers w then s.setCred k { g with parts := mput g.parts w (credPart key asid ws) } else s) s

/-- The record area of a sheaf. -/
def Sheaf.area (sh : Sheaf) : W64 := w64 (bits (nth sh.hdr 4 0) 55 0)

/-- Writes a word of a sheaf's record area, as the release `rel` where it is one. -/
def State.putRecord (s : State) (key : Nat) (sh : Sheaf) (off : Nat) (v : W64) (rel : Option Rel) : State :=
  s.hwWriteAs (shWafer key) sh.asid (sh.area + w64 off) v rel

/-- Accepts a sheaf into place `slot`, with the header that was read (none: it or its record area could not be reached); the next free
number is its acceptance number. -/
def State.acceptAt (s : State) (e : PodEntry) (w slot : Nat) (h : Option (List W64)) (pod : Option Nat) : State :=
  let pw := s.partWords w e.part
  let asid := partAsid pw
  let key := w * 4096 + e.part * 64 + slot
  let got := h.bind (s.readCreds w asid)
  let seq := s.serial
  let sh : Sheaf := {
    va := e.va, prio := e.prio, tag := e.tag, host := e.host, seq := seq, time := s.devTime w, hdr := h.getD [], part := pw,
    fmap := s.partFields w e.part, read := false, nodes := [], edges := [], pod := pod, master := e.master,
    bad := if h.isNone then 2 else if got.isNone || e.refused then 1 else 0, woken := [] }
  let s := { s with serial := seq + 1, sheaves := mput s.sheaves key sh }
  match pod with
  | some p => if sh.bad = 0 then s.joinCreds w key asid p seq (got.getD []) else s
  | none => s

/-- Passes a pod-wide launch to the other wafers (R300). -/
def State.passPod (s : State) (e : PodEntry) : State :=
  (List.range s.podsize).foldl (fun s w =>
    if w = e.master then s else s.setWafer w { s.wafer w with podIn := (s.wafer w).podIn ++ [e] }) s

/-- Whether a header is of a pod-wide launch. -/
def isPod (h : Option (List W64)) : Bool := (h.map fun h => bitAt (nth h 1 0) 63).getD false

/-- A launch entry with its number, where it is pod-wide; its submitter passes it on. `refused` says that the submitter refuses it. -/
def State.submitPod (s : State) (e : PodEntry) (h : Option (List W64)) (refused : Bool) : State × Option Nat :=
  if isPod h then ({ s with serial := s.serial + 1 }.passPod { e with pod := s.serial, refused := refused }, some s.serial) else (s, none)

/-- Accepts a sheaf on the wafer it is submitted on: `h` is its header if it could be read, `ok` whether its record area can be reached. -/
def State.acceptHere (s : State) (e : PodEntry) (slot : Nat) (h : Option (List W64)) (ok : Bool) : State :=
  let a := s.submitPod e h (!ok)
  a.1.acceptAt e e.master slot (if ok then h else none) a.2

/-- A launch-refused event (R208). -/
def refusedEv (idx reason : Nat) (va : W64) : Ev :=
  { kind := 2, ref := none, words := [w64 idx, w64 reason, va, 0, 0, 0], what := .other, core := none }

/-- Whether the GS of a wafer holds a launch-refused event: its next refusal waits (R207). -/
def State.refusalHeld (s : State) (w : Nat) : Bool := (s.wafer w).raised.any (·.kind == 2)

/-! ## The launch queue (R188, R189) -/

/-- The words of the entry at the head of a wafer's ring. -/
def State.launchEntry (s : State) (w : Nat) : List W64 :=
  let x := s.wafer w
  let at_ := bits x.klqb 47 12 * 4096 + x.klqHead.toNat % ringSize x.klqb * 32
  (List.range 4).map fun i => s.readW (waferPa w (at_ + 8 * i))

/-- Whether the four tables that the GS needs are set (12_power.md R232). -/
def Wafer.tablesSet (x : Wafer) : Bool :=
  bits x.klqb 47 12 ≠ 0 && bits x.ksvqb 47 12 ≠ 0 && bits x.kptb 47 12 ≠ 0 && bits x.kastb 47 14 ≠ 0

/-- The head of a wafer's ring moves on. -/
def State.takeEntry (s : State) (w : Nat) : State := s.setWafer w { s.wafer w with klqHead := (s.wafer w).klqHead + 1 }

/-- Refuses the entry at the head, once no refusal event is held. -/
def State.refuseEntry (s : State) (w reason : Nat) (va : W64) : State :=
  if s.refusalHeld w then s
  else
    let idx := (s.wafer w).klqHead.toNat
    (s.takeEntry w).raiseEv w (refusedEv idx reason va)

/-- Reserved bits of a launch entry (R189). -/
def entryReserved (e : List W64) : Bool :=
  bits (nth e 0 0) 63 56 != 0 || bits (nth e 1 0) 63 14 != 0 || bits (nth e 1 0) 7 2 != 0 || nth e 3 0 != 0

/-- LAUNCH_ENTRY_TAKE: the GS takes the entry at the head of the launch ring. -/
def execLaunchEntryTake (wafer : Nat) (s : State) : Res :=
  .next <|
    let x := s.wafer wafer
    if !x.tablesSet || x.klqHead = x.klqTail || x.round.isSome then s
    else
      let e := s.launchEntry wafer
      let part := bits (nth e 1 0) 13 8
      let va := nth e 0 0
      let pw := s.partWords wafer part
      if entryReserved e || !partValid pw then s.refuseEntry wafer 1 0
      else if x.podIn.any (·.part == part) then s
      else match s.freePlace wafer part with
        | none => s
        | some slot =>
          let h := s.hwReads wafer (partAsid pw) va 8
          let p : PodEntry :=
            { pod := 0, master := wafer, part := part, prio := bits (nth e 1 0) 1 0, tag := nth e 2 0, va := va, host := true, refused := false }
          if h.any (s.recOk wafer (partAsid pw)) then (s.takeEntry wafer).acceptHere p slot h true
          else if s.refusalHeld wafer then s
          else (s.submitPod p h true).1.refuseEntry wafer 3 va

/-- LAUNCH (R350, R190): performs FENCE.rel at wafer scope and submits a sheaf to the launching node's partition, behind the pod-wide launches that wait there (R300). -/
def execLaunch (d a b : Reg) (s : State) : Res :=
  .next <| s.issue [(a, false), (b, false)] d fun c =>
    let va := c.get a
    let v := c.get b
    if bits v 63 2 != 0 then s.trap causeSync v
    else if bits va 5 0 != 0 then s.trap causeMisaligned va
    else if !c.fenced 3 then s.setMe { c with wait := none }
    else match c.strand with
      | none => s
      | some t =>
        let c := c.relFence 3
        let w := nWafer s.cur
        let part := shPart t.ref.sheaf
        match s.freePlace w part with
        | none => s.result c d 1
        | some slot =>
          if (s.wafer w).podIn.any (·.part == part) then s.setMe { c with wait := none }
          else
            let s := s.setMe c
            let asid := partAsid (s.partWords w part)
            let h := s.hwReads w asid va 8
            let s := s.acceptHere
              { pod := 0, master := w, part := part, prio := bits v 1 0, tag := 0, va := va, host := false, refused := false } slot h
              (h.any (s.recOk w asid))
            s.result s.me d 0

/-! ## Pod-wide launches (R300) -/

/-- The sheaves of a pod-wide launch. -/
def State.podSheaves (s : State) (p : Nat) : List (Nat × Sheaf) := s.sheaves.filter fun e => e.2.pod == some p

/-- A pod-wide launch is refused: every copy of it is, those on their way too. -/
def State.refusePod (s : State) (p : Nat) : State :=
  { s with
    sheaves := s.sheaves.map fun e => if e.2.pod == some p && e.2.bad = 0 then (e.1, { e.2 with bad := 1, nodes := [] }) else e
    wafers := s.wafers.map fun e =>
      (e.1, { e.2 with podIn := e.2.podIn.map fun x => if x.pod == p then { x with refused := true } else x }) }

/-- Whether every wafer has accepted the launch that a sheaf belongs to, and none refuses an entry of it. -/
def State.podReady (s : State) (sh : Sheaf) : Bool :=
  match sh.pod with
  | none => true
  | some p => !(s.wafers.any fun e => e.2.podIn.any (·.pod == p)) && (s.podSheaves p).all fun e => e.2.bad == 0 && e.2.read

/-- The GS considers a sheaf's nodes for the first time: it reads their entries once, and refuses the sheaf where one breaks a rule
(R278). -/
def State.consider (s : State) (key : Nat) : State :=
  match mfind s.sheaves key with
  | none => s
  | some sh =>
    let w := shWafer key
    let slots := (s.creds.filter fun g => some g.2.pod == sh.pod && g.2.home == w).filterMap fun g => g.2.slot.map fun x => (g.2.gid, x)
    match s.readNodes w sh.asid sh.hdr slots with
    | some (ns, es) =>
      { s with sheaves := mput s.sheaves key { sh with
        read := true, nodes := (List.range ns.length).map fun i => (i, nodeOf (nth ns i [])), edges := es } }
    | none =>
      let s := { s with sheaves := mput s.sheaves key { sh with read := true, bad := 1 } }
      match sh.pod with
      | some p => s.refusePod p
      | none => s

/-- A walk of a partition's sheaves begins: it considers those that no walk has yet come to (R191; log 99). -/
def State.walk (s : State) (part : Nat) : State :=
  if !s.partRuns part then s
  else ((s.sheaves.filter fun e => shPartKey e.1 == part && !e.2.read && e.2.bad == 0).map (·.1)).foldl (fun s k => s.consider k) s

/-- POD_SHEAF_ACCEPT: a wafer's GS takes a pod-wide launch passed to it: the first whose partition has room. -/
def execPodSheafAccept (wafer : Nat) (s : State) : Res :=
  .next <|
    match (s.wafer wafer).podIn.find? fun e => (s.freePlace wafer e.part).isSome with
    | none => s
    | some e =>
      let gone := fun (s : State) => s.setWafer wafer { s.wafer wafer with podIn := (s.wafer wafer).podIn.erase e }
      let pw := s.partWords wafer e.part
      let h := if partValid pw then (s.hwReads wafer (partAsid pw) e.va 8).filter (s.recOk wafer (partAsid pw)) else none
      match h, s.freePlace wafer e.part with
      | none, _ =>
        if s.refusalHeld wafer then s
        else
          let ev := if partValid pw then refusedEv (2 ^ 64 - 1) 3 e.va else refusedEv (2 ^ 64 - 1) 1 0
          ((gone s).refusePod e.pod).raiseEv wafer ev
      | some h, some slot =>
        let s' := (gone s).acceptAt e wafer slot (some h) (some e.pod)
        if (s'.podSheaves e.pod).any fun x => x.2.bad ≠ 0 then s'.refusePod e.pod else s'
      | _, none => s

end Sys2Proof.Machine
end

