-- ==== Sys2Proof/Machine/Place.lean ====
section
/-! DEFINITION. Placing nodes (10_scheduling.md R187, R191 to R195; 14_assembly.md R282, R285): the walk, teams, regions, edge
graphs and group bindings, and the record of a node that completes. -/

namespace Sys2Proof.Machine

/-! ## The walk (02_execution.md R30, R31, R50; R191) -/

/-- Whether an edge lets its successor be placed. -/
def Sheaf.edgeMet (sh : Sheaf) (e : W64) : Bool :=
  let p := sh.nodeAt (edgeFrom e)
  p.st == .done || (bitAt e 61 && p.hinted)

/-- Whether every dependence edge into a node is met. -/
def Sheaf.met (sh : Sheaf) (node : Nat) : Bool := (sh.edges.filter (edgeInto · node)).all sh.edgeMet

/-- Whether a node waits to be placed: its sheaf is accepted on every wafer, its edges are met and its partition runs. -/
def State.eligible (s : State) (r : NodeRef) : Bool :=
  match mfind s.sheaves r.sheaf with
  | none => false
  | some sh =>
    sh.bad == 0 && (match mfind sh.nodes r.node with
      | some n => n.st == .waiting && n.status == 0
      | none => false)
      && sh.met r.node && s.podReady sh && s.partRuns (shPartKey r.sheaf)

/-- The nodes of a sheaf. -/
def Sheaf.refs (sh : Sheaf) (key : Nat) : List NodeRef := sh.nodes.map fun e => ⟨key, e.1⟩

/-- Waiting nodes of a partition that may be placed. -/
def State.waiters (s : State) (part : Nat) : List NodeRef :=
  (s.sheaves.filter fun e => shPartKey e.1 == part).flatMap fun e => (e.2.refs e.1).filter s.eligible

/-- Whether the walk comes to node `a` before node `b`: priority, acceptance, node number (R191, R31). -/
def State.walksBefore (s : State) (a b : NodeRef) : Bool :=
  match mfind s.sheaves a.sheaf, mfind s.sheaves b.sheaf with
  | some x, some y =>
    x.prio > y.prio || (x.prio == y.prio && (x.seq < y.seq || (x.seq == y.seq && a.node < b.node)))
  | _, _ => false

/-- A node of a partition has been placed: each node that waits grows older (R193). -/
def State.placedOne (s : State) (r : NodeRef) : State :=
  (s.waiters (shPartKey r.sheaf)).foldl (fun s x => if x = r then s else s.modNode x fun n => { n with age := n.age + 1 }) s

/-! ## Fields in order (R192) -/

/-- The fields that controller m stands beside. -/
def ctlFields (m : Nat) : List (Nat × Nat) :=
  let span := fun (k n : Nat) (f : Nat → Nat × Nat) =>
    let lo := n * (k % 12) / 12
    let hi := (n * (k % 12) + n - 1) / 12
    (List.range (hi + 1 - lo)).map fun i => f (lo + i)
  if m < 12 then span m 8 fun fy => (0, fy)
  else if m < 24 then span (m - 12) 9 fun fx => (fx, 7)
  else if m < 36 then span (m - 24) 8 fun fy => (8, fy)
  else span (m - 36) 9 fun fx => (fx, 0)

/-- The distance of two numbers. -/
def absDiff (a b : Nat) : Nat := (a - b) + (b - a)

/-- The distance of a field to the nearest field beside controller m. -/
def fieldDist (m f : Nat) : Nat :=
  ((ctlFields m).map fun g => absDiff (f % 9) g.1 + absDiff (f / 9) g.2).foldl min 1000

/-- Inserts a field by its key. -/
def insertBy (key : Nat → Nat) (f : Nat) : List Nat → List Nat
  | [] => [f]
  | g :: r => if key f < key g then f :: g :: r else g :: insertBy key f r

/-- The fields of a map in the order of a data hint: 0 none, m + 1 for controller m. -/
def fieldOrder (fmap : BitVec 72) (hint : Nat) : List Nat :=
  let fs := (List.range 72).filter fun f => fmap.getLsbD f
  if hint = 0 then fs else fs.foldl (fun l f => insertBy (fieldDist (hint - 1)) f l) []

/-- The data hint of a node's words. -/
def hintOf (ws : List W64) : Nat := bits (nth ws 0 0) 55 50

/-! ## Teams (R192) -/

/-- Whether a quad holds a team. -/
def State.hasTeam (s : State) (w qn : Nat) : Bool := (s.core (mkName w qn 0)).team.isSome

/-- Whether a quad belongs to a sheaf's partition, in an enabled field. -/
def State.quadMine (s : State) (w : Nat) (fmap : BitVec 72) (qn : Nat) : Bool :=
  fmap.getLsbD (qnField qn) && s.fieldOn w (qnField qn)

/-- Whether a quad lies in a rectangle. -/
def inRect (tq0 ty0 tw th qn : Nat) : Bool :=
  tq0 ≤ qnCol qn && qnCol qn < tq0 + tw && ty0 ≤ qnRow qn && qnRow qn < ty0 + th

/-- Whether a quad is kept for a reserved node of a partition other than `r` (R193). -/
def State.reservedFor (s : State) (r : NodeRef) (qn : Nat) : Bool :=
  match (s.part (shPartKey r.sheaf)).reserved with
  | some (x, tq0, ty0) =>
    let d := teamDims (s.nodeWords x)
    x != r && inRect tq0 ty0 d.1 d.2 qn
  | none => false

/-- Whether a field stays with another partition, which is swapped out (11_faults.md R216). -/
def State.fieldLocked (s : State) (r : NodeRef) (f : Nat) : Bool :=
  s.sheaves.any fun e => shWafer e.1 == shWafer r.sheaf && shPartKey e.1 != shPartKey r.sheaf && e.2.fmap.getLsbD f
    && (s.part (shPartKey e.1)).st == .swapped

/-- Whether a quad may take a team of node `r`: its own, free, cool and not kept for another (R192, R193; 12_power.md R228). -/
def State.quadFree (s : State) (r : NodeRef) (fmap : BitVec 72) (qn : Nat) : Bool :=
  let w := shWafer r.sheaf
  s.quadMine w fmap qn && !s.hasTeam w qn && !(s.field (fieldKey w (qnField qn))).hot && !s.reservedFor r qn
    && !s.fieldLocked r (qnField qn)

/-- The candidate origins of a field, row by row from its south-west node. -/
def originsOf (f : Nat) : List (Nat × Nat) :=
  (List.range 11).flatMap fun y => (List.range 8).map fun x => (f % 9 * 8 + x, f / 9 * 11 + y)

/-- The first origin whose whole rectangle satisfies `ok`. -/
def firstFit (fields : List Nat) (tw th : Nat) (ok : Nat → Bool) : Option (Nat × Nat) :=
  (fields.flatMap originsOf).find? fun o =>
    o.1 + tw ≤ 72 && o.2 + th ≤ 88 && (rectQuads o.1 o.2 tw th).all ok

/-! ## The pool (R187) -/

/-- Rounds up to an alignment. -/
def alignUp (a al : Nat) : Nat := (a + al - 1) / al * al

/-- First fit in ascending address: the address of a block of `n` bytes at alignment `al`. -/
def poolFit (base len : Nat) (used : List (Nat × Nat)) (n al : Nat) : Option Nat :=
  let starts := (base :: used.map fun u => u.1 + u.2).map (alignUp · al)
  let ok := fun a => a + n ≤ base + len && used.all fun u => a + n ≤ u.1 || u.1 + u.2 ≤ a
  (starts.filter ok).foldl (fun (m : Option Nat) a => match m with
    | some b => some (min a b)
    | none => some a) none

/-- Base and length of a sheaf's pool. -/
def Sheaf.pool (sh : Sheaf) : Nat × Nat := (bits (nth sh.part 5 0) 55 0, bits (nth sh.part 6 0) 47 0)

/-- Takes a block of a partition's pool. -/
def State.poolTake (s : State) (r : NodeRef) (n al : Nat) : Option (Nat × State) :=
  match mfind s.sheaves r.sheaf with
  | none => none
  | some sh =>
    let p := s.part (shPartKey r.sheaf)
    match poolFit sh.pool.1 sh.pool.2 p.pool n al with
    | none => none
    | some a => some (a, s.setPart (shPartKey r.sheaf) { p with pool := p.pool ++ [(a, n)] })

/-- Returns a block. -/
def State.poolGive (s : State) (part a : Nat) : State :=
  s.setPart part { s.part part with pool := (s.part part).pool.filter (·.1 != a) }

/-! ## Core kernels (R192, R193) -/

/-- The field map of a node's sheaf. -/
def State.fmapOf (s : State) (r : NodeRef) : BitVec 72 := ((mfind s.sheaves r.sheaf).map (·.fmap)).getD 0

/-- Where a core kernel's team would be placed now. -/
def State.teamFit (s : State) (r : NodeRef) : Option (Nat × Nat) :=
  let ws := s.nodeWords r
  let d := teamDims ws
  let fmap := s.fmapOf r
  match (s.part (shPartKey r.sheaf)).reserved with
  | some (x, tq0, ty0) =>
    if x = r then (if (rectQuads tq0 ty0 d.1 d.2).all (s.quadFree r fmap) then some (tq0, ty0) else none)
    else firstFit (fieldOrder fmap (hintOf ws)) d.1 d.2 (s.quadFree r fmap)
  | none => firstFit (fieldOrder fmap (hintOf ws)) d.1 d.2 (s.quadFree r fmap)

/-- Bytes of a core kernel's frame region (02_execution.md R37). -/
def frameBytes (ws : List W64) : Nat :=
  let d := teamDims ws
  64 + 4 * d.1 * d.2 * bits (nth ws 2 0) 63 32

/-- Whether a node is a core kernel. -/
def State.isKernel (s : State) (r : NodeRef) : Bool := bits (nth (s.nodeWords r) 0 0) 63 60 == 0

/-- Where a core kernel would be placed and its frame region, if it can be now. -/
def State.kernelFit (s : State) (r : NodeRef) : Option ((Nat × Nat) × Nat × State) :=
  match s.teamFit r, s.poolTake r (frameBytes (s.nodeWords r)) 64 with
  | some o, some (a, s') => some (o, a, s')
  | _, _ => none

/-! ## Records of nodes (R285, 02_execution.md R32) -/

/-- Whole microjoules of a node's energy (12_power.md R222). -/
def Node.uj (n : Node) : Nat := n.energy / 1000000

/-- Writes a node's record, word 0 last. Every access of the node has performed, whatever its home, so its completion is a release at the
scope of every edge (02_execution.md R32). -/
def State.finishNode (s : State) (r : NodeRef) : State :=
  match mfind s.sheaves r.sheaf, s.node? r with
  | some sh, some n =>
    let off := 64 + 32 * r.node
    let s := s.putRecord r.sheaf sh (off + 8) (w64 n.uj) none
    let s := s.putRecord r.sheaf sh (off + 16) n.rstat none
    let s := s.putRecord r.sheaf sh (off + 24) (w64 (s.devTime (shWafer r.sheaf))) none
    let s := s.putRecord r.sheaf sh off (w64 (place 1 63 + place n.status 56)) none
    s.modNode r fun n => { n with st := .done, place := .none, was := n.place }
  | _, _ => s

/-- Completes a node abnormally with a status, nothing having been placed. -/
def State.refuseNode (s : State) (r : NodeRef) (st : Nat) : State :=
  (s.modNode r fun n => { n with abn := true, status := st }).finishNode r

/-! ## Regions (R194) -/

/-- The height of a residency's words. -/
def heightOf (ws : List W64) : Nat := bits (nth ws 2 0) 3 0

/-- Whether an island of a field is held by a residency. -/
def State.islandHeld (s : State) (field col row : Nat) : Bool :=
  s.resids.any fun e => e.2.field == field && e.2.col == col && e.2.row ≤ row && row < e.2.row + e.2.h

/-- The first free region of height h: field, column, row. -/
def State.regionFit (s : State) (w : Nat) (fields : List Nat) (h : Nat) : Option (Nat × Nat × Nat) :=
  (fields.flatMap fun f => (List.range 4).flatMap fun c => (List.range 11).map fun y => (f, c, y)).find? fun x =>
    s.fieldOn w x.1 && !(s.field (fieldKey w x.1)).hot && x.2.2 + h ≤ 11
      && (List.range h).all fun i => !s.islandHeld (fieldKey w x.1) x.2.1 (x.2.2 + i)

/-- Whether a shape can never fit: no field of the partition is enabled. -/
def State.neverFits (s : State) (r : NodeRef) : Bool :=
  !(List.range 72).any fun f => (s.fmapOf r).getLsbD f && s.fieldOn (shWafer r.sheaf) f

/-- The lesser of a field's limit and a declared depth (08_fabric.md R176). -/
def callLimit (lim depth : Nat) : Nat := if depth = 0 then lim else min lim depth

/-- Stamps of the requests of a partition that wait in a shape class, with the nodes and the CREQs that made them. -/
def State.classStamps (s : State) (part h : Nat) : List Nat :=
  ((s.waiters part).filter fun x => bits (nth (s.nodeWords x) 0 0) 63 60 == 1 && heightOf (s.nodeWords x) == h).filterMap
      (fun x => match s.node? x with
        | some n => if n.stamp = 0 then none else some n.stamp
        | none => none)
    ++ s.creqs.filterMap fun c => match mfind s.resids c.res with
      | some r =>
        if shPartKey r.ref.sheaf == part && heightOf (s.nodeWords ⟨r.ref.sheaf, c.node⟩) == h then some c.stamp else none
      | none => none

/-- A residency of a node's words on a region. An instance of CREQ is in strict mode where the node that it names is, which R326 leaves open
(DESIGN CHOICE, log 70). -/
def residOf (ws : List W64) (ref : NodeRef) (asid field col row limit id : Nat) : Resid where
  field := field
  col := col
  row := row
  h := heightOf ws
  ref := ref
  asid := asid
  inst := none
  list := nth ws 1 0
  nlist := bits (nth ws 2 0) 26 19
  entries := []
  cmres := bits (nth ws 2 0) 7 4
  limit := limit
  graph := bits (nth ws 3 0) 15 0
  strict := bitAt (nth ws 0 0) 56
  cause := 0
  halt := false
  lenmis := false
  retd := false
  cc := 0
  it := 0
  iters := 0
  next := 0
  live := { resetPlane with id := id }
  planes := []
  load := []
  st := .reach
  msgs := []
  backs := []
  gens := []
  fired := false
  husk := 0
  spill := 0
  huskPages := []
  spillPages := []
  binds := []

/-- Takes a block of the pool for a ring of `n` bytes, if it has any: whole pages of 4 KiB, aligned on 4 KiB, for R92 maps a ring sup-only and
R187 leaves each user's alignment open (DESIGN CHOICE, log 110). -/
def State.ringTake (s : State) (r : NodeRef) (n : Nat) : Option (Nat × State) :=
  if n = 0 then some (0, s) else s.poolTake r ((n + 4095) / 4096 * 4096) 4096

/-- The 4 KiB pages of a ring of `n` bytes at virtual address `a`. -/
def State.ringPages (s : State) (r : NodeRef) (a n : Nat) : List Nat :=
  (List.range ((n + 4095) / 4096)).filterMap fun i => match s.hwVa (shWafer r.sheaf) (s.refAsid r) (w64 (a + 4096 * i)) 8 1 with
    | .ok pa => some (pageOf pa)
    | .error _ => none

/-- Places a residency of node words `ws` for node `ref` when its class and the wafer have room, and the pool has room for its husk ring
and its channels' spill rings (R187); the state and its number. -/
def State.residPlace (s : State) (ref : NodeRef) (ws : List W64) (stamp : Nat) : Option (Nat × State) :=
  let w := shWafer ref.sheaf
  let part := shPartKey ref.sheaf
  let h := heightOf ws
  if (s.classStamps part h).any (· < stamp) then none
  else match s.regionFit w ((fieldOrder (s.fmapOf ref) (hintOf ws)).filter fun f => !s.fieldLocked ref f) h with
    | none => none
    | some (f, col, row) =>
      let limit := callLimit (s.field (fieldKey w f)).depthLim.toNat (bits (nth ws 2 0) 18 8)
      let n := huskBytes limit (bits (nth ws 2 0) 7 4) h
      let m := (Config.spillBytes h).toNat
      let id := s.serial
      match s.ringTake ref n with
      | none => none
      | some (husk, s1) => match s1.ringTake ref m with
        | none => none
        | some (spill, s2) =>
          some (id, { s2 with serial := id + 2 }.setResid id {
            residOf ws ref (s.refAsid ref) (fieldKey w f) col row limit (id + 1) with
            husk := w64 husk, spill := w64 spill, huskPages := s.ringPages ref husk n, spillPages := s.ringPages ref spill m })

/-- Where the stream edges of a sheaf join generators of a residency to windows (R283): generator key, and win(m, s) as 09_edge.md R180 gives
it, which has no term for the wafer. -/
def Sheaf.windows (sh : Sheaf) (node : Nat) : Map W64 :=
  sh.edges.foldl (fun m e =>
    let a := bits e 57 46
    let b := bits e 45 34
    let join := fun (m : Map W64) (gen other k : Nat) =>
      let (_, c, sl) := slotField (sh.nodeAt other).words k
      mput m gen (w64 (winPa 0 c sl))
    if bits e 63 62 ≠ 1 then m
    else if a = node then join m (bits e 31 24) b (bits e 23 16)
    else if b = node then join m (bits e 23 16) a (bits e 31 24)
    else m) []

/-! ## Edge graphs (R184, R195, R305) -/

/-- Whether a node is an edge graph. -/
def State.isEdge (s : State) (r : NodeRef) : Bool := bits (nth (s.nodeWords r) 0 0) 63 60 == 2

/-- The controller keys and slots of an edge-graph node. -/
def State.edgeSlots (s : State) (r : NodeRef) : List (Nat × Nat) :=
  (nodeSlots (s.nodeWords r)).map fun x => (shWafer r.sheaf * 64 + x.2.1, x.2.2)

/-- A slot's descriptor and image as the GS reads them: its words, and its records unless it has no image. -/
def State.readGraph (s : State) (w asid : Nat) (desc : W64) : Option (List W64 × List (Nat × List W64)) :=
  match s.hwReads w asid desc 8 with
  | none => none
  | some ds =>
    if nth ds 1 0 = 0 || !addrOk (nth ds 1 0) then some (ds, [])
    else (s.readImage w asid true 1 (nth ds 1 0) imageFuel).map fun recs => (ds, recs)

/-- A bind would complete with done, but for slots and cells that others hold. -/
def bindOk (desc : W64) (ds : List W64) (recs : List (Nat × List W64)) : Bool :=
  bits desc 5 0 == 0 && (descOk false ds || descOk true ds) && graphOk recs

/-- Slots of a list name none twice. -/
def slotsOnce (l : List (Nat × Nat)) : Bool := noneTwice (l.map fun x => x.1 * 16 + x.2)

/-- Whether every slot that a node names is free and its own to take: unbound, held by none, and no earlier waiting node or CRED group
names it (R195; 20_ref_a_c.md R329). -/
def State.slotsFree (s : State) (r : NodeRef) : Bool :=
  let mine := s.edgeSlots r
  let seq := ((mfind s.sheaves r.sheaf).map (·.seq)).getD 0
  let before := fun (x : NodeRef) => match mfind s.sheaves x.sheaf, mfind s.sheaves r.sheaf with
    | some a, some b => a.seq < b.seq || (a.seq == b.seq && x.node < r.node)
    | _, _ => false
  let rivals := (s.sheaves.flatMap fun e => if shWafer e.1 = shWafer r.sheaf then e.2.refs e.1 else []).filter fun x =>
    x != r && before x && s.isEdge x && s.eligible x
  mine.all fun x =>
    let e := s.slot x.1 x.2
    !e.bound && !e.closing && e.held.isNone && e.cred.isNone
      && !s.creds.any (fun g => !g.2.bound && g.2.slot == some x && g.2.seq < seq)
      && !rivals.any fun y => (s.edgeSlots y).contains x

/-- The graphs of a node's slots: slot, descriptor address, words and records; none where one cannot be read. -/
def State.nodeGraphs (s : State) (r : NodeRef) : Option (List ((Nat × Nat) × W64 × List W64 × List (Nat × List W64))) :=
  let w := shWafer r.sheaf
  let ws := s.nodeWords r
  (nodeSlots ws).mapM fun x =>
    (s.readGraph w (s.refAsid r) (nth ws (1 + x.1) 0)).map fun g => ((w * 64 + x.2.1, x.2.2), nth ws (1 + x.1) 0, g.1, g.2)

/-- Whether two graphs of a list that lie in one edge fabric use a common site. -/
def graphsClash : List ((Nat × Nat) × W64 × List W64 × List (Nat × List W64)) → Bool
  | [] => false
  | g :: r => r.any (fun h => h.1.1 == g.1.1 && (graphSites g.2.2.2).any (graphSites h.2.2.2).contains) || graphsClash r

/-! ## Group bindings (R195, R282) -/

/-- A binding record has no fault (R282). -/
def recordFaultless (ws : List W64) : Bool :=
  bits (nth ws 0 0) 63 14 == 0 && nth ws 1 0 == 0 && bits (nth ws 0 0) 13 8 ≤ 47

/-- The binding records of a group-binding node: group words and images. -/
def State.bindRecords (s : State) (r : NodeRef) : Option (List (Nat × W64)) :=
  let ws := s.nodeWords r
  match s.readTable (shWafer r.sheaf) (s.refAsid r) (nth ws 1 0) 4 (bits (nth ws 2 0) 7 0) with
  | none => none
  | some rs => if rs.all recordFaultless then some (rs.map fun x => (bits (nth x 0 0) 13 0, nth x 2 0)) else none

/-- Whether a node is a group binding. -/
def State.isBinding (s : State) (r : NodeRef) : Bool := bits (nth (s.nodeWords r) 0 0) 63 60 == 3

/-- Whether an earlier group binding that waits names one of some groups (R195). -/
def State.groupsWanted (s : State) (r : NodeRef) (gs : List Nat) : Bool :=
  let seq := ((mfind s.sheaves r.sheaf).map (·.seq)).getD 0
  s.sheaves.any fun e => shWafer e.1 == shWafer r.sheaf && (e.2.refs e.1).any fun x =>
    x != r && s.isBinding x && s.eligible x && (e.2.seq < seq || (e.2.seq == seq && x.node < r.node))
      && match s.bindRecords x with
        | some rs => rs.any fun y => gs.contains y.1
        | none => false

/-- Whether a group binding's entries are free and its own to take (R195). -/
def State.groupsFree (s : State) (r : NodeRef) (rs : List (Nat × W64)) : Bool :=
  !(rs.any fun x => (s.gt (shWafer r.sheaf * 2 ^ 14 + x.1)).v) && !s.groupsWanted r (rs.map (·.1))

/-! ## The walk at work (R31, R191) -/

/-- Whether an edge-graph node's binds are refused, whatever others hold (R184). -/
def State.graphsBad (s : State) (r : NodeRef) (gs : List ((Nat × Nat) × W64 × List W64 × List (Nat × List W64))) : Bool :=
  !slotsOnce (s.edgeSlots r) || gs.any (fun g => !bindOk g.2.1 g.2.2.1 g.2.2.2) || graphsClash gs

/-- Whether the GS can place a node that may be placed, or refuse it, as things stand. -/
def State.placeable (s : State) (r : NodeRef) : Bool :=
  match s.node? r with
  | none => false
  | some n =>
    match n.kind with
    | 0 => (s.kernelFit r).isSome
    | 1 =>
      let g := bits (nth n.words 3 0) 15 0
      s.neverFits r || (!(g ≠ 0 && (s.graphOf (shPartKey r.sheaf) g).isSome)
        && (s.residPlace r n.words (if n.stamp = 0 then s.serial + 1 else n.stamp)).isSome)
    | 2 => s.slotsFree r && (match s.nodeGraphs r with
      | none => true
      | some gs => s.graphsBad r gs || !gs.any fun g => s.cellsBusy g.1.1 g.1.2 g.2.2.2)
    | _ =>
      match s.bindRecords r with
      | none => true
      | some rs => s.groupsFree r rs || !((mfind s.sheaves r.sheaf).map (·.host)).getD false

/-- Whether the walk of a partition comes to another node that can be placed before node `r` (R191). -/
def State.earlierFits (s : State) (r : NodeRef) : Bool :=
  (s.waiters (shPartKey r.sheaf)).any fun x => x != r && s.walksBefore x r && s.placeable x

/-- Whether nodes before a node in its sheaf have started: none is placed and not started, and none that can be placed waits (R305). -/
def State.mayBegin (s : State) (r : NodeRef) : Bool :=
  match mfind s.sheaves r.sheaf with
  | none => false
  | some sh => sh.nodes.all fun e =>
    e.1 ≥ r.node || (e.2.st != .placed && !(s.eligible ⟨r.sheaf, e.1⟩ && s.placeable ⟨r.sheaf, e.1⟩))

/-- Whether the walk comes to a node to place it: it waits, no round stops the GS, and no node before it can be placed. -/
def State.turnOf (s : State) (r : NodeRef) : Bool :=
  s.eligible r && (s.wafer (shWafer r.sheaf)).round.isNone && !s.earlierFits r

/-- Gives the cores of a rectangle to a team. -/
def State.setTeam (s : State) (w : Nat) (quads : List Nat) (t : Option Team) : State :=
  quads.foldl (fun s qn => (List.range 4).foldl (fun s c =>
    let n := mkName w qn c
    s.setCore n { s.core n with team := t }) s) s

/-- Every QSP tag of a team's quads becomes empty (04_memory.md R78). -/
def State.emptyTags (s : State) (w : Nat) (quads : List Nat) : State :=
  { s with qtags := s.qtags.filter fun a => match homeOf a with
      | .quad v qn _ => !(v == w && quads.contains qn)
      | _ => true }

/-- The age of a node. -/
def State.ageOf (s : State) (r : NodeRef) : Nat := ((s.node? r).map (·.age)).getD 0

/-- The rectangle that a core kernel would reserve: the first of quads of its partition, free or not (R193). -/
def State.reserveRect (s : State) (r : NodeRef) : Option (Nat × Nat) :=
  let ws := s.nodeWords r
  let d := teamDims ws
  firstFit (fieldOrder (s.fmapOf r) (hintOf ws)) d.1 d.2 (s.quadMine (shWafer r.sheaf) (s.fmapOf r))

/-- The core kernels of a partition of age 64 that have a rectangle to reserve. -/
def State.aged (s : State) (part : Nat) : List NodeRef :=
  (s.waiters part).filter fun x => s.isKernel x && s.ageOf x ≥ 64 && (s.reserveRect x).isSome

/-- NODE_PLACE: a core kernel's team and frame region are placed, if no node before it in the walk can be, and once an aged kernel has its
reservation. -/
def execNodePlace (sheaf node : Nat) (s : State) : Res :=
  .next <|
    let r : NodeRef := ⟨sheaf, node⟩
    let part := shPartKey sheaf
    let s := s.walk part
    if !s.isKernel r || !s.turnOf r || ((s.part part).reserved.isNone && !(s.aged part).isEmpty) then s
    else match s.kernelFit r with
      | none => s
      | some (o, a, s) =>
        let ws := s.nodeWords r
        let d := teamDims ws
        let quads := rectQuads o.1 o.2 d.1 d.2
        let s := s.placedOne r
        let s := s.modNode r fun n => { n with st := .placed, place := .team o.1 o.2 d.1 d.2, frame := (a, frameBytes ws) }
        let s := (s.setTeam (shWafer sheaf) quads (some ⟨r, o.1, o.2, d.1, d.2⟩)).emptyTags (shWafer sheaf) quads
        let p := s.part part
        if p.reserved.any (·.1 == r) then s.setPart part { p with reserved := none } else s

/-- NODE_RESERVE: a core kernel of age 64 reserves its rectangle, the oldest first (R193). -/
def execNodeReserve (sheaf node : Nat) (s : State) : Res :=
  .next <|
    let r : NodeRef := ⟨sheaf, node⟩
    let part := shPartKey sheaf
    let s := s.walk part
    if (s.part part).reserved.isSome || !(s.aged part).contains r || (s.aged part).any (fun x => s.ageOf x > s.ageOf r) then s
    else match s.reserveRect r with
      | none => s
      | some o => s.setPart part { s.part part with reserved := some (r, o.1, o.2) }

/-- RESIDENCY_PLACE: a residency node asks for a region, and is placed in its turn; a shape that never fits is refused, and a graph
bound to a live region of the partition is waited for (R194, R312). -/
def execResidencyPlace (sheaf node : Nat) (s : State) : Res :=
  .next <|
    let r : NodeRef := ⟨sheaf, node⟩
    let part := shPartKey sheaf
    let s := s.walk part
    match mfind s.sheaves sheaf, s.node? r with
    | some sh, some n =>
      let isRes := fun (x : NodeRef) => bits (nth (s.nodeWords x) 0 0) 63 60 == 1
      if !isRes r || !s.eligible r || (s.wafer (shWafer sheaf)).round.isSome then s
      else if s.neverFits r then s.refuseNode r 4
      else if n.stamp = 0 then
        if (s.waiters part).any fun x => isRes x && s.walksBefore x r && ((s.node? x).map (·.stamp)).getD 0 == 0 then s
        else { s with serial := s.serial + 1 }.modNode r fun n => { n with stamp := s.serial + 1 }
      else
        let g := bits (nth n.words 3 0) 15 0
        if s.earlierFits r || (g ≠ 0 && (s.graphOf part g).isSome) then s
        else match s.residPlace r n.words n.stamp with
          | none => s
          | some (id, s) =>
            let s := s.placedOne r
            (s.modResid id fun x => { x with binds := sh.windows node }).modNode r fun n =>
              { n with st := .placed, place := .region id, field := ((mfind s.resids id).map (·.field)).getD 0 }
    | _, _ => s

/-- CREQ_PLACE: the k-th request of a CREQ is placed in its turn, or is refused with cause 6 (08_fabric.md R173). -/
def execCreqPlace (k : Nat) (s : State) : Res :=
  .next <| match s.creqs[k]? with
    | none => s
    | some c =>
      match mfind s.resids c.res with
      | none => s
      | some r =>
        let ws := s.nodeWords ⟨r.ref.sheaf, c.node⟩
        if r.halt || !s.partRuns (shPartKey r.ref.sheaf) then s
        else if s.neverFits r.ref then { s with creqs := dropNth s.creqs k }.fabHalt (2 * c.res) c.site 6
        else match s.residPlace r.ref ws c.stamp with
          | none => s
          | some (id, s) =>
            { s with creqs := dropNth s.creqs k }.modResid id fun x =>
              { x with inst := some (c.res, c.site, c.plane), graph := 0 }.callIn c.toks

/-- EDGE_GRAPH_BIND: the GS binds an edge-graph node's slots, or refuses the node (R184, R195, R305). -/
def execEdgeGraphBind (sheaf node : Nat) (s : State) : Res :=
  .next <|
    let r : NodeRef := ⟨sheaf, node⟩
    let s := s.walk (shPartKey sheaf)
    if !s.isEdge r || !s.turnOf r || !s.mayBegin r then s
    else match s.nodeGraphs r with
      | none => if s.slotsFree r then s.refuseNode r 5 else s
      | some gs =>
        if s.graphsBad r gs then (if s.slotsFree r || !slotsOnce (s.edgeSlots r) then s.refuseNode r 5 else s)
        else if !s.slotsFree r || gs.any (fun g => s.cellsBusy g.1.1 g.1.2 g.2.2.2) then s
        else
          let asid := s.refAsid r
          let s := s.placedOne r
          let s := gs.foldl (fun s g =>
            let s := s.setSlot g.1.1 g.1.2 { s.slot g.1.1 g.1.2 with held := some r }
            s.bindSlot g.1.1 g.1.2 g.2.1 asid g.2.2.1 g.2.2.2) s
          s.modNode r fun n => { n with st := .running, place := .slots }

/-- VIEW_EOS_SEND: once every node of a sheaf that is no edge graph has completed, end-of-stream enters the access ports of its
running view nodes (R305). -/
def execViewEosSend (sheaf : Nat) (s : State) : Res :=
  .next <| match mfind s.sheaves sheaf with
    | none => s
    | some sh =>
      let ready := sh.nodes.all fun e => e.2.st == .done || bits (nth e.2.words 0 0) 63 60 == 2
      let todo := sh.nodes.filter fun e => e.2.st == .running && !e.2.eos && bits (nth e.2.words 0 0) 63 60 == 2
      if !ready then s
      else todo.foldl (fun s e =>
        let r : NodeRef := ⟨sheaf, e.1⟩
        let s := s.modNode r fun n => { n with eos := true }
        (s.edgeSlots r).foldl (fun s x =>
          let e := s.slot x.1 x.2
          if e.bound && e.held == some r && e.kind ≤ 1 then s.setSlot x.1 x.2 { e with port := e.port ++ [.eos] } else s) s) s

/-- The fault of a read of a group binding's member map, which holds the node (R282; 21_ref_d_l.md R354): it is named as that of the network
engine of core 0's quad on the node's wafer (log 99). -/
def gsFault (r : NodeRef) (va : W64) (ty : Nat) : GenFault :=
  { owner := .gs r.sheaf r.node, ref := some r, wafer := shWafer r.sheaf, cls := 2, agent := mkName (shWafer r.sheaf) 0 0, gen := 0,
    stream := 0, va := va, ty := ty, acc := 0, ctrs := [] }

/-- The group `name` of a binding record is enrolled, and `next` goes on; a failure ends the node with status 5. -/
def State.bindEnrol (s : State) (r : NodeRef) (name : Nat) (w0 : W64) (next : State → State) : State :=
  let a := s.lgrpWrite name w0 (shPartKey r.sheaf) (some r)
  if a.2 = 0 then next a.1 else a.1.refuseNode r 5

/-- A node is held at its binding records `l`, by a fault of type `ty` at the member map at `va`. -/
def State.bindHold (s : State) (r : NodeRef) (l : List (Nat × W64)) (va : W64) (ty : Nat) : State :=
  (s.modNode r fun n => { n with binds := l }).raiseGen (gsFault r va ty)

/-- A binding record whose entry is to be dissolved: as LGRP does it, its unsent blocks are discarded, and it waits for those sent
(21_ref_d_l.md R354; 07_networks.md R141). -/
def State.bindDissolve (s : State) (r : NodeRef) (name : Nat) (all : List (Nat × W64)) (next : State → State) : State :=
  let wait := fun (s : State) => s.modNode r fun n => { n with binds := all }
  if !(s.gt name).dissolve then wait (s.unbind name)
  else if (s.ctl (gKey name)).flights.any fun f => f.group == name then wait s
  else next (s.withdrawGroup name)

/-- The binding record `x` is written as LGRP writes it; `rs` are those after it, which `next` writes. A member map that cannot be read
holds the node; any other failure ends it with status 5. -/
def State.bindGroup (s : State) (r : NodeRef) (x : Nat × W64) (rs : List (Nat × W64)) (next : State → State) : State :=
  let w := shWafer r.sheaf
  let name := w * 2 ^ 14 + x.1
  if !bitAt x.2 63 then (if (s.gt name).v then s.bindDissolve r name (x :: rs) next else next s)
  else if (s.gt name).v || memBad (bits x.2 50 42) || ((s.node? r).map (·.skip)).getD false then s.refuseNode r 5
  else match s.mapFault w x.2 with
    | some t => s.bindHold r (x :: rs) (w64 (bits x.2 41 0 * 64)) t
    | none => s.bindEnrol r name x.2 next

/-- Writes the entries of a node's binding records, in order; then the node runs. -/
def State.bindGroups (s : State) (r : NodeRef) : List (Nat × W64) → State
  | [] => s.modNode r fun n => { n with st := .running, binds := [] }
  | x :: rs => s.bindGroup r x rs fun s => s.bindGroups r rs

/-- GROUP_BINDING_PLACE: the GS writes a node's group-table entries by LGRP once they are free, or goes on after a held fault; a node from
LAUNCH, a faulty record or an LGRP that is not done completes it with status 5. -/
def execGroupBindingPlace (sheaf node : Nat) (s : State) : Res :=
  .next <|
    let r : NodeRef := ⟨sheaf, node⟩
    let s := s.walk (shPartKey sheaf)
    match s.node? r with
    | none => s
    | some n =>
      if n.kind ≠ 3 then s
      else if n.st == .placed then (if n.fault.isSome || n.status != 0 then s else s.bindGroups r n.binds)
      else if !s.turnOf r || !s.mayBegin r then s
      else if !((mfind s.sheaves sheaf).map (·.host)).getD false then s.refuseNode r 5
      else match s.bindRecords r with
        | none => s.refuseNode r 5
        | some rs =>
          if !s.groupsFree r rs then s
          else ((s.placedOne r).modNode r fun n => { n with st := .placed, place := .groups }).bindGroups r rs

end Sys2Proof.Machine
end

