-- ==== Sys2Proof/Machine/Nodes.lean ====
section
/-! DEFINITION. The start, the completion and the kill of nodes, and the completion of sheaves (02_execution.md R31 to R33, R37;
14_assembly.md R280 to R285; 11_faults.md R209; 09_edge.md R186). -/

namespace Sys2Proof.Machine

/-! ## Starting a core kernel (R37, R280, R281) -/

/-- KGGEO of a rank: ci and cj replaced (R280). -/
def rankGeo (g : W64) (rank : Nat) : W64 :=
  let gw := bits g 20 16
  let ci := min (rank / (gw + 1)) 31
  let cj := rank % (gw + 1)
  w64 (g.toNat - bits g 15 6 * 64 + place ci 11 + place cj 6)

/-- A command of a queue table. -/
def State.tableCmd (s : State) (w asid : Nat) (va : W64) : Cmd :=
  match s.hwReads w asid va 4 with
  | some [a, b, c, d] => ⟨a, b, c, d⟩
  | _ => ⟨0, 0, 0, 0⟩

/-- The commands of a section of `n` commands, the first numbered `i`, armed with `t` tiles, for their first pass (R33). -/
def sectFeed (mk : Nat → QCmd) (t i n : Nat) : List QCmd :=
  if t = 0 then [] else (List.range n).map fun j => { mk (i + j) with sect := true, pass := 0, last := t == 1, idx := j, tiles := t, slen := n }

/-- The commands from number `i` on, in order, those of sections armed (R281, R33). -/
def feedOf (mk : Nat → QCmd) (sects : List (Nat × Nat × Nat)) (ncmd : Nat) : Nat → Nat → List QCmd
  | 0, _ => []
  | k + 1, i =>
    if i ≥ ncmd then []
    else match sects.find? fun x => x.2.1 == i && x.2.2 != 0 with
      | some (t, f, n) => sectFeed mk t f n ++ feedOf mk sects ncmd k (i + n)
      | none => mk i :: feedOf mk sects ncmd k (i + 1)

/-- The GS feeds a queue entry to a queue of core `n` (R281). -/
def State.feedQueue (s : State) (r : NodeRef) (n : Nat) (e : List W64) : State :=
  let w := shWafer r.sheaf
  let asid := s.refAsid r
  let k := queueKey n (bits (nth e 2 0) 3 0) (bits (nth e 2 0) 5 4)
  let ncmd := bits (nth e 2 0) 63 48
  let sects := ((s.hwReads w asid (nth e 1 0) (bits (nth e 2 0) 47 40)).getD []).map sectOf
  let priv := s.nodePriv r
  let mk := fun (i : Nat) =>
    let c := s.tableCmd w asid (nth e 0 0 + w64 (32 * i))
    QCmd.mk c n priv asid (some r) (Cmd.msc c) false 0 true 0 0 0 1 1
  let q := s.queue k
  s.setQueue k { q with feed := q.feed ++ feedOf mk sects ncmd (ncmd + 1) 0 }.fed

/-- The queue entries of a core kernel. -/
def State.queueTable (s : State) (r : NodeRef) : List (List W64) :=
  let ws := s.nodeWords r
  (s.readTable (shWafer r.sheaf) (s.refAsid r) (w64 (bits (nth ws 6 0) 55 0)) 4 (bits (nth ws 6 0) 63 60)).getD []

/-- A reduction group from its entry (R284). -/
def redOf (ws : List W64) : RedGroup where
  dst := nth ws 0 0
  done := nth ws 1 0
  sc := bits (nth ws 2 0) 62 60
  count := bits (nth ws 2 0) 59 48 + 1
  root := bits (nth ws 2 0) 46 32
  first := bits (nth ws 3 0) 30 16
  last := bits (nth ws 3 0) 14 0
  round := 1
  vecs := []
  locs := []
  outs := []
  pend := []
  drain := resetDrain

/-- Forms the reduction groups of a node (07_networks.md R152). -/
def State.formReds (s : State) (r : NodeRef) : State :=
  let ws := s.nodeWords r
  let es := (s.readTable (shWafer r.sheaf) (s.refAsid r) (w64 (bits (nth ws 7 0) 55 0)) 4 (bits (nth ws 7 0) 63 59)).getD []
  (List.range es.length).foldl (fun s g => s.setRed (redKey r g) (redOf (nth es g []))) s

/-- The start record of a rank (R37). -/
def startRec (r : NodeRef) (ws : List W64) (region : Nat) (prio n rank : Nat) : Rec where
  cp := w64 (bits (nth ws 1 0) 55 0)
  fp := w64 (region + 64 + rank * bits (nth ws 2 0) 63 32)
  jc := w64 region
  node := r.node
  rsm := false
  core := n
  pin := true
  prio := prio
  pops := 0
  ref := r
  out := false

/-- Starts one core of a team: its registers from the launch record, and its pinned record (R37, R280, 04_memory.md R87). -/
def State.startCoreOf (s : State) (r : NodeRef) (t : Team) (region prio rank : Nat) : State :=
  let n := t.coreOf (shWafer r.sheaf) rank
  let ws := s.nodeWords r
  let c := s.core n
  let c := { c with
    kasid := BitVec.ofNat 10 (s.refAsid r), kwlim := BitVec.ofNat 32 (bits (nth ws 2 0) 31 0), kggeo := rankGeo (nth ws 5 0) rank }
  (s.setCore n c).pushHard (nQuad n) (startRec r ws region prio n rank)

/-- Starts a core kernel. -/
def State.startKernel (s : State) (r : NodeRef) (t : Team) (region prio : Nat) : State :=
  let w := shWafer r.sheaf
  let asid := s.refAsid r
  let ranks := List.range (4 * t.tw * t.th)
  let s := s.hwWrite w asid (w64 region) (w64 ranks.length)
  let s := (List.range 7).foldl (fun s i => s.hwWrite w asid (w64 (region + 8 + 8 * i)) 0) s
  let s := s.formReds r
  let s := (s.queueTable r).foldl (fun s e =>
    let each := if bits (nth e 2 0) 3 0 = 0 then ranks else ranks.filter (· % 4 == 0)
    each.foldl (fun s k => s.feedQueue r (t.coreOf w k) e) s) s
  ranks.foldl (fun s k => s.startCoreOf r t region prio k) s

/-- NODE_START: a placed core kernel or residency starts, in ascending node order (R31, R37, R305). -/
def execNodeStart (sheaf node : Nat) (s : State) : Res :=
  .next <|
    let r : NodeRef := ⟨sheaf, node⟩
    match mfind s.sheaves sheaf, s.node? r with
    | some sh, some n =>
      if n.st != .placed || n.place == .groups || !s.mayBegin r || !s.partRuns (shPartKey sheaf) || (s.wafer (shWafer sheaf)).round.isSome then s
      else
        let s := s.modNode r fun n => { n with st := .running }
        match n.place with
        | .team tq0 ty0 tw th => s.startKernel r ⟨r, tq0, ty0, tw, th⟩ n.frame.1 sh.prio
        | .region id => s.putStatus id
        | _ => s
    | _, _ => s

/-! ## Taking a node's work away -/

/-- An engine queue without a node's commands. A step of an MMA that waits for its successor's latch leaves its tile in the core's buffer,
where it goes on waiting to be sent: R209 empties the queue alone (DESIGN CHOICE, log 116). -/
def EngQ.without (e : EngQ) (r : NodeRef) : EngQ :=
  let mine := fun (c : QCmd) => c.ref == some r
  let headGone := e.cmds.head?.any mine
  { e with
    cmds := e.cmds.filter fun c => !mine c
    feed := e.feed.filter fun c => !mine c
    prog := if headGone then resetProg else e.prog
    halt := e.halt && !headGone, stopped := e.stopped && !headGone, fault := if headGone then none else e.fault }.fed

/-- Removes the reduction groups of a node. -/
def State.dropReds (s : State) (r : NodeRef) : State := { s with reds := s.reds.filter fun e => e.1 / 16 != r.key }

/-- Empties the engine queues of a node, and its transmitters' jobs (11_faults.md R209). -/
def State.dropCommands (s : State) (r : NodeRef) : State :=
  let gone := fun (q : Nat) => (s.queue q).cmds.head?.any fun c => c.ref == some r
  { s with
    queues := s.queues.map fun e => (e.1, e.2.without r)
    walks := s.walks.filter fun k => match k.fault.owner with
      | .queue q => !gone q
      | _ => true
    faults := s.faults.filter fun f => match f.2.owner with
      | .queue q => !gone q
      | .red g => g / 16 != r.key
      | .ltx _ _ => f.2.ref != some r
      | .gs _ _ => f.2.ref != some r
      | _ => true
    ctls := s.ctls.map fun e => (e.1, { e.2 with jobs := e.2.jobs.filter fun j => j.q.ref != some r }) }

/-- The residencies of a node, the instances placed for it among them. -/
def State.nodeResids (s : State) (r : NodeRef) : List Nat := (s.resids.filter fun e => e.2.ref == r).map (·.1)

/-- Whether a residency or edge slot of a node stands halted. -/
def State.anyHalted (s : State) (r : NodeRef) : Bool :=
  (s.nodeResids r).any (fun i => ((mfind s.resids i).map (·.halt)).getD false)
    || s.ctls.any fun e => e.2.slots.any fun x => x.2.held == some r && x.2.halt

/-- Kills a node (R209): its strands end, its queues empty, its residencies end, and its edge slots are unbound as R186 says. -/
def State.killNode (s : State) (r : NodeRef) (reason : Nat) : State :=
  match s.node? r with
  | none => s
  | some n =>
    if n.st == .done then s
    else
      let st := if s.anyHalted r && reason = 2 then 6 else reason
      let s := s.modNode r fun n => { n with abn := true, status := st }
      let s := s.endStrands r reason none
      let s := (s.dropCommands r).dropReds r
      let s := (s.nodeResids r).foldl (fun s i => s.dropResid i) s
      (s.edgeSlots r).foldl (fun s x =>
        if (s.slot x.1 x.2).held == some r && (s.slot x.1 x.2).bound then (s.closeSlot x.1 x.2).slotKill x.1 x.2 else s) s

/-! ## Completion of nodes (R32) -/

/-- Whether an engine command of a node has its mailbox still to write. -/
def State.anyCommand (s : State) (r : NodeRef) : Bool :=
  s.queues.any (fun e =>
      e.2.cmds.any (·.ref == some r) || e.2.feed.any (·.ref == some r))
    || s.ctls.any (fun e => e.2.jobs.any fun j => j.q.ref == some r)
    || s.reds.any fun e => e.1 / 16 == r.key && (!e.2.pend.isEmpty || e.2.ranks.all (mhas e.2.vecs))

/-- Whether an access that a strand of a node issued has still to perform, wherever its home: an STA, or a write to a host window (R32;
05_ordering.md R107, R118). -/
def State.anyAccess (s : State) (r : NodeRef) : Bool :=
  s.cores.any fun e => e.2.port.any fun a => a.ref == some r && !a.performed

/-- Whether a residency of a node has still to end, or a request of it is held. -/
def State.anyResid (s : State) (r : NodeRef) : Bool :=
  (s.nodeResids r).any fun i => match mfind s.resids i with
    | some x => x.inst.isSome || x.st != .over
    | none => false

/-- Whether the streams of an edge-graph node have drained: end-of-stream sent, its graphs at rest and no access outstanding; or it
has been killed. -/
def State.edgeDrained (s : State) (r : NodeRef) (n : Node) : Bool :=
  n.status != 0 || (n.eos && (s.edgeSlots r).all fun x =>
    let e := s.slot x.1 x.2
    e.held != some r || !e.bound || e.closing || (e.accs.isEmpty && s.slotRest x.1 x.2))

/-- The edge slots of a node begin to unbind, and those with no access left are free; slots that are free are held no longer. -/
def State.releaseSlots (s : State) (r : NodeRef) : State :=
  (s.edgeSlots r).foldl (fun s x =>
    let e := s.slot x.1 x.2
    if e.held != some r then s
    else
      let s := if e.bound && !e.closing then s.closeSlot x.1 x.2 else s
      let s := s.freeSlot x.1 x.2
      let e := s.slot x.1 x.2
      if e.bound then s else s.setSlot x.1 x.2 { e with held := none }) s

/-- Whether a node holds no edge slot. -/
def State.slotsGone (s : State) (r : NodeRef) : Bool := (s.edgeSlots r).all fun x => (s.slot x.1 x.2).held != some r

/-- Frees what a node holds: its team, its frame region, its residencies, its reduction groups and its points. -/
def State.releaseNode (s : State) (r : NodeRef) (n : Node) : State :=
  let w := shWafer r.sheaf
  let s := match n.place with
    | .team tq0 ty0 tw th => s.setTeam w (rectQuads tq0 ty0 tw th) none
    | _ => s
  let s := if n.frame.2 = 0 then s else s.poolGive (shPartKey r.sheaf) n.frame.1
  let s := (s.nodeResids r).foldl (fun s i => s.dropResid i) s
  let p := s.part (shPartKey r.sheaf)
  let s := if p.reserved.any (·.1 == r) then s.setPart (shPartKey r.sheaf) { p with reserved := none } else s
  { s.dropReds r with points := s.points.filter fun e => e.1 / 2 ^ 28 != 2 * r.sheaf * 4096 + r.node }

/-! ## Energy (12_power.md R222) -/

/-- The nodes that hold a quad or an island of a field. -/
def State.fieldNodes (s : State) (k : Nat) : List NodeRef :=
  let quads := (s.cores.filter fun e => nField e.1 == k && e.1 % 4 == 0).filterMap fun e => e.2.team.map (·.ref)
  let isles := (s.resids.filter fun e => e.2.field == k).map (·.2.ref)
  (quads ++ isles).eraseDups

/-- A fraction and n/d more: the whole part, and the fraction that is left in lowest terms. -/
def addPart (p : Nat × Nat) (n d : Nat) : Nat × (Nat × Nat) :=
  let num := p.1 * d + n * p.2
  let den := p.2 * d
  let g := Nat.gcd (num % den) den
  (num / den, (num % den / g, den / g))

/-- Charges num/den picojoules to a node that has not completed; what is no whole picojoule carries over. -/
def State.charge (s : State) (r : NodeRef) (num den : Nat) : State :=
  s.modNode r fun n =>
    if n.st == .done || den = 0 then n
    else
      let a := addPart n.part num den
      { n with energy := n.energy + a.1, part := a.2 }

/-- What a field has spent on a node since the interval began is charged to the node, which then takes no part in the interval's charge:
the active energy so far by its grains, and its share of the idle energy so far where it holds part of the field. -/
def State.chargeNow (s : State) (r : NodeRef) (k : Nat) : State :=
  let f := s.field k
  let total := (f.spent.map (·.2)).sum
  let holders := s.fieldNodes k
  let t := if mhas f.spent r.key then
      (s.charge r (Config.energy (2 * k) s.tick * mget f.spent r.key 0) total).setField k { f with spent := mdel f.spent r.key }
    else s
  if holders.contains r then t.charge r (Config.energy (2 * k + 1) s.tick) holders.length else t

/-- A node that completes is charged in every field for the interval under way, so that its record holds its whole energy. -/
def State.chargeLast (s : State) (r : NodeRef) : State := (s.fields.map (·.1)).foldl (fun s k => s.chargeNow r k) s

/-- NODE_COMPLETE: a node whose four conditions hold completes (R32), its energy charged; a killed node that was not placed completes at once. -/
def execNodeComplete (sheaf node : Nat) (s : State) : Res :=
  .next <|
    let r : NodeRef := ⟨sheaf, node⟩
    match s.node? r with
    | none => s
    | some n =>
      let started := n.st == .running || n.status != 0
      if n.st == .done || !started || (s.part (shPartKey sheaf)).st == .swapped then s
      else if s.hasStrand r || s.anyCommand r || s.anyAccess r || s.anyResid r then s
      else if s.isEdge r then
        if !s.edgeDrained r n then s
        else
          let s := s.releaseSlots r
          if s.slotsGone r then ((s.chargeLast r).releaseNode r n).finishNode r else s
      else ((s.chargeLast r).releaseNode r n).finishNode r

/-! ## Completion of sheaves (R285, R300) -/

/-- Whether the other wafers have written word 0 of their records of a pod-wide launch. -/
def State.podOver (s : State) (key : Nat) (sh : Sheaf) : Bool :=
  match sh.pod with
  | none => true
  | some p =>
    sh.master ≠ shWafer key || ((s.podSheaves p).length = 1 && !(s.wafers.any fun e => e.2.podIn.any (·.pod == p)))

/-- A sheaf leaves its place: its waiting messages are discarded, and with the last wafer of a pod-wide launch its CRED groups and pod
points. -/
def State.dropSheaf (s : State) (key : Nat) (sh : Sheaf) : State :=
  let s := { s with
    sheaves := mdel s.sheaves key
    fields := s.fields.map fun e => (e.1, { e.2 with msgq := e.2.msgq.filter fun m => m.sheaf != key }) }
  match sh.pod with
  | none => s
  | some p =>
    if !(s.podSheaves p).isEmpty then s
    else
      let mine := s.creds.filter fun e => e.2.pod == p
      let s := mine.foldl (fun s e => match e.2.slot with
        | some x => if (s.slot x.1 x.2).cred == some e.1 then s.setSlot x.1 x.2 resetSlot else s
        | none => s) s
      { s with
        creds := s.creds.filter fun e => e.2.pod != p
        points := s.points.filter fun e => e.1 / 2 ^ 28 / 4096 != 2 * p + 1 }

/-- Abnormal nodes of a sheaf. -/
def Sheaf.abnormal (sh : Sheaf) : Nat := (sh.nodes.filter fun e => e.2.abn).length

/-- Word 0 of a completed sheaf's record (R285; log 10); of a refused one, done, bad and its place. -/
def Sheaf.word0 (sh : Sheaf) (slot : Nat) : W64 :=
  if sh.bad ≠ 0 then w64 (place 1 63 + place 1 61 + place slot 32)
  else w64 (place 1 63 + place (b2n (sh.abnormal ≠ 0)) 62 + (place (sh.abnormal % 4096) 32 ||| place slot 32))

/-- The write of word 0 is a release at system scope by the GS that coordinates the wafer's (R285; 02_execution.md R31; 05_ordering.md R118). -/
def recordRelease (key : Nat) : Option Rel := some ⟨.outside (shWafer key), 5⟩

/-- Writes the record of a sheaf whose nodes have completed. -/
def State.writeSheaf (s : State) (key : Nat) (sh : Sheaf) : State :=
  let s := s.putRecord key sh 8 sh.tag none
  let s := s.putRecord key sh 16 (w64 ((sh.nodes.map fun e => e.2.uj).sum)) none
  let s := s.putRecord key sh 24 (w64 (s.devTime (shWafer key))) none
  s.putRecord key sh 0 (sh.word0 (shSlot key)) (recordRelease key)

/-- SHEAF_COMPLETE: the record of a sheaf whose nodes have all completed is written, word 0 last, with a release at system scope; a
malformed sheaf is written done and bad; one from LAUNCH that cannot be reached frees its place with an event (R190, R278). -/
def execSheafComplete (sheaf : Nat) (s : State) : Res :=
  .next <|
    let s := s.walk (shPartKey sheaf)
    match mfind s.sheaves sheaf with
    | none => s
    | some sh =>
      if (s.part (shPartKey sheaf)).st == .swapped || !s.podOver sheaf sh then s
      else if sh.bad = 2 then
        if s.refusalHeld (shWafer sheaf) then s
        else (s.dropSheaf sheaf sh).raiseEv (shWafer sheaf) (refusedEv (2 ^ 64 - 1) 3 sh.va)
      else if sh.bad ≠ 0 then (s.putRecord sheaf sh 0 (sh.word0 (shSlot sheaf)) (recordRelease sheaf)).dropSheaf sheaf sh
      else if sh.read && sh.nodes.all fun e => e.2.st == .done then (s.writeSheaf sheaf sh).dropSheaf sheaf sh
      else s

end Sys2Proof.Machine
end

