-- ==== Sys2Proof/Machine/Supervisor.lean ====
section
/-! DEFINITION. The supervisor's queue and its control register (11_faults.md R207 to R210), pre-emption, restore and HALT (R214
to R216; 21_ref_d_l.md R342), the watchdog (R217), awn rounds and the checkpoint (R218), and KWR (R252, R349). -/

namespace Sys2Proof.Machine

/-! ## Events (R207, R208) -/

/-- Word 0 of an event. -/
def Ev.word0 (e : Ev) : W64 :=
  match e.ref with
  | some r => w64 (place e.kind 56 + place (shPart r.sheaf) 50 + place r.node 38 + place (shSlot r.sheaf) 32)
  | none => w64 (place e.kind 56)

/-- The partition of an event. -/
def Ev.part (e : Ev) : Nat := (e.ref.map fun r => shPart r.sheaf).getD 0

/-- Whether the supervisor ring of a wafer is full: not set, or tail − head equals its size. -/
def Wafer.ringFull (x : Wafer) : Bool :=
  bits x.ksvqb 47 12 == 0 || (x.svqTail - x.svqHead).toNat ≥ ringSize x.ksvqb

/-- The unit that raised an event (log 41): a group's controller, the GS, the watchdog, the agent of a generator or engine by its class and
name, an island or controller, a core, the swap. -/
def Ev.unit (e : Ev) : Nat × Nat × Nat :=
  let w := fun (i : Nat) => nth e.words i 0
  match e.kind with
  | 1 => (1, (w 0).toNat, 0)
  | 4 => (4, bits (w 1) 63 60, bits (w 1) 19 0)
  | 5 => match (w 1).toNat with
    | 0 => (4, 3, (w 0).toNat)
    | 1 => (4, 1, 4 * nQuad (w 0).toNat)
    | _ => (4, 2, 4 * nQuad (w 0).toNat)
  | 6 => (6, (w 1).toNat, 0)
  | 7 => (7, (w 0).toNat, 0)
  | k => (k, 0, 0)

/-- Whether an event may be written before those raised earlier: none of them comes from its unit (R207). -/
def evFirst (es : List Ev) (k : Nat) (e : Ev) : Bool := (es.take k).all fun x => x.unit != e.unit

/-- Writes an event into the ring, as a release at system scope (R207), and advances tail. -/
def State.writeEv (s : State) (w : Nat) (e : Ev) : State :=
  let x := s.wafer w
  let at_ := waferPa w (bits x.ksvqb 47 12 * 4096 + x.svqTail.toNat % ringSize x.ksvqb * 64)
  let ws := e.word0 :: e.words.take 6 ++ [w64 x.svqTail.toNat]
  let s := s.writeAs at_ (ws.flatMap fun v => natRun 8 v.toNat false) ⟨3, 0, w * 2 ^ 15, false, 0⟩ (some ⟨.outside w, 5⟩)
  s.setWafer w { s.wafer w with
    svqTail := x.svqTail + 1, posted := mput x.posted x.svqTail.toNat (e.what, e.part) }

/-! ## Pre-emption (R214, R215, R178) -/

/-- The watchdog's interval of a partition pauses (R217). -/
def Part.pause (p : Part) (now : Nat) : Part := if p.paused.isSome then p else { p with paused := some now }

/-- The watchdog's interval of a partition goes on. -/
def Part.resume (p : Part) (now : Nat) : Part :=
  match p.paused with
  | some t => { p with wdogAt := p.wdogAt + (now - t), paused := none }
  | none => p

/-- A queue's on-chip records of a partition go to its ring, in queue order, as far as it has room (R214 step 1): the queue is put back by
`put`, `len` and `base` are the ring of a node's partition. -/
def State.spillQueue (s : State) (q : ContQ) (part : Nat) (put : State → ContQ → State) (len : NodeRef → Nat) (base : NodeRef → W64) :
    State :=
  match q.chip.find? fun r => shPartKey r.ref.sheaf == part with
  | none => s
  | some r =>
    let q := q.spilt part (len r.ref)
    (put s q).spillOut q base

/-- The on-chip parts of a partition's continuation queues go to their spill rings (R214 step 1). -/
def State.spillPart (s : State) (part : Nat) : State :=
  let s := s.quads.foldl (fun s e => s.spillQueue (s.quad e.1).contq part
    (fun s q => s.setQuad e.1 { s.quad e.1 with contq := q }) s.qlen (s.quadRing e.1)) s
  s.fields.foldl (fun s e => s.spillQueue (s.field e.1).contq part
    (fun s q => s.setField e.1 { s.field e.1 with contq := q }) s.flen (s.fieldRing e.1)) s

/-- They come back, each level in its order. -/
def State.refillPart (s : State) (part : Nat) : State :=
  { s with
    quads := s.quads.map fun e => (e.1, { e.2 with contq := e.2.contq.returned part })
    fields := s.fields.map fun e => (e.1, { e.2 with contq := e.2.contq.returned part }) }

/-- Source gating begins in a partition that runs. -/
def State.gate (s : State) (part : Nat) : State :=
  let p := s.part part
  if p.st == .run then (s.setPart part { p.pause s.time with st := .gating }).spillPart part else s

/-- The cores that run or hold a strand of a partition, or belong to a team of it. -/
def State.partCores (s : State) (part : Nat) : List Nat := (s.cores.filter fun e => e.2.partKey == some part).map (·.1)

/-- A blocking wait is abandoned: its instruction is executed again on restore. -/
def Core.unwait (c : Core) : Core :=
  match c.hold with
  | .svc => c
  | .kill _ => c
  | .none => { c with wait := none }
  | _ => c.unhold

/-- Whether an access cannot land before the supervisor has answered its core's fault: it is the access held, or is itself to fault once
the core is released (R210). -/
def State.stuck (s : State) (n : Nat) (a : Access) : Bool :=
  some a.id == s.lateId n || ((s.core n).fault.isSome && a.isRead
    && (a.phase == .tainted || (a.phase == .issued && (s.poisonRun a.pa a.size || s.remoteUnbacked (nWafer n) a.pa))))

/-- Whether the producers and stores of a core's port have landed, but for those that wait for the supervisor. -/
def State.portStill (s : State) (n : Nat) : Bool :=
  (s.core n).port.all (fun a => s.stuck n a || (a.performed && !a.isRead)) && !(s.sends.any fun m => m.src == n || m.dst == n)

/-- Whether a core has halted at an instruction boundary, its producers landed. -/
def State.coreStill (s : State) (n : Nat) : Bool := (s.core n).ending.all (·.reason == 0) && s.portStill n

/-- Whether no token moves at the copy at a site: it is between firings, a fault holds it, or it waits for a call's arbitration. -/
def Plane.siteStill (p : Plane) (e : Nat × Lane) : Bool :=
  !e.2.busy && (!e.2.on || e.2.fault.isSome || (siteKind e.1 == 0 && isCall (wOp (p.word e.1))))

/-- Whether a residency is between firings and not loading, freezing or returning, or is halted. -/
def Resid.still (r : Resid) : Bool :=
  r.halt || ((match r.st with
    | .loading => false
    | .freezing _ => false
    | .returning _ => false
    | _ => true)
  && r.live.lanes.all r.live.siteStill)

/-- Whether the copies at work in an edge slot's graph stand still. -/
def Ctl.slotStill (c : Ctl) (e : EdgeSlot) : Bool := e.halt || c.fab.lanes.all fun l => !e.sites.contains l.1 || c.fab.siteStill l

/-- Whether some copy of a plane's operators or routers can begin an act. -/
def State.planeStirs (s : State) (k : Nat) : Bool :=
  let ef := (s.fabShape k).1
  (s.plane k).cells.any fun e => (List.range ((s.plane k).copies ef e.1)).any fun i => s.stirs k (copySite ef e.1 i)

/-- Whether nothing of a partition is moving (R214 step 4; log 42): every core and engine has stopped, and no cell or router can begin an
act. -/
def State.quiescent (s : State) (part : Nat) : Bool :=
  (s.partCores part).all s.coreStill
    && s.resids.all (fun e => shPartKey e.2.ref.sheaf != part || (e.2.still && !s.planeStirs (2 * e.1)))
    && s.queues.all (fun e => (e.2.cmds.head?.map (QCmd.part e.1)) != some part || e.2.prog.atStep || e.2.halt || e.2.fault.isSome)
    && s.ctls.all fun e =>
      e.2.flights.all (fun f => (s.gt f.group).part != part) && e.2.jobs.all (fun j => QCmd.part j.queue j.q != part || !j.view)
        && e.2.slots.all fun x => !x.2.heldBy part || (e.2.slotStill x.2 && !x.2.sites.any (s.stirs (2 * e.1 + 1)))

/-- The fields of a partition: those that its live sheaves took at their acceptance, else those that its entry names (R215, R216). -/
def State.partMask (s : State) (part : Nat) : BitVec 72 :=
  match s.sheaves.filter fun e => shPartKey e.1 == part with
  | [] => s.partFields (part / 64) (part % 64)
  | l => l.foldl (fun m e => m ||| e.2.fmap) 0

/-- The quads of a partition's fields, whether or not a team holds them (R215). -/
def State.partQuads (s : State) (part : Nat) : List Nat :=
  let w := part / 64
  let m := s.partMask part
  ((List.range (72 * 88)).filter (s.quadMine w m)).map (quadKey w)

/-- Where a quad's local store is evicted to. -/
def Wafer.evictAt (x : Wafer) (w quad : Nat) : Nat := waferPa w (x.ksva.toNat + quad % 2 ^ 13 * 0x41000)

/-- The tags of a quad's local store as bytes, one bit a word (log 43). -/
def State.tagBytes (s : State) (base : Nat) : List (Byte × Bool) :=
  (List.range 4096).map fun i =>
    (BitVec.ofNat 8 ((List.range 8).foldl (fun v b => v + (if shas s.qtags (canon (base + 64 * i + 8 * b)) then 2 ^ b else 0)) 0), false)

/-- Evicts a quad's local store with its tags. -/
def State.evictQuad (s : State) (w quad : Nat) : State :=
  let base := quadPa w (quad % 2 ^ 13) 0
  let bs := s.readRun base 0x40000 ++ s.tagBytes base
  s.write ((s.wafer w).evictAt w quad) bs ⟨3, 7, w * 2 ^ 15, false, 0⟩

/-- Brings a quad's local store back. -/
def State.reloadQuad (s : State) (w quad : Nat) : State :=
  let at_ := (s.wafer w).evictAt w quad
  let base := quadPa w (quad % 2 ^ 13) 0
  let keep := s.swz
  let tags := s.readRun (at_ + 0x40000) 4096
  let s := { s.write base (s.readRun at_ 0x40000) ⟨3, 7, w * 2 ^ 15, false, 0⟩ with swz := keep }
  { s with qtags := (List.range 4096).foldl (fun t i => (List.range 8).foldl (fun t b =>
      let a := canon (base + 64 * i + 8 * b)
      if (nth tags i (0, false)).1.getLsbD b then sput t a else sdel t a) t) s.qtags }

/-- Whether the eviction area is set (12_power.md R232). -/
def Wafer.areaSet (x : Wafer) : Bool := x.ksva != 0

/-- A swap-done or checkpoint-done event (R208). -/
def doneEv (op t : Nat) : Ev :=
  { kind := 8, ref := none, words := [w64 op, w64 t, 0, 0, 0, 0], what := .other, core := none }

/-- The partition is saved: the local stores of all its fields' quads are evicted, its waits abandoned, and the swap-done event raised; nodes that the watchdog
took are killed in the saved state (R214 step 5, R217). -/
def State.swapOut (s : State) (w part : Nat) : State :=
  let quads := if (s.wafer w).areaSet then s.partQuads part else []
  let s := (quads.foldl (fun s q => s.evictQuad w q) s).spillPart part
  let p := s.part part
  let s := s.setPart part { p with st := .swapped, killAfter := [], saved := quads }
  let s := s.raiseEv w (doneEv 4 (s.devTime w))
  p.killAfter.foldl (fun s r => s.killNode r 3) s

/-- The core issues a refused or held access again, and waits until it performs (22_ref_m_s.md R388). -/
def Core.reissue (c : Core) (id now : Nat) : Core :=
  { c with
    again := some id
    port := c.port.map fun a => if a.id == id then { a with
      born := some now, phase := match a.phase with
        | .refused => .issued
        | p => p } else a }

/-- A core of a restored partition: a wait counts from zero, an instruction that its port stopped is executed again, and an access
refused or poisoned at its home is made again (R210, R214). -/
def State.restoreCore (s : State) (n : Nat) : State :=
  let c := { s.core n with fetch := [], wait := none, early := [], tried := none }
  match c.fault with
  | none => s.setCore n c
  | some f =>
    let c' := { c with fault := none }
    { s with faults := mdel s.faults f }.setCore n (match s.lateId n with
      | some id => c'.reissue id s.time
      | none => c')

/-- The partition runs again on its fields (R215). -/
def State.swapIn (s : State) (w part : Nat) : State :=
  let s := (s.part part).saved.foldl (fun s q => s.reloadQuad w q) s
  let s := ((s.partCores part).foldl (fun s n => s.restoreCore n) s).refillPart part
  (s.setPart part { (s.part part).resume s.time with st := .run, saved := [] }).raiseEv w (doneEv 5 (s.devTime w))

/-! ## KSVC (R209) -/

/-- op of a KSVC value. -/
def svcOp (v : W64) : Nat := bits v 63 60
/-- part of a KSVC value. -/
def svcPart (v : W64) : Nat := bits v 59 54
/-- node of a KSVC value. -/
def svcNode (v : W64) : Nat := bits v 53 42
/-- arg of a KSVC value. -/
def svcArg (v : W64) : Nat := bits v 31 0

/-- A core's KWR to KSVC completes. -/
def State.svcDone (s : State) (core : Option Nat) : State :=
  match core with
  | none => s
  | some n =>
    let c := s.core n
    if c.hold == .svc then s.setCore n { c with hold := .none, pc := c.pc + 4 } else s

/-- The first of the writes that are served one at a time is done. -/
def State.svcPop (s : State) (w : Nat) : State :=
  match (s.wafer w).pendingSvc with
  | [] => s
  | (_, core) :: r => (s.setWafer w { s.wafer w with pendingSvc := r }).svcDone core

/-- The watchdog's intervals of a wafer's partitions pause for a checkpoint, or go on after it where the partition runs (R217). -/
def State.pauseParts (s : State) (w : Nat) (on : Bool) : State :=
  (List.range 64).foldl (fun s i =>
    let k := w * 64 + i
    if (s.part k).st == .run then
      s.setPart k (if on then (s.part k).pause s.time else (s.part k).resume s.time)
    else s) s

/-- Whether a partition of a wafer is being saved. -/
def State.anyGating (s : State) (w : Nat) : Bool := s.parts.any fun e => e.1 / 64 == w && e.2.st == .gating

/-- Serves the writes of ops 0x4 to 0x6 in order, while each is done at once; none while a swap-done event is held, and a
checkpoint not before a pre-emption under way has been saved (R207, R209, R218). -/
def State.svcServe (s : State) (w : Nat) : Nat → State
  | 0 => s
  | k + 1 =>
    let x := s.wafer w
    if x.raised.any (·.kind == 8) then s
    else match x.pendingSvc with
      | [] => s
      | (v, _) :: _ =>
        let part := w * 64 + svcPart v
        match svcOp v with
        | 4 =>
          match (s.part part).st with
          | .swapped => (s.svcPop w).svcServe w k
          | .gating => s
          | .run => s.gate part
        | 5 =>
          if (s.part part).st == .swapped then ((s.swapIn w part).svcPop w).svcServe w k else (s.svcPop w).svcServe w k
        | _ => if x.round.isSome || s.anyGating w then s else (s.setWafer w { x with round := some ⟨svcArg v, []⟩ }).pauseParts w true

/-- A write of op 0x4 to 0x6 takes its place. -/
def State.svcQueue (s : State) (w : Nat) (v : W64) (core : Option Nat) : State :=
  let s := match core with
    | some n => s.setCore n { s.core n with hold := .svc, wait := none }
    | none => s
  let n := (s.wafer w).pendingSvc.length
  (s.setWafer w { s.wafer w with pendingSvc := (s.wafer w).pendingSvc ++ [(v, core)] }).svcServe w (n + 1)

/-- The core waits until the strands of killed nodes have ended; a host's write does not. -/
def State.svcKills (s : State) (refs : List NodeRef) (core : Option Nat) : State :=
  let s := refs.foldl (fun s r => s.killNode r 2) s
  match core with
  | some n => if (s.core n).ending.isSome then s else s.setCore n { s.core n with hold := .kill refs, wait := none }
  | none => s

/-- The live node that op 0x1 names. -/
def State.killRef (s : State) (w : Nat) (v : W64) : List NodeRef :=
  let r : NodeRef := ⟨w * 4096 + svcPart v * 64 + svcArg v % 64, svcNode v⟩
  if svcArg v / 64 ≠ 0 || (s.node? r).isNone then [] else [r]

/-- The nodes that op 0x7 names. -/
def State.killRefs (s : State) (w : Nat) (v : W64) : List NodeRef :=
  ((s.sheaves.filter fun e => shPartKey e.1 == w * 64 + svcPart v).map fun e => (⟨e.1, svcNode v⟩ : NodeRef)).filter fun r =>
    (s.node? r).isSome

/-- Clears the hold of a fault at its owner; `skip` abandons the access (R210), of a vector command all that is left of it (23_ref_t_z.md
R397). -/
def State.release (s : State) (id : Nat) (f : GenFault) (skip : Bool) : State :=
  let s := { s with faults := mdel s.faults id }
  match f.owner with
  | .port n => s.setCore n { s.core n with fault := none }
  | .fetch n => s.setCore n { s.core n with fault := none }
  | .late n a =>
    s.setCore n ({ s.core n with fault := none }.reissue a s.time)
  | .vec n =>
    let c := s.core n
    s.setCore n { c with vfault := none, vq := if skip then c.vq.drop 1 else c.vq }
  | .queue q => s.setQueue q { s.queue q with fault := none, prog := { (s.queue q).prog with skip := skip } }
  | .ltx c _ =>
    let k := s.ctl c
    s.setCtl c { k with jobs := k.jobs.map fun j => if j.fault = some id then { j with fault := none, skip := skip } else j }
  | .fab k site => s.setLane k site { s.lane k site with fault := none, skip := skip }
  | .edge c sl => s.setSlot c sl { s.slot c sl with fault := none, skip := skip }
  | .red g =>
    match mfind s.reds g with
    | some r => s.setRed g { r with drain := { r.drain with fault := none, skip := skip } }
    | none => s
  | .cred g w =>
    match mfind s.creds g with
    | some r =>
      let p := mget r.parts w resetCredW
      s.setCredW g w { p with drain := { p.drain with fault := none, skip := skip } }
    | none => s
  | .gs sheaf node => s.modNode ⟨sheaf, node⟩ fun n => { n with fault := none, skip := skip }

/-- The destination register of an instruction whose access KSVC op 0x3 skips. -/
def skipDst (i : Instr) : Reg :=
  match i with
  | .ld t _ _ _ _ _ _ => t
  | .ldfe t _ _ _ => t
  | .waitf d _ _ => d
  | .join d _ => d
  | .fget d _ => d
  | .amoAdd d _ _ _ _ _ _ => d
  | .amoAnd d _ _ _ _ _ _ => d
  | .amoOr d _ _ _ _ _ _ => d
  | .amoXor d _ _ _ _ _ _ => d
  | .amoMin d _ _ _ _ _ _ => d
  | .amoMax d _ _ _ _ _ _ => d
  | .amoMinn d _ _ _ _ _ _ => d
  | .amoMaxn d _ _ _ _ _ _ => d
  | .amoSwp d _ _ _ _ _ _ => d
  | .amoCas d _ _ _ _ _ _ => d
  | _ => 0

/-- Skips the instruction at which a core's port stopped it (R210): a RETIRE ends the strand without a decrement. -/
def State.skipPort (s : State) (n : Nat) : State :=
  let c := s.core n
  let i := (c.fetched c.fetchPc).map decodeWord
  let retire := fun (s : State) => match c.strand with
    | some t =>
      let s := if c.tm then s.markAbn t.ref 1 else s
      s.setCore n (s.core n).idle
    | none => s
  if c.ends then retire s
  else match i with
  | some (.ok .retire) => retire s
  | some (.ok .kend) => retire s
  | some (.ok j) => s.setCore n ({ c with pc := c.pc + 4, wait := none }.put (skipDst j) 0)
  | _ => s.setCore n { c with pc := c.pc + 4, wait := none }

/-- Abandons an access that faulted at its home: its register is set full with 0, no write is made, and an instruction that it held ends
(22_ref_m_s.md R388). -/
def State.skipLate (s : State) (n id : Nat) : State :=
  let c := s.core n
  match c.find id with
  | none => s
  | some a =>
    let c := { c with port := c.port.filter (·.id != id), again := none }
    let c := if c.hold = .access id then { c with hold := .none, wait := none, pc := c.pc + 4 } else c
    s.setCore n (if a.isRead then c.put a.dst 0 else c)

/-- Op 0x2 on a held fault. -/
def State.retryFault (s : State) (id : Nat) : State :=
  match mfind s.faults id with
  | some f => s.release id f false
  | none => s

/-- Op 0x3 on a held fault (R210); a fetch stays stopped. -/
def State.skipFault (s : State) (id : Nat) : State :=
  match mfind s.faults id with
  | none => s
  | some f =>
    match f.owner with
    | .fetch _ => s
    | .port n => (s.release id f false).skipPort n
    | .late n a => (s.release id f false).skipLate n a
    | _ => s.release id f true

/-- Op 0x3 on one stop of a queue, while it still stands: the queue takes its next command, or goes on with step u + 1 of a poisoned MMA
(R209, R134). -/
def State.skipQueue (s : State) (q stop : Nat) : State :=
  let e := s.queue q
  if !e.halt || e.stop != stop then s
  else if e.stopped then s.setQueue q { e with halt := false, stopped := false }
  else (s.setQueue q { e with halt := false }).popCmd q

/-- What the event of a sequence number is about, if its part equals the op's. -/
def State.svcEvent (s : State) (w : Nat) (v : W64) : Option EvWhat :=
  match mfind (s.wafer w).posted (svcArg v) with
  | some (what, part) => if part = svcPart v then some what else none
  | none => none

/-- A write of a value to KSVC of a wafer, by a core's KWR or by the host (none). -/
def State.ksvc (s : State) (w : Nat) (v : W64) (core : Option Nat) : State :=
  let done := fun (s : State) => match core with
    | some n => s.setCore n { s.core n with pc := (s.core n).pc + 4, wait := none }
    | none => s
  match svcOp v with
  | 1 => s.svcKills (s.killRef w v) core
  | 2 => match s.svcEvent w v with
    | some (.fault id) => done (s.retryFault id)
    | _ => done s
  | 3 => match s.svcEvent w v with
    | some (.fault id) => done (s.skipFault id)
    | some (.queue q stop) => done (s.skipQueue q stop)
    | _ => done s
  | 4 => s.svcQueue w v core
  | 5 => s.svcQueue w v core
  | 6 => s.svcQueue w v core
  | 7 => s.svcKills (s.killRefs w v) core
  | _ => done s

/-- KSVC_KILL: a write of op 0x1. -/
def execKsvcKill (wafer : Nat) (v : W64) (s : State) : Res := .next (if svcOp v = 1 then s.ksvc wafer v none else s)

/-- KSVC_RETRY: a write of op 0x2. -/
def execKsvcRetry (wafer : Nat) (v : W64) (s : State) : Res := .next (if svcOp v = 2 then s.ksvc wafer v none else s)

/-- KSVC_CONTINUE: a write of op 0x3. -/
def execKsvcContinue (wafer : Nat) (v : W64) (s : State) : Res := .next (if svcOp v = 3 then s.ksvc wafer v none else s)

/-- KSVC_PREEMPT: a write of op 0x4. -/
def execKsvcPreempt (wafer : Nat) (v : W64) (s : State) : Res := .next (if svcOp v = 4 then s.ksvc wafer v none else s)

/-- KSVC_RESTORE: a write of op 0x5. -/
def execKsvcRestore (wafer : Nat) (v : W64) (s : State) : Res := .next (if svcOp v = 5 then s.ksvc wafer v none else s)

/-- KSVC_CHECKPOINT: a write of op 0x6. -/
def execKsvcCheckpoint (wafer : Nat) (v : W64) (s : State) : Res := .next (if svcOp v = 6 then s.ksvc wafer v none else s)

/-- KSVC_KILL_ALL: a write of op 0x7. -/
def execKsvcKillAll (wafer : Nat) (v : W64) (s : State) : Res := .next (if svcOp v = 7 then s.ksvc wafer v none else s)

/-- EVENT_POST: the k-th event that the units of a wafer hold is written, or, a group stall that finds the ring full, dropped and
counted. -/
def execEventPost (wafer k : Nat) (s : State) : Res :=
  .next <|
    let x := s.wafer wafer
    match x.raised[k]? with
    | none => s
    | some e =>
      if !evFirst x.raised k e then s
      else if x.ringFull then
        if e.kind = 1 then s.setWafer wafer { x with raised := dropNth x.raised k, svqLost := x.svqLost + 1 } else s
      else
        let s := (s.setWafer wafer { x with raised := dropNth x.raised k }).writeEv wafer e
        if e.kind = 8 then s.svcServe wafer (x.pendingSvc.length + 1) else s

/-! ## Quiescence (R214) -/

/-- PREEMPT_QUIESCE: waits of a gating partition are abandoned, and once nothing of it is moving it is saved. -/
def execPreemptQuiesce (wafer part : Nat) (s : State) : Res :=
  .next <|
    let k := wafer * 64 + part
    if (s.part k).st != .gating || (s.wafer wafer).round.isSome then s
    else
      let s := (s.partCores k).foldl (fun s n => s.setCore n (s.core n).unwait) s
      if !s.quiescent k then s
      else
        let s := s.swapOut wafer k
        match (s.wafer wafer).pendingSvc with
        | (v, _) :: _ => if svcOp v = 4 ∧ svcPart v = part then s.svcPop wafer else s
        | [] => s

/-- HALT (R342): pre-empts the issuing core's partition; the core goes on after it on restore. -/
def execHalt (s : State) : Res :=
  .next <|
    if !s.me.priv then s.noPriv .halt
    else
      let k := s.me.partKey
      let s := s.finish s.me
      match k with
      | some k => s.gate k
      | none => s

/-! ## Awn rounds (R218) -/

/-- Whether every queue of an engine stands at a step boundary, or is stopped. -/
def State.engStill (s : State) (w : Nat) (k : UnitKind) (cnum : Nat) : Bool :=
  s.queues.all fun e => qName e.1 != w * 2 ^ 15 + cnum || engKind e.1 != k || e.2.prog.atStep || e.2.halt || e.2.fault.isSome

/-- The channels on which a site has inputs. -/
def State.inChans (s : State) (k site : Nat) : List Nat :=
  let w := (s.plane k).word site
  if siteKind site = 1 then
    ((List.range 4).filter fun i => rtIsIn (bits w 31 28) i && nth (rtPorts w) i 0xF ≤ 4).map fun i => rtChan (siteCell site) (nth (rtPorts w) i 0xF)
  else ((distinct (inputsOf (if siteKind site = 2 then genSels w else if isLut (s.fabShape k).1 site then [wIa w] else wInputs w))).filter
    (!isPort ·)).map (chanOf site)

/-- Whether a site reads a shared port, whose tokens come from outside its fabric. -/
def State.portReader (s : State) (k site : Nat) : Bool := siteKind site != 1 && ((s.plane k).sources site).any isPort

/-- Whether an awn has reached a site (R218): a generator's comes from the GS, another site's on a channel from one that has stopped. One
whose awn can come on no channel, for it reads a shared port or no site feeds it, has it from the GS too (DESIGN CHOICE, log 118). -/
def State.awnDue (s : State) (k site : Nat) : Bool :=
  let ins := s.inChans k site
  siteKind site == 2 || s.portReader k site || ins.any (fun ch => ((s.plane k).chan ch).awn)
    || !(s.plane k).cells.any fun e => e.2.ready && ins.any fun ch => s.feeds k e.1 (some ch)

/-- Whether a site stands at a firing boundary with its accesses performed, its region neither freezing nor returning, its slot carrying no
access. -/
def State.siteRests (s : State) (k site : Nat) : Bool :=
  let p := s.plane k
  let ef := (s.fabShape k).1
  ((List.range (p.copies ef site)).all fun i => p.siteStill (copySite ef site i, s.lane k (copySite ef site i)))
    && (match fabCtl k with
      | some c => match (s.ctl c).slotOf site with
        | some (_, e) => e.halt || e.accs.isEmpty
        | none => true
      | none => match mfind s.resids (k / 2) with
        | some r => r.halt || (match r.st with
          | .freezing _ => false
          | .returning _ => false
          | _ => true)
        | none => true)

/-- A site of a plane stops, and sends an awn on each of its outputs (R218). -/
def Plane.sendAwn (p : Plane) (site : Nat) (os : List OutP) : Plane :=
  (os.filterMap (·.ch)).foldl (fun p ch => p.setChan ch { p.chan ch with awn := true }) (p.setCell site { p.cell site with awn := true })

/-- A site of a fabric receives its first awn, and stops. -/
def State.siteAwn (s : State) (w k site : Nat) : State :=
  if s.fabWafer k = w ∧ (s.cell k site).ready && !(s.cell k site).awn && s.awnDue k site && s.siteRests k site then
    s.setPlane k ((s.plane k).sendAwn site (s.siteOuts k site))
  else s

/-- Whether every site of a plane that has its word has stopped. -/
def Plane.awned (p : Plane) : Bool := p.cells.all fun e => !e.2.ready || e.2.awn

/-- A plane whose sites go on after a round. -/
def Plane.resume (p : Plane) : Plane :=
  { p with
    cells := p.cells.map fun e => (e.1, { e.2 with awn := false })
    chans := p.chans.map fun e => (e.1, { e.2 with awn := false }) }

/-- Every site of a wafer's fabrics has stopped, but for those of a partition swapped out. -/
def State.sitesStopped (s : State) (w : Nat) : Bool :=
  (s.resids.all fun e => e.2.field / 128 != w || (s.part (shPartKey e.2.ref.sheaf)).st == .swapped || e.2.live.awned)
    && s.ctls.all fun e => e.1 / 64 != w || e.2.fab.awned

/-- The sites of a wafer's fabrics go on. -/
def State.resumeSites (s : State) (w : Nat) : State :=
  { s with
    resids := s.resids.map fun e =>
      if e.2.field / 128 = w then (e.1, { e.2 with live := e.2.live.resume, planes := e.2.planes.map (·.resume) }) else e
    ctls := s.ctls.map fun e => if e.1 / 64 = w then (e.1, { e.2 with fab := e.2.fab.resume }) else e }

/-- Whether a unit may stop now: a core between instructions with its accesses performed, an engine at a step boundary, a fabric manager that
neither loads, freezes nor returns and whose sites have stopped, a controller between blocks whose slots carry no access and whose sites have
stopped. -/
def State.unitStill (s : State) (w u : Nat) : Bool :=
  let x := u / 8
  let n := w * 2 ^ 15 + x
  match u % 8 with
  | 0 => (s.core n).ending.all (·.reason == 0) && (s.core n).port.all fun a =>
      a.performed || some a.id == s.lateId n || (s.core n).hold == .access a.id
  | 2 => s.engStill w .matrix x
  | 3 => s.engStill w .copy x
  | 4 => s.engStill w .network x
  | 5 => match mfind s.resids x with
    | some r => r.still && r.live.awned
    | none => true
  | 6 => (s.ctl (w * 64 + x)).jobs.all (!·.view) && (s.ctl (w * 64 + x)).fab.awned
      && (s.ctl (w * 64 + x)).slots.all fun e => e.2.halt || e.2.accs.isEmpty
  | _ => true

/-- A core's wait as it stands while the core is stopped: the cycles waited so far; and back, when it goes on. -/
def State.pauseWait (s : State) (n : Nat) : State :=
  let c := s.core n
  s.setCore n { c with wait := c.wait.map fun t => s.now n - t }

/-- AWN_RECEIVE: a unit of a wafer receives its first awn of the round under way, and stops; a site of a fabric sends awns on its outputs. -/
def execAwnReceive (wafer unit : Nat) (s : State) : Res :=
  .next <|
    let x := s.wafer wafer
    match x.round with
    | none => s
    | some r =>
      if unit % 8 = 7 then s.siteAwn wafer (unit / 8 / 16384) (unit / 8 % 16384)
      else if shas r.stopped unit || !s.unitStill wafer unit then s
      else
        let s := s.setWafer wafer { x with round := some { r with stopped := sput r.stopped unit } }
        if unit % 8 = 0 then s.pauseWait (wafer * 2 ^ 15 + unit / 8) else s

/-- The units of a wafer that have work, beside the sites of its fabrics: each stops before the round ends. A partition swapped out has none. -/
def State.liveUnits (s : State) (w : Nat) : List Nat :=
  let on := fun (k : Option Nat) => match k with
    | some k => (s.part k).st != .swapped
    | none => true
  let cores := s.cores.filter fun e => nWafer e.1 == w && on e.2.partKey
  (cores.filter (·.2.strand.isSome)).map (fun e => unitNo .core (nCnum e.1))
    ++ (cores.filter fun e => !e.2.vq.isEmpty).map (fun e => unitNo .vector (nCnum e.1))
    ++ (s.queues.filter fun e => nWafer (qName e.1) == w && !e.2.cmds.isEmpty && on (s.core (qName e.1)).partKey).map (fun e =>
        unitNo (match qEng e.1 with
          | 0 => .matrix
          | 1 => .copy
          | _ => .network) (nCnum (qName e.1)))
    ++ (s.resids.filter fun e => e.2.field / 128 == w && on (some (shPartKey e.2.ref.sheaf))).map (fun e => unitNo .resid e.1)
    ++ (s.ctls.filter fun e => e.1 / 64 == w && (!e.2.jobs.isEmpty || !e.2.slots.isEmpty)).map fun e => unitNo .ctl (e.1 % 64)

/-- CHECKPOINT_SAVE: every unit and site has stopped, so that each holds awns on all its inputs; the state and memory go to the safe tier, the units resume, and the checkpoint is done.
A paused wait does not count the pause. -/
def execCheckpointSave (wafer : Nat) (s : State) : Res :=
  .next <|
    let x := s.wafer wafer
    match x.round with
    | none => s
    | some r =>
      if !((s.liveUnits wafer).all (shas r.stopped) && s.sitesStopped wafer) then s
      else
        let s := s.resumeSites wafer
        let s := (r.stopped.filter (· % 8 == 0)).foldl (fun s u => s.pauseWait (wafer * 2 ^ 15 + u / 8)) s
        let s := (s.setWafer wafer { s.wafer wafer with round := none }).pauseParts wafer false
        (s.raiseEv wafer (doneEv 6 (s.devTime wafer))).svcPop wafer

/-! ## The watchdog (R217) -/

/-- The first core of a node that runs a strand and has not written its KHBEAT in the interval with another value than it began with. -/
def State.silentCore (s : State) (r : NodeRef) : Option Nat :=
  (s.cores.find? fun e => e.2.ref == some r && !e.2.beat).map (·.1)

/-- Whether a residency of a node has fired no PE in the interval. -/
def State.silentResid (s : State) (r : NodeRef) : Bool :=
  (s.nodeResids r).any fun i => ((mfind s.resids i).map fun x => !x.fired && x.st != .over).getD false

/-- The first persistent node of a partition that fails the check, with the core that its event names: a node of which a strand has ended
abnormally (status 1) is watched as before, one that is being killed no more. -/
def State.silentNode (s : State) (part : Nat) : Option (NodeRef × Nat) :=
  ((s.sheaves.filter fun e => shPartKey e.1 == part).flatMap fun e => e.2.refs e.1).findSome? fun r =>
    match s.node? r with
    | some n =>
      if n.st == .running && n.status ≤ 1 && bitAt (nth n.words 0 0) 59 then
        match s.silentCore r with
        | some c => some (r, c)
        | none => if s.silentResid r then some (r, 0) else none
      else none
    | none => none

/-- Whether a core is the partition's, or may become so when a node of it is placed: of its fields, and no other's. -/
def mayServe (part : Nat) (m : BitVec 72) (n : Nat) (c : Core) : Bool :=
  c.partKey == some part || (c.partKey.isNone && nWafer n == part / 64 && m.getLsbD (nField n % 128))

/-- A new interval of a partition begins: each of its cores' registers is noted, a core's on which no team stands yet too. -/
def State.newInterval (s : State) (part : Nat) : State :=
  let s := s.setPart part { s.part part with wdogAt := s.time }
  let m := s.partMask part
  { s with
    cores := s.cores.map fun e => if mayServe part m e.1 e.2 then (e.1, { e.2 with beat0 := e.2.khbeat, beat := false }) else e
    resids := s.resids.map fun e => if shPartKey e.2.ref.sheaf = part then (e.1, { e.2 with fired := false }) else e }

/-- The partitions of a wafer that run, whose interval has lasted `lim` nanoseconds, pauses apart. -/
def State.dueParts (s : State) (w lim : Nat) : List Nat :=
  ((List.range 64).map (w * 64 + ·)).filter fun k =>
    let p := s.part k
    p.st == .run && p.paused.isNone && lim ≤ s.time - p.wdogAt

/-- WATCHDOG_EXPIRE: an interval of KWDOG.lim has passed: for the first partition with a silent node, the partition is pre-empted, an event
names the node, and it is to be killed once saved; or the next intervals begin. -/
def execWatchdogExpire (wafer : Nat) (s : State) : Res :=
  .next <|
    let x := s.wafer wafer
    let lim := x.kwdog.toNat * 1000
    if lim = 0 || x.raised.any (·.kind == 3) || x.round.isSome then s
    else
      let due := s.dueParts wafer lim
      match due.findSome? fun k => (s.silentNode k).map fun n => (k, n) with
      | none => due.foldl (fun s k => s.newInterval k) s
      | some (k, r, c) =>
        let s := s.gate k
        let s := s.setPart k { s.part k with killAfter := (s.part k).killAfter ++ [r] }
        s.raiseEv wafer { kind := 3, ref := some r, words := [w64 c, x.ksva, 0, 0, 0, 0], what := .other, core := none }

/-! ## KWR (R252, R349) -/

/-- KWR. -/
def execKwr (a : Reg) (kreg : BitVec 12) (s : State) : Res :=
  .next <| match kregOf kreg.toNat with
    | none => s.illegal (.kwr a kreg)
    | some r =>
      if r.writePriv && !s.me.priv then s.noPriv (.kwr a kreg)
      else s.issue [(a, false)] 0 fun c =>
        let v := c.get a
        let w := nWafer s.cur
        if r == .ksvc then s.ksvc w v (some s.cur)
        else if r == .kxinv then
          let s := s.waferWrite w .kxinv v
          if s.kxinvBusy w v then s.setMe { s.me with wait := none } else s.finish s.me
        else
          let s := s.kwrite s.cur r v
          s.finish s.me

end Sys2Proof.Machine
end

