-- ==== Sys2Proof/Machine/Power.lean ====
section
/-! DEFINITION. Grains and budgets (10_scheduling.md R200; 12_power.md R219 to R221), energy (R222), throttle and hops (R223, R224),
device time (R225), and hot spots (R228, R229). -/

namespace Sys2Proof.Machine

/-! ## A wafer's interval (R200, R221) -/

/-- Enabled fields of a wafer. -/
def Wafer.fields (x : Wafer) : List Nat := (List.range 72).filter fun f => x.fen.getLsbD f

/-- The floor of a wafer's budget: KPBUD.fmin for each enabled field. -/
def Wafer.floor (x : Wafer) : Nat := x.kpbudMin.toNat * x.nfield

/-- Grains that a field requested in the interval that ends: those it drew and those that its units still wait for (log 29). -/
def Field.asked (f : Field) : Nat := f.usedNow + f.waiting.length

/-- What a budget W gives the i-th of n fields of the R221 division when it does not cover the floors. -/
def evenShare (W n i : Nat) : Nat := W / n + b2n (i < W % n)

/-- What is left to share of a part that each field takes in proportion; with no request the parts are equal (log 29). -/
def askedPart (rest total n a : Nat) : Nat := if total = 0 then rest / n else rest * a / total

/-- The division of budget W among fields that asked for `asks` grains, with floor `fmin` each (R221). -/
def divide (W fmin : Nat) (asks : List Nat) : List Nat :=
  let n := asks.length
  if W < fmin * n then (List.range n).map (evenShare W n)
  else
    let rest := W - fmin * n
    let parts := asks.map (askedPart rest asks.sum n)
    let left := rest - parts.sum
    (List.range n).map fun i => fmin + nth parts i 0 + b2n (i < left)

/-- A field's interval begins with a share: what is left of the last carries over, up to one budget, and units that wait are served
(R200, R201); those that wait on count as waiting in it (12_power.md R220; log 30). -/
def Field.begin (f : Field) (share : Nat) : Field :=
  let pool := share + min f.pool share
  let f := { f with
    pool := pool, bud := pool, used := f.usedNow, usedNow := 0, spent := [] }
  let f := f.serve f.waiting.length
  { f with reqNow := f.waiting.length }

/-! ## Energy of an interval (R222) -/

/-- Charges the energy of a field's interval: the active part by grains, the idle part equally. -/
def State.chargeField (s : State) (k : Nat) : State :=
  let active := Config.energy (2 * k) s.tick
  let idle := Config.energy (2 * k + 1) s.tick
  let spent := (s.field k).spent
  let total := (spent.map (·.2)).sum
  let holders := s.fieldNodes k
  let s := spent.foldl (fun s e => s.charge ⟨e.1 / 4096, e.1 % 4096⟩ (active * e.2) total) s
  holders.foldl (fun s r => s.charge r idle holders.length) s

/-- The budget that an interval divides: a quarter under fast throttle (R200, R223). -/
def Wafer.share (x : Wafer) : Nat := if x.thrAct then x.budget / 4 else x.budget

/-- The next interval of a wafer's fields begins, with the wafer's budget divided among them. -/
def State.beginInterval (s : State) (w : Nat) : State :=
  let x := s.wafer w
  let fs := x.fields
  let shares := divide x.share x.kpbudMin.toNat (fs.map fun f => (s.field (fieldKey w f)).asked)
  (List.range fs.length).foldl (fun s i =>
    let k := fieldKey w (nth fs i 0)
    s.setField k ((s.field k).begin (nth shares i 0))) s

/-- GRAIN_INTERVAL: a microsecond of device time has passed since the last interval began: its energy is charged, its demand, budget
and grains used are counted, received grants are applied, and the next interval begins. -/
def execGrainInterval (wafer : Nat) (s : State) : Res :=
  .next <|
    let x := s.wafer wafer
    if s.devTime wafer < x.lastIntvl + 1000 then s
    else
      let keys := x.fields.map (fieldKey wafer)
      let used := (keys.map fun k => (s.field k).usedNow).sum
      let waited := (keys.map fun k => (s.field k).reqNow).sum
      let s := keys.foldl (fun s k => s.chargeField k) s
      let s := s.setWafer wafer { x with
        lastIntvl := x.lastIntvl + 1000, demand := x.demand + waited, given := x.given + x.budget, drawn := x.drawn + used
        intvls := x.intvls + 1, budget := x.budget + x.gain, gain := 0 }
      s.beginInterval wafer

/-! ## Trading (R219, R220) -/

/-- The demand that other wafers have sent, the largest, ties to the lowest index. -/
def State.neediest (s : State) (w : Nat) : Option (Nat × Nat) :=
  ((List.range s.podsize).filter (· != w)).foldl (fun (b : Option (Nat × Nat)) v =>
    let d := (s.wafer v).told.1
    match b with
    | none => if d = 0 then none else some (v, d)
    | some (_, m) => if d > m then some (v, d) else b) none

/-- Flits that may be sent and not acknowledged (R233). -/
def replayWindow : Nat := 512

/-- Flits that one key may seal in one direction (R235). -/
def keyLimit : Nat := 2 ^ 48

/-- Whether a link may send a flit: it is up, and neither the replay window nor its key is used up. -/
def Link.maySend (l : Link) : Bool := l.up && l.txSeq < l.txAcked + replayWindow && l.sealed < keyLimit

/-- The first link of a wafer that may send a flit. -/
def State.upLink (s : State) (w : Nat) : Option Nat := (List.range 48).find? fun l => (s.link (w * 64 + l)).maySend

/-- The grains that a wafer may grant for a demand: half its surplus, and no more than leaves its floor. -/
def Wafer.grantOf (x : Wafer) (demand : Nat) : Nat := min (min (x.told.2 / 2) demand) (x.budget - x.floor)

/-- The wafer's grant of this period, if it makes one: it lowers its budget and sends the grant as one flit. -/
def State.makeGrant (s : State) (w : Nat) : State :=
  let x := s.wafer w
  if 16 * x.told.2 ≤ x.budget then s
  else match s.neediest w, s.upLink w with
    | some (v, d), some l =>
      let n := x.grantOf d
      if n = 0 then s
      else
        let k := s.link (w * 64 + l)
        (s.setWafer w { x with budget := x.budget - n }).setLink (w * 64 + l) { k with
          grants := k.grants ++ [(v, n)], txSeq := k.txSeq + 1, sealed := k.sealed + 1 }
    | _, _ => s

/-- TRADING_PERIOD: a period of 100 µs begins: the wafer sends its demand and surplus of the last, per interval (log 30); once every
wafer has, it may grant. -/
def execTradingPeriod (wafer : Nat) (s : State) : Res :=
  .next <|
    let x := s.wafer wafer
    if s.devTime wafer ≥ x.lastTrade + 100000 then
      s.setWafer wafer { x with
        lastTrade := x.lastTrade + 100000, told := (x.demand / x.intvls, (x.given - x.drawn) / x.intvls), demand := 0, given := 0
        drawn := 0, intvls := 0 }
    else if x.traded < x.lastTrade && (List.range s.podsize).all fun v => (s.wafer v).lastTrade == x.lastTrade then
      (s.setWafer wafer { x with traded := x.lastTrade }).makeGrant wafer
    else s

/-- Takes the first grant for a wafer off a list: its grains, and the list after it. -/
def takeGrant (w : Nat) : List (Nat × Nat) → Option (Nat × List (Nat × Nat))
  | [] => none
  | (v, n) :: r => if v = w then some (n, r) else (takeGrant w r).map fun x => (x.1, (v, n) :: x.2)

/-- GRANT_RECEIVE: a grant arrives on a link that is up; the next interval applies it. -/
def execGrantReceive (wafer : Nat) (s : State) : Res :=
  .next <|
    match s.links.find? fun e => e.2.up && e.2.grants.any (·.1 == wafer) with
    | none => s
    | some (k, l) =>
      match takeGrant wafer l.grants with
      | none => s
      | some (n, rest) =>
        (s.setLink k { l with grants := rest }).setWafer wafer { s.wafer wafer with gain := (s.wafer wafer).gain + n }

/-- Whether every enabled field of a wafer is hot (R228). -/
def State.allHot (s : State) (w : Nat) : Bool :=
  !(s.wafer w).fields.isEmpty && (s.wafer w).fields.all fun f => (s.field (fieldKey w f)).hot

/-- A budget less one eighth, down to a floor. -/
def decayed (budget floor : Nat) : Nat := if budget ≤ floor then budget else max floor (budget - budget / 8)

/-- BUDGET_DECAY: every field of the wafer has been hot for another millisecond. -/
def execBudgetDecay (wafer : Nat) (s : State) : Res :=
  .next <|
    let x := s.wafer wafer
    if !s.allHot wafer || s.time < x.lastDecay + 1000000 then s
    else s.setWafer wafer { x with lastDecay := s.time, budget := decayed x.budget x.floor }

/-! ## Fast throttle (R223) -/

/-- The cycle counts of a wafer's fields are carried over to the state `s'`, in which their clocks or its device time have changed. -/
def State.rebaseAll (s s' : State) (w : Nat) : State := (List.range 72).foldl (fun t f => s.rebase t (fieldKey w f)) s'

/-- Whether source `src` of a wafer is asserted. -/
def State.sourceOn (s : State) (w src : Nat) : Bool :=
  match src with
  | 0 => (s.wafer w).srcPin
  | 1 => (s.wafer w).srcOcs
  | k + 2 => k < 72 && (s.field (fieldKey w k)).drp

/-- THROTTLE_ENTRY: an asserted source puts fast throttle in force. -/
def execThrottleEntry (wafer src : Nat) (s : State) : Res :=
  .next <|
    if !s.sourceOn wafer src || (s.wafer wafer).thrAct then s
    else
      s.rebaseAll (s.setWafer wafer { s.wafer wafer with thrAct := true, thrCnt := (s.wafer wafer).thrCnt + 1 }) wafer

/-- THROTTLE_EXIT: every source has been clear for 20 µs: clocks return to their set frequency, and hops that waited start. -/
def execThrottleExit (wafer : Nat) (s : State) : Res :=
  .next <|
    let x := s.wafer wafer
    if !x.thrAct || (List.range 74).any (s.sourceOn wafer) || s.time < x.clearAt + 20000 then s
    else
      let s := s.rebaseAll (s.setWafer wafer { s.wafer wafer with thrAct := false }) wafer
      (s.wafer wafer).fields.foldl (fun s f => s.startHop (fieldKey wafer f)) s

/-! ## Hops (R224) -/

/-- HOP_COMPLETE: the field switches to the synthesiser it has prepared; a newer want starts the next hop. -/
def execHopComplete (field : Nat) (s : State) : Res :=
  .next <|
    match (s.field field).hopFrom with
    | none => s
    | some c =>
      if (s.field field).retryAt.isSome then s
      else
        let f := s.field field
        (s.rebase (s.setField field { f with cur := BitVec.ofNat 2 c, src := !f.src, hopFrom := none }) field).startHop field

/-- HOP_ABANDON: a droop has met a hop. -/
def execHopAbandon (field : Nat) (s : State) : Res :=
  .next <|
    let f := s.field field
    if f.hopFrom.isNone || f.retryAt.isNone then s else s.setField field { f with hopFrom := none, abt := f.abt + 1 }

/-- HOP_RETRY: 10 µs after the droop has cleared the hop is tried again, whether or not the throttle that the droop caused has ended. -/
def execHopRetry (field : Nat) (s : State) : Res :=
  .next <|
    let f := s.field field
    match f.retryAt with
    | none => s
    | some t =>
      if f.hopFrom.isSome || f.drp || s.time < t then s
      else s.setField field { f with
        retryAt := none, busy := f.want != f.cur, hopFrom := if f.want = f.cur then none else some f.want.toNat }

/-! ## Device time (R225) -/

/-- TIME_FLIT: a wafer follows wafer 0; it stays within 2 ns of it (log 31). The cycle counts of its fields stay locked to its device time
(R226). -/
def execTimeFlit (wafer : Nat) (s : State) : Res :=
  .next <| if wafer = 0 then s else s.setWafer wafer { s.wafer wafer with skew := (Config.unspecified s.tick).toNat % 3 }

/-! ## Hot spots (R228) -/

/-- FIELD_HOT: a field's temperature has reached KHOT.thr. -/
def execFieldHot (field : Nat) (s : State) : Res :=
  .next <|
    let w := field / 128
    if (s.field field).hot || (Config.temperature field s.tick).toNat < (s.wafer w).khot.toNat then s
    else
      let s := s.setField field { s.field field with hot := true }
      if s.allHot w then s.setWafer w { s.wafer w with lastDecay := s.time } else s

/-- FIELD_COOL: a hot field is at thr − 3 °C or below. -/
def execFieldCool (field : Nat) (s : State) : Res :=
  .next <|
    if (Config.temperature field s.tick).toNat + 3 ≤ (s.wafer (field / 128)).khot.toNat then
      s.setField field { s.field field with hot := false }
    else s

/-! ## Migration (R229) -/

/-- The least by a key, the first of equals. -/
def leastBy (key : Nat → Nat) (l : List Nat) : Option Nat :=
  l.foldl (fun (b : Option Nat) x => match b with
    | none => some x
    | some y => if key x < key y then some x else b) none

/-- The coolest cool field of a node's partition that no swapped-out partition keeps (11_faults.md R216) and that satisfies `room`. -/
def State.coolField (s : State) (r : NodeRef) (room : Nat → Bool) : Option Nat :=
  let w := shWafer r.sheaf
  leastBy (fun f => (Config.temperature (fieldKey w f) s.tick).toNat) <|
    (List.range 72).filter fun f => (s.fmapOf r).getLsbD f && s.fieldOn w f && !(s.field (fieldKey w f)).hot && !s.fieldLocked r f && room f

/-- Whether a node may migrate: it runs, is movable, has stayed 5 ms since it last did, and some field is not hot. -/
def State.mayMigrate (s : State) (r : NodeRef) (n : Node) : Bool :=
  n.st == .running && n.status == 0 && bitAt (nth n.words 0 0) 58 && s.partRuns (shPartKey r.sheaf)
    && (s.wafer (shWafer r.sheaf)).round.isNone && !s.allHot (shWafer r.sheaf)
    && (match n.movedAt with
      | some t => t + 5000000 ≤ s.time
      | none => true)

/-- Whether a core's vector unit stands between commands. -/
def Core.vecStill (c : Core) : Bool :=
  match c.vq with
  | [] => true
  | v :: _ => v.next == 0 && v.paid == 0

/-- Whether a team has halted as in step 2 of R214 and its engines stand at a command boundary (R229; log 32): a core stopped at a fault is
held before its instruction, and a halted queue stands between commands. -/
def State.teamStill (s : State) (r : NodeRef) (t : Team) : Bool :=
  let cores := (List.range (4 * t.tw * t.th)).map (t.coreOf (shWafer r.sheaf))
  cores.all (fun n => (s.core n).ending.isNone && (s.core n).unwait.hold == .none && (s.core n).vecStill && s.portStill n)
    && s.queues.all fun e => !cores.contains (qName e.1) || e.2.prog == resetProg

/-- A core's new name when the team's rectangle moves by (dx, dy) quads. -/
def moveName (t : Team) (w x y n : Nat) : Nat :=
  let qn := nQn n
  if nWafer n = w ∧ inRect t.tq0 t.ty0 t.tw t.th qn then mkName w ((qnRow qn - t.ty0 + y) * 72 + (qnCol qn - t.tq0 + x)) (nC n) else n

/-- A continuation record of a team that moves. -/
def Rec.move (ren : Nat → Nat) (r : Rec) : Rec := { r with core := ren r.core }

/-- A queue of records of a team that moves. -/
def ContQ.move (ren : Nat → Nat) (q : ContQ) : ContQ := ⟨q.chip.map (Rec.move ren), q.ring.map (Rec.move ren)⟩

/-- The swizzle and presence tags of the store at physical address `a`, as they stood in state `s`, go to the store at `b`. -/
def State.moveTags (s t : State) (a b : Nat) : State :=
  let blocks := s.swz.filter fun e => a ≤ e.1 * 512 && e.1 * 512 < a + 0x80000
  let tags := s.qtags.filter fun x => a ≤ x && x < a + 0x80000
  { t with
    swz := blocks.foldl (fun z e => mput z (e.1 - a / 512 + b / 512) e.2) t.swz
    qtags := (tags.map fun x => x - a + b).foldl sput (t.qtags.filter fun x => !((a ≤ x && x < a + 0x80000) || (b ≤ x && x < b + 0x80000))) }

/-- The bytes that a moved quad leaves behind, which are unspecified (R229). -/
def State.leftBytes (s : State) : List (Byte × Bool) :=
  (List.range 0x10000).flatMap fun k => natRun 8 (Config.unspecified (s.tick + k)).toNat false

/-- Moves a quad's local store with its tags; what stays behind is unspecified (R229). -/
def State.moveStore (s : State) (w src dst : Nat) : State :=
  let a := quadPa w src 0
  let b := quadPa w dst 0
  let i : WInfo := ⟨3, 0, w * 2 ^ 15, false, 0⟩
  s.moveTags ((s.write b (s.readRun a 0x80000) i).write a s.leftBytes i) a b

/-- A core's state moves to a core of the new rectangle, and the old core is left without a team. Where its ring leads, and the tiles on
their way, keep the core names they have (DESIGN CHOICE, log 95: R229 is silent on rings). -/
def State.moveCore (s : State) (n n' : Nat) (t : Team) : State :=
  let c := s.core n
  let old := { resetCore with lastTime := c.lastTime }
  (s.setCore n' { c.unwait with team := some t, fetch := [], lastTime := max c.lastTime (s.core n').lastTime }).setCore n old

/-- The state that a quad's cores share moves: slots, group memberships, options, generator and records. -/
def State.moveQuad (s : State) (k k' : Nat) (ren : Nat → Nat) : State :=
  let q := s.quad k
  let q' := s.quad k'
  (s.setQuad k' { q' with
    slots := q.slots, slotEnrol := q.slotEnrol, membs := q.membs, crc := q.crc, hnd := q.hnd, xseed := q.xseed, xgen := q.xgen, xlast := q.xlast
    contq := q.contq.move ren }).setQuad k { q with slots := [], slotEnrol := [], membs := [], contq := resetContQ }

/-- Records of a node in field queues go to the field of the cores that pushed them. -/
def State.moveField (s : State) (r : NodeRef) (ren : Nat → Nat) (dst : Nat) : State :=
  let recs := (s.fields.flatMap fun e => e.2.contq.of r).map (Rec.move ren)
  let s : State := { s with fields := s.fields.map fun (e : Nat × Field) => (e.1, { e.2 with contq := e.2.contq.without r }) }
  let f := s.field dst
  s.setField dst { f with contq := ⟨f.contq.chip, f.contq.ring ++ recs⟩ }

/-- A map under new keys. -/
def mrekey {α : Type} (f : Nat → Nat) (m : Map α) : Map α := m.foldl (fun x e => mput x (f e.1) e.2) []

/-- The key of a point of a node whose cores have new names: a quad's or a field's point goes with its cores. -/
def movePoint (ren : Nat → Nat) (cores : List Nat) (r : NodeRef) (k : Nat) : Nat :=
  let place := k / 256 % 2 ^ 20
  let moved := match k / 32 % 8 with
    | 1 => nQuad (ren (4 * place))
    | 2 => ((cores.find? fun n => nField n == place).map fun n => nField (ren n)).getD place
    | _ => place
  if k / 2 ^ 28 = 2 * r.sheaf * 4096 + r.node then k - place * 256 + moved * 256 else k

/-- A reduction group whose quads and queues have new names: `qn` and `key` give them. -/
def RedGroup.move (qn key ren : Nat → Nat) (g : RedGroup) : RedGroup :=
  { g with
    locs := mrekey qn g.locs, outs := mrekey qn g.outs
    pend := g.pend.map fun p => (key p.1, { p.2 with core := ren p.2.core }) }

/-- A controller of wafer `w` whose groups' members have new numbers. -/
def Ctl.move (qn : Nat → Nat) (c : Ctl) : Ctl :=
  { c with
    gt := c.gt.map fun e => (e.1, { e.2 with membs := e.2.membs.map fun m => { m with quad := qn m.quad } })
    flights := c.flights.map fun f => { f with quad := qn f.quad } }

/-- The owner of a fault or a walk whose cores and queues have new names. -/
def Owner.move (ren key : Nat → Nat) (o : Owner) : Owner :=
  match o with
  | .port n => .port (ren n)
  | .fetch n => .fetch (ren n)
  | .late n id => .late (ren n) id
  | .vec n => .vec (ren n)
  | .queue q => .queue (key q)
  | o => o

/-- Whether a core of a list, its vector unit or one of its queues owns an access. -/
def Owner.within (cores : List Nat) (o : Owner) : Bool :=
  match o with
  | .port n => cores.contains n
  | .fetch n => cores.contains n
  | .late n _ => cores.contains n
  | .vec n => cores.contains n
  | .queue q => cores.contains (qName q)
  | _ => false

/-- What an event is about, under new names. -/
def EvWhat.move (key : Nat → Nat) (e : EvWhat) : EvWhat :=
  match e with
  | .queue q stop => .queue (key q) stop
  | e => e

/-- What holds a moved team for the supervisor: its faults go with it, events that name its queues or hold its cores find them, and a
translation that it had asked for is asked for anew. -/
def State.moveFaults (s : State) (w : Nat) (cores : List Nat) (ren key : Nat → Nat) : State :=
  let x := s.wafer w
  let s : State := { s with
    faults := s.faults.map fun (e : Nat × GenFault) =>
      (e.1, if e.2.owner.within cores then { e.2 with owner := e.2.owner.move ren key, agent := ren e.2.agent } else e.2)
    walks := s.walks.filter fun k => !k.fault.owner.within cores }
  s.setWafer w { x with
      raised := x.raised.map fun e => { e with what := e.what.move key, core := e.core.map ren }
      posted := x.posted.map fun e => (e.1, (e.2.1.move key, e.2.2)) }

/-- What names a moved team's cores, quads and queues follows them: its commands, parked strands, held records, points, reduction groups and
group memberships. -/
def State.moveNames (s : State) (r : NodeRef) (w : Nat) (cores : List Nat) (ren key qn : Nat → Nat) : State :=
  let mine := s.queues.filter fun e => cores.contains (qName e.1)
  let rest := s.queues.filter fun e => !cores.contains (qName e.1)
  { s with
    queues := mine.foldl (fun m e => mput m (key e.1) { e.2 with cmds := e.2.cmds.map fun c => { c with core := ren c.core } }) rest
    parked := s.parked.map fun p => { p with core := ren p.core }
    held := s.held.map fun h => ⟨nQuad (ren (4 * h.quad)), h.crec.move ren⟩
    points := mrekey (movePoint ren cores r) s.points
    reds := s.reds.map fun e => (e.1, if e.1 / 16 = r.key then e.2.move qn key ren else e.2)
    ctls := s.ctls.map fun e => (e.1, if e.1 / 64 = w then e.2.move qn else e.2) }

/-- A team moves to origin (x, y), in field f of its wafer: its strands have halted. -/
def State.moveTeam (s : State) (r : NodeRef) (t : Team) (f x y : Nat) : State :=
  let w := shWafer r.sheaf
  let ren := moveName t w x y
  let cores := (List.range (4 * t.tw * t.th)).map (t.coreOf w)
  let key := fun (k : Nat) => ren (qName k) * 16 + k % 16
  let qn := fun (q : Nat) => nQn (ren (mkName w q 0))
  let s := cores.foldl (fun s n => s.moveCore n (ren n) { t with tq0 := x, ty0 := y }) s
  let s := (rectQuads t.tq0 t.ty0 t.tw t.th).foldl (fun s q =>
    (s.moveStore w q (qn q)).moveQuad (quadKey w q) (quadKey w (qn q)) ren) s
  (((s.moveField r ren (fieldKey w f)).moveFaults w cores ren key).moveNames r w cores ren key qn)

/-- A residency moves to a region of field f, with what its islands' cell memories hold. -/
def State.moveResid (s : State) (i f col row : Nat) : State :=
  match mfind s.resids i with
  | none => s
  | some x =>
    let y := { x with field := f, col := col, row := row }
    let keys := (List.range x.h).flatMap fun isl => (List.range 16).map fun j => (isl, j)
    let mem := keys.foldl (fun m k => mdel m (x.cellKey k.1 k.2)) s.cellMem
    let mem := keys.foldl (fun m k => match mfind s.cellMem (x.cellKey k.1 k.2) with
      | some p => mput m (y.cellKey k.1 k.2) p
      | none => m) mem
    { s with cellMem := mem }.setResid i y

/-- Where a residency of height h would go in a field of a wafer. -/
def State.roomFor (s : State) (w f h : Nat) : Option (Nat × Nat × Nat) := s.regionFit w [f] h

/-- NODE_MIGRATE: a movable node leaves a hot field for the coolest that has room. -/
def execNodeMigrate (sheaf node : Nat) (s : State) : Res :=
  .next <|
    let r : NodeRef := ⟨sheaf, node⟩
    let w := shWafer sheaf
    match s.node? r with
    | none => s
    | some n =>
      if !s.mayMigrate r n then s
      else match n.place with
        | .team tq0 ty0 tw th =>
          let t : Team := ⟨r, tq0, ty0, tw, th⟩
          let fit := fun f => firstFit [f] tw th (s.quadFree r (s.fmapOf r))
          let hot := (rectQuads tq0 ty0 tw th).any fun q => (s.field (fieldKey w (qnField q))).hot
          if !hot || !s.teamStill r t then s
          else match s.coolField r fun f => (fit f).isSome with
            | none => s
            | some f => match fit f with
              | none => s
              | some o =>
                (s.moveTeam r t f o.1 o.2).modNode r fun n => { n with place := .team o.1 o.2 tw th, movedAt := some s.time }
        | .region i =>
          match mfind s.resids i with
          | none => s
          | some x =>
            if !(s.field x.field).hot || !x.planes.isEmpty || x.st != .reach || x.halt then s
            else match s.coolField r fun f => (s.roomFor w f x.h).isSome with
              | none => s
              | some f => match s.roomFor w f x.h with
                | none => s
                | some (_, col, row) =>
                  (s.moveResid i (fieldKey w f) col row).modNode r fun n => { n with field := fieldKey w f, movedAt := some s.time }
        | _ => s

end Sys2Proof.Machine
end

