-- ==== Sys2Proof/Machine/Links.lean ====
section
/-! DEFINITION. Fareno links: flits and replay, wavelengths and keys (07_networks.md R150; 12_power.md R233 to R235). A link is named
wafer × 64 + number. -/

namespace Sys2Proof.Machine

/-- Flits after which a rollover is asked for. -/
def keyAsk : Nat := 2 ^ 47

/-- What a link has sent since its last move: a free number of flits, as the replay window and the key allow (log 16). -/
def Link.sendMore (l : Link) (n : Nat) : Link :=
  if !l.up then l
  else
    let n := min n (min (l.txAcked + replayWindow - l.txSeq) (keyLimit - l.sealed))
    { l with txSeq := l.txSeq + n, sealed := l.sealed + n }

/-- A link as a move finds it. -/
def State.linkNow (s : State) (k : Nat) : Link := (s.link k).sendMore (Config.linkLoad k s.tick).1

/-- The extended number with low half `seq` that lies nearest `next` (R233). -/
def extSeq (seq next : Nat) : Nat :=
  let base := next / 2 ^ 32 * 2 ^ 32 + seq
  if base + 2 ^ 31 ≤ next then base + 2 ^ 32 else if next + 2 ^ 31 < base ∧ 2 ^ 32 ≤ base then base - 2 ^ 32 else base

/-- The receiver's place after it accepts what it has in order. -/
def advanceRx (next : Nat) (got : List Nat) : Nat → Nat × List Nat
  | 0 => (next, got)
  | k + 1 => if shas got next then advanceRx (next + 1) (sdel got next) k else (next, got)

/-- A flit with extended number `e` and a good tag: discarded when its number has been accepted, else accepted (R150). -/
def Link.accept (l : Link) (e : Nat) (ty : Nat) : Link :=
  if e < l.rxSeq || shas l.rxGot e || e ≥ l.rxSeq + replayWindow then l
  else
    let (next, got) := advanceRx l.rxSeq (sput l.rxGot e) replayWindow
    { l with rxSeq := next, rxGot := got, dropped := l.dropped + b2n (ty > 4) }

/-- The peer acknowledges what it has accepted in order. -/
def Link.acked (l : Link) (ack : Nat) : Link :=
  let a := extSeq ack l.txAcked + 1
  if l.txAcked < a ∧ a ≤ l.txSeq then { l with txAcked := a } else l

/-- The GCM nonce of a flit: link number, direction (0 for flits that the W8 sends, 1 for flits it receives), extended number (R233). -/
def flitNonce (link dir e : Nat) : BitVec 96 := BitVec.ofNat 96 (place (link % 64) 88 + place dir 80 + e % 2 ^ 64)

/-- The key slot that flit `e` of the W8 is, or was first, sealed with: while the old slot is held, flits below N under it (R235). -/
def Link.txKey (l : Link) (e : Nat) : Bool :=
  match l.held with
  | some n => if e < n then !l.kidx else l.kidx
  | none => l.kidx

/-- The key slot that the peer seals flit `e` with: a flit below its N is never accepted under the new key (R235; log 16). -/
def Link.rxKey (l : Link) (e : Nat) : Bool := if l.held.isSome && e < l.rxN then !l.kidx else l.kidx

/-- The header of flit `e` of a link (R233). -/
def Link.header (l : Link) (e : Nat) (type : BitVec 7) (cred : BitVec 24) : FlitHdr :=
  ⟨BitVec.ofNat 32 e, BitVec.ofNat 32 l.rxSeq - 1, l.txKey e, type, cred⟩

/-- The link after a flit whose tag verifies: its acknowledgement and credits count, and its number is accepted once. -/
def Link.receive (l : Link) (e : Nat) (h : FlitHdr) : Link :=
  ({ l with fails := 0, cred := l.cred + h.cred.toNat }.acked h.ack.toNat).accept e h.type.toNat

/-- FLIT_RECEIVE: a flit arrives; one that fails its tag check, or that names another key than the one of its number, is discarded as if
never received, and counted. -/
def execFlitReceive (link : Nat) (s : State) : Res :=
  .next <|
    let l := s.linkNow link
    if !l.up || l.fails ≥ 8 then s
    else
      let h := Config.flit s.tick
      let e := extSeq h.seq.toNat l.rxSeq
      if h.kidx == l.rxKey e && Config.tagOk s.tick h.kidx (flitNonce link 1 e) then s.setLink link (l.receive e h)
      else s.setLink link { l with bad := l.bad + 1, fails := l.fails + 1 }

/-- FLIT_REPLAY: a flit that is not acknowledged is sent again, under the key it was first sent with. -/
def execFlitReplay (link : Nat) (s : State) : Res :=
  .next <|
    let l := s.linkNow link
    if l.up && l.txAcked < l.txSeq then
      let (i, type, cred) := Config.replay s.tick
      let e := l.txAcked + i % (l.txSeq - l.txAcked)
      s.setLink link { l with rpl := l.rpl + 1, wire := some (e, l.header e type cred) }
    else s

/-- Whether a link must go down: eight failed checks one after another, or a key at its limit. -/
def Link.broken (l : Link) : Bool := l.fails ≥ 8 || l.sealed ≥ keyLimit

/-- LINK_DOWN: the link goes down, and the giving wafer takes back the grants on it (R219). -/
def execLinkDown (link : Nat) (s : State) : Res :=
  .next <|
    let l := s.linkNow link
    if !l.up || !l.broken then s
    else
      let w := link / 64
      let back := (l.grants.map (·.2)).sum
      (s.setLink link { l with up := false, grants := [] }).setWafer w { s.wafer w with budget := (s.wafer w).budget + back }

/-- LINK_UP: the link is brought up. Its numbers never restart. -/
def execLinkUp (link : Nat) (s : State) : Res :=
  .next <|
    let l := s.link link
    if l.up || l.sealed ≥ keyLimit then s else s.setLink link { l with up := true, fails := 0 }

/-- WAVELENGTH_STEER: a bank of four links moves one wavelength from the link with the fewest queued flits to the one with the most,
every 10 µs (R234). -/
def execWavelengthSteer (wafer bank : Nat) (s : State) : Res :=
  .next <|
    let x := s.wafer wafer
    if bank ≥ 12 || s.devTime wafer < mget x.steered bank 0 + 10000 then s
    else
      let ls := (List.range 4).map fun i => wafer * 64 + 4 * bank + i
      let load := fun k => (Config.linkLoad k s.tick).2 % 2 ^ 24
      let s := s.setWafer wafer { x with steered := mput x.steered bank (s.devTime wafer) }
      let s := ls.foldl (fun s k => s.setLink k { s.link k with qd := load k }) s
      match leastBy load ls, leastBy (fun k => 2 ^ 24 - load k) ls with
      | some g, some r =>
        if g = r || load r < 2 * load g || (s.link g).wl ≤ 8 then s
        else
          let s := s.setLink g { s.link g with wl := (s.link g).wl - 1 }
          s.setLink r { s.link r with wl := (s.link r).wl + 1 }
      | _, _ => s

/-- KEY_ROLLOVER_REQUEST: a key that has sealed 2^47 flits asks for a rollover. -/
def execKeyRolloverRequest (link : Nat) (s : State) : Res :=
  .next <|
    let l := s.linkNow link
    if l.asked || l.sealed < keyAsk then s else s.setLink link { l with asked := true }

/-- The first number above every one that a link has accepted. -/
def Link.rxTop (l : Link) : Nat := l.rxGot.foldl (fun m e => max m (e + 1)) l.rxSeq

/-- KEY_ROLLOVER: firmware has installed a key in the idle slot at both ends; flits from the next number N on are sealed under it, the
peer's from its own N on, and the old slot is held. It waits while the old slot of the last rollover is held. -/
def execKeyRollover (link : Nat) (s : State) : Res :=
  .next <|
    let l := s.linkNow link
    if l.held.isSome then s
    else s.setLink link { l with
      kidx := !l.kidx, held := some l.txSeq, sealed := 0, asked := false, rxN := l.rxTop + Config.peerKey s.tick }

/-- KEY_SLOT_FREE: every flit below N is acknowledged and 512 more have passed; and so for the flits that the link receives (log 16). -/
def execKeySlotFree (link : Nat) (s : State) : Res :=
  .next <|
    let l := s.linkNow link
    match l.held with
    | none => s
    | some n =>
      if n ≤ l.txAcked ∧ n + 512 ≤ l.txSeq ∧ l.rxN ≤ l.rxSeq then s.setLink link { l with held := none } else s

end Sys2Proof.Machine
end

