-- ==== Sys2Proof/Machine/Boot.lean ====
section
/-! DEFINITION. Module reset, boot, recovery and attestation (12_power.md R232, R236 to R238), pod formation (R219), the host's window
(R231) and HBM scrubbing (04_memory.md R83). -/

namespace Sys2Proof.Machine

/-! ## Reset (R232) -/

/-- Keeps the entries of a collection whose wafer is not `w`. -/
def dropWafer {α : Type} (w : Nat) (of : Nat → Nat) (m : Map α) : Map α := m.filter fun e => of e.1 != w

/-- The wafer of a node reference. -/
def NodeRef.wafer (r : NodeRef) : Nat := shWafer r.sheaf

/-- Whether a node of the wafer owns a rendezvous point; a point of a pod-wide launch belongs to no wafer. -/
def pointOf (wafer key : Nat) : Bool :=
  let owner := key / 2 ^ 28 / 4096
  owner % 2 == 0 && shWafer (owner / 2) == wafer

/-- A CRED group without a wafer. -/
def CredG.without (g : CredG) (wafer : Nat) : CredG :=
  { g with
    parts := mdel g.parts wafer
    slot := match g.slot with
      | some x => if x.1 / 64 == wafer then none else g.slot
      | none => none }

/-- MODULE_RESET: every register of the module goes to its reset value and no partition is valid; the fuses stay (log 33).
Device time goes on, and the next interval and trading period begin on its next edges (R226). -/
def execModuleReset (wafer : Nat) (s : State) : Res :=
  .next <|
    let x := s.wafer wafer
    let gone := (s.resids.filter fun e => e.2.field / 128 == wafer).map (·.1)
    { s with
      cores := dropWafer wafer nWafer s.cores
      quads := dropWafer wafer (· / 2 ^ 13) s.quads
      fields := dropWafer wafer (· / 128) s.fields
      wafers := mput s.wafers wafer { resetWafer with
        fen := x.fen, spare := x.spare, lastIntvl := (s.time - s.epoch) / 1000 * 1000, lastTrade := (s.time - s.epoch) / 100000 * 100000
        traded := (s.time - s.epoch) / 100000 * 100000 }
      ctls := dropWafer wafer (· / 64) s.ctls
      links := dropWafer wafer (· / 64) s.links
      queues := dropWafer wafer (fun k => nWafer (qName k)) s.queues
      sheaves := dropWafer wafer shWafer s.sheaves
      parts := dropWafer wafer (· / 64) s.parts
      parked := s.parked.filter fun p => nWafer p.core != wafer
      held := s.held.filter fun h => h.quad / 2 ^ 13 != wafer
      reds := dropWafer wafer (fun k => (redRef k).wafer) s.reds
      points := s.points.filter fun e => !pointOf wafer e.1
      creds := (s.creds.map fun e => (e.1, e.2.without wafer)).filter fun e => !e.2.parts.isEmpty
      resids := s.resids.filter fun e => e.2.field / 128 != wafer
      streams := s.streams.filter fun e => e.2.wafer != wafer
      walks := s.walks.filter fun k => k.field / 128 != wafer
      faults := s.faults.filter fun f => f.2.wafer != wafer
      sends := s.sends.filter fun m => nWafer m.src != wafer && nWafer m.dst != wafer
      creqs := s.creqs.filter fun c => !gone.contains c.res
      cellMem := s.cellMem.filter fun e => e.1 / 16 / 2 ^ 15 != wafer }

/-! ## Boot and recovery (R236, R237) -/

/-- KBSTAT from its fields. -/
def bstat (ver fail stage : Nat) : W64 := w64 (place ver 32 + place fail 4 + stage)

/-- KBSTAT.fail for an image: 0 when both signatures verify and the version is no lower than the floor (R236). -/
def imageCheck (wafer img : Nat) : Nat :=
  match Config.imageFault img with
  | 0 => if (Config.imageVersion img).toNat < (Config.versionFloor wafer).toNat then 3 else 0
  | 1 => 1
  | 2 => 2
  | _ => 4

/-- An image that stage `st` has verified runs: stage 1, or the runtime firmware with its version. -/
def Wafer.runImage (x : Wafer) (st img : Nat) : Wafer :=
  if st = 0 then { x with kbstat := bstat 0 0 1, images := (img, x.images.2) }
  else { x with kbstat := bstat (Config.imageVersion img).toNat 0 2, images := (x.images.1, img) }

/-- BOOT_STAGE_VERIFY: the boot ROM or stage 1 checks the next image, and runs it or enters recovery. -/
def execBootStageVerify (wafer : Nat) (s : State) : Res :=
  .next <|
    let x := s.wafer wafer
    if x.stage ≥ 2 then s
    else
      let img := Config.bootImage wafer s.tick
      let f := imageCheck wafer img
      if f = 0 then s.setWafer wafer (x.runImage x.stage img)
      else s.setWafer wafer { x with kbstat := bstat 0 f 0xF, recFrom := x.stage }

/-- A write to KRCVC (R237): go starts a load in recovery, unless one is under way. -/
def State.krcvcW (s : State) (wafer : Nat) (v : W64) : State :=
  let x := s.wafer wafer
  if x.stage = 0xF ∧ bits v 3 0 = 1 ∧ x.krcvc ≠ 1 then s.setWafer wafer { x with krcvc := 1 } else s

/-- KRCVC_GO. -/
def execKrcvcGo (wafer : Nat) (v : W64) (s : State) : Res := .next (s.krcvcW wafer v)

/-- KBSTAT.fail for the image that KRCVA and KRCVL name: an address off 4 KiB, or a length of 0 or above 16 MiB, is no image (log 15). -/
def Wafer.recoveryCheck (x : Wafer) (wafer img : Nat) : Nat :=
  if bits x.krcva 11 0 ≠ 0 ∨ x.krcvl.toNat = 0 ∨ 2 ^ 24 < x.krcvl.toNat then 4 else imageCheck wafer img

/-- RECOVERY_LOAD_DONE: the image has been read over host port 0; it runs only when every check passes. -/
def execRecoveryLoadDone (wafer : Nat) (s : State) : Res :=
  .next <|
    let x := s.wafer wafer
    if x.stage ≠ 0xF ∨ x.krcvc ≠ 1 then s
    else
      let img := Config.hostImage s.tick x.krcva.toNat x.krcvl.toNat
      let f := x.recoveryCheck wafer img
      if f = 0 then s.setWafer wafer { x.runImage x.recFrom img with krcvc := 2 }
      else s.setWafer wafer { x with kbstat := bstat 0 f 0xF, krcvc := 3 }

/-! ## Attestation (R238) -/

/-- Byte i of an attestation report, from its registers, images and fuses (bytes 32 to 175). -/
def State.reportAt (s : State) (w i : Nat) : Byte :=
  let reg := fun (v : W64) (at_ : Nat) => BitVec.ofNat 8 (v.toNat >>> (8 * (i - at_)))
  let images := (s.wafer w).images
  if i < 40 then reg (s.waferReg w .kwid) 32
  else if i < 48 then reg (s.waferReg w .kfenl) 40
  else if i < 56 then reg (s.waferReg w .kfenh) 48
  else if i < 72 then Config.serial w (i - 56)
  else if i < 120 then Config.imageHash images.1 (i - 72)
  else if i < 168 then Config.imageHash images.2 (i - 120)
  else reg (s.waferReg w .kbstat) 168

/-- The four-byte fields that RFC 8554 fixes in the HSS signature of R238, by offset (log 15): one signed public key, and the types of R236's
parameter set, LMOTS_SHA256_N32_W4 at the head of each LMOTS signature and LMS_SHA256_M32_H20 behind it, and both in the public key. -/
def hssFields : List (Nat × Nat) := [(0, 1), (8, 3), (2188, 8), (2832, 8), (2836, 3), (2892, 3), (5072, 8)]

/-- Byte j of the HSS signature, of which b is the part that no standard fixes; a leaf number, at 4 and 2,888, is below 2^20. -/
def hssByte (j : Nat) (b : Byte) : Byte :=
  match hssFields.find? fun f => f.1 ≤ j && j < f.1 + 4 with
  | some (o, v) => BitVec.ofNat 8 (v >>> (8 * (3 - (j - o))))
  | none => if j = 4 ∨ j = 2888 then 0 else if j = 5 ∨ j = 2889 then b &&& 0x0F else b

/-- The bytes after the nonce of a wafer's n-th report, in the buffer at `pa`: the report, both signatures over the first 176 bytes of
the buffer, and zeros. -/
def State.report (s : State) (w n pa : Nat) : List Byte :=
  let body := (List.range 144).map fun i => s.reportAt w (32 + i)
  let sg := Config.signature w n ((List.range 32).map (fun i => s.byteAt (pa + i)) ++ body)
  body ++ (List.range 96).map sg ++ (List.range 5716).map (fun j => hssByte j (sg (96 + j))) ++ List.replicate 2204 0

/-- ATTEST_REPORT_DONE: the report is written after the nonce, and then KATN; with no signatures left KATN alone. -/
def execAttestReportDone (wafer : Nat) (s : State) : Res :=
  .next <|
    let x := s.wafer wafer
    if bits x.katn 47 13 = 0 then s
    else if !Config.signaturesLeft wafer x.reports then s.setWafer wafer { x with katn := 1 }
    else
      let pa := waferPa wafer (bits x.katn 47 13 * 2 ^ 13)
      let bs := (s.report wafer x.reports pa).map fun b => (b, false)
      let s := s.write (pa + 32) bs ⟨3, 0, wafer * 2 ^ 15, false, 0⟩
      s.setWafer wafer { s.wafer wafer with katn := 0, reports := x.reports + 1 }

/-! ## Pod formation (R219, R225; 01_machine.md R27) -/

/-- A wafer's first budget: floor(G / podsize), and the remainder on wafer 0. -/
def firstBudget (size budget w : Nat) : Nat := budget / size + (if w = 0 then budget % size else 0)

/-- A wafer as firmware forms it into a pod. -/
def Wafer.form (x : Wafer) (size budget w : Nat) (red : Bool) : Wafer :=
  { x with
    index := w, podsize := size, budget := firstBudget size budget w, switchRed := red, skew := 0, gain := 0, demand := 0
    given := 0, drawn := 0, intvls := 0, told := (0, 0), traded := 0, lastIntvl := 0, lastTrade := 0, steered := [] }

/-- POD_FORMATION: firmware forms a pod of `size` wafers with budget G, sets device time to 0, and the first interval begins. -/
def execPodFormation (size budget : Nat) (red : Bool) (s : State) : Res :=
  .next <|
    if size = 0 ∨ 32 < size then s
    else
      let was := s
      let s := { s with
        epoch := s.time, podBudget := budget
        cores := s.cores.map fun e => (e.1, { e.2 with lastTime := 0 })
        links := s.links.map fun e => (e.1, { e.2 with grants := [] }) }
      let s := (List.range size).foldl (fun s w => s.setWafer w ((s.wafer w).form size budget w red)) s
      let s := (List.range 32).foldl (fun s w => was.rebaseAll s w) s
      (List.range size).foldl (fun s w => s.beginInterval w) s

/-! ## The host's window (R231, R237) -/

/-- A write to a recovery register, in recovery and on port 0 (R237). -/
def State.recoveryWrite (s : State) (wafer port off : Nat) (v : W64) : State :=
  let x := s.wafer wafer
  if port ≠ 0 ∨ x.stage ≠ 0xF then s
  else if off = 0x100 then s.setWafer wafer { x with krcva := v }
  else if off = 0x108 then s.setWafer wafer { x with krcvl := w64 (bits v 31 0) }
  else if off = 0x110 then s.krcvcW wafer v
  else s

/-- HOST_WINDOW_WRITE: an aligned 8-byte write of the host through a port's window; any other offset ignores it. -/
def execHostWindowWrite (wafer port off : Nat) (v : W64) (s : State) : Res :=
  .next <| match windowReg off with
    | some .ksvc => s.ksvc wafer v none
    | some r => s.waferWrite wafer r v
    | none => s.recoveryWrite wafer port off v

/-! ## Scrubbing (R83) -/

/-- HBM_SCRUB: the controller corrects and counts correctable errors of idle HBM; a word whose error it cannot correct is poisoned. -/
def execHbmScrub (ctl : Nat) (s : State) : Res :=
  .next <|
    let (n, bad) := Config.scrub s.tick
    let s := s.setCtl ctl { s.ctl ctl with corr := (s.ctl ctl).corr + n }
    match bad with
    | none => s
    | some o =>
      let pa := ctl / 64 * 2 ^ 48 + 0x100000000000 + ctl % 64 * 0x1000000000 + o % 0xC00000000 / 8 * 8
      s.poisonWord pa

end Sys2Proof.Machine
end

