-- ==== Sys2Proof/Machine/Branch.lean ====
section
/-! DEFINITION. Branches and jumps: majors 0x12, 0x20, 0x21 and 0x22 (20_ref_a_c.md R315; 21_ref_d_l.md R346). A fetch
that fails at the target is a fault of the fetch port, before the target instruction. -/

namespace Sys2Proof.Machine

/-- A conditional branch on two registers (R315): both are read blocking, never trapping. -/
def State.branch (s : State) (a b : Reg) (off : BitVec 12) (cond : W64 → W64 → Bool) : State :=
  s.issue [(a, false), (b, false)] 0 fun c =>
    if cond (c.get a) (c.get b) then s.jump c (c.pc + wordOff off) else s.finish c

/-- A branch on a presence bit, which never waits (R315). -/
def State.presenceBranch (s : State) (taken : Bool) (off : BitVec 12) : State :=
  if taken then s.jump s.me (s.me.pc + wordOff off) else s.finish s.me

/-- B.EQ. -/
def execBEq (a b : Reg) (off : BitVec 12) (s : State) : Res := .next (s.branch a b off fun x y => x == y)

/-- B.NE. -/
def execBNe (a b : Reg) (off : BitVec 12) (s : State) : Res := .next (s.branch a b off fun x y => x != y)

/-- B.LT. -/
def execBLt (a b : Reg) (off : BitVec 12) (s : State) : Res := .next (s.branch a b off fun x y => ltS x y)

/-- B.GE. -/
def execBGe (a b : Reg) (off : BitVec 12) (s : State) : Res := .next (s.branch a b off fun x y => !ltS x y)

/-- B.LTN. -/
def execBLtn (a b : Reg) (off : BitVec 12) (s : State) : Res := .next (s.branch a b off fun x y => ltN x y)

/-- B.GEN. -/
def execBGen (a b : Reg) (off : BitVec 12) (s : State) : Res := .next (s.branch a b off fun x y => !ltN x y)

/-- B.FULL. -/
def execBFull (a : Reg) (off : BitVec 12) (s : State) : Res := .next (s.presenceBranch (s.me.isFull a) off)

/-- B.EMPTY. -/
def execBEmpty (a : Reg) (off : BitVec 12) (s : State) : Res := .next (s.presenceBranch (!s.me.isFull a) off)

/-- JMP (R346). -/
def execJmp (off : BitVec 26) (s : State) : Res := .next (s.jump s.me (s.me.pc + wordOff off))

/-- JMPL (R346): x31 takes the return address. -/
def execJmpl (off : BitVec 26) (s : State) : Res :=
  .next <| s.issue [] 31 fun c => s.jump (c.put 31 (c.pc + 4)) (c.pc + wordOff off)

/-- JMPR (R346): x[a] is read before x[d] is written; a misaligned target traps with nothing written. -/
def execJmpr (d a : Reg) (wa : Bool) (imm : BitVec 15) (s : State) : Res :=
  .next <| s.issue [(a, wa)] d fun c =>
    let t := c.get a + wordOff imm
    if bits t 1 0 != 0 then s.trap causeMisaligned t else s.jump (c.put d (c.pc + 4)) t

end Sys2Proof.Machine
end

