-- ==== Sys2Proof/Machine/Cred.lean ====
section
/-! DEFINITION. What comes after the contributions to a CRED group (20_ref_a_c.md R328 to R330; 07_networks.md R155, R156): its home
slot, the copies of the sum to the wafers, and the switch's result flits. -/

namespace Sys2Proof.Machine

/-! ## Results of CRED (R329, R330) -/

/-- The bytes of a destination as they stand. -/
def State.readDst (s : State) (w asid : Nat) (va : W64) (n : Nat) : Nat → List (Byte × Bool)
  | 0 => []
  | k + 1 =>
    if n = 0 then []
    else
      let len := pieceLen va n
      (match s.hwVa w asid va len 0 with
        | .ok pa => s.readRun pa len
        | .error _ => List.replicate len (0, true)) ++ s.readDst w asid (va + w64 len) (n - len) k

/-- The sum that the switch returned, element by element from the flit of its offset (R330); the elements of `marks` are poisoned. -/
def flitBytes (n : Nat) (got : Map (List W32)) (marks : List Nat) : List (Byte × Bool) :=
  (List.range n).flatMap fun i => natRun 4 (nth (mget got (i / 56 * 56) []) (i % 56) 0).toNat (shas marks i)

/-- The fault of a copy of a sum at byte `off`. -/
def credFault (k w cls agent : Nat) (p : CredW) (n off : Nat) : GenFault :=
  { owner := .cred k w, ref := none, wafer := w, cls := cls, agent := agent, gen := 0, stream := 1,
    va := if off < n then p.dst + w64 off else p.done + w64 (off - n), ty := 1, acc := 1, ctrs := [] }

/-- Whose addresses the copy translates: the wafer's partition, as a stream of its own through the cache and walker of field 0 (DESIGN CHOICE,
log 67). -/
def credWho (k w asid : Nat) : Who := ⟨8 * (2 ^ 40 + k * 64 + w) + 5, w, fieldKey w 0, none, asid, true⟩

/-- The next piece of a wafer's copy of `bs`, and then of its done word, a release at pod scope by the edge fabric or port
that writes it (R328). -/
def State.credCopy (s : State) (k w cls agent : Nat) (p : CredW) (bs : List (Byte × Bool)) : State :=
  let put := fun (s : State) (d : Drain) => s.setCredW k w { p with drain := d }
  let i : WInfo := ⟨3, cls, agent, false, 0⟩
  if p.drain.put < bs.length then
    s.drainStep put (credWho k w p.asid) (credFault k w cls agent p bs.length) p.dst bs i none p.drain
  else if p.drain.put < bs.length + 8 then
    s.drainStep (fun s d => put s { d with put := d.put + bs.length }) (credWho k w p.asid)
      (fun o => credFault k w cls agent p bs.length (o + bs.length)) p.done (natRun 8 (p.released + 1) false) i
      (some ⟨.outside (agent / 2 ^ 15), 4⟩) { p.drain with put := p.drain.put - bs.length }
  else s.setCredW k w { p with released := p.released + 1, drain := resetDrain }

/-- Whether a node that waits for an edge slot, or a CRED group that does, was accepted before number `seq` (R329; 10_scheduling.md R195:
the slot is granted in order of acceptance). -/
def State.slotClaimed (s : State) (ck sl seq : Nat) : Bool :=
  s.sheaves.any (fun e => e.2.seq < seq && (e.2.refs e.1).any fun r =>
      s.isEdge r && s.eligible r && (s.edgeSlots r).contains (ck, sl))
    || s.creds.any fun e => !e.2.bound && e.2.slot == some (ck, sl) && e.2.seq < seq

/-- Binds the home slot of a placement-0 group when it is free and no earlier waiter is due it (R329). -/
def State.credBind (s : State) (k : Nat) (g : CredG) : State :=
  match g.slot, mfind g.parts g.home with
  | some (ck, sl), some p =>
    let e := s.slotAt (ck / 64) (ck % 64) sl
    if e.bound || e.closing || e.held.isSome || e.cred.isSome || s.slotClaimed ck sl g.seq then s
    else
      let c := s.ctl ck
      let slot : EdgeSlot := {
        resetSlot with bound := true, kind := 2, asid := p.asid, wlen := (g.bytes + 4095) / 4096 - 1, acc := p.dst, cred := some k }
      (s.setCtl ck { c with slots := mput c.slots sl slot }).setCred k { g with bound := true }
  | _, _ => s

/-- The wafers whose copy of the round is due: at the memory edge once every wafer has contributed; from the switch once every flit
of this wafer has come back. -/
def CredG.due (g : CredG) : List (Nat × CredW) :=
  if g.placement = 0 then
    g.parts.filter fun p => p.2.sent == p.2.released + 1 && g.parts.all fun x => x.2.sent ≥ p.2.sent
  else g.parts.filter fun p => p.2.sent == p.2.released + 1 && p.2.flits.isEmpty

/-- CRED_DISTRIBUTE: a group's home slot is bound, or one wafer's copy of the round's sum goes on (R329, R330), in no fixed order
among the wafers. -/
def execCredDistribute (grp : Nat) (s : State) : Res :=
  .next <| match mfind s.creds grp with
    | none => s
    | some g =>
      if g.placement = 0 && !g.bound then s.credBind grp g
      else
        let due := g.due
        let pick := (Config.unspecified s.tick).toNat % (due.length + 1)
        match due[pick]? with
        | none => s
        | some (w, p) =>
          if g.placement = 1 then
            let link := (Config.unspecified (s.tick + 1)).toNat % 48
            s.credCopy grp w 7 (w * 2 ^ 15 + link) p (flitBytes (g.count + 1) p.got (mget g.marks (p.released + 1) []))
          else
            let h := mget g.parts g.home resetCredW
            let m := (g.slot.map (·.1 % 64)).getD 0
            let bs := if w = g.home then [] else s.readDst g.home h.asid h.dst g.bytes (g.bytes / 4096 + 2)
            s.credCopy grp w 5 (g.home * 2 ^ 15 + m) p bs

/-- Whether a result flit names an outstanding flit of the wafer (R156). -/
def CredG.awaits (g : CredG) (wafer gid round off : Nat) : Bool :=
  g.gid == gid && g.placement == 1 && (match mfind g.parts wafer with
    | some p => p.flits.any fun f => f.round == round && f.off == off
    | none => false)

/-- CRED_RESULT_FLIT: a result flit of the switch reaches a wafer's Fareno port, the link number taken modulo 48; one that names no
outstanding flit is discarded and counted by the port (R156, R330; log 16). -/
def execCredResultFlit (wafer k : Nat) (s : State) : Res :=
  .next <|
    let (gid, round, off, els) := Config.resultFlit (s.tick + k)
    match s.creds.find? fun e => e.2.awaits wafer gid round off with
    | some (key, g) =>
      let p := mget g.parts wafer resetCredW
      s.setCredW key wafer { p with
        flits := p.flits.filter (fun f => !(f.round == round && f.off == off)), got := mput p.got off (flitElems els 0) }
    | none =>
      let l := wafer * 64 + k % 48
      s.setLink l { s.link l with strayed := (s.link l).strayed + 1 }

end Sys2Proof.Machine
end

