-- ==== Sys2Proof/Machine/Dispatch.lean ====
section
/-! DEFINITION. The meaning of every instruction and machine event, one arm per row of the opcode table. -/

namespace Sys2Proof.Machine

/-- What instruction `i` does in state `s`. -/
def exec (i : Instr) (s : State) : Host.Outcome State Fault Refusal :=
  match i with
  | .add d a b wa wb => Sys2Proof.Machine.execAdd d a b wa wb s
  | .addi d a wa imm => Sys2Proof.Machine.execAddi d a wa imm s
  | .sub d a b wa wb => Sys2Proof.Machine.execSub d a b wa wb s
  | .and d a b wa wb => Sys2Proof.Machine.execAnd d a b wa wb s
  | .andi d a wa imm => Sys2Proof.Machine.execAndi d a wa imm s
  | .or d a b wa wb => Sys2Proof.Machine.execOr d a b wa wb s
  | .ori d a wa imm => Sys2Proof.Machine.execOri d a wa imm s
  | .xor d a b wa wb => Sys2Proof.Machine.execXor d a b wa wb s
  | .xori d a wa imm => Sys2Proof.Machine.execXori d a wa imm s
  | .shl d a b wa wb => Sys2Proof.Machine.execShl d a b wa wb s
  | .shli d a wa imm => Sys2Proof.Machine.execShli d a wa imm s
  | .shr d a b wa wb => Sys2Proof.Machine.execShr d a b wa wb s
  | .shri d a wa imm => Sys2Proof.Machine.execShri d a wa imm s
  | .sra d a b wa wb => Sys2Proof.Machine.execSra d a b wa wb s
  | .srai d a wa imm => Sys2Proof.Machine.execSrai d a wa imm s
  | .rot d a b wa wb => Sys2Proof.Machine.execRot d a b wa wb s
  | .slt d a b wa wb => Sys2Proof.Machine.execSlt d a b wa wb s
  | .sltn d a b wa wb => Sys2Proof.Machine.execSltn d a b wa wb s
  | .slti d a wa imm => Sys2Proof.Machine.execSlti d a wa imm s
  | .min d a b wa wb => Sys2Proof.Machine.execMin d a b wa wb s
  | .minn d a b wa wb => Sys2Proof.Machine.execMinn d a b wa wb s
  | .max d a b wa wb => Sys2Proof.Machine.execMax d a b wa wb s
  | .maxn d a b wa wb => Sys2Proof.Machine.execMaxn d a b wa wb s
  | .clz d a wa => Sys2Proof.Machine.execClz d a wa s
  | .ctz d a wa => Sys2Proof.Machine.execCtz d a wa s
  | .popc d a wa => Sys2Proof.Machine.execPopc d a wa s
  | .bext d a b wa wb => Sys2Proof.Machine.execBext d a b wa wb s
  | .bins d a b wa wb => Sys2Proof.Machine.execBins d a b wa wb s
  | .mul d a b wa wb => Sys2Proof.Machine.execMul d a b wa wb s
  | .mulh d a b wa wb => Sys2Proof.Machine.execMulh d a b wa wb s
  | .mulhn d a b wa wb => Sys2Proof.Machine.execMulhn d a b wa wb s
  | .div d a b wa wb => Sys2Proof.Machine.execDiv d a b wa wb s
  | .divn d a b wa wb => Sys2Proof.Machine.execDivn d a b wa wb s
  | .mod d a b wa wb => Sys2Proof.Machine.execMod d a b wa wb s
  | .modn d a b wa wb => Sys2Proof.Machine.execModn d a b wa wb s
  | .amoAdd d a b wa wb wide sc => Sys2Proof.Machine.execAmoAdd d a b wa wb wide sc s
  | .amoAnd d a b wa wb wide sc => Sys2Proof.Machine.execAmoAnd d a b wa wb wide sc s
  | .amoOr d a b wa wb wide sc => Sys2Proof.Machine.execAmoOr d a b wa wb wide sc s
  | .amoXor d a b wa wb wide sc => Sys2Proof.Machine.execAmoXor d a b wa wb wide sc s
  | .amoMin d a b wa wb wide sc => Sys2Proof.Machine.execAmoMin d a b wa wb wide sc s
  | .amoMax d a b wa wb wide sc => Sys2Proof.Machine.execAmoMax d a b wa wb wide sc s
  | .amoMinn d a b wa wb wide sc => Sys2Proof.Machine.execAmoMinn d a b wa wb wide sc s
  | .amoMaxn d a b wa wb wide sc => Sys2Proof.Machine.execAmoMaxn d a b wa wb wide sc s
  | .amoSwp d a b wa wb wide sc => Sys2Proof.Machine.execAmoSwp d a b wa wb wide sc s
  | .amoCas d a b wa wb wide sc => Sys2Proof.Machine.execAmoCas d a b wa wb wide sc s
  | .lhi d a wa imm => Sys2Proof.Machine.execLhi d a wa imm s
  | .pcrel d imm => Sys2Proof.Machine.execPcrel d imm s
  | .jmpr d a wa imm => Sys2Proof.Machine.execJmpr d a wa imm s
  | .ld t a wa sz sc ord imm => Sys2Proof.Machine.execLd t a wa sz sc ord imm s
  | .st t a wa sz sc ord imm => Sys2Proof.Machine.execSt t a wa sz sc ord imm s
  | .sta t a wa sz sc imm => Sys2Proof.Machine.execSta t a wa sz sc imm s
  | .ldfe t a wa imm => Sys2Proof.Machine.execLdfe t a wa imm s
  | .stfe t a wa imm => Sys2Proof.Machine.execStfe t a wa imm s
  | .bEq a b off => Sys2Proof.Machine.execBEq a b off s
  | .bNe a b off => Sys2Proof.Machine.execBNe a b off s
  | .bLt a b off => Sys2Proof.Machine.execBLt a b off s
  | .bGe a b off => Sys2Proof.Machine.execBGe a b off s
  | .bLtn a b off => Sys2Proof.Machine.execBLtn a b off s
  | .bGen a b off => Sys2Proof.Machine.execBGen a b off s
  | .bFull a off => Sys2Proof.Machine.execBFull a off s
  | .bEmpty a off => Sys2Proof.Machine.execBEmpty a off s
  | .jmp off => Sys2Proof.Machine.execJmp off s
  | .jmpl off => Sys2Proof.Machine.execJmpl off s
  | .vadd a b wa wb fmt flg => Sys2Proof.Machine.execVadd a b wa wb fmt flg s
  | .vsub a b wa wb fmt flg => Sys2Proof.Machine.execVsub a b wa wb fmt flg s
  | .vmul a b wa wb fmt flg => Sys2Proof.Machine.execVmul a b wa wb fmt flg s
  | .vfma a b wa wb fmt flg => Sys2Proof.Machine.execVfma a b wa wb fmt flg s
  | .vmin a b wa wb fmt => Sys2Proof.Machine.execVmin a b wa wb fmt s
  | .vmax a b wa wb fmt => Sys2Proof.Machine.execVmax a b wa wb fmt s
  | .vabs a b wa wb fmt => Sys2Proof.Machine.execVabs a b wa wb fmt s
  | .vneg a b wa wb fmt => Sys2Proof.Machine.execVneg a b wa wb fmt s
  | .vrcp a b wa wb fmt flg => Sys2Proof.Machine.execVrcp a b wa wb fmt flg s
  | .vrsq a b wa wb fmt flg => Sys2Proof.Machine.execVrsq a b wa wb fmt flg s
  | .vexp a b wa wb fmt flg => Sys2Proof.Machine.execVexp a b wa wb fmt flg s
  | .vlog2 a b wa wb fmt flg => Sys2Proof.Machine.execVlog2 a b wa wb fmt flg s
  | .vtanh a b wa wb fmt flg => Sys2Proof.Machine.execVtanh a b wa wb fmt flg s
  | .vcvt a b wa wb fmt flg => Sys2Proof.Machine.execVcvt a b wa wb fmt flg s
  | .vcvtS a b wa wb fmt flg => Sys2Proof.Machine.execVcvtS a b wa wb fmt flg s
  | .vcmp a b wa wb fmt flg => Sys2Proof.Machine.execVcmp a b wa wb fmt flg s
  | .vsel a b wa wb fmt => Sys2Proof.Machine.execVsel a b wa wb fmt s
  | .vshuf a b wa wb fmt => Sys2Proof.Machine.execVshuf a b wa wb fmt s
  | .vfill a b wa wb fmt => Sys2Proof.Machine.execVfill a b wa wb fmt s
  | .vred a b wa wb fmt => Sys2Proof.Machine.execVred a b wa wb fmt s
  | .vscan a b wa wb fmt => Sys2Proof.Machine.execVscan a b wa wb fmt s
  | .vdot a b wa wb fmt => Sys2Proof.Machine.execVdot a b wa wb fmt s
  | .vectorChunk core => Sys2Proof.Machine.execVectorChunk core s
  | .krd d kreg => Sys2Proof.Machine.execKrd d kreg s
  | .kwr a kreg => Sys2Proof.Machine.execKwr a kreg s
  | .nop => Sys2Proof.Machine.execNop s
  | .halt => Sys2Proof.Machine.execHalt s
  | .sys svc => Sys2Proof.Machine.execSys svc s
  | .tret => Sys2Proof.Machine.execTret s
  | .isync => Sys2Proof.Machine.execIsync s
  | .fenceAcq sc => Sys2Proof.Machine.execFenceAcq sc s
  | .fenceRel sc => Sys2Proof.Machine.execFenceRel sc s
  | .time d => Sys2Proof.Machine.execTime d s
  | .timedgo a => Sys2Proof.Machine.execTimedgo a s
  | .timedgoRelease core => Sys2Proof.Machine.execTimedgoRelease core s
  | .vbusy d => Sys2Proof.Machine.execVbusy d s
  | .vfence => Sys2Proof.Machine.execVfence s
  | .waitf d a b => Sys2Proof.Machine.execWaitf d a b s
  | .waitpred d => Sys2Proof.Machine.execWaitpred d s
  | .hintsucc => Sys2Proof.Machine.execHintsucc s
  | .kend => Sys2Proof.Machine.execKend s
  | .spawn a => Sys2Proof.Machine.execSpawn a s
  | .retire => Sys2Proof.Machine.execRetire s
  | .join d a => Sys2Proof.Machine.execJoin d a s
  | .launch d a b => Sys2Proof.Machine.execLaunch d a b s
  | .enq a b sc => Sys2Proof.Machine.execEnq a b sc s
  | .amsg d a b => Sys2Proof.Machine.execAmsg d a b s
  | .marke a => Sys2Proof.Machine.execMarke a s
  | .rmov a b n => Sys2Proof.Machine.execRmov a b n s
  | .fnew d => Sys2Proof.Machine.execFnew d s
  | .fset a b => Sys2Proof.Machine.execFset a b s
  | .fsetF a b => Sys2Proof.Machine.execFsetF a b s
  | .fget d a => Sys2Proof.Machine.execFget d a s
  | .fwait d a => Sys2Proof.Machine.execFwait d a s
  | .ffree a => Sys2Proof.Machine.execFfree a s
  | .binit a b => Sys2Proof.Machine.execBinit a b s
  | .arrive d a => Sys2Proof.Machine.execArrive d a s
  | .bwait d a b => Sys2Proof.Machine.execBwait d a b s
  | .waitLimitTrap core => Sys2Proof.Machine.execWaitLimitTrap core s
  | .producerArrive core id => Sys2Proof.Machine.execProducerArrive core id s
  | .rmovArrive src dst => Sys2Proof.Machine.execRmovArrive src dst s
  | .storeAck core id => Sys2Proof.Machine.execStoreAck core id s
  | .homeAccess core id => Sys2Proof.Machine.execHomeAccess core id s
  | .remoteWriteUnbacked core id => Sys2Proof.Machine.execRemoteWriteUnbacked core id s
  | .remoteAccessRefused core id => Sys2Proof.Machine.execRemoteAccessRefused core id s
  | .icacheFill quad => Sys2Proof.Machine.execIcacheFill quad s
  | .translationWalk k => Sys2Proof.Machine.execTranslationWalk k s
  | .strandStart core => Sys2Proof.Machine.execStrandStart core s
  | .queueRefill q => Sys2Proof.Machine.execQueueRefill q s
  | .heldRecordPush k => Sys2Proof.Machine.execHeldRecordPush k s
  | .recordPromote field => Sys2Proof.Machine.execRecordPromote field s
  | .launchDoorbell wafer v => Sys2Proof.Machine.execLaunchDoorbell wafer v s
  | .launchEntryTake wafer => Sys2Proof.Machine.execLaunchEntryTake wafer s
  | .podSheafAccept wafer => Sys2Proof.Machine.execPodSheafAccept wafer s
  | .nodePlace sheaf node => Sys2Proof.Machine.execNodePlace sheaf node s
  | .nodeReserve sheaf node => Sys2Proof.Machine.execNodeReserve sheaf node s
  | .residencyPlace sheaf node => Sys2Proof.Machine.execResidencyPlace sheaf node s
  | .edgeGraphBind sheaf node => Sys2Proof.Machine.execEdgeGraphBind sheaf node s
  | .groupBindingPlace sheaf node => Sys2Proof.Machine.execGroupBindingPlace sheaf node s
  | .nodeStart sheaf node => Sys2Proof.Machine.execNodeStart sheaf node s
  | .nodeComplete sheaf node => Sys2Proof.Machine.execNodeComplete sheaf node s
  | .sheafComplete sheaf => Sys2Proof.Machine.execSheafComplete sheaf s
  | .viewEosSend sheaf => Sys2Proof.Machine.execViewEosSend sheaf s
  | .amsgDeliver field => Sys2Proof.Machine.execAmsgDeliver field s
  | .phaseWake sheaf phase => Sys2Proof.Machine.execPhaseWake sheaf phase s
  | .trunkSleep ctl trunk => Sys2Proof.Machine.execTrunkSleep ctl trunk s
  | .mma c => Sys2Proof.Machine.execMma c s
  | .mmaStep core => Sys2Proof.Machine.execMmaStep core s
  | .ringTileArrive core => Sys2Proof.Machine.execRingTileArrive core s
  | .mld c => Sys2Proof.Machine.execMld c s
  | .mst c => Sys2Proof.Machine.execMst c s
  | .mcvt c => Sys2Proof.Machine.execMcvt c s
  | .mzero c => Sys2Proof.Machine.execMzero c s
  | .mring c => Sys2Proof.Machine.execMring c s
  | .xcopy c => Sys2Proof.Machine.execXcopy c s
  | .xfill c => Sys2Proof.Machine.execXfill c s
  | .xgath c => Sys2Proof.Machine.execXgath c s
  | .xscat c => Sys2Proof.Machine.execXscat c s
  | .xswz c => Sys2Proof.Machine.execXswz c s
  | .ltx c => Sys2Proof.Machine.execLtx c s
  | .lrx c => Sys2Proof.Machine.execLrx c s
  | .lgrpEnrol c => Sys2Proof.Machine.execLgrpEnrol c s
  | .lgrpDissolve c => Sys2Proof.Machine.execLgrpDissolve c s
  | .lgrpRd c => Sys2Proof.Machine.execLgrpRd c s
  | .ered c => Sys2Proof.Machine.execEred c s
  | .cred c => Sys2Proof.Machine.execCred c s
  | .gbind c => Sys2Proof.Machine.execGbind c s
  | .gacc c => Sys2Proof.Machine.execGacc c s
  | .gunbind c => Sys2Proof.Machine.execGunbind c s
  | .blockSend group => Sys2Proof.Machine.execBlockSend group s
  | .demandUpdate quad group => Sys2Proof.Machine.execDemandUpdate quad group s
  | .slotFill quad group ok => Sys2Proof.Machine.execSlotFill quad group ok s
  | .blockResend group => Sys2Proof.Machine.execBlockResend group s
  | .groupStall group => Sys2Proof.Machine.execGroupStall group s
  | .ringHandoff quad => Sys2Proof.Machine.execRingHandoff quad s
  | .krxfWrite core v => Sys2Proof.Machine.execKrxfWrite core v s
  | .redRouterAdd grp node => Sys2Proof.Machine.execRedRouterAdd grp node s
  | .credDistribute grp => Sys2Proof.Machine.execCredDistribute grp s
  | .credResultFlit wafer k => Sys2Proof.Machine.execCredResultFlit wafer k s
  | .viewAccess ctl slot => Sys2Proof.Machine.execViewAccess ctl slot s
  | .accumulateWrite ctl slot => Sys2Proof.Machine.execAccumulateWrite ctl slot s
  | .configWordLoad res => Sys2Proof.Machine.execConfigWordLoad res s
  | .configStep res => Sys2Proof.Machine.execConfigStep res s
  | .requestToken res chan => Sys2Proof.Machine.execRequestToken res chan s
  | .calleeRest res => Sys2Proof.Machine.execCalleeRest res s
  | .creqPlace k => Sys2Proof.Machine.execCreqPlace k s
  | .plut w => Sys2Proof.Machine.execPlut w s
  | .pag w => Sys2Proof.Machine.execPag w s
  | .padd w => Sys2Proof.Machine.execPadd w s
  | .psub w => Sys2Proof.Machine.execPsub w s
  | .pmul w => Sys2Proof.Machine.execPmul w s
  | .pfma w => Sys2Proof.Machine.execPfma w s
  | .pmin w => Sys2Proof.Machine.execPmin w s
  | .pmax w => Sys2Proof.Machine.execPmax w s
  | .pcmp w => Sys2Proof.Machine.execPcmp w s
  | .plog w => Sys2Proof.Machine.execPlog w s
  | .pshf w => Sys2Proof.Machine.execPshf w s
  | .pcvt w => Sys2Proof.Machine.execPcvt w s
  | .pacc w => Sys2Proof.Machine.execPacc w s
  | .pld w => Sys2Proof.Machine.execPld w s
  | .pst w => Sys2Proof.Machine.execPst w s
  | .ccall w => Sys2Proof.Machine.execCcall w s
  | .cret w => Sys2Proof.Machine.execCret w s
  | .creq w => Sys2Proof.Machine.execCreq w s
  | .routerPass w => Sys2Proof.Machine.execRouterPass w s
  | .steer w => Sys2Proof.Machine.execSteer w s
  | .carry w => Sys2Proof.Machine.execCarry w s
  | .invar w => Sys2Proof.Machine.execInvar w s
  | .merge w => Sys2Proof.Machine.execMerge w s
  | .kpresWrite core v => Sys2Proof.Machine.execKpresWrite core v s
  | .krseedWrite core v => Sys2Proof.Machine.execKrseedWrite core v s
  | .kqseedWrite core v => Sys2Proof.Machine.execKqseedWrite core v s
  | .kxinvPage wafer v => Sys2Proof.Machine.execKxinvPage wafer v s
  | .kxinvAsid wafer v => Sys2Proof.Machine.execKxinvAsid wafer v s
  | .kxinvAll wafer v => Sys2Proof.Machine.execKxinvAll wafer v s
  | .ksvcKill wafer v => Sys2Proof.Machine.execKsvcKill wafer v s
  | .ksvcRetry wafer v => Sys2Proof.Machine.execKsvcRetry wafer v s
  | .ksvcContinue wafer v => Sys2Proof.Machine.execKsvcContinue wafer v s
  | .ksvcPreempt wafer v => Sys2Proof.Machine.execKsvcPreempt wafer v s
  | .ksvcRestore wafer v => Sys2Proof.Machine.execKsvcRestore wafer v s
  | .ksvcCheckpoint wafer v => Sys2Proof.Machine.execKsvcCheckpoint wafer v s
  | .ksvcKillAll wafer v => Sys2Proof.Machine.execKsvcKillAll wafer v s
  | .preemptQuiesce wafer part => Sys2Proof.Machine.execPreemptQuiesce wafer part s
  | .awnReceive wafer unit => Sys2Proof.Machine.execAwnReceive wafer unit s
  | .checkpointSave wafer => Sys2Proof.Machine.execCheckpointSave wafer s
  | .watchdogExpire wafer => Sys2Proof.Machine.execWatchdogExpire wafer s
  | .eventPost wafer k => Sys2Proof.Machine.execEventPost wafer k s
  | .grainInterval wafer => Sys2Proof.Machine.execGrainInterval wafer s
  | .tradingPeriod wafer => Sys2Proof.Machine.execTradingPeriod wafer s
  | .grantReceive wafer => Sys2Proof.Machine.execGrantReceive wafer s
  | .throttleEntry wafer src => Sys2Proof.Machine.execThrottleEntry wafer src s
  | .throttleExit wafer => Sys2Proof.Machine.execThrottleExit wafer s
  | .kfclkWrite core v => Sys2Proof.Machine.execKfclkWrite core v s
  | .hopComplete field => Sys2Proof.Machine.execHopComplete field s
  | .hopAbandon field => Sys2Proof.Machine.execHopAbandon field s
  | .hopRetry field => Sys2Proof.Machine.execHopRetry field s
  | .fieldHot field => Sys2Proof.Machine.execFieldHot field s
  | .fieldCool field => Sys2Proof.Machine.execFieldCool field s
  | .nodeMigrate sheaf node => Sys2Proof.Machine.execNodeMigrate sheaf node s
  | .budgetDecay wafer => Sys2Proof.Machine.execBudgetDecay wafer s
  | .timeFlit wafer => Sys2Proof.Machine.execTimeFlit wafer s
  | .flitReceive link => Sys2Proof.Machine.execFlitReceive link s
  | .flitReplay link => Sys2Proof.Machine.execFlitReplay link s
  | .linkDown link => Sys2Proof.Machine.execLinkDown link s
  | .wavelengthSteer wafer bank => Sys2Proof.Machine.execWavelengthSteer wafer bank s
  | .keyRolloverRequest link => Sys2Proof.Machine.execKeyRolloverRequest link s
  | .keyRollover link => Sys2Proof.Machine.execKeyRollover link s
  | .keySlotFree link => Sys2Proof.Machine.execKeySlotFree link s
  | .moduleReset wafer => Sys2Proof.Machine.execModuleReset wafer s
  | .bootStageVerify wafer => Sys2Proof.Machine.execBootStageVerify wafer s
  | .krcvcGo wafer v => Sys2Proof.Machine.execKrcvcGo wafer v s
  | .recoveryLoadDone wafer => Sys2Proof.Machine.execRecoveryLoadDone wafer s
  | .katnWrite wafer v => Sys2Proof.Machine.execKatnWrite wafer v s
  | .attestReportDone wafer => Sys2Proof.Machine.execAttestReportDone wafer s
  | .podFormation size budget red => Sys2Proof.Machine.execPodFormation size budget red s
  | .linkUp link => Sys2Proof.Machine.execLinkUp link s
  | .ksvqhWrite wafer v => Sys2Proof.Machine.execKsvqhWrite wafer v s
  | .ktrbWrite wafer v => Sys2Proof.Machine.execKtrbWrite wafer v s
  | .hostWindowWrite wafer port off v => Sys2Proof.Machine.execHostWindowWrite wafer port off v s
  | .hbmScrub ctl => Sys2Proof.Machine.execHbmScrub ctl s

end Sys2Proof.Machine
end

