-- ==== Sys2Proof/Machine/Step.lean ====
section
/-! DEFINITION. One step of the machine: the next move, and the instruction it selects. -/

namespace Sys2Proof.Machine

/-- One step. -/
def step (s : State) : Host.Outcome State Fault Refusal :=
  match s.turn with
  | .run i s' => exec i s'
  | .done s' => .next s'
  | .bad => .refused .badMove
  | .noUnit => .fault .noSuchUnit

/-- The state with an instruction where the next step fetches it. -/
def State.withFetchWord (s : State) (nbits w : Nat) : State :=
  if nbits ≤ 32 then s.placeScalar (BitVec.ofNat 32 w)
  else if nbits ≤ 64 then s.placeFabric (BitVec.ofNat 64 w)
  else s.placeCmd (cmdOfBytes (leBytes 32 w))

end Sys2Proof.Machine
end

