-- ==== Sys2Proof/Safety.lean ====
section
/-! DEFINITION. The terms that statements use: what an instruction answers, a core ready to issue, what completes, traps and
waits leave, and memory in its canonical form. -/

namespace Sys2Proof.Machine

/-! ## The issuing core -/

/-- Every source is full, and no local producer awaits the destination (13_encodings.md R240, R242; 04_memory.md R74). -/
def Core.ready (c : Core) (srcs : List Reg) (d : Reg) : Bool := srcs.all c.isFull && (c.isFull d || !c.producing d)

/-- A trap enters the handler and is no double trap (11_faults.md R205). -/
def Core.handles (c : Core) : Bool := !c.tm && c.ktvec != 0

/-- The instruction has completed, with x[d] := v and full, the pc at `p`, no wait counted, and nothing else of the state changed.
With d = 0 the result is discarded. -/
def WroteTo (s t : State) (d : Reg) (v p : W64) : Prop :=
  ∃ c : Core, t = s.setMe { s.me with x := c.x, full := c.full, pc := p, wait := none } ∧
    c.get d = (if d = 0 then 0 else v) ∧ c.isFull d = true ∧
    ∀ r : Reg, r ≠ d → c.get r = s.me.get r ∧ c.isFull r = s.me.isFull r

/-- The instruction has completed with x[d] := v, the pc past it. -/
def Wrote (s t : State) (d : Reg) (v : W64) : Prop := WroteTo s t d v (s.me.pc + 4)

/-- The instruction completes with x[d] := v. -/
def Does (i : Instr) (s : State) (d : Reg) (v : W64) : Prop := ∃ t, exec i s = .next t ∧ Wrote s t d v

/-- The state with the pc past the instruction, and no wait. -/
def State.past (s : State) : State := s.setMe { s.me with pc := s.me.pc + 4, wait := none }

/-- The state with the pc at `p`, and no wait. -/
def State.goTo (s : State) (p : W64) : State := s.setMe { s.me with pc := p, wait := none }

/-- The state after a trap that enters the handler. -/
def State.trapped (s : State) (cause : Nat) (epc tval : W64) : State :=
  s.setMe { s.me with
    kepc := epc, kcause := BitVec.ofNat 8 cause, ktval := tval, tm := true, pc := s.me.ktvec, hold := .none, wait := none }

/-- Nothing of the state changed but the issuing core. -/
def OnlyMe (s t : State) : Prop := ∃ c, t = s.setMe c

/-! ## The load-store port -/

/-- The issuing core's access is translated to `pa`, neither its home's limits nor poison stop it, and it stands behind nothing that may stay
open for good (log 102). -/
def State.reaches (s : State) (a : Access) (pa : Nat) (trc fmt : Bool) : Prop :=
  s.translate (s.portWho s.cur) a.va a.size a.kind.code = .ok pa trc fmt ∧ accessLimit s.cur a.sc a.kind pa = none ∧
    s.poisonNow { a with pa := pa, trc := trc } = false ∧ s.mayStall s.me { a with pa := pa, trc := trc } = false

/-- The access as the core's port holds it once it has issued: a write after a FENCE.rel is that fence's release (R108). -/
def State.issued (s : State) (a : Access) (pa : Nat) (trc : Bool) : Access :=
  let fence := if a.isWrite then s.me.fence else none
  { a with pa := pa, trc := trc, id := s.me.nextId, hadFull := s.me.isFull a.dst, asid := s.me.kasid.toNat, ref := s.me.ref,
           born := some (s.me.triedAt a.va s.time), rel := a.rel || fence.isSome, relSc := max a.relSc (fence.getD 0) }

/-- The core after an access has entered its port: a register that waits for its value is empty; a write has taken the fence's release,
no read ahead of it serves its bytes, and each read so far has come before it. -/
def Core.entered (c : Core) (a : Access) : Core :=
  { c with
    full := if a.pends a.dst then (c.mkEmpty a.dst).full else c.full, port := c.port ++ [a], nextId := c.nextId + 1, tried := none
    fence := if a.isWrite then none else c.fence, early := if a.isWrite then (c.dropEarly a.pa a.size).learnt.early else c.early }

/-- The issuing core's port reaches `n` bytes at `va`, homed at `pa`, at once: translated, backed, in no edge window, behind no earlier access to the
same bytes, and, where they are read, free of poison. -/
def State.atOnce (s : State) (va : W64) (n acc pa : Nat) (trc fmt : Bool) : Prop :=
  s.translate (s.portWho s.cur) va n acc = .ok pa trc fmt ∧ windowed pa = false ∧ s.remoteUnbacked (nWafer s.cur) pa = false ∧
    (∀ b ∈ s.me.port, b.performed = true ∨ b.acq = false ∧ b.overlaps { mkAccess .ld va n 0 with pa := pa } = false) ∧
    (acc = 1 ∨ s.poisonRun pa n = false)

/-- The state once the core's stream entry maps `va`, where the field's cache does (04_memory.md R88), and no access of it waits for its
translation. -/
def State.near (s : State) (va : W64) : State := (s.refill (s.portWho s.cur) va).untried

/-- A core's issued access that may perform now at a backed home outside the edge windows (R95, R98, R99, R100). -/
def State.performs (s : State) (n : Nat) (a : Access) : Prop :=
  (s.core n).find a.id = some a ∧ a.phase = .issued ∧ (s.core n).mayPerform a = true ∧
    s.remoteUnbacked (nWafer n) a.pa = false ∧ s.heldAt n a.id = false ∧ ∀ w m sl o, homeOf a.pa ≠ .window w m sl o

/-! ## The vector unit -/

/-- The vector unit of core `n` runs, and may execute the command `v` at its head: no earlier acquire is open (log 36). -/
def State.vecRuns (s : State) (n : Nat) (v : VCmd) : Prop :=
  (∃ rest, (s.core n).vq = v :: rest) ∧ (s.core n).vfault = none ∧ s.unitRuns n .vector = true ∧
    ∀ a ∈ (s.core n).port, a.acq = true → a.performed = true ∨ v.id ≤ a.id

/-- The vector unit of core `n` may execute element `p`, the next one, of the command `v` at its head, whose chunk's grain is drawn. -/
def State.vecReady (s : State) (n : Nat) (v : VCmd) (p : Nat) : Prop :=
  s.vecRuns n v ∧ v.next = p ∧ p < vCount v.b ∧ p / 64 < v.paid

/-- The local address of element `p` of the operand at `base`, of `size` bytes an element (R397). -/
def VCmd.at (v : VCmd) (base size p : Nat) : Nat := base + p * vStride v.b * size

/-- Element `p`, of a type of `size` bytes, of the operand at `base`: its bits and its poison. -/
def State.vecGet (s : State) (n : Nat) (v : VCmd) (base size p : Nat) : Nat × Bool :=
  let pa := quadPa (nWafer n) (nQn n) (v.at base size p)
  (s.readNat pa size, s.poisonRun pa size)

/-- The vector unit of core `n` has written `bs` at `pa`: a read of them performed ahead serves no load past a VFENCE (R405). -/
def State.vecLeft (s : State) (n pa : Nat) (bs : List (Byte × Bool)) : State :=
  (s.setCore n ((s.core n).vecWrote pa bs.length)).write pa bs ⟨0, 0, n, false, 0⟩

/-- Element `p` of the destination, of a type of `size` bytes, written. -/
def State.vecPut (s : State) (n : Nat) (v : VCmd) (size p : Nat) (r : Nat × Bool) : State :=
  s.vecLeft n (quadPa (nWafer n) (nQn n) (v.at (vDst v.b) size p)) (natRun size r.1 r.2)

/-- Element `p` of an FP4 destination, a nibble, written. -/
def State.vecPut4 (s : State) (n : Nat) (v : VCmd) (p : Nat) (r : Nat × Bool) : State :=
  let q := p * vStride v.b
  let pa := quadPa (nWafer n) (nQn n) (vDst v.b + q / 2)
  let old := (s.byteAt pa).toNat
  s.vecLeft n pa (natRun 1 (if q % 2 = 0 then old / 16 * 16 + r.1 % 16 else old % 16 + 16 * (r.1 % 16)) r.2)

/-- The command has executed element `p`: it leaves the unit after its last, and every read that the core has performed then came before. -/
def State.vecWent (s : State) (n : Nat) (v : VCmd) (p : Nat) : State :=
  if p + 1 = vCount v.b then s.setCore n { (s.core n).learnt with vq := (s.core n).vq.drop 1 }
  else s.setCore n { s.core n with vq := { v with next := p + 1 } :: (s.core n).vq.drop 1 }

/-- Element `p` of the command `v` leaves the memory and the generator of state `u` and the command `v'`: VECTOR_CHUNK ends with it where it is
the last of its chunk or of the command, and else goes on with the next one. -/
def State.vecGives (s u : State) (n : Nat) (v v' : VCmd) (p : Nat) : Prop :=
  (p % 64 = 63 ∨ p + 1 = vCount v.b → exec (.vectorChunk n) s = .next (u.vecWent n v' p)) ∧
    ∀ k, s.vRun n v (k + 1) = u.vRun n { v' with next := p + 1 } k

/-- Element `p`, a nibble, of an FP4 operand: its bits and its poison (R397). -/
def State.vecGet4 (s : State) (n : Nat) (v : VCmd) (base p : Nat) : Nat × Bool :=
  let q := p * vStride v.b
  let pa := quadPa (nWafer n) (nQn n) (base + q / 2)
  ((s.byteAt pa).toNat / (if q % 2 = 0 then 1 else 16) % 16, s.poisonAt pa)

/-! ## Engines -/

/-- The command at the head of the acting queue is `c`, and the checks that every command shares hold. -/
def State.heads (s : State) (c : QCmd) : Prop := s.headCmd s.curQ = some c ∧ c.headOk = true

/-- No access of the command at the head is under way. -/
def Prog.fresh (p : Prog) : Prop := p.got = [] ∧ p.put = 0 ∧ p.view = false ∧ p.skip = false ∧ p.out = none

/-- An engine's access of `n` bytes is one piece, translated to `pa` and backed there, outside the edge windows. -/
def State.engReaches (s : State) (q : Nat) (c : QCmd) (a : EngAcc) (n pa : Nat) (trc : Bool) : Prop :=
  0 < n ∧ s.piece (engWho q c a.port) a.va n a.acc = n ∧ (∃ fmt, s.translate (engWho q c a.port) a.va n a.acc = .ok pa trc fmt) ∧
    s.remoteUnbacked (nWafer (qName q)) pa = false ∧ ∀ w m sl o, homeOf pa ≠ .window w m sl o

/-! ## Fabrics -/

/-- The copy that acts holds word `w`, may act, and waits for nothing: no result, no access, no held fault. -/
def State.siteFree (s : State) (w : W64) : Prop :=
  let a := s.seat
  let c := s.cell a.k a.b
  let l := s.lane a.k a.x
  c.words ≠ [] ∧ nth c.words 0 0 = w ∧ c.done = false ∧ s.fabRuns a.k a.b a.x = true ∧ l.fault = none ∧ l.busy = false ∧ l.out = []

/-- The copy that acts stands between two firings, and its streams have not ended; no end-of-stream stands at its message port. -/
def State.siteReady (s : State) (w : W64) : Prop :=
  let a := s.seat
  let l := s.lane a.k a.x
  s.siteFree w ∧ l.on = false ∧ ((s.cell a.k a.b).closed = false ∨ l.deal = true) ∧ ∀ r, s.portToks a.k a.b 0xC ≠ .eos :: r

/-- The copy that acts begins a firing on the operands `ts`, which leave the state `t`: they are present, and of several copies it is its
turn; where `sends`, its result is requested; and its grain is drawn (R158, R162, R163). -/
def State.begins (s : State) (w : W64) (sends : Bool) (ts : List Tok) (t : State) : Prop :=
  let a := s.seat
  let ins := inputsOf (wInputs w)
  let os := s.outs a.k a.b
  let c := s.cell a.k a.b
  s.siteReady w ∧ (s.lane a.k a.x).deal = false ∧ s.inputs a.k a.b ins = .fires ∧ ts = s.atHeads a.k a.b ins ∧
    ∃ u : State, s.payGrain a.k a.x = (u, true) ∧
    ((a.n = 1 ∧ (sends = true → (s.plane a.k).canEmit os = true) ∧ t = u.latch a ins) ∨
      (a.n ≠ 1 ∧ c.taken % a.n = a.j ∧ (sends = true → s.wanted a os c.taken = true) ∧
        t = (u.setCell a.k a.b { c with taken := c.taken + 1 }).latch a ins))

/-- The copy that acts has a firing under way on the operands `ts`. -/
def State.goesOn (s : State) (w : W64) (ts : List Tok) : Prop :=
  let a := s.seat
  s.siteFree w ∧ (s.lane a.k a.x).on = true ∧ (s.lane a.k a.x).ops = ts ∧ ∀ r, s.portToks a.k a.b 0xC ≠ .eos :: r

/-- The copy that acts begins a firing on the operands `ts`, or has it under way: the state is then `t`. -/
def State.fires (s : State) (w : W64) (sends : Bool) (ts : List Tok) (t : State) : Prop :=
  s.begins w sends ts t ∨ (s.goesOn w ts ∧ t = s)

/-- The firing of the acting copy of state `s` ends, in state `t`, with the results `ts`, the first of which leaves as soon as it is the
copy's turn. -/
def State.ended (s t : State) (ts : List Tok) : State := (t.endFiring s.seat ts).collect s.seat (s.outs s.seat.k s.seat.b)

/-- A site's access of `n` bytes at `va` is aligned, translated to `pa` and backed there, outside the edge windows. -/
def State.fabReaches (s : State) (k x : Nat) (va : W64) (n acc pa : Nat) (trc : Bool) : Prop :=
  let who := s.fabWho k x
  (s.lane k x).skip = false ∧ va.toNat % n = 0 ∧ (∃ fmt, s.translate who va n acc = .ok pa trc fmt) ∧
    s.remoteUnbacked who.wafer pa = false ∧ ∀ w m sl o, homeOf pa ≠ .window w m sl o

/-- The acting router holds word `w`, may act and has not ended. -/
def State.routerReady (s : State) (w : W64) : Prop :=
  let c := s.cell s.curRes s.curSite
  siteKind s.curSite = 1 ∧ c.words ≠ [] ∧ nth c.words 0 0 = w ∧ c.done = false ∧ c.closed = false ∧
    s.fabRuns s.curRes s.curSite s.curSite = true

/-- The acting router takes a token from each of some port codes, changes its state, and sends `t`, which stems from them, on some outputs. -/
def State.forwards (s : State) (codes : List Nat) (os : List OutP) (t : Tok) (f : Cell → Cell) : State :=
  let t := t.after (codes.filterMap fun p => s.rtPeek s.curRes (siteCell s.curSite) p)
  let u := codes.foldl (fun s p => s.rtTake s.curRes (siteCell s.curSite) p) s
  (u.setCell s.curRes s.curSite (f (u.cell s.curRes s.curSite))).emit s.curRes s.curSite os true t

/-! ## Collections and memory -/

/-- The keys of a collection rise strictly. -/
def Rising {α : Type} (m : Map α) : Prop := (m.map (·.1)).Pairwise (· < ·)

/-- The memory of a state is in its canonical form. -/
def State.MemOk (s : State) : Prop := Memory.wf s.mem = true

end Sys2Proof.Machine
end

