-- ==== Sys2Proof/Certificates/Slice0/Obligations.lean ====
section
/-! DEFINITION. The statements for the provers. An event of the machine takes place when the agenda names it (log 1): a statement
about an event says what it does in the states where it is named and its occasion stands. -/

open Sys2Proof Sys2Proof.Machine

/-! ## Register instructions -/

/-- R308, R313, R361, R413: the register forms of addition, logic, shifts, comparison and selection complete, write their value to
x[d], and change nothing else. -/
def Obligations.RegisterLogic : Prop :=
  ∀ (s : State) (d a b : Reg) (wa wb : Bool), s.me.ready [a, b] d = true →
    let x := s.me.get a
    let y := s.me.get b
    let n := y.toNat % 64
    Does (.add d a b wa wb) s d (x + y) ∧ Does (.sub d a b wa wb) s d (x - y) ∧
    Does (.and d a b wa wb) s d (x &&& y) ∧ Does (.or d a b wa wb) s d (x ||| y) ∧ Does (.xor d a b wa wb) s d (x ^^^ y) ∧
    Does (.shl d a b wa wb) s d (x <<< n) ∧ Does (.shr d a b wa wb) s d (x >>> n) ∧
    Does (.sra d a b wa wb) s d (x.sshiftRight n) ∧ Does (.rot d a b wa wb) s d (x.rotateRight n) ∧
    Does (.slt d a b wa wb) s d (if x.toInt < y.toInt then 1 else 0) ∧
    Does (.sltn d a b wa wb) s d (if x.toNat < y.toNat then 1 else 0) ∧
    Does (.min d a b wa wb) s d (if x.toInt < y.toInt then x else y) ∧
    Does (.max d a b wa wb) s d (if x.toInt < y.toInt then y else x) ∧
    Does (.minn d a b wa wb) s d (if x.toNat < y.toNat then x else y) ∧
    Does (.maxn d a b wa wb) s d (if x.toNat < y.toNat then y else x)

/-- R334, R361: products, quotients and remainders. MULH and MULHN give bits 127:64 of the exact product; a quotient by zero is all
ones and the remainder is then x[a]. -/
def Obligations.MultiplyDivide : Prop :=
  ∀ (s : State) (d a b : Reg) (wa wb : Bool), s.me.ready [a, b] d = true →
    let x := s.me.get a
    let y := s.me.get b
    Does (.mul d a b wa wb) s d (x * y) ∧
    Does (.mulh d a b wa wb) s d (BitVec.ofInt 64 (x.toInt * y.toInt / 2 ^ 64)) ∧
    Does (.mulhn d a b wa wb) s d (BitVec.ofNat 64 (x.toNat * y.toNat / 2 ^ 64)) ∧
    Does (.div d a b wa wb) s d (if y = 0 then BitVec.allOnes 64 else BitVec.ofInt 64 (x.toInt.tdiv y.toInt)) ∧
    Does (.divn d a b wa wb) s d (if y = 0 then BitVec.allOnes 64 else BitVec.ofNat 64 (x.toNat / y.toNat)) ∧
    Does (.mod d a b wa wb) s d (if y = 0 then x else BitVec.ofInt 64 (x.toInt.tmod y.toInt)) ∧
    Does (.modn d a b wa wb) s d (if y = 0 then x else BitVec.ofNat 64 (x.toNat % y.toNat))

/-- R308, R313, R316, R361, R413: immediates, the population count and bit fields. -/
def Obligations.ImmediatesAndBits : Prop :=
  ∀ (s : State) (d a b : Reg) (wa wb : Bool) (imm : BitVec 15) (k : BitVec 6),
    (s.me.ready [a] d = true →
      let x := s.me.get a
      Does (.addi d a wa imm) s d (x + imm.signExtend 64) ∧ Does (.andi d a wa imm) s d (x &&& imm.signExtend 64) ∧
      Does (.ori d a wa imm) s d (x ||| imm.signExtend 64) ∧ Does (.xori d a wa imm) s d (x ^^^ imm.signExtend 64) ∧
      Does (.slti d a wa imm) s d (if x.toInt < imm.toInt then 1 else 0) ∧
      Does (.shli d a wa k) s d (x <<< k.toNat) ∧ Does (.shri d a wa k) s d (x >>> k.toNat) ∧
      Does (.srai d a wa k) s d (x.sshiftRight k.toNat) ∧
      Does (.popc d a wa) s d (BitVec.ofNat 64 ((List.range 64).filter fun i => x.getLsbD i).length)) ∧
    (s.me.ready [a, b] d = true →
      let p := (s.me.get b).toNat % 64
      let w := (s.me.get b).toNat / 256 % 64 + 1
      ∃ v, Does (.bext d a b wa wb) s d v ∧
        ∀ i, i < 64 → v.getLsbD i = (decide (i < w) && (s.me.get a).getLsbD (p + i)))

/-- R324, R333, R355: CLZ and CTZ count zeros from the top and from the bottom, 64 for zero; LHI shifts fifteen bits into the low end of a
register. Each traps on an empty source under its w bit, and otherwise waits for it and for a producer of its destination. -/
def Obligations.CountsAndLhi : Prop :=
  (∀ (s : State) (d a : Reg) (wa : Bool) (imm : BitVec 15),
    let x := s.me.get a
    let three := [Instr.clz d a wa, .ctz d a wa, .lhi d a wa imm]
    (s.me.ready [a] d = true →
      (∃ v, Does (.clz d a wa) s d v ∧ v.toNat ≤ 64 ∧ (∀ i, i < v.toNat → x.getLsbD (63 - i) = false) ∧
        (v.toNat < 64 → x.getLsbD (63 - v.toNat) = true)) ∧
      (∃ v, Does (.ctz d a wa) s d v ∧ v.toNat ≤ 64 ∧ (∀ i, i < v.toNat → x.getLsbD i = false) ∧
        (v.toNat < 64 → x.getLsbD v.toNat = true)) ∧
      Does (.lhi d a wa imm) s d ((x <<< 15) ||| imm.setWidth 64)) ∧
    (s.me.isFull a = false → wa = true → s.me.handles = true →
      ∀ i ∈ three, exec i s = .next (s.trapped causeEmpty s.me.pc (w64 a.toNat))) ∧
    (s.me.ready [a] d = false → s.me.isFull a = true ∨ wa = false → ∀ i ∈ three, exec i s = .next s.block)) ∧
  decodeWord 0x04850010 = .ok (.clz 4 5 false) ∧ decodeWord 0x04850011 = .ok (.ctz 4 5 false) ∧
  decodeWord 0x41294540 = .ok (.lhi 9 9 false 0x4540) ∧ decodeWord 0x42803C00 = .ok (.lhi 20 0 false 0x3C00)

/-- R318: BINS puts the low w bits of x[a] into x[d] at bit pos, bits past 63 dropped, pos and w taken from x[b]; what a BEXT with the
same x[b] reads from a register, BINS writes back into it; with d = 0 the result is discarded. -/
def Obligations.BitFieldInsert : Prop :=
  (∀ (s : State) (d a b : Reg) (wa wb : Bool), s.me.ready [a, b, d] d = true →
    let pos := (s.me.get b).toNat % 64
    let w := (s.me.get b).toNat / 256 % 64 + 1
    let mask := BitVec.ofNat 64 ((2 ^ w - 1) * 2 ^ pos)
    Does (.bins d a b wa wb) s d ((s.me.get d &&& ~~~mask) ||| ((s.me.get a <<< pos) &&& mask)) ∧
    ∀ e v, e ≠ 0 → Does (.bext e d b wa wb) s e v → s.me.get a = v → Does (.bins d a b wa wb) s d (s.me.get d)) ∧
  decodeWord 0x04E65815 = .ok (.bins 7 6 11 false false)

/-- R376: PCREL adds four times its immediate to its own address; it reads no register, and does nothing else but wait for a producer of
its destination. -/
def Obligations.PcRelative : Prop :=
  (∀ (s : State) (d : Reg) (imm : BitVec 15),
    (s.me.ready [] d = true → Does (.pcrel d imm) s d (s.me.pc + 4 * imm.signExtend 64)) ∧
    (s.me.ready [] d = false → exec (.pcrel d imm) s = .next s.block)) ∧
  decodeWord 0x44A00010 = .ok (.pcrel 5 16)

/-- R315, R346, R248: a branch goes to pc + 4 × off where its condition holds and past itself where it does not; a jump goes to its
target and leaves the address after it in x31 or x[d], x[a] read first; a JMPR to an address that is no multiple of 4 traps. -/
def Obligations.BranchesAndJumps : Prop :=
  ∀ (s : State) (d a b : Reg) (wa : Bool) (off : BitVec 12) (far : BitVec 26) (imm : BitVec 15),
    let x := s.me.get a
    let y := s.me.get b
    let there := s.goTo (s.me.pc + off.signExtend 64 * 4)
    let out := s.me.pc + far.signExtend 64 * 4
    let reg := x + imm.signExtend 64 * 4
    (s.me.ready [a, b] 0 = true →
      exec (.bEq a b off) s = .next (if x = y then there else s.past) ∧
      exec (.bNe a b off) s = .next (if x = y then s.past else there) ∧
      exec (.bLt a b off) s = .next (if x.toInt < y.toInt then there else s.past) ∧
      exec (.bGe a b off) s = .next (if x.toInt < y.toInt then s.past else there) ∧
      exec (.bLtn a b off) s = .next (if x.toNat < y.toNat then there else s.past) ∧
      exec (.bGen a b off) s = .next (if x.toNat < y.toNat then s.past else there)) ∧
    exec (.bFull a off) s = .next (if s.me.isFull a then there else s.past) ∧
    exec (.bEmpty a off) s = .next (if s.me.isFull a then s.past else there) ∧
    exec (.jmp far) s = .next (s.goTo out) ∧
    (s.me.ready [] 31 = true → ∃ t, exec (.jmpl far) s = .next t ∧ WroteTo s t 31 (s.me.pc + 4) out) ∧
    (s.me.ready [a] d = true → reg.toNat % 4 = 0 →
      ∃ t, exec (.jmpr d a wa imm) s = .next t ∧ WroteTo s t d (s.me.pc + 4) reg) ∧
    (s.me.ready [a] d = true → reg.toNat % 4 ≠ 0 → s.me.handles = true →
      exec (.jmpr d a wa imm) s = .next (s.trapped causeMisaligned s.me.pc reg))

/-- The register instructions of two sources. -/
def twoSource (d a b : Reg) (wa wb : Bool) : List Instr :=
  [.add d a b wa wb, .sub d a b wa wb, .and d a b wa wb, .or d a b wa wb, .xor d a b wa wb, .shl d a b wa wb, .shr d a b wa wb,
    .sra d a b wa wb, .rot d a b wa wb, .slt d a b wa wb, .sltn d a b wa wb, .min d a b wa wb, .minn d a b wa wb,
    .max d a b wa wb, .maxn d a b wa wb, .bext d a b wa wb, .bins d a b wa wb, .mul d a b wa wb, .mulh d a b wa wb,
    .mulhn d a b wa wb, .div d a b wa wb, .divn d a b wa wb, .mod d a b wa wb, .modn d a b wa wb]

/-- R240, R242, R318: in every register instruction of two sources, an empty source whose w bit is 1 raises the empty-register trap with
the register's number, x[a] first, also where the other source is empty without it; empty sources without it wait, the wait counted from
its first cycle; so does BINS, whose third source x[d] no w bit governs, where that is empty. -/
def Obligations.EmptySource : Prop :=
  ∀ (s : State) (d a b : Reg) (wa wb : Bool),
    let c := s.me
    let okA := c.isFull a = true ∨ wa = false
    let okB := c.isFull b = true ∨ wb = false
    let waits := fun (i : Instr) => exec i s = .next (s.setMe { c with wait := some (s.now s.cur) })
    (∀ i ∈ twoSource d a b wa wb,
      (c.handles = true → c.isFull a = false → wa = true → exec i s = .next (s.trapped causeEmpty c.pc (w64 a.toNat))) ∧
      (c.handles = true → okA → c.isFull b = false → wb = true → exec i s = .next (s.trapped causeEmpty c.pc (w64 b.toNat))) ∧
      (okA → okB → c.isFull a = false ∨ c.isFull b = false → c.wait = none → waits i)) ∧
    (okA → okB → c.isFull d = false → c.wait = none → waits (.bins d a b wa wb))

/-! ## The load-store port -/

/-- R387, R389, R247: the stored bytes are the low bytes of a register; addresses add the immediate scaled by the access size (R241).
The issue of the accesses of the port (R351, R352, R387, R389, R391, R406): once the sources are full, the address aligned and
translated to a home that the access may reach, LD, ST, STA and STFE enter the port and complete, with a load's destination empty; LDFE and
WAITF enter it and hold the core, their wait counted from now. -/
def Pieces.LoadsAndStoresIssue : Prop :=
  ∀ (s : State) (t a : Reg) (wa ord : Bool) (sz sc : BitVec 3) (sz2 : BitVec 2) (imm : BitVec 8) (pa : Nat) (trc fmt : Bool),
    let enters := fun (c : Core) (acc : Access) =>
      s.setMe { c.entered (s.issued acc pa trc) with pc := c.pc + 4, wait := none }
    let holds := fun (c : Core) (acc : Access) =>
      s.setMe { c.entered (s.issued acc pa trc) with hold := .access c.nextId, wait := some (s.now s.cur) }
    let at_ := fun (n : Nat) => s.me.get a + imm.signExtend 64 * BitVec.ofNat 64 n
    let low := fun (n : Nat) => BitVec.ofNat 64 ((s.me.get t).toNat % 2 ^ (8 * n))
    let n := szBytes sz.toNat
    let n2 := szBytes sz2.toNat
    (s.me.ready [a] t = true → (Instr.ld t a wa sz sc ord imm).wf = true → (at_ n).toNat % n = 0 →
      let acc := { mkAccess .ld (at_ n) n t with zext := 4 ≤ sz.toNat, sc := sc.toNat, acq := ord }
      s.reaches acc pa trc fmt → exec (.ld t a wa sz sc ord imm) s = .next (enters s.me acc)) ∧
    (s.me.ready [a, t] 0 = true → (Instr.st t a wa sz2 sc ord imm).wf = true → (at_ n2).toNat % n2 = 0 → s.me.storesAcked = true →
      let acc := { mkAccess .st (at_ n2) n2 0 with data := low n2, sc := sc.toNat, rel := ord, relSc := sc.toNat }
      s.reaches acc pa trc fmt → exec (.st t a wa sz2 sc ord imm) s = .next (enters s.me acc)) ∧
    (s.me.ready [a, t] 0 = true → (Instr.sta t a wa sz2 sc imm).wf = true → (at_ n2).toNat % n2 = 0 → s.me.stas < 64 →
      let acc := { mkAccess .sta (at_ n2) n2 0 with data := low n2, sc := sc.toNat }
      s.reaches acc pa trc fmt → exec (.sta t a wa sz2 sc imm) s = .next (enters s.me acc)) ∧
    (s.me.ready [a, t] 0 = true → (at_ 8).toNat % 8 = 0 → s.me.storesAcked = true →
      let acc := { mkAccess .stfe (at_ 8) 8 0 with data := s.me.get t }
      s.reaches acc pa trc fmt → exec (.stfe t a wa imm) s = .next (enters s.me acc)) ∧
    (s.me.ready [a] t = true → (at_ 8).toNat % 8 = 0 →
      s.reaches (mkAccess .ldfe (at_ 8) 8 t) pa trc fmt →
        exec (.ldfe t a wa imm) s = .next (holds s.me (mkAccess .ldfe (at_ 8) 8 t))) ∧
    (∀ d b : Reg, s.me.ready [a, b] d = true → (s.me.get a).toNat % 8 = 0 →
      let acc := { mkAccess .waitf (s.me.get a) 8 d with cmp := s.me.get b }
      s.reaches acc pa trc fmt → exec (.waitf d a b) s = .next (holds s.me acc))

/-- The AMOs of every operation, with their operations. -/
def amos (d a b : Reg) (wa wb wide : Bool) (sc : BitVec 3) : List (Instr × AmoOp) :=
  [(.amoAdd d a b wa wb wide sc, .add), (.amoAnd d a b wa wb wide sc, .and), (.amoOr d a b wa wb wide sc, .or),
    (.amoXor d a b wa wb wide sc, .xor), (.amoMin d a b wa wb wide sc, .min), (.amoMax d a b wa wb wide sc, .max),
    (.amoMinn d a b wa wb wide sc, .minn), (.amoMaxn d a b wa wb wide sc, .maxn), (.amoSwp d a b wa wb wide sc, .swp),
    (.amoCas d a b wa wb wide sc, .cas)]

/-- R310, R311: an AMO of any operation, its sources full (x[d] too, for AMO.CAS), its address aligned and its home within sc, enters the
port with the low bits of x[b] and x[d], and completes with its destination empty. -/
def Pieces.AmosIssue : Prop :=
  ∀ (s : State) (d a b : Reg) (wa wb wide : Bool) (sc : BitVec 3) (pa : Nat) (trc fmt : Bool), ∀ p ∈ amos d a b wa wb wide sc,
    let n := if wide then 8 else 4
    let low := fun (v : W64) => BitVec.ofNat 64 (v.toNat % 2 ^ (8 * n))
    let acc := { mkAccess (.amo p.2) (s.me.get a) n d with
      data := low (s.me.get b), cmp := low (s.me.get d), sc := sc.toNat }
    sc.toNat ≤ 5 → s.me.ready (if p.2 = .cas then [a, b, d] else [a, b]) d = true → (s.me.get a).toNat % n = 0 →
    s.reaches acc pa trc fmt →
      exec p.1 s = .next (s.setMe { s.me.entered (s.issued acc pa trc) with pc := s.me.pc + 4, wait := none })

/-- R309: the word that an AMO leaves in memory, for an n-bit stored word m and operand v. -/
def Obligations.AmoResults : Prop :=
  ∀ (n : Nat) (m v : BitVec n), 0 < n →
    amoNew .add n m.toNat v.toNat = (m + v).toNat ∧ amoNew .and n m.toNat v.toNat = (m &&& v).toNat ∧
    amoNew .or n m.toNat v.toNat = (m ||| v).toNat ∧ amoNew .xor n m.toNat v.toNat = (m ^^^ v).toNat ∧
    amoNew .min n m.toNat v.toNat = (if m.toInt ≤ v.toInt then m else v).toNat ∧
    amoNew .max n m.toNat v.toNat = (if m.toInt ≤ v.toInt then v else m).toNat ∧
    amoNew .minn n m.toNat v.toNat = min m.toNat v.toNat ∧ amoNew .maxn n m.toNat v.toNat = max m.toNat v.toNat ∧
    amoNew .swp n m.toNat v.toNat = v.toNat ∧ amoNew .cas n m.toNat v.toNat = v.toNat

/-- R351, R352, R387, R389, R391, R406, R310: a misaligned address raises the misaligned trap, with the address in KTVAL. -/
def Pieces.MisalignedTraps : Prop :=
  ∀ (s : State) (t a b : Reg) (wa wb ord wide : Bool) (sz sc : BitVec 3) (sz2 : BitVec 2) (imm : BitVec 8),
    s.me.handles = true →
    let traps := fun (i : Instr) (va : W64) => exec i s = .next (s.trapped causeMisaligned s.me.pc va)
    let at_ := fun (n : Nat) => s.me.get a + imm.signExtend 64 * BitVec.ofNat 64 n
    let n := szBytes sz.toNat
    let n2 := szBytes sz2.toNat
    let m := if wide then 8 else 4
    (s.me.ready [a] t = true → (Instr.ld t a wa sz sc ord imm).wf = true → (at_ n).toNat % n ≠ 0 →
      traps (.ld t a wa sz sc ord imm) (at_ n)) ∧
    (s.me.ready [a] t = true → (at_ 8).toNat % 8 ≠ 0 → traps (.ldfe t a wa imm) (at_ 8)) ∧
    (s.me.ready [a, t] 0 = true → (Instr.st t a wa sz2 sc ord imm).wf = true → (at_ n2).toNat % n2 ≠ 0 →
      traps (.st t a wa sz2 sc ord imm) (at_ n2)) ∧
    (s.me.ready [a, t] 0 = true → (Instr.sta t a wa sz2 sc imm).wf = true → (at_ n2).toNat % n2 ≠ 0 →
      traps (.sta t a wa sz2 sc imm) (at_ n2)) ∧
    (s.me.ready [a, t] 0 = true → (at_ 8).toNat % 8 ≠ 0 → traps (.stfe t a wa imm) (at_ 8)) ∧
    (s.me.ready [a, b] t = true → (s.me.get a).toNat % 8 ≠ 0 → traps (.waitf t a b) (s.me.get a)) ∧
    (sc.toNat ≤ 5 → s.me.ready [a, b, t] t = true → (s.me.get a).toNat % m ≠ 0 → ∀ p ∈ amos t a b wa wb wide sc,
      traps p.1 (s.me.get a))

/-! ## Traps -/

/-- R205, R392, R395: a trap enters its handler with the pc (after SYS the next one) in KEPC, the cause and value in KCAUSE and KTVAL,
KSTAT.tm set and the pc at KTVEC, and nothing else changed; with KSTAT.tm set or no handler the saved registers keep their values and
the strand begins to end with reason 1. -/
def Pieces.TrapEntry : Prop :=
  ∀ (s : State) (cause : Nat) (v : W64), cause < 256 →
    let c := s.me
    let epc := if cause = causeSys then c.pc + 4 else c.pc
    ∃ c', s.trap cause v = s.setMe c' ∧ c'.x = c.x ∧ c'.full = c.full ∧ c'.hold = .none ∧ c'.wait = none ∧ c'.priv = c.priv ∧
      c'.ktvec = c.ktvec ∧ c'.port = c.port ∧
      (c.tm = false → c.ktvec ≠ 0 →
        c'.kepc = epc ∧ c'.kcause.toNat = cause ∧ c'.ktval = v ∧ c'.tm = true ∧ c'.pc = c.ktvec ∧ c'.ending = c.ending) ∧
      (c.tm = true ∨ c.ktvec = 0 →
        c'.kepc = c.kepc ∧ c'.kcause = c.kcause ∧ c'.ktval = c.ktval ∧ c'.tm = c.tm ∧ c'.pc = c.pc ∧
        c'.ending = some ⟨1, some (cause, epc), false⟩)

/-- R392, R395, R204: SYS N traps with cause 5, KTVAL 0x040 + N and KEPC past it; TRET in trap mode goes to KEPC and leaves trap mode,
and outside it raises the synchronisation-misuse trap. -/
def Obligations.SysAndTret : Prop :=
  ∀ (s : State) (n : BitVec 5),
    (s.me.handles = true →
      exec (.sys n) s = .next (s.trapped 5 (s.me.pc + 4) (0x040 + n.setWidth 64)) ∧
      exec .tret s = .next (s.trapped 9 s.me.pc 0)) ∧
    (s.me.tm = true → s.me.kepc.toNat % 4 = 0 →
      exec .tret s = .next (s.setMe { s.me with tm := false, pc := s.me.kepc, wait := none }))

/-- R242, R252, R253, R349: KRD and KWR of a number that R253 does not assign raise the illegal-instruction trap, and of a privileged
register, with KSTAT.priv clear, the privilege trap, each with the instruction word in KTVAL; so does HALT the privilege trap. -/
def Pieces.KregChecks : Prop :=
  ∀ (s : State) (r : Reg) (k : BitVec 12), s.me.handles = true →
    let stops := fun (i : Instr) (cause : Nat) => exec i s = .next (s.trapped cause s.me.pc ((encode i).setWidth 64))
    (kregOf k.toNat = none → stops (.krd r k) 1 ∧ stops (.kwr r k) 1) ∧
    (∀ q, kregOf k.toNat = some q → s.me.priv = false →
      (q.readPriv = true → stops (.krd r k) 2) ∧ (q.writePriv = true → stops (.kwr r k) 2)) ∧
    (s.me.priv = false → stops .halt 2)

/-- R349, R252, R6, R75: KRD returns the register into x[d]; a register of the issuing core written by KWR reads back the bits that its
map lets it hold, KSTAT and the read-only registers are left, and the written bits of KPRES.full mark registers empty. -/
def Pieces.CoreKregs : Prop :=
  ∀ (s : State) (d a : Reg) (k : BitVec 12) (q : KReg), kregOf k.toNat = some q →
    (s.me.ready [] d = true → (s.me.priv = true ∨ q.readPriv = false) → q ≠ .ktime →
      ∃ t, exec (.krd d k) s = .next t ∧ Wrote (s.setMe s.me.learnt) t d (s.kread s.cur q)) ∧
    (s.me.ready [a] 0 = true → (s.me.priv = true ∨ q.writePriv = false) →
      let v := s.me.get a
      let sets := fun (f : Core → Core) =>
        exec (.kwr a k) s = .next (s.setMe { f s.me with pc := s.me.pc + 4, wait := none })
      (q = .kcause → sets fun c => { c with kcause := v.setWidth 8 }) ∧ (q = .kepc → sets fun c => { c with kepc := v }) ∧
      (q = .ktval → sets fun c => { c with ktval := v }) ∧
      (q = .ktvec → sets fun c => { c with ktvec := v &&& 0x00FFFFFFFFFFFFFC }) ∧
      (q = .kscr → sets fun c => { c with kscr := v }) ∧ (q = .kwlim → sets fun c => { c with kwlim := v.setWidth 32 }) ∧
      (q = .kasid → sets fun c => { c with kasid := v.setWidth 10 }) ∧
      (q = .kggeo → sets fun c => { c with kggeo := v &&& 0x3FFFFFFFFFFFFFFF }) ∧
      (q = .khbeat → sets fun c => { c with khbeat := v, beat := c.beat || v != c.beat0 }) ∧
      (q = .kstat ∨ q = .kteam ∨ q = .knode ∨ q = .kener → sets id) ∧
      (q = .kpres → ∃ t, exec (.kwr a k) s = .next t ∧ OnlyMe s t ∧ ∀ r : Reg,
        t.me.get r = s.me.get r ∧
        t.me.isFull r = (s.me.isFull r && !(r != 0 && v.getLsbD r.toNat && !s.me.producing r)) ∧
        t.me.ovr.getLsbD r.toNat = (s.me.ovr.getLsbD r.toNat && !v.getLsbD (32 + r.toNat))))

/-- R252, R253, R6, R135, R176, R187, R207, R223: what a privileged KWR leaves in the registers kept per quad, field and wafer, and in KAPLO and
KAPHI, whose write-1-to-clear bits it clears; a read-only register keeps its value. A register whose write has a behaviour of its own does what its
event of the table does. KRD returns what is stored. -/
def Pieces.OtherKregs : Prop :=
  ∀ (s : State) (a : Reg) (k : BitVec 12) (q : KReg), kregOf k.toNat = some q → s.me.ready [a] 0 = true → s.me.priv = true →
    let v := s.me.get a
    let n := s.cur
    let w := nWafer n
    let x := s.wafer w
    let f := s.field (nField n)
    let leaves := fun (t : State) => exec (.kwr a k) s = .next t.past
    let puts := fun (y : Wafer) => leaves (s.setWafer w y)
    let addr := fun (low : Nat) => BitVec.ofNat 64 (bits v 47 low * 2 ^ low)
    (q = .kaplo → leaves (s.setMe { s.me with kap := s.me.kap &&& ~~~v.setWidth 128 })) ∧
    (q = .kaphi → leaves (s.setMe { s.me with kap := s.me.kap &&& ~~~(v.setWidth 128 <<< 64) })) ∧
    (q = .kcdepth → leaves (s.setField (nField n) { f with depthLim := BitVec.ofNat 11 (min 1024 (bits v 10 0)) })) ∧
    (q = .kpbud → puts { x with kpbudMin := BitVec.ofNat 24 (bits v 63 40) }) ∧
    (q = .kthr → puts { x with thrOcs := x.thrOcs && !v.getLsbD 2, thrDrs := x.thrDrs && !v.getLsbD 1, thrPin := x.thrPin && !v.getLsbD 0 }) ∧
    (q = .kastb → puts { x with kastb := addr 14 }) ∧ (q = .kptb → puts { x with kptb := addr 12 }) ∧
    (q = .ksva → puts { x with ksva := addr 16 }) ∧
    (q = .klqb → puts { x with klqb := BitVec.ofNat 64 (bits v 47 12 * 2 ^ 12 + min 10 (bits v 3 0)) }) ∧
    (q = .ksvqb → puts { x with ksvqb := BitVec.ofNat 64 (bits v 47 12 * 2 ^ 12 + min 12 (bits v 3 0)) }) ∧
    (q = .kwdog → puts { x with kwdog := v.setWidth 32 }) ∧ (q = .kgstall → puts { x with kgstall := v.setWidth 32 }) ∧
    (q = .klead → puts { x with klead := BitVec.ofNat 64 (bits v 47 32 * 2 ^ 32 + bits v 15 0) }) ∧
    (q = .khot → puts { x with khot := v.setWidth 8 }) ∧
    (q ∈ [.krxp, .koptc, .kgrain, .ktemp, .kwid, .kfenl, .kfenh, .ktime, .klqh, .ksvqt, .kbstat] ∨ (∃ l, q = .kflnk l) → leaves s) ∧
    (∀ e ∈ [(KReg.kpres, Instr.kpresWrite n v), (.krseed, .krseedWrite n v), (.kqseed, .kqseedWrite n v), (.krxf, .krxfWrite n v),
        (.kfclk, .kfclkWrite n v), (.ktrb, .ktrbWrite w v), (.ksvqh, .ksvqhWrite w v), (.katn, .katnWrite w v),
        (.klqdb, .launchDoorbell w v)],
      q = e.1 → ∀ t, exec e.2 s = .next t → leaves t) ∧
    (∀ e ∈ [(KReg.kastb, x.kastb), (.kptb, x.kptb), (.ksva, x.ksva), (.klqb, x.klqb), (.ksvqb, x.ksvqb), (.klead, x.klead),
        (.klqdb, x.klqTail.setWidth 64), (.klqh, x.klqHead.setWidth 64), (.ksvqh, x.svqHead.setWidth 64), (.kwdog, x.kwdog.setWidth 64),
        (.kgstall, x.kgstall.setWidth 64), (.khot, x.khot.setWidth 64), (.kcdepth, f.depthLim.setWidth 64), (.ktrb, x.ktrb), (.katn, x.katn),
        (.kaplo, s.me.kap.setWidth 64), (.kaphi, (s.me.kap >>> 64).setWidth 64), (.kxinv, 0), (.ksvc, 0)],
      q = e.1 → s.kread n q = e.2)
/-! ## System instructions -/

/-- R369: NOP completes in every state and changes nothing but the pc. -/
def Obligations.NopCompletes : Prop := ∀ s : State, exec .nop s = .next s.past

/-- R345, R338, R108, R342, R394, R227, R405: the barriers complete when what they wait for is done: FENCE.acq every
read, FENCE.rel at sc every access that R99 and R107 name, VFENCE the vector unit; a fence that must wait waits without limit. FENCE.acq
acquires at its scope, and FENCE.rel leaves its release to the port's next write; past VFENCE no load returns what was read before a vector
write. ISYNC empties the quad's instruction cache and the core's
fetch buffer. HALT gates its running partition's sources, whose queued records go to their spill rings (log 38 places them there). TIMEDGO holds the core, and TIMEDGO_RELEASE lets it go on at the first edge of
its field clock at which device time is at or past x[a], which is never before x[a] nor before TIMEDGO: that edge, and the bound that keeps time from
passing it, are the model's (log 100). -/
def Obligations.OrderAndTime : Prop :=
  ∀ (s : State) (a : Reg) (sc : BitVec 3), sc.toNat ≤ 5 →
    exec .isync s = .next ((s.setQuad (nQuad s.cur) { s.quad (nQuad s.cur) with icache := [], miss := none, bad := [] }).setMe
      { s.me with fetch := [], pc := s.me.pc + 4, wait := none }) ∧
    exec (.fenceAcq sc) s = .next (if s.me.acquired then s.finish (s.me.acquireAt s.cur sc.toNat) else s.setMe { s.me with wait := none }) ∧
    exec (.fenceRel sc) s = .next (if s.me.fenced sc.toNat then s.finish (s.me.relFence sc.toNat)
      else s.setMe { s.me with wait := none }) ∧
    (s.me.vq = [] → exec .vfence s = .next (s.finish s.me.vecFenced)) ∧
    (∀ k, s.me.priv = true → s.me.partKey = some k → (s.part k).st = .run →
      exec .halt s = .next ((s.past.setPart k { (s.part k).pause s.time with st := .gating }).spillPart k)) ∧
    (s.me.ready [a] 0 = true →
      exec (.timedgo a) s = .next (s.setMe { s.me with hold := .timedgo (s.me.get a) (s.devTime (nWafer s.cur)), wait := none })) ∧
    (∀ n t since, (s.core n).hold = .timedgo t since → s.unitRuns n .core = true →
      exec (.timedgoRelease n) s = .next (if s.devTime (nWafer n) < s.goEdge n t since then s
        else s.setCore n { (s.core n).learnt with hold := .none, pc := (s.core n).pc + 4, go := true })) ∧
    (∀ n t since, max t.toNat since ≤ s.goEdge n t since)

/-- R393, R225, R405, R407, R51, R50: TIME and KRD of KTIME read device time, never less than the core has read; VBUSY reads whether a
vector command remains; WAITPRED, once every predecessor is done, acquires at the scopes of its edges (log 36) and reads 0, or 1 + the
lowest-numbered abnormal predecessor; HINTSUCC marks its node. -/
def Obligations.ReadsOfTheMachine : Prop :=
  ∀ (s : State) (d : Reg), s.me.ready [] d = true →
    let now := max s.me.lastTime (s.devTime (nWafer s.cur))
    let told := s.setMe { s.me.learnt with lastTime := now }
    (∃ t, exec (.time d) s = .next t ∧ Wrote told t d (BitVec.ofNat 64 now)) ∧
    (∃ t, exec (.krd d 0x0C3) s = .next t ∧ Wrote told t d (BitVec.ofNat 64 now)) ∧
    Does (.vbusy d) s d (if s.me.vq = [] then 0 else 1) ∧
    (∀ st sh, s.me.strand = some st → mfind s.sheaves st.ref.sheaf = some sh →
      (∀ p ∈ sh.preds st.ref.node, (sh.nodeAt p).st = .done) →
      ((∀ p ∈ sh.preds st.ref.node, (sh.nodeAt p).abn = false) → (∃ t, exec (.waitpred d) s = .next t ∧ Wrote (s.setMe (sh.acquired s.me s.cur st.ref.node)) t d 0)) ∧
      ∀ p ∈ sh.preds st.ref.node, (sh.nodeAt p).abn = true →
        (∀ q ∈ sh.preds st.ref.node, (sh.nodeAt q).abn = true → p ≤ q) → ∃ t, exec (.waitpred d) s = .next t ∧ Wrote (s.setMe (sh.acquired s.me s.cur st.ref.node)) t d (1 + BitVec.ofNat 64 p)) ∧
    (∀ st, s.me.strand = some st →
      exec .hintsucc s = .next (s.modNode st.ref fun n => { n with hinted := true }).past)

/-! ## Strands -/

/-- The SPAWN that finds its record at `va` in state `s`, and has its words `w` in state `u`, goes on with them: a well-formed record is
pushed; one with a join block raises the block's count first; with room nowhere SPAWN takes the spill trap, with the count left raised. -/
def spawnsOn (s u : State) (a : Reg) (st : Strand) (va : W64) (w : Nat → W64) : Prop :=
  let jc := w 2
  let r := mkRec s.cur st.ref w
  let leaves := fun (v : State) =>
    (∀ s', v.pushSpawn s.cur r = some s' → exec (.spawn a) s = .next s'.past) ∧
    (v.pushSpawn s.cur r = none → v.me.handles = true → exec (.spawn a) s = .next (v.trapped causeSpill v.me.pc va))
  recReserved w = false → (w 1).toNat % 32 = 0 → jc.toNat % 32 = 0 →
    (jc = 0 → leaves u) ∧
    (jc ≠ 0 →
      let v := u.near jc
      ∀ b trc fmt, v.atOnce jc 32 2 b trc fmt →
        leaves ((v.setMe (v.me.didRead b 8 (v.relsAt b 8))).write b
          (natRun 8 ((v.readW b).toNat / 2 ^ 63 * 2 ^ 63 + ((v.readW b).toNat + 1) % 2 ^ 63) false) ⟨2, 0, s.cur, trc, 0⟩))

/-- R40, R386, R180, R181: SPAWN reads the record at x[a], which its core's port reads at once, and goes on with it; the record and the
block may lie in two pages, each of which the field's cache may hold. A record in an edge window is read through it, a word at a time: SPAWN asks for
the four words, and goes on with them once all have come (log 36 orders the reads, and log 115 keeps the block out of the windows). -/
def Pieces.SpawnPushes : Prop :=
  ∀ (s0 : State) (a : Reg) (st : Strand) (pa : Nat) (trc fmt : Bool), s0.me.strand = some st → s0.me.ready [a] 0 = true →
    let va := s0.me.get a
    let s := s0.near va
    va.toNat % 32 = 0 →
    (s0.me.records = [] → s.atOnce va 32 0 pa trc fmt →
      spawnsOn s0 (s.setMe (s.me.didRead pa 32 (s.relsAt pa 32))) a st va fun i => s.readW (pa + 8 * i)) ∧
    (s0.me.records = [] → s.translate (s.portWho s.cur) va 32 0 = .ok pa trc fmt → windowed pa = true →
      s.remoteUnbacked (nWafer s.cur) pa = false → s.mayStall s0.me { mkAccess .record va 32 0 with pa := pa } = false →
      ∃ t, exec (.spawn a) s0 = .next t ∧ t.me.pc = s0.me.pc ∧ t.me.records.map (fun r => (r.va, r.pa, r.size, r.phase)) =
        (List.range 4).map fun i => (va + BitVec.ofNat 64 (8 * i), pa + 8 * i, 8, Phase.issued)) ∧
    (∀ r0 r1 r2 r3, s0.me.records = [r0, r1, r2, r3] → (∀ r ∈ [r0, r1, r2, r3], r.performed = true) →
      spawnsOn s0 (s0.setMe s0.me.dropRecords) a st va fun i => nth [r0.got, r1.got, r2.got, r3.got] i 0)

/-- A queue holds what another held, and a record behind all others: behind those of its partition, and of every partition while
pre-emption has moved none. -/
def behind (old new : ContQ) (r : Rec) : Prop :=
  (∀ part, (new.chip ++ new.ring).filter (shPartKey ·.ref.sheaf == part) =
    (old.chip ++ old.ring ++ [r]).filter (shPartKey ·.ref.sheaf == part)) ∧
  ((∀ x ∈ old.chip, x.out = false) → new.chip ++ new.ring = old.chip ++ old.ring ++ [r])

/-- R38, R40, R187, R197: a pushed record is behind all others of its queue: the quad's while it has fewer than 64 records on chip, else the
field's while it or its spill ring has room; where the record lies in the ring, its words are written there, in the place that log 38
chooses. -/
def Pieces.PushIsBehind : Prop :=
  ∀ (s s' : State) (n : Nat) (r : Rec), s.pushSpawn n r = some s' →
    let q := (s.quad (nQuad n)).contq
    let f := (s.field (nField n)).contq
    let room := (q.refill 64).onChip < 64 ∧ (q.refill 64).ring = []
    (room ∧ ∃ q', s' = s.setQuad (nQuad n) { s.quad (nQuad n) with contq := q' } ∧ behind q q' r ∧ q'.onChip ≤ 64) ∨
    (¬room ∧ ∃ f', behind f f' r ∧ f'.onChip ≤ max 1024 f.onChip ∧
      s' = (s.setField (nField n) { s.field (nField n) with contq := f' }).spill f' (s.fieldRing (nField n) r.ref) r)

/-- R42, log 36: the end of a strand decrements its join block as a release at field scope; an end that is not normal, or one that finds the
count at zero (reason 4), marks the block, with the first reason and start in word 1; with the last hold gone, the strand parked on the block
is released. -/
def Pieces.BlockDecrements : Prop :=
  ∀ (s : State) (n asid pa : Nat) (trc : Bool) (reason : Nat) (cp : W64),
    let w0 := s.readW pa
    let w1 := s.readW (pa + 8)
    let w2 := s.readW (pa + 16)
    let count := w0.toNat % 2 ^ 63
    let why := if count = 0 then 4 else reason
    let abn := w0.getLsbD 63 || why != 0
    let new1 := if why ≠ 0 ∧ w1.toNat / 2 ^ 56 = 0 then w64 (why * 2 ^ 56 + cp.toNat % 2 ^ 56) else w1
    let left := fun (x2 : W64) => s.writeAs pa (natRun 8 ((if abn then 2 ^ 63 else 0) + (count - 1)) false ++
      natRun 8 new1.toNat false ++ natRun 8 x2.toNat false) ⟨2, 0, n, trc, 0⟩ (some ⟨.core n, 2⟩)
    (1 < count ∨ w2 = 0 → s.decBlock n asid pa trc reason cp = left w2) ∧
    (count ≤ 1 → w2 ≠ 0 → ∀ p, (left 0).parked.find? (fun p => !p.fget && p.save == w2 && p.asid == asid && p.ends.isNone) = some p →
      s.decBlock n asid pa trc reason cp = (left 0).unpark p 0 (if abn then new1 else 0) 0)

/-- The strand that RETIRE ends in state `s` leaves state `t` (R42, R384): its producers have landed and its accesses are released; with
no join block its core is idle; with one, the block is decremented first. In trap mode the end is abnormal, with reason 1, and marks
the node; so does a block whose count is zero. -/
def retires (s t : State) : Prop :=
  ∃ st : Strand, s.me.strand = some st ∧ (∀ a ∈ s.me.port, a.isRead = false) ∧ s.me.isFull 2 = true ∧ s.me.fenced 2 = true ∧
    ((s.me.get 2 = 0 ∧
      let u := if s.me.tm then s.markAbn st.ref 1 else s
      t = u.setMe u.me.idle) ∨
      (s.me.get 2 ≠ 0 ∧ (s.me.get 2).toNat % 32 = 0 ∧
        let s := s.near (s.me.get 2)
        ∃ pa trc fmt, s.atOnce (s.me.get 2) 32 2 pa trc fmt ∧
        let u := s.decBlock s.cur s.me.kasid.toNat pa trc (if s.me.tm then 1 else 0) st.startCp
        let v := if s.me.tm = true ∨ (s.readW pa).toNat % 2 ^ 63 = 0 then u.markAbn st.ref 1 else u
        t = v.setMe v.me.idle))

/-- R348, R42: what a KEND does to the other strands of its node `r`, `keep` being the core that issues it. A running one begins to end, normally:
it waits for nothing any more, and one that a fault has stopped before an instruction stands at the boundary at which it retires (log 93). No
queued or held record of the node remains, and the block of each is decremented. A parked one waits on nothing any more; once its writes have
performed it is removed and its block decremented (log 112). -/
def Pieces.OthersEnd : Prop :=
  ∀ (s : State) (r : NodeRef) (keep : Option Nat),
    let u := s.endStrands r 0 keep
    let d := s.dropStrands r 0
    let running := s.cores.filter fun p => p.2.ref == some r && keep != some p.1
    let queued := s.quads.flatMap (fun p => p.2.contq.of r) ++ s.fields.flatMap (fun p => p.2.contq.of r) ++
      (s.held.filter (·.crec.ref == r)).map (·.crec)
    let parked := s.parked.filter (·.ref == r)
    (∀ n st, (s.core n).strand = some st → st.ref = r → keep ≠ some n → (u.core n).ending.isSome = true) ∧
    (∀ k, ∀ x ∈ (u.quad k).contq.chip ++ (u.quad k).contq.ring ++ (u.field k).contq.chip ++ (u.field k).contq.ring, x.ref ≠ r) ∧
    (∀ h ∈ u.held, h.crec.ref ≠ r) ∧ (∀ p ∈ u.parked, p.ref = r → p.ends.isSome = true) ∧
    (∀ n, let c := s.core n
      running.map (·.1) = [n] → c.ref = some r → queued = [] → parked = [] → c.ending = none →
        ∃ c' : Core, c'.hold = .none ∧ c'.wait = none ∧ c'.x = c.x ∧ c'.pc = c.pc ∧ c'.strand = c.strand ∧ c'.fault = c.fault ∧
          (c.fault = none → u = s.setCore n { c' with ending := some ⟨0, none, false⟩ }) ∧
          (∀ f, c.fault = some f → s.lateId n = none →
            u = { s with faults := mdelOpt s.faults (some f) }.setCore n { c' with fault := none, ending := some ⟨0, none, false⟩ })) ∧
    (d.mem = s.mem ∧ d.cores = s.cores) ∧
    (∀ x, running = [] → queued = [x] → parked = [] →
      (x.jc = 0 → u = d) ∧
      (x.jc ≠ 0 → x.jc.toNat % 32 = 0 → ∀ pa trc fmt, d.coreTr x.core (d.refAsid r) x.jc 32 2 = .ok pa trc fmt → d.poisonRun pa 32 = false →
        (d.readW pa).toNat % 2 ^ 63 ≠ 0 → u = d.decBlock x.core (d.refAsid r) pa trc 0 x.cp)) ∧
    (∀ p, running = [] → queued = [] → parked = [p] → p.ends = none → s.parked = [p] →
      let e := { d with parked := [] }
      let blk := e.coreWord p.core p.asid (p.save + 16)
      let scp := e.coreWord p.core p.asid (p.save + 48)
      (s.parkedDone p = false → u = d) ∧
      (s.parkedDone p = true → blk = 0 → u = e) ∧
      (s.parkedDone p = true → blk ≠ 0 → blk.toNat % 32 = 0 → ∀ pa trc fmt, e.coreTr p.core p.asid blk 32 2 = .ok pa trc fmt →
        e.poisonRun pa 32 = false → (e.readW pa).toNat % 2 ^ 63 ≠ 0 →
        u = e.decBlock p.core p.asid pa trc 0 (BitVec.ofNat 64 (scp.toNat % 2 ^ 56))))

/-- R384, R348, R42: RETIRE ends its strand; KEND ends the node's other strands and then its own. -/
def Pieces.RetireAndKend : Prop :=
  ∀ (s t : State),
    (retires s t → exec .retire s = .next t) ∧
    (∀ st, s.me.strand = some st → retires (s.endStrands st.ref 0 (some s.cur)) t → exec .kend s = .next t)

/-- R43, R347, R39: JOIN of a block whose count is zero, the core's earlier reads done (log 36), completes with 0, or with word 1 after an
abnormal end, and acquires at field scope; of a block that others still hold, outside trap mode and with x1 at a save area, whose halves may
lie in two pages, it parks the strand: its core is idle, and the strand waits on the block. -/
def Pieces.JoinCompletesOrParks : Prop :=
  ∀ (s0 : State) (d a : Reg) (b : Nat) (trc fmt : Bool), s0.me.ready [a] d = true → s0.me.acquired = true →
    let va := s0.me.get a
    let s := s0.near va
    let c := s.me.didRead b 32 (s.relsAt b 32)
    va.toNat % 32 = 0 → s.atOnce va 32 2 b trc fmt →
    let w0 := s.readW b
    (w0.toNat % 2 ^ 63 = 0 → ∃ t, exec (.join d a) s0 = .next t ∧
      Wrote (s.setMe (c.acquireRead s.cur 2 (s.relsAt b 32))) t d (if w0.getLsbD 63 then s.readW (b + 8) else 0)) ∧
    (w0.toNat % 2 ^ 63 ≠ 0 → s.readW (b + 16) = 0 → s.me.tm = false → s.me.isFull 1 = true → (s.me.get 1).toNat % 32 = 0 →
      ∀ st lo ltrc lfmt hi htrc hfmt, s.me.strand = some st → (s.near (s.me.get 1)).atOnce (s.me.get 1) 32 1 lo ltrc lfmt →
        ((s.near (s.me.get 1)).near (s.me.get 1 + 32)).atOnce (s.me.get 1 + 32) 32 1 hi htrc hfmt →
        ∃ t p, exec (.join d a) s0 = .next t ∧ t.me = c.idle ∧ t.parked = s.parked ++ [p] ∧ p.save = s.me.get 1 ∧
          p.core = s.cur ∧ p.ref = st.ref ∧ p.fget = false ∧ p.obj = va)
/-- R53, R339, R46, R44: FNEW takes a free entry of the core's field, pending, and its handle names it; with none it reads 0, and with d = 0
it has no effect. FGET and FWAIT trap on a failed entry; of a set one they read its value with FENCE.acq at wafer scope, and like FENCE.acq
they wait until the core's earlier reads are done, before a pending entry too (log 36). FGET of a pending entry then parks the strand, whose
save area's halves may lie in two pages; FWAIT of one holds the core with x[d] empty. -/
def Pieces.FuturesRead : Prop :=
  ∀ (s : State) (d a : Reg),
    (s.me.ready [] d = true →
      let k := nField s.cur
      let f := s.field k
      let e := anyFree f.futs (Config.freeEntry s.tick)
      (d = 0 → exec (.fnew d) s = .next s.past) ∧ (e = 0 → Does (.fnew d) s d 0) ∧
      (d ≠ 0 → e ≠ 0 →
        let u := mget f.futs e resetFut
        u.st = .free ∧ ∃ t, exec (.fnew d) s = .next t ∧
          Wrote ((s.setField k { f with futs := mput f.futs e { u with st := .pending, val := 0, waiters := [] } }).setMe s.me.learnt) t d
            (BitVec.ofNat 64 (k % 128 * 2 ^ 25 + e * 2 ^ 9 + u.gen.toNat)))) ∧
    (s.me.ready [a] d = true →
      let h := s.me.get a
      let w := nWafer s.cur
      let e := s.fut w h
      s.stale w h = false →
      (e.st ≠ .failed → s.me.acquired = false → ∀ i ∈ [Instr.fget d a, .fwait d a],
        exec i s = .next (s.setMe { s.me with wait := none })) ∧
      (e.st = .set → s.me.acquired = true →
        (∃ t, exec (.fget d a) s = .next t ∧ Wrote (s.setMe s.me.acquire) t d e.val) ∧
        ∃ t, exec (.fwait d a) s = .next t ∧ Wrote (s.setMe s.me.acquire) t d e.val) ∧
      (e.st = .failed → s.me.handles = true →
        exec (.fget d a) s = .next (s.trapped causeFailed s.me.pc h) ∧
        exec (.fwait d a) s = .next (s.trapped causeFailed s.me.pc h)) ∧
      (e.st = .pending → s.me.acquired = true →
        exec (.fwait d a) s = .next (s.setMe { s.me.mkEmpty d with
          hold := .fwait h d (s.me.isFull d), wait := some (s.now s.cur) }) ∧
        (s.me.tm = false → s.me.isFull 1 = true → (s.me.get 1).toNat % 32 = 0 →
          ∀ st lo ltrc lfmt hi htrc hfmt, s.me.strand = some st → (s.near (s.me.get 1)).atOnce (s.me.get 1) 32 1 lo ltrc lfmt →
            ((s.near (s.me.get 1)).near (s.me.get 1 + 32)).atOnce (s.me.get 1 + 32) 32 1 hi htrc hfmt →
            ∃ t p, exec (.fget d a) s = .next t ∧ t.me = s.me.idle ∧ t.parked = s.parked ++ [p] ∧ p.save = s.me.get 1 ∧
              p.core = s.cur ∧ p.ref = st.ref ∧ p.fget = true ∧ p.obj = h)))

/-- R46, R45, R339, R108, R338: once FENCE.rel at wafer scope completes, whose release the port's next write then is, FSET sets a pending entry to x[b] and FSET.F fails it;
FFREE frees an entry and steps its generation. Each completes, and empties the entry's list of waiters. -/
def Pieces.FuturesSetAndFree : Prop :=
  ∀ (s : State) (a b : Reg), s.me.ready [a, b] 0 = true → s.me.hold = .none →
    let h := s.me.get a
    let w := nWafer s.cur
    let e := s.fut w h
    let ends := fun (i : Instr) (c : Core) (f : Fut) =>
      ∃ t, exec i s = .next t ∧ t.fut w h = f ∧ t.me = { c with pc := c.pc + 4, wait := none }
    (s.stale w h = false → e.st = .pending → s.me.fenced 3 = true →
      ends (.fset a b) (s.me.relFence 3) ⟨s.me.get b, .set, e.gen, []⟩ ∧ ends (.fsetF a b) (s.me.relFence 3) ⟨0, .failed, e.gen, []⟩) ∧
    (s.stale w h = false → s.me.fenced 3 = false → ∀ i ∈ [Instr.fset a b, .fsetF a b],
      exec i s = .next (s.setMe { s.me with wait := none })) ∧
    (s.stale w h = false → ends (.ffree a) s.me ⟨e.val, .free, e.gen + 1, []⟩)

/-- R45: when a handle is stale; a future instruction that is given a stale one traps before it has any effect, with the handle in KTVAL;
FFREE steps the entry's generation modulo 512. -/
def Obligations.StaleHandles : Prop :=
  ∀ (s : State) (d a b : Reg),
    let h := s.me.get a
    let w := nWafer s.cur
    let e := s.fut w h
    (s.stale w h = true ↔ h.toNat / 2 ^ 32 ≠ 0 ∨ s.fieldOn w (h.toNat / 2 ^ 25 % 128) = false ∨ h.toNat / 2 ^ 9 % 2 ^ 16 = 0 ∨
      e.st = .free ∨ h.toNat % 512 ≠ e.gen.toNat) ∧
    (s.stale w h = true → s.me.handles = true → s.me.hold = .none →
      let stops := fun (i : Instr) => exec i s = .next (s.trapped causeStale s.me.pc h)
      (s.me.ready [a] d = true → stops (.fget d a) ∧ stops (.fwait d a)) ∧
      (s.me.ready [a, b] 0 = true → stops (.fset a b) ∧ stops (.fsetF a b)) ∧
      (s.me.ready [a] 0 = true → stops (.ffree a))) ∧
    (s.stale w h = false → s.me.hold = .none → s.me.ready [a] 0 = true →
      ∃ t, exec (.ffree a) s = .next t ∧ (t.fut w h).gen.toNat = (e.gen.toNat + 1) % 512)

/-- R48, R314, R317, R319: BINIT makes a point that has none, with its expected count and parity 0; ARRIVE, released at the point's
scope, counts one arrival, the last of which turns the parity, and reads the parity before it; BWAIT reads a parity other than
x[b][0], and holds the core while it is the same. -/
def Obligations.RendezvousPoints : Prop :=
  ∀ (s : State) (d a b : Reg) (st : Strand), s.me.strand = some st → s.me.hold = .none →
    let v := s.me.get a
    let k := s.pointKey s.cur st.ref v
    pointOk v = true →
    (s.me.ready [a, b] 0 = true → 1 ≤ (s.me.get b).toNat → (s.me.get b).toNat < 65536 → mhas s.points k = false →
      exec (.binit a b) s = .next { s with points := mput s.points k ⟨(s.me.get b).toNat, 0, false⟩ }.past) ∧
    (∀ p, mfind s.points k = some p →
      (s.me.ready [a] d = true → s.me.released (pointScope v) = true →
        let p' : Point := if p.arrivals + 1 = p.expected then ⟨p.expected, 0, !p.parity⟩ else ⟨p.expected, p.arrivals + 1, p.parity⟩
        ∃ t, exec (.arrive d a) s = .next t ∧ mfind t.points k = some p' ∧
          t.me.get d = (if d = 0 then 0 else if p.parity then 1 else 0) ∧ t.me.pc = s.me.pc + 4) ∧
      (s.me.ready [a, b] d = true →
        let old := (s.me.get b).getLsbD 0
        (p.parity ≠ old → ∃ t, exec (.bwait d a b) s = .next t ∧ Wrote (s.setMe s.me.acquire) t d (if p.parity then 1 else 0)) ∧
        (p.parity = old → exec (.bwait d a b) s = .next (s.setMe { s.me with
          hold := .bwait k old d, wait := some (s.now s.cur) }))))

/-- R335, R49, R312, R360, R385: ENQ appends the 32 bytes of a command in the QSP to the queue that x[b] names, once that has room and
the kick is released; AMSG and MARKE, naming a bound graph with no message of the core still queued for it, bring two tokens, or the
end-of-stream token, to its port; unbound, and the field's queue having room, they wait there; RMOV sends x[b] to x[n] of a core of
the team. -/
def Obligations.CommandsAndMessages : Prop :=
  ∀ (s : State) (d a b : Reg) (sc : BitVec 3),
    (s.me.ready [a, b] 0 = true → sc.toNat ≤ 5 → s.me.released sc.toNat = true →
      let va := s.me.get a
      let q := queueOf s.cur (s.me.get b)
      queueNameOk (s.me.get b) = true → va.toNat % 32 = 0 → localBase ≤ va.toNat → va.toNat < localBase + 0x40000 →
      (s.queue q).cmds.length < 32 → ∀ pa trc fmt, (s.near va).atOnce va 32 0 pa trc fmt →
        let u := s.near va
        exec (.enq a b sc) s = .next (({ u with serial := u.serial + 1 }.setQueue q { u.queue q with
          cmds := (u.queue q).cmds ++ [QCmd.mk (u.readCmd pa) s.cur s.me.priv s.me.kasid.toNat s.me.ref sc.toNat false 0 true 0 0 u.serial 1 1] }).finish
            u.me.learnt)) ∧
    (∀ st, s.me.strand = some st →
      let k := nField s.cur
      let sends := fun (i : Instr) (g x y : W64) (eos : Bool) =>
        let m : Msg := ⟨g.toNat, x, y, eos, s.cur, st.ref.sheaf⟩
        g ≠ 0 → g.toNat < 65536 →
        (∀ j, (∀ y ∈ (s.field k).msgq, y.core ≠ s.cur ∨ y.graph ≠ m.graph) → s.graphOf (shPartKey st.ref.sheaf) m.graph = some j →
          exec i s = .next ((s.modResid j fun r => { r with msgs := r.msgs ++ m.toks }).finish s.me.learnt)) ∧
        (s.graphOf (shPartKey st.ref.sheaf) m.graph = none → (s.field k).msgq.length < 256 →
          exec i s = .next ((s.setField k { s.field k with msgq := (s.field k).msgq ++ [m] }).finish s.me.learnt))
      (s.me.ready [d, a, b] 0 = true → sends (.amsg d a b) (s.me.get d) (s.me.get a) (s.me.get b) false) ∧
      (s.me.ready [a] 0 = true → sends (.marke a) (s.me.get a) 0 0 true)) ∧
    (∀ n : BitVec 5, s.me.ready [a, b] 0 = true → s.coreOk (s.me.get a) = true →
      s.me.sameTeam (s.core (s.me.get a).toNat) = true →
        exec (.rmov a b n) s = .next { s with sends := s.sends ++ [Send.mk s.cur (s.me.get a).toNat n (s.me.get b)] }.past)

/-- R350, R189, R190, R300, R338: LAUNCH performs FENCE.rel at wafer scope, for which it waits and whose release the port's next write is, and accepts
a sheaf into the lowest free place of its node's partition, unprivileged and with the tag 0, and reads 0; with no place free it reads 1 and
accepts nothing; it waits behind a pod-wide launch that has a place. -/
def Pieces.LaunchAccepts : Prop :=
  ∀ (s : State) (d a b : Reg) (st : Strand), s.me.strand = some st → s.me.hold = .none → s.me.ready [a, b] d = true →
    (s.me.get b).toNat < 4 → (s.me.get a).toNat % 64 = 0 →
    let w := nWafer s.cur
    let part := shPart st.ref.sheaf
    let c := s.me.relFence 3
    (s.me.fenced 3 = false → exec (.launch d a b) s = .next (s.setMe { s.me with wait := none })) ∧
    (s.me.fenced 3 = true → s.freePlace w part = none → ∃ t, exec (.launch d a b) s = .next t ∧ Wrote (s.setMe c) t d 1) ∧
    (s.me.fenced 3 = true → ∀ slot, s.freePlace w part = some slot → (∃ e ∈ (s.wafer w).podIn, e.part = part) →
      exec (.launch d a b) s = .next (s.setMe { c with wait := none })) ∧
    (s.me.fenced 3 = true → (∀ e ∈ (s.wafer w).podIn, e.part ≠ part) → ∀ slot, s.freePlace w part = some slot →
      ∃ t sh, exec (.launch d a b) s = .next t ∧ t.me.fence = c.fence ∧ mfind t.sheaves (w * 4096 + part * 64 + slot) = some sh ∧
        sh.va = s.me.get a ∧ sh.prio = (s.me.get b).toNat ∧ sh.tag = 0 ∧ sh.host = false ∧
        t.me.get d = 0 ∧ t.me.pc = s.me.pc + 4)

/-! ## The vector unit -/

/-- The vector instructions with their operation codes, for operands a and b, a type and flags. -/
def vectors (a b : Reg) (wa wb : Bool) (f : BitVec 4) (g : BitVec 3) : List (Instr × Nat × Nat) :=
  [(.vadd a b wa wb f g, 1, g.toNat), (.vsub a b wa wb f g, 2, g.toNat), (.vmul a b wa wb f g, 3, g.toNat),
    (.vfma a b wa wb f g, 4, g.toNat), (.vmin a b wa wb f, 5, 0), (.vmax a b wa wb f, 6, 0), (.vabs a b wa wb f, 7, 0),
    (.vneg a b wa wb f, 8, 0), (.vrcp a b wa wb f g, 9, g.toNat), (.vrsq a b wa wb f g, 10, g.toNat),
    (.vexp a b wa wb f g, 11, g.toNat), (.vlog2 a b wa wb f g, 12, g.toNat), (.vtanh a b wa wb f g, 13, g.toNat),
    (.vcvt a b wa wb f g, 14, g.toNat), (.vcvtS a b wa wb f g, 15, g.toNat), (.vcmp a b wa wb f g, 16, g.toNat),
    (.vsel a b wa wb f, 17, 0), (.vshuf a b wa wb f, 18, 0), (.vfill a b wa wb f, 19, 0), (.vred a b wa wb f, 20, 0),
    (.vscan a b wa wb f, 21, 0), (.vdot a b wa wb f, 22, 0)]

/-- R396, R249, R398: every vector instruction, its codes legal, its operands full and their values legal, the core's stores acknowledged and
fewer than four commands in the unit, hands the unit its operand values and completes; one whose fmt or flg R249 and R398 do not give it, as VSEL and
VSHUF of FP4, raises the illegal-instruction trap. -/
def Pieces.VectorsIssue : Prop :=
  ∀ (s : State) (a b : Reg) (wa wb : Bool) (f : BitVec 4) (g : BitVec 3), ∀ p ∈ vectors a b wa wb f g,
    (p.1.wf = true → s.me.ready [a, b] 0 = true → vCheck p.1 p.2.1 f.toNat (s.me.get a) (s.me.get b) = none →
      s.me.storesAcked = true → s.me.vq.length < 4 →
        exec p.1 s = .next (s.setMe { s.me with
          pc := s.me.pc + 4, wait := none, nextId := s.me.nextId + 1,
          vq := s.me.vq ++ [⟨s.me.nextId, p.2.1, f.toNat, p.2.2, s.me.get a, s.me.get b, 0, 0, 0, false⟩] })) ∧
    (p.1.wf = false → s.me.handles = true → exec p.1 s = .next (s.trapped causeIllegal s.me.pc ((encode p.1).setWidth 64))) ∧
    (p.2.1 = 17 ∨ p.2.1 = 18 → f = 5 → p.1.wf = false)


/-! ## What the vector unit executes -/

/-- R397, R399, R400: an element of VADD to VTANH, its operands in local space, becomes the exact result rounded once by flg, of integer types
the result wrapped to their width; poisoned where a source is; nothing else of memory changes. -/
def Pieces.VectorArithmetic : Prop :=
  ∀ (s : State) (n : Nat) (v : VCmd) (p : Nat), s.vecReady n v p → 8 ≤ typeBits v.fmt → v.fmt ≠ 6 →
    let t := v.fmt
    let w := typeBits t
    let e := w / 8
    let (x, px) := s.vecGet n v (vSrc1 v.a) e p
    let (y, py) := s.vecGet n v (vSrc2 v.a) e p
    let (d, pd) := s.vecGet n v (vDst v.b) e p
    let gives := fun (r : Nat) (bad : Bool) => s.vecGives (s.vecPut n v e p (r, bad)) n v v p
    v.at (vSrc1 v.a) e p < 0x48000 → v.at (vDst v.b) e p < 0x40000 →
    (typeFloat t = false →
      let x := BitVec.ofNat w x
      let y := BitVec.ofNat w y
      let lt := if typeSigned t then x.toInt < y.toInt else x.toNat < y.toNat
      (v.at (vSrc2 v.a) e p < 0x48000 →
        (v.vop = 1 → gives (x + y).toNat (px || py)) ∧ (v.vop = 2 → gives (x - y).toNat (px || py)) ∧
        (v.vop = 3 → gives (x * y).toNat (px || py)) ∧ (v.vop = 4 → gives (x * y + BitVec.ofNat w d).toNat (px || py || pd)) ∧
        (v.vop = 5 → gives (if lt then x else y).toNat (px || py)) ∧ (v.vop = 6 → gives (if lt then y else x).toNat (px || py))) ∧
      (v.vop = 7 → typeSigned t = true → gives (if x.toInt < 0 then -x else x).toNat px) ∧ (v.vop = 8 → gives (-x).toNat px)) ∧
    (typeFloat t = true →
      let a := fpRead t x
      let b := fpRead t y
      let r := fpRound t v.flg false 0
      (v.at (vSrc2 v.a) e p < 0x48000 →
        (v.vop = 1 → gives (r (a.add v.flg b)) (px || py)) ∧ (v.vop = 2 → gives (r (a.add v.flg b.neg)) (px || py)) ∧
        (v.vop = 3 → gives (r (a.mul b)) (px || py)) ∧ (v.vop = 4 → gives (r ((a.mul b).add v.flg (fpRead t d))) (px || py || pd)) ∧
        (v.vop = 5 → gives (r (a.min b)) (px || py)) ∧ (v.vop = 6 → gives (r (a.max b)) (px || py))) ∧
      (v.vop = 7 → gives (r a.abs) px) ∧ (v.vop = 8 → gives (r a.neg) px) ∧
      (9 ≤ v.vop → v.vop ≤ 13 → gives (r (vFunc v.vop v.flg a)) px)) ∧
    (∀ r, ∀ b, (∀ i, i < e → canon b ≠ canon (quadPa (nWafer n) (nQn n) (v.at (vDst v.b) e p) + i)) →
      ((s.vecPut n v e p (r, false)).vecWent n v p).byteAt b = s.byteAt b)

/-- R400: the special operands of the functions, as FP32 patterns, with the results of each; a finite negative operand of VRSQ and VLOG2
gives the canonical NaN. -/
def Pieces.VectorFunctions : Prop :=
  ∀ (flg y d : Nat), flg < 4 →
    (∀ r ∈ [(9, 0, 0x7F800000), (9, 0x80000000, 0xFF800000), (9, 0x7F800000, 0), (9, 0xFF800000, 0x80000000),
        (10, 0, 0x7F800000), (10, 0x80000000, 0xFF800000), (10, 0x7F800000, 0), (10, 0xFF800000, 0x7FC00000),
        (11, 0, 0x3F800000), (11, 0x80000000, 0x3F800000), (11, 0x7F800000, 0x7F800000), (11, 0xFF800000, 0),
        (12, 0, 0xFF800000), (12, 0x80000000, 0xFF800000), (12, 0x7F800000, 0x7F800000), (12, 0xFF800000, 0x7FC00000),
        (13, 0, 0), (13, 0x80000000, 0x80000000), (13, 0x7F800000, 0x3F800000), (13, 0xFF800000, 0xBF800000)],
      vArith r.1 7 flg r.2.1 y d = r.2.2) ∧
    ∀ x, (0x7F800000 < x → x < 0x80000000 → ∀ op ∈ [9, 10, 11, 12, 13], vArith op 7 flg x y d = 0x7FC00000) ∧
      (0x80000000 < x → x < 0xFF800000 → ∀ op ∈ [10, 12], vArith op 7 flg x y d = 0x7FC00000)

/-- R401, R402: VCMP writes a byte that says whether its comparison holds, NaN operands and natural types among them; VSEL writes its source
where the mask byte is not 0, and nothing where it is; VSHUF writes the element that its index names, zero bits past the last; VFILL the low
bits of x[a]. -/
def Pieces.VectorMoves : Prop :=
  ∀ (s : State) (n : Nat) (v : VCmd) (p : Nat), s.vecReady n v p → v.fmt ≠ 6 →
    let t := v.fmt
    let w := typeBits t
    let e := w / 8
    let (x, px) := s.vecGet n v (vSrc1 v.a) e p
    let (y, py) := s.vecGet n v (vSrc2 v.a) e p
    let gives := fun (u : State) => s.vecGives u n v v p
    let at1 := v.at (vSrc1 v.a) e p
    let atD := v.at (vDst v.b) e p
    (v.vop = 16 → 8 ≤ w → v.flg < 4 → at1 < 0x48000 → v.at (vSrc2 v.a) e p < 0x48000 → v.at (vDst v.b) 1 p < 0x40000 →
      let nan := (fpRead t x).isNan || (fpRead t y).isNan
      let eq := if typeFloat t then (fpRead t x).eq (fpRead t y) else x == y
      let lt := if typeFloat t then (fpRead t x).lt (fpRead t y) else
        if typeSigned t then decide ((BitVec.ofNat w x).toInt < (BitVec.ofNat w y).toInt) else decide (x < y)
      let holds := nth [eq, !eq, lt, !lt && !(typeFloat t && nan)] v.flg false
      gives (s.vecPut n v 1 p (if holds then 1 else 0, px || py))) ∧
    (v.vop = 17 → 8 ≤ w → v.at (vSrc2 v.a) 1 p < 0x48000 →
      let (m, pm) := s.vecGet n v (vSrc2 v.a) 1 p
      (m = 0 → pm = false → gives s) ∧
      (m ≠ 0 ∨ pm = true → at1 < 0x48000 → atD < 0x40000 → gives (s.vecPut n v e p (x, px || pm)))) ∧
    (v.vop = 18 → 8 ≤ w → v.at (vSrc2 v.a) 2 p < 0x48000 → atD < 0x40000 →
      let (k, pk) := s.vecGet n v (vSrc2 v.a) 2 p
      (vCount v.b ≤ k → gives (s.vecPut n v e p (0, pk))) ∧
      (k < vCount v.b → v.at (vSrc1 v.a) e k < 0x48000 →
        let (z, pz) := s.vecGet n v (vSrc1 v.a) e k
        gives (s.vecPut n v e p (z, pz || pk)))) ∧
    (v.vop = 19 → 8 ≤ w → atD < 0x40000 → gives (s.vecPut n v e p (v.a.toNat % 2 ^ w, false))) ∧
    (v.vop = 19 → t = 5 → vDst v.b + p * vStride v.b / 2 < 0x40000 → gives (s.vecPut4 n v p (v.a.toNat % 16, false)))

/-- R404, R66: VCVT and VCVT.S write the value of the source's element rounded to fmt, the latter saturating; under stochastic rounding each
element steps the core's generator first. A source element is the pattern at its address, of FP4 a nibble, or of formatted blocks the next one
delivered; one that goes to FP32 is rounded by the command's code (log 120). -/
def Pieces.VectorConverts : Prop :=
  ∀ (s : State) (n : Nat) (v : VCmd) (p : Nat), s.vecReady n v p → v.vop = 14 ∨ v.vop = 15 → v.fmt ≠ 6 →
    let st := vStype v.b
    let e := typeBits v.fmt / 8
    let size := typeBits st / 8
    let (x, px) := s.vecGet n v (vSrc1 v.a) size p
    let es := blockElems (s.readRun (quadPa (nWafer n) (nQn n) (vSrc1 v.a)) 64)
    (st ≠ 5 → st ≠ 6 → v.at (vSrc1 v.a) size p < 0x48000 → s.vValue n v p = .ok (elemRead st x, px)) ∧
    (st = 5 → vSrc1 v.a + p * vStride v.b / 2 < 0x48000 →
      let (y, py) := s.vecGet4 n v (vSrc1 v.a) p
      s.vValue n v p = .ok (elemRead 5 y, py)) ∧
    (st = 6 → p < es.length → vSrc1 v.a < 0x48000 → s.vValue n v p = .ok (nth es p (.nan, true))) ∧
    (∀ z pz, s.vValue n v p = .ok (z, pz) →
      let g := if v.flg = 4 then lfsr (s.core n).vgen else (s.core n).vgen
      let u := s.setCore n { s.core n with vgen := g }
      let r := elemRound v.fmt v.flg (v.vop == 15) g.toNat z
      (8 ≤ typeBits v.fmt → v.at (vDst v.b) e p < 0x40000 →
        s.vecGives (u.vecPut n v e p (r, pz)) n v v p) ∧
      (v.fmt = 5 → vDst v.b + p * vStride v.b / 2 < 0x40000 →
        s.vecGives (u.vecPut4 n v p (r, pz)) n v v p))

/-- R403: VRED, VSCAN and VDOT add their elements in order, floating types in FP32 with one rounding an element, integer types modulo 2^64;
VSCAN writes each sum, VRED and VDOT the last one at dst; a poisoned element poisons every later result. -/
def Pieces.VectorSums : Prop :=
  ∀ (s : State) (n : Nat) (v : VCmd) (p : Nat), s.vecReady n v p → 8 ≤ typeBits v.fmt → v.fmt ≠ 6 →
    let t := v.fmt
    let w := typeBits t
    let e := w / 8
    let dot := v.vop == 22
    let (x, px) := s.vecGet n v (vSrc1 v.a) e p
    let (y, py) := s.vecGet n v (vSrc2 v.a) e p
    let ext := fun (k : Nat) => if typeSigned t then (BitVec.ofNat w k).signExtend 64 else BitVec.ofNat 64 k
    let term := if dot then (fpRead t x).mul (fpRead t y) else fpRead t x
    let acc := if typeFloat t then BitVec.ofNat 64 (fpRound 7 0 false 0 (term.add 0 (fpRead 7 v.acc.toNat)))
      else v.acc + (if dot then ext x * ext y else ext x)
    let bad := v.accPoison || px || (dot && py)
    let size := if typeFloat t then 4 else 8
    let v' := { v with acc := acc, accPoison := bad }
    let total := s.vecLeft n (quadPa (nWafer n) (nQn n) (vDst v.b)) (natRun size acc.toNat bad)
    v.at (vSrc1 v.a) e p < 0x48000 → (dot = true → v.at (vSrc2 v.a) e p < 0x48000) →
    (v.vop = 21 → v.at (vDst v.b) size p < 0x40000 →
      s.vecGives (s.vecPut n v size p (acc.toNat, bad)) n v v' p) ∧
    (v.vop = 20 ∨ v.vop = 22 →
      (p + 1 ≠ vCount v.b → s.vecGives s n v v' p) ∧
      (p + 1 = vCount v.b → (∀ k, s.vRun n v (k + 1) = s.vRun n { v' with next := p + 1 } k) ∧
        (vDst v.b < 0x40000 → exec (.vectorChunk n) s = .next (total.vecWent n v' p))))

/-- R396, R200: VECTOR_CHUNK runs the elements of a chunk, in ascending order, once the grain of the chunk is drawn, and leaves the command at its
first element not done; without a grain it does nothing else. -/
def Pieces.VectorRuns : Prop :=
  ∀ (s : State) (n : Nat) (v : VCmd),
    let left := 64 - v.next % 64
    let g := s.grain (nField n) (coreUnit n 1) (s.core n).ref
    (s.vecRuns n v → v.next < vCount v.b →
      (v.next / 64 < v.paid → exec (.vectorChunk n) s = .next (s.vRun n v left)) ∧
      (v.paid ≤ v.next / 64 → exec (.vectorChunk n) s =
        .next (if g.2 then g.1.vRun n { v with paid := v.next / 64 + 1 } left else g.1))) ∧
    (v.next < vCount v.b → s.vRun n v 0 = s.setCore n { s.core n with vq := v :: (s.core n).vq.drop 1 }) ∧
    (v.next < vCount v.b → ∀ k f, s.vElem n v v.next = .error f → s.vRun n v (k + 1) = s.vHold n v f) ∧
    (vCount v.b ≤ v.next → v.vop ≠ 20 → v.vop ≠ 22 → ∀ k, s.vRun n v k = s.vDone n)

/-- R396, R397, R403: a command of no element leaves the unit at once, but VRED and VDOT, whose grain is drawn, write +0 or 0 first; an element
outside local space, or a write into the RXB part, stops the command there, with the elements before it written. A command that leaves has
performed: no read that the core has made before serves a load past a later FENCE.acq. -/
def Pieces.VectorEnds : Prop :=
  ∀ (s : State) (n : Nat) (v : VCmd), s.vecRuns n v →
    let sums := v.vop = 20 ∨ v.vop = 22
    let gone := fun (u : State) => u.setCore n { (u.core n).learnt with vq := (u.core n).vq.drop 1 }
    (vCount v.b = 0 → ¬sums → exec (.vectorChunk n) s = .next (gone s)) ∧
    (vCount v.b = 0 → sums → v.paid ≠ 0 → v.acc = 0 → v.accPoison = false → vDst v.b < 0x40000 → v.fmt ≠ 6 →
      exec (.vectorChunk n) s = .next (gone (s.vecLeft n (quadPa (nWafer n) (nQn n) (vDst v.b))
        (natRun (if typeFloat v.fmt then 4 else 8) 0 false)))) ∧
    (∀ l, v.vop = 19 → v.next < vCount v.b → v.next / 64 < v.paid → 8 ≤ typeBits v.fmt → v.fmt ≠ 6 →
      v.at (vDst v.b) (typeBits v.fmt / 8) v.next = l → 0x40000 ≤ l →
      exec (.vectorChunk n) s = .next (s.vHold n v (l, 1)))
/-! ## Events of a core's accesses -/

/-- R95, R96, R98, R309, R351, R352, R387, R389, R391, R406: HOME_ACCESS performs an access at its home. A load takes the bytes at the home,
or those that a read ahead of it has fixed (log 36); a store or STA writes its bytes, as a release where it is one; an AMO takes the old word and
writes the word of its operation, AMO.CAS only where the old word equals the compare value, else the next write bears its release (log 36);
a strand parked on the core that waited for its writes to end then ends (log 112). LDFE takes a full word, leaves its tag empty
and lets the core go on, and waits on an empty one; WAITF ends on a word that differs from its value, and waits on an equal one. -/
def Pieces.HomeAccessPerforms : Prop :=
  ∀ (s : State) (n : Nat) (a : Access), s.performs n a →
    let c := s.core n
    let done := fun (v : W64) => s.setCore n (c.done a.id v)
    let bytes := fun (v : Nat) => natRun a.size v false
    let old := s.readNat a.pa a.size
    let rel := if a.rel then some (Rel.mk (.core n) a.relSc) else none
    let acts := fun (t : State) => exec (.homeAccess n a.id) s = .next (t.endParked n)
    (a.kind = .ld → c.earlyFor a = none → s.poisonRun a.pa a.size = false →
      acts (s.setCore n (c.loaded n a (BitVec.ofNat 64 old) (s.relsAt a.pa a.size)))) ∧
    (∀ e, a.kind = .ld → c.earlyFor a = some e → acts (s.setCore n (c.loaded n a e.v e.rels))) ∧
    (∀ v r, (c.loaded n a v r).port = (c.setPhase a.id (.performed v)).port ∧ (c.loaded n a v r).x = c.x ∧
      (c.loaded n a v r).full = c.full ∧ (c.loaded n a v r).pc = c.pc) ∧
    (a.kind = .st → acts ((done 0).writeAs a.pa (bytes a.data.toNat) ⟨0, 0, n, a.trc, 0⟩ rel)) ∧
    (a.kind = .sta → acts ((done 0).writeAs a.pa (bytes a.data.toNat) ⟨1, 0, n, a.trc, 0⟩ rel)) ∧
    (∀ op, a.kind = .amo op → s.poisonRun a.pa a.size = false →
      let got := s.setCore n ((c.done a.id (BitVec.ofNat 64 old)).didRead a.pa a.size (s.relsAt a.pa a.size))
      (op ≠ .cas ∨ old = a.cmp.toNat →
        acts (got.writeAs a.pa (bytes (amoNew op (8 * a.size) old a.data.toNat)) ⟨2, 0, n, a.trc, 0⟩ rel)) ∧
      (op = .cas → old ≠ a.cmp.toNat → acts (got.setCore n ((got.core n).passFence a)))) ∧
    (a.kind = .ldfe → shas s.qtags (canon a.pa) = true → s.poisonAt a.pa = false → ∃ t, acts t ∧
      t.qtags = sdel s.qtags (canon a.pa) ∧ (t.core n).hold = .none ∧ (t.core n).pc = c.pc + 4 ∧ t.mem = s.mem ∧
      (t.core n).port = (c.setPhase a.id (.performed (s.readW a.pa))).port) ∧
    (a.kind = .waitf → s.poisonAt a.pa = false → s.readW a.pa ≠ a.cmp → ∃ t, acts t ∧ t.mem = s.mem ∧
      (t.core n).hold = .none ∧ (t.core n).pc = c.pc + 4 ∧ (t.core n).port = c.port.filter (fun b => b.id != a.id) ∧
      (t.core n).get a.dst = (if a.dst = 0 then 0 else s.readW a.pa) ∧ (t.core n).isFull a.dst = true) ∧
    (a.kind = .ldfe ∧ shas s.qtags (canon a.pa) = false ∨ a.kind = .waitf ∧ s.poisonAt a.pa = false ∧ s.readW a.pa = a.cmp →
      acts ({ s with serial := s.serial + 1 }.setCore n (c.waits a.id s.serial))) ∧
    (a.kind = .stfe → ∃ t, acts t ∧
      let u := (done 0).writeAs a.pa (bytes a.data.toNat) ⟨0, 0, n, a.trc, 0⟩ rel
      t.mem = u.mem ∧ (u.firstWaiter a.pa = none → t.qtags = sput s.qtags (canon a.pa)))

/-- R74, R75, R107, R76, R151, R388: PRODUCER_ARRIVE writes a performed producer's value, extended as its sz says, to its register, full, and the
access leaves the port; STORE_ACK takes a performed store out of it, and a strand parked on the core that waited for it ends (log 112); RMOV_ARRIVE delivers the oldest value between the quads of two
cores to its register, full, with ovr set where that was full or awaited a local producer; an unbacked remote write is discarded with an event of kind 4, and a read or AMO stops its core with a
fault of type 2. -/
def Pieces.AccessesComeBack : Prop :=
  ∀ (s : State) (n : Nat) (a : Access), (s.core n).find a.id = some a →
    let c := s.core n
    let rest := { c with port := c.port.filter fun b => b.id != a.id }
    (∀ v, a.phase = .performed v → a.isRead = true → a.kind ≠ .record →
      exec (.producerArrive n a.id) s = .next (s.setCore n (rest.put a.dst (a.value v)))) ∧
    (a.performed = true → a.kind = .st ∨ a.kind = .sta ∨ a.kind = .stfe → exec (.storeAck n a.id) s = .next ((s.setCore n rest).endParked n)) ∧
    (∀ src dst m, s.sends.find? (fun m => nQuad m.src == nQuad src && nQuad m.dst == nQuad dst) = some m → m.src = src → m.dst = dst → m.n ≠ 0 →
      ∃ t, exec (.rmovArrive src dst) s = .next t ∧ t.sends = s.sends.erase m ∧ (t.core dst).get m.n = m.v ∧
        (t.core dst).isFull m.n = true ∧
        ((s.core dst).isFull m.n = true ∨ (s.core dst).producing m.n = true → (t.core dst).ovr.getLsbD m.n.toNat = true)) ∧
    (a.phase = .issued → c.mayPerform a = true → s.remoteUnbacked (nWafer n) a.pa = true →
      (a.kind = .st ∨ a.kind = .sta ∨ a.kind = .stfe → ∃ (t : State) (e : Ev), exec (.remoteWriteUnbacked n a.id) s = .next (t.endParked n) ∧ t.mem = s.mem ∧
        (t.core n).port = (c.setPhase a.id (.performed 0)).port ∧
        (t.wafer (nWafer n)).raised = (s.wafer (nWafer n)).raised ++ [e] ∧ e.kind = 4) ∧
      (a.isRead = true → c.fault = none → ∃ t f, exec (.remoteAccessRefused n a.id) s = .next t ∧ t.mem = s.mem ∧
        (t.core n).fault = some s.serial ∧ mfind t.faults s.serial = some f ∧ f.ty = 2 ∧ f.va = a.va ∧
        (a.kind ≠ .record → f.acc = a.kind.code ∧ f.owner = .late n a.id) ∧
        (a.kind = .record → f.acc = 0 ∧ f.owner = .port n ∧ (t.core n).records = [])))

/-- R52: a bounded wait that has passed KWLIM.lim takes the wait-limit trap at its instruction, with the cycles waited in KTVAL; a waiting
LDFE or FWAIT leaves its register as it was, and its access leaves the port. -/
def Pieces.WaitLimit : Prop :=
  ∀ (s : State) (n : Nat) (t0 : Nat), (s.core n).wait = some t0 → (s.core n).fault = none → (∀ e, (s.core n).ending = some e → e.reason = 0) →
    s.unitRuns n .core = true → (s.core n).kwlim ≠ 0 → (s.core n).kwlim.toNat < s.now n - t0 →
    (s.core n).tm = false → (s.core n).ktvec ≠ 0 →
      let c := s.core n
      ∃ t, exec (.waitLimitTrap n) s = .next t ∧ t.mem = s.mem ∧ (t.core n).kcause = 4 ∧ (t.core n).kepc = c.pc ∧
        (t.core n).ktval = BitVec.ofNat 64 (s.now n - t0) ∧ (t.core n).pc = c.ktvec ∧ (t.core n).tm = true ∧
        (t.core n).hold = .none ∧ (t.core n).wait = none ∧ (t.core n).x = c.x ∧
        (∀ h d, c.hold = .fwait h d true → d ≠ 0 → (t.core n).isFull d = true) ∧
        (∀ id a, c.hold = .access id → c.find id = some a → (t.core n).port = c.port.filter (fun b => b.id != id) ∧
          (a.kind = .ldfe → a.hadFull = true → a.dst ≠ 0 → (t.core n).isFull a.dst = true))

/-- R202, R91, R88: ICACHE_FILL brings the line that a quad waits for from memory; TRANSLATION_WALK gives a stream that missed its leaf, from
its field's cache or by a walk, and raises the fault of the access where the walk fails. -/
def Pieces.FillsAndWalks : Prop :=
  ∀ (s : State),
    (∀ quad n pa va asid, (s.quad quad).miss = some (n, pa, va, asid) → (s.quad quad).icache.length < 2048 → s.poisonRun pa 32 = false →
      ∃ t, exec (.icacheFill quad) s = .next t ∧ (t.quad quad).miss = none ∧ t.mem = s.mem ∧
        mfind (t.quad quad).icache (canon pa / 32) =
          some ((List.range 8).map fun i => BitVec.ofNat 32 (s.readNat (pa + 4 * i) 4))) ∧
    (∀ k q, s.walks[k]? = some q →
      let u := { s with walks := s.walks.take k ++ s.walks.drop (k + 1) }
      (∀ l, (s.field q.field).tlb.find? (·.maps q.asid q.va) = some l → exec (.translationWalk k) s =
        .next { u with streams := mput u.streams q.gid l }) ∧
      ((s.field q.field).tlb.find? (·.maps q.asid q.va) = none →
        (∀ l, walkVa u q.fault.wafer q.asid q.va = .ok l → ∃ t, exec (.translationWalk k) s = .next t ∧
          mfind t.streams q.gid = some l ∧ l ∈ (t.field q.field).tlb ∧ (t.field q.field).tlb.length ≤ 2048 ∧ t.mem = s.mem) ∧
        (∀ ty, walkVa u q.fault.wafer q.asid q.va = .error ty →
          exec (.translationWalk k) s = .next (u.raiseGen { q.fault with ty := ty }))))

/-! ## Events of strands -/

/-- R38, R39, R197, R198: an idle core of a running team starts the record that its quad's queue offers, or else its field's, where the pop
counts on those that stay and promotes at once the ones that it brings to 65,536: at the
record's cp with its fp, jc and word 3 in x1 to x3, every other register zero and every register full; a resume record completes
its parked instruction with the value in its save area. -/
def Pieces.StrandStarts : Prop :=
  ∀ (s : State) (n : Nat) (tm : Team) (r : Rec), (s.core n).team = some tm → s.mayStart n tm = true →
    let q := s.quad (nQuad n)
    let f := s.field (nField n)
    let u1 := s.setQuad (nQuad n) { q with contq := q.contq.take r }
    let u2 := s.setField (nField n) { f with contq := (f.contq.take r).counted.promoteAll }
    ∀ u, (q.contq.best n tm.ref = some r ∧ q.contq.starved n tm.ref = false ∧ u = u1 ∨
        q.contq.best n tm.ref = none ∧ f.contq.best n tm.ref = some r ∧ f.contq.starved n tm.ref = false ∧ u = u2) →
      ∃ t, exec (.strandStart n) s = .next t ∧
        let c := t.core n
        (r.rsm = false → c.pc = r.cp ∧ c.get 1 = r.fp ∧ c.get 2 = r.jc ∧ c.get 3 = r.word3 ∧ c.tm = false ∧ c.hold = .none ∧
          c.strand = some ⟨r.cp, r.prio, r.ref⟩ ∧ (∀ i : Reg, c.isFull i = true) ∧
          ∀ i : Reg, i ≠ 1 → i ≠ 2 → i ≠ 3 → c.get i = 0) ∧
        (r.rsm = true →
          let w := fun i => u.coreWord n (s.core n).kasid.toNat (r.fp + BitVec.ofNat 64 (8 * i))
          (w 6).toNat / 2 ^ 56 ≠ 1 → c.pc = r.cp ∧ c.strand.map (·.prio) = some r.prio ∧
            ∀ d : Reg, d.toNat = (w 5).toNat / 2 ^ 10 % 32 → c.get d = (if d = 0 then 0 else w 7))

/-- A queue holds the records of another, those of each partition in their order, and all in theirs while pre-emption has moved none; its
on-chip part has room for `cap`, and in the ring stay only records of partitions with moved ones while it is not full. -/
def refilled (cap : Nat) (old new : ContQ) : Prop :=
  (∀ part, (new.chip ++ new.ring).filter (shPartKey ·.ref.sheaf == part) = (old.chip ++ old.ring).filter (shPartKey ·.ref.sheaf == part)) ∧
  ((∀ x ∈ old.chip, x.out = false) → new.chip ++ new.ring = old.chip ++ old.ring) ∧
  ((∀ x ∈ old.ring, x.out = false) → (∀ x ∈ new.ring, old.away x = true) ∨ cap ≤ new.onChip)

/-- R196, R197, R198: QUEUE_REFILL brings spilled records on chip behind the others, but those of a partition that pre-emption stops; the first
held record of a quad is pushed when its quad's queue has room, and its words are written where it lies in the spill ring; RECORD_PROMOTE
raises the first record that 65,536 pops have passed by one level and puts it last, and one at level 3 keeps its place and is counted anew. -/
def Pieces.RecordsMove : Prop :=
  ∀ (s : State),
    (∀ k, ∃ q, exec (.queueRefill (2 * k)) s = .next (s.setQuad k { s.quad k with contq := q }) ∧ refilled 64 (s.quad k).contq q) ∧
    (∀ k, ∃ q, exec (.queueRefill (2 * k + 1)) s = .next (s.setField k { s.field k with contq := q }) ∧
      refilled 1024 (s.field k).contq q) ∧
    (∀ k h, s.held[k]? = some h → (∀ g ∈ s.held.take k, g.quad ≠ h.quad) → s.partRuns (shPartKey h.crec.ref.sheaf) = true →
      ∀ q, (s.quad h.quad).contq.push 64 (s.qlen h.crec.ref) h.crec = some q →
        exec (.heldRecordPush k) s =
          .next (({ s with held := s.held.take k ++ s.held.drop (k + 1) }.setQuad h.quad { s.quad h.quad with contq := q }).spill q
            (s.quadRing h.quad h.crec.ref) h.crec)) ∧
    (∀ k r, let l := (s.field k).contq.chip ++ (s.field k).contq.ring
      l.find? (fun r => 65536 ≤ r.pops) = some r → ∃ q, exec (.recordPromote k) s = .next (s.setField k { s.field k with contq := q }) ∧
        q.chip ++ q.ring = (if r.prio < 3 then l.erase r ++ [{ r with prio := r.prio + 1, pops := 0 }] else l.replace r { r with pops := 0 }) ∧
        q.chip.length = (s.field k).contq.chip.length)

/-! ## The graph sequencer -/

/-- R188, R189, R207: a doorbell that would overrun the launch ring leaves KLQDB as it was and raises an event of kind 2 with reason 2;
any other sets it. With the tables set and an entry in the ring, LAUNCH_ENTRY_TAKE refuses one with reserved bits set or an invalid
partition, with reason 1, and accepts one whose header and record area can be reached into the lowest free place, as from the host; its head moves on.
POD_SHEAF_ACCEPT does the same for a pod-wide launch passed to a wafer. -/
def Pieces.LaunchRing : Prop :=
  ∀ (s : State) (w : Nat),
    let x := s.wafer w
    (∀ v : W64, let tail : W32 := v.setWidth 32
      ((tail - x.klqHead).toNat ≤ ringSize x.klqb → exec (.launchDoorbell w v) s = .next (s.setWafer w { x with klqTail := tail })) ∧
      (ringSize x.klqb < (tail - x.klqHead).toNat → exec (.launchDoorbell w v) s = .next (s.raiseEv w
        ⟨2, none, [BitVec.ofNat 64 tail.toNat, 2, 0, 0, 0, 0], .other, none⟩))) ∧
    (x.tablesSet = true → x.klqHead ≠ x.klqTail → x.round = none →
      let e := s.launchEntry w
      let part := bits (nth e 1 0) 13 8
      let pw := s.partWords w part
      (entryReserved e = true ∨ partValid pw = false → (∀ v ∈ x.raised, v.kind ≠ 2) →
        ∃ t v, exec (.launchEntryTake w) s = .next t ∧ (t.wafer w).klqHead = x.klqHead + 1 ∧
          (t.wafer w).raised = x.raised ++ [v] ∧ v.kind = 2 ∧ v.words = [BitVec.ofNat 64 x.klqHead.toNat, 1, 0, 0, 0, 0]) ∧
      (entryReserved e = false → partValid pw = true → (∀ y ∈ x.podIn, y.part ≠ part) →
        ∀ slot h, s.freePlace w part = some slot → s.hwReads w (partAsid pw) (nth e 0 0) 8 = some h → s.recOk w (partAsid pw) h = true →
          ∃ t sh, exec (.launchEntryTake w) s = .next t ∧ (t.wafer w).klqHead = x.klqHead + 1 ∧
            mfind t.sheaves (w * 4096 + part * 64 + slot) = some sh ∧ sh.va = nth e 0 0 ∧ sh.host = true ∧
            sh.prio = bits (nth e 1 0) 1 0 ∧ sh.tag = nth e 2 0 ∧ sh.hdr = h)) ∧
    (∀ e slot h, x.podIn.find? (fun e => (s.freePlace w e.part).isSome) = some e → s.freePlace w e.part = some slot →
      let asid := partAsid (s.partWords w e.part)
      partValid (s.partWords w e.part) = true → s.hwReads w asid e.va 8 = some h → s.recOk w asid h = true →
        ∃ t sh, exec (.podSheafAccept w) s = .next t ∧ (t.wafer w).podIn.map (·.va) = (x.podIn.erase e).map (·.va) ∧
          mfind t.sheaves (w * 4096 + e.part * 64 + slot) = some sh ∧ sh.va = e.va ∧ sh.pod = some e.pod ∧ sh.master = e.master)

/-- R192, R193, R194, R37, R78, R191, R278: the first clause, that a walk of a partition has read the nodes of each of its sheaves, or refuses it, is
the model's choice (logs 75 and 99): R278 says only that each node entry is read once, when it is first considered. A core kernel whose
turn it is takes its rectangle, its cores and its frame region, the tags of its quads empty; one of age 64, with no reservation in its
partition and none older waiting, reserves a rectangle; a residency with a number takes its region, and waits at the first entry of its
list. Each comes after the walk. -/
def Obligations.NodesArePlaced : Prop :=
  ∀ (s0 : State) (r : NodeRef),
    let part := shPartKey r.sheaf
    let s := s0.walk part
    (∀ k sh, s0.partRuns part = true → mfind s.sheaves k = some sh → shPartKey k = part → sh.read = true ∨ sh.bad ≠ 0) ∧
    (s.eligible r = true →
    let w := shWafer r.sheaf
    let ws := s.nodeWords r
    let d := teamDims ws
    (∀ o a u, s.isKernel r = true → s.turnOf r = true → ((s.part part).reserved = none → s.aged part = []) → s.kernelFit r = some (o, a, u) →
      ∃ t n, exec (.nodePlace r.sheaf r.node) s0 = .next t ∧ t.node? r = some n ∧ n.st = .placed ∧
        n.place = .team o.1 o.2 d.1 d.2 ∧ n.frame = (a, frameBytes ws) ∧
        (∀ qn ∈ rectQuads o.1 o.2 d.1 d.2, ∀ c, c < 4 →
          (t.core (mkName w qn c)).team = some ⟨r, o.1, o.2, d.1, d.2⟩) ∧
        ∀ b ∈ t.qtags, ∀ qn l, homeOf b = .quad w qn l → qn ∉ rectQuads o.1 o.2 d.1 d.2) ∧
    (∀ o, s.isKernel r = true → 64 ≤ s.ageOf r → (s.part part).reserved = none →
      (∀ x ∈ s.aged part, s.ageOf x ≤ s.ageOf r) →
      firstFit (fieldOrder (s.fmapOf r) (hintOf ws)) d.1 d.2 (s.quadMine w (s.fmapOf r)) = some o →
        exec (.nodeReserve r.sheaf r.node) s0 = .next (s.setPart part { s.part part with reserved := some (r, o.1, o.2) })) ∧
    (∀ n id u, s.node? r = some n → n.stamp ≠ 0 → bits (nth ws 0 0) 63 60 = 1 → s.turnOf r = true → s.neverFits r = false →
      (bits (nth n.words 3 0) 15 0 = 0 ∨ s.graphOf part (bits (nth n.words 3 0) 15 0) = none) →
      s.residPlace r n.words n.stamp = some (id, u) →
        ∃ t m x, exec (.residencyPlace r.sheaf r.node) s0 = .next t ∧ t.node? r = some m ∧ m.st = .placed ∧ m.place = .region id ∧
          mfind t.resids id = some x ∧ x.ref = r ∧ x.list = nth n.words 1 0 ∧ x.st = .reach ∧ x.cc = 0))

/-- The records of node `r`'s group binding that follow, written from state `s` on, leave the state `t`: each enrols its group, which is
free, and the node then runs (R282, R354). -/
def bindsTo (r : NodeRef) : List (Nat × W64) → State → State → Prop
  | [], s, t => t = s.modNode r fun n => { n with st := .running, binds := [] }
  | x :: rs, s, t =>
    let name := shWafer r.sheaf * 2 ^ 14 + x.1
    let e := s.lgrpWrite name x.2 (shPartKey r.sheaf) (some r)
    bitAt x.2 63 = true ∧ (s.gt name).v = false ∧ memBad (bits x.2 50 42) = false ∧ s.mapFault (shWafer r.sheaf) x.2 = none ∧
      (∀ n, s.node? r = some n → n.skip = false) ∧ e.2 = 0 ∧ bindsTo r rs e.1 t

/-- R184, R195, R282, R285: an edge-graph node whose graphs can be bound and whose slots and cells are free runs on its slots; a host
sheaf's group-binding node whose groups are free and whose LGRPs are done runs on its groups; one from LAUNCH is done with
status 5. -/
def Obligations.EdgeAndGroupNodes : Prop :=
  ∀ (s0 : State) (r : NodeRef),
    let s := s0.walk (shPartKey r.sheaf)
    s.turnOf r = true → s.mayBegin r = true →
    (∀ gs, s.isEdge r = true → s.nodeGraphs r = some gs → slotsOnce (s.edgeSlots r) = true →
      (∀ g ∈ gs, bindOk g.2.1 g.2.2.1 g.2.2.2 = true ∧ s.cellsBusy g.1.1 g.1.2 g.2.2.2 = false) → graphsClash gs = false →
      s.slotsFree r = true →
        ∃ t n, exec (.edgeGraphBind r.sheaf r.node) s0 = .next t ∧ t.node? r = some n ∧ n.st = .running ∧ n.place = .slots) ∧
    (∀ sh m, mfind s.sheaves r.sheaf = some sh → s.node? r = some m → m.kind = 3 → m.st = .waiting →
      (sh.host = false → ∃ t n, exec (.groupBindingPlace r.sheaf r.node) s0 = .next t ∧ t.node? r = some n ∧ n.st = .done ∧
        n.status = 5 ∧ n.abn = true) ∧
      (∀ rs t, sh.host = true → s.bindRecords r = some rs →
        (∀ x ∈ rs, (s.gt (shWafer r.sheaf * 2 ^ 14 + x.1)).v = false) → s.groupsWanted r (rs.map (·.1)) = false →
        bindsTo r rs ((s.placedOne r).modNode r fun n => { n with st := .placed, place := .groups }) t →
          exec (.groupBindingPlace r.sheaf r.node) s0 = .next t ∧ ∃ n, t.node? r = some n ∧ n.st = .running))

/-- R31, R32, R37, R285: a placed node starts in its turn, and a core kernel's start pushes a pinned record for each of its ranks, or
holds it at its join block; a running node with no strand, command, access or residency left is done, its place given back: an edge graph
once its streams have drained and its slots are free. -/
def Obligations.NodesRunAndComplete : Prop :=
  ∀ (s : State) (r : NodeRef) (n : Node), s.node? r = some n →
    (n.st = .placed → n.place ≠ .groups → s.mayBegin r = true → s.partRuns (shPartKey r.sheaf) = true →
      (s.wafer (shWafer r.sheaf)).round = none →
      ∃ t m, exec (.nodeStart r.sheaf r.node) s = .next t ∧ t.node? r = some m ∧ m.st = .running ∧ m.place = n.place ∧
        ∀ tq0 ty0 tw th, n.place = .team tq0 ty0 tw th → ∀ k, k < 4 * tw * th →
          let name := (⟨r, tq0, ty0, tw, th⟩ : Team).coreOf (shWafer r.sheaf) k
          ∃ x : Rec, (x ∈ (t.quad (nQuad name)).contq.chip ++ (t.quad (nQuad name)).contq.ring ∨
              (⟨nQuad name, x⟩ : HeldRec) ∈ t.held) ∧
            x.ref = r ∧ x.pin = true ∧ x.core = name ∧ x.cp = BitVec.ofNat 64 (bits (nth n.words 1 0) 55 0) ∧
            x.fp = BitVec.ofNat 64 (n.frame.1 + 64 + k * bits (nth n.words 2 0) 63 32) ∧ x.jc = BitVec.ofNat 64 n.frame.1) ∧
    (n.st = .running → (s.part (shPartKey r.sheaf)).st ≠ .swapped → s.hasStrand r = false → s.anyCommand r = false →
      s.anyAccess r = false → s.anyResid r = false →
      (s.isEdge r = true → s.edgeDrained r n = true ∧ (s.releaseSlots r).slotsGone r = true) →
        ∃ t m, exec (.nodeComplete r.sheaf r.node) s = .next t ∧ t.node? r = some m ∧ m.st = .done ∧ m.place = .none)

/-- R285, R278, R305, R49, R149, R284: a sheaf whose nodes are all done, and a refused one, leaves its place; once every node that is no edge graph
is done, end-of-stream stands at the access port of each slot that a running view node holds, unless the node has sent it already; a queued message whose graph is bound, its partition running, reaches its port; the
trunks of a phase's groups wake its lead before it begins, in device time; a trunk idle past KLEAD.idle outside every phase sleeps. -/
def Obligations.SheavesAndTheirParts : Prop :=
  ∀ (s : State),
    (∀ k sh, let u := s.walk (shPartKey k)
      mfind u.sheaves k = some sh → Rising u.sheaves → (u.part (shPartKey k)).st ≠ .swapped → u.podOver k sh = true →
      (sh.bad = 0 → sh.read = true ∧ ∀ e ∈ sh.nodes, e.2.st = .done) → (sh.bad = 2 → u.refusalHeld (shWafer k) = false) →
        ∃ t, exec (.sheafComplete k) s = .next t ∧ mfind t.sheaves k = none) ∧
    (∀ k sh, mfind s.sheaves k = some sh → (∀ e ∈ sh.nodes, e.2.st = .done ∨ bits (nth e.2.words 0 0) 63 60 = 2) →
      ∃ t, exec (.viewEosSend k) s = .next t ∧ t.mem = s.mem ∧
        ∀ e ∈ sh.nodes, e.2.st = .running → bits (nth e.2.words 0 0) 63 60 = 2 →
          (e.2.eos = false → ∃ n, t.node? ⟨k, e.1⟩ = some n ∧ n.eos = true) ∧
          (Rising sh.nodes → slotsOnce (s.edgeSlots ⟨k, e.1⟩) = true → ∀ x ∈ s.edgeSlots ⟨k, e.1⟩, let old := s.slot x.1 x.2
            old.bound = true → old.held = some ⟨k, e.1⟩ → old.kind ≤ 1 →
              (t.slot x.1 x.2).port = if e.2.eos then old.port else old.port ++ [.eos])) ∧
    (∀ k m i, (s.field k).msgq.find? (fun m => s.partRuns (shPartKey m.sheaf) && (s.graphOf (shPartKey m.sheaf) m.graph).isSome) = some m →
      s.graphOf (shPartKey m.sheaf) m.graph = some i →
        exec (.amsgDeliver k) s = .next ((s.setField k { s.field k with msgq := (s.field k).msgq.erase m }).modResid i fun r =>
          { r with msgs := r.msgs ++ m.toks })) ∧
    (∀ k sh ph, mfind s.sheaves k = some sh → sh.bad = 0 → ph < bits (nth sh.hdr 1 0) 23 16 → shas sh.woken ph = false →
      let ws := s.phaseWords k sh ph
      sh.time + 1000 * bits (nth ws 0 0) 63 32 ≤ s.devTime (shWafer k) + 1000 * bits (s.wafer (shWafer k)).klead 15 0 →
        ∃ t, exec (.phaseWake k ph) s = .next t ∧ ∀ g ∈ phaseGroups ws, ∀ j, j < 4 →
          (s.gt (shWafer k * 2 ^ 14 + g)).tmask.testBit j = true → t.trunk (shWafer k * 64 + gCtl g) j = (true, s.time)) ∧
    (∀ c j, (s.trunk c j).1 = true → 1000 * bits (s.wafer (c / 64)).klead 47 32 < s.time - (s.trunk c j).2 → s.inPhase c j = false →
      exec (.trunkSleep c j) s = .next (s.setCtl c { s.ctl c with trunks := mput (s.ctl c).trunks j (false, (s.trunk c j).2) }))
/-! ## Engine commands -/

/-- The engine commands but MMA, with the checks of their fields; `n` is the core of the queue. -/
def engineCommands (n : Nat) (w : Cmd) : List (Instr × (QCmd → Bool)) :=
  [(.mld w, ldStOk), (.mst w, ldStOk), (.mcvt w, cvtOk), (.mzero w, zeroOk), (.mring w, ringOk n), (.xcopy w, xcopyOk),
    (.xfill w, xfillOk), (.xgath w, xindexOk), (.xscat w, xindexOk), (.xswz w, xswzOk), (.ltx w, ltxOk), (.lrx w, lrxOk),
    (.lgrpEnrol w, lgrpOk 16), (.lgrpDissolve w, lgrpOk 16), (.lgrpRd w, lgrpOk 8), (.ered w, eredOk), (.cred w, credOk),
    (.gbind w, gOk false), (.gacc w, gOk false), (.gunbind w, gOk true)]

/-- R212, R209, R255, R33: a command that breaks a rule of its format traps: its mailbox takes st 1, its queue halts with the command at its
head, and an event of kind 5 is raised, which names this stop. Of an MMA two of these rules are the model's choice: what a scale band past the
QSP does (logs 53, 54), and the alignment of formatted operands (log 94). A command that ends writes its mailbox, a release at its scope of the
agent that the engine is (log 101), in a section after the last pass only, and leaves the queue, whose place the GS fills with the next command of a table that it feeds
(log 114); a section's command with passes to come goes behind the other commands of its section. -/
def Obligations.CommandsAnswer : Prop :=
  ∀ (s : State) (q : Nat) (c : QCmd) (st opnd : Nat),
    let e := s.queue q
    let seq := (e.seq + 1) % 2 ^ 32
    let mail := fun (s : State) (st opnd : Nat) =>
      (s.setQueue q { e with seq := seq }).writeAs (engPa q (8 * Cmd.mbox c.c)) (natRun 8 (mailWord st (Cmd.op c.c) opnd seq).toNat false)
        ⟨3, engCls q, engAgent q, false, 0⟩ (some ⟨engParty q, Cmd.msc c.c⟩)
    let left := fun (l : List QCmd) => { e with cmds := l.take 32, feed := l.drop 32, prog := resetProg, stopped := false }
    (∀ rest, e.cmds = c :: rest →
      (c.sect = true → c.last = false → let l := rest ++ e.feed
        s.cmdDone q c st = s.setQueue q (left (l.take (c.slen - 1) ++
          { c with pass := c.pass + 1, last := decide (c.pass + 2 = c.tiles) } :: l.drop (c.slen - 1)))) ∧
      (c.sect = false ∨ c.last = true → (s.cmdDone q c st).mem = (mail s st 0).mem ∧
        (s.cmdDone q c st).queue q = { left (rest ++ e.feed) with seq := seq } ∧ e.popped = left (rest ++ e.feed))) ∧
    ((s.cmdTrap q c st opnd).mem = (mail { s with serial := s.serial + 1 } st opnd).mem ∧
      (s.cmdTrap q c st opnd).queue q = { e with seq := seq, halt := true, stop := s.serial } ∧
      ∃ v : Ev, ((s.cmdTrap q c st opnd).wafer (nWafer (qName q))).raised = (s.wafer (nWafer (qName q))).raised ++ [v] ∧
        v.kind = 5 ∧ v.ref = c.ref ∧ v.what = .queue q s.serial ∧ nth v.words 1 0 = BitVec.ofNat 64 (qEng q) ∧
        nth v.words 2 0 = mailWord st (Cmd.op c.c) opnd seq) ∧
    (s.headCmd s.curQ = some c → ∀ w,
      (∀ p ∈ engineCommands (qName s.curQ) w, c.headOk = false ∨ p.2 c = false → exec p.1 s = .next (s.cmdTrap s.curQ c 1 0)) ∧
      ((s.prog s.curQ).on = false → c.headOk = false ∨ mmaOk (s.core (qName s.curQ)).kggeo c = false →
        exec (.mma w) s = .next (s.cmdTrap s.curQ c 1 0)))

/-- R131, R132, R362, R363: for each run of on elements of the rectangle, MLD loads the ACS row from memory, MST stores it as FP32, and MCVT
stores the converted elements and steps the generator, an FP4 run in one write that keeps the nibbles it shares with others; after the last pass each command's mailbox is written. -/
def Pieces.MatrixMoves : Prop :=
  ∀ (s : State) (w : Cmd) (c : QCmd), s.heads c →
    let q := s.curQ
    let p := s.prog q
    let m := s.core (qName q)
    p.on = true → p.fresh →
    (c.passEnd ≤ p.u → (∀ x ∈ [Instr.mld w, .mst w], ldStOk c = true → exec x s = .next (s.cmdDone q c 0)) ∧
      (cvtOk c = true → exec (.mcvt w) s = .next (s.cmdDone q c 0))) ∧
    (∀ r, p.u < c.passEnd → p.i < Cmd.walkLen c.c → Cmd.runAt c.c m.kggeo p.i p.j = some r →
      let acc := Cmd.runAcc c.c p.u r
      (∀ pa trc, ldStOk c = true → s.engReaches q c (acc 0) (4 * r.len) pa trc → ∃ t, exec (.mld w) s = .next t ∧ t.mem = s.mem ∧
        (t.prog q).i = p.i ∧ (t.prog q).hit = (if (s.readRun pa (4 * r.len)).any (·.2) then p.hit ||| 1#128 <<< r.row else p.hit) ∧
        (∀ x, x < r.len → (t.core (qName q)).acsAt r.row (r.col + x) = BitVec.ofNat 32 (s.readNat (pa + 4 * x) 4)) ∧
        ∀ row col, row ≠ r.row ∨ col < r.col ∨ r.col + r.len ≤ col → row < 128 → col < 128 → (t.core (qName q)).acsAt row col = m.acsAt row col) ∧
      (∀ pa trc, ldStOk c = true → s.engReaches q c (acc 1) (4 * r.len) pa trc → ∃ t, exec (.mst w) s = .next t ∧ t.mem =
        (s.write pa ((List.range r.len).flatMap fun x => natRun 4 (m.acsAt r.row (r.col + x)).toNat (m.kap.getLsbD r.row))
          ⟨3, engCls q, engAgent q, trc, 0⟩).mem) ∧
      (∀ pa trc, cvtOk c = true → Cmd.fmt c.c ≠ 5 → let k := typeBits (Cmd.fmt c.c) / 8
        s.engReaches q c (acc 1) (r.len * k) pa trc → ∃ t, exec (.mcvt w) s = .next t ∧
          t.mem = (s.write pa ((cvtRun c.c m.mgen (m.acsRun r)).flatMap fun v => natRun k v (m.kap.getLsbD r.row))
            ⟨3, engCls q, engAgent q, trc, 0⟩).mem ∧
          (t.core (qName q)).mgen = genAfter (bits c.c.w2 42 40) m.mgen r.len) ∧
      (∀ pa trc, cvtOk c = true → Cmd.fmt c.c = 5 →
        let vs := cvtRun c.c m.mgen (m.acsRun r)
        let odd := r.el % 2 == 1
        let bytes := nibBytes (if odd then 0 :: vs else vs) (m.kap.getLsbD r.row)
        s.engReaches q c (acc 1) bytes.length pa trc → ∃ t, exec (.mcvt w) s = .next t ∧
          t.mem = (s.write pa (s.mergeHalf pa bytes odd ((r.el + r.len) % 2 == 1)) ⟨3, engCls q, engAgent q, trc, 0⟩).mem ∧
          (t.core (qName q)).mgen = genAfter (bits c.c.w2 42 40) m.mgen r.len))

/-- R131, R362: MZERO zeroes every on element of its rectangle, clears the poison of the rows that are on in every column, and leaves
every other element. -/
def Pieces.MatrixZero : Prop :=
  ∀ (s : State) (w : Cmd) (c : QCmd), s.heads c → zeroOk c = true → c.pass0 < c.passEnd →
    let n := qName s.curQ
    let m := s.core n
    ∃ t, exec (.mzero w) s = .next (t.cmdDone s.curQ c 0) ∧ t = s.setCore n (t.core n) ∧
      (∀ row col, row < 128 → col < 128 → (t.core n).acsAt row col =
        if (row, col) ∈ Cmd.rectOn c.c m.kggeo then 0 else m.acsAt row col) ∧
      ∀ row, row < 128 → (t.core n).kap.getLsbD row = (m.kap.getLsbD row && !(Cmd.wholeRows c.c m.kggeo).contains row)

/-- R119, R124, R365, R366: an MMA in order begins at its first step. A step whose slot or tile does not agree in its tags stops the command
before it reads an operand or draws a grain. A step whose operands are ready and clean, and whose tags agreed when they
were compared, adds to each on element of its tile the sum of sixteen products, or stores that sum where the command zeroes, and leaves every
other element; it then frees the slot that it waited for, and posts it again where the command says so. Next it forwards B, once the next
latch has room, and the step after it follows; after the last step the command ends. Where the command asks for the residue check and the check
finds the array wrong (a free value, log 25), the same step poisons the sixteen rows of the tile and stops the command with the residue fault
(R136). What a step waits for first is the model's choice where a network queue posts its slot (log 105). -/
def Obligations.MmaSteps : Prop :=
  ∀ (s : State) (w : Cmd) (c : QCmd) (n : Nat),
    let q := queueKey n 0 0
    let p := s.prog q
    let m := s.core n
    (s.curQ = q → s.heads c → p.on = false → mmaOk m.kggeo c = true → qName q = n →
      exec (.mma w) s = .next (s.setProg q { resetProg with on := true, u := c.pass0 * Cmd.steps c.c })) ∧
    (qName q = n → s.headCmd q = some c → Cmd.op c.c = 1 → p.on = true → (s.queue q).halt = false → (s.queue q).fault = none →
      s.engRuns q = true → p.k ≠ 1 → m.fwd = none →
      (c.passEnd * Cmd.steps c.c ≤ p.u → exec (.mmaStep n) s = .next (s.cmdDone q c 0)) ∧
      (∀ t : State, p.u < c.passEnd * Cmd.steps c.c → t = s.setProg q { p with m := p.u + 1 } →
        (p.u % Cmd.steps c.c = 0 → p.m ≠ p.u + 1 → s.passMismatch q c.c ((List.range (Cmd.steps c.c)).map (· + p.u)) = 0) →
        s.mmaWaits q c p.u = false → (Cmd.bsrc c.c = 2 → ∀ x ∈ m.latch.take 1, x.fmt = Cmd.fb c.c) → Cmd.bsrc c.c ≠ 0 →
        Cmd.fa c.c ≠ 6 → Cmd.fb c.c ≠ 6 ∨ Cmd.bsrc c.c = 2 → p.n ≠ p.u + 1 →
        s.stepMismatch q c.c [] (tileBlocks (Cmd.fb c.c) (Cmd.bBase c.c p.u) (Cmd.ldb c.c)) = 2 →
          exec (.mmaStep n) s = .next (t.cmdTrap q c 2 2)) ∧
      (∀ a ab b bb, p.u < c.passEnd * Cmd.steps c.c → mmaOk m.kggeo c = true → p.fresh → p.i = 0 → p.j = 0 →
        (p.u % Cmd.steps c.c = 0 → p.m ≠ p.u + 1 → s.passMismatch q c.c ((List.range (Cmd.steps c.c)).map (· + p.u)) = 0) →
        s.mmaWaits q c p.u = false → (Cmd.bsrc c.c = 2 → ∀ x ∈ m.latch.take 1, x.fmt = Cmd.fb c.c) →
        s.operand q (Cmd.fa c.c) (Cmd.aBase c.c p.u) (Cmd.lda c.c) (Cmd.aswz c.c) 0x40000 = .ok (a, ab) →
        s.bOperand q c.c p.u = .ok (b, bb) →
        (p.n ≠ p.u + 1 → s.stepMismatch q c.c ab (if Cmd.fb c.c = 6 ∧ Cmd.bsrc c.c ≠ 2 then bb
          else tileBlocks (Cmd.fb c.c) (Cmd.bBase c.c p.u) (Cmd.ldb c.c)) = 0) →
        p.k = 2 ∨ (s.grain (nField n) (coreUnit n 0) c.ref).2 = true →
        let x := stepArgs c.c m.kggeo p.u a b (s.bandScales q c.c)
        x.badRows = [] → x.badB = false →
          let wrong := s.residueWrong c.c x
          ∃ t : State, exec (.mmaStep n) s = .next (t.mmaForward q c p.u) ∧ (t.prog q).k = 1 ∧ (t.prog q).mode = (if wrong then 3 else 0) ∧
            (t.core n).fwd = m.forwardTo.map (fun next => (next, ⟨Cmd.fb c.c, s.tileTag q c.c bb, b⟩)) ∧
            t.quad (nQuad n) = (if Cmd.trg c.c = 1 then (s.quad (nQuad n)).consume (Cmd.slotOf c.c p.u) (bitAt c.c.w0 6)
              else s.quad (nQuad n)) ∧ t.mem = s.mem ∧
            (∀ row, row < 128 → (t.core n).kap.getLsbD row =
              (m.kap.getLsbD row || (wrong && decide (Cmd.arow c.c ≤ row ∧ row < Cmd.arow c.c + 16)))) ∧
            (∀ i j, i < 16 → j < 16 →
              let at_ := Cmd.land c.c i j
              (t.core n).acsAt at_.1 at_.2 = if x.row i && x.col j then
                  add32 (if bitAt c.c.w0 0 && p.u == 0 then 0 else m.acsAt at_.1 at_.2) (x.dot i j)
                else m.acsAt at_.1 at_.2) ∧
            ∀ row col, row < 128 → col < 128 → (∀ i j, i < 16 → j < 16 → Cmd.land c.c i j ≠ (row, col)) →
              (t.core n).acsAt row col = m.acsAt row col)) ∧
    (qName q = n → s.headCmd q = some c → Cmd.op c.c = 1 → p.on = true → (s.queue q).halt = false → (s.queue q).fault = none →
      s.engRuns q = true → p.k = 1 →
      exec (.mmaStep n) s = .next (s.mmaForward q c p.u) ∧
      ((∃ x, m.fwd = some x ∧ s.latchRoom x.1 = false) → s.mmaForward q c p.u = s) ∧
      ((∀ x, m.fwd = some x → s.latchRoom x.1 = true) →
        let v := (s.setCore n { m with sent := m.sent ++ m.fwd.toList, fwd := none }).setProg q { p with k := 0, mode := 0 }
        (p.mode = 0 → s.mmaForward q c p.u = v.setProg q { p with k := 0, mode := 0, u := p.u + 1, i := 0, j := 0 }) ∧
        (p.mode = 3 → s.mmaForward q c p.u = v.poisonStop q c p.u 2 (BitVec.ofNat 64 (Cmd.aBase c.c p.u)))))

/-- R124, R368: with its latch empty and no tile on the way, MRING gives its core its place in a ring of cores of the team, or in none where
the ring has one member; the oldest tile that a core forwarded reaches the next member's latch. -/
def Pieces.Rings : Prop :=
  ∀ (s : State) (w : Cmd) (c : QCmd) (n : Nat),
    (s.heads c → let k := qName s.curQ
      ringOk k c = true → s.teamMate k (bits c.c.w1 51 32) = true → (s.core k).latch = [] → (s.core k).sent = [] → (s.core k).fwd = none →
        let size := bits c.c.w1 3 0 + 1
        exec (.mring w) s = .next ((s.setCore k { s.core k with
          ring := if size = 1 then none else some (size, bits c.c.w1 7 4, bits c.c.w1 51 32) }).cmdDone s.curQ c 0)) ∧
    (∀ next x rest, (s.core n).sent = (next, x) :: rest → next ≠ n → ∃ t, exec (.ringTileArrive n) s = .next t ∧
      (t.core n).sent = rest ∧ (t.core next).latch = (s.core next).latch ++ [x] ∧ t.mem = s.mem)

/-! ## The copy engine -/

/-- R408 to R411: a copy in order begins at its first pass, where earlier passes of its section have left its destination, and ends after its
last, with the later passes of its section moved past what it has covered (log 26). A chunk that needs no conversion, its queue's turn
come round, its source and destination within one page each and its grains drawn, is written to its destination: XCOPY's as it stands
at the source, XFILL's from the pattern, XGATH's from the source row and XSCAT's to the destination row of its index. While another of
the four queues has its turn, nothing is done. -/
def Pieces.CopiesMove : Prop :=
  ∀ (s : State) (w : Cmd) (c : QCmd), s.heads c →
    let q := s.curQ
    let p := s.prog q
    ∀ x ∈ [(Instr.xcopy w, xcopyOk c, 0x10), (.xfill w, xfillOk c, 0x11), (.xgath w, xindexOk c, 0x12), (.xscat w, xindexOk c, 0x13)],
      x.2.1 = true → Cmd.op c.c = x.2.2 →
      (p.on = false → ∃ t, exec x.1 s = .next t ∧ (t.prog q).on = true ∧ (t.prog q).u = c.pass0 ∧
        (t.prog q).adv = c.adv ∧ (s.copyMeets q c = false → (t.prog q).mode = 0) ∧ t.mem = s.mem) ∧
      (p.on = true → c.passEnd ≤ p.u → exec x.1 s =
        .next (if c.sect then (s.setQueue q { s.queue q with
            cmds := { c with adv := p.adv } :: (s.queue q).cmds.drop 1 }).cmdDone q { c with adv := p.adv } 0
          else s.cmdDone q c 0)) ∧
      (p.on = true → p.u < c.passEnd → s.copyTurn q = false → exec x.1 s = .next s) ∧
      (p.on = true → p.u < c.passEnd → s.copyTurn q = true → p.fresh → p.mode = 0 → p.n = 0 → p.i < Cmd.cRows c.c → p.j < Cmd.cChunks c.c →
        Cmd.cFsrc c.c = Cmd.cFdst c.c → let len := min 512 (Cmd.cLen c.c - 512 * p.j)
        p.m + len ≤ 512 * p.k → let idx := s.peekIdx q c.c p.u p.i
        (0x12 ≤ x.2.2 → s.poisonRun (engPa q (Cmd.cIdxAt c.c p.u p.i)) 4 = false ∧ Cmd.cIdxAt c.c p.u p.i + 4 ≤ 0x40000) →
        ∀ pa pb trc trc', s.engReaches q c ⟨0, 1, Cmd.cDstRow c.c p.adv p.i idx + BitVec.ofNat 64 (512 * p.j), 1, []⟩ len pb trc →
          (x.2.2 ≠ 0x11 → s.engReaches q c ⟨0, 0, Cmd.cSrcRow c.c p.u p.i idx + BitVec.ofNat 64 (512 * p.j), 0, []⟩ len pa trc') →
          ∃ t, exec x.1 s = .next t ∧ t.mem = (s.write pb
            (if x.2.2 = 0x11 then (List.range len).map fun k => (BitVec.ofNat 8 (bits c.c.w1 31 0 >>> (8 * ((512 * p.j + k) % 4))), false)
              else s.readRun pa len) ⟨3, engCls q, engAgent q, trc, 0⟩).mem)

/-- R93, R133, R412, R408: XSWZ, its queue's turn come round, moves the next 512-byte block of its passes, read under the tag of its source and
written under the command's; after its last block it ends. While another of the four queues has its turn, nothing is done. The order is the model's (log
97): a command that overwrites what it reads later goes from its last block down where it has one pass, and of several passes first reads all
blocks, a block that cannot be read being left for its turn, and then writes them in order. -/
def Pieces.SwizzleMoves : Prop :=
  ∀ (s : State) (w : Cmd) (c : QCmd), s.heads c → xswzOk c = true →
    let q := s.curQ
    let p := s.prog q
    let total := Cmd.zBlocks c.c * (c.passEnd - c.pass0)
    let from_ := bits c.c.w1 55 0
    let to_ := bits c.c.w2 55 0
    let next := fun (t : State) => (t.queue q).prog
    (p.on = false → exec (.xswz w) s = .next (s.setProg q { resetProg with on := true, mode :=
      if from_ < to_ ∧ to_ < from_ + 512 * total then (if c.passEnd - c.pass0 = 1 then 1 else 2) else 0 })) ∧
    (p.on = true → total ≤ p.i → p.mode ≠ 2 → exec (.xswz w) s = .next (s.cmdDone q c 0)) ∧
    (p.on = true → total ≤ p.i → p.mode = 2 → exec (.xswz w) s =
      .next (s.setProg q { resetProg with on := true, mode := 3, buf := p.buf, holes := p.holes })) ∧
    (p.on = true → p.i < total → s.copyTurn q = false → exec (.xswz w) s = .next s) ∧
    (p.on = true → p.i < total → s.copyTurn q = true → p.fresh →
      let x := if p.mode = 1 then total - 1 - p.i else p.i
      let src := Cmd.cSrc c.c + BitVec.ofNat 64 (512 * (Cmd.zBlocks c.c * c.pass0 + x))
      let dst := Cmd.cDst c.c + BitVec.ofNat 64 (512 * (Cmd.zBlocks c.c * c.pass0 + x))
      ∀ pa pb trc trc', s.engReaches q c ⟨0, 0, src, 0, []⟩ 512 pa trc → s.engReaches q c ⟨0, 1, dst, 1, []⟩ 512 pb trc' →
        let laid := (List.range 512).map fun x => nth (s.readRun pa 512)
          (swzByte (s.tagAt (engPa q (src.toNat - localBase))) (swzByte (Cmd.zTag c.c) x)) (0, false)
        let ahead := (p.buf.drop (512 * x)).take 512
        (p.mode = 2 → ∃ t, exec (.xswz w) s = .next t ∧ t.mem = s.mem ∧
          next t = { resetProg with on := true, mode := 2, i := p.i + 1, buf := p.buf ++ laid, holes := p.holes }) ∧
        (p.mode ≠ 2 → p.m + 512 ≤ 512 * p.k → ∃ t, exec (.xswz w) s = .next t ∧
          t.mem = (s.write pb (if p.mode = 3 ∧ x ∉ p.holes then ahead else laid) ⟨3, engCls q, engAgent q, trc', Cmd.zTag c.c⟩).mem ∧
          next t = { resetProg with on := true, mode := p.mode, i := p.i + 1, buf := p.buf, holes := p.holes }))
/-! ## Photonic multicast -/

/-- R139, R141, R353, R354, R142: LGRP reads its image once. With v set it writes a free entry and enrols its members, and is answered 0x10
where the entry is in use; with v clear it dissolves a group once nothing of it is on its way, and the entry keeps its count of blocks
sent; LGRP.RD stores word 1 of the entry; LRX posts free slots of its quad in
ascending order, and is answered 0x11 where one of them is not free. -/
def Obligations.GroupTables : Prop :=
  ∀ (s : State) (w : Cmd) (c : QCmd), s.heads c →
    let q := s.curQ
    let name := groupName q c.c
    let g := Cmd.group c.c
    let wf := nWafer (qName q)
    let e := s.gt name
    let w0 := if (s.prog q).on then BitVec.ofNat 64 (s.prog q).adv else s.readW (engPa q (Cmd.img c.c))
    let entries := (List.range (bits w0 50 42)).map fun i => s.readNat (waferPa wf (bits w0 41 0 * 64 + 4 * i)) 4
    let quads := entries.map (· % 2 ^ 13)
    (lgrpOk 16 c = true →
      (e.v = true → exec (.lgrpEnrol w) s = .next (s.cmdDone q c 0x10)) ∧
      (e.v = false → (s.prog q).skip = false → memBad (bits w0 50 42) = false → s.mapFault wf w0 = none →
        (∀ x ∈ entries, s.memberOk wf (gCtl name) (bits w0 62 59) g x = true) → quads.Nodup →
          ∃ t : State, exec (.lgrpEnrol w) s = .next (t.cmdDone q c 0) ∧ (t.gt name).w0 = w0 ∧ (t.gt name).sent = 0 ∧
            (t.gt name).membs = quads.map (Member.mk · 0) ∧ t.mem = s.mem ∧
            ∀ x ∈ quads, (t.quad (quadKey wf x)).memb? g = some ⟨g, s.serial, [], 0, 0⟩) ∧
      (e.v = false → exec (.lgrpDissolve w) s = .next (s.cmdDone q c 0)) ∧
      (e.v = true → e.dissolve = false → ∃ t : State, exec (.lgrpDissolve w) s = .next t ∧ (t.gt name).dissolve = true ∧
        (t.prog q).on = true ∧ (t.prog q).adv = w0.toNat) ∧
      (e.v = true → e.dissolve = true → (∀ f ∈ (s.ctl (gKey name)).flights, f.group ≠ name) →
        ∃ t : State, exec (.lgrpDissolve w) s = .next (t.cmdDone q c 0) ∧
          t.gt name = { resetGt with w0 := BitVec.ofNat 64 (bits e.w0 62 0), sent := e.sent, turn := e.turn } ∧ t.mem = s.mem ∧
          ∀ m ∈ e.membs, m.quad < 2 ^ 13 → (t.quad (quadKey wf m.quad)).memb? g = none ∧
            ∀ x ∈ (t.quad (quadKey wf m.quad)).slots, x.2 ≠ .posted g)) ∧
    (lgrpOk 8 c = true → (s.prog q).fresh → ∀ pa trc, s.engReaches q c ⟨0, 1, BitVec.ofNat 64 (localBase + Cmd.img c.c), 1, []⟩ 8 pa trc →
      ∃ t : State, exec (.lgrpRd w) s = .next (t.cmdDone q c 0) ∧
        t.mem = (s.write pa (natRun 8 (e.sent % 2 ^ 32 * 2 ^ 32) false) ⟨3, engCls q, engAgent q, trc, 0⟩).mem) ∧
    (lrxOk c = true → let k := nQuad (qName q)
      let slots := (List.range 64).filter fun i => bitAt c.c.w1 i
      ∀ m, (s.quad k).memb? g = some m →
        ((∃ i ∈ slots, (s.quad k).slotSt i ≠ .free) → exec (.lrx w) s = .next (s.cmdDone q c 0x11)) ∧
        ((∀ i ∈ slots, (s.quad k).slotSt i = .free) → ∃ t : State, exec (.lrx w) s = .next (t.cmdDone q c 0) ∧ t = s.setQuad k (t.quad k) ∧
          (∀ i, (t.quad k).slotSt i = if i ∈ slots then .posted g else (s.quad k).slotSt i) ∧
          (t.quad k).memb? g = some { m with fill := m.fill ++ slots, posted := (m.posted + slots.length) % 2 ^ 32 }))

/-- R138, R144, R145, R359: an LTX that has drawn its grains is accepted where its controller has room. The first job of a group reads its next
block from its own controller's memory, and sends it to every member, numbered by the group's count, once every member's reported
posted count exceeds that number, the trunks are awake and it is the group's turn among those that share them; without demand nothing is
sent. A member's report raises its count. -/
def Pieces.BlocksAreSent : Prop :=
  ∀ (s : State),
    (∀ w c, s.heads c → let q := s.curQ
      let m := s.ctl (gKey (groupName q c.c))
      ltxOk c = true → Cmd.blocks c.c ≤ (s.prog q).k → m.jobs.length < 64 →
        exec (.ltx w) s = .next ((s.setCtl (gKey (groupName q c.c)) { m with
          jobs := m.jobs ++ [⟨q, c, groupName q c.c, false, 0, 0, none, false, none, false⟩] }).popCmd q)) ∧
    (∀ g j, s.jobOf g = some j → let e := s.gt g
      s.awnStopped (g / 2 ^ 14) (unitNo .ctl (gCtl g)) = false → s.partRuns (QCmd.part j.queue j.q) = true → j.found = true →
      j.fault = none → j.view = false → j.skip = false → e.dissolve = false →
      (∀ pa trc fmt, j.buf = none → s.translate (ltxWho g j) (BitVec.ofNat 64 (bits j.q.c.w1 55 0) + BitVec.ofNat 64 (512 * j.sent)) 512 0 =
          .ok pa trc fmt → (∃ o, homeOf pa = .hbm (g / 2 ^ 14) (gCtl g) o) →
        ∃ t : State, exec (.blockSend g) s = .next t ∧ t.mem = s.mem ∧ t.jobOf g = some { j with buf := some (s.readRun pa 512) }) ∧
      (∀ bs, j.buf = some bs → e.demand e.sent = false → exec (.blockSend g) s = .next s) ∧
      (∀ bs, j.buf = some bs → e.demand e.sent = true → s.trunksAwake (gKey g) e.tmask = true → s.myTurn g = true →
        ∃ t : State, exec (.blockSend g) s = .next t ∧ t.mem = s.mem ∧
          t.gt g = { e with sent := (e.sent + 1) % 2 ^ 32, turn := s.tick } ∧
          (t.ctl (gKey g)).flights = (s.ctl (gKey g)).flights ++ e.membs.map fun m =>
            Flight.mk g m.quad e.sent (markBlock bs) (bits j.q.c.w2 28 26) 0 false false)) ∧
    (∀ quad g m, (s.quad quad).memb? g = some m → let name := quad / 2 ^ 13 * 2 ^ 14 + g
      (s.gt name).v = true → (s.gt name).enrol = m.enrol → ∃ t : State, exec (.demandUpdate quad g) s = .next t ∧
        t = s.setGt name (t.gt name) ∧ (t.gt name).sent = (s.gt name).sent ∧
        (t.gt name).membs.map (·.quad) = (s.gt name).membs.map (·.quad) ∧
        ∀ x ∈ (t.gt name).membs, (x.quad = quad % 2 ^ 13 → x.known = m.posted) ∧
          (x.quad ≠ quad % 2 ^ 13 → x ∈ (s.gt name).membs))

/-- R142, R146, R147, R148: a good block fills the slot at the head of its member's queue, in the RXB under its tag; a bad one is
counted and asked for again, and is resent to every member, on trunks that are awake, which are woken first; a copy that a member does not need is
discarded, counted where it fails its check (log 117); a block that has waited longer than KGSTALL.lim raises an event of kind 1, once; a handoff is
counted. -/
def Pieces.BlocksArrive : Prop :=
  ∀ (s : State),
    (∀ quad g a f b, let k := gKey (quad / 2 ^ 13 * 2 ^ 14 + g)
      findFlight (quad / 2 ^ 13 * 2 ^ 14 + g) (quad % 2 ^ 13) (s.ctl k).flights = some (a, f, b) → f.again = false →
      (f.dup = false → ∀ m i rest, (s.quad quad).memb? g = some m → m.fill = i :: rest → g < 2 ^ 14 →
        ∃ t : State, exec (.slotFill quad g true) s = .next (t.endJobs k) ∧ (t.quad quad).slotSt i = .filled g ∧
          (t.quad quad).memb? g = some { m with fill := rest, next := (m.next + 1) % 2 ^ 32 } ∧
          t.mem = (s.write (quadPa (quad / 2 ^ 13) (quad % 2 ^ 13) (0x40000 + 512 * i)) f.bytes ⟨3, 2, quad * 4, false, f.tag⟩).mem) ∧
      (f.dup = false → f.tries < 8 → ∃ t : State, exec (.slotFill quad g false) s = .next t ∧ t.mem = s.mem ∧
        (t.quad quad).crc = (s.quad quad).crc + 1 ∧
        (t.ctl k).flights = a ++ { f with tries := f.tries + 1, again := true } :: b) ∧
      (f.dup = true → let t := s.setCtl k { s.ctl k with flights := a ++ b }
        exec (.slotFill quad g true) s = .next t ∧
        exec (.slotFill quad g false) s = .next (t.setQuad quad { t.quad quad with crc := (t.quad quad).crc + 1 }))) ∧
    (∀ g f, (s.ctl (gKey g)).flights.find? (fun f => f.group == g && f.again) = some f →
      let awake := fun (t : State) => (t.ctl (gKey g)).jobs = (s.ctl (gKey g)).jobs ∧
        ∀ j, j < 4 → (s.gt g).tmask.testBit j = true → t.trunk (gKey g) j = (true, s.time)
      (s.trunksAwake (gKey g) (s.gt g).tmask = false → ∃ t : State, exec (.blockResend g) s = .next t ∧ awake t ∧
        (t.ctl (gKey g)).flights = (s.ctl (gKey g)).flights) ∧
      (s.trunksAwake (gKey g) (s.gt g).tmask = true → ∃ t : State, exec (.blockResend g) s = .next t ∧ awake t ∧ t.mem = s.mem ∧
        (∀ x ∈ (t.ctl (gKey g)).flights, x.group = g → x.blk = f.blk → x.again = false) ∧
        ∀ m ∈ (s.gt g).membs, ∃ x ∈ (t.ctl (gKey g)).flights, x.group = g ∧ x.quad = m.quad ∧ x.blk = f.blk)) ∧
    (∀ g j, s.jobOf g = some j → let e := s.gt g
      let w := g / 2 ^ 14
      j.buf.isSome = true → e.stalled ≠ some e.sent → (s.wafer w).kgstall ≠ 0 →
      (s.wafer w).kgstall.toNat * 1000 < s.time - e.since →
        ∃ t v, exec (.groupStall g) s = .next t ∧ (t.gt g).stalled = some e.sent ∧
          (t.wafer w).raised = (s.wafer w).raised ++ [v] ∧ v.kind = 1 ∧
          nth v.words 0 0 = BitVec.ofNat 64 (g % 2 ^ 14) ∧ nth v.words 1 0 = BitVec.ofNat 64 e.sent) ∧
    (∀ k, ∃ t : State, exec (.ringHandoff k) s = .next t ∧ t = s.setQuad k (t.quad k) ∧ (t.quad k).hnd = (s.quad k).hnd + 1)
/-! ## Reductions -/

/-- R153, R336, R337, R70: an ERED in order, its grains drawn and its source read in one piece, reads its core's vector as the core's contribution of
the round and leaves the head; where its quad's members have all contributed, their sum, in ascending core order, is the quad's
contribution. A router whose inputs have all come adds them in the order west, north, east, south, its quad last; the root stores
the round's vector, then the done word, a release at the group's scope, and the next round begins. -/
def Obligations.EredRounds : Prop :=
  ∀ (s : State),
    (∀ w c ref tm r, s.heads c → eredOk c = true → c.ref = some ref → (s.core c.core).team = some tm →
      let q := s.curQ
      let k := redKey ref (bits c.c.w1 35 32)
      let n := Cmd.redCount c.c * eredSize c.c
      let rank := tm.rank c.core
      mfind s.reds k = some r → r.first ≤ rank → rank ≤ r.last → r.count = Cmd.redCount c.c → mhas r.vecs rank = false →
      grainsFor n ≤ (s.prog q).k → (s.prog q).fresh → ∀ pa trc,
        s.engReaches q c ⟨0, 0, BitVec.ofNat 64 (localBase + Cmd.redSrc c.c), 0, []⟩ n pa trc →
          let vecs := mput r.vecs rank (bytesElems (eredSize c.c) (s.readRun pa n))
          let ms := r.inQuad tm (nQn c.core)
          ∃ (t : State) (r' : RedGroup), exec (.ered w) s = .next t ∧ mfind t.reds k = some r' ∧ r'.vecs = vecs ∧
            t.queue q = (s.queue q).popped ∧
            r'.locs = if ms.all (mhas vecs) then mput r.locs (nQn c.core) (sumVecs (ms.map fun m => mget vecs m [])) else r.locs) ∧
    (∀ k node r tm, mfind s.reds k = some r → s.nodeTeam (redRef k) = some tm → s.partRuns (shPartKey (redRef k).sheaf) = true →
      let root := tm.coreOf (shWafer (redRef k).sheaf) r.root
      let kids := r.children tm node
      let ins := kids.map fun x => mget r.outs x []
      let v := mget r.outs node []
      let bs := elemBytes v
      (mhas r.outs node = false → (∀ x ∈ kids, mhas r.outs x = true) →
        (r.inQuad tm node ≠ [] → mhas r.locs node = true → exec (.redRouterAdd k node) s =
          .next (s.setRed k { r with outs := mput r.outs node (sumVecs (ins ++ [mget r.locs node []])) })) ∧
        (r.inQuad tm node = [] → kids ≠ [] → exec (.redRouterAdd k node) s =
          .next (s.setRed k { r with outs := mput r.outs node (sumVecs ins) }))) ∧
      (mhas r.outs node = true → node = nQn root →
        (∀ pa trc fmt, r.drain = resetDrain → 0 < bs.length → s.piece (s.redWho k root) r.dst bs.length 1 = bs.length →
          s.translate (s.redWho k root) r.dst bs.length 1 = .ok pa trc fmt → s.remoteUnbacked (nWafer root) pa = false →
          (∀ w m sl o, homeOf pa ≠ .window w m sl o) → ∃ (t : State) (r' : RedGroup), exec (.redRouterAdd k node) s = .next t ∧
            t.mem = (s.write pa bs ⟨3, 2, 4 * nQuad root, trc, 0⟩).mem ∧ mfind t.reds k = some r' ∧ r'.drain.put = bs.length) ∧
        (∀ pa trc fmt, r.drain = { resetDrain with put := bs.length } → s.piece (s.redWho k root) r.done 8 1 = 8 →
          s.translate (s.redWho k root) r.done 8 1 = .ok pa trc fmt → s.remoteUnbacked (nWafer root) pa = false →
          (∀ w m sl o, homeOf pa ≠ .window w m sl o) → ∃ (t : State) (r' : RedGroup), exec (.redRouterAdd k node) s = .next t ∧
            t.mem = (s.writeAs pa (natRun 8 r.round false) ⟨3, 2, 4 * nQuad root, trc, 0⟩ (some ⟨.engine (nQuad root), r.sc⟩)).mem ∧
            mfind t.reds k = some r' ∧ r'.drain.put = bs.length + 8) ∧
        (bs.length + 8 ≤ r.drain.put → exec (.redRouterAdd k node) s = .next (s.setRed k
          { r with round := r.round + 1, vecs := [], locs := [], outs := [], drain := resetDrain }))))

/-- R327, R329, R330: a CRED whose group has no home slot at the memory edge, or whose switch does not reduce, is answered 0x14. One
whose vector has been read contributes to its next round: at the memory edge piece by piece to the home slot, answered once all has
been written; through the switch as flits of 56 elements, answered at once. -/
def Pieces.CredContributes : Prop :=
  ∀ (s : State) (w : Cmd) (c : QCmd) (k : Nat) (g : CredG) (p : CredW), s.heads c → credOk c = true →
    let q := s.curQ
    let wf := nWafer (qName q)
    let pr := s.prog q
    s.credOf q c = some (k, g) → mfind g.parts wf = some p → mfind s.creds k = some g →
    (g.placement = 0 ∧ g.slot = none ∨ g.placement = 1 ∧ (s.wafer wf).switchRed = false →
      exec (.cred w) s = .next (s.cmdDone q c 0x14)) ∧
    (p.sent = p.released → s.credHolder q k p = none → grainsFor g.bytes ≤ pr.k → pr.got.length = g.bytes →
      (g.placement = 1 → (s.wafer wf).switchRed = true → ∃ (t : State) (g' : CredG), exec (.cred w) s = .next (t.cmdDone q c 0) ∧
        mfind t.creds k = some g' ∧ mfind g'.parts wf =
          some { p with sent := p.sent + 1, sender := none, got := []
                        flits := credFlits g wf (p.sent + 1) ((bytesElems 4 pr.got).map (·.1)) }) ∧
      (∀ sl, g.placement = 0 → g.slot = some sl → g.bound = true → p.sent < g.zeroed →
        (g.bytes ≤ pr.put → ∃ (t : State) (g' : CredG), exec (.cred w) s = .next (t.cmdDone q c 0) ∧
          mfind t.creds k = some g' ∧ mfind g'.parts wf = some { p with sent := p.sent + 1, sender := none }) ∧
        (pr.put < g.bytes → pr.view = false → let len := min 512 (g.bytes - pr.put)
          ∃ u : State, exec (.cred w) s = .next (u.enterView g.home (sl.1 % 64) sl.2
            ⟨.queue q, wf, physAsid, pr.put, len, some ((pr.got.drop pr.put).take len), 0, [], 0, []⟩) ∧ (u.prog q).view = true)))

/-- R156, R195, R329, R330: a group's free home slot, claimed by none accepted earlier, is bound as an accumulate slot over the home's destination; an event
takes one wafer's due copy of a round's sum, or none (`Config.unspecified`, log 14), and a copy whose bytes and done word have been
written ends with the round released there; a result flit that names an
outstanding flit is taken, and any other is discarded and counted by its port. -/
def Pieces.CredResults : Prop :=
  ∀ (s : State),
    (∀ k g ck sl p, mfind s.creds k = some g → g.placement = 0 → g.bound = false → g.slot = some (ck, sl) →
      mfind g.parts g.home = some p → let e := s.slot ck sl
      e.bound = false → e.closing = false → e.held = none → e.cred = none → s.slotClaimed ck sl g.seq = false →
        ∃ t : State, exec (.credDistribute k) s = .next t ∧ mfind t.creds k = some { g with bound := true } ∧
          (t.slot ck sl).bound = true ∧ (t.slot ck sl).kind = 2 ∧ (t.slot ck sl).acc = p.dst ∧ (t.slot ck sl).cred = some k) ∧
    (∀ k g, mfind s.creds k = some g → g.placement = 1 →
      (∀ x ∈ g.due, (flitBytes (g.count + 1) x.2.got (mget g.marks (x.2.released + 1) [])).length + 8 ≤ x.2.drain.put) →
        match g.due[(Config.unspecified s.tick).toNat % (g.due.length + 1)]? with
        | some (w, p) => ∃ (t : State) (g' : CredG), exec (.credDistribute k) s = .next t ∧ t.mem = s.mem ∧
            mfind t.creds k = some g' ∧ mfind g'.parts w = some { p with released := p.released + 1, drain := resetDrain }
        | none => exec (.credDistribute k) s = .next s) ∧
    (∀ w n, let f := Config.resultFlit (s.tick + n)
      let takes := fun (x : Nat × CredG) => x.2.awaits w f.1 f.2.1 f.2.2.1
      let l := w * 64 + n % 48
      (s.creds.find? takes = none → exec (.credResultFlit w n) s =
        .next (s.setLink l { s.link l with strayed := (s.link l).strayed + 1 })) ∧
      (∀ k g p, s.creds.find? takes = some (k, g) → mfind s.creds k = some g → mfind g.parts w = some p →
        ∃ (t : State) (g' : CredG), exec (.credResultFlit w n) s = .next t ∧ mfind t.creds k = some g' ∧ mfind g'.parts w =
          some { p with
            flits := p.flits.filter fun x => !(x.round == f.2.1 && x.off == f.2.2.1), got := mput p.got f.2.2.1 (flitElems f.2.2.2 0) }))

/-! ## Stream graphs at the memory edge -/

/-- R184, R340, R341: GBIND and GACC read the descriptor; with its image read whole, its rules met and its cells free, a slot that the
command's partition holds is bound, and the seed goes into the fabric's generator; a slot that is not held is answered 0x15, and one
in use 0x1A. GUNBIND closes a bound slot, and frees it once its accesses have performed with all their backing accesses, or have been
killed. -/
def Pieces.EdgeBinds : Prop :=
  ∀ (s : State) (w : Cmd) (c : QCmd), s.heads c →
    let q := s.curQ
    let ctl := nWafer (qName q) * 64 + Cmd.ectl c.c
    let sl := Cmd.eslot c.c
    let e := s.slot ctl sl
    let p := s.prog q
    let all := runWords64 p.buf
    let ds := all.take 8
    (∀ x ∈ [(Instr.gbind w, false), (.gacc w, true)], gOk false c = true →
      (p.on = false → p.fresh → ∀ pa trc, s.engReaches q c ⟨0, 0, BitVec.ofNat 64 (bits c.c.w1 55 0), 0, []⟩ 64 pa trc →
        s.poisonRun pa 64 = false → ∃ t : State, exec x.1 s = .next t ∧ t.mem = s.mem ∧ (t.prog q).on = true ∧
          (t.prog q).buf = s.readRun pa 64) ∧
      (p.on = true → descOk x.2 ds = true →
        (e.heldBy (QCmd.part q c) = false → exec x.1 s = .next (s.cmdDone q c 0x15)) ∧
        (e.heldBy (QCmd.part q c) = true →
          (e.bound = true ∨ e.closing = true → exec x.1 s = .next (s.cmdDone q c 0x1A)) ∧
          (∀ recs, e.bound = false → e.closing = false → (nth ds 1 0 = 0 ∧ recs = [] ∨
              nth ds 1 0 ≠ 0 ∧ parseImage true 1 imageFuel (all.drop 8) [] = .over recs) →
            graphOk recs = true → s.cellsBusy ctl sl recs = false →
              ∃ t : State, exec x.1 s = .next (t.cmdDone q c 0) ∧ let b := t.slot ctl sl
                b.bound = true ∧ b.kind = bits (nth ds 0 0) 63 62 ∧ b.desc = BitVec.ofNat 64 (bits c.c.w1 55 0) ∧
                b.wlen = bits (nth ds 2 0) 17 0 ∧ b.acc = nth ds 3 0 ∧ b.held = e.held ∧ b.accs = [] ∧
                b.sites = graphSites recs ∧ (t.ctl ctl).gen = seedOf (bits (nth ds 0 0) 31 0))))) ∧
    (gOk true c = true →
      (p.on = false → e.heldBy (QCmd.part q c) = true → e.bound = true → e.closing = false → e.halt = false →
        ∃ t : State, exec (.gunbind w) s = .next t ∧ t.slot ctl sl = { e with closing := true } ∧ t.mem = s.mem ∧
          (t.prog q).on = true) ∧
      (p.on = true → e.closing = true → e.accs ≠ [] → e.halt = false ∨ e.killed = true → exec (.gunbind w) s = .next s) ∧
      (p.on = true → e.closing = true → e.accs = [] → e.halt = false ∧ s.slotRest ctl sl = true ∨ e.killed = true → ∃ t : State, exec (.gunbind w) s = .next (t.cmdDone q c 0) ∧
        t.slot ctl sl = { resetSlot with held := e.held } ∧ t.mem = s.mem))

/-- R181, R182, R185, R186, R71: a slot offers the words of its accesses to its graph in order, each as tokens that bear the access's mark
(log 109); a word at the return port goes to the first access that expects one. The first access of the order performs, a read with all its
words back, a write with all of them in, once the graph has nothing more to do for it; later accesses do not delay it. An accumulate slot
takes its accesses to its backing buffer in pieces, each translated and its home checked: a read takes the bytes as they stand, and of a
write the elements are added in FP32, as written or as its graph returns them; a piece that is not at its controller is a fault of type 2.
An access that has performed leaves the order and is counted. -/
def Pieces.EdgeAccesses : Prop :=
  ∀ (s : State) (c sl : Nat) (v : VAcc) (rest : List VAcc),
    let e := s.slot c sl
    e.bound = true → e.halt = false → s.ctlRuns c = true → e.accs = v :: rest →
    (∀ bs, ∃ t : State, s.viewOver c sl v bs = t.viewDone v bs ∧ (t.slot c sl).accs = rest ∧ (t.slot c sl).cnt = e.cnt + 1) ∧
    (e.kind = 0 → e.ret = [] → v.sent < v.words → v.back.length ≠ v.words → rest = [] → exec (.viewAccess c sl) s = .next
      (s.setSlot c sl { e with
        accs := [{ v with sent := v.sent + 1 }]
        port := e.port ++ [.data (BitVec.ofNat 64 ((v.off / 8 + v.sent) * 8)) false scaleOne false (ownMark v.id)] })) ∧
    (∀ x xs z m j, e.kind = 0 → e.ret = [.data x xs z m j] → v.back.length < v.sent → exec (.viewAccess c sl) s = .next
      (s.setSlot c sl { e with accs := { v with back := v.back ++ [(x, xs)] } :: rest, ret := [] })) ∧
    (e.kind = 0 → e.ret = [] → v.back.length = v.words → s.settled c sl v.id = true →
      exec (.viewAccess c sl) s = .next (s.viewOver c sl v v.bytes)) ∧
    (e.kind = 1 → e.ret = [] → v.sent = v.words → s.settled c sl v.id = true →
      exec (.viewAccess c sl) s = .next (s.viewOver c sl v [])) ∧
    (∀ pa trc fmt, e.kind = 2 → e.fault = none → e.skip = false →
      let d := v.got.length
      let va := e.acc + BitVec.ofNat 64 (v.off + d)
      let n := pieceLen va (v.size - d)
      let acc := if v.wr.isSome then 1 else 0
      let has := fun (s : State) (v' : VAcc) => s.setSlot c sl { s.slot c sl with
        accs := (s.slot c sl).accs.map fun x => if x.id = v.id then v' else x }
      let then_ := fun (s : State) (v' : VAcc) => if v'.got.length < v.size then has s v'
        else (has s v').viewOver c sl v' (if v.wr.isSome then [] else v'.got)
      s.translate (s.accWho c sl e) va n acc = .ok pa trc fmt →
      v.wr = none ∨ e.img = 0 ∨ v.words ≤ v.back.length ∧ s.settled c sl v.id = true →
      ((∀ o, homeOf pa ≠ .hbm (c / 64) (c % 64) o) →
        exec (.accumulateWrite c sl) s = .next (s.raiseGen (accFault c sl e va 2 acc))) ∧
      (∀ o, homeOf pa = .hbm (c / 64) (c % 64) o →
        (v.wr = none → exec (.accumulateWrite c sl) s = .next (then_ s { v with got := v.got ++ s.readRun pa n })) ∧
        (v.wr.isSome = true →
          let add := ((v.addends (e.img != 0)).drop (d / 4)).take (n / 4)
          let bs := elemBytes (addVec (bytesElems 4 (s.readRun pa n)) add)
          exec (.accumulateWrite c sl) s = .next
            (then_ (s.write pa bs ⟨4, 5, c / 64 * 2 ^ 15 + c % 64, trc, 0⟩) { v with got := v.got ++ bs }))))
/-! ## Fabrics -/

/-- The operators of one result with that result's bits and type, on operands `o`. -/
def cellOps (w : W64) (o : List Opnd) : List (Instr × Nat × Nat) :=
  let ty := wTy w
  let n := typeBits ty
  let r := fun v => elemRound ty (wRnd w) false 0 v
  let a := op o 0
  let b := op o 1
  let x := opRaw o 0 % 2 ^ n
  let y := opRaw o 1 % 2 ^ n
  let h := opRaw o 1 % 64
  [(.padd w, r (a.add (wRnd w) b), ty), (.psub w, r (a.add (wRnd w) b.neg), ty), (.pmul w, r (a.mul b), ty),
    (.pfma w, r ((a.mul b).add (wRnd w) (op o 2)), ty), (.pmin w, r (a.min b), ty), (.pmax w, r (a.max b), ty),
    (.pcmp w, if (match wFn w with
      | 0 => a.eq b
      | 1 => !a.eq b
      | 2 => a.lt b
      | _ => !a.isNan && !b.isNan && !a.lt b) then 1 else 0, 0xE),
    (.plog w, (match wFn w with
      | 0 => x &&& y
      | 1 => x ||| y
      | 2 => x ^^^ y
      | _ => x &&& (y ^^^ (2 ^ n - 1))), ty),
    (.pshf w, (match wFn w with
      | 0 => if h ≥ n then 0 else x <<< h % 2 ^ n
      | 1 => if h ≥ n then 0 else x >>> h
      | 2 => wrapInt (sgn x n / 2 ^ (min h n)) n
      | _ => (x >>> (h % n) ||| x <<< (n - h % n)) % 2 ^ n), ty)]

/-- R158, R160, R370, R372, R375, R377, R378, R380, R382: a cell that begins a firing on its operands, with its grain and its result requested,
ends it with the operator's result, poisoned where an operand is; PCVT steps the fabric's generator where it rounds by it. A cell that lacks
an operand does nothing, and no more does a copy that it is not the turn of (R163); what a copy takes when is log 62's choice. -/
def Pieces.CellsCompute : Prop :=
  ∀ (s : State) (w : W64),
    let a := s.seat
    let ins := inputsOf (wInputs w)
    (∀ ts t ops, s.fires w true ts t →
      (readOps w (wTy w) ts = some ops → ∀ p ∈ cellOps w ops,
        exec p.1 s = .next (s.ended t [.data (extend p.2.2 p.2.1) (ops.any (·.bad)) scaleOne false 0])) ∧
      (readOps w (wFn w) ts = some ops → let g := t.fabGen a.k a.x
        (wRnd w ≠ 4 → exec (.pcvt w) s = .next (s.ended t
          [.data (extend (wTy w) (elemRound (wTy w) (wRnd w) (wSat w) g.toNat (op ops 0))) (ops.any (·.bad)) scaleOne false 0])) ∧
        (wRnd w = 4 → exec (.pcvt w) s = .next (s.ended (t.setFabGen a.k a.x (lfsr g))
          [.data (extend (wTy w) (elemRound (wTy w) 4 (wSat w) (lfsr g).toNat (op ops 0))) (ops.any (·.bad)) scaleOne false 0])))) ∧
    (s.siteReady w → a.n = 1 ∨ (s.lane a.k a.x).deal = false →
      s.inputs a.k a.b ins = .waits ∨ a.n ≠ 1 ∧ s.inputs a.k a.b ins = .fires ∧ (s.cell a.k a.b).taken % a.n ≠ a.j →
      (∀ ops, ∀ p ∈ cellOps w ops, exec p.1 s = .next s) ∧ exec (.pcvt w) s = .next s)

/-- R371, R163, R165, R381: PACC adds its element to its copy's sum, and with fn 1 sends the sum; with fn 0 the sum leaves at end-of-stream. PLUT
sends its table's entry for each nibble of its token, the lowest first. -/
def Pieces.SumsAndTables : Prop :=
  ∀ (s : State) (w : W64),
    let a := s.seat
    let os := s.outs a.k a.b
    (∀ ts t ops, s.fires w (wFn w == 1) ts t → readOps w (wTy w) ts = some ops →
      let l := t.lane a.k a.x
      let old := l.sum.getD ((konst w (wTy w)).v, false)
      let n := elemRound (wTy w) (wRnd w) false 0 (old.1.add (wRnd w) (op ops 0))
      let bad := old.2 || ops.any (·.bad)
      exec (.pacc w) s = .next (s.ended (t.setLane a.k a.x { l with sum := some (elemRead (wTy w) n, bad) })
        (if wFn w = 1 then [.data (extend (wTy w) n) bad scaleOne false 0] else []))) ∧
    (∀ u, s.siteReady w → a.n = 1 → wFn w ≠ 1 → s.inputs a.k a.b (inputsOf (wInputs w)) = .ends → (s.plane a.k).canEmit os = true →
      s.payGrain a.k a.x = (u, true) →
      let sum := (s.lane a.k a.x).sum.getD ((konst w (wTy w)).v, false)
      exec (.pacc w) s = .next ((u.emit a.k a.b os false
        (.data (extend (wTy w) (elemRound (wTy w) (wRnd w) false 0 sum.1)) sum.2 scaleOne false 0)).endSite a.k a.b
          (inputsOf (wInputs w)) os)) ∧
    (∀ v p r j, s.siteReady w → s.peek a.k a.b (wIa w) = some (.data v p scaleOne r j) → (s.plane a.k).canEmit os = true →
      exec (.plut w) s = .next (s.ended (s.takeIn a.k a.b (wIa w)) ((List.range (bits w 3 0 + 1)).map fun n =>
        Tok.data (lutEntry (s.cell a.k a.b).words (v.toNat / 16 ^ n % 16)) p scaleOne false j)))

/-- R374, R373, R379, R383: PLD reads the element at its operand's address and sends it; PST writes its second operand at the address that
its first holds, and sends its completion token; a generator reads or writes the element of its iteration, with an index if it takes
one, and steps its counters; in an edge fabric the element bears the mark of the access that it was read for (log 109). -/
def Obligations.FabricMemory : Prop :=
  ∀ (s : State) (w : W64),
    let a := s.seat
    let k := a.k
    let site := a.b
    (∀ ts t ops pa trc, s.fires w true ts t → readOps w 0xE ts = some ops → (nth ops 0 ⟨.nan, 0, false⟩).bad = false →
      let n := memSize (wTy w)
      let b := nth ops 1 ⟨.nan, 0, false⟩
      let ag := t.fabAgent k a.x
      (wOp w = 0x20 → t.fabReaches k a.x (BitVec.ofNat 64 (opRaw ops 0)) n 0 pa trc →
        exec (.pld w) s = .next (s.ended t [memTok (wTy w) (t.readRun pa n)])) ∧
      (wOp w = 0x21 → t.fabReaches k a.x (BitVec.ofNat 64 (opRaw ops 0)) n 1 pa trc →
        exec (.pst w) s = .next (s.ended (t.write pa (natRun n (b.raw % 2 ^ (8 * n)) b.bad) ⟨3, ag.1, ag.2, trc, 0⟩)
          (if wOmask w = 0 then [] else [.data 0 false scaleOne false 0])))) ∧
    (∀ x y px rx ry jx jy pa trc, s.siteReady w → site = s.curSite → (s.cell k site).st = 0 →
      (gDir w = 1 → wIa w ≤ 0xD ∧ s.peek k site (wIa w) = some (.data x px scaleOne rx jx)) →
      (gGx w = true → wIb w ≤ 0xD ∧ s.peek k site (wIb w) = some (.data y false scaleOne ry jy)) →
      let ws := (s.cell k site).words
      let n := memSize (gTy w)
      let t := s.latch a (inputsOf (genSels w))
      let va := genAddr ws (t.genBase k site ws) (t.genCtrs k site ws) + (if gGx w then BitVec.ofNat 64 (y.toNat * n) else 0)
      let ag := t.fabAgent k site
      let gos := (s.plane k).genOuts site
      (gDir w = 0 → gos ≠ [] → (s.plane k).canEmit gos = true → t.fabReaches k site va n 0 pa trc →
        ∃ u : State, exec (.pag w) s = .next (u.emit k site gos false
          (((memTok (gTy w) (t.readRun pa n)).stamp (t.lane k site).serves).after (t.lane k site).ops)) ∧ u.mem = s.mem ∧
          u.cell k site = (s.cell k site).nextIter ws) ∧
      (gDir w = 1 → t.fabReaches k site va n 1 pa trc → ∃ u : State, exec (.pag w) s = .next u ∧
        u.mem = (t.write pa (natRun n (x.toNat % 2 ^ (8 * n)) px) ⟨3, ag.1, ag.2, trc, 0⟩).mem))

/-- R164, R320, R321, R344, R364, R390: a router in its pass form forwards its token to every port it names; STEER sends its data token where
its control token says; CARRY sends an initial token and then looped ones while control is true; INVAR holds a token and sends it
for each true control token, until a false one; MERGE sends the token of the side that control names. A poisoned control token counts as
false and poisons what it steers. -/
def Obligations.RoutersForward : Prop :=
  ∀ (s : State) (w : W64), s.routerReady w →
    let k := s.curRes
    let site := s.curSite
    let code := fun (i : Nat) => nth (rtPorts w) i 0xF
    let at_ := fun (i : Nat) => s.rtPeek k (siteCell site) (code i)
    let out := fun (i : Nat) => s.rtOuts k site (code i)
    let free := fun (os : List OutP) => (s.plane k).canEmit os = true
    (∀ t, at_ 0 = some t → t ≠ .eos → let os := ((rtPorts w).drop 1).flatMap (s.rtOuts k site)
      free os → exec (.routerPass w) s = .next (s.forwards [code 0] os t id)) ∧
    (∀ v p sc r j d, at_ 0 = some (.data v p sc r j) → at_ 1 = some d → d ≠ .eos →
      let os := out (if v ≠ 0 ∧ p = false then 2 else 3)
      free os → exec (.steer w) s = .next (s.forwards [code 0, code 1] os (d.taint p) id)) ∧
    ((s.cell k site).st = 0 → ∀ t, at_ 1 = some t → t ≠ .eos → free (out 2) →
      exec (.carry w) s = .next (s.forwards [code 1] (out 2) t fun x => { x with st := 1 })) ∧
    ((s.cell k site).st = 1 → ∀ v p sc r j, at_ 0 = some (.data v p sc r j) →
      (∀ t, v ≠ 0 → p = false → at_ 3 = some t → t ≠ .eos → free (out 2) →
        exec (.carry w) s = .next (s.forwards [code 0, code 3] (out 2) t id)) ∧
      (v = 0 ∨ p = true → exec (.carry w) s = .next (s.forwards [code 0] [] .eos fun x => { x with st := 0 }))) ∧
    ((s.cell k site).val = none → ∀ t, at_ 1 = some t → t ≠ .eos →
      exec (.invar w) s = .next (s.forwards [code 1] [] .eos fun x => { x with val := some t })) ∧
    (∀ h, (s.cell k site).val = some h → ∀ v p sc r j, at_ 0 = some (.data v p sc r j) →
      (v ≠ 0 → p = false → free (out 2) → exec (.invar w) s = .next (s.forwards [code 0] (out 2) h id)) ∧
      (v = 0 ∨ p = true → exec (.invar w) s = .next (s.forwards [code 0] [] .eos fun x => { x with val := none }))) ∧
    (∀ v p sc r j t, at_ 0 = some (.data v p sc r j) → let i := if v ≠ 0 ∧ p = false then 1 else 3
      at_ i = some t → t ≠ .eos → free (out 2) →
        exec (.merge w) s = .next (s.forwards [code 0, code i] (out 2) (t.taint p) id))

/-- R157, R168, R169, R162, R213, R170, R326: a residency that reaches a list entry begins to load its image, the words of each record on a channel
to its cell; a word out of order halts it with cause 1; each other leaves its channel and reaches its cell, which may act from then on, and after the last the load is over. A pass whose streams have all
drained is followed by the next, or by the next entry, or ends the residency; one of an instance of CREQ ends the instance (log 61). A halt sets the cause once and raises an event of kind 6. An input
asks for one more burst, up to 16. A callee that is at rest without a CRET is cause 6. -/
def Pieces.ConfigurationsRun : Prop :=
  ∀ (s : State) (i : Nat) (r : Resid), mfind s.resids i = some r →
    (∀ site cause, r.halt = false → ∃ (x : Resid) (v : Ev), mfind (s.fabHalt (2 * i) site cause).resids i = some x ∧
      x.cause = cause ∧ x.halt = true ∧ x.st = r.st ∧ x.cc = r.cc ∧ x.it = r.it ∧ x.planes.length = r.planes.length ∧
      ((s.fabHalt (2 * i) site cause).wafer (r.field / 128)).raised = (s.wafer (r.field / 128)).raised ++ [v] ∧ v.kind = 6) ∧
    (s.residRuns i r = true →
      (r.st = .reach → ∀ e recs, s.readEntry r r.cc r.inst.isSome = .ok (e, recs) → e.iters ≠ 0 ∨ r.inst ≠ none →
        ∃ (t : State) (x : Resid), exec (.configStep i) s = .next t ∧ mfind t.resids i = some x ∧ x.load = recs.map (·.1) ∧
          x.st = .loading ∧ x.iters = e.iters ∧ x.next = e.next ∧ mfind x.entries r.cc = some e ∧ (∀ c, (x.live.chan c).toks = []) ∧
          (∀ y, (x.live.chan (confCh y)).conf = (recs.filter (·.1 == y)).map (·.2)) ∧
          (∀ y, (x.live.cell y).ready = false) ∧ t.mem = s.mem) ∧
      (r.st = .reach → ∀ c, s.readEntry r r.cc r.inst.isSome = .error c → exec (.configStep i) s = .next (s.fabHalt (2 * i) 0 c)) ∧
      (r.st = .running → r.planes = [] → r.live.passed = true →
        (r.inst ≠ none → Rising s.resids → ∃ t : State, exec (.configStep i) s = .next t ∧ mfind t.resids i = none) ∧
        (r.inst = none → ∃ (t : State) (x : Resid), exec (.configStep i) s = .next t ∧ mfind t.resids i = some x ∧
          (r.it + 1 < r.iters → x.it = r.it + 1 ∧ x.cc = r.cc ∧ x.st = .reach) ∧
          (r.iters ≤ r.it + 1 → r.next = 0xFF → x.st = .over) ∧
          (r.iters ≤ r.it + 1 → r.next ≠ 0xFF → r.next < r.nlist → x.cc = r.next ∧ x.it = 0 ∧ x.st = .reach) ∧
          (r.iters ≤ r.it + 1 → r.next ≠ 0xFF → r.nlist ≤ r.next → r.halt = false → x.halt = true ∧ x.cause = 1))) ∧
      (s.atRest i r = true → exec (.calleeRest i) s =
        .next (s.fabHalt (2 * i) ((r.planes.getLast?.bind (·.caller)).getD 0) 6))) ∧
    (s.loadRuns i r = true → r.st = .loading →
      (∀ site rest ws more, r.load = site :: rest → (r.live.chan (confCh site)).conf = ws :: more →
        (site < badSite → recordOk false (recordKind false site) ws = true → exec (.configWordLoad i) s =
          .next (s.setResid i { r with
            live := (r.live.setChan (confCh site) { r.live.chan (confCh site) with conf := more }).setCell site { cellOf ws with ready := true }
            load := rest })) ∧
        (badSite ≤ site ∨ recordOk false (recordKind false site) ws = false →
          exec (.configWordLoad i) s = .next (s.fabHalt (2 * i) (site % badSite) 1))) ∧
      (r.load = [] → r.live.firstBad false r.h (r.live.cells.map (·.1)) = none →
        exec (.configWordLoad i) s = .next (s.setResid i { r with st := .running })) ∧
      (∀ site, r.load = [] → r.live.firstBad false r.h (r.live.cells.map (·.1)) = some site →
        exec (.configWordLoad i) s = .next (s.fabHalt (2 * i) site 1))) ∧
    (∀ k ch, s.fabOpen k = true → (s.plane k).consumes ch = true → let c := (s.plane k).chan ch
      (c.dem < 16 → exec (.requestToken k ch) s = .next (s.setPlane k ((s.plane k).setChan ch { c with dem := c.dem + 1 }))) ∧
      (16 ≤ c.dem → exec (.requestToken k ch) s = .next s))

/-- R173 to R177, R322, R323, R325, R331, R332: a CCALL whose firing has its operands waits for arbitration; past the list it is cause 1, and past
the limit of calls cause 2; otherwise it freezes its region, whose plane is kept with its caller once its firings have ended, and the
callee's image is loaded with the operands at its call port. CRET gives the operands back to the caller's plane; at depth 0 it is cause 3, and
in strict mode cause 5 if the callee holds tokens, at its call port too (log 69). CREQ asks for an instance of a residency, which is placed in its turn with the operands at
its call port, or refused with cause 6. -/
def Pieces.CallsAndRequests : Prop :=
  ∀ (s : State) (w : W64),
    let a := s.seat
    let k := a.k
    let i := k / 2
    let site := a.b
    fabCtl k = none →
    (∀ ts t r, s.fires w false ts t → (∀ x ∈ ts, x.scaled = false) → mfind t.resids i = some r → r.st = .running →
      (r.nlist ≤ bits w 7 0 → exec (.ccall w) s = .next (t.fabHalt k site 1)) ∧
      (bits w 7 0 < r.nlist → r.limit < r.planes.length + 1 → exec (.ccall w) s = .next (t.fabHalt k site 2)) ∧
      (bits w 7 0 < r.nlist → r.planes.length + 1 ≤ r.limit →
        exec (.ccall w) s = .next (t.setResid i { r with st := .freezing site })) ∧
      (r.planes = [] → r.inst = none → exec (.cret w) s = .next (t.fabHalt k site 3)) ∧
      (r.planes ≠ [] → exec (.cret w) s = .next (t.setResid i { r with st := .returning site }))) ∧
    (∀ ts r, s.goesOn w ts → mfind s.resids i = some r → r.live.quiet = true →
      let args := (inputToks w ts).map Tok.plain
      (r.st = .freezing site → ∀ e recs, s.readEntry r (bits w 7 0) true = .ok (e, recs) →
        ∃ (t : State) (x : Resid) (p : Plane), exec (.ccall w) s = .next t ∧ mfind t.resids i = some x ∧
          x.planes.length = r.planes.length + 1 ∧ x.planes.getLast? = some p ∧ p.caller = some site ∧ p.cells = r.live.cells ∧
          p.cc = r.live.cc ∧ (∀ c, (p.chan c).toks = (r.live.chan c).toks ∧ (p.chan c).dem = (r.live.chan c).dem) ∧
          p.streams = s.streams.filter (fun e => isFabStream k e.1) ∧ p.kept = r.keptAt (r.planes.length + 1) ∧
          x.live.cc = bits w 7 0 ∧ x.live.call = args ∧ x.load = recs.map (·.1) ∧
          (∀ y, (x.live.chan (confCh y)).conf = (recs.filter (·.1 == y)).map (·.2)) ∧ x.st = .loading ∧ ∀ y, (x.live.cell y).ready = false) ∧
      (r.st = .returning site → r.strict = false → ∀ rest p c, r.planes = rest ++ [p] → p.caller = some c →
        ∃ (t : State) (x : Resid), exec (.cret w) s = .next t ∧ mfind t.resids i = some x ∧ x.planes.length = rest.length ∧
          x.st = .running ∧ x.live.caller = none ∧ x.live.cells = p.cells ∧ (x.live.lane c).out = args ∧
          (∀ y, (x.live.chan y).toks = (p.chan y).toks ∧ (x.live.chan y).dem = (p.chan y).dem) ∧
          (∀ e ∈ p.streams, mhas t.streams e.1 = true) ∧ ∀ y, y ≠ c → x.live.lane y = p.lane y) ∧
      (r.st = .returning site → r.strict = true → (r.live.setLane a.x resetLane).holds = true →
        exec (.cret w) s = .next (s.fabHalt k site 5))) ∧
    (∀ ts t r x, s.begins w false ts t → (∀ y ∈ ts, y.scaled = false) → mfind s.resids i = some r → mfind t.resids i = some x →
      x.live.id = r.live.id → s.instOf i site r.live.id = none → t.instOf i site r.live.id = none →
      (∀ b ∈ r.backs, b.1 ≠ r.live.id ∨ b.2.1 ≠ site) →
      (∀ c ∈ s.creqs, c.res ≠ i ∨ c.site ≠ site ∨ c.plane ≠ r.live.id) →
      let u := t.endFiring a []
      (t.creqNode x (bits w 11 0) = true → exec (.creq w) s = .next { u with
        creqs := u.creqs ++ [⟨u.serial + 1, i, site, r.live.id, bits w 11 0, (inputToks w ts).map Tok.plain⟩], serial := u.serial + 1 }) ∧
      (t.creqNode x (bits w 11 0) = false → exec (.creq w) s = .next (t.fabHalt k site 1))) ∧
    (∀ n c r, s.creqs[n]? = some c → mfind s.resids c.res = some r → r.halt = false → s.partRuns (shPartKey r.ref.sheaf) = true →
      let ws := s.nodeWords ⟨r.ref.sheaf, c.node⟩
      let u := { s with creqs := s.creqs.take n ++ s.creqs.drop (n + 1) }
      (s.neverFits r.ref = true → exec (.creqPlace n) s = .next (u.fabHalt (2 * c.res) c.site 6)) ∧
      (∀ id v, s.neverFits r.ref = false → s.residPlace r.ref ws c.stamp = some (id, v) → ∃ (t : State) (x : Resid),
        exec (.creqPlace n) s = .next t ∧ mfind t.resids id = some x ∧ x.inst = some (c.res, c.site, c.plane) ∧ x.graph = 0 ∧
          x.live.call = c.toks))
/-! ## Registers with a behaviour of their own, and the supervisor -/

/-- R75, R67, R143, R224, R89, R90, R207, R238: a write to KPRES empties the registers it names that no producer fills, and clears the
overrun bits it names; KRSEED and KQSEED seed their generators; KRXF frees the filled slots it names; KFCLK starts a hop to the step
it asks for; KXINV drops the translations it names from every cache and stream of the wafer; KTRB, KSVQH and KATN take their fields. -/
def Obligations.RegisterWrites : Prop :=
  ∀ (s : State) (n wf : Nat) (v : W64),
    let c := s.core n
    let x := s.wafer wf
    let leaves := fun (hits : Leaf → Bool) (t : State) =>
      t.streams = s.streams.filter (fun e => !hits e.2) ∧ t.mem = s.mem ∧
        ∀ k, (t.field k).tlb = (s.field k).tlb.filter fun l => !hits l
    (∃ d : Core, exec (.kpresWrite n v) s = .next (s.setCore n d) ∧ d.x = c.x ∧
      (∀ i : Reg, i ≠ 0 → d.full.getLsbD i.toNat = (c.full.getLsbD i.toNat && (!v.getLsbD i.toNat || c.producing i))) ∧
      ∀ i, i < 32 → d.ovr.getLsbD i = (c.ovr.getLsbD i && !v.getLsbD (32 + i))) ∧
    exec (.krseedWrite n v) s = .next (s.setCore n { c with
      krseed := v, mgen := seedOf (v.toNat / 2 ^ 32), vgen := seedOf (v.toNat % 2 ^ 32) }) ∧
    (∃ t : State, exec (.kqseedWrite n v) s = .next t ∧ t = s.setQuad (nQuad n) (t.quad (nQuad n)) ∧
      (t.quad (nQuad n)).xgen = seedOf v.toNat ∧ (t.quad (nQuad n)).xseed = v.setWidth 32) ∧
    (∃ t : State, exec (.krxfWrite n v) s = .next t ∧ t = s.setQuad (nQuad n) (t.quad (nQuad n)) ∧
      (Rising (s.quad (nQuad n)).slots → ∀ i, (t.quad (nQuad n)).slotSt i =
        if (s.quad (nQuad n)).slotFull i && bitAt v i then .free else (s.quad (nQuad n)).slotSt i)) ∧
    (let f := s.field (nField n)
      let want : BitVec 2 := v.setWidth 2
      want ≠ f.cur → f.hopFrom = none → f.retryAt = none → (s.wafer (nField n / 128)).thrAct = false → f.drp = false →
        exec (.kfclkWrite n v) s = .next (s.setField (nField n) { f with want := want, busy := true, hopFrom := some want.toNat })) ∧
    (∃ t : State, exec (.kxinvPage wf (v &&& 0x3FFFFFFFFFFFFFFF)) s = .next t ∧ leaves (fun l => l.wafer == wf &&
      l.maps (bits v 61 52) (BitVec.ofNat 64 (bits v 39 0 * 2 ^ 16))) t) ∧
    (∃ t : State, exec (.kxinvAsid wf (v &&& 0x3FFFFFFFFFFFFFFF ||| 0x4000000000000000)) s = .next t ∧
      leaves (fun l => l.wafer == wf && l.asid == bits v 61 52) t) ∧
    (∃ t : State, exec (.kxinvAll wf (v &&& 0x3FFFFFFFFFFFFFFF ||| 0x8000000000000000)) s = .next t ∧
      leaves (fun l => l.wafer == wf) t) ∧
    (∃ t : State, exec (.ktrbWrite wf v) s = .next t ∧ (t.wafer wf).ktrb = BitVec.ofNat 64 (bits v 47 22 * 2 ^ 22 + bits v 0 0) ∧
      ∀ m, m < 48 → (t.ctl (wf * 64 + m)).trcSeq =
        if bitAt x.ktrb 0 = false ∧ bitAt v 0 = true then 0 else (s.ctl (wf * 64 + m)).trcSeq) ∧
    exec (.ksvqhWrite wf v) s = .next (s.setWafer wf { x with svqHead := v.setWidth 32 }) ∧
    (let addr := bits v 47 13 * 2 ^ 13;
      (bits x.katn 47 13 ≠ 0 → exec (.katnWrite wf v) s = .next s) ∧
      (bits x.katn 47 13 = 0 → addr ≠ 0 →
        (0x400000000000 ≤ addr → addr < 0x800000000000 → exec (.katnWrite wf v) s =
          .next (s.setWafer wf { x with katn := BitVec.ofNat 64 addr })) ∧
        (addr < 0x400000000000 ∨ 0x800000000000 ≤ addr → exec (.katnWrite wf v) s = .next (s.setWafer wf { x with katn := 2 }))))

/-- R209, R214, R215, R218, R186: KSVC's ops. 0x1 and 0x7 kill the live nodes they name, with status 2, or 6 where they had halted, the accesses of their
edge slots returning poison or performing nowhere; 0x3 on a halted
queue takes its next command, or goes on with the next step of a poisoned MMA, once for each stop; 0x4 gates a running partition and moves its records to their spill rings (in log 38's places), 0x5 runs a swapped one, and 0x6 begins a round, each in its turn. -/
def Pieces.SupervisorOps : Prop :=
  ∀ (s : State) (w : Nat) (v : W64),
    let x := s.wafer w
    let k := w * 64 + svcPart v
    let idle := x.pendingSvc = [] ∧ ∀ e ∈ x.raised, e.kind ≠ 8
    (svcOp v = 1 → (∀ r ∈ s.killRef w v, exec (.ksvcKill w v) s = .next (s.killNode r 2)) ∧
      (s.killRef w v = [] → exec (.ksvcKill w v) s = .next s)) ∧
    (svcOp v = 7 → exec (.ksvcKillAll w v) s = .next ((s.killRefs w v).foldl (fun s r => s.killNode r 2) s)) ∧
    (∀ r n, s.node? r = some n → n.st ≠ .done → let t := s.killNode r 2
      (∃ m, t.node? r = some m ∧ m.abn = true ∧ m.status = if s.anyHalted r then 6 else 2) ∧
      ∀ y ∈ s.edgeSlots r, (t.slot y.1 y.2).held = some r → (t.slot y.1 y.2).bound = true →
        (t.slot y.1 y.2).closing = true ∧ (t.slot y.1 y.2).killed = true ∧ (t.slot y.1 y.2).accs = []) ∧
    (∀ c sl a, (s.slot c sl).accs = [a] → s.slotKill c sl =
      (s.setSlot c sl { s.slot c sl with accs := [], killed := true }).viewDone a (List.replicate a.size (0, true))) ∧
    (∀ q n, svcOp v = 3 → s.svcEvent w v = some (.queue q n) →
      ((s.queue q).halt = true → (s.queue q).stop = n → (s.queue q).stopped = false → ∃ t : State,
        exec (.ksvcContinue w v) s = .next t ∧ t = s.setQueue q (t.queue q) ∧
          t.queue q = { (s.queue q).popped with halt := false }) ∧
      ((s.queue q).halt = true → (s.queue q).stop = n → (s.queue q).stopped = true →
        exec (.ksvcContinue w v) s = .next (s.setQueue q { s.queue q with halt := false, stopped := false })) ∧
      ((s.queue q).halt = false ∨ (s.queue q).stop ≠ n → exec (.ksvcContinue w v) s = .next s)) ∧
    (svcOp v = 4 → idle → (s.part k).st = .run → exec (.ksvcPreempt w v) s =
      .next (((s.setWafer w { x with pendingSvc := [(v, none)] }).setPart k { (s.part k).pause s.time with st := .gating }).spillPart k)) ∧
    (svcOp v = 5 → idle → (s.part k).st = .swapped → ∃ (t : State) (e : Ev), exec (.ksvcRestore w v) s = .next t ∧
      (t.part k).st = .run ∧ (t.wafer w).pendingSvc = [] ∧ (t.wafer w).raised = x.raised ++ [e] ∧ e.kind = 8 ∧
      nth e.words 0 0 = 5) ∧
    (svcOp v = 6 → idle → x.round = none → (∀ e ∈ s.parts, e.1 / 64 = w → e.2.st ≠ .gating) → ∃ t : State, exec (.ksvcCheckpoint w v) s = .next t ∧
      (t.wafer w).round = some ⟨svcArg v, []⟩ ∧ t.mem = s.mem)

/-- The destination of an instruction whose access KSVC op 0x3 skips, which then reads 0. -/
def skippedTo : Instr → Reg
  | .ld t .. | .ldfe t .. | .waitf t .. | .join t .. | .fget t .. | .amoAdd t .. | .amoAnd t .. | .amoOr t .. | .amoXor t .. | .amoMin t ..
  | .amoMax t .. | .amoMinn t .. | .amoMaxn t .. | .amoSwp t .. | .amoCas t .. => t
  | _ => 0

/-- R209, R210, R388, R397: KSVC ops 0x2 and 0x3, on the sequence number of a posted event of kind 4 whose access is still held, release it. After op
0x2 the unit makes the access again. After op 0x3 an engine, an LTX job, a fabric site, an edge slot, a reduction's drain or the GS goes on with its access
abandoned; the vector unit drops its command; a core skips its instruction, whose destination reads 0 and is full, with no tag and no memory
changed, or ends its RETIRE or KEND without a decrement; an access that faulted at its home leaves the port so; and a fetch stays stopped. -/
def Pieces.FaultAnswers : Prop :=
  ∀ (s : State) (w : Nat) (v : W64) (id : Nat) (f : GenFault), s.svcEvent w v = some (.fault id) → mfind s.faults id = some f →
    let u := { s with faults := mdel s.faults id }
    let retry := fun (t : State) => svcOp v = 2 → exec (.ksvcRetry w v) s = .next t
    let skip := fun (t : State) => svcOp v = 3 → exec (.ksvcContinue w v) s = .next t
    let both := fun (g : Bool → State) => retry (g false) ∧ skip (g true)
    (∀ q, f.owner = .queue q → both fun b => u.setQueue q { s.queue q with fault := none, prog := { (s.queue q).prog with skip := b } }) ∧
    (∀ c g, f.owner = .ltx c g → both fun b => u.setCtl c { s.ctl c with
      jobs := (s.ctl c).jobs.map fun j => if j.fault = some id then { j with fault := none, skip := b } else j }) ∧
    (∀ k x, f.owner = .fab k x → both fun b => u.setLane k x { s.lane k x with fault := none, skip := b }) ∧
    (∀ c sl, f.owner = .edge c sl → both fun b => u.setSlot c sl { s.slot c sl with fault := none, skip := b }) ∧
    (∀ k r, f.owner = .red k → mfind s.reds k = some r → both fun b =>
      u.setRed k { r with drain := { r.drain with fault := none, skip := b } }) ∧
    (∀ k x r, f.owner = .cred k x → mfind s.creds k = some r → both fun b => let p := mget r.parts x resetCredW
      u.setCredW k x { p with drain := { p.drain with fault := none, skip := b } }) ∧
    (∀ sh no, f.owner = .gs sh no → both fun b => u.modNode ⟨sh, no⟩ fun n => { n with fault := none, skip := b }) ∧
    (∀ n, f.owner = .vec n → both fun b => u.setCore n { s.core n with
      vfault := none, vq := if b then (s.core n).vq.drop 1 else (s.core n).vq }) ∧
    (∀ n, f.owner = .fetch n → retry (u.setCore n { s.core n with fault := none }) ∧ skip s) ∧
    (∀ n, f.owner = .port n →
      let c := { s.core n with fault := none }
      retry (u.setCore n c) ∧ (c.ends = true → c.tm = false → c.strand ≠ none → skip (u.setCore n c.idle)) ∧
      ∀ word i, c.ends = false → c.fetched c.fetchPc = some word → decodeWord word = .ok i →
        (i ≠ .retire → i ≠ .kend → ∃ d : Core, d.pc = c.pc + 4 ∧ d.wait = none ∧ d.fault = none ∧ d.port = c.port ∧
          (skippedTo i ≠ 0 → d.get (skippedTo i) = 0 ∧ d.isFull (skippedTo i) = true) ∧
          (∀ r : Reg, r ≠ skippedTo i → d.get r = c.get r ∧ d.isFull r = c.isFull r) ∧ skip (u.setCore n d)) ∧
        (i = .retire ∨ i = .kend → c.tm = false → c.strand ≠ none → skip (u.setCore n c.idle))) ∧
    (∀ n aid a, f.owner = .late n aid → (s.core n).find aid = some a →
      let c := s.core n
      (a.phase = .refused → ∃ d : Core, d.fault = none ∧ d.again = some aid ∧ d.pc = c.pc ∧ d.find aid = some { a with
        born := some s.time, phase := .issued } ∧ retry (u.setCore n d)) ∧
      (c.hold ≠ .access aid → ∃ d : Core, d.fault = none ∧ d.again = none ∧ d.pc = c.pc ∧ d.port = c.port.filter (·.id != aid) ∧
        (a.isRead = true → a.dst ≠ 0 → d.get a.dst = 0 ∧ d.isFull a.dst = true) ∧
        (a.isRead = false → d.x = c.x ∧ d.full = c.full) ∧ skip (u.setCore n d)))

/-- R186, R209, R210, R214, R215, R218: the operations of KSVC. The operation that a kind 8 event names is its op's number (log 81), and the places of
spilled records are log 38's. -/
def Obligations.SupervisorActs : Prop := Pieces.SupervisorOps ∧ Pieces.FaultAnswers

/-- R207, R208, R214, R217, R218: an event that its unit raised first is written at the tail of the ring as a release at system scope, and the tail moves on; with the
ring full a group stall is dropped and counted, and any other waits; once a kind 8 event is written, the next of the operations that wait
begins. A gating partition with nothing moving is swapped out. A
unit stops at its first awn, and a site of a fabric sends awns on its outputs then; with every live unit and site stopped the checkpoint is done, and the
sites go on. The operation that a kind 8 event names is its op's number (log 81). The watchdog interval of a partition that runs ends in an event
for a silent node, or begins anew. -/
def Obligations.SupervisorEvents : Prop :=
  ∀ (s : State) (w : Nat),
    let x := s.wafer w
    (∀ k e, x.raised[k]? = some e → evFirst x.raised k e = true →
      let rest := x.raised.take k ++ x.raised.drop (k + 1)
      (x.ringFull = false → e.kind ≠ 8 ∨ x.pendingSvc = [] → ∃ t : State, exec (.eventPost w k) s = .next t ∧ (t.wafer w).raised = rest ∧
        (t.wafer w).svqTail = x.svqTail + 1 ∧
        let u := s.writeAs (waferPa w (bits x.ksvqb 47 12 * 4096 + x.svqTail.toNat % ringSize x.ksvqb * 64))
          ((e.word0 :: e.words.take 6 ++ [BitVec.ofNat 64 x.svqTail.toNat]).flatMap fun v => natRun 8 v.toNat false)
            ⟨3, 0, w * 2 ^ 15, false, 0⟩ (some ⟨.outside w, 5⟩)
        t.mem = u.mem ∧ t.rels = u.rels) ∧
      (x.ringFull = false → e.kind = 8 → (∀ y ∈ rest, y.kind ≠ 8) → ∀ v core ops, x.pendingSvc = (v, core) :: ops →
        let p := w * 64 + svcPart v
        ∃ t : State, exec (.eventPost w k) s = .next t ∧ (t.wafer w).svqTail = x.svqTail + 1 ∧
          (svcOp v = 4 → (s.part p).st = .run → (t.part p).st = .gating ∧ (t.wafer w).pendingSvc = x.pendingSvc) ∧
          (svcOp v = 5 → (s.part p).st = .swapped → (t.part p).st = .run ∧ (t.wafer w).pendingSvc = ops) ∧
          (svcOp v = 6 → x.round = none → (∀ y ∈ s.parts, y.1 / 64 = w → y.2.st ≠ .gating) → (t.wafer w).round = some ⟨svcArg v, []⟩)) ∧
      (x.ringFull = true → e.kind = 1 → exec (.eventPost w k) s =
        .next (s.setWafer w { x with raised := rest, svqLost := x.svqLost + 1 })) ∧
      (x.ringFull = true → e.kind ≠ 1 → exec (.eventPost w k) s = .next s)) ∧
    (∀ part, let k := w * 64 + part
      let u := (s.partCores k).foldl (fun s n => s.setCore n (s.core n).unwait) s
      (s.part k).st = .gating → x.round = none →
        (u.quiescent k = false → exec (.preemptQuiesce w part) s = .next u) ∧
        (u.quiescent k = true → (s.part k).killAfter = [] → ∃ (t : State) (e : Ev), exec (.preemptQuiesce w part) s = .next t ∧
          (t.part k).st = .swapped ∧ (t.wafer w).raised = x.raised ++ [e] ∧ e.kind = 8 ∧ nth e.words 0 0 = 4)) ∧
    (∀ r unit, x.round = some r → unit % 8 ≠ 7 → shas r.stopped unit = false → s.unitStill w unit = true → ∃ t : State,
      exec (.awnReceive w unit) s = .next t ∧ (t.wafer w).round = some { r with stopped := sput r.stopped unit } ∧ t.mem = s.mem) ∧
    (∀ r k site, x.round = some r → site < 16384 → s.fabWafer k = w → (s.cell k site).ready = true → (s.cell k site).awn = false →
      s.awnDue k site = true → s.siteRests k site = true → ∃ t : State, exec (.awnReceive w (8 * (16384 * k + site) + 7)) s = .next t ∧
        (t.cell k site).awn = true ∧ (∀ o ∈ s.siteOuts k site, ∀ ch, o.ch = some ch → ((t.plane k).chan ch).awn = true) ∧
        t.wafer w = x ∧ t.mem = s.mem) ∧
    (∀ r, x.round = some r → (∀ u ∈ s.liveUnits w, shas r.stopped u = true) → s.sitesStopped w = true → ∃ (t : State) (e : Ev),
      exec (.checkpointSave w) s = .next t ∧ (t.wafer w).round = none ∧ (t.wafer w).raised = x.raised ++ [e] ∧ e.kind = 8 ∧
        nth e.words 0 0 = 6 ∧ t.mem = s.mem ∧ ∀ k site, t.fabWafer k = w → (t.cell k site).awn = false) ∧
    (∀ r, x.round = some r → s.sitesStopped w = false → exec (.checkpointSave w) s = .next s) ∧
    (x.kwdog ≠ 0 → (∀ e ∈ x.raised, e.kind ≠ 3) → x.round = none →
      let due := s.dueParts w (x.kwdog.toNat * 1000)
      (∀ k ∈ due, (s.part k).st = .run ∧ (s.part k).paused = none ∧ x.kwdog.toNat * 1000 ≤ s.time - (s.part k).wdogAt) ∧
      ((∀ k ∈ due, s.silentNode k = none) → exec (.watchdogExpire w) s = .next (due.foldl (fun s k => s.newInterval k) s)) ∧
      (∀ a k b r c, due = a ++ k :: b → (∀ j ∈ a, s.silentNode j = none) → s.silentNode k = some (r, c) →
        ∃ (t : State) (e : Ev), exec (.watchdogExpire w) s = .next t ∧ (t.part k).killAfter = (s.part k).killAfter ++ [r] ∧
          (t.part k).st = .gating ∧ (t.wafer w).raised = x.raised ++ [e] ∧ e.kind = 3 ∧ e.ref = some r ∧
          nth e.words 0 0 = BitVec.ofNat 64 c))
/-! ## Power, links and the module -/

/-- R221, R200: the shares of a budget are all of it; each field has the floor, where the budget covers the floors, and its part of the rest in proportion to
its requests, rounded down, or one more grain; else the budget's even part, or one more. With no request the rest is shared evenly (log 29). -/
def Pieces.SharesAreFair : Prop :=
  ∀ (budget floor : Nat) (asks : List Nat), asks ≠ [] →
    let n := asks.length
    let shares := divide budget floor asks
    let rest := budget - floor * n
    shares.length = n ∧ shares.sum = budget ∧
    ∀ i, i < n → let x := nth shares i 0
      let part := if asks.sum = 0 then rest / n else rest * nth asks i 0 / asks.sum
      (floor * n ≤ budget → floor + part ≤ x ∧ x ≤ floor + part + 1) ∧
      (budget < floor * n → x = budget / n + if i < budget % n then 1 else 0)

/-- R200, R219 to R221, R223, R228: each microsecond a wafer's budget, a quarter of it under fast throttle, is divided among its fields,
by what each drew and what its units still wait for (log 29),
which carry over what is left up to one budget; what a wafer has to spare in a trading period is its budgets less the grains that it drew (log 30); a wafer with more than 1/16 of its budget to spare grants, on a link, half of it at most
to the wafer that asked for most; a grant is applied at the next interval; with every field hot the budget loses an eighth. Fast
throttle begins with an asserted source, and ends 20 µs after the last has cleared. -/
def Pieces.BudgetsPass : Prop :=
  ∀ (s : State) (w : Nat),
    let x := s.wafer w
    (s.devTime w < x.lastIntvl + 1000 → exec (.grainInterval w) s = .next s) ∧
    (x.lastIntvl + 1000 ≤ s.devTime w → ∃ t : State, exec (.grainInterval w) s = .next t ∧
      (t.wafer w).lastIntvl = x.lastIntvl + 1000 ∧ (t.wafer w).budget = x.budget + x.gain ∧ (t.wafer w).gain = 0 ∧
      (t.wafer w).given = x.given + x.budget ∧ (t.wafer w).drawn = x.drawn + (x.fields.map fun f => (s.field (fieldKey w f)).usedNow).sum ∧
      let total := x.budget + x.gain
      let shares := divide (if x.thrAct then total / 4 else total) x.kpbudMin.toNat
        (x.fields.map fun f => (s.field (fieldKey w f)).usedNow + (s.field (fieldKey w f)).waiting.length)
      ∀ i, i < x.fields.length → let f := s.field (fieldKey w (nth x.fields i 0))
        let g := t.field (fieldKey w (nth x.fields i 0))
        g.bud = nth shares i 0 + min f.pool (nth shares i 0) ∧ g.used = f.usedNow ∧ g.usedNow = 0) ∧
    (x.lastTrade + 100000 ≤ s.devTime w → exec (.tradingPeriod w) s = .next (s.setWafer w { x with
      lastTrade := x.lastTrade + 100000, told := (x.demand / x.intvls, (x.given - x.drawn) / x.intvls), demand := 0, given := 0,
      drawn := 0, intvls := 0 })) ∧
    (∀ v d l, s.devTime w < x.lastTrade + 100000 → x.traded < x.lastTrade → (∀ u, u < s.podsize → (s.wafer u).lastTrade = x.lastTrade) →
      x.budget < 16 * x.told.2 → s.neediest w = some (v, d) → s.upLink w = some l →
      let n := min (min (x.told.2 / 2) d) (x.budget - x.kpbudMin.toNat * x.nfield)
      n ≠ 0 → ∃ t : State, exec (.tradingPeriod w) s = .next t ∧ (t.wafer w).budget = x.budget - n ∧
        (t.link (w * 64 + l)).grants = (s.link (w * 64 + l)).grants ++ [(v, n)]) ∧
    (∀ k l n rest, s.links.find? (fun e => e.2.up && e.2.grants.any (·.1 == w)) = some (k, l) → takeGrant w l.grants = some (n, rest) →
      exec (.grantReceive w) s = .next ((s.setLink k { l with grants := rest }).setWafer w { x with gain := x.gain + n })) ∧
    (s.allHot w = true → x.lastDecay + 1000000 ≤ s.time → exec (.budgetDecay w) s = .next (s.setWafer w { x with
      lastDecay := s.time, budget := if x.budget ≤ x.floor then x.budget else max x.floor (x.budget - x.budget / 8) })) ∧
    (∀ src, s.sourceOn w src = true → x.thrAct = false → ∃ t : State, exec (.throttleEntry w src) s = .next t ∧
      (t.wafer w).thrAct = true ∧ (t.wafer w).thrCnt = x.thrCnt + 1 ∧ (t.wafer w).budget = x.budget) ∧
    (x.thrAct = true → (∀ src, src < 74 → s.sourceOn w src = false) → x.clearAt + 20000 ≤ s.time →
      ∃ t : State, exec (.throttleExit w) s = .next t ∧ (t.wafer w).thrAct = false ∧ (t.wafer w).budget = x.budget)

/-- R200, R219 to R221, R223, R228: budgets, their shares, trading, decay and throttle. What a field asks for is log 29's choice, and what a wafer has to
spare is log 30's. -/
def Obligations.BudgetsAreShared : Prop := Pieces.SharesAreFair ∧ Pieces.BudgetsPass

/-- R224, R225, R228, R229: a hop ends on the other synthesiser, is abandoned where a droop meets it, and is tried again 10 µs after the
droop has cleared; device time follows wafer 0 within 2 ns; a field is hot from KHOT.thr until 3 °C below it; a movable node leaves a
hot field for a cooler one with room. -/
def Obligations.HopsAndHeat : Prop :=
  ∀ (s : State) (k : Nat),
    let f := s.field k
    (∀ c, f.hopFrom = some c → f.retryAt = none → ∃ t : State, exec (.hopComplete k) s = .next t ∧
      (t.field k).cur = BitVec.ofNat 2 c ∧ (t.field k).src = !f.src ∧ t.mem = s.mem ∧
      (f.want = BitVec.ofNat 2 c → (t.field k).hopFrom = none ∧ (t.field k).busy = false)) ∧
    (f.hopFrom.isSome = true → f.retryAt.isSome = true → exec (.hopAbandon k) s =
      .next (s.setField k { f with hopFrom := none, abt := f.abt + 1 })) ∧
    (∀ t0, f.retryAt = some t0 → f.hopFrom = none → f.drp = false → t0 ≤ s.time → ∃ t : State, exec (.hopRetry k) s = .next t ∧
      (t.field k).retryAt = none ∧
      (f.want ≠ f.cur → (t.field k).hopFrom = some f.want.toNat ∧ (t.field k).busy = true)) ∧
    (∀ w, w ≠ 0 → ∃ n, n ≤ 2 ∧ exec (.timeFlit w) s = .next (s.setWafer w { s.wafer w with skew := n })) ∧
    (f.hot = false → (s.wafer (k / 128)).khot.toNat ≤ (Config.temperature k s.tick).toNat → ∃ t : State,
      exec (.fieldHot k) s = .next t ∧ t.field k = { f with hot := true } ∧ t.mem = s.mem) ∧
    exec (.fieldCool k) s = .next (if (Config.temperature k s.tick).toNat + 3 ≤ (s.wafer (k / 128)).khot.toNat then
      s.setField k { f with hot := false } else s) ∧
    (∀ r n, s.node? r = some n → s.mayMigrate r n = true → let w := shWafer r.sheaf
      (∀ i x, n.place = .region i → mfind s.resids i = some x → (s.field x.field).hot = true → x.planes = [] → x.st = .reach →
        x.halt = false → ∀ g a col row, s.coolField r (fun f => (s.roomFor w f x.h).isSome) = some g →
          s.roomFor w g x.h = some (a, col, row) →
            ∃ (t : State) (m : Node) (y : Resid), exec (.nodeMigrate r.sheaf r.node) s = .next t ∧
            t.node? r = some m ∧ m.movedAt = some s.time ∧ m.place = .region i ∧ mfind t.resids i = some y ∧
            y = { x with field := fieldKey w g, col := col, row := row }) ∧
      (∀ a b tw th, n.place = .team a b tw th → let fit := fun g => firstFit [g] tw th (s.quadFree r (s.fmapOf r))
        (∃ q ∈ rectQuads a b tw th, (s.field (fieldKey w (qnField q))).hot = true) → s.teamStill r ⟨r, a, b, tw, th⟩ = true →
        ∀ g o, s.coolField r (fun g => (fit g).isSome) = some g → fit g = some o → ∃ (t : State) (m : Node),
          exec (.nodeMigrate r.sheaf r.node) s = .next t ∧ t.node? r = some m ∧ m.movedAt = some s.time ∧
          m.place = .team o.1 o.2 tw th))

/-- R150, R219, R233 to R235: a flit that fails its check, or names another key than its number's, is counted and discarded; a good one ends the run
of failures, and adds its credits; a flit not acknowledged is sent again, under the key of its number; eight failures, or a key at its
limit, take the link down, its grants going back; a bank's wavelength moves to the link with most queued from the one with least; a key asks to be
changed after 2^47 flits, and its old slot is held until 512 flits past the change, and the peer's change, have come. -/
def Obligations.LinksCarryFlits : Prop :=
  ∀ (s : State) (k : Nat),
    let l := s.linkNow k
    let w := k / 64
    (l.up = true → l.fails < 8 → let f := Config.flit s.tick
      let e := extSeq f.seq.toNat l.rxSeq
      let good := f.kidx = l.rxKey e ∧ Config.tagOk s.tick f.kidx (flitNonce k 1 e) = true
      (¬good → exec (.flitReceive k) s = .next (s.setLink k { l with bad := l.bad + 1, fails := l.fails + 1 })) ∧
      (good → ∃ t : State, exec (.flitReceive k) s = .next t ∧ t = s.setLink k (t.link k) ∧ (t.link k).fails = 0 ∧
        (t.link k).bad = l.bad ∧ (t.link k).cred = l.cred + f.cred.toNat ∧ l.rxSeq ≤ (t.link k).rxSeq ∧
        (e = l.rxSeq → shas l.rxGot e = false → l.rxSeq < (t.link k).rxSeq) ∧
        (e < l.rxSeq → (t.link k).rxSeq = l.rxSeq ∧ (t.link k).rxGot = l.rxGot))) ∧
    (l.up = true → l.txAcked < l.txSeq → ∃ (e : Nat) (h : FlitHdr), l.txAcked ≤ e ∧ e < l.txSeq ∧ h.seq = BitVec.ofNat 32 e ∧
      h.kidx = l.txKey e ∧ exec (.flitReplay k) s = .next (s.setLink k { l with rpl := l.rpl + 1, wire := some (e, h) })) ∧
    (l.up = true → 8 ≤ l.fails ∨ 2 ^ 48 ≤ l.sealed → exec (.linkDown k) s = .next ((s.setLink k { l with
      up := false, grants := [] }).setWafer w { s.wafer w with budget := (s.wafer w).budget + (l.grants.map (·.2)).sum })) ∧
    ((s.link k).up = false → (s.link k).sealed < 2 ^ 48 →
      exec (.linkUp k) s = .next (s.setLink k { s.link k with up := true, fails := 0 })) ∧
    (l.asked = false → 2 ^ 47 ≤ l.sealed → exec (.keyRolloverRequest k) s = .next (s.setLink k { l with asked := true })) ∧
    (l.held = none → ∃ n, l.rxSeq ≤ n ∧ (∀ e ∈ l.rxGot, e < n) ∧ exec (.keyRollover k) s =
      .next (s.setLink k { l with kidx := !l.kidx, held := some l.txSeq, sealed := 0, asked := false, rxN := n })) ∧
    (∀ n, l.held = some n → n ≤ l.txAcked → n + 512 ≤ l.txSeq → l.rxN ≤ l.rxSeq → exec (.keySlotFree k) s = .next (s.setLink k { l with held := none })) ∧
    (∀ v bank, bank < 12 → mget (s.wafer v).steered bank 0 + 10000 ≤ s.devTime v →
      let ls := (List.range 4).map fun i => v * 64 + 4 * bank + i
      let load := fun k => (Config.linkLoad k s.tick).2 % 2 ^ 24
      ∃ t : State, exec (.wavelengthSteer v bank) s = .next t ∧ t.mem = s.mem ∧ (∀ i ∈ ls, (t.link i).qd = load i) ∧
        ∀ g r, leastBy load ls = some g → leastBy (fun k => 2 ^ 24 - load k) ls = some r →
          (g ≠ r → 2 * load g ≤ load r → 8 < (s.link g).wl →
            (t.link g).wl = (s.link g).wl - 1 ∧ (t.link r).wl = (s.link r).wl + 1) ∧
          (load r < 2 * load g → ∀ i ∈ ls, (t.link i).wl = (s.link i).wl))

/-- R83, R219, R226, R231, R232, R236 to R238: a module reset leaves its wafer at reset but for its fuses; each boot stage runs an image that passes
its checks, else recovery begins with the check that failed; recovery loads on KRCVC.go and runs an image that passes; a report is
written after its nonce, and KATN cleared, or ended with code 1 when no signature is left; a pod of up to 32 wafers starts with its
budget divided; the host writes through its window; a scrub counts what it corrects and poisons what it cannot, after the
reads that cores have issued (log 102); a word of a ring takes what it holds with it, which is left open (log 38). Device time goes on through a module
reset: the next interval and trading period begin on its edges. -/
def Obligations.ModulesBootAndServe : Prop :=
  ∀ (s : State) (w : Nat),
    let x := s.wafer w
    (∃ t : State, exec (.moduleReset w) s = .next t ∧
      (let now := s.time - s.epoch
        let trade := now / 100000 * 100000
        t.wafer w = { resetWafer with
          fen := x.fen, spare := x.spare, lastIntvl := now / 1000 * 1000, lastTrade := trade, traded := trade }) ∧
      t.mem = s.mem ∧ (∀ n, nWafer n = w → t.core n = resetCore) ∧ (∀ p, p / 64 = w → mfind t.parts p = none)) ∧
    (x.stage < 2 → let img := Config.bootImage w s.tick
      let f := imageCheck w img
      (f = 0 → exec (.bootStageVerify w) s = .next (s.setWafer w (x.runImage x.stage img))) ∧
      (f ≠ 0 → exec (.bootStageVerify w) s = .next (s.setWafer w { x with
        kbstat := BitVec.ofNat 64 (f * 16 + 0xF), recFrom := x.stage }))) ∧
    (x.stage = 0xF →
      (∀ v : W64, v.toNat % 16 = 1 → x.krcvc ≠ 1 → exec (.krcvcGo w v) s = .next (s.setWafer w { x with krcvc := 1 })) ∧
      (x.krcvc = 1 → let img := Config.hostImage s.tick x.krcva.toNat x.krcvl.toNat
        let f := if bits x.krcva 11 0 ≠ 0 ∨ x.krcvl.toNat = 0 ∨ 2 ^ 24 < x.krcvl.toNat then 4 else imageCheck w img
        (f = 0 → exec (.recoveryLoadDone w) s = .next (s.setWafer w { x.runImage x.recFrom img with krcvc := 2 })) ∧
        (f ≠ 0 → exec (.recoveryLoadDone w) s = .next (s.setWafer w { x with kbstat := BitVec.ofNat 64 (f * 16 + 0xF), krcvc := 3 })))) ∧
    (bits x.katn 47 13 ≠ 0 →
      (Config.signaturesLeft w x.reports = false → exec (.attestReportDone w) s = .next (s.setWafer w { x with katn := 1 })) ∧
      (Config.signaturesLeft w x.reports = true → ∃ t : State, exec (.attestReportDone w) s = .next t ∧ (t.wafer w).katn = 0 ∧
        let pa := waferPa w (bits x.katn 47 13 * 2 ^ 13)
        (t.wafer w).reports = x.reports + 1 ∧
        t.mem = (s.write (pa + 32) ((s.report w x.reports pa).map fun b => (b, false)) ⟨3, 0, w * 2 ^ 15, false, 0⟩).mem)) ∧
    (∀ size budget red, 0 < size → size ≤ 32 → ∃ t : State, exec (.podFormation size budget red) s = .next t ∧ t.podBudget = budget ∧
      t.epoch = s.time ∧ ∀ v, v < size → (t.wafer v).podsize = size ∧ (t.wafer v).index = v ∧
        (t.wafer v).budget = budget / size + (if v = 0 then budget % size else 0)) ∧
    (∀ port (v : W64),
      exec (.hostWindowWrite w port 0x20 v) s = .next s ∧
      exec (.hostWindowWrite w port 0x28 v) s = .next (s.setWafer w { x with svqHead := v.setWidth 32 }) ∧
      exec (.hostWindowWrite w port 0x90 v) s = .next (s.setWafer w { x with kwdog := v.setWidth 32 }) ∧
      (x.stage = 0xF → exec (.hostWindowWrite w 0 0x100 v) s = .next (s.setWafer w { x with krcva := v })) ∧
      (port ≠ 0 → exec (.hostWindowWrite w port 0x100 v) s = .next s)) ∧
    (∀ c, let f := Config.scrub s.tick
      (f.2 = none → exec (.hbmScrub c) s = .next (s.setCtl c { s.ctl c with corr := (s.ctl c).corr + f.1 })) ∧
      ∀ o, f.2 = some o → let pa := c / 64 * 2 ^ 48 + 0x100000000000 + c % 64 * 0x1000000000 + o % 0xC00000000 / 8 * 8
        let u := (s.setCtl c { s.ctl c with corr := (s.ctl c).corr + f.1 }).settle [canon pa]
        ∃ t : State, exec (.hbmScrub c) s = .next t ∧ t = { u with poison := sput u.poison (canon pa), resids := t.resids } ∧
          (s.inRing pa = false → t.resids = u.resids))
/-! ## Where forms complete -/

/-- R40, R386, R52, R95, R351, R387, R153, R336, R337: where SPAWN, WAIT_LIMIT_TRAP, HOME_ACCESS, ERED and RED_ROUTER_ADD complete. SPAWN of a record in
order without a join block, with room on chip in its quad's queue, pushes it there. A wait past its limit traps. An access that may perform at
its home performs: a load takes the home's bytes, where no read ahead of it serves it (log 36), and a store puts its own there; a parked strand
that waited for it ends (log 112). An ERED in order whose source can be read contributes its
vector and leaves the head. A router with everything it adds delivers the sum. -/
def Obligations.CoreFormsComplete : Prop :=
  ∀ (s : State),
    (∀ (a : Reg) (st : Strand) (pa : Nat) (trc fmt : Bool), s.me.strand = some st → s.me.ready [a] 0 = true →
      let va := s.me.get a
      let w := fun i => s.readW (pa + 8 * i)
      let q := (s.quad (nQuad s.cur)).contq
      va.toNat % 32 = 0 → s.me.records = [] → s.atOnce va 32 0 pa trc fmt → recReserved w = false → (w 1).toNat % 32 = 0 → w 2 = 0 →
      q.chip.length + q.ring.length < 64 → (∀ x ∈ q.chip, x.out = false) → ∃ t, exec (.spawn a) s = .next t ∧ t.me.pc = s.me.pc + 4 ∧ t.me.x = s.me.x ∧ t.mem = s.mem ∧
        (t.quad (nQuad s.cur)).contq = ⟨q.chip ++ q.ring ++ [mkRec s.cur st.ref w], []⟩) ∧
    (∀ n t0, let c := s.core n
      c.wait = some t0 → c.fault = none → c.ending = none → s.unitRuns n .core = true → c.kwlim ≠ 0 → c.kwlim.toNat < s.now n - t0 →
      c.tm = false → c.ktvec ≠ 0 → ∃ t, exec (.waitLimitTrap n) s = .next t ∧ t.mem = s.mem ∧ (t.core n).pc = c.ktvec ∧
        (t.core n).kepc = c.pc ∧ (t.core n).kcause = 4 ∧ (t.core n).ktval = BitVec.ofNat 64 (s.now n - t0) ∧ (t.core n).tm = true) ∧
    (∀ n a, s.performs n a → let c := s.core n
      (a.kind = .ld → c.earlyFor a = none → s.poisonRun a.pa a.size = false → exec (.homeAccess n a.id) s =
        .next ((s.setCore n (c.loaded n a (BitVec.ofNat 64 (s.readNat a.pa a.size)) (s.relsAt a.pa a.size))).endParked n)) ∧
      (a.kind = .st → a.rel = false → exec (.homeAccess n a.id) s = .next (((s.setCore n (c.done a.id 0)).write a.pa
        (natRun a.size a.data.toNat false) ⟨0, 0, n, a.trc, 0⟩).endParked n))) ∧
    (∀ w c ref tm r, s.heads c → eredOk c = true → c.ref = some ref → (s.core c.core).team = some tm →
      let q := s.curQ
      let k := redKey ref (bits c.c.w1 35 32)
      let n := Cmd.redCount c.c * eredSize c.c
      let rank := tm.rank c.core
      mfind s.reds k = some r → r.first ≤ rank → rank ≤ r.last → r.count = Cmd.redCount c.c → mhas r.vecs rank = false →
      grainsFor n ≤ (s.prog q).k → (s.prog q).fresh → ∀ pa trc,
        s.engReaches q c ⟨0, 0, BitVec.ofNat 64 (localBase + Cmd.redSrc c.c), 0, []⟩ n pa trc →
          ∃ (t : State) (x : RedGroup), exec (.ered w) s = .next t ∧ mfind t.reds k = some x ∧
            x.vecs = mput r.vecs rank (bytesElems (eredSize c.c) (s.readRun pa n)) ∧ t.queue q = (s.queue q).popped) ∧
    (∀ k node r tm, mfind s.reds k = some r → s.nodeTeam (redRef k) = some tm → s.partRuns (shPartKey (redRef k).sheaf) = true →
      mhas r.outs node = false → (∀ x ∈ r.children tm node, mhas r.outs x = true) → r.inQuad tm node ≠ [] → mhas r.locs node = true →
        exec (.redRouterAdd k node) s = .next (s.setRed k { r with
          outs := mput r.outs node (sumVecs ((r.children tm node).map (fun x => mget r.outs x []) ++ [mget r.locs node []])) }))

/-- R162, R168, R169, R173, R174, R177, R322, R323, R325, R331, R332: where CONFIG_STEP, CONFIG_WORD_LOAD, REQUEST_TOKEN, CALLEE_REST, CCALL, CRET, CREQ and CREQ_PLACE
complete. A residency goes on to its next pass; a word in order reaches its cell; an input asks for one more burst; a callee at rest halts with
cause 6; a CCALL within the limits takes its region, and then loads its callee; a CRET gives the region back to the caller's plane; a CREQ
asks for an instance, and one with room is placed. -/
def Obligations.FabricFormsComplete : Prop :=
  ∀ (s : State),
    (∀ i r, mfind s.resids i = some r →
      (s.residRuns i r = true → r.st = .running → r.planes = [] → r.inst = none → r.live.passed = true → r.it + 1 < r.iters →
        ∃ t x, exec (.configStep i) s = .next t ∧ mfind t.resids i = some x ∧ x.it = r.it + 1 ∧ x.st = .reach) ∧
      (s.loadRuns i r = true → r.st = .loading → ∀ site rest ws more, r.load = site :: rest →
        (r.live.chan (confCh site)).conf = ws :: more → site < badSite → recordOk false (recordKind false site) ws = true →
        exec (.configWordLoad i) s = .next (s.setResid i { r with
          live := (r.live.setChan (confCh site) { r.live.chan (confCh site) with conf := more }).setCell site { cellOf ws with ready := true }
          load := rest })) ∧
      (s.residRuns i r = true → s.atRest i r = true →
        ∃ t x, exec (.calleeRest i) s = .next t ∧ mfind t.resids i = some x ∧ x.cause = 6 ∧ x.halt = true)) ∧
    (∀ k ch, s.fabOpen k = true → (s.plane k).consumes ch = true → ((s.plane k).chan ch).dem < 16 → exec (.requestToken k ch) s =
      .next (s.setPlane k ((s.plane k).setChan ch { (s.plane k).chan ch with dem := ((s.plane k).chan ch).dem + 1 }))) ∧
    (∀ w ts r, let a := s.seat
      let i := a.k / 2
      fabCtl a.k = none → s.goesOn w ts → mfind s.resids i = some r →
      (r.st = .running → bits w 7 0 < r.nlist → r.planes.length < r.limit →
        exec (.ccall w) s = .next (s.setResid i { r with st := .freezing a.b })) ∧
      (r.st = .freezing a.b → r.live.quiet = true → ∀ e recs, s.readEntry r (bits w 7 0) true = .ok (e, recs) →
        ∃ t x, exec (.ccall w) s = .next t ∧ mfind t.resids i = some x ∧ x.planes.length = r.planes.length + 1 ∧ x.load = recs.map (·.1) ∧
          x.live.call = (inputToks w ts).map Tok.plain ∧ x.st = .loading) ∧
      (r.st = .running → r.planes ≠ [] → exec (.cret w) s = .next (s.setResid i { r with st := .returning a.b })) ∧
      (r.st = .returning a.b → r.live.quiet = true → r.strict = false → ∀ rest p, r.planes = rest ++ [p] →
        ∃ t x, exec (.cret w) s = .next t ∧ mfind t.resids i = some x ∧ x.planes.length = rest.length ∧ x.st = .running ∧
          (x.live.lane (p.caller.getD 0)).out = (inputToks w ts).map Tok.plain)) ∧
    (∀ w ts t r x, let a := s.seat
      let i := a.k / 2
      s.begins w false ts t → (∀ y ∈ ts, y.scaled = false) → fabCtl a.k = none → mfind s.resids i = some r → mfind t.resids i = some x →
      x.live.id = r.live.id → s.instOf i a.b r.live.id = none → t.instOf i a.b r.live.id = none → t.creqNode x (bits w 11 0) = true →
      (∀ b ∈ r.backs, b.1 ≠ r.live.id ∨ b.2.1 ≠ a.b) → (∀ c ∈ s.creqs, c.res ≠ i ∨ c.site ≠ a.b ∨ c.plane ≠ r.live.id) →
        ∃ u, exec (.creq w) s = .next u ∧ u.creqs = t.creqs ++ [⟨t.serial + 1, i, a.b, r.live.id, bits w 11 0, (inputToks w ts).map Tok.plain⟩]) ∧
    (∀ n c r id v, s.creqs[n]? = some c → mfind s.resids c.res = some r → r.halt = false → s.partRuns (shPartKey r.ref.sheaf) = true →
      s.neverFits r.ref = false → s.residPlace r.ref (s.nodeWords ⟨r.ref.sheaf, c.node⟩) c.stamp = some (id, v) →
        ∃ t x, exec (.creqPlace n) s = .next t ∧ mfind t.resids id = some x ∧ x.inst = some (c.res, c.site, c.plane) ∧
          t.creqs = s.creqs.take n ++ s.creqs.drop (n + 1))

/-- R219, R233, R234, R235: where FLIT_RECEIVE, FLIT_REPLAY, LINK_DOWN, LINK_UP, WAVELENGTH_STEER, KEY_ROLLOVER_REQUEST, KEY_ROLLOVER and KEY_SLOT_FREE complete. A link that is
up takes in a flit that verifies, and counts one that does not; one with a flit not acknowledged sends it again; a link that has failed goes down, and one that is down comes
up; a bank steers every 10 µs; a key that has sealed 2^47 flits asks for another; a rollover turns to the other slot; and a held slot
is free once its flits are done with. -/
def Obligations.LinkFormsComplete : Prop :=
  ∀ (s : State) (k : Nat),
    let l := s.linkNow k
    (l.up = true → l.fails < 8 → let f := Config.flit s.tick
      let good := f.kidx = l.rxKey (extSeq f.seq.toNat l.rxSeq) ∧
        Config.tagOk s.tick f.kidx (flitNonce k 1 (extSeq f.seq.toNat l.rxSeq)) = true
      ∃ m : Link, exec (.flitReceive k) s = .next (s.setLink k m) ∧
        (good → m.fails = 0 ∧ m.cred = l.cred + f.cred.toNat ∧ l.rxSeq ≤ m.rxSeq) ∧ (¬good → m.bad = l.bad + 1 ∧ m.fails = l.fails + 1)) ∧
    (l.up = true → l.txAcked < l.txSeq → ∃ m : Link, exec (.flitReplay k) s = .next (s.setLink k m) ∧ m.rpl = l.rpl + 1) ∧
    (l.up = true → 8 ≤ l.fails → ∃ t, exec (.linkDown k) s = .next t ∧ t.link k = { l with up := false, grants := [] }) ∧
    ((s.link k).up = false → (s.link k).sealed < 2 ^ 48 → exec (.linkUp k) s =
      .next (s.setLink k { s.link k with up := true, fails := 0 })) ∧
    (l.asked = false → 2 ^ 47 ≤ l.sealed → exec (.keyRolloverRequest k) s = .next (s.setLink k { l with asked := true })) ∧
    (l.held = none → ∃ m : Link, exec (.keyRollover k) s = .next (s.setLink k m) ∧ m.kidx = !l.kidx ∧ m.held = some l.txSeq ∧
      m.sealed = 0) ∧
    (∀ n, l.held = some n → n ≤ l.txAcked → n + 512 ≤ l.txSeq → l.rxN ≤ l.rxSeq →
      exec (.keySlotFree k) s = .next (s.setLink k { l with held := none })) ∧
    (∀ v bank, bank < 12 → mget (s.wafer v).steered bank 0 + 10000 ≤ s.devTime v →
      ∃ t, exec (.wavelengthSteer v bank) s = .next t ∧ t.mem = s.mem ∧ mget (t.wafer v).steered bank 0 = s.devTime v)
/-! ## Statements of several parts -/

/-- R6, R75, R135, R176, R187, R207, R223, R242, R252, R253, R349: what KRD and KWR trap on, and what they read and write. -/
def Obligations.SpecialRegisters : Prop := Pieces.KregChecks ∧ Pieces.CoreKregs ∧ Pieces.OtherKregs

/-- R205, R310, R351, R352, R387, R389, R391, R392, R395, R406: what a trap saves and where it goes, and the misaligned trap of each access. -/
def Obligations.TrapsAndMisalignment : Prop := Pieces.TrapEntry ∧ Pieces.MisalignedTraps

/-- R241, R247, R310, R311, R351, R352, R387, R389, R391, R406: the issue of the accesses of the load-store port. -/
def Obligations.AccessesIssue : Prop := Pieces.LoadsAndStoresIssue ∧ Pieces.AmosIssue

/-- R38, R40, R52, R95, R180, R197, R309, R351, R386, R387, R389, R391: SPAWN and where the record that it pushes stands; what an access does at its
home; and a wait past its limit. Where a record lies in its ring is log 38's choice; reads ahead of loads are log 36's, and that a parked strand's
end waits for its writes is log 112's. -/
def Obligations.SpawnsAccessesAndWaits : Prop :=
  Pieces.SpawnPushes ∧ Pieces.PushIsBehind ∧ Pieces.HomeAccessPerforms ∧ Pieces.WaitLimit

/-- R157, R168 to R170, R173, R174, R177, R213, R322, R323, R331: configurations, calls, returns and requests of residencies. -/
def Obligations.ConfigurationsAndCalls : Prop := Pieces.ConfigurationsRun ∧ Pieces.CallsAndRequests

/-- R39, R42, R43, R347, R348, R384: RETIRE in and out of trap mode, KEND, the decrement of a join block and its underflow, and JOIN; JOIN waits
for the core's earlier reads, and the decrement is a release (log 36). -/
def Obligations.StrandsEndAndJoin : Prop := Pieces.RetireAndKend ∧ Pieces.OthersEnd ∧ Pieces.BlockDecrements ∧ Pieces.JoinCompletesOrParks

/-- R44, R45, R46, R53, R108, R338, R339: the instructions of futures, each on an entry that its handle names; FGET and FWAIT wait for the core's earlier
reads first (log 36). -/
def Obligations.Futures : Prop := Pieces.FuturesRead ∧ Pieces.FuturesSetAndFree

/-- R188, R189, R190, R207, R300, R338, R350: launches from strands, from the host and pod-wide. -/
def Obligations.Launches : Prop := Pieces.LaunchAccepts ∧ Pieces.LaunchRing

/-- R38, R39, R196, R197, R198: how records start strands and how they move between queues. -/
def Obligations.Records : Prop := Pieces.StrandStarts ∧ Pieces.RecordsMove

/-- R74, R76, R88, R91, R107, R202, R388: what comes back to a core; a parked strand that waited for an acknowledgement then ends (log 112). -/
def Obligations.PortAnswers : Prop := Pieces.AccessesComeBack ∧ Pieces.FillsAndWalks

/-- R249, R396 to R404: the issue of the vector instructions, the results of every operation, and the ends of commands. -/
def Obligations.VectorUnit : Prop :=
  Pieces.VectorsIssue ∧ Pieces.VectorArithmetic ∧ Pieces.VectorFunctions ∧ Pieces.VectorMoves ∧ Pieces.VectorConverts ∧
    Pieces.VectorSums ∧ Pieces.VectorRuns ∧ Pieces.VectorEnds

/-- R124, R131, R132, R362, R363, R368: the matrix commands but MMA. -/
def Obligations.MatrixCommands : Prop := Pieces.MatrixMoves ∧ Pieces.MatrixZero ∧ Pieces.Rings

/-- R133, R408 to R412: the commands of the copy engine; in what order an XSWZ moves its blocks is log 97's choice. -/
def Obligations.CopyEngine : Prop := Pieces.CopiesMove ∧ Pieces.SwizzleMoves

/-- R142, R144 to R148, R359: the way of a block of photonic multicast. -/
def Obligations.Blocks : Prop := Pieces.BlocksAreSent ∧ Pieces.BlocksArrive

/-- R156, R327, R329, R330: reductions across a pod. -/
def Obligations.PodReductions : Prop := Pieces.CredContributes ∧ Pieces.CredResults

/-- R71, R181, R182, R184, R185, R340, R341: edge slots, their binding and their accesses. -/
def Obligations.EdgeFabrics : Prop := Pieces.EdgeBinds ∧ Pieces.EdgeAccesses

/-- R158, R160, R163, R165, R370 to R372, R375, R377, R378, R380 to R382: the cells that compute. -/
def Obligations.CellsFire : Prop := Pieces.CellsCompute ∧ Pieces.SumsAndTables

/-! ## Decoding and the step -/

/-- R239 to R253: decode and encode agree on every well-formed scalar instruction, with every operand at every value, and on every
word that decodes. -/
def Obligations.DecodeOfEncode : Prop :=
  (∀ i : Instr, i.scalar = true → i.wf = true → decodeWord (encode i) = .ok i) ∧
    ∀ (w : W32) (i : Instr), decodeWord w = .ok i → i.scalar = true ∧ i.wf = true ∧ encode i = w

/-- The scalar instructions with their major opcodes, as the table of R243 groups them. -/
def majorOf : Instr → Nat
  | .add .. | .sub .. | .and .. | .or .. | .xor .. | .shl .. | .shr .. | .sra .. | .rot .. | .slt .. | .sltn .. | .min .. | .minn ..
  | .max .. | .maxn .. | .clz .. | .ctz .. | .popc .. | .bext .. | .bins .. => 0x01
  | .mul .. | .mulh .. | .mulhn .. | .div .. | .divn .. | .mod .. | .modn .. => 0x02
  | .amoAdd .. | .amoAnd .. | .amoOr .. | .amoXor .. | .amoMin .. | .amoMax .. | .amoMinn .. | .amoMaxn .. | .amoSwp ..
  | .amoCas .. => 0x03
  | .addi .. => 0x08
  | .andi .. => 0x09
  | .ori .. => 0x0A
  | .xori .. => 0x0B
  | .slti .. => 0x0C
  | .shli .. => 0x0D
  | .shri .. => 0x0E
  | .srai .. => 0x0F
  | .lhi .. => 0x10
  | .pcrel .. => 0x11
  | .jmpr .. => 0x12
  | .ld .. => 0x18
  | .st .. => 0x19
  | .sta .. => 0x1A
  | .ldfe .. => 0x1B
  | .stfe .. => 0x1C
  | .bEq .. | .bNe .. | .bLt .. | .bGe .. | .bLtn .. | .bGen .. | .bFull .. | .bEmpty .. => 0x20
  | .jmp .. => 0x21
  | .jmpl .. => 0x22
  | .vadd .. | .vsub .. | .vmul .. | .vfma .. | .vmin .. | .vmax .. | .vabs .. | .vneg .. | .vrcp .. | .vrsq .. | .vexp ..
  | .vlog2 .. | .vtanh .. | .vcvt .. | .vcvtS .. | .vcmp .. | .vsel .. | .vshuf .. | .vfill .. | .vred .. | .vscan ..
  | .vdot .. => 0x28
  | .krd .. | .kwr .. => 0x30
  | .nop | .halt | .sys .. | .tret | .isync | .fenceRel .. | .fenceAcq .. | .time .. | .timedgo .. | .vbusy .. | .vfence
  | .waitf .. | .waitpred .. | .hintsucc | .kend | .spawn .. | .retire | .join .. | .launch .. | .enq .. | .amsg .. | .marke ..
  | .rmov .. | .fnew .. | .fset .. | .fsetF .. | .fget .. | .fwait .. | .ffree .. | .binit .. | .arrive .. | .bwait .. => 0x38
  | _ => 0x3F

/-- The assigned major opcodes (R243). -/
def majors : List Nat :=
  [0x01, 0x02, 0x03, 0x08, 0x09, 0x0A, 0x0B, 0x0C, 0x0D, 0x0E, 0x0F, 0x10, 0x11, 0x12, 0x18, 0x19, 0x1A, 0x1B, 0x1C, 0x20, 0x21,
    0x22, 0x28, 0x30, 0x38]

/-- The state in which core `n` issues at its turn. -/
def issuing (s : State) (n : Nat) : State := { s.advance with cur := n }

/-- The next move is a turn of core `n`, which may issue, and whose fetch buffer holds the word `w` at its pc. -/
def fetches (s : State) (n : Nat) (w : W32) : Prop :=
  let u := issuing s n
  s.nextMove.act = .issue n ∧ s.advance.coreOk (w64 n) = true ∧ u.canIssue n = true ∧ (u.core n).fetched (u.core n).fetchPc = some w

/-- R243: bits 31:26 of a word select its group as the table assigns them. A word of an unassigned major opcode, those of all zeros and
of all ones among them, is no instruction, and a core that fetches one takes the illegal-instruction trap. -/
def Obligations.OpcodeMap : Prop :=
  (∀ (w : W32) (i : Instr), decodeWord w = .ok i → w.toNat / 2 ^ 26 = majorOf i) ∧
    (∀ m ∈ majors, ∃ (w : W32) (i : Instr), decodeWord w = .ok i ∧ w.toNat / 2 ^ 26 = m) ∧
    (∀ w : W32, w.toNat / 2 ^ 26 ∉ majors → decodeWord w = .error .major ∧
      ∀ s n, fetches s n w → step s = .next ((issuing s n).trap causeIllegal (w.setWidth 64))) ∧
    (0 : W32).toNat / 2 ^ 26 = 0 ∧ (BitVec.allOnes 32).toNat / 2 ^ 26 = 0x3F ∧ 0 ∉ majors ∧ 0x3F ∉ majors

/-- R202, R241, R255, R158, R261: a step runs the instruction that the acting unit has decoded: a core the word at its pc, which a step does not move
the pc past (the meaning does), or the illegal-instruction trap where it decodes to none; an engine the command at the head of its queue;
a fabric the word of its cell or router, its copy marked with the access that it serves (log 109), where a read of an edge fabric
that has none to serve waits; an event of the agenda is itself run (the agenda is the model's, log 1). -/
def Obligations.StepRunsDecoded : Prop :=
  ∀ s : State,
    (∀ n w, fetches s n w → (∀ i, decodeWord w = .ok i → step s = exec i (issuing s n)) ∧
      ∀ e, decodeWord w = .error e → step s = .next ((issuing s n).trap causeIllegal (w.setWidth 64))) ∧
    (∀ i, s.nextMove.act = .event i → spontaneous i = true → step s = exec i s.advance) ∧
    (∀ q c i, s.nextMove.act = .engine q → s.advance.queueOk q = true →
      let u : State := { s.advance with curQ := q }
      (u.queue q).halt = false → (u.queue q).fault = none → u.engRuns q = true → u.headCmd q = some c →
      decodeCmd (u.imageV q c.c) c.c = .ok i → bits c.c.w0 51 48 = qEng q → (Cmd.op c.c = 1 → (u.prog q).on = false) →
        step s = exec i u) ∧
    (∀ k site i, s.nextMove.act = .fabric k site → s.advance.fabricOk k site = true →
      let u : State := { s.advance with curRes := k, curSite := site }
      let b := (u.plane k).baseOf (u.fabShape k).1 site
      (u.cell k b).words ≠ [] →
      (if siteKind b = 1 then decodeRouter ((u.plane k).word b) else decodeCell ((u.plane k).word b)) = .ok i →
        (∀ m, u.serving k b site = some m → step s = exec i (u.mark k site m)) ∧ (u.serving k b site = none → step s = .next u) ∧
        (fabCtl k = none → (u.lane k site).serves = 0 → step s = exec i u))

/-- R308 to R413, the words of their entries: words written out from the encodings decode to the instructions that they stand for. -/
def Obligations.SampleWords : Prop :=
  decodeWord 0x04611000 = .ok (.add 3 1 2 false false) ∧ decodeWord 0x04611400 = .ok (.add 3 1 2 true false) ∧
  decodeWord 0x20407FFF = .ok (.addi 2 0 false (-1)) ∧ decodeWord 0x3CA6003F = .ok (.srai 5 6 false 63) ∧
  decodeWord 0x08A63806 = .ok (.mod 5 6 7 false false) ∧ decodeWord 0x0CA84934 = .ok (.amoCas 5 8 9 false false true 4) ∧
  decodeWord 0x60A93003 = .ok (.ld 5 9 false 3 0 false 3) ∧ decodeWord 0x64C93500 = .ok (.st 6 9 false 3 2 true 0) ∧
  decodeWord 0x6B353800 = .ok (.sta 25 21 false 3 4 0) ∧ decodeWord 0x80480FFD = .ok (.bNe 4 0 (-3)) ∧
  decodeWord 0x4BE50002 = .ok (.jmpr 31 5 false 2) ∧ decodeWord 0xA00A9638 = .ok (.vadd 10 11 false false 7 0) ∧
  decodeWord 0xC00B0061 = .ok (.kwr 11 6) ∧ decodeWord 0xE00000AC = .ok (.fenceRel 4) ∧
  decodeWord 0xE0A63A60 = .ok (.launch 5 6 7) ∧ decodeWord 0xE0000043 = .ok (.sys 3)

/-! ## Every step, and reset -/

/-- R7: the values of the Reset columns, but for the registers of R253 that show live state (KTEAM and KNODE's identity, KENER, KTEMP, KTIME),
the fuses (KFENL, KFENH), the pod's budget (KPBUD) and the write-only KXINV and KSVC, which read 0. -/
def resetValues : List (KReg × W64) :=
  [(.kstat, 0), (.kcause, 0), (.kepc, 0), (.ktval, 0), (.ktvec, 0), (.kscr, 0), (.kwlim, 0), (.kpres, 0xFFFFFFFF), (.kasid, 0),
    (.krseed, 0x100000001), (.kggeo, 0), (.kaplo, 0), (.kaphi, 0), (.khbeat, 0), (.kqseed, 1), (.krxf, 0), (.krxp, 0), (.koptc, 0),
    (.kgrain, 0), (.kcdepth, 1024), (.kfclk, 0), (.kthr, 0), (.kastb, 0), (.kxinv, 0), (.ktrb, 0), (.kptb, 0), (.klqb, 0),
    (.klqdb, 0), (.klqh, 0), (.ksvqb, 0), (.ksvqt, 0), (.ksvqh, 0), (.ksvc, 0), (.ksva, 0), (.kwdog, 0x2710),
    (.kgstall, 0x186A0), (.klead, 0xC800000014), (.khot, 95), (.kbstat, 0), (.katn, 0)]

/-- R7, log 4: a module reset leaves every field that a core can read at the value of its Reset column, and so does the state from which the
machine starts. That its memory is in canonical form, the first clause, is the model's own choice (log 4), no rule of the spec. -/
def Obligations.ResetState : Prop :=
  State.reset.MemOk ∧
  ∀ (s t : State) (n : Nat), nQn n < 6336 → (t = State.reset ∨ exec (.moduleReset (nWafer n)) s = .next t) →
    (∀ p ∈ resetValues, t.kread n p.1 = p.2) ∧
    (∀ l, l < 48 → t.kread n (.kflnk l) = 25 * 2 ^ 56) ∧
    (t.kread n .kwid).toNat / 2 ^ 16 % 64 = 1 ∧ (t.kread n .kwid).toNat % 32 = 0 ∧
    (t.wafer (nWafer n)).krcva = 0 ∧ (t.wafer (nWafer n)).krcvl = 0 ∧ (t.wafer (nWafer n)).krcvc = 0

/-- The model's own form of memory (log 4): every step keeps it canonical, from every state whose memory is. -/
def Obligations.StepKeepsMemory : Prop := ∀ s t : State, s.MemOk → step s = .next t → t.MemOk

/-- The scalar instructions that may write memory, wake a strand or act on the supervisor when they issue. -/
def writesAtIssue : Instr → Bool
  | .halt | .spawn .. | .retire | .kend | .join .. | .fget .. | .fset .. | .fsetF .. | .ffree .. | .arrive .. | .launch .. | .kwr .. => true
  | _ => false

/-- R93, R94, R205, R242: whatever a scalar instruction does at issue, completing, waiting, trapping or stopping with a fault: but for those that
store themselves, it changes no byte of memory, no poison mark and no presence tag (its access does, when it performs), no time and no
other core. -/
def Obligations.IssueFrame : Prop :=
  ∀ (s t : State) (i : Instr), i.scalar = true → writesAtIssue i = false → exec i s = .next t →
    t.mem = s.mem ∧ t.poison = s.poison ∧ t.qtags = s.qtags ∧ t.swz = s.swz ∧ t.time = s.time ∧ t.tick = s.tick ∧ t.cur = s.cur ∧
      ∀ n, n ≠ s.cur → t.core n = s.core n
end

