-- ==== Sys2Proof/Laws/Cells.lean ====
section
/-! SUPPORT. What the act of a cell does where its conditions to fire hold (08_fabric.md R158, R162, R163). -/

namespace Sys2Proof.Machine

/-- Without end-of-stream at the head of its message or access port, a site spreads none. -/
theorem State.spreadEos_none (s : State) (k site : Nat) (h : ∀ r, s.portToks k site 0xC ≠ .eos :: r) :
    s.spreadEos k site = s := by
  unfold State.spreadEos
  split
  · next rest hr => exact absurd hr (h rest)
  · rfl

/-- A site that is free to act, with a firing under way or not yet closed by end-of-stream, does what its operator does. -/
theorem State.onSite_free (s : State) (w : W64) (os : List OutP) (ins : List (Nat × Nat)) (flag : Bool) (act : State → State)
    (hf : s.siteFree w)
    (ho : (s.lane s.seat.k s.seat.x).on = true ∨ (s.cell s.seat.k s.seat.b).closed = false ∨ (s.lane s.seat.k s.seat.x).deal = true)
    (hp : ∀ r, s.portToks s.seat.k s.seat.b 0xC ≠ .eos :: r) : s.onSite s.seat w os ins flag act = act s := by
  obtain ⟨h1, h2, h3, h4, h5, h6, h7⟩ := hf
  unfold State.onSite
  rw [if_neg, if_neg, if_neg, State.spreadEos_none _ _ _ hp]
  · rcases ho with h | h | h <;> simp [h]
  · simp [h7]
  · have h2' : nth (s.cell s.seat.k s.seat.b).words 0 0#64 = w := h2
    simp [h1, h2', h3, h4, h5, h6]

/-- An operator that fires on operands `ts` does the work of a firing, once these and its grain are taken. -/
theorem State.operate_fires (s t : State) (w : W64) (sends : Bool) (ts : List Tok) (ok : List Tok → Bool) (last : Lane → List Tok)
    (go : Seat → List OutP → State → State) (h : s.fires w sends ts t) (hok : ok ts = true) :
    s.operate w sends ok last go = go s.seat (s.outs s.seat.k s.seat.b) t := by
  unfold State.operate
  rcases h with ⟨⟨hf, hon, hcl, hp⟩, hd, hin, hts, u, hpay, h⟩ | ⟨⟨hf, hon, hops, hp⟩, rfl⟩
  · simp only at hd hin hts hpay h ⊢
    rw [State.onSite_free _ _ _ _ _ _ hf (.inr hcl) hp, if_neg (by simp [hon])]
    unfold State.startFiring
    rcases h with ⟨hn, hs, rfl⟩ | ⟨hn, hj, hs, rfl⟩
    · simp only
      rw [if_pos hn, hin]
      simp only
      rw [if_neg (by simp [← hts, hok]), if_neg, hpay]
      · simp
      · cases sends
        · simp
        · simp [hs rfl]
    · simp only
      rw [if_neg hn, if_neg (by simp [hd]), hin]
      simp only
      rw [if_neg (by simp [hj]), if_neg (by simp [← hts, hok]), if_neg, hpay]
      · simp
      · cases sends
        · simp
        · simp [hs rfl]
  · simp only
    rw [State.onSite_free _ _ _ _ _ _ hf (.inl hon) hp, if_pos hon]

end Sys2Proof.Machine
end

