-- ==== Sys2Proof/Laws/Memory.lean ====
section
/-! SUPPORT. Memory in its canonical form: every operation on the list of cells keeps it, and reads what was written. -/

namespace Sys2Proof.Machine

theorem memWfFrom_mono {lo hi : Nat} {m : List Host.Cell} (h : lo ≤ hi) (w : memWfFrom hi m = true) :
    memWfFrom lo m = true := by
  cases m with
  | nil => rfl
  | cons e r =>
    simp only [memWfFrom, Bool.and_eq_true, decide_eq_true_eq] at w ⊢
    exact ⟨⟨by omega, w.1.2⟩, w.2⟩

theorem memWfFrom_del {lo : Nat} {m : List Host.Cell} (a : Nat) (w : memWfFrom lo m = true) :
    memWfFrom lo (memDel m a) = true := by
  induction m generalizing lo with
  | nil => rfl
  | cons e r ih =>
    obtain ⟨k, b⟩ := e
    simp only [memWfFrom, Bool.and_eq_true, decide_eq_true_eq] at w
    simp only [memDel]
    split
    · exact memWfFrom_mono (by omega) w.2
    · simp only [memWfFrom, Bool.and_eq_true, decide_eq_true_eq]
      exact ⟨w.1, ih w.2⟩

theorem memWfFrom_ins {lo : Nat} {m : List Host.Cell} {a : Nat} {v : Byte} (ha : lo ≤ a) (hv : v ≠ 0)
    (w : memWfFrom lo m = true) : memWfFrom lo (memIns m a v) = true := by
  induction m generalizing lo with
  | nil =>
    simp only [memIns, memWfFrom, Bool.and_eq_true, decide_eq_true_eq, bne_iff_ne]
    exact ⟨⟨ha, hv⟩, trivial⟩
  | cons e r ih =>
    obtain ⟨k, b⟩ := e
    simp only [memWfFrom, Bool.and_eq_true, decide_eq_true_eq, bne_iff_ne] at w
    simp only [memIns]
    split
    · subst_vars
      simp only [memWfFrom, Bool.and_eq_true, decide_eq_true_eq, bne_iff_ne]
      exact ⟨⟨ha, hv⟩, w.2⟩
    · split
      · simp only [memWfFrom, Bool.and_eq_true, decide_eq_true_eq, bne_iff_ne]
        exact ⟨⟨ha, hv⟩, ⟨by omega, w.1.2⟩, w.2⟩
      · simp only [memWfFrom, Bool.and_eq_true, decide_eq_true_eq, bne_iff_ne]
        exact ⟨w.1, ih (by omega) w.2⟩

theorem wf_memPut {m : List Host.Cell} (a : Nat) (v : Byte) (w : Memory.wf m = true) : Memory.wf (memPut m a v) = true := by
  simp only [memPut, Memory.wf] at *
  split
  · exact memWfFrom_del a w
  · exact memWfFrom_ins (Nat.zero_le _) ‹_› w

theorem wf_putBytes {m : List Host.Cell} (pa : Nat) (bs : List (Byte × Bool)) (w : Memory.wf m = true) :
    Memory.wf (putBytes m pa bs) = true := by
  induction bs generalizing m pa with
  | nil => exact w
  | cons e r ih => exact ih _ (wf_memPut _ _ w)

/-! ## Reading after writing -/

theorem memGet_of_lt {lo : Nat} {m : List Host.Cell} {a : Nat} (w : memWfFrom lo m = true) (h : a < lo) : memGet m a = 0 := by
  induction m generalizing lo with
  | nil => rfl
  | cons e r ih =>
    obtain ⟨k, b⟩ := e
    simp only [memWfFrom, Bool.and_eq_true, decide_eq_true_eq] at w
    simp only [memGet]
    rw [if_neg (by omega), ih w.2 (by omega)]

theorem memGet_ins (m : List Host.Cell) (a b : Nat) (v : Byte) :
    memGet (memIns m a v) b = if a = b then v else memGet m b := by
  induction m with
  | nil => simp [memIns, memGet]
  | cons e r ih =>
    obtain ⟨k, x⟩ := e
    simp only [memIns]
    split
    · subst_vars; simp only [memGet]; split <;> simp_all
    · split
      · simp [memGet]
      · simp only [memGet, ih]
        by_cases h : k = b
        · subst h; simp_all; intro h2; exact absurd h2.symm ‹_›
        · simp [h]

theorem memGet_del {lo : Nat} {m : List Host.Cell} (a b : Nat) (w : memWfFrom lo m = true) :
    memGet (memDel m a) b = if a = b then 0 else memGet m b := by
  induction m generalizing lo with
  | nil => simp [memDel, memGet]
  | cons e r ih =>
    obtain ⟨k, x⟩ := e
    simp only [memWfFrom, Bool.and_eq_true, decide_eq_true_eq] at w
    simp only [memDel]
    split
    · subst_vars
      by_cases h : k = b
      · subst h; simp [memGet_of_lt w.2 (Nat.lt_succ_self k)]
      · simp [memGet, h]
    · simp only [memGet, ih w.2]
      by_cases h : k = b
      · subst h; simp; intro h2; exact absurd h2.symm ‹_›
      · simp [h]

theorem memGet_memPut {m : List Host.Cell} (a b : Nat) (v : Byte) (w : Memory.wf m = true) :
    memGet (memPut m a v) b = if a = b then v else memGet m b := by
  simp only [memPut]
  split
  · subst_vars; exact memGet_del a b w
  · exact memGet_ins m a b v

end Sys2Proof.Machine
end

