-- ==== Sys2Proof/Laws/State.lean ====
section
/-! SUPPORT. What each setter of a unit leaves in each field of the state, by unfolding. -/

namespace Sys2Proof.Machine

@[simp] theorem State.setCore_agenda (s : State) (k : Nat) (v : Core) : (s.setCore k v).agenda = s.agenda := rfl
@[simp] theorem State.setCore_tick (s : State) (k : Nat) (v : Core) : (s.setCore k v).tick = s.tick := rfl
@[simp] theorem State.setCore_time (s : State) (k : Nat) (v : Core) : (s.setCore k v).time = s.time := rfl
@[simp] theorem State.setCore_cur (s : State) (k : Nat) (v : Core) : (s.setCore k v).cur = s.cur := rfl
@[simp] theorem State.setCore_curQ (s : State) (k : Nat) (v : Core) : (s.setCore k v).curQ = s.curQ := rfl
@[simp] theorem State.setCore_curRes (s : State) (k : Nat) (v : Core) : (s.setCore k v).curRes = s.curRes := rfl
@[simp] theorem State.setCore_curSite (s : State) (k : Nat) (v : Core) : (s.setCore k v).curSite = s.curSite := rfl
@[simp] theorem State.setCore_mem (s : State) (k : Nat) (v : Core) : (s.setCore k v).mem = s.mem := rfl
@[simp] theorem State.setCore_poison (s : State) (k : Nat) (v : Core) : (s.setCore k v).poison = s.poison := rfl
@[simp] theorem State.setCore_rels (s : State) (k : Nat) (v : Core) : (s.setCore k v).rels = s.rels := rfl
@[simp] theorem State.setCore_qtags (s : State) (k : Nat) (v : Core) : (s.setCore k v).qtags = s.qtags := rfl
@[simp] theorem State.setCore_swz (s : State) (k : Nat) (v : Core) : (s.setCore k v).swz = s.swz := rfl
@[simp] theorem State.setCore_cores (s : State) (k : Nat) (v : Core) : (s.setCore k v).cores = mput s.cores k v := rfl
@[simp] theorem State.setCore_quads (s : State) (k : Nat) (v : Core) : (s.setCore k v).quads = s.quads := rfl
@[simp] theorem State.setCore_fields (s : State) (k : Nat) (v : Core) : (s.setCore k v).fields = s.fields := rfl
@[simp] theorem State.setCore_wafers (s : State) (k : Nat) (v : Core) : (s.setCore k v).wafers = s.wafers := rfl
@[simp] theorem State.setCore_ctls (s : State) (k : Nat) (v : Core) : (s.setCore k v).ctls = s.ctls := rfl
@[simp] theorem State.setCore_links (s : State) (k : Nat) (v : Core) : (s.setCore k v).links = s.links := rfl
@[simp] theorem State.setCore_queues (s : State) (k : Nat) (v : Core) : (s.setCore k v).queues = s.queues := rfl
@[simp] theorem State.setCore_sheaves (s : State) (k : Nat) (v : Core) : (s.setCore k v).sheaves = s.sheaves := rfl
@[simp] theorem State.setCore_parts (s : State) (k : Nat) (v : Core) : (s.setCore k v).parts = s.parts := rfl
@[simp] theorem State.setCore_parked (s : State) (k : Nat) (v : Core) : (s.setCore k v).parked = s.parked := rfl
@[simp] theorem State.setCore_held (s : State) (k : Nat) (v : Core) : (s.setCore k v).held = s.held := rfl
@[simp] theorem State.setCore_points (s : State) (k : Nat) (v : Core) : (s.setCore k v).points = s.points := rfl
@[simp] theorem State.setCore_reds (s : State) (k : Nat) (v : Core) : (s.setCore k v).reds = s.reds := rfl
@[simp] theorem State.setCore_creds (s : State) (k : Nat) (v : Core) : (s.setCore k v).creds = s.creds := rfl
@[simp] theorem State.setCore_resids (s : State) (k : Nat) (v : Core) : (s.setCore k v).resids = s.resids := rfl
@[simp] theorem State.setCore_cellMem (s : State) (k : Nat) (v : Core) : (s.setCore k v).cellMem = s.cellMem := rfl
@[simp] theorem State.setCore_islCorr (s : State) (k : Nat) (v : Core) : (s.setCore k v).islCorr = s.islCorr := rfl
@[simp] theorem State.setCore_streams (s : State) (k : Nat) (v : Core) : (s.setCore k v).streams = s.streams := rfl
@[simp] theorem State.setCore_walks (s : State) (k : Nat) (v : Core) : (s.setCore k v).walks = s.walks := rfl
@[simp] theorem State.setCore_faults (s : State) (k : Nat) (v : Core) : (s.setCore k v).faults = s.faults := rfl
@[simp] theorem State.setCore_sends (s : State) (k : Nat) (v : Core) : (s.setCore k v).sends = s.sends := rfl
@[simp] theorem State.setCore_creqs (s : State) (k : Nat) (v : Core) : (s.setCore k v).creqs = s.creqs := rfl
@[simp] theorem State.setCore_serial (s : State) (k : Nat) (v : Core) : (s.setCore k v).serial = s.serial := rfl
@[simp] theorem State.setCore_podBudget (s : State) (k : Nat) (v : Core) : (s.setCore k v).podBudget = s.podBudget := rfl
@[simp] theorem State.setCore_epoch (s : State) (k : Nat) (v : Core) : (s.setCore k v).epoch = s.epoch := rfl

@[simp] theorem State.setQuad_agenda (s : State) (k : Nat) (v : Quad) : (s.setQuad k v).agenda = s.agenda := rfl
@[simp] theorem State.setQuad_tick (s : State) (k : Nat) (v : Quad) : (s.setQuad k v).tick = s.tick := rfl
@[simp] theorem State.setQuad_time (s : State) (k : Nat) (v : Quad) : (s.setQuad k v).time = s.time := rfl
@[simp] theorem State.setQuad_cur (s : State) (k : Nat) (v : Quad) : (s.setQuad k v).cur = s.cur := rfl
@[simp] theorem State.setQuad_curQ (s : State) (k : Nat) (v : Quad) : (s.setQuad k v).curQ = s.curQ := rfl
@[simp] theorem State.setQuad_curRes (s : State) (k : Nat) (v : Quad) : (s.setQuad k v).curRes = s.curRes := rfl
@[simp] theorem State.setQuad_curSite (s : State) (k : Nat) (v : Quad) : (s.setQuad k v).curSite = s.curSite := rfl
@[simp] theorem State.setQuad_mem (s : State) (k : Nat) (v : Quad) : (s.setQuad k v).mem = s.mem := rfl
@[simp] theorem State.setQuad_poison (s : State) (k : Nat) (v : Quad) : (s.setQuad k v).poison = s.poison := rfl
@[simp] theorem State.setQuad_rels (s : State) (k : Nat) (v : Quad) : (s.setQuad k v).rels = s.rels := rfl
@[simp] theorem State.setQuad_qtags (s : State) (k : Nat) (v : Quad) : (s.setQuad k v).qtags = s.qtags := rfl
@[simp] theorem State.setQuad_swz (s : State) (k : Nat) (v : Quad) : (s.setQuad k v).swz = s.swz := rfl
@[simp] theorem State.setQuad_cores (s : State) (k : Nat) (v : Quad) : (s.setQuad k v).cores = s.cores := rfl
@[simp] theorem State.setQuad_quads (s : State) (k : Nat) (v : Quad) : (s.setQuad k v).quads = mput s.quads k v := rfl
@[simp] theorem State.setQuad_fields (s : State) (k : Nat) (v : Quad) : (s.setQuad k v).fields = s.fields := rfl
@[simp] theorem State.setQuad_wafers (s : State) (k : Nat) (v : Quad) : (s.setQuad k v).wafers = s.wafers := rfl
@[simp] theorem State.setQuad_ctls (s : State) (k : Nat) (v : Quad) : (s.setQuad k v).ctls = s.ctls := rfl
@[simp] theorem State.setQuad_links (s : State) (k : Nat) (v : Quad) : (s.setQuad k v).links = s.links := rfl
@[simp] theorem State.setQuad_queues (s : State) (k : Nat) (v : Quad) : (s.setQuad k v).queues = s.queues := rfl
@[simp] theorem State.setQuad_sheaves (s : State) (k : Nat) (v : Quad) : (s.setQuad k v).sheaves = s.sheaves := rfl
@[simp] theorem State.setQuad_parts (s : State) (k : Nat) (v : Quad) : (s.setQuad k v).parts = s.parts := rfl
@[simp] theorem State.setQuad_parked (s : State) (k : Nat) (v : Quad) : (s.setQuad k v).parked = s.parked := rfl
@[simp] theorem State.setQuad_held (s : State) (k : Nat) (v : Quad) : (s.setQuad k v).held = s.held := rfl
@[simp] theorem State.setQuad_points (s : State) (k : Nat) (v : Quad) : (s.setQuad k v).points = s.points := rfl
@[simp] theorem State.setQuad_reds (s : State) (k : Nat) (v : Quad) : (s.setQuad k v).reds = s.reds := rfl
@[simp] theorem State.setQuad_creds (s : State) (k : Nat) (v : Quad) : (s.setQuad k v).creds = s.creds := rfl
@[simp] theorem State.setQuad_resids (s : State) (k : Nat) (v : Quad) : (s.setQuad k v).resids = s.resids := rfl
@[simp] theorem State.setQuad_cellMem (s : State) (k : Nat) (v : Quad) : (s.setQuad k v).cellMem = s.cellMem := rfl
@[simp] theorem State.setQuad_islCorr (s : State) (k : Nat) (v : Quad) : (s.setQuad k v).islCorr = s.islCorr := rfl
@[simp] theorem State.setQuad_streams (s : State) (k : Nat) (v : Quad) : (s.setQuad k v).streams = s.streams := rfl
@[simp] theorem State.setQuad_walks (s : State) (k : Nat) (v : Quad) : (s.setQuad k v).walks = s.walks := rfl
@[simp] theorem State.setQuad_faults (s : State) (k : Nat) (v : Quad) : (s.setQuad k v).faults = s.faults := rfl
@[simp] theorem State.setQuad_sends (s : State) (k : Nat) (v : Quad) : (s.setQuad k v).sends = s.sends := rfl
@[simp] theorem State.setQuad_creqs (s : State) (k : Nat) (v : Quad) : (s.setQuad k v).creqs = s.creqs := rfl
@[simp] theorem State.setQuad_serial (s : State) (k : Nat) (v : Quad) : (s.setQuad k v).serial = s.serial := rfl
@[simp] theorem State.setQuad_podBudget (s : State) (k : Nat) (v : Quad) : (s.setQuad k v).podBudget = s.podBudget := rfl
@[simp] theorem State.setQuad_epoch (s : State) (k : Nat) (v : Quad) : (s.setQuad k v).epoch = s.epoch := rfl

@[simp] theorem State.setField_agenda (s : State) (k : Nat) (v : Field) : (s.setField k v).agenda = s.agenda := rfl
@[simp] theorem State.setField_tick (s : State) (k : Nat) (v : Field) : (s.setField k v).tick = s.tick := rfl
@[simp] theorem State.setField_time (s : State) (k : Nat) (v : Field) : (s.setField k v).time = s.time := rfl
@[simp] theorem State.setField_cur (s : State) (k : Nat) (v : Field) : (s.setField k v).cur = s.cur := rfl
@[simp] theorem State.setField_curQ (s : State) (k : Nat) (v : Field) : (s.setField k v).curQ = s.curQ := rfl
@[simp] theorem State.setField_curRes (s : State) (k : Nat) (v : Field) : (s.setField k v).curRes = s.curRes := rfl
@[simp] theorem State.setField_curSite (s : State) (k : Nat) (v : Field) : (s.setField k v).curSite = s.curSite := rfl
@[simp] theorem State.setField_mem (s : State) (k : Nat) (v : Field) : (s.setField k v).mem = s.mem := rfl
@[simp] theorem State.setField_poison (s : State) (k : Nat) (v : Field) : (s.setField k v).poison = s.poison := rfl
@[simp] theorem State.setField_rels (s : State) (k : Nat) (v : Field) : (s.setField k v).rels = s.rels := rfl
@[simp] theorem State.setField_qtags (s : State) (k : Nat) (v : Field) : (s.setField k v).qtags = s.qtags := rfl
@[simp] theorem State.setField_swz (s : State) (k : Nat) (v : Field) : (s.setField k v).swz = s.swz := rfl
@[simp] theorem State.setField_cores (s : State) (k : Nat) (v : Field) : (s.setField k v).cores = s.cores := rfl
@[simp] theorem State.setField_quads (s : State) (k : Nat) (v : Field) : (s.setField k v).quads = s.quads := rfl
@[simp] theorem State.setField_fields (s : State) (k : Nat) (v : Field) : (s.setField k v).fields = mput s.fields k v := rfl
@[simp] theorem State.setField_wafers (s : State) (k : Nat) (v : Field) : (s.setField k v).wafers = s.wafers := rfl
@[simp] theorem State.setField_ctls (s : State) (k : Nat) (v : Field) : (s.setField k v).ctls = s.ctls := rfl
@[simp] theorem State.setField_links (s : State) (k : Nat) (v : Field) : (s.setField k v).links = s.links := rfl
@[simp] theorem State.setField_queues (s : State) (k : Nat) (v : Field) : (s.setField k v).queues = s.queues := rfl
@[simp] theorem State.setField_sheaves (s : State) (k : Nat) (v : Field) : (s.setField k v).sheaves = s.sheaves := rfl
@[simp] theorem State.setField_parts (s : State) (k : Nat) (v : Field) : (s.setField k v).parts = s.parts := rfl
@[simp] theorem State.setField_parked (s : State) (k : Nat) (v : Field) : (s.setField k v).parked = s.parked := rfl
@[simp] theorem State.setField_held (s : State) (k : Nat) (v : Field) : (s.setField k v).held = s.held := rfl
@[simp] theorem State.setField_points (s : State) (k : Nat) (v : Field) : (s.setField k v).points = s.points := rfl
@[simp] theorem State.setField_reds (s : State) (k : Nat) (v : Field) : (s.setField k v).reds = s.reds := rfl
@[simp] theorem State.setField_creds (s : State) (k : Nat) (v : Field) : (s.setField k v).creds = s.creds := rfl
@[simp] theorem State.setField_resids (s : State) (k : Nat) (v : Field) : (s.setField k v).resids = s.resids := rfl
@[simp] theorem State.setField_cellMem (s : State) (k : Nat) (v : Field) : (s.setField k v).cellMem = s.cellMem := rfl
@[simp] theorem State.setField_islCorr (s : State) (k : Nat) (v : Field) : (s.setField k v).islCorr = s.islCorr := rfl
@[simp] theorem State.setField_streams (s : State) (k : Nat) (v : Field) : (s.setField k v).streams = s.streams := rfl
@[simp] theorem State.setField_walks (s : State) (k : Nat) (v : Field) : (s.setField k v).walks = s.walks := rfl
@[simp] theorem State.setField_faults (s : State) (k : Nat) (v : Field) : (s.setField k v).faults = s.faults := rfl
@[simp] theorem State.setField_sends (s : State) (k : Nat) (v : Field) : (s.setField k v).sends = s.sends := rfl
@[simp] theorem State.setField_creqs (s : State) (k : Nat) (v : Field) : (s.setField k v).creqs = s.creqs := rfl
@[simp] theorem State.setField_serial (s : State) (k : Nat) (v : Field) : (s.setField k v).serial = s.serial := rfl
@[simp] theorem State.setField_podBudget (s : State) (k : Nat) (v : Field) : (s.setField k v).podBudget = s.podBudget := rfl
@[simp] theorem State.setField_epoch (s : State) (k : Nat) (v : Field) : (s.setField k v).epoch = s.epoch := rfl

@[simp] theorem State.setWafer_agenda (s : State) (k : Nat) (v : Wafer) : (s.setWafer k v).agenda = s.agenda := rfl
@[simp] theorem State.setWafer_tick (s : State) (k : Nat) (v : Wafer) : (s.setWafer k v).tick = s.tick := rfl
@[simp] theorem State.setWafer_time (s : State) (k : Nat) (v : Wafer) : (s.setWafer k v).time = s.time := rfl
@[simp] theorem State.setWafer_cur (s : State) (k : Nat) (v : Wafer) : (s.setWafer k v).cur = s.cur := rfl
@[simp] theorem State.setWafer_curQ (s : State) (k : Nat) (v : Wafer) : (s.setWafer k v).curQ = s.curQ := rfl
@[simp] theorem State.setWafer_curRes (s : State) (k : Nat) (v : Wafer) : (s.setWafer k v).curRes = s.curRes := rfl
@[simp] theorem State.setWafer_curSite (s : State) (k : Nat) (v : Wafer) : (s.setWafer k v).curSite = s.curSite := rfl
@[simp] theorem State.setWafer_mem (s : State) (k : Nat) (v : Wafer) : (s.setWafer k v).mem = s.mem := rfl
@[simp] theorem State.setWafer_poison (s : State) (k : Nat) (v : Wafer) : (s.setWafer k v).poison = s.poison := rfl
@[simp] theorem State.setWafer_rels (s : State) (k : Nat) (v : Wafer) : (s.setWafer k v).rels = s.rels := rfl
@[simp] theorem State.setWafer_qtags (s : State) (k : Nat) (v : Wafer) : (s.setWafer k v).qtags = s.qtags := rfl
@[simp] theorem State.setWafer_swz (s : State) (k : Nat) (v : Wafer) : (s.setWafer k v).swz = s.swz := rfl
@[simp] theorem State.setWafer_cores (s : State) (k : Nat) (v : Wafer) : (s.setWafer k v).cores = s.cores := rfl
@[simp] theorem State.setWafer_quads (s : State) (k : Nat) (v : Wafer) : (s.setWafer k v).quads = s.quads := rfl
@[simp] theorem State.setWafer_fields (s : State) (k : Nat) (v : Wafer) : (s.setWafer k v).fields = s.fields := rfl
@[simp] theorem State.setWafer_wafers (s : State) (k : Nat) (v : Wafer) : (s.setWafer k v).wafers = mput s.wafers k v := rfl
@[simp] theorem State.setWafer_ctls (s : State) (k : Nat) (v : Wafer) : (s.setWafer k v).ctls = s.ctls := rfl
@[simp] theorem State.setWafer_links (s : State) (k : Nat) (v : Wafer) : (s.setWafer k v).links = s.links := rfl
@[simp] theorem State.setWafer_queues (s : State) (k : Nat) (v : Wafer) : (s.setWafer k v).queues = s.queues := rfl
@[simp] theorem State.setWafer_sheaves (s : State) (k : Nat) (v : Wafer) : (s.setWafer k v).sheaves = s.sheaves := rfl
@[simp] theorem State.setWafer_parts (s : State) (k : Nat) (v : Wafer) : (s.setWafer k v).parts = s.parts := rfl
@[simp] theorem State.setWafer_parked (s : State) (k : Nat) (v : Wafer) : (s.setWafer k v).parked = s.parked := rfl
@[simp] theorem State.setWafer_held (s : State) (k : Nat) (v : Wafer) : (s.setWafer k v).held = s.held := rfl
@[simp] theorem State.setWafer_points (s : State) (k : Nat) (v : Wafer) : (s.setWafer k v).points = s.points := rfl
@[simp] theorem State.setWafer_reds (s : State) (k : Nat) (v : Wafer) : (s.setWafer k v).reds = s.reds := rfl
@[simp] theorem State.setWafer_creds (s : State) (k : Nat) (v : Wafer) : (s.setWafer k v).creds = s.creds := rfl
@[simp] theorem State.setWafer_resids (s : State) (k : Nat) (v : Wafer) : (s.setWafer k v).resids = s.resids := rfl
@[simp] theorem State.setWafer_cellMem (s : State) (k : Nat) (v : Wafer) : (s.setWafer k v).cellMem = s.cellMem := rfl
@[simp] theorem State.setWafer_islCorr (s : State) (k : Nat) (v : Wafer) : (s.setWafer k v).islCorr = s.islCorr := rfl
@[simp] theorem State.setWafer_streams (s : State) (k : Nat) (v : Wafer) : (s.setWafer k v).streams = s.streams := rfl
@[simp] theorem State.setWafer_walks (s : State) (k : Nat) (v : Wafer) : (s.setWafer k v).walks = s.walks := rfl
@[simp] theorem State.setWafer_faults (s : State) (k : Nat) (v : Wafer) : (s.setWafer k v).faults = s.faults := rfl
@[simp] theorem State.setWafer_sends (s : State) (k : Nat) (v : Wafer) : (s.setWafer k v).sends = s.sends := rfl
@[simp] theorem State.setWafer_creqs (s : State) (k : Nat) (v : Wafer) : (s.setWafer k v).creqs = s.creqs := rfl
@[simp] theorem State.setWafer_serial (s : State) (k : Nat) (v : Wafer) : (s.setWafer k v).serial = s.serial := rfl
@[simp] theorem State.setWafer_podBudget (s : State) (k : Nat) (v : Wafer) : (s.setWafer k v).podBudget = s.podBudget := rfl
@[simp] theorem State.setWafer_epoch (s : State) (k : Nat) (v : Wafer) : (s.setWafer k v).epoch = s.epoch := rfl

@[simp] theorem State.setCtl_agenda (s : State) (k : Nat) (v : Ctl) : (s.setCtl k v).agenda = s.agenda := rfl
@[simp] theorem State.setCtl_tick (s : State) (k : Nat) (v : Ctl) : (s.setCtl k v).tick = s.tick := rfl
@[simp] theorem State.setCtl_time (s : State) (k : Nat) (v : Ctl) : (s.setCtl k v).time = s.time := rfl
@[simp] theorem State.setCtl_cur (s : State) (k : Nat) (v : Ctl) : (s.setCtl k v).cur = s.cur := rfl
@[simp] theorem State.setCtl_curQ (s : State) (k : Nat) (v : Ctl) : (s.setCtl k v).curQ = s.curQ := rfl
@[simp] theorem State.setCtl_curRes (s : State) (k : Nat) (v : Ctl) : (s.setCtl k v).curRes = s.curRes := rfl
@[simp] theorem State.setCtl_curSite (s : State) (k : Nat) (v : Ctl) : (s.setCtl k v).curSite = s.curSite := rfl
@[simp] theorem State.setCtl_mem (s : State) (k : Nat) (v : Ctl) : (s.setCtl k v).mem = s.mem := rfl
@[simp] theorem State.setCtl_poison (s : State) (k : Nat) (v : Ctl) : (s.setCtl k v).poison = s.poison := rfl
@[simp] theorem State.setCtl_rels (s : State) (k : Nat) (v : Ctl) : (s.setCtl k v).rels = s.rels := rfl
@[simp] theorem State.setCtl_qtags (s : State) (k : Nat) (v : Ctl) : (s.setCtl k v).qtags = s.qtags := rfl
@[simp] theorem State.setCtl_swz (s : State) (k : Nat) (v : Ctl) : (s.setCtl k v).swz = s.swz := rfl
@[simp] theorem State.setCtl_cores (s : State) (k : Nat) (v : Ctl) : (s.setCtl k v).cores = s.cores := rfl
@[simp] theorem State.setCtl_quads (s : State) (k : Nat) (v : Ctl) : (s.setCtl k v).quads = s.quads := rfl
@[simp] theorem State.setCtl_fields (s : State) (k : Nat) (v : Ctl) : (s.setCtl k v).fields = s.fields := rfl
@[simp] theorem State.setCtl_wafers (s : State) (k : Nat) (v : Ctl) : (s.setCtl k v).wafers = s.wafers := rfl
@[simp] theorem State.setCtl_ctls (s : State) (k : Nat) (v : Ctl) : (s.setCtl k v).ctls = mput s.ctls k v := rfl
@[simp] theorem State.setCtl_links (s : State) (k : Nat) (v : Ctl) : (s.setCtl k v).links = s.links := rfl
@[simp] theorem State.setCtl_queues (s : State) (k : Nat) (v : Ctl) : (s.setCtl k v).queues = s.queues := rfl
@[simp] theorem State.setCtl_sheaves (s : State) (k : Nat) (v : Ctl) : (s.setCtl k v).sheaves = s.sheaves := rfl
@[simp] theorem State.setCtl_parts (s : State) (k : Nat) (v : Ctl) : (s.setCtl k v).parts = s.parts := rfl
@[simp] theorem State.setCtl_parked (s : State) (k : Nat) (v : Ctl) : (s.setCtl k v).parked = s.parked := rfl
@[simp] theorem State.setCtl_held (s : State) (k : Nat) (v : Ctl) : (s.setCtl k v).held = s.held := rfl
@[simp] theorem State.setCtl_points (s : State) (k : Nat) (v : Ctl) : (s.setCtl k v).points = s.points := rfl
@[simp] theorem State.setCtl_reds (s : State) (k : Nat) (v : Ctl) : (s.setCtl k v).reds = s.reds := rfl
@[simp] theorem State.setCtl_creds (s : State) (k : Nat) (v : Ctl) : (s.setCtl k v).creds = s.creds := rfl
@[simp] theorem State.setCtl_resids (s : State) (k : Nat) (v : Ctl) : (s.setCtl k v).resids = s.resids := rfl
@[simp] theorem State.setCtl_cellMem (s : State) (k : Nat) (v : Ctl) : (s.setCtl k v).cellMem = s.cellMem := rfl
@[simp] theorem State.setCtl_islCorr (s : State) (k : Nat) (v : Ctl) : (s.setCtl k v).islCorr = s.islCorr := rfl
@[simp] theorem State.setCtl_streams (s : State) (k : Nat) (v : Ctl) : (s.setCtl k v).streams = s.streams := rfl
@[simp] theorem State.setCtl_walks (s : State) (k : Nat) (v : Ctl) : (s.setCtl k v).walks = s.walks := rfl
@[simp] theorem State.setCtl_faults (s : State) (k : Nat) (v : Ctl) : (s.setCtl k v).faults = s.faults := rfl
@[simp] theorem State.setCtl_sends (s : State) (k : Nat) (v : Ctl) : (s.setCtl k v).sends = s.sends := rfl
@[simp] theorem State.setCtl_creqs (s : State) (k : Nat) (v : Ctl) : (s.setCtl k v).creqs = s.creqs := rfl
@[simp] theorem State.setCtl_serial (s : State) (k : Nat) (v : Ctl) : (s.setCtl k v).serial = s.serial := rfl
@[simp] theorem State.setCtl_podBudget (s : State) (k : Nat) (v : Ctl) : (s.setCtl k v).podBudget = s.podBudget := rfl
@[simp] theorem State.setCtl_epoch (s : State) (k : Nat) (v : Ctl) : (s.setCtl k v).epoch = s.epoch := rfl

@[simp] theorem State.setLink_agenda (s : State) (k : Nat) (v : Link) : (s.setLink k v).agenda = s.agenda := rfl
@[simp] theorem State.setLink_tick (s : State) (k : Nat) (v : Link) : (s.setLink k v).tick = s.tick := rfl
@[simp] theorem State.setLink_time (s : State) (k : Nat) (v : Link) : (s.setLink k v).time = s.time := rfl
@[simp] theorem State.setLink_cur (s : State) (k : Nat) (v : Link) : (s.setLink k v).cur = s.cur := rfl
@[simp] theorem State.setLink_curQ (s : State) (k : Nat) (v : Link) : (s.setLink k v).curQ = s.curQ := rfl
@[simp] theorem State.setLink_curRes (s : State) (k : Nat) (v : Link) : (s.setLink k v).curRes = s.curRes := rfl
@[simp] theorem State.setLink_curSite (s : State) (k : Nat) (v : Link) : (s.setLink k v).curSite = s.curSite := rfl
@[simp] theorem State.setLink_mem (s : State) (k : Nat) (v : Link) : (s.setLink k v).mem = s.mem := rfl
@[simp] theorem State.setLink_poison (s : State) (k : Nat) (v : Link) : (s.setLink k v).poison = s.poison := rfl
@[simp] theorem State.setLink_rels (s : State) (k : Nat) (v : Link) : (s.setLink k v).rels = s.rels := rfl
@[simp] theorem State.setLink_qtags (s : State) (k : Nat) (v : Link) : (s.setLink k v).qtags = s.qtags := rfl
@[simp] theorem State.setLink_swz (s : State) (k : Nat) (v : Link) : (s.setLink k v).swz = s.swz := rfl
@[simp] theorem State.setLink_cores (s : State) (k : Nat) (v : Link) : (s.setLink k v).cores = s.cores := rfl
@[simp] theorem State.setLink_quads (s : State) (k : Nat) (v : Link) : (s.setLink k v).quads = s.quads := rfl
@[simp] theorem State.setLink_fields (s : State) (k : Nat) (v : Link) : (s.setLink k v).fields = s.fields := rfl
@[simp] theorem State.setLink_wafers (s : State) (k : Nat) (v : Link) : (s.setLink k v).wafers = s.wafers := rfl
@[simp] theorem State.setLink_ctls (s : State) (k : Nat) (v : Link) : (s.setLink k v).ctls = s.ctls := rfl
@[simp] theorem State.setLink_links (s : State) (k : Nat) (v : Link) : (s.setLink k v).links = mput s.links k v := rfl
@[simp] theorem State.setLink_queues (s : State) (k : Nat) (v : Link) : (s.setLink k v).queues = s.queues := rfl
@[simp] theorem State.setLink_sheaves (s : State) (k : Nat) (v : Link) : (s.setLink k v).sheaves = s.sheaves := rfl
@[simp] theorem State.setLink_parts (s : State) (k : Nat) (v : Link) : (s.setLink k v).parts = s.parts := rfl
@[simp] theorem State.setLink_parked (s : State) (k : Nat) (v : Link) : (s.setLink k v).parked = s.parked := rfl
@[simp] theorem State.setLink_held (s : State) (k : Nat) (v : Link) : (s.setLink k v).held = s.held := rfl
@[simp] theorem State.setLink_points (s : State) (k : Nat) (v : Link) : (s.setLink k v).points = s.points := rfl
@[simp] theorem State.setLink_reds (s : State) (k : Nat) (v : Link) : (s.setLink k v).reds = s.reds := rfl
@[simp] theorem State.setLink_creds (s : State) (k : Nat) (v : Link) : (s.setLink k v).creds = s.creds := rfl
@[simp] theorem State.setLink_resids (s : State) (k : Nat) (v : Link) : (s.setLink k v).resids = s.resids := rfl
@[simp] theorem State.setLink_cellMem (s : State) (k : Nat) (v : Link) : (s.setLink k v).cellMem = s.cellMem := rfl
@[simp] theorem State.setLink_islCorr (s : State) (k : Nat) (v : Link) : (s.setLink k v).islCorr = s.islCorr := rfl
@[simp] theorem State.setLink_streams (s : State) (k : Nat) (v : Link) : (s.setLink k v).streams = s.streams := rfl
@[simp] theorem State.setLink_walks (s : State) (k : Nat) (v : Link) : (s.setLink k v).walks = s.walks := rfl
@[simp] theorem State.setLink_faults (s : State) (k : Nat) (v : Link) : (s.setLink k v).faults = s.faults := rfl
@[simp] theorem State.setLink_sends (s : State) (k : Nat) (v : Link) : (s.setLink k v).sends = s.sends := rfl
@[simp] theorem State.setLink_creqs (s : State) (k : Nat) (v : Link) : (s.setLink k v).creqs = s.creqs := rfl
@[simp] theorem State.setLink_serial (s : State) (k : Nat) (v : Link) : (s.setLink k v).serial = s.serial := rfl
@[simp] theorem State.setLink_podBudget (s : State) (k : Nat) (v : Link) : (s.setLink k v).podBudget = s.podBudget := rfl
@[simp] theorem State.setLink_epoch (s : State) (k : Nat) (v : Link) : (s.setLink k v).epoch = s.epoch := rfl

@[simp] theorem State.setQueue_agenda (s : State) (k : Nat) (v : EngQ) : (s.setQueue k v).agenda = s.agenda := rfl
@[simp] theorem State.setQueue_tick (s : State) (k : Nat) (v : EngQ) : (s.setQueue k v).tick = s.tick := rfl
@[simp] theorem State.setQueue_time (s : State) (k : Nat) (v : EngQ) : (s.setQueue k v).time = s.time := rfl
@[simp] theorem State.setQueue_cur (s : State) (k : Nat) (v : EngQ) : (s.setQueue k v).cur = s.cur := rfl
@[simp] theorem State.setQueue_curQ (s : State) (k : Nat) (v : EngQ) : (s.setQueue k v).curQ = s.curQ := rfl
@[simp] theorem State.setQueue_curRes (s : State) (k : Nat) (v : EngQ) : (s.setQueue k v).curRes = s.curRes := rfl
@[simp] theorem State.setQueue_curSite (s : State) (k : Nat) (v : EngQ) : (s.setQueue k v).curSite = s.curSite := rfl
@[simp] theorem State.setQueue_mem (s : State) (k : Nat) (v : EngQ) : (s.setQueue k v).mem = s.mem := rfl
@[simp] theorem State.setQueue_poison (s : State) (k : Nat) (v : EngQ) : (s.setQueue k v).poison = s.poison := rfl
@[simp] theorem State.setQueue_rels (s : State) (k : Nat) (v : EngQ) : (s.setQueue k v).rels = s.rels := rfl
@[simp] theorem State.setQueue_qtags (s : State) (k : Nat) (v : EngQ) : (s.setQueue k v).qtags = s.qtags := rfl
@[simp] theorem State.setQueue_swz (s : State) (k : Nat) (v : EngQ) : (s.setQueue k v).swz = s.swz := rfl
@[simp] theorem State.setQueue_cores (s : State) (k : Nat) (v : EngQ) : (s.setQueue k v).cores = s.cores := rfl
@[simp] theorem State.setQueue_quads (s : State) (k : Nat) (v : EngQ) : (s.setQueue k v).quads = s.quads := rfl
@[simp] theorem State.setQueue_fields (s : State) (k : Nat) (v : EngQ) : (s.setQueue k v).fields = s.fields := rfl
@[simp] theorem State.setQueue_wafers (s : State) (k : Nat) (v : EngQ) : (s.setQueue k v).wafers = s.wafers := rfl
@[simp] theorem State.setQueue_ctls (s : State) (k : Nat) (v : EngQ) : (s.setQueue k v).ctls = s.ctls := rfl
@[simp] theorem State.setQueue_links (s : State) (k : Nat) (v : EngQ) : (s.setQueue k v).links = s.links := rfl
@[simp] theorem State.setQueue_queues (s : State) (k : Nat) (v : EngQ) : (s.setQueue k v).queues = mput s.queues k v := rfl
@[simp] theorem State.setQueue_sheaves (s : State) (k : Nat) (v : EngQ) : (s.setQueue k v).sheaves = s.sheaves := rfl
@[simp] theorem State.setQueue_parts (s : State) (k : Nat) (v : EngQ) : (s.setQueue k v).parts = s.parts := rfl
@[simp] theorem State.setQueue_parked (s : State) (k : Nat) (v : EngQ) : (s.setQueue k v).parked = s.parked := rfl
@[simp] theorem State.setQueue_held (s : State) (k : Nat) (v : EngQ) : (s.setQueue k v).held = s.held := rfl
@[simp] theorem State.setQueue_points (s : State) (k : Nat) (v : EngQ) : (s.setQueue k v).points = s.points := rfl
@[simp] theorem State.setQueue_reds (s : State) (k : Nat) (v : EngQ) : (s.setQueue k v).reds = s.reds := rfl
@[simp] theorem State.setQueue_creds (s : State) (k : Nat) (v : EngQ) : (s.setQueue k v).creds = s.creds := rfl
@[simp] theorem State.setQueue_resids (s : State) (k : Nat) (v : EngQ) : (s.setQueue k v).resids = s.resids := rfl
@[simp] theorem State.setQueue_cellMem (s : State) (k : Nat) (v : EngQ) : (s.setQueue k v).cellMem = s.cellMem := rfl
@[simp] theorem State.setQueue_islCorr (s : State) (k : Nat) (v : EngQ) : (s.setQueue k v).islCorr = s.islCorr := rfl
@[simp] theorem State.setQueue_streams (s : State) (k : Nat) (v : EngQ) : (s.setQueue k v).streams = s.streams := rfl
@[simp] theorem State.setQueue_walks (s : State) (k : Nat) (v : EngQ) : (s.setQueue k v).walks = s.walks := rfl
@[simp] theorem State.setQueue_faults (s : State) (k : Nat) (v : EngQ) : (s.setQueue k v).faults = s.faults := rfl
@[simp] theorem State.setQueue_sends (s : State) (k : Nat) (v : EngQ) : (s.setQueue k v).sends = s.sends := rfl
@[simp] theorem State.setQueue_creqs (s : State) (k : Nat) (v : EngQ) : (s.setQueue k v).creqs = s.creqs := rfl
@[simp] theorem State.setQueue_serial (s : State) (k : Nat) (v : EngQ) : (s.setQueue k v).serial = s.serial := rfl
@[simp] theorem State.setQueue_podBudget (s : State) (k : Nat) (v : EngQ) : (s.setQueue k v).podBudget = s.podBudget := rfl
@[simp] theorem State.setQueue_epoch (s : State) (k : Nat) (v : EngQ) : (s.setQueue k v).epoch = s.epoch := rfl

@[simp] theorem State.setPart_agenda (s : State) (k : Nat) (v : Part) : (s.setPart k v).agenda = s.agenda := rfl
@[simp] theorem State.setPart_tick (s : State) (k : Nat) (v : Part) : (s.setPart k v).tick = s.tick := rfl
@[simp] theorem State.setPart_time (s : State) (k : Nat) (v : Part) : (s.setPart k v).time = s.time := rfl
@[simp] theorem State.setPart_cur (s : State) (k : Nat) (v : Part) : (s.setPart k v).cur = s.cur := rfl
@[simp] theorem State.setPart_curQ (s : State) (k : Nat) (v : Part) : (s.setPart k v).curQ = s.curQ := rfl
@[simp] theorem State.setPart_curRes (s : State) (k : Nat) (v : Part) : (s.setPart k v).curRes = s.curRes := rfl
@[simp] theorem State.setPart_curSite (s : State) (k : Nat) (v : Part) : (s.setPart k v).curSite = s.curSite := rfl
@[simp] theorem State.setPart_mem (s : State) (k : Nat) (v : Part) : (s.setPart k v).mem = s.mem := rfl
@[simp] theorem State.setPart_poison (s : State) (k : Nat) (v : Part) : (s.setPart k v).poison = s.poison := rfl
@[simp] theorem State.setPart_rels (s : State) (k : Nat) (v : Part) : (s.setPart k v).rels = s.rels := rfl
@[simp] theorem State.setPart_qtags (s : State) (k : Nat) (v : Part) : (s.setPart k v).qtags = s.qtags := rfl
@[simp] theorem State.setPart_swz (s : State) (k : Nat) (v : Part) : (s.setPart k v).swz = s.swz := rfl
@[simp] theorem State.setPart_cores (s : State) (k : Nat) (v : Part) : (s.setPart k v).cores = s.cores := rfl
@[simp] theorem State.setPart_quads (s : State) (k : Nat) (v : Part) : (s.setPart k v).quads = s.quads := rfl
@[simp] theorem State.setPart_fields (s : State) (k : Nat) (v : Part) : (s.setPart k v).fields = s.fields := rfl
@[simp] theorem State.setPart_wafers (s : State) (k : Nat) (v : Part) : (s.setPart k v).wafers = s.wafers := rfl
@[simp] theorem State.setPart_ctls (s : State) (k : Nat) (v : Part) : (s.setPart k v).ctls = s.ctls := rfl
@[simp] theorem State.setPart_links (s : State) (k : Nat) (v : Part) : (s.setPart k v).links = s.links := rfl
@[simp] theorem State.setPart_queues (s : State) (k : Nat) (v : Part) : (s.setPart k v).queues = s.queues := rfl
@[simp] theorem State.setPart_sheaves (s : State) (k : Nat) (v : Part) : (s.setPart k v).sheaves = s.sheaves := rfl
@[simp] theorem State.setPart_parts (s : State) (k : Nat) (v : Part) : (s.setPart k v).parts = mput s.parts k v := rfl
@[simp] theorem State.setPart_parked (s : State) (k : Nat) (v : Part) : (s.setPart k v).parked = s.parked := rfl
@[simp] theorem State.setPart_held (s : State) (k : Nat) (v : Part) : (s.setPart k v).held = s.held := rfl
@[simp] theorem State.setPart_points (s : State) (k : Nat) (v : Part) : (s.setPart k v).points = s.points := rfl
@[simp] theorem State.setPart_reds (s : State) (k : Nat) (v : Part) : (s.setPart k v).reds = s.reds := rfl
@[simp] theorem State.setPart_creds (s : State) (k : Nat) (v : Part) : (s.setPart k v).creds = s.creds := rfl
@[simp] theorem State.setPart_resids (s : State) (k : Nat) (v : Part) : (s.setPart k v).resids = s.resids := rfl
@[simp] theorem State.setPart_cellMem (s : State) (k : Nat) (v : Part) : (s.setPart k v).cellMem = s.cellMem := rfl
@[simp] theorem State.setPart_islCorr (s : State) (k : Nat) (v : Part) : (s.setPart k v).islCorr = s.islCorr := rfl
@[simp] theorem State.setPart_streams (s : State) (k : Nat) (v : Part) : (s.setPart k v).streams = s.streams := rfl
@[simp] theorem State.setPart_walks (s : State) (k : Nat) (v : Part) : (s.setPart k v).walks = s.walks := rfl
@[simp] theorem State.setPart_faults (s : State) (k : Nat) (v : Part) : (s.setPart k v).faults = s.faults := rfl
@[simp] theorem State.setPart_sends (s : State) (k : Nat) (v : Part) : (s.setPart k v).sends = s.sends := rfl
@[simp] theorem State.setPart_creqs (s : State) (k : Nat) (v : Part) : (s.setPart k v).creqs = s.creqs := rfl
@[simp] theorem State.setPart_serial (s : State) (k : Nat) (v : Part) : (s.setPart k v).serial = s.serial := rfl
@[simp] theorem State.setPart_podBudget (s : State) (k : Nat) (v : Part) : (s.setPart k v).podBudget = s.podBudget := rfl
@[simp] theorem State.setPart_epoch (s : State) (k : Nat) (v : Part) : (s.setPart k v).epoch = s.epoch := rfl

@[simp] theorem State.setRed_agenda (s : State) (k : Nat) (v : RedGroup) : (s.setRed k v).agenda = s.agenda := rfl
@[simp] theorem State.setRed_tick (s : State) (k : Nat) (v : RedGroup) : (s.setRed k v).tick = s.tick := rfl
@[simp] theorem State.setRed_time (s : State) (k : Nat) (v : RedGroup) : (s.setRed k v).time = s.time := rfl
@[simp] theorem State.setRed_cur (s : State) (k : Nat) (v : RedGroup) : (s.setRed k v).cur = s.cur := rfl
@[simp] theorem State.setRed_curQ (s : State) (k : Nat) (v : RedGroup) : (s.setRed k v).curQ = s.curQ := rfl
@[simp] theorem State.setRed_curRes (s : State) (k : Nat) (v : RedGroup) : (s.setRed k v).curRes = s.curRes := rfl
@[simp] theorem State.setRed_curSite (s : State) (k : Nat) (v : RedGroup) : (s.setRed k v).curSite = s.curSite := rfl
@[simp] theorem State.setRed_mem (s : State) (k : Nat) (v : RedGroup) : (s.setRed k v).mem = s.mem := rfl
@[simp] theorem State.setRed_poison (s : State) (k : Nat) (v : RedGroup) : (s.setRed k v).poison = s.poison := rfl
@[simp] theorem State.setRed_rels (s : State) (k : Nat) (v : RedGroup) : (s.setRed k v).rels = s.rels := rfl
@[simp] theorem State.setRed_qtags (s : State) (k : Nat) (v : RedGroup) : (s.setRed k v).qtags = s.qtags := rfl
@[simp] theorem State.setRed_swz (s : State) (k : Nat) (v : RedGroup) : (s.setRed k v).swz = s.swz := rfl
@[simp] theorem State.setRed_cores (s : State) (k : Nat) (v : RedGroup) : (s.setRed k v).cores = s.cores := rfl
@[simp] theorem State.setRed_quads (s : State) (k : Nat) (v : RedGroup) : (s.setRed k v).quads = s.quads := rfl
@[simp] theorem State.setRed_fields (s : State) (k : Nat) (v : RedGroup) : (s.setRed k v).fields = s.fields := rfl
@[simp] theorem State.setRed_wafers (s : State) (k : Nat) (v : RedGroup) : (s.setRed k v).wafers = s.wafers := rfl
@[simp] theorem State.setRed_ctls (s : State) (k : Nat) (v : RedGroup) : (s.setRed k v).ctls = s.ctls := rfl
@[simp] theorem State.setRed_links (s : State) (k : Nat) (v : RedGroup) : (s.setRed k v).links = s.links := rfl
@[simp] theorem State.setRed_queues (s : State) (k : Nat) (v : RedGroup) : (s.setRed k v).queues = s.queues := rfl
@[simp] theorem State.setRed_sheaves (s : State) (k : Nat) (v : RedGroup) : (s.setRed k v).sheaves = s.sheaves := rfl
@[simp] theorem State.setRed_parts (s : State) (k : Nat) (v : RedGroup) : (s.setRed k v).parts = s.parts := rfl
@[simp] theorem State.setRed_parked (s : State) (k : Nat) (v : RedGroup) : (s.setRed k v).parked = s.parked := rfl
@[simp] theorem State.setRed_held (s : State) (k : Nat) (v : RedGroup) : (s.setRed k v).held = s.held := rfl
@[simp] theorem State.setRed_points (s : State) (k : Nat) (v : RedGroup) : (s.setRed k v).points = s.points := rfl
@[simp] theorem State.setRed_reds (s : State) (k : Nat) (v : RedGroup) : (s.setRed k v).reds = mput s.reds k v := rfl
@[simp] theorem State.setRed_creds (s : State) (k : Nat) (v : RedGroup) : (s.setRed k v).creds = s.creds := rfl
@[simp] theorem State.setRed_resids (s : State) (k : Nat) (v : RedGroup) : (s.setRed k v).resids = s.resids := rfl
@[simp] theorem State.setRed_cellMem (s : State) (k : Nat) (v : RedGroup) : (s.setRed k v).cellMem = s.cellMem := rfl
@[simp] theorem State.setRed_islCorr (s : State) (k : Nat) (v : RedGroup) : (s.setRed k v).islCorr = s.islCorr := rfl
@[simp] theorem State.setRed_streams (s : State) (k : Nat) (v : RedGroup) : (s.setRed k v).streams = s.streams := rfl
@[simp] theorem State.setRed_walks (s : State) (k : Nat) (v : RedGroup) : (s.setRed k v).walks = s.walks := rfl
@[simp] theorem State.setRed_faults (s : State) (k : Nat) (v : RedGroup) : (s.setRed k v).faults = s.faults := rfl
@[simp] theorem State.setRed_sends (s : State) (k : Nat) (v : RedGroup) : (s.setRed k v).sends = s.sends := rfl
@[simp] theorem State.setRed_creqs (s : State) (k : Nat) (v : RedGroup) : (s.setRed k v).creqs = s.creqs := rfl
@[simp] theorem State.setRed_serial (s : State) (k : Nat) (v : RedGroup) : (s.setRed k v).serial = s.serial := rfl
@[simp] theorem State.setRed_podBudget (s : State) (k : Nat) (v : RedGroup) : (s.setRed k v).podBudget = s.podBudget := rfl
@[simp] theorem State.setRed_epoch (s : State) (k : Nat) (v : RedGroup) : (s.setRed k v).epoch = s.epoch := rfl

@[simp] theorem State.setCred_agenda (s : State) (k : Nat) (v : CredG) : (s.setCred k v).agenda = s.agenda := rfl
@[simp] theorem State.setCred_tick (s : State) (k : Nat) (v : CredG) : (s.setCred k v).tick = s.tick := rfl
@[simp] theorem State.setCred_time (s : State) (k : Nat) (v : CredG) : (s.setCred k v).time = s.time := rfl
@[simp] theorem State.setCred_cur (s : State) (k : Nat) (v : CredG) : (s.setCred k v).cur = s.cur := rfl
@[simp] theorem State.setCred_curQ (s : State) (k : Nat) (v : CredG) : (s.setCred k v).curQ = s.curQ := rfl
@[simp] theorem State.setCred_curRes (s : State) (k : Nat) (v : CredG) : (s.setCred k v).curRes = s.curRes := rfl
@[simp] theorem State.setCred_curSite (s : State) (k : Nat) (v : CredG) : (s.setCred k v).curSite = s.curSite := rfl
@[simp] theorem State.setCred_mem (s : State) (k : Nat) (v : CredG) : (s.setCred k v).mem = s.mem := rfl
@[simp] theorem State.setCred_poison (s : State) (k : Nat) (v : CredG) : (s.setCred k v).poison = s.poison := rfl
@[simp] theorem State.setCred_rels (s : State) (k : Nat) (v : CredG) : (s.setCred k v).rels = s.rels := rfl
@[simp] theorem State.setCred_qtags (s : State) (k : Nat) (v : CredG) : (s.setCred k v).qtags = s.qtags := rfl
@[simp] theorem State.setCred_swz (s : State) (k : Nat) (v : CredG) : (s.setCred k v).swz = s.swz := rfl
@[simp] theorem State.setCred_cores (s : State) (k : Nat) (v : CredG) : (s.setCred k v).cores = s.cores := rfl
@[simp] theorem State.setCred_quads (s : State) (k : Nat) (v : CredG) : (s.setCred k v).quads = s.quads := rfl
@[simp] theorem State.setCred_fields (s : State) (k : Nat) (v : CredG) : (s.setCred k v).fields = s.fields := rfl
@[simp] theorem State.setCred_wafers (s : State) (k : Nat) (v : CredG) : (s.setCred k v).wafers = s.wafers := rfl
@[simp] theorem State.setCred_ctls (s : State) (k : Nat) (v : CredG) : (s.setCred k v).ctls = s.ctls := rfl
@[simp] theorem State.setCred_links (s : State) (k : Nat) (v : CredG) : (s.setCred k v).links = s.links := rfl
@[simp] theorem State.setCred_queues (s : State) (k : Nat) (v : CredG) : (s.setCred k v).queues = s.queues := rfl
@[simp] theorem State.setCred_sheaves (s : State) (k : Nat) (v : CredG) : (s.setCred k v).sheaves = s.sheaves := rfl
@[simp] theorem State.setCred_parts (s : State) (k : Nat) (v : CredG) : (s.setCred k v).parts = s.parts := rfl
@[simp] theorem State.setCred_parked (s : State) (k : Nat) (v : CredG) : (s.setCred k v).parked = s.parked := rfl
@[simp] theorem State.setCred_held (s : State) (k : Nat) (v : CredG) : (s.setCred k v).held = s.held := rfl
@[simp] theorem State.setCred_points (s : State) (k : Nat) (v : CredG) : (s.setCred k v).points = s.points := rfl
@[simp] theorem State.setCred_reds (s : State) (k : Nat) (v : CredG) : (s.setCred k v).reds = s.reds := rfl
@[simp] theorem State.setCred_creds (s : State) (k : Nat) (v : CredG) : (s.setCred k v).creds = mput s.creds k v := rfl
@[simp] theorem State.setCred_resids (s : State) (k : Nat) (v : CredG) : (s.setCred k v).resids = s.resids := rfl
@[simp] theorem State.setCred_cellMem (s : State) (k : Nat) (v : CredG) : (s.setCred k v).cellMem = s.cellMem := rfl
@[simp] theorem State.setCred_islCorr (s : State) (k : Nat) (v : CredG) : (s.setCred k v).islCorr = s.islCorr := rfl
@[simp] theorem State.setCred_streams (s : State) (k : Nat) (v : CredG) : (s.setCred k v).streams = s.streams := rfl
@[simp] theorem State.setCred_walks (s : State) (k : Nat) (v : CredG) : (s.setCred k v).walks = s.walks := rfl
@[simp] theorem State.setCred_faults (s : State) (k : Nat) (v : CredG) : (s.setCred k v).faults = s.faults := rfl
@[simp] theorem State.setCred_sends (s : State) (k : Nat) (v : CredG) : (s.setCred k v).sends = s.sends := rfl
@[simp] theorem State.setCred_creqs (s : State) (k : Nat) (v : CredG) : (s.setCred k v).creqs = s.creqs := rfl
@[simp] theorem State.setCred_serial (s : State) (k : Nat) (v : CredG) : (s.setCred k v).serial = s.serial := rfl
@[simp] theorem State.setCred_podBudget (s : State) (k : Nat) (v : CredG) : (s.setCred k v).podBudget = s.podBudget := rfl
@[simp] theorem State.setCred_epoch (s : State) (k : Nat) (v : CredG) : (s.setCred k v).epoch = s.epoch := rfl

@[simp] theorem State.setMe_agenda (s : State) (v : Core) : (s.setMe v).agenda = s.agenda := rfl
@[simp] theorem State.setMe_tick (s : State) (v : Core) : (s.setMe v).tick = s.tick := rfl
@[simp] theorem State.setMe_time (s : State) (v : Core) : (s.setMe v).time = s.time := rfl
@[simp] theorem State.setMe_cur (s : State) (v : Core) : (s.setMe v).cur = s.cur := rfl
@[simp] theorem State.setMe_curQ (s : State) (v : Core) : (s.setMe v).curQ = s.curQ := rfl
@[simp] theorem State.setMe_curRes (s : State) (v : Core) : (s.setMe v).curRes = s.curRes := rfl
@[simp] theorem State.setMe_curSite (s : State) (v : Core) : (s.setMe v).curSite = s.curSite := rfl
@[simp] theorem State.setMe_mem (s : State) (v : Core) : (s.setMe v).mem = s.mem := rfl
@[simp] theorem State.setMe_poison (s : State) (v : Core) : (s.setMe v).poison = s.poison := rfl
@[simp] theorem State.setMe_rels (s : State) (v : Core) : (s.setMe v).rels = s.rels := rfl
@[simp] theorem State.setMe_qtags (s : State) (v : Core) : (s.setMe v).qtags = s.qtags := rfl
@[simp] theorem State.setMe_swz (s : State) (v : Core) : (s.setMe v).swz = s.swz := rfl
@[simp] theorem State.setMe_cores (s : State) (v : Core) : (s.setMe v).cores = mput s.cores s.cur v := rfl
@[simp] theorem State.setMe_quads (s : State) (v : Core) : (s.setMe v).quads = s.quads := rfl
@[simp] theorem State.setMe_fields (s : State) (v : Core) : (s.setMe v).fields = s.fields := rfl
@[simp] theorem State.setMe_wafers (s : State) (v : Core) : (s.setMe v).wafers = s.wafers := rfl
@[simp] theorem State.setMe_ctls (s : State) (v : Core) : (s.setMe v).ctls = s.ctls := rfl
@[simp] theorem State.setMe_links (s : State) (v : Core) : (s.setMe v).links = s.links := rfl
@[simp] theorem State.setMe_queues (s : State) (v : Core) : (s.setMe v).queues = s.queues := rfl
@[simp] theorem State.setMe_sheaves (s : State) (v : Core) : (s.setMe v).sheaves = s.sheaves := rfl
@[simp] theorem State.setMe_parts (s : State) (v : Core) : (s.setMe v).parts = s.parts := rfl
@[simp] theorem State.setMe_parked (s : State) (v : Core) : (s.setMe v).parked = s.parked := rfl
@[simp] theorem State.setMe_held (s : State) (v : Core) : (s.setMe v).held = s.held := rfl
@[simp] theorem State.setMe_points (s : State) (v : Core) : (s.setMe v).points = s.points := rfl
@[simp] theorem State.setMe_reds (s : State) (v : Core) : (s.setMe v).reds = s.reds := rfl
@[simp] theorem State.setMe_creds (s : State) (v : Core) : (s.setMe v).creds = s.creds := rfl
@[simp] theorem State.setMe_resids (s : State) (v : Core) : (s.setMe v).resids = s.resids := rfl
@[simp] theorem State.setMe_cellMem (s : State) (v : Core) : (s.setMe v).cellMem = s.cellMem := rfl
@[simp] theorem State.setMe_islCorr (s : State) (v : Core) : (s.setMe v).islCorr = s.islCorr := rfl
@[simp] theorem State.setMe_streams (s : State) (v : Core) : (s.setMe v).streams = s.streams := rfl
@[simp] theorem State.setMe_walks (s : State) (v : Core) : (s.setMe v).walks = s.walks := rfl
@[simp] theorem State.setMe_faults (s : State) (v : Core) : (s.setMe v).faults = s.faults := rfl
@[simp] theorem State.setMe_sends (s : State) (v : Core) : (s.setMe v).sends = s.sends := rfl
@[simp] theorem State.setMe_creqs (s : State) (v : Core) : (s.setMe v).creqs = s.creqs := rfl
@[simp] theorem State.setMe_serial (s : State) (v : Core) : (s.setMe v).serial = s.serial := rfl
@[simp] theorem State.setMe_podBudget (s : State) (v : Core) : (s.setMe v).podBudget = s.podBudget := rfl
@[simp] theorem State.setMe_epoch (s : State) (v : Core) : (s.setMe v).epoch = s.epoch := rfl

/-! What the operations on a core's reads performed ahead leave of the rest of the core. -/

@[simp] theorem Core.noted_x (c : Core) (rels : List Rel) : (c.noted rels).x = c.x := rfl
@[simp] theorem Core.noted_full (c : Core) (rels : List Rel) : (c.noted rels).full = c.full := rfl
@[simp] theorem Core.noted_pc (c : Core) (rels : List Rel) : (c.noted rels).pc = c.pc := rfl
@[simp] theorem Core.noted_port (c : Core) (rels : List Rel) : (c.noted rels).port = c.port := rfl
@[simp] theorem Core.noted_wait (c : Core) (rels : List Rel) : (c.noted rels).wait = c.wait := rfl
@[simp] theorem Core.noted_hold (c : Core) (rels : List Rel) : (c.noted rels).hold = c.hold := rfl
@[simp] theorem Core.noted_vq (c : Core) (rels : List Rel) : (c.noted rels).vq = c.vq := rfl
@[simp] theorem Core.noted_strand (c : Core) (rels : List Rel) : (c.noted rels).strand = c.strand := rfl
@[simp] theorem Core.noted_fault (c : Core) (rels : List Rel) : (c.noted rels).fault = c.fault := rfl
@[simp] theorem Core.noted_kasid (c : Core) (rels : List Rel) : (c.noted rels).kasid = c.kasid := rfl
@[simp] theorem Core.noted_fence (c : Core) (rels : List Rel) : (c.noted rels).fence = c.fence := rfl

@[simp] theorem Core.learnt_x (c : Core) : (c.learnt).x = c.x := rfl
@[simp] theorem Core.learnt_full (c : Core) : (c.learnt).full = c.full := rfl
@[simp] theorem Core.learnt_pc (c : Core) : (c.learnt).pc = c.pc := rfl
@[simp] theorem Core.learnt_port (c : Core) : (c.learnt).port = c.port := rfl
@[simp] theorem Core.learnt_wait (c : Core) : (c.learnt).wait = c.wait := rfl
@[simp] theorem Core.learnt_hold (c : Core) : (c.learnt).hold = c.hold := rfl
@[simp] theorem Core.learnt_vq (c : Core) : (c.learnt).vq = c.vq := rfl
@[simp] theorem Core.learnt_strand (c : Core) : (c.learnt).strand = c.strand := rfl
@[simp] theorem Core.learnt_fault (c : Core) : (c.learnt).fault = c.fault := rfl
@[simp] theorem Core.learnt_kasid (c : Core) : (c.learnt).kasid = c.kasid := rfl
@[simp] theorem Core.learnt_fence (c : Core) : (c.learnt).fence = c.fence := rfl

@[simp] theorem Core.dropEarly_x (c : Core) (pa n : Nat) : (c.dropEarly pa n).x = c.x := rfl
@[simp] theorem Core.dropEarly_full (c : Core) (pa n : Nat) : (c.dropEarly pa n).full = c.full := rfl
@[simp] theorem Core.dropEarly_pc (c : Core) (pa n : Nat) : (c.dropEarly pa n).pc = c.pc := rfl
@[simp] theorem Core.dropEarly_port (c : Core) (pa n : Nat) : (c.dropEarly pa n).port = c.port := rfl
@[simp] theorem Core.dropEarly_wait (c : Core) (pa n : Nat) : (c.dropEarly pa n).wait = c.wait := rfl
@[simp] theorem Core.dropEarly_hold (c : Core) (pa n : Nat) : (c.dropEarly pa n).hold = c.hold := rfl
@[simp] theorem Core.dropEarly_vq (c : Core) (pa n : Nat) : (c.dropEarly pa n).vq = c.vq := rfl
@[simp] theorem Core.dropEarly_strand (c : Core) (pa n : Nat) : (c.dropEarly pa n).strand = c.strand := rfl
@[simp] theorem Core.dropEarly_fault (c : Core) (pa n : Nat) : (c.dropEarly pa n).fault = c.fault := rfl
@[simp] theorem Core.dropEarly_kasid (c : Core) (pa n : Nat) : (c.dropEarly pa n).kasid = c.kasid := rfl
@[simp] theorem Core.dropEarly_fence (c : Core) (pa n : Nat) : (c.dropEarly pa n).fence = c.fence := rfl

@[simp] theorem Core.didRead_x (c : Core) (pa n : Nat) (rels : List Rel) : (c.didRead pa n rels).x = c.x := rfl
@[simp] theorem Core.didRead_full (c : Core) (pa n : Nat) (rels : List Rel) : (c.didRead pa n rels).full = c.full := rfl
@[simp] theorem Core.didRead_pc (c : Core) (pa n : Nat) (rels : List Rel) : (c.didRead pa n rels).pc = c.pc := rfl
@[simp] theorem Core.didRead_port (c : Core) (pa n : Nat) (rels : List Rel) : (c.didRead pa n rels).port = c.port := rfl
@[simp] theorem Core.didRead_wait (c : Core) (pa n : Nat) (rels : List Rel) : (c.didRead pa n rels).wait = c.wait := rfl
@[simp] theorem Core.didRead_hold (c : Core) (pa n : Nat) (rels : List Rel) : (c.didRead pa n rels).hold = c.hold := rfl
@[simp] theorem Core.didRead_vq (c : Core) (pa n : Nat) (rels : List Rel) : (c.didRead pa n rels).vq = c.vq := rfl
@[simp] theorem Core.didRead_strand (c : Core) (pa n : Nat) (rels : List Rel) : (c.didRead pa n rels).strand = c.strand := rfl
@[simp] theorem Core.didRead_fault (c : Core) (pa n : Nat) (rels : List Rel) : (c.didRead pa n rels).fault = c.fault := rfl
@[simp] theorem Core.didRead_kasid (c : Core) (pa n : Nat) (rels : List Rel) : (c.didRead pa n rels).kasid = c.kasid := rfl
@[simp] theorem Core.didRead_fence (c : Core) (pa n : Nat) (rels : List Rel) : (c.didRead pa n rels).fence = c.fence := rfl

@[simp] theorem Core.relFence_x (c : Core) (sc : Nat) : (c.relFence sc).x = c.x := rfl
@[simp] theorem Core.relFence_full (c : Core) (sc : Nat) : (c.relFence sc).full = c.full := rfl
@[simp] theorem Core.relFence_pc (c : Core) (sc : Nat) : (c.relFence sc).pc = c.pc := rfl
@[simp] theorem Core.relFence_port (c : Core) (sc : Nat) : (c.relFence sc).port = c.port := rfl
@[simp] theorem Core.relFence_wait (c : Core) (sc : Nat) : (c.relFence sc).wait = c.wait := rfl
@[simp] theorem Core.relFence_hold (c : Core) (sc : Nat) : (c.relFence sc).hold = c.hold := rfl
@[simp] theorem Core.relFence_vq (c : Core) (sc : Nat) : (c.relFence sc).vq = c.vq := rfl
@[simp] theorem Core.relFence_strand (c : Core) (sc : Nat) : (c.relFence sc).strand = c.strand := rfl
@[simp] theorem Core.relFence_fault (c : Core) (sc : Nat) : (c.relFence sc).fault = c.fault := rfl
@[simp] theorem Core.relFence_kasid (c : Core) (sc : Nat) : (c.relFence sc).kasid = c.kasid := rfl
@[simp] theorem Core.relFence_fence (c : Core) (sc : Nat) : (c.relFence sc).fence = some (max sc (c.fence.getD 0)) := rfl

@[simp] theorem Core.vecWrote_x (c : Core) (pa n : Nat) : (c.vecWrote pa n).x = c.x := rfl
@[simp] theorem Core.vecWrote_full (c : Core) (pa n : Nat) : (c.vecWrote pa n).full = c.full := rfl
@[simp] theorem Core.vecWrote_pc (c : Core) (pa n : Nat) : (c.vecWrote pa n).pc = c.pc := rfl
@[simp] theorem Core.vecWrote_port (c : Core) (pa n : Nat) : (c.vecWrote pa n).port = c.port := rfl
@[simp] theorem Core.vecWrote_wait (c : Core) (pa n : Nat) : (c.vecWrote pa n).wait = c.wait := rfl
@[simp] theorem Core.vecWrote_hold (c : Core) (pa n : Nat) : (c.vecWrote pa n).hold = c.hold := rfl
@[simp] theorem Core.vecWrote_vq (c : Core) (pa n : Nat) : (c.vecWrote pa n).vq = c.vq := rfl
@[simp] theorem Core.vecWrote_strand (c : Core) (pa n : Nat) : (c.vecWrote pa n).strand = c.strand := rfl
@[simp] theorem Core.vecWrote_fault (c : Core) (pa n : Nat) : (c.vecWrote pa n).fault = c.fault := rfl
@[simp] theorem Core.vecWrote_kasid (c : Core) (pa n : Nat) : (c.vecWrote pa n).kasid = c.kasid := rfl
@[simp] theorem Core.vecWrote_fence (c : Core) (pa n : Nat) : (c.vecWrote pa n).fence = c.fence := rfl

@[simp] theorem Core.vecFenced_x (c : Core) : (c.vecFenced).x = c.x := rfl
@[simp] theorem Core.vecFenced_full (c : Core) : (c.vecFenced).full = c.full := rfl
@[simp] theorem Core.vecFenced_pc (c : Core) : (c.vecFenced).pc = c.pc := rfl
@[simp] theorem Core.vecFenced_port (c : Core) : (c.vecFenced).port = c.port := rfl
@[simp] theorem Core.vecFenced_wait (c : Core) : (c.vecFenced).wait = c.wait := rfl
@[simp] theorem Core.vecFenced_hold (c : Core) : (c.vecFenced).hold = c.hold := rfl
@[simp] theorem Core.vecFenced_vq (c : Core) : (c.vecFenced).vq = c.vq := rfl
@[simp] theorem Core.vecFenced_strand (c : Core) : (c.vecFenced).strand = c.strand := rfl
@[simp] theorem Core.vecFenced_fault (c : Core) : (c.vecFenced).fault = c.fault := rfl
@[simp] theorem Core.vecFenced_kasid (c : Core) : (c.vecFenced).kasid = c.kasid := rfl
@[simp] theorem Core.vecFenced_fence (c : Core) : (c.vecFenced).fence = c.fence := rfl

@[simp] theorem Core.acquireAt_x (c : Core) (n sc : Nat) : (c.acquireAt n sc).x = c.x := rfl
@[simp] theorem Core.acquireAt_full (c : Core) (n sc : Nat) : (c.acquireAt n sc).full = c.full := rfl
@[simp] theorem Core.acquireAt_pc (c : Core) (n sc : Nat) : (c.acquireAt n sc).pc = c.pc := rfl
@[simp] theorem Core.acquireAt_port (c : Core) (n sc : Nat) : (c.acquireAt n sc).port = c.port := rfl
@[simp] theorem Core.acquireAt_wait (c : Core) (n sc : Nat) : (c.acquireAt n sc).wait = c.wait := rfl
@[simp] theorem Core.acquireAt_hold (c : Core) (n sc : Nat) : (c.acquireAt n sc).hold = c.hold := rfl
@[simp] theorem Core.acquireAt_vq (c : Core) (n sc : Nat) : (c.acquireAt n sc).vq = c.vq := rfl
@[simp] theorem Core.acquireAt_strand (c : Core) (n sc : Nat) : (c.acquireAt n sc).strand = c.strand := rfl
@[simp] theorem Core.acquireAt_fault (c : Core) (n sc : Nat) : (c.acquireAt n sc).fault = c.fault := rfl
@[simp] theorem Core.acquireAt_kasid (c : Core) (n sc : Nat) : (c.acquireAt n sc).kasid = c.kasid := rfl
@[simp] theorem Core.acquireAt_fence (c : Core) (n sc : Nat) : (c.acquireAt n sc).fence = c.fence := rfl

end Sys2Proof.Machine
end

