-- ==== Sys2Proof/Laws/Keep.lean ====
section
/-! SUPPORT. What an answer of each shape says of memory: it keeps its canonical form. -/

namespace Sys2Proof.Machine

/-- The state of an outcome keeps memory's form. -/
def KeepsR (r : Res) : Prop :=
  match r with
  | .next s => Memory.wf s.mem = true
  | .fault _ => True
  | .refused _ => True

/-- The state of a turn keeps memory's form. -/
def KeepsT (r : Turn) : Prop :=
  match r with
  | .run _ s => Memory.wf s.mem = true
  | .done s => Memory.wf s.mem = true
  | .bad => True
  | .noUnit => True

/-- Either state keeps memory's form. -/
def KeepsE (r : Except State State) : Prop :=
  match r with
  | .ok s => Memory.wf s.mem = true
  | .error s => Memory.wf s.mem = true

/-- Either state keeps memory's form. -/
def KeepsEP {α : Type} (r : Except State (State × α)) : Prop :=
  match r with
  | .ok x => Memory.wf x.1.mem = true
  | .error s => Memory.wf s.mem = true

/-- The state of an error keeps memory's form. -/
def KeepsEX {α : Type} (r : Except State α) : Prop :=
  match r with
  | .ok _ => True
  | .error s => Memory.wf s.mem = true

/-- The state of a result keeps memory's form. -/
def KeepsV {ε : Type} (r : Except ε State) : Prop :=
  match r with
  | .ok s => Memory.wf s.mem = true
  | .error _ => True

/-- The state of a result keeps memory's form. -/
def KeepsVP {ε α : Type} (r : Except ε (State × α)) : Prop :=
  match r with
  | .ok x => Memory.wf x.1.mem = true
  | .error _ => True

/-- The state of an option keeps memory's form. -/
def KeepsO (r : Option State) : Prop :=
  match r with
  | some s => Memory.wf s.mem = true
  | none => True

/-- The state of an option keeps memory's form. -/
def KeepsOP {α : Type} (r : Option (α × State)) : Prop :=
  match r with
  | some x => Memory.wf x.2.mem = true
  | none => True

/-- The state of an option keeps memory's form. -/
def KeepsOQ {α β : Type} (r : Option (α × β × State)) : Prop :=
  match r with
  | some x => Memory.wf x.2.2.mem = true
  | none => True

theorem State.setCore_keeps {s : State} {k : Nat} {v : Core} (h : Memory.wf s.mem = true) : Memory.wf (s.setCore k v).mem = true := h

theorem State.setMe_keeps {s : State} {v : Core} (h : Memory.wf s.mem = true) : Memory.wf (s.setMe v).mem = true := h

theorem State.setQuad_keeps {s : State} {k : Nat} {v : Quad} (h : Memory.wf s.mem = true) : Memory.wf (s.setQuad k v).mem = true := h

theorem State.setField_keeps {s : State} {k : Nat} {v : Field} (h : Memory.wf s.mem = true) : Memory.wf (s.setField k v).mem = true := h

theorem State.setWafer_keeps {s : State} {k : Nat} {v : Wafer} (h : Memory.wf s.mem = true) : Memory.wf (s.setWafer k v).mem = true := h

theorem State.setCtl_keeps {s : State} {k : Nat} {v : Ctl} (h : Memory.wf s.mem = true) : Memory.wf (s.setCtl k v).mem = true := h

theorem State.setLink_keeps {s : State} {k : Nat} {v : Link} (h : Memory.wf s.mem = true) : Memory.wf (s.setLink k v).mem = true := h

theorem State.setQueue_keeps {s : State} {k : Nat} {v : EngQ} (h : Memory.wf s.mem = true) : Memory.wf (s.setQueue k v).mem = true := h

theorem State.setPart_keeps {s : State} {k : Nat} {v : Part} (h : Memory.wf s.mem = true) : Memory.wf (s.setPart k v).mem = true := h

theorem State.setRed_keeps {s : State} {k : Nat} {v : RedGroup} (h : Memory.wf s.mem = true) : Memory.wf (s.setRed k v).mem = true := h

theorem State.setCred_keeps {s : State} {k : Nat} {v : CredG} (h : Memory.wf s.mem = true) : Memory.wf (s.setCred k v).mem = true := h

theorem keepsR_next {s : State} (h : Memory.wf s.mem = true) : KeepsR (.next s) := h

theorem keepsT_run {i : Instr} {s : State} (h : Memory.wf s.mem = true) : KeepsT (.run i s) := h

theorem keepsT_done {s : State} (h : Memory.wf s.mem = true) : KeepsT (.done s) := h

theorem keepsT_bad : KeepsT .bad := trivial

theorem keepsT_noUnit : KeepsT .noUnit := trivial

theorem keepsE_ok {s : State} (h : Memory.wf s.mem = true) : KeepsE (.ok s) := h

theorem keepsE_err {s : State} (h : Memory.wf s.mem = true) : KeepsE (.error s) := h

theorem keepsE_elim_ok {r : Except State State} {s : State} (e : r = .ok s) (h : KeepsE r) : Memory.wf s.mem = true := by
  rw [e] at h; exact h

theorem keepsE_elim_err {r : Except State State} {s : State} (e : r = .error s) (h : KeepsE r) : Memory.wf s.mem = true := by
  rw [e] at h; exact h

theorem keepsEP_ok {α : Type} {s : State} {a : α} (h : Memory.wf s.mem = true) : KeepsEP (.ok (s, a)) := h

theorem keepsEP_err {α : Type} {s : State} (h : Memory.wf s.mem = true) : KeepsEP (α := α) (.error s) := h

theorem keepsEX_ok {α : Type} {a : α} : KeepsEX (.ok a) := trivial

theorem keepsEX_err {α : Type} {s : State} (h : Memory.wf s.mem = true) : KeepsEX (α := α) (.error s) := h

theorem keepsV_ok {ε : Type} {s : State} (h : Memory.wf s.mem = true) : KeepsV (ε := ε) (.ok s) := h

theorem keepsV_err {ε : Type} {e : ε} : KeepsV (.error e) := trivial

theorem keepsVP_ok {ε α : Type} {s : State} {a : α} (h : Memory.wf s.mem = true) : KeepsVP (ε := ε) (.ok (s, a)) := h

theorem keepsVP_err {ε α : Type} {e : ε} : KeepsVP (α := α) (.error e) := trivial

theorem keepsO_some {s : State} (h : Memory.wf s.mem = true) : KeepsO (some s) := h

theorem keepsO_none : KeepsO none := trivial

theorem keepsOP_some {α : Type} {s : State} {a : α} (h : Memory.wf s.mem = true) : KeepsOP (some (a, s)) := h

theorem keepsOP_none {α : Type} : KeepsOP (α := α) none := trivial

theorem keepsOQ_some {α β : Type} {s : State} {a : α} {b : β} (h : Memory.wf s.mem = true) : KeepsOQ (some (a, b, s)) := h

theorem keepsOQ_none {α β : Type} : KeepsOQ (α := α) (β := β) none := trivial

theorem keepsVP_pure {ε α : Type} {s : State} {a : α} (h : Memory.wf s.mem = true) :
    KeepsVP (ε := ε) (pure (s, a)) := h

theorem keepsVP_bind {ε α β : Type} {r : Except ε β} {k : β → Except ε (State × α)} (h : ∀ a, r = .ok a → KeepsVP (k a)) :
    KeepsVP (r >>= k) := by
  cases r with
  | error e => trivial
  | ok a => exact h a rfl

theorem keepsO_map {α : Type} {o : Option α} {f : α → State} (h : ∀ a, Memory.wf (f a).mem = true) : KeepsO (o.map f) := by
  cases o with
  | none => trivial
  | some a => exact h a

theorem keepsO_getD {o : Option State} {s : State} (h : KeepsO o) (k : Memory.wf s.mem = true) : Memory.wf (o.getD s).mem = true := by
  cases o with
  | none => exact k
  | some a => exact h

theorem foldl_keeps {α : Type} {f : State → α → State} {l : List α} {s : State} (h : Memory.wf s.mem = true)
    (hf : ∀ s a, Memory.wf s.mem = true → Memory.wf (f s a).mem = true) : Memory.wf (l.foldl f s).mem = true := by
  induction l generalizing s with
  | nil => exact h
  | cons a r ih => exact ih (hf s a h)

theorem foldlP_keeps {α β : Type} {f : State × β → α → State × β} {l : List α} {a : State × β} (h : Memory.wf a.1.mem = true)
    (hf : ∀ a x, Memory.wf a.1.mem = true → Memory.wf (f a x).1.mem = true) : Memory.wf (l.foldl f a).1.mem = true := by
  induction l generalizing a with
  | nil => exact h
  | cons x r ih => exact ih (hf a x h)

theorem foldlP_keeps_eq {α β : Type} {f : State × β → α → State × β} {l : List α} {a : State × β} {t : State} {b : β}
    (e : l.foldl f a = (t, b)) (h : Memory.wf a.1.mem = true)
    (hf : ∀ a x, Memory.wf a.1.mem = true → Memory.wf (f a x).1.mem = true) : Memory.wf t.mem = true := by
  have := foldlP_keeps (l := l) h hf
  rw [e] at this
  exact this

end Sys2Proof.Machine
end

