-- ==== Sys2Proof/Laws/KeepRegs.lean ====
section
/-! SUPPORT. The operations of Machine/Regs.lean keep memory in its canonical form. -/

namespace Sys2Proof.Machine

theorem State.setNode_keeps {s : State} {r : NodeRef} {n : Node} (h_s : Memory.wf s.mem = true) :
    Memory.wf (State.setNode s r n).mem = true := by
  unfold State.setNode
  repeat' first
      | with_reducible assumption
      | dsimp only
      | intro _
      | split

theorem State.modNode_keeps {s : State} {r : NodeRef} {f : Node → Node} (h_s : Memory.wf s.mem = true) :
    Memory.wf (State.modNode s r f).mem = true := by
  unfold State.modNode
  repeat' first
      | with_reducible assumption
      | dsimp only
      | with_reducible refine State.setNode_keeps ?_
      | intro _
      | split

theorem State.raiseEv_keeps {s : State} {w : Nat} {e : Ev} (h_s : Memory.wf s.mem = true) :
    Memory.wf (State.raiseEv s w e).mem = true := by
  unfold State.raiseEv
  repeat' first
      | with_reducible assumption
      | dsimp only
      | with_reducible refine State.setWafer_keeps ?_

theorem State.holdFault_keeps {s : State} {f : GenFault} (h_s : Memory.wf s.mem = true) :
    Memory.wf (State.holdFault s f).1.mem = true := by
  unfold State.holdFault
  repeat' first
      | with_reducible assumption
      | dsimp only
      | with_reducible refine State.raiseEv_keeps ?_

theorem State.holdFault_keeps_eq {s : State} {f : GenFault} {t' : State} {b' : _} (eq_ : State.holdFault s f = (t', b')) (h_s : Memory.wf s.mem = true) :
    Memory.wf t'.mem = true := by
  have h : Memory.wf (State.holdFault s f).1.mem = true := State.holdFault_keeps h_s
  rw [eq_] at h
  exact h

theorem State.stopCore_keeps {s : State} {n : Nat} {owner : Owner} {va : W64} {ty acc : Nat} (h_s : Memory.wf s.mem = true) :
    Memory.wf (State.stopCore s n owner va ty acc).mem = true := by
  unfold State.stopCore
  repeat' first
      | with_reducible assumption
      | dsimp only
      | with_reducible refine State.setCore_keeps ?_
      | with_reducible refine State.holdFault_keeps ?_

theorem State.setPlane_keeps {s : State} {k : Nat} {p : Plane} (h_s : Memory.wf s.mem = true) :
    Memory.wf (State.setPlane s k p).mem = true := by
  unfold State.setPlane
  repeat' first
      | with_reducible assumption
      | dsimp only
      | with_reducible refine State.setCtl_keeps ?_
      | intro _
      | split

theorem State.setCell_keeps {s : State} {k site : Nat} {c : Cell} (h_s : Memory.wf s.mem = true) :
    Memory.wf (State.setCell s k site c).mem = true := by
  unfold State.setCell
  repeat' first
      | with_reducible assumption
      | dsimp only
      | with_reducible refine State.setPlane_keeps ?_

theorem State.setLane_keeps {s : State} {k site : Nat} {l : Lane} (h_s : Memory.wf s.mem = true) :
    Memory.wf (State.setLane s k site l).mem = true := by
  unfold State.setLane
  repeat' first
      | with_reducible assumption
      | dsimp only
      | with_reducible refine State.setPlane_keeps ?_

theorem State.raiseGen_keeps {s : State} {f : GenFault} (h_s : Memory.wf s.mem = true) :
    Memory.wf (State.raiseGen s f).mem = true := by
  unfold State.raiseGen
  repeat' first
      | with_reducible assumption
      | dsimp only
      | with_reducible refine State.setCore_keeps ?_
      | with_reducible refine State.setCtl_keeps ?_
      | with_reducible refine State.setQueue_keeps ?_
      | with_reducible refine State.modNode_keeps ?_
      | with_reducible refine State.holdFault_keeps ?_
      | with_reducible refine State.holdFault_keeps_eq ‹_› ?_
      | with_reducible refine State.setLane_keeps ?_
      | intro _
      | split

end Sys2Proof.Machine
end

