-- ==== Sys2Proof/Laws/KeepMemory.lean ====
section
/-! SUPPORT. The operations of Machine/Memory.lean keep memory in its canonical form. -/

namespace Sys2Proof.Machine

theorem State.putRun_keeps {s : State} {pa : Nat} {bs : List (Byte × Bool)} {tag : Nat} {rel : Option Rel} (h_s : Memory.wf s.mem = true) :
    Memory.wf (State.putRun s pa bs tag rel).mem = true := by
  unfold State.putRun
  repeat' first
      | with_reducible assumption
      | dsimp only
      | with_reducible refine wf_putBytes _ _ ?_

theorem State.endWatch_keeps {s : State} {n : Nat} {a : Access} {v : W64} (h_s : Memory.wf s.mem = true) :
    Memory.wf (State.endWatch s n a v).mem = true := by
  unfold State.endWatch
  repeat' first
      | with_reducible assumption
      | dsimp only
      | with_reducible refine State.setCore_keeps ?_

theorem State.wakeOne_keeps {s : State} {n : Nat} {words : List Nat} (h_s : Memory.wf s.mem = true) :
    Memory.wf (State.wakeOne s n words).mem = true := by
  unfold State.wakeOne
  repeat' first
      | with_reducible assumption
      | dsimp only
      | with_reducible refine State.setCore_keeps ?_
      | with_reducible refine State.stopCore_keeps ?_
      | with_reducible refine State.endWatch_keeps ?_
      | with_reducible refine State.access_keeps ?_
      | intro _
      | split

theorem State.wake_keeps {s : State} {words : List Nat} (h_s : Memory.wf s.mem = true) :
    Memory.wf (State.wake s words).mem = true := by
  unfold State.wake
  repeat' first
      | with_reducible assumption
      | dsimp only
      | with_reducible refine State.wakeOne_keeps ?_
      | with_reducible refine foldl_keeps ?_ ?_
      | intro _

theorem State.logPiece_keeps {s : State} {w m pa len : Nat} {i : WInfo} (h_s : Memory.wf s.mem = true) :
    Memory.wf (State.logPiece s w m pa len i).mem = true := by
  unfold State.logPiece
  repeat' first
      | with_reducible assumption
      | dsimp only
      | with_reducible refine State.setCtl_keeps ?_
      | with_reducible refine State.putRun_keeps ?_
      | with_reducible refine State.wake_keeps ?_

theorem State.logRun_keeps {s : State} {w m pa n : Nat} {i : WInfo} {fuel : Nat} (h_s : Memory.wf s.mem = true) :
    Memory.wf (State.logRun s w m pa n i fuel).mem = true := by
  induction fuel generalizing s w m pa n i with
  | zero =>
    simp only [State.logRun]
    repeat' first
      | with_reducible assumption
  | succ fuel ih =>
    simp only [State.logRun]
    repeat' first
      | with_reducible assumption
      | with_reducible refine ih ?_
      | with_reducible refine ih _ ?_
      | with_reducible refine ih _ _ ?_
      | with_reducible refine ih _ _ _ ?_
      | with_reducible refine ih _ _ _ _ ?_
      | with_reducible refine ih _ _ _ _ _ ?_
      | dsimp only
      | with_reducible refine State.logPiece_keeps ?_
      | intro _
      | split

theorem State.trace_keeps {s : State} {pa n : Nat} {i : WInfo} (h_s : Memory.wf s.mem = true) :
    Memory.wf (State.trace s pa n i).mem = true := by
  unfold State.trace
  repeat' first
      | with_reducible assumption
      | dsimp only
      | with_reducible refine State.logRun_keeps ?_
      | intro _
      | split

theorem State.spoil_keeps {s : State} {pa n : Nat} (h_s : Memory.wf s.mem = true) :
    Memory.wf (State.spoil s pa n).mem = true := by
  unfold State.spoil
  repeat' first
      | with_reducible assumption
      | dsimp only
      | intro _
      | split

theorem State.ringError_keeps {s : State} {pa : Nat} (h_s : Memory.wf s.mem = true) :
    Memory.wf (State.ringError s pa).mem = true := by
  unfold State.ringError
  repeat' first
      | with_reducible assumption
      | dsimp only
      | intro _
      | split

theorem State.land_keeps {s : State} {pa : Nat} {bs : List (Byte × Bool)} {i : WInfo} {rel : Option Rel} (h_s : Memory.wf s.mem = true) :
    Memory.wf (State.land s pa bs i rel).mem = true := by
  unfold State.land
  repeat' first
      | with_reducible assumption
      | dsimp only
      | with_reducible refine State.putRun_keeps ?_
      | with_reducible refine State.wake_keeps ?_
      | with_reducible refine State.trace_keeps ?_
      | with_reducible refine State.spoil_keeps ?_

theorem State.ldAt_keeps {s : State} {n : Nat} {a : Access} (h_s : Memory.wf s.mem = true) :
    Memory.wf (State.ldAt s n a).mem = true := by
  unfold State.ldAt
  repeat' first
      | with_reducible assumption
      | dsimp only
      | with_reducible refine State.setCore_keeps ?_

theorem State.amoAt_keeps {s : State} {n : Nat} {op : AmoOp} {a : Access} (h_s : Memory.wf s.mem = true) :
    Memory.wf (State.amoAt s n op a).mem = true := by
  unfold State.amoAt
  repeat' first
      | with_reducible assumption
      | dsimp only
      | with_reducible refine State.setCore_keeps ?_
      | with_reducible refine State.land_keeps ?_
      | with_reducible refine State.release_keeps ?_
      | intro _
      | split

theorem State.performSt_keeps {s : State} {n kind : Nat} {a : Access} (h_s : Memory.wf s.mem = true) :
    Memory.wf (State.performSt s n kind a).mem = true := by
  unfold State.performSt
  repeat' first
      | with_reducible assumption
      | dsimp only
      | with_reducible refine State.setCore_keeps ?_
      | with_reducible refine State.land_keeps ?_

theorem State.takeWord_keeps {s : State} {n : Nat} {a : Access} (h_s : Memory.wf s.mem = true) :
    Memory.wf (State.takeWord s n a).mem = true := by
  unfold State.takeWord
  repeat' first
      | with_reducible assumption
      | dsimp only
      | with_reducible refine State.setCore_keeps ?_

theorem State.fillWord_keeps {s : State} {pa : Nat} (h_s : Memory.wf s.mem = true) :
    Memory.wf (State.fillWord s pa).mem = true := by
  unfold State.fillWord
  repeat' first
      | with_reducible assumption
      | dsimp only
      | with_reducible refine State.takeWord_keeps ?_
      | intro _
      | split

theorem State.settleOne_keeps {s : State} {n id : Nat} (h_s : Memory.wf s.mem = true) :
    Memory.wf (State.settleOne s n id).mem = true := by
  unfold State.settleOne
  repeat' first
      | with_reducible assumption
      | dsimp only
      | with_reducible refine State.ldAt_keeps ?_
      | with_reducible refine State.amoAt_keeps ?_
      | with_reducible refine State.performSt_keeps ?_
      | with_reducible refine State.fillWord_keeps ?_
      | with_reducible refine State.amo_keeps ?_
      | intro _
      | split

theorem State.settle_keeps {s : State} {words : List Nat} (h_s : Memory.wf s.mem = true) :
    Memory.wf (State.settle s words).mem = true := by
  unfold State.settle
  repeat' first
      | with_reducible assumption
      | dsimp only
      | with_reducible refine State.settleOne_keeps ?_
      | with_reducible refine foldl_keeps ?_ ?_
      | intro _

theorem State.poisonWord_keeps {s : State} {pa : Nat} (h_s : Memory.wf s.mem = true) :
    Memory.wf (State.poisonWord s pa).mem = true := by
  unfold State.poisonWord
  repeat' first
      | with_reducible assumption
      | dsimp only
      | with_reducible refine State.ringError_keeps ?_
      | with_reducible refine State.settle_keeps ?_

theorem State.writeAs_keeps {s : State} {pa : Nat} {bs : List (Byte × Bool)} {i : WInfo} {rel : Option Rel} (h_s : Memory.wf s.mem = true) :
    Memory.wf (State.writeAs s pa bs i rel).mem = true := by
  unfold State.writeAs
  repeat' first
      | with_reducible assumption
      | dsimp only
      | with_reducible refine State.land_keeps ?_
      | with_reducible refine State.settle_keeps ?_
      | intro _
      | split

theorem State.write_keeps {s : State} {pa : Nat} {bs : List (Byte × Bool)} {i : WInfo} (h_s : Memory.wf s.mem = true) :
    Memory.wf (State.write s pa bs i).mem = true := by
  unfold State.write
  repeat' first
      | with_reducible assumption
      | dsimp only
      | with_reducible refine State.writeAs_keeps ?_

theorem State.writeW_keeps {s : State} {pa : Nat} {v : W64} {cls agent : Nat} (h_s : Memory.wf s.mem = true) :
    Memory.wf (State.writeW s pa v cls agent).mem = true := by
  unfold State.writeW
  repeat' first
      | with_reducible assumption
      | dsimp only
      | with_reducible refine State.write_keeps ?_

end Sys2Proof.Machine
end

