-- ==== Sys2Proof/Laws/KeepTranslate.lean ====
section
/-! SUPPORT. The operations of Machine/Translate.lean keep memory in its canonical form. -/

namespace Sys2Proof.Machine

theorem State.refill_keeps {s : State} {w : Who} {va : W64} (h_s : Memory.wf s.mem = true) :
    Memory.wf (State.refill s w va).mem = true := by
  unfold State.refill
  repeat' first
      | with_reducible assumption
      | dsimp only
      | intro _
      | split

theorem State.askWalk_keeps {s : State} {w : Who} {va : W64} {acc : Nat} {f : GenFault} (h_s : Memory.wf s.mem = true) :
    Memory.wf (State.askWalk s w va acc f).mem = true := by
  unfold State.askWalk
  repeat' first
      | with_reducible assumption
      | dsimp only
      | intro _
      | split

theorem State.cacheLeaf_keeps {s : State} {field gid : Nat} {l : Leaf} (h_s : Memory.wf s.mem = true) :
    Memory.wf (State.cacheLeaf s field gid l).mem = true := by
  unfold State.cacheLeaf
  repeat' first
      | with_reducible assumption
      | dsimp only
      | with_reducible refine State.setField_keeps ?_

theorem State.hwWriteAs_keeps {s : State} {wf asid : Nat} {va : W64} {v : W64} {rel : Option Rel} (h_s : Memory.wf s.mem = true) :
    Memory.wf (State.hwWriteAs s wf asid va v rel).mem = true := by
  unfold State.hwWriteAs
  repeat' first
      | with_reducible assumption
      | dsimp only
      | with_reducible refine State.writeAs_keeps ?_
      | intro _
      | split

theorem State.hwWrite_keeps {s : State} {wf asid : Nat} {va : W64} {v : W64} (h_s : Memory.wf s.mem = true) :
    Memory.wf (State.hwWrite s wf asid va v).mem = true := by
  unfold State.hwWrite
  repeat' first
      | with_reducible assumption
      | dsimp only
      | with_reducible refine State.hwWriteAs_keeps ?_

end Sys2Proof.Machine
end

