-- ==== Sys2Proof/Laws/KeepOps.lean ====
section
/-! SUPPORT. The operations of Machine/Ops.lean keep memory in its canonical form. -/

namespace Sys2Proof.Machine

theorem State.finish_keeps {s : State} {c : Core} (h_s : Memory.wf s.mem = true) :
    Memory.wf (State.finish s c).mem = true := by
  unfold State.finish
  repeat' first
      | with_reducible assumption
      | dsimp only
      | with_reducible refine State.setMe_keeps ?_

theorem State.jump_keeps {s : State} {c : Core} {t : W64} (h_s : Memory.wf s.mem = true) :
    Memory.wf (State.jump s c t).mem = true := by
  unfold State.jump
  repeat' first
      | with_reducible assumption
      | dsimp only
      | with_reducible refine State.setMe_keeps ?_

theorem State.result_keeps {s : State} {c : Core} {d : Reg} {v : W64} (h_s : Memory.wf s.mem = true) :
    Memory.wf (State.result s c d v).mem = true := by
  unfold State.result
  repeat' first
      | with_reducible assumption
      | dsimp only
      | with_reducible refine State.finish_keeps ?_

theorem State.block_keeps {s : State} (h_s : Memory.wf s.mem = true) :
    Memory.wf (State.block s).mem = true := by
  unfold State.block
  repeat' first
      | with_reducible assumption
      | dsimp only
      | with_reducible refine State.setMe_keeps ?_
      | intro _
      | split

theorem State.trapOn_keeps {s : State} {n : Nat} {cause : Nat} {tval : W64} (h_s : Memory.wf s.mem = true) :
    Memory.wf (State.trapOn s n cause tval).mem = true := by
  unfold State.trapOn
  repeat' first
      | with_reducible assumption
      | dsimp only
      | with_reducible refine State.setCore_keeps ?_
      | intro _
      | split

theorem State.trap_keeps {s : State} {cause : Nat} {tval : W64} (h_s : Memory.wf s.mem = true) :
    Memory.wf (State.trap s cause tval).mem = true := by
  unfold State.trap
  repeat' first
      | with_reducible assumption
      | dsimp only
      | with_reducible refine State.trapOn_keeps ?_

theorem State.illegal_keeps {s : State} {i : Instr} (h_s : Memory.wf s.mem = true) :
    Memory.wf (State.illegal s i).mem = true := by
  unfold State.illegal
  repeat' first
      | with_reducible assumption
      | dsimp only
      | with_reducible refine State.trap_keeps ?_

theorem State.noPriv_keeps {s : State} {i : Instr} (h_s : Memory.wf s.mem = true) :
    Memory.wf (State.noPriv s i).mem = true := by
  unfold State.noPriv
  repeat' first
      | with_reducible assumption
      | dsimp only
      | with_reducible refine State.trap_keeps ?_

theorem State.trapReturn_keeps {s : State} (h_s : Memory.wf s.mem = true) :
    Memory.wf (State.trapReturn s).mem = true := by
  unfold State.trapReturn
  repeat' first
      | with_reducible assumption
      | dsimp only
      | with_reducible refine State.jump_keeps ?_
      | with_reducible refine State.trap_keeps ?_
      | intro _
      | split

theorem State.issue_keeps {s : State} {srcs : List (Reg × Bool)} {d : Reg} {k : Core → State} (h_s : Memory.wf s.mem = true) (h_k : ∀ (a0 : Core), Memory.wf (k a0).mem = true) :
    Memory.wf (State.issue s srcs d k).mem = true := by
  unfold State.issue
  repeat' first
      | with_reducible assumption
      | with_reducible refine h_k _
      | dsimp only
      | with_reducible refine State.block_keeps ?_
      | with_reducible refine State.trap_keeps ?_
      | intro _
      | split

theorem State.op2_keeps {s : State} {d a b : Reg} {wa wb : Bool} {f : W64 → W64 → W64} (h_s : Memory.wf s.mem = true) :
    Memory.wf (State.op2 s d a b wa wb f).mem = true := by
  unfold State.op2
  repeat' first
      | with_reducible assumption
      | dsimp only
      | with_reducible refine State.result_keeps ?_
      | with_reducible refine State.issue_keeps ?_ ?_
      | intro _

theorem State.op1_keeps {s : State} {d a : Reg} {wa : Bool} {f : W64 → W64} (h_s : Memory.wf s.mem = true) :
    Memory.wf (State.op1 s d a wa f).mem = true := by
  unfold State.op1
  repeat' first
      | with_reducible assumption
      | dsimp only
      | with_reducible refine State.result_keeps ?_
      | with_reducible refine State.issue_keeps ?_ ?_
      | intro _

end Sys2Proof.Machine
end

