-- ==== Sys2Proof/Laws/KeepAlu.lean ====
section
/-! SUPPORT. The operations of Machine/Alu.lean keep memory in its canonical form. -/

namespace Sys2Proof.Machine

theorem execAdd_keeps {d a b : Reg} {wa wb : Bool} {s : State} (h_s : Memory.wf s.mem = true) :
    KeepsR (execAdd d a b wa wb s) := by
  unfold execAdd
  repeat' first
      | with_reducible assumption
      | with_reducible refine keepsR_next ?_
      | dsimp only
      | with_reducible refine State.op2_keeps ?_

theorem execSub_keeps {d a b : Reg} {wa wb : Bool} {s : State} (h_s : Memory.wf s.mem = true) :
    KeepsR (execSub d a b wa wb s) := by
  unfold execSub
  repeat' first
      | with_reducible assumption
      | with_reducible refine keepsR_next ?_
      | dsimp only
      | with_reducible refine State.op2_keeps ?_

theorem execAnd_keeps {d a b : Reg} {wa wb : Bool} {s : State} (h_s : Memory.wf s.mem = true) :
    KeepsR (execAnd d a b wa wb s) := by
  unfold execAnd
  repeat' first
      | with_reducible assumption
      | with_reducible refine keepsR_next ?_
      | dsimp only
      | with_reducible refine State.op2_keeps ?_

theorem execOr_keeps {d a b : Reg} {wa wb : Bool} {s : State} (h_s : Memory.wf s.mem = true) :
    KeepsR (execOr d a b wa wb s) := by
  unfold execOr
  repeat' first
      | with_reducible assumption
      | with_reducible refine keepsR_next ?_
      | dsimp only
      | with_reducible refine State.op2_keeps ?_

theorem execXor_keeps {d a b : Reg} {wa wb : Bool} {s : State} (h_s : Memory.wf s.mem = true) :
    KeepsR (execXor d a b wa wb s) := by
  unfold execXor
  repeat' first
      | with_reducible assumption
      | with_reducible refine keepsR_next ?_
      | dsimp only
      | with_reducible refine State.op2_keeps ?_

theorem execShl_keeps {d a b : Reg} {wa wb : Bool} {s : State} (h_s : Memory.wf s.mem = true) :
    KeepsR (execShl d a b wa wb s) := by
  unfold execShl
  repeat' first
      | with_reducible assumption
      | with_reducible refine keepsR_next ?_
      | dsimp only
      | with_reducible refine State.op2_keeps ?_

theorem execShr_keeps {d a b : Reg} {wa wb : Bool} {s : State} (h_s : Memory.wf s.mem = true) :
    KeepsR (execShr d a b wa wb s) := by
  unfold execShr
  repeat' first
      | with_reducible assumption
      | with_reducible refine keepsR_next ?_
      | dsimp only
      | with_reducible refine State.op2_keeps ?_

theorem execSra_keeps {d a b : Reg} {wa wb : Bool} {s : State} (h_s : Memory.wf s.mem = true) :
    KeepsR (execSra d a b wa wb s) := by
  unfold execSra
  repeat' first
      | with_reducible assumption
      | with_reducible refine keepsR_next ?_
      | dsimp only
      | with_reducible refine State.op2_keeps ?_

theorem execRot_keeps {d a b : Reg} {wa wb : Bool} {s : State} (h_s : Memory.wf s.mem = true) :
    KeepsR (execRot d a b wa wb s) := by
  unfold execRot
  repeat' first
      | with_reducible assumption
      | with_reducible refine keepsR_next ?_
      | dsimp only
      | with_reducible refine State.op2_keeps ?_

theorem execSlt_keeps {d a b : Reg} {wa wb : Bool} {s : State} (h_s : Memory.wf s.mem = true) :
    KeepsR (execSlt d a b wa wb s) := by
  unfold execSlt
  repeat' first
      | with_reducible assumption
      | with_reducible refine keepsR_next ?_
      | dsimp only
      | with_reducible refine State.op2_keeps ?_

theorem execSltn_keeps {d a b : Reg} {wa wb : Bool} {s : State} (h_s : Memory.wf s.mem = true) :
    KeepsR (execSltn d a b wa wb s) := by
  unfold execSltn
  repeat' first
      | with_reducible assumption
      | with_reducible refine keepsR_next ?_
      | dsimp only
      | with_reducible refine State.op2_keeps ?_

theorem execMin_keeps {d a b : Reg} {wa wb : Bool} {s : State} (h_s : Memory.wf s.mem = true) :
    KeepsR (execMin d a b wa wb s) := by
  unfold execMin
  repeat' first
      | with_reducible assumption
      | with_reducible refine keepsR_next ?_
      | dsimp only
      | with_reducible refine State.op2_keeps ?_

theorem execMinn_keeps {d a b : Reg} {wa wb : Bool} {s : State} (h_s : Memory.wf s.mem = true) :
    KeepsR (execMinn d a b wa wb s) := by
  unfold execMinn
  repeat' first
      | with_reducible assumption
      | with_reducible refine keepsR_next ?_
      | dsimp only
      | with_reducible refine State.op2_keeps ?_

theorem execMax_keeps {d a b : Reg} {wa wb : Bool} {s : State} (h_s : Memory.wf s.mem = true) :
    KeepsR (execMax d a b wa wb s) := by
  unfold execMax
  repeat' first
      | with_reducible assumption
      | with_reducible refine keepsR_next ?_
      | dsimp only
      | with_reducible refine State.op2_keeps ?_

theorem execMaxn_keeps {d a b : Reg} {wa wb : Bool} {s : State} (h_s : Memory.wf s.mem = true) :
    KeepsR (execMaxn d a b wa wb s) := by
  unfold execMaxn
  repeat' first
      | with_reducible assumption
      | with_reducible refine keepsR_next ?_
      | dsimp only
      | with_reducible refine State.op2_keeps ?_

theorem execBext_keeps {d a b : Reg} {wa wb : Bool} {s : State} (h_s : Memory.wf s.mem = true) :
    KeepsR (execBext d a b wa wb s) := by
  unfold execBext
  repeat' first
      | with_reducible assumption
      | with_reducible refine keepsR_next ?_
      | dsimp only
      | with_reducible refine State.op2_keeps ?_

theorem execMul_keeps {d a b : Reg} {wa wb : Bool} {s : State} (h_s : Memory.wf s.mem = true) :
    KeepsR (execMul d a b wa wb s) := by
  unfold execMul
  repeat' first
      | with_reducible assumption
      | with_reducible refine keepsR_next ?_
      | dsimp only
      | with_reducible refine State.op2_keeps ?_

theorem execMulh_keeps {d a b : Reg} {wa wb : Bool} {s : State} (h_s : Memory.wf s.mem = true) :
    KeepsR (execMulh d a b wa wb s) := by
  unfold execMulh
  repeat' first
      | with_reducible assumption
      | with_reducible refine keepsR_next ?_
      | dsimp only
      | with_reducible refine State.op2_keeps ?_

theorem execMulhn_keeps {d a b : Reg} {wa wb : Bool} {s : State} (h_s : Memory.wf s.mem = true) :
    KeepsR (execMulhn d a b wa wb s) := by
  unfold execMulhn
  repeat' first
      | with_reducible assumption
      | with_reducible refine keepsR_next ?_
      | dsimp only
      | with_reducible refine State.op2_keeps ?_

theorem execDiv_keeps {d a b : Reg} {wa wb : Bool} {s : State} (h_s : Memory.wf s.mem = true) :
    KeepsR (execDiv d a b wa wb s) := by
  unfold execDiv
  repeat' first
      | with_reducible assumption
      | with_reducible refine keepsR_next ?_
      | dsimp only
      | with_reducible refine State.op2_keeps ?_

theorem execDivn_keeps {d a b : Reg} {wa wb : Bool} {s : State} (h_s : Memory.wf s.mem = true) :
    KeepsR (execDivn d a b wa wb s) := by
  unfold execDivn
  repeat' first
      | with_reducible assumption
      | with_reducible refine keepsR_next ?_
      | dsimp only
      | with_reducible refine State.op2_keeps ?_

theorem execMod_keeps {d a b : Reg} {wa wb : Bool} {s : State} (h_s : Memory.wf s.mem = true) :
    KeepsR (execMod d a b wa wb s) := by
  unfold execMod
  repeat' first
      | with_reducible assumption
      | with_reducible refine keepsR_next ?_
      | dsimp only
      | with_reducible refine State.op2_keeps ?_

theorem execModn_keeps {d a b : Reg} {wa wb : Bool} {s : State} (h_s : Memory.wf s.mem = true) :
    KeepsR (execModn d a b wa wb s) := by
  unfold execModn
  repeat' first
      | with_reducible assumption
      | with_reducible refine keepsR_next ?_
      | dsimp only
      | with_reducible refine State.op2_keeps ?_

theorem execAddi_keeps {d a : Reg} {wa : Bool} {imm : BitVec 15} {s : State} (h_s : Memory.wf s.mem = true) :
    KeepsR (execAddi d a wa imm s) := by
  unfold execAddi
  repeat' first
      | with_reducible assumption
      | with_reducible refine keepsR_next ?_
      | dsimp only
      | with_reducible refine State.op1_keeps ?_

theorem execAndi_keeps {d a : Reg} {wa : Bool} {imm : BitVec 15} {s : State} (h_s : Memory.wf s.mem = true) :
    KeepsR (execAndi d a wa imm s) := by
  unfold execAndi
  repeat' first
      | with_reducible assumption
      | with_reducible refine keepsR_next ?_
      | dsimp only
      | with_reducible refine State.op1_keeps ?_

theorem execOri_keeps {d a : Reg} {wa : Bool} {imm : BitVec 15} {s : State} (h_s : Memory.wf s.mem = true) :
    KeepsR (execOri d a wa imm s) := by
  unfold execOri
  repeat' first
      | with_reducible assumption
      | with_reducible refine keepsR_next ?_
      | dsimp only
      | with_reducible refine State.op1_keeps ?_

theorem execXori_keeps {d a : Reg} {wa : Bool} {imm : BitVec 15} {s : State} (h_s : Memory.wf s.mem = true) :
    KeepsR (execXori d a wa imm s) := by
  unfold execXori
  repeat' first
      | with_reducible assumption
      | with_reducible refine keepsR_next ?_
      | dsimp only
      | with_reducible refine State.op1_keeps ?_

theorem execSlti_keeps {d a : Reg} {wa : Bool} {imm : BitVec 15} {s : State} (h_s : Memory.wf s.mem = true) :
    KeepsR (execSlti d a wa imm s) := by
  unfold execSlti
  repeat' first
      | with_reducible assumption
      | with_reducible refine keepsR_next ?_
      | dsimp only
      | with_reducible refine State.op1_keeps ?_

theorem execShli_keeps {d a : Reg} {wa : Bool} {imm : BitVec 6} {s : State} (h_s : Memory.wf s.mem = true) :
    KeepsR (execShli d a wa imm s) := by
  unfold execShli
  repeat' first
      | with_reducible assumption
      | with_reducible refine keepsR_next ?_
      | dsimp only
      | with_reducible refine State.op1_keeps ?_

theorem execShri_keeps {d a : Reg} {wa : Bool} {imm : BitVec 6} {s : State} (h_s : Memory.wf s.mem = true) :
    KeepsR (execShri d a wa imm s) := by
  unfold execShri
  repeat' first
      | with_reducible assumption
      | with_reducible refine keepsR_next ?_
      | dsimp only
      | with_reducible refine State.op1_keeps ?_

theorem execSrai_keeps {d a : Reg} {wa : Bool} {imm : BitVec 6} {s : State} (h_s : Memory.wf s.mem = true) :
    KeepsR (execSrai d a wa imm s) := by
  unfold execSrai
  repeat' first
      | with_reducible assumption
      | with_reducible refine keepsR_next ?_
      | dsimp only
      | with_reducible refine State.op1_keeps ?_

theorem execLhi_keeps {d a : Reg} {wa : Bool} {imm : BitVec 15} {s : State} (h_s : Memory.wf s.mem = true) :
    KeepsR (execLhi d a wa imm s) := by
  unfold execLhi
  repeat' first
      | with_reducible assumption
      | with_reducible refine keepsR_next ?_
      | dsimp only
      | with_reducible refine State.op1_keeps ?_

theorem execClz_keeps {d a : Reg} {wa : Bool} {s : State} (h_s : Memory.wf s.mem = true) :
    KeepsR (execClz d a wa s) := by
  unfold execClz
  repeat' first
      | with_reducible assumption
      | with_reducible refine keepsR_next ?_
      | dsimp only
      | with_reducible refine State.op1_keeps ?_

theorem execCtz_keeps {d a : Reg} {wa : Bool} {s : State} (h_s : Memory.wf s.mem = true) :
    KeepsR (execCtz d a wa s) := by
  unfold execCtz
  repeat' first
      | with_reducible assumption
      | with_reducible refine keepsR_next ?_
      | dsimp only
      | with_reducible refine State.op1_keeps ?_

theorem execPopc_keeps {d a : Reg} {wa : Bool} {s : State} (h_s : Memory.wf s.mem = true) :
    KeepsR (execPopc d a wa s) := by
  unfold execPopc
  repeat' first
      | with_reducible assumption
      | with_reducible refine keepsR_next ?_
      | dsimp only
      | with_reducible refine State.op1_keeps ?_

theorem execBins_keeps {d a b : Reg} {wa wb : Bool} {s : State} (h_s : Memory.wf s.mem = true) :
    KeepsR (execBins d a b wa wb s) := by
  unfold execBins
  repeat' first
      | with_reducible assumption
      | with_reducible refine keepsR_next ?_
      | dsimp only
      | with_reducible refine State.result_keeps ?_
      | with_reducible refine State.block_keeps ?_
      | with_reducible refine State.trap_keeps ?_
      | intro _
      | split

theorem execPcrel_keeps {d : Reg} {imm : BitVec 15} {s : State} (h_s : Memory.wf s.mem = true) :
    KeepsR (execPcrel d imm s) := by
  unfold execPcrel
  repeat' first
      | with_reducible assumption
      | with_reducible refine keepsR_next ?_
      | dsimp only
      | with_reducible refine State.result_keeps ?_
      | with_reducible refine State.issue_keeps ?_ ?_
      | intro _

end Sys2Proof.Machine
end

