-- ==== Sys2Proof/Laws/KeepBranch.lean ====
section
/-! SUPPORT. The operations of Machine/Branch.lean keep memory in its canonical form. -/

namespace Sys2Proof.Machine

theorem State.branch_keeps {s : State} {a b : Reg} {off : BitVec 12} {cond : W64 → W64 → Bool} (h_s : Memory.wf s.mem = true) :
    Memory.wf (State.branch s a b off cond).mem = true := by
  unfold State.branch
  repeat' first
      | with_reducible assumption
      | dsimp only
      | with_reducible refine State.finish_keeps ?_
      | with_reducible refine State.jump_keeps ?_
      | with_reducible refine State.issue_keeps ?_ ?_
      | intro _
      | split

theorem State.presenceBranch_keeps {s : State} {taken : Bool} {off : BitVec 12} (h_s : Memory.wf s.mem = true) :
    Memory.wf (State.presenceBranch s taken off).mem = true := by
  unfold State.presenceBranch
  repeat' first
      | with_reducible assumption
      | dsimp only
      | with_reducible refine State.finish_keeps ?_
      | with_reducible refine State.jump_keeps ?_
      | intro _
      | split

theorem execBEq_keeps {a b : Reg} {off : BitVec 12} {s : State} (h_s : Memory.wf s.mem = true) :
    KeepsR (execBEq a b off s) := by
  unfold execBEq
  repeat' first
      | with_reducible assumption
      | with_reducible refine keepsR_next ?_
      | dsimp only
      | with_reducible refine State.branch_keeps ?_

theorem execBNe_keeps {a b : Reg} {off : BitVec 12} {s : State} (h_s : Memory.wf s.mem = true) :
    KeepsR (execBNe a b off s) := by
  unfold execBNe
  repeat' first
      | with_reducible assumption
      | with_reducible refine keepsR_next ?_
      | dsimp only
      | with_reducible refine State.branch_keeps ?_

theorem execBLt_keeps {a b : Reg} {off : BitVec 12} {s : State} (h_s : Memory.wf s.mem = true) :
    KeepsR (execBLt a b off s) := by
  unfold execBLt
  repeat' first
      | with_reducible assumption
      | with_reducible refine keepsR_next ?_
      | dsimp only
      | with_reducible refine State.branch_keeps ?_

theorem execBGe_keeps {a b : Reg} {off : BitVec 12} {s : State} (h_s : Memory.wf s.mem = true) :
    KeepsR (execBGe a b off s) := by
  unfold execBGe
  repeat' first
      | with_reducible assumption
      | with_reducible refine keepsR_next ?_
      | dsimp only
      | with_reducible refine State.branch_keeps ?_

theorem execBLtn_keeps {a b : Reg} {off : BitVec 12} {s : State} (h_s : Memory.wf s.mem = true) :
    KeepsR (execBLtn a b off s) := by
  unfold execBLtn
  repeat' first
      | with_reducible assumption
      | with_reducible refine keepsR_next ?_
      | dsimp only
      | with_reducible refine State.branch_keeps ?_

theorem execBGen_keeps {a b : Reg} {off : BitVec 12} {s : State} (h_s : Memory.wf s.mem = true) :
    KeepsR (execBGen a b off s) := by
  unfold execBGen
  repeat' first
      | with_reducible assumption
      | with_reducible refine keepsR_next ?_
      | dsimp only
      | with_reducible refine State.branch_keeps ?_

theorem execBFull_keeps {a : Reg} {off : BitVec 12} {s : State} (h_s : Memory.wf s.mem = true) :
    KeepsR (execBFull a off s) := by
  unfold execBFull
  repeat' first
      | with_reducible assumption
      | with_reducible refine keepsR_next ?_
      | dsimp only
      | with_reducible refine State.presenceBranch_keeps ?_

theorem execBEmpty_keeps {a : Reg} {off : BitVec 12} {s : State} (h_s : Memory.wf s.mem = true) :
    KeepsR (execBEmpty a off s) := by
  unfold execBEmpty
  repeat' first
      | with_reducible assumption
      | with_reducible refine keepsR_next ?_
      | dsimp only
      | with_reducible refine State.presenceBranch_keeps ?_

theorem execJmp_keeps {off : BitVec 26} {s : State} (h_s : Memory.wf s.mem = true) :
    KeepsR (execJmp off s) := by
  unfold execJmp
  repeat' first
      | with_reducible assumption
      | with_reducible refine keepsR_next ?_
      | dsimp only
      | with_reducible refine State.jump_keeps ?_

theorem execJmpl_keeps {off : BitVec 26} {s : State} (h_s : Memory.wf s.mem = true) :
    KeepsR (execJmpl off s) := by
  unfold execJmpl
  repeat' first
      | with_reducible assumption
      | with_reducible refine keepsR_next ?_
      | dsimp only
      | with_reducible refine State.jump_keeps ?_
      | with_reducible refine State.issue_keeps ?_ ?_
      | intro _

theorem execJmpr_keeps {d a : Reg} {wa : Bool} {imm : BitVec 15} {s : State} (h_s : Memory.wf s.mem = true) :
    KeepsR (execJmpr d a wa imm s) := by
  unfold execJmpr
  repeat' first
      | with_reducible assumption
      | with_reducible refine keepsR_next ?_
      | dsimp only
      | with_reducible refine State.jump_keeps ?_
      | with_reducible refine State.trap_keeps ?_
      | with_reducible refine State.issue_keeps ?_ ?_
      | intro _
      | split

end Sys2Proof.Machine
end

