-- ==== Sys2Proof/Laws/KeepGrains.lean ====
section
/-! SUPPORT. The operations of Machine/Grains.lean keep memory in its canonical form. -/

namespace Sys2Proof.Machine

theorem State.grain_keeps {s : State} {field unit : Nat} {ref : Option NodeRef} (h_s : Memory.wf s.mem = true) :
    Memory.wf (State.grain s field unit ref).1.mem = true := by
  unfold State.grain
  repeat' first
      | with_reducible assumption
      | dsimp only
      | with_reducible refine State.setField_keeps ?_

theorem State.grain_keeps_eq {s : State} {field unit : Nat} {ref : Option NodeRef} {t' : State} {b' : _} (eq_ : State.grain s field unit ref = (t', b')) (h_s : Memory.wf s.mem = true) :
    Memory.wf t'.mem = true := by
  have h : Memory.wf (State.grain s field unit ref).1.mem = true := State.grain_keeps h_s
  rw [eq_] at h
  exact h

end Sys2Proof.Machine
end

