-- ==== Sys2Proof/Laws/KeepLoadStore.lean ====
section
/-! SUPPORT. The operations of Machine/LoadStore.lean keep memory in its canonical form. -/

namespace Sys2Proof.Machine

theorem State.pushAccess_keeps {s : State} {c : Core} {a : Access} (h_s : Memory.wf s.mem = true) :
    Memory.wf (State.pushAccess s c a).mem = true := by
  unfold State.pushAccess
  repeat' first
      | with_reducible assumption
      | dsimp only
      | with_reducible refine State.setMe_keeps ?_
      | with_reducible refine State.finish_keeps ?_
      | with_reducible refine State.access_keeps ?_
      | intro _
      | split

theorem State.standBy_keeps {s : State} {c : Core} (h_s : Memory.wf s.mem = true) :
    Memory.wf (State.standBy s c).mem = true := by
  unfold State.standBy
  repeat' first
      | with_reducible assumption
      | dsimp only
      | with_reducible refine State.setMe_keeps ?_

theorem State.access_keeps {s : State} {c : Core} {a : Access} (h_s : Memory.wf s.mem = true) :
    Memory.wf (State.access s c a).mem = true := by
  unfold State.access
  repeat' first
      | with_reducible assumption
      | dsimp only
      | with_reducible refine State.setMe_keeps ?_
      | with_reducible refine State.stopCore_keeps ?_
      | with_reducible refine State.refill_keeps ?_
      | with_reducible refine State.askWalk_keeps ?_
      | with_reducible refine State.pushAccess_keeps ?_
      | with_reducible refine State.standBy_keeps ?_
      | intro _
      | split

theorem State.aligned_keeps {s : State} {va : W64} {size : Nat} {k : State} (h_s : Memory.wf s.mem = true) (h_k : Memory.wf k.mem = true) :
    Memory.wf (State.aligned s va size k).mem = true := by
  unfold State.aligned
  repeat' first
      | with_reducible assumption
      | dsimp only
      | with_reducible refine State.trap_keeps ?_
      | intro _
      | split

theorem execLd_keeps {t a : Reg} {wa : Bool} {sz sc : BitVec 3} {ord : Bool} {imm : BitVec 8} {s : State} (h_s : Memory.wf s.mem = true) :
    KeepsR (execLd t a wa sz sc ord imm s) := by
  unfold execLd
  repeat' first
      | with_reducible assumption
      | with_reducible refine keepsR_next ?_
      | dsimp only
      | with_reducible refine State.illegal_keeps ?_
      | with_reducible refine State.issue_keeps ?_ ?_
      | with_reducible refine State.access_keeps ?_
      | with_reducible refine State.aligned_keeps ?_ ?_
      | intro _
      | split

theorem execSt_keeps {t a : Reg} {wa : Bool} {sz : BitVec 2} {sc : BitVec 3} {ord : Bool} {imm : BitVec 8} {s : State} (h_s : Memory.wf s.mem = true) :
    KeepsR (execSt t a wa sz sc ord imm s) := by
  unfold execSt
  repeat' first
      | with_reducible assumption
      | with_reducible refine keepsR_next ?_
      | dsimp only
      | with_reducible refine State.setMe_keeps ?_
      | with_reducible refine State.illegal_keeps ?_
      | with_reducible refine State.issue_keeps ?_ ?_
      | with_reducible refine State.access_keeps ?_
      | with_reducible refine State.aligned_keeps ?_ ?_
      | intro _
      | split

theorem execSta_keeps {t a : Reg} {wa : Bool} {sz : BitVec 2} {sc : BitVec 3} {imm : BitVec 8} {s : State} (h_s : Memory.wf s.mem = true) :
    KeepsR (execSta t a wa sz sc imm s) := by
  unfold execSta
  repeat' first
      | with_reducible assumption
      | with_reducible refine keepsR_next ?_
      | dsimp only
      | with_reducible refine State.setMe_keeps ?_
      | with_reducible refine State.illegal_keeps ?_
      | with_reducible refine State.issue_keeps ?_ ?_
      | with_reducible refine State.access_keeps ?_
      | with_reducible refine State.aligned_keeps ?_ ?_
      | intro _
      | split

theorem execLdfe_keeps {t a : Reg} {wa : Bool} {imm : BitVec 8} {s : State} (h_s : Memory.wf s.mem = true) :
    KeepsR (execLdfe t a wa imm s) := by
  unfold execLdfe
  repeat' first
      | with_reducible assumption
      | with_reducible refine keepsR_next ?_
      | dsimp only
      | with_reducible refine State.issue_keeps ?_ ?_
      | with_reducible refine State.access_keeps ?_
      | with_reducible refine State.aligned_keeps ?_ ?_
      | intro _

theorem execStfe_keeps {t a : Reg} {wa : Bool} {imm : BitVec 8} {s : State} (h_s : Memory.wf s.mem = true) :
    KeepsR (execStfe t a wa imm s) := by
  unfold execStfe
  repeat' first
      | with_reducible assumption
      | with_reducible refine keepsR_next ?_
      | dsimp only
      | with_reducible refine State.setMe_keeps ?_
      | with_reducible refine State.issue_keeps ?_ ?_
      | with_reducible refine State.access_keeps ?_
      | with_reducible refine State.aligned_keeps ?_ ?_
      | intro _

theorem execWaitf_keeps {d a b : Reg} {s : State} (h_s : Memory.wf s.mem = true) :
    KeepsR (execWaitf d a b s) := by
  unfold execWaitf
  repeat' first
      | with_reducible assumption
      | with_reducible refine keepsR_next ?_
      | dsimp only
      | with_reducible refine State.issue_keeps ?_ ?_
      | with_reducible refine State.access_keeps ?_
      | with_reducible refine State.aligned_keeps ?_ ?_
      | intro _

theorem State.amo_keeps {s : State} {op : AmoOp} {i : Instr} {d a b : Reg} {wa wb wide : Bool} {sc : BitVec 3} (h_s : Memory.wf s.mem = true) :
    Memory.wf (State.amo s op i d a b wa wb wide sc).mem = true := by
  unfold State.amo
  repeat' first
      | with_reducible assumption
      | dsimp only
      | with_reducible refine State.block_keeps ?_
      | with_reducible refine State.trap_keeps ?_
      | with_reducible refine State.illegal_keeps ?_
      | with_reducible refine State.access_keeps ?_
      | with_reducible refine State.aligned_keeps ?_ ?_
      | intro _
      | split

theorem execAmoAdd_keeps {d a b : Reg} {wa wb wide : Bool} {sc : BitVec 3} {s : State} (h_s : Memory.wf s.mem = true) :
    KeepsR (execAmoAdd d a b wa wb wide sc s) := by
  unfold execAmoAdd
  repeat' first
      | with_reducible assumption
      | with_reducible refine keepsR_next ?_
      | dsimp only
      | with_reducible refine State.amo_keeps ?_

theorem execAmoAnd_keeps {d a b : Reg} {wa wb wide : Bool} {sc : BitVec 3} {s : State} (h_s : Memory.wf s.mem = true) :
    KeepsR (execAmoAnd d a b wa wb wide sc s) := by
  unfold execAmoAnd
  repeat' first
      | with_reducible assumption
      | with_reducible refine keepsR_next ?_
      | dsimp only
      | with_reducible refine State.amo_keeps ?_

theorem execAmoOr_keeps {d a b : Reg} {wa wb wide : Bool} {sc : BitVec 3} {s : State} (h_s : Memory.wf s.mem = true) :
    KeepsR (execAmoOr d a b wa wb wide sc s) := by
  unfold execAmoOr
  repeat' first
      | with_reducible assumption
      | with_reducible refine keepsR_next ?_
      | dsimp only
      | with_reducible refine State.amo_keeps ?_

theorem execAmoXor_keeps {d a b : Reg} {wa wb wide : Bool} {sc : BitVec 3} {s : State} (h_s : Memory.wf s.mem = true) :
    KeepsR (execAmoXor d a b wa wb wide sc s) := by
  unfold execAmoXor
  repeat' first
      | with_reducible assumption
      | with_reducible refine keepsR_next ?_
      | dsimp only
      | with_reducible refine State.amo_keeps ?_

theorem execAmoMin_keeps {d a b : Reg} {wa wb wide : Bool} {sc : BitVec 3} {s : State} (h_s : Memory.wf s.mem = true) :
    KeepsR (execAmoMin d a b wa wb wide sc s) := by
  unfold execAmoMin
  repeat' first
      | with_reducible assumption
      | with_reducible refine keepsR_next ?_
      | dsimp only
      | with_reducible refine State.amo_keeps ?_

theorem execAmoMax_keeps {d a b : Reg} {wa wb wide : Bool} {sc : BitVec 3} {s : State} (h_s : Memory.wf s.mem = true) :
    KeepsR (execAmoMax d a b wa wb wide sc s) := by
  unfold execAmoMax
  repeat' first
      | with_reducible assumption
      | with_reducible refine keepsR_next ?_
      | dsimp only
      | with_reducible refine State.amo_keeps ?_

theorem execAmoMinn_keeps {d a b : Reg} {wa wb wide : Bool} {sc : BitVec 3} {s : State} (h_s : Memory.wf s.mem = true) :
    KeepsR (execAmoMinn d a b wa wb wide sc s) := by
  unfold execAmoMinn
  repeat' first
      | with_reducible assumption
      | with_reducible refine keepsR_next ?_
      | dsimp only
      | with_reducible refine State.amo_keeps ?_

theorem execAmoMaxn_keeps {d a b : Reg} {wa wb wide : Bool} {sc : BitVec 3} {s : State} (h_s : Memory.wf s.mem = true) :
    KeepsR (execAmoMaxn d a b wa wb wide sc s) := by
  unfold execAmoMaxn
  repeat' first
      | with_reducible assumption
      | with_reducible refine keepsR_next ?_
      | dsimp only
      | with_reducible refine State.amo_keeps ?_

theorem execAmoSwp_keeps {d a b : Reg} {wa wb wide : Bool} {sc : BitVec 3} {s : State} (h_s : Memory.wf s.mem = true) :
    KeepsR (execAmoSwp d a b wa wb wide sc s) := by
  unfold execAmoSwp
  repeat' first
      | with_reducible assumption
      | with_reducible refine keepsR_next ?_
      | dsimp only
      | with_reducible refine State.amo_keeps ?_

theorem execAmoCas_keeps {d a b : Reg} {wa wb wide : Bool} {sc : BitVec 3} {s : State} (h_s : Memory.wf s.mem = true) :
    KeepsR (execAmoCas d a b wa wb wide sc s) := by
  unfold execAmoCas
  repeat' first
      | with_reducible assumption
      | with_reducible refine keepsR_next ?_
      | dsimp only
      | with_reducible refine State.amo_keeps ?_

theorem State.lateFault_keeps {s : State} {n : Nat} {a : Access} {ty : Nat} (h_s : Memory.wf s.mem = true) :
    Memory.wf (State.lateFault s n a ty).mem = true := by
  unfold State.lateFault
  repeat' first
      | with_reducible assumption
      | dsimp only
      | with_reducible refine State.setCore_keeps ?_
      | with_reducible refine State.stopCore_keeps ?_
      | intro _
      | split

theorem State.enterView_keeps {s : State} {w m sl : Nat} {v : VAcc} (h_s : Memory.wf s.mem = true) :
    Memory.wf (State.enterView s w m sl v).mem = true := by
  unfold State.enterView
  repeat' first
      | with_reducible assumption
      | dsimp only
      | with_reducible refine State.setCtl_keeps ?_

theorem State.performLd_keeps {s : State} {n : Nat} {a : Access} (h_s : Memory.wf s.mem = true) :
    Memory.wf (State.performLd s n a).mem = true := by
  unfold State.performLd
  repeat' first
      | with_reducible assumption
      | dsimp only
      | with_reducible refine State.setCore_keeps ?_
      | with_reducible refine State.ldAt_keeps ?_
      | with_reducible refine State.lateFault_keeps ?_
      | intro _
      | split

theorem State.performAmo_keeps {s : State} {n : Nat} {op : AmoOp} {a : Access} (h_s : Memory.wf s.mem = true) :
    Memory.wf (State.performAmo s n op a).mem = true := by
  unfold State.performAmo
  repeat' first
      | with_reducible assumption
      | dsimp only
      | with_reducible refine State.amoAt_keeps ?_
      | with_reducible refine State.lateFault_keeps ?_
      | intro _
      | split

theorem State.performWait_keeps {s : State} {n : Nat} {a : Access} (h_s : Memory.wf s.mem = true) :
    Memory.wf (State.performWait s n a).mem = true := by
  unfold State.performWait
  repeat' first
      | with_reducible assumption
      | dsimp only
      | with_reducible refine State.setCore_keeps ?_

theorem State.perform_keeps {s : State} {n : Nat} {a : Access} (h_s : Memory.wf s.mem = true) :
    Memory.wf (State.perform s n a).mem = true := by
  unfold State.perform
  repeat' first
      | with_reducible assumption
      | dsimp only
      | with_reducible refine State.setCore_keeps ?_
      | with_reducible refine State.endWatch_keeps ?_
      | with_reducible refine State.amo_keeps ?_
      | with_reducible refine State.takeWord_keeps ?_
      | with_reducible refine State.fillWord_keeps ?_
      | with_reducible refine State.lateFault_keeps ?_
      | with_reducible refine State.enterView_keeps ?_
      | with_reducible refine State.performLd_keeps ?_
      | with_reducible refine State.performSt_keeps ?_
      | with_reducible refine State.performAmo_keeps ?_
      | with_reducible refine State.performWait_keeps ?_
      | intro _
      | split

theorem State.taintFault_keeps {s : State} {n : Nat} {a : Access} (h_s : Memory.wf s.mem = true) :
    Memory.wf (State.taintFault s n a).mem = true := by
  unfold State.taintFault
  repeat' first
      | with_reducible assumption
      | dsimp only
      | with_reducible refine State.setCore_keeps ?_
      | with_reducible refine State.lateFault_keeps ?_
      | intro _
      | split

theorem execProducerArrive_keeps {core id : Nat} {s : State} (h_s : Memory.wf s.mem = true) :
    KeepsR (execProducerArrive core id s) := by
  unfold execProducerArrive
  repeat' first
      | with_reducible assumption
      | with_reducible refine keepsR_next ?_
      | dsimp only
      | with_reducible refine State.setCore_keeps ?_
      | intro _
      | split

theorem execRemoteAccessRefused_keeps {core id : Nat} {s : State} (h_s : Memory.wf s.mem = true) :
    KeepsR (execRemoteAccessRefused core id s) := by
  unfold execRemoteAccessRefused
  repeat' first
      | with_reducible assumption
      | with_reducible refine keepsR_next ?_
      | dsimp only
      | with_reducible refine State.setCore_keeps ?_
      | with_reducible refine State.stopCore_keeps ?_
      | with_reducible refine State.lateFault_keeps ?_
      | intro _
      | split

end Sys2Proof.Machine
end

