-- ==== Sys2Proof/Laws/KeepWork.lean ====
section
/-! SUPPORT. The operations of Machine/Work.lean keep memory in its canonical form. -/

namespace Sys2Proof.Machine

theorem State.putCoreWord_keeps {s : State} {n asid : Nat} {va v : W64} (h_s : Memory.wf s.mem = true) :
    Memory.wf (State.putCoreWord s n asid va v).mem = true := by
  unfold State.putCoreWord
  repeat' first
      | with_reducible assumption
      | dsimp only
      | with_reducible refine State.write_keeps ?_
      | intro _
      | split

theorem State.untried_keeps {s : State} (h_s : Memory.wf s.mem = true) :
    Memory.wf (State.untried s).mem = true := by
  unfold State.untried
  repeat' first
      | with_reducible assumption
      | dsimp only
      | with_reducible refine State.setMe_keeps ?_
      | intro _
      | split

theorem State.reach_keeps {s : State} {c : Core} {va : W64} {size acc : Nat} {k : State → Nat → Bool → State} (h_s : Memory.wf s.mem = true) (h_k : ∀ (a0 : State) (a1 : Nat) (a2 : Bool), Memory.wf a0.mem = true → Memory.wf (k a0 a1 a2).mem = true) :
    Memory.wf (State.reach s c va size acc k).mem = true := by
  unfold State.reach
  repeat' first
      | with_reducible assumption
      | with_reducible refine h_k _ _ _ ?_
      | dsimp only
      | with_reducible refine State.setMe_keeps ?_
      | with_reducible refine State.stopCore_keeps ?_
      | with_reducible refine State.refill_keeps ?_
      | with_reducible refine State.askWalk_keeps ?_
      | with_reducible refine State.standBy_keeps ?_
      | with_reducible refine State.untried_keeps ?_
      | intro _
      | split

theorem State.spillAt_keeps {s : State} {base : W64} {slot : Nat} {r : Rec} (h_s : Memory.wf s.mem = true) :
    Memory.wf (State.spillAt s base slot r).mem = true := by
  unfold State.spillAt
  repeat' first
      | with_reducible assumption
      | dsimp only
      | with_reducible refine State.hwWrite_keeps ?_
      | with_reducible refine foldl_keeps ?_ ?_
      | intro _

theorem State.spill_keeps {s : State} {q : ContQ} {base : W64} {r : Rec} (h_s : Memory.wf s.mem = true) :
    Memory.wf (State.spill s q base r).mem = true := by
  unfold State.spill
  repeat' first
      | with_reducible assumption
      | dsimp only
      | with_reducible refine State.spillAt_keeps ?_
      | intro _
      | split

theorem State.spillOut_keeps {s : State} {q : ContQ} {base : NodeRef → W64} (h_s : Memory.wf s.mem = true) :
    Memory.wf (State.spillOut s q base).mem = true := by
  unfold State.spillOut
  repeat' first
      | with_reducible assumption
      | dsimp only
      | with_reducible refine State.spillAt_keeps ?_
      | with_reducible refine foldl_keeps ?_ ?_
      | intro _
      | split

theorem State.pushSpawn_keeps {s : State} {n : Nat} {r : Rec} (h_s : Memory.wf s.mem = true) :
    KeepsO (State.pushSpawn s n r) := by
  unfold State.pushSpawn
  repeat' first
      | with_reducible assumption
      | with_reducible refine keepsO_some ?_
      | with_reducible refine keepsO_none
      | dsimp only
      | with_reducible refine State.setQuad_keeps ?_
      | with_reducible refine State.setField_keeps ?_
      | with_reducible refine State.spill_keeps ?_
      | intro _
      | split

theorem State.pushSpawn_keeps_ok {s : State} {n : Nat} {r : Rec} {t' : State} (eq_ : State.pushSpawn s n r = some t') (h_s : Memory.wf s.mem = true) :
    Memory.wf t'.mem = true := by
  have h : KeepsO (State.pushSpawn s n r) := State.pushSpawn_keeps h_s
  rw [eq_] at h
  exact h

theorem State.pushQuad_keeps {s : State} {quad : Nat} {r : Rec} (h_s : Memory.wf s.mem = true) :
    KeepsO (State.pushQuad s quad r) := by
  unfold State.pushQuad
  repeat' first
      | with_reducible assumption
      | with_reducible refine keepsO_some ?_
      | with_reducible refine keepsO_none
      | dsimp only
      | with_reducible refine State.setQuad_keeps ?_
      | with_reducible refine State.spill_keeps ?_
      | with_reducible refine keepsO_map ?_
      | intro _

theorem State.pushQuad_keeps_ok {s : State} {quad : Nat} {r : Rec} {t' : State} (eq_ : State.pushQuad s quad r = some t') (h_s : Memory.wf s.mem = true) :
    Memory.wf t'.mem = true := by
  have h : KeepsO (State.pushQuad s quad r) := State.pushQuad_keeps h_s
  rw [eq_] at h
  exact h

theorem State.pushHard_keeps {s : State} {quad : Nat} {r : Rec} (h_s : Memory.wf s.mem = true) :
    Memory.wf (State.pushHard s quad r).mem = true := by
  unfold State.pushHard
  repeat' first
      | with_reducible assumption
      | dsimp only
      | with_reducible refine State.pushQuad_keeps ?_
      | with_reducible refine State.pushQuad_keeps_ok ‹_› ?_
      | with_reducible refine keepsO_getD ?_ ?_
      | intro _
      | split

theorem State.reachSave_keeps {s : State} {c : Core} {k : State → Nat × Bool → Nat × Bool → State} (h_s : Memory.wf s.mem = true) (h_k : ∀ (a0 : State) (a1 : Nat × Bool) (a2 : Nat × Bool), Memory.wf a0.mem = true → Memory.wf (k a0 a1 a2).mem = true) :
    Memory.wf (State.reachSave s c k).mem = true := by
  unfold State.reachSave
  repeat' first
      | with_reducible assumption
      | with_reducible refine h_k _ _ _ ?_
      | dsimp only
      | with_reducible refine State.reach_keeps ?_ ?_
      | intro _

theorem State.park_keeps {s : State} {n : Nat} {c : Core} {lo hi : Nat × Bool} {kind : Nat} {obj : W64} {d : Reg} {t : Strand} (h_s : Memory.wf s.mem = true) :
    Memory.wf (State.park s n c lo hi kind obj d t).mem = true := by
  unfold State.park
  repeat' first
      | with_reducible assumption
      | dsimp only
      | with_reducible refine State.setCore_keeps ?_
      | with_reducible refine State.write_keeps ?_

theorem State.putOut_keeps {s : State} {n asid : Nat} {va : W64} {out : Nat} (h_s : Memory.wf s.mem = true) :
    Memory.wf (State.putOut s n asid va out).mem = true := by
  unfold State.putOut
  repeat' first
      | with_reducible assumption
      | dsimp only
      | with_reducible refine State.write_keeps ?_
      | intro _
      | split

theorem State.unpark_keeps {s : State} {p : Parked} {out : Nat} {val : W64} {prio : Nat} (h_s : Memory.wf s.mem = true) :
    Memory.wf (State.unpark s p out val prio).mem = true := by
  unfold State.unpark
  repeat' first
      | with_reducible assumption
      | dsimp only
      | with_reducible refine State.putCoreWord_keeps ?_
      | with_reducible refine State.pushHard_keeps ?_
      | with_reducible refine State.putOut_keeps ?_

theorem State.decBlock_keeps {s : State} {n asid pa : Nat} {trc : Bool} {reason : Nat} {cp : W64} (h_s : Memory.wf s.mem = true) :
    Memory.wf (State.decBlock s n asid pa trc reason cp).mem = true := by
  unfold State.decBlock
  repeat' first
      | with_reducible assumption
      | dsimp only
      | with_reducible refine State.writeAs_keeps ?_
      | with_reducible refine State.unpark_keeps ?_
      | intro _
      | split

theorem State.decFor_keeps {s : State} {n asid : Nat} {va : W64} {reason : Nat} {cp : W64} (h_s : Memory.wf s.mem = true) :
    Memory.wf (State.decFor s n asid va reason cp).1.mem = true := by
  unfold State.decFor
  repeat' first
      | with_reducible assumption
      | dsimp only
      | with_reducible refine State.decBlock_keeps ?_
      | intro _
      | split

theorem State.decFor_keeps_eq {s : State} {n asid : Nat} {va : W64} {reason : Nat} {cp : W64} {t' : State} {b' : _} (eq_ : State.decFor s n asid va reason cp = (t', b')) (h_s : Memory.wf s.mem = true) :
    Memory.wf t'.mem = true := by
  have h : Memory.wf (State.decFor s n asid va reason cp).1.mem = true := State.decFor_keeps h_s
  rw [eq_] at h
  exact h

theorem State.markAbn_keeps {s : State} {r : NodeRef} {reason : Nat} (h_s : Memory.wf s.mem = true) :
    Memory.wf (State.markAbn s r reason).mem = true := by
  unfold State.markAbn
  repeat' first
      | with_reducible assumption
      | dsimp only
      | with_reducible refine State.modNode_keeps ?_

theorem State.dropFault_keeps {s : State} {n : Nat} (h_s : Memory.wf s.mem = true) :
    Memory.wf (State.dropFault s n).mem = true := by
  unfold State.dropFault
  repeat' first
      | with_reducible assumption
      | dsimp only
      | with_reducible refine State.setCore_keeps ?_

theorem State.beginEnd_keeps {s : State} {n reason : Nat} (h_s : Memory.wf s.mem = true) :
    Memory.wf (State.beginEnd s n reason).mem = true := by
  unfold State.beginEnd
  repeat' first
      | with_reducible assumption
      | dsimp only
      | with_reducible refine State.setCore_keeps ?_
      | intro _
      | split

theorem State.finishEnd_keeps {s : State} {n : Nat} (h_s : Memory.wf s.mem = true) :
    Memory.wf (State.finishEnd s n).mem = true := by
  unfold State.finishEnd
  repeat' first
      | with_reducible assumption
      | dsimp only
      | with_reducible refine State.setCore_keeps ?_
      | with_reducible refine State.raiseEv_keeps ?_
      | with_reducible refine State.decFor_keeps ?_
      | with_reducible refine State.decFor_keeps_eq ‹_› ?_
      | with_reducible refine State.markAbn_keeps ?_
      | with_reducible refine State.dropFault_keeps ?_
      | intro _
      | split

theorem State.decRemoved_keeps {s : State} {n asid : Nat} {jc : W64} {reason : Nat} {cp : W64} {ref : NodeRef} (h_s : Memory.wf s.mem = true) :
    Memory.wf (State.decRemoved s n asid jc reason cp ref).mem = true := by
  unfold State.decRemoved
  repeat' first
      | with_reducible assumption
      | dsimp only
      | with_reducible refine State.decFor_keeps ?_
      | with_reducible refine State.decFor_keeps_eq ‹_› ?_
      | with_reducible refine State.markAbn_keeps ?_
      | intro _
      | split

theorem State.decRec_keeps {s : State} {reason : Nat} {r : Rec} (h_s : Memory.wf s.mem = true) :
    Memory.wf (State.decRec s reason r).mem = true := by
  unfold State.decRec
  repeat' first
      | with_reducible assumption
      | dsimp only
      | with_reducible refine State.decRemoved_keeps ?_

theorem State.decParked_keeps {s : State} {reason : Nat} {p : Parked} (h_s : Memory.wf s.mem = true) :
    Memory.wf (State.decParked s reason p).mem = true := by
  unfold State.decParked
  repeat' first
      | with_reducible assumption
      | dsimp only
      | with_reducible refine State.decRemoved_keeps ?_

theorem State.endParked_keeps {s : State} {n : Nat} (h_s : Memory.wf s.mem = true) :
    Memory.wf (State.endParked s n).mem = true := by
  unfold State.endParked
  repeat' first
      | with_reducible assumption
      | dsimp only
      | with_reducible refine State.decParked_keeps ?_
      | with_reducible refine foldl_keeps ?_ ?_
      | with_reducible refine keepsO_getD ?_ ?_
      | intro _

theorem State.dropStrands_keeps {s : State} {ref : NodeRef} {reason : Nat} (h_s : Memory.wf s.mem = true) :
    Memory.wf (State.dropStrands s ref reason).mem = true := by
  unfold State.dropStrands
  repeat' first
      | with_reducible assumption

theorem State.endStrands_keeps {s : State} {ref : NodeRef} {reason : Nat} {keep : Option Nat} (h_s : Memory.wf s.mem = true) :
    Memory.wf (State.endStrands s ref reason keep).mem = true := by
  unfold State.endStrands
  repeat' first
      | with_reducible assumption
      | dsimp only
      | with_reducible refine State.beginEnd_keeps ?_
      | with_reducible refine State.decRec_keeps ?_
      | with_reducible refine State.endParked_keeps ?_
      | with_reducible refine State.dropStrands_keeps ?_
      | with_reducible refine foldl_keeps ?_ ?_
      | intro _

end Sys2Proof.Machine
end

