-- ==== Sys2Proof/Laws/KeepHomes.lean ====
section
/-! SUPPORT. The operations of Machine/Homes.lean keep memory in its canonical form. -/

namespace Sys2Proof.Machine

theorem execHomeAccess_keeps {core id : Nat} {s : State} (h_s : Memory.wf s.mem = true) :
    KeepsR (execHomeAccess core id s) := by
  unfold execHomeAccess
  repeat' first
      | with_reducible assumption
      | with_reducible refine keepsR_next ?_
      | dsimp only
      | with_reducible refine State.perform_keeps ?_
      | with_reducible refine State.taintFault_keeps ?_
      | with_reducible refine State.endParked_keeps ?_
      | intro _
      | split

theorem execStoreAck_keeps {core id : Nat} {s : State} (h_s : Memory.wf s.mem = true) :
    KeepsR (execStoreAck core id s) := by
  unfold execStoreAck
  repeat' first
      | with_reducible assumption
      | with_reducible refine keepsR_next ?_
      | dsimp only
      | with_reducible refine State.setCore_keeps ?_
      | with_reducible refine State.endParked_keeps ?_
      | intro _
      | split

theorem execRemoteWriteUnbacked_keeps {core id : Nat} {s : State} (h_s : Memory.wf s.mem = true) :
    KeepsR (execRemoteWriteUnbacked core id s) := by
  unfold execRemoteWriteUnbacked
  repeat' first
      | with_reducible assumption
      | with_reducible refine keepsR_next ?_
      | dsimp only
      | with_reducible refine State.setCore_keeps ?_
      | with_reducible refine State.raiseEv_keeps ?_
      | with_reducible refine State.endParked_keeps ?_
      | intro _
      | split

end Sys2Proof.Machine
end

