-- ==== Sys2Proof/Laws/KeepStrands.lean ====
section
/-! SUPPORT. The operations of Machine/Strands.lean keep memory in its canonical form. -/

namespace Sys2Proof.Machine

theorem State.spawnPush_keeps {s : State} {va : W64} {r : Rec} (h_s : Memory.wf s.mem = true) :
    Memory.wf (State.spawnPush s va r).mem = true := by
  unfold State.spawnPush
  repeat' first
      | with_reducible assumption
      | dsimp only
      | with_reducible refine State.finish_keeps ?_
      | with_reducible refine State.trap_keeps ?_
      | with_reducible refine State.pushSpawn_keeps ?_
      | with_reducible refine State.pushSpawn_keeps_ok ‹_› ?_
      | intro _
      | split

theorem State.askRecord_keeps {s : State} {c : Core} {va : W64} {pa : Nat} (h_s : Memory.wf s.mem = true) :
    Memory.wf (State.askRecord s c va pa).mem = true := by
  unfold State.askRecord
  repeat' first
      | with_reducible assumption
      | dsimp only
      | with_reducible refine State.setMe_keeps ?_
      | with_reducible refine foldl_keeps ?_ ?_
      | intro _

theorem State.reachRecord_keeps {s : State} {c : Core} {va : W64} {k : State → (Nat → W64) → State} (h_s : Memory.wf s.mem = true) (h_k : ∀ (a0 : State) (a1 : (Nat → W64)), Memory.wf a0.mem = true → Memory.wf (k a0 a1).mem = true) :
    Memory.wf (State.reachRecord s c va k).mem = true := by
  unfold State.reachRecord
  repeat' first
      | with_reducible assumption
      | with_reducible refine h_k _ _ ?_
      | dsimp only
      | with_reducible refine State.setMe_keeps ?_
      | with_reducible refine State.refill_keeps ?_
      | with_reducible refine State.standBy_keeps ?_
      | with_reducible refine State.untried_keeps ?_
      | with_reducible refine State.reach_keeps ?_ ?_
      | with_reducible refine State.askRecord_keeps ?_
      | with_reducible refine keepsO_getD ?_ ?_
      | intro _
      | split

theorem execSpawn_keeps {a : Reg} {s : State} (h_s : Memory.wf s.mem = true) :
    KeepsR (execSpawn a s) := by
  unfold execSpawn
  repeat' first
      | with_reducible assumption
      | with_reducible refine keepsR_next ?_
      | dsimp only
      | with_reducible refine State.setMe_keeps ?_
      | with_reducible refine State.write_keeps ?_
      | with_reducible refine State.trap_keeps ?_
      | with_reducible refine State.issue_keeps ?_ ?_
      | with_reducible refine State.aligned_keeps ?_ ?_
      | with_reducible refine State.reach_keeps ?_ ?_
      | with_reducible refine State.spawnPush_keeps ?_
      | with_reducible refine State.reachRecord_keeps ?_ ?_
      | intro _
      | split

theorem State.retireAt_keeps {s : State} {t : Strand} {pa : Nat} {trc : Bool} (h_s : Memory.wf s.mem = true) :
    Memory.wf (State.retireAt s t pa trc).mem = true := by
  unfold State.retireAt
  repeat' first
      | with_reducible assumption
      | dsimp only
      | with_reducible refine State.setMe_keeps ?_
      | with_reducible refine State.decBlock_keeps ?_
      | with_reducible refine State.markAbn_keeps ?_
      | intro _
      | split

theorem State.retireBare_keeps {s : State} {t : Strand} (h_s : Memory.wf s.mem = true) :
    Memory.wf (State.retireBare s t).mem = true := by
  unfold State.retireBare
  repeat' first
      | with_reducible assumption
      | dsimp only
      | with_reducible refine State.setMe_keeps ?_
      | with_reducible refine State.markAbn_keeps ?_
      | intro _
      | split

theorem State.retire_keeps {s : State} (h_s : Memory.wf s.mem = true) :
    Memory.wf (State.retire s).mem = true := by
  unfold State.retire
  repeat' first
      | with_reducible assumption
      | dsimp only
      | with_reducible refine State.setMe_keeps ?_
      | with_reducible refine State.trap_keeps ?_
      | with_reducible refine State.issue_keeps ?_ ?_
      | with_reducible refine State.reach_keeps ?_ ?_
      | with_reducible refine State.retireAt_keeps ?_
      | with_reducible refine State.retireBare_keeps ?_
      | intro _
      | split

theorem State.trapMark_keeps {s s' : State} {n : Nat} (_h_s : Memory.wf s.mem = true) (h_s' : Memory.wf s'.mem = true) :
    Memory.wf (State.trapMark s s' n).mem = true := by
  unfold State.trapMark
  repeat' first
      | with_reducible assumption
      | dsimp only
      | with_reducible refine State.setCore_keeps ?_
      | intro _
      | split

theorem State.endTurn_keeps {s : State} {n : Nat} (h_s : Memory.wf s.mem = true) :
    Memory.wf (State.endTurn s n).mem = true := by
  unfold State.endTurn
  repeat' first
      | with_reducible assumption
      | dsimp only
      | with_reducible refine State.retire_keeps ?_
      | with_reducible refine State.trapMark_keeps ?_ ?_
      | intro _
      | split

theorem execRetire_keeps {s : State} (h_s : Memory.wf s.mem = true) :
    KeepsR (execRetire s) := by
  unfold execRetire
  repeat' first
      | with_reducible assumption
      | with_reducible refine keepsR_next ?_
      | dsimp only
      | with_reducible refine State.retire_keeps ?_

theorem execKend_keeps {s : State} (h_s : Memory.wf s.mem = true) :
    KeepsR (execKend s) := by
  unfold execKend
  repeat' first
      | with_reducible assumption
      | with_reducible refine keepsR_next ?_
      | dsimp only
      | with_reducible refine State.endStrands_keeps ?_
      | with_reducible refine State.retire_keeps ?_
      | intro _
      | split

theorem State.joinPark_keeps {s : State} {c : Core} {va : W64} {d : Reg} {b : Nat} {trc : Bool} (h_s : Memory.wf s.mem = true) :
    Memory.wf (State.joinPark s c va d b trc).mem = true := by
  unfold State.joinPark
  repeat' first
      | with_reducible assumption
      | dsimp only
      | with_reducible refine State.write_keeps ?_
      | with_reducible refine State.block_keeps ?_
      | with_reducible refine State.trap_keeps ?_
      | with_reducible refine State.reachSave_keeps ?_ ?_
      | with_reducible refine State.park_keeps ?_
      | intro _
      | split

theorem execJoin_keeps {d a : Reg} {s : State} (h_s : Memory.wf s.mem = true) :
    KeepsR (execJoin d a s) := by
  unfold execJoin
  repeat' first
      | with_reducible assumption
      | with_reducible refine keepsR_next ?_
      | dsimp only
      | with_reducible refine State.setMe_keeps ?_
      | with_reducible refine State.result_keeps ?_
      | with_reducible refine State.trap_keeps ?_
      | with_reducible refine State.issue_keeps ?_ ?_
      | with_reducible refine State.aligned_keeps ?_ ?_
      | with_reducible refine State.reach_keeps ?_ ?_
      | with_reducible refine State.joinPark_keeps ?_
      | intro _
      | split

theorem execHintsucc_keeps {s : State} (h_s : Memory.wf s.mem = true) :
    KeepsR (execHintsucc s) := by
  unfold execHintsucc
  repeat' first
      | with_reducible assumption
      | with_reducible refine keepsR_next ?_
      | dsimp only
      | with_reducible refine State.modNode_keeps ?_
      | with_reducible refine State.finish_keeps ?_
      | intro _
      | split

theorem execWaitpred_keeps {d : Reg} {s : State} (h_s : Memory.wf s.mem = true) :
    KeepsR (execWaitpred d s) := by
  unfold execWaitpred
  repeat' first
      | with_reducible assumption
      | with_reducible refine keepsR_next ?_
      | dsimp only
      | with_reducible refine State.setMe_keeps ?_
      | with_reducible refine State.result_keeps ?_
      | with_reducible refine State.issue_keeps ?_ ?_
      | intro _
      | split

theorem execWaitLimitTrap_keeps {core : Nat} {s : State} (h_s : Memory.wf s.mem = true) :
    KeepsR (execWaitLimitTrap core s) := by
  unfold execWaitLimitTrap
  repeat' first
      | with_reducible assumption
      | with_reducible refine keepsR_next ?_
      | dsimp only
      | with_reducible refine State.setCore_keeps ?_
      | with_reducible refine State.trapOn_keeps ?_
      | with_reducible refine State.trapMark_keeps ?_ ?_
      | intro _
      | split

theorem State.startStrand_keeps {s : State} {n : Nat} {r : Rec} (h_s : Memory.wf s.mem = true) :
    Memory.wf (State.startStrand s n r).mem = true := by
  unfold State.startStrand
  repeat' first
      | with_reducible assumption
      | dsimp only
      | with_reducible refine State.setCore_keeps ?_
      | with_reducible refine State.trapOn_keeps ?_
      | intro _
      | split

theorem execStrandStart_keeps {core : Nat} {s : State} (h_s : Memory.wf s.mem = true) :
    KeepsR (execStrandStart core s) := by
  unfold execStrandStart
  repeat' first
      | with_reducible assumption
      | with_reducible refine keepsR_next ?_
      | dsimp only
      | with_reducible refine State.setQuad_keeps ?_
      | with_reducible refine State.setField_keeps ?_
      | with_reducible refine State.startStrand_keeps ?_
      | intro _
      | split

theorem execQueueRefill_keeps {q : Nat} {s : State} (h_s : Memory.wf s.mem = true) :
    KeepsR (execQueueRefill q s) := by
  unfold execQueueRefill
  repeat' first
      | with_reducible assumption
      | with_reducible refine keepsR_next ?_
      | dsimp only
      | with_reducible refine State.setQuad_keeps ?_
      | with_reducible refine State.setField_keeps ?_
      | with_reducible refine State.refill_keeps ?_
      | intro _
      | split

theorem execHeldRecordPush_keeps {k : Nat} {s : State} (h_s : Memory.wf s.mem = true) :
    KeepsR (execHeldRecordPush k s) := by
  unfold execHeldRecordPush
  repeat' first
      | with_reducible assumption
      | with_reducible refine keepsR_next ?_
      | dsimp only
      | with_reducible refine State.pushQuad_keeps ?_
      | with_reducible refine State.pushQuad_keeps_ok ‹_› ?_
      | with_reducible refine keepsO_getD ?_ ?_
      | intro _
      | split

theorem execRecordPromote_keeps {field : Nat} {s : State} (h_s : Memory.wf s.mem = true) :
    KeepsR (execRecordPromote field s) := by
  unfold execRecordPromote
  repeat' first
      | with_reducible assumption
      | with_reducible refine keepsR_next ?_
      | dsimp only
      | with_reducible refine State.setField_keeps ?_

end Sys2Proof.Machine
end

