-- ==== Sys2Proof/Laws/KeepFutures.lean ====
section
/-! SUPPORT. The operations of Machine/Futures.lean keep memory in its canonical form. -/

namespace Sys2Proof.Machine

theorem State.setFut_keeps {s : State} {w : Nat} {h : W64} {f : Fut} (h_s : Memory.wf s.mem = true) :
    Memory.wf (State.setFut s w h f).mem = true := by
  unfold State.setFut
  repeat' first
      | with_reducible assumption
      | dsimp only
      | with_reducible refine State.setField_keeps ?_

theorem execFnew_keeps {d : Reg} {s : State} (h_s : Memory.wf s.mem = true) :
    KeepsR (execFnew d s) := by
  unfold execFnew
  repeat' first
      | with_reducible assumption
      | with_reducible refine keepsR_next ?_
      | dsimp only
      | with_reducible refine State.setField_keeps ?_
      | with_reducible refine State.finish_keeps ?_
      | with_reducible refine State.result_keeps ?_
      | with_reducible refine State.issue_keeps ?_ ?_
      | intro _
      | split

theorem State.releaseAll_keeps {s : State} {ids : List Nat} {out : Nat} {val : W64} {prio : Nat} (h_s : Memory.wf s.mem = true) :
    Memory.wf (State.releaseAll s ids out val prio).mem = true := by
  unfold State.releaseAll
  repeat' first
      | with_reducible assumption
      | dsimp only
      | with_reducible refine State.unpark_keeps ?_
      | with_reducible refine foldl_keeps ?_ ?_
      | intro _
      | split

theorem State.wakeFwait_keeps {s : State} {h : W64} {w : Nat} {val : Option W64} (h_s : Memory.wf s.mem = true) :
    Memory.wf (State.wakeFwait s h w val).mem = true := by
  unfold State.wakeFwait
  repeat' first
      | with_reducible assumption
      | dsimp only
      | with_reducible refine State.setCore_keeps ?_
      | with_reducible refine State.trapOn_keeps ?_
      | with_reducible refine foldl_keeps ?_ ?_
      | intro _
      | split

theorem State.futSet_keeps {s : State} {a b : Reg} {ok : Bool} (h_s : Memory.wf s.mem = true) :
    Memory.wf (State.futSet s a b ok).mem = true := by
  unfold State.futSet
  repeat' first
      | with_reducible assumption
      | dsimp only
      | with_reducible refine State.setMe_keeps ?_
      | with_reducible refine State.finish_keeps ?_
      | with_reducible refine State.trap_keeps ?_
      | with_reducible refine State.issue_keeps ?_ ?_
      | with_reducible refine State.setFut_keeps ?_
      | with_reducible refine State.releaseAll_keeps ?_
      | with_reducible refine State.wakeFwait_keeps ?_
      | intro _
      | split

theorem execFset_keeps {a b : Reg} {s : State} (h_s : Memory.wf s.mem = true) :
    KeepsR (execFset a b s) := by
  unfold execFset
  repeat' first
      | with_reducible assumption
      | with_reducible refine keepsR_next ?_
      | dsimp only
      | with_reducible refine State.futSet_keeps ?_

theorem execFsetF_keeps {a b : Reg} {s : State} (h_s : Memory.wf s.mem = true) :
    KeepsR (execFsetF a b s) := by
  unfold execFsetF
  repeat' first
      | with_reducible assumption
      | with_reducible refine keepsR_next ?_
      | dsimp only
      | with_reducible refine State.futSet_keeps ?_

theorem State.futPark_keeps {s : State} {c : Core} {h : W64} {d : Reg} (h_s : Memory.wf s.mem = true) :
    Memory.wf (State.futPark s c h d).mem = true := by
  unfold State.futPark
  repeat' first
      | with_reducible assumption
      | dsimp only
      | with_reducible refine State.block_keeps ?_
      | with_reducible refine State.trap_keeps ?_
      | with_reducible refine State.putCoreWord_keeps ?_
      | with_reducible refine State.reachSave_keeps ?_ ?_
      | with_reducible refine State.park_keeps ?_
      | with_reducible refine State.setFut_keeps ?_
      | with_reducible refine State.bind_keeps ?_
      | intro _
      | split

theorem execFget_keeps {d a : Reg} {s : State} (h_s : Memory.wf s.mem = true) :
    KeepsR (execFget d a s) := by
  unfold execFget
  repeat' first
      | with_reducible assumption
      | with_reducible refine keepsR_next ?_
      | dsimp only
      | with_reducible refine State.setMe_keeps ?_
      | with_reducible refine State.result_keeps ?_
      | with_reducible refine State.trap_keeps ?_
      | with_reducible refine State.issue_keeps ?_ ?_
      | with_reducible refine State.futPark_keeps ?_
      | intro _
      | split

theorem execFwait_keeps {d a : Reg} {s : State} (h_s : Memory.wf s.mem = true) :
    KeepsR (execFwait d a s) := by
  unfold execFwait
  repeat' first
      | with_reducible assumption
      | with_reducible refine keepsR_next ?_
      | dsimp only
      | with_reducible refine State.setMe_keeps ?_
      | with_reducible refine State.result_keeps ?_
      | with_reducible refine State.trap_keeps ?_
      | with_reducible refine State.issue_keeps ?_ ?_
      | intro _
      | split

theorem execFfree_keeps {a : Reg} {s : State} (h_s : Memory.wf s.mem = true) :
    KeepsR (execFfree a s) := by
  unfold execFfree
  repeat' first
      | with_reducible assumption
      | with_reducible refine keepsR_next ?_
      | dsimp only
      | with_reducible refine State.finish_keeps ?_
      | with_reducible refine State.trap_keeps ?_
      | with_reducible refine State.issue_keeps ?_ ?_
      | with_reducible refine State.setFut_keeps ?_
      | with_reducible refine State.releaseAll_keeps ?_
      | with_reducible refine State.wakeFwait_keeps ?_
      | intro _
      | split

theorem State.point_keeps {s : State} {c : Core} {v : W64} {k : Nat → State} (h_s : Memory.wf s.mem = true) (h_k : ∀ (a0 : Nat), Memory.wf (k a0).mem = true) :
    Memory.wf (State.point s c v k).mem = true := by
  unfold State.point
  repeat' first
      | with_reducible assumption
      | with_reducible refine h_k _
      | dsimp only
      | with_reducible refine State.trap_keeps ?_
      | intro _
      | split

theorem execBinit_keeps {a b : Reg} {s : State} (h_s : Memory.wf s.mem = true) :
    KeepsR (execBinit a b s) := by
  unfold execBinit
  repeat' first
      | with_reducible assumption
      | with_reducible refine keepsR_next ?_
      | dsimp only
      | with_reducible refine State.finish_keeps ?_
      | with_reducible refine State.trap_keeps ?_
      | with_reducible refine State.issue_keeps ?_ ?_
      | with_reducible refine State.point_keeps ?_ ?_
      | intro _
      | split

theorem State.wakeBwait_keeps {s : State} {k : Nat} {par : Bool} (h_s : Memory.wf s.mem = true) :
    Memory.wf (State.wakeBwait s k par).mem = true := by
  unfold State.wakeBwait
  repeat' first
      | with_reducible assumption
      | dsimp only
      | with_reducible refine State.setCore_keeps ?_
      | with_reducible refine foldl_keeps ?_ ?_
      | intro _
      | split

theorem execArrive_keeps {d a : Reg} {s : State} (h_s : Memory.wf s.mem = true) :
    KeepsR (execArrive d a s) := by
  unfold execArrive
  repeat' first
      | with_reducible assumption
      | with_reducible refine keepsR_next ?_
      | dsimp only
      | with_reducible refine State.setMe_keeps ?_
      | with_reducible refine State.result_keeps ?_
      | with_reducible refine State.trap_keeps ?_
      | with_reducible refine State.issue_keeps ?_ ?_
      | with_reducible refine State.point_keeps ?_ ?_
      | with_reducible refine State.wakeBwait_keeps ?_
      | intro _
      | split

theorem execBwait_keeps {d a b : Reg} {s : State} (h_s : Memory.wf s.mem = true) :
    KeepsR (execBwait d a b s) := by
  unfold execBwait
  repeat' first
      | with_reducible assumption
      | with_reducible refine keepsR_next ?_
      | dsimp only
      | with_reducible refine State.setMe_keeps ?_
      | with_reducible refine State.result_keeps ?_
      | with_reducible refine State.trap_keeps ?_
      | with_reducible refine State.issue_keeps ?_ ?_
      | with_reducible refine State.point_keeps ?_ ?_
      | intro _
      | split

end Sys2Proof.Machine
end

