-- ==== Sys2Proof/Laws/KeepEngines.lean ====
section
/-! SUPPORT. The operations of Machine/Engines.lean keep memory in its canonical form. -/

namespace Sys2Proof.Machine

theorem State.setProg_keeps {s : State} {q : Nat} {p : Prog} (h_s : Memory.wf s.mem = true) :
    Memory.wf (State.setProg s q p).mem = true := by
  unfold State.setProg
  repeat' first
      | with_reducible assumption
      | dsimp only
      | with_reducible refine State.setQueue_keeps ?_

theorem State.popCmd_keeps {s : State} {q : Nat} (h_s : Memory.wf s.mem = true) :
    Memory.wf (State.popCmd s q).mem = true := by
  unfold State.popCmd
  repeat' first
      | with_reducible assumption
      | dsimp only
      | with_reducible refine State.setQueue_keeps ?_

theorem State.mailbox_keeps {s : State} {q : Nat} {c : QCmd} {st opnd : Nat} (h_s : Memory.wf s.mem = true) :
    Memory.wf (State.mailbox s q c st opnd).mem = true := by
  unfold State.mailbox
  repeat' first
      | with_reducible assumption
      | dsimp only
      | with_reducible refine State.setQueue_keeps ?_
      | with_reducible refine State.writeAs_keeps ?_

theorem State.cmdDone_keeps {s : State} {q : Nat} {c : QCmd} {st : Nat} (h_s : Memory.wf s.mem = true) :
    Memory.wf (State.cmdDone s q c st).mem = true := by
  unfold State.cmdDone
  repeat' first
      | with_reducible assumption
      | dsimp only
      | with_reducible refine State.popCmd_keeps ?_
      | with_reducible refine State.mailbox_keeps ?_
      | intro _
      | split

theorem State.cmdTrap_keeps {s : State} {q : Nat} {c : QCmd} {st opnd : Nat} (h_s : Memory.wf s.mem = true) :
    Memory.wf (State.cmdTrap s q c st opnd).mem = true := by
  unfold State.cmdTrap
  repeat' first
      | with_reducible assumption
      | dsimp only
      | with_reducible refine State.setQueue_keeps ?_
      | with_reducible refine State.raiseEv_keeps ?_
      | with_reducible refine State.mailbox_keeps ?_

theorem State.checked_keeps {s : State} {ok : QCmd → Bool} {k : QCmd → State} (h_s : Memory.wf s.mem = true) (h_k : ∀ (a0 : QCmd), Memory.wf (k a0).mem = true) :
    Memory.wf (State.checked s ok k).mem = true := by
  unfold State.checked
  repeat' first
      | with_reducible assumption
      | with_reducible refine h_k _
      | dsimp only
      | with_reducible refine State.cmdTrap_keeps ?_
      | intro _
      | split

theorem State.restOk_keeps {s : State} {q : Nat} {c : QCmd} {a : EngAcc} {put n : Nat} {fuel : Nat} (h_s : Memory.wf s.mem = true) :
    KeepsE (State.restOk s q c a put n fuel) := by
  induction fuel generalizing s q c a put n with
  | zero =>
    simp only [State.restOk]
    repeat' first
      | with_reducible assumption
      | with_reducible refine keepsE_ok ?_
  | succ fuel ih =>
    simp only [State.restOk]
    repeat' first
      | with_reducible assumption
      | with_reducible refine ih ?_
      | with_reducible refine ih _ ?_
      | with_reducible refine ih _ _ ?_
      | with_reducible refine ih _ _ _ ?_
      | with_reducible refine ih _ _ _ _ ?_
      | with_reducible refine ih _ _ _ _ _ ?_
      | with_reducible refine keepsE_ok ?_
      | with_reducible refine keepsE_err ?_
      | dsimp only
      | with_reducible refine State.raiseGen_keeps ?_
      | with_reducible refine State.refill_keeps ?_
      | with_reducible refine State.askWalk_keeps ?_
      | intro _
      | split

theorem State.restOk_keeps_ok {s : State} {q : Nat} {c : QCmd} {a : EngAcc} {put n : Nat} {fuel : Nat} {t' : State} (eq_ : State.restOk s q c a put n fuel = .ok t') (h_s : Memory.wf s.mem = true) :
    Memory.wf t'.mem = true := by
  have h : KeepsE (State.restOk s q c a put n fuel) := State.restOk_keeps h_s
  rw [eq_] at h
  exact h

theorem State.restOk_keeps_err {s : State} {q : Nat} {c : QCmd} {a : EngAcc} {put n : Nat} {fuel : Nat} {t' : State} (eq_ : State.restOk s q c a put n fuel = .error t') (h_s : Memory.wf s.mem = true) :
    Memory.wf t'.mem = true := by
  have h : KeepsE (State.restOk s q c a put n fuel) := State.restOk_keeps h_s
  rw [eq_] at h
  exact h

theorem State.engRead_keeps {s : State} {q : Nat} {c : QCmd} {a : EngAcc} {n : Nat} (h_s : Memory.wf s.mem = true) :
    KeepsEP (State.engRead s q c a n) := by
  unfold State.engRead
  repeat' first
      | with_reducible assumption
      | with_reducible refine keepsEP_ok ?_
      | with_reducible refine keepsEP_err ?_
      | dsimp only
      | with_reducible refine State.raiseGen_keeps ?_
      | with_reducible refine State.askWalk_keeps ?_
      | with_reducible refine State.enterView_keeps ?_
      | with_reducible refine State.setProg_keeps ?_
      | intro _
      | split

theorem State.engRead_keeps_ok {s : State} {q : Nat} {c : QCmd} {a : EngAcc} {n : Nat} {t' : State} {b' : _} (eq_ : State.engRead s q c a n = .ok (t', b')) (h_s : Memory.wf s.mem = true) :
    Memory.wf t'.mem = true := by
  have h : KeepsEP (State.engRead s q c a n) := State.engRead_keeps h_s
  rw [eq_] at h
  exact h

theorem State.engRead_keeps_err {s : State} {q : Nat} {c : QCmd} {a : EngAcc} {n : Nat} {t' : State} (eq_ : State.engRead s q c a n = .error t') (h_s : Memory.wf s.mem = true) :
    Memory.wf t'.mem = true := by
  have h : KeepsEP (State.engRead s q c a n) := State.engRead_keeps h_s
  rw [eq_] at h
  exact h

theorem State.engPieces_keeps {s : State} {q : Nat} {c : QCmd} {a : EngAcc} {bs : List (Byte × Bool)} {tag : Nat} {lo hi : Bool} {home : Option Nat} {fuel : Nat} (h_s : Memory.wf s.mem = true) :
    KeepsE (State.engPieces s q c a bs tag lo hi home fuel) := by
  induction fuel generalizing s q c a bs tag lo hi home with
  | zero =>
    simp only [State.engPieces]
    repeat' first
      | with_reducible assumption
      | with_reducible refine keepsE_ok ?_
      | with_reducible refine keepsE_err ?_
  | succ fuel ih =>
    simp only [State.engPieces]
    repeat' first
      | with_reducible assumption
      | with_reducible refine ih ?_
      | with_reducible refine ih _ ?_
      | with_reducible refine ih _ _ ?_
      | with_reducible refine ih _ _ _ ?_
      | with_reducible refine ih _ _ _ _ ?_
      | with_reducible refine ih _ _ _ _ _ ?_
      | with_reducible refine keepsE_ok ?_
      | with_reducible refine keepsE_err ?_
      | dsimp only
      | with_reducible refine State.raiseEv_keeps ?_
      | with_reducible refine State.raiseGen_keeps ?_
      | with_reducible refine State.write_keeps ?_
      | with_reducible refine State.refill_keeps ?_
      | with_reducible refine State.askWalk_keeps ?_
      | with_reducible refine State.enterView_keeps ?_
      | with_reducible refine State.setProg_keeps ?_
      | intro _
      | split

theorem State.engPieces_keeps_ok {s : State} {q : Nat} {c : QCmd} {a : EngAcc} {bs : List (Byte × Bool)} {tag : Nat} {lo hi : Bool} {home : Option Nat} {fuel : Nat} {t' : State} (eq_ : State.engPieces s q c a bs tag lo hi home fuel = .ok t') (h_s : Memory.wf s.mem = true) :
    Memory.wf t'.mem = true := by
  have h : KeepsE (State.engPieces s q c a bs tag lo hi home fuel) := State.engPieces_keeps h_s
  rw [eq_] at h
  exact h

theorem State.engPieces_keeps_err {s : State} {q : Nat} {c : QCmd} {a : EngAcc} {bs : List (Byte × Bool)} {tag : Nat} {lo hi : Bool} {home : Option Nat} {fuel : Nat} {t' : State} (eq_ : State.engPieces s q c a bs tag lo hi home fuel = .error t') (h_s : Memory.wf s.mem = true) :
    Memory.wf t'.mem = true := by
  have h : KeepsE (State.engPieces s q c a bs tag lo hi home fuel) := State.engPieces_keeps h_s
  rw [eq_] at h
  exact h

theorem State.engWriteHalf_keeps {s : State} {q : Nat} {c : QCmd} {a : EngAcc} {bs : List (Byte × Bool)} {tag : Nat} {lo hi : Bool} (h_s : Memory.wf s.mem = true) :
    KeepsE (State.engWriteHalf s q c a bs tag lo hi) := by
  unfold State.engWriteHalf
  repeat' first
      | with_reducible assumption
      | with_reducible refine keepsE_ok ?_
      | with_reducible refine keepsE_err ?_
      | dsimp only
      | with_reducible refine State.setProg_keeps ?_
      | with_reducible refine State.restOk_keeps ?_
      | with_reducible refine State.restOk_keeps_ok ‹_› ?_
      | with_reducible refine State.restOk_keeps_err ‹_› ?_
      | with_reducible refine State.engPieces_keeps ?_
      | with_reducible refine State.engPieces_keeps_ok ‹_› ?_
      | with_reducible refine State.engPieces_keeps_err ‹_› ?_
      | intro _
      | split

theorem State.engWriteHalf_keeps_ok {s : State} {q : Nat} {c : QCmd} {a : EngAcc} {bs : List (Byte × Bool)} {tag : Nat} {lo hi : Bool} {t' : State} (eq_ : State.engWriteHalf s q c a bs tag lo hi = .ok t') (h_s : Memory.wf s.mem = true) :
    Memory.wf t'.mem = true := by
  have h : KeepsE (State.engWriteHalf s q c a bs tag lo hi) := State.engWriteHalf_keeps h_s
  rw [eq_] at h
  exact h

theorem State.engWriteHalf_keeps_err {s : State} {q : Nat} {c : QCmd} {a : EngAcc} {bs : List (Byte × Bool)} {tag : Nat} {lo hi : Bool} {t' : State} (eq_ : State.engWriteHalf s q c a bs tag lo hi = .error t') (h_s : Memory.wf s.mem = true) :
    Memory.wf t'.mem = true := by
  have h : KeepsE (State.engWriteHalf s q c a bs tag lo hi) := State.engWriteHalf_keeps h_s
  rw [eq_] at h
  exact h

theorem State.engWrite_keeps {s : State} {q : Nat} {c : QCmd} {a : EngAcc} {bs : List (Byte × Bool)} {tag : Nat} (h_s : Memory.wf s.mem = true) :
    KeepsE (State.engWrite s q c a bs tag) := by
  unfold State.engWrite
  repeat' first
      | with_reducible assumption
      | with_reducible refine keepsE_ok ?_
      | with_reducible refine keepsE_err ?_
      | dsimp only
      | with_reducible refine State.engWriteHalf_keeps ?_

theorem State.engWrite_keeps_ok {s : State} {q : Nat} {c : QCmd} {a : EngAcc} {bs : List (Byte × Bool)} {tag : Nat} {t' : State} (eq_ : State.engWrite s q c a bs tag = .ok t') (h_s : Memory.wf s.mem = true) :
    Memory.wf t'.mem = true := by
  have h : KeepsE (State.engWrite s q c a bs tag) := State.engWrite_keeps h_s
  rw [eq_] at h
  exact h

theorem State.engWrite_keeps_err {s : State} {q : Nat} {c : QCmd} {a : EngAcc} {bs : List (Byte × Bool)} {tag : Nat} {t' : State} (eq_ : State.engWrite s q c a bs tag = .error t') (h_s : Memory.wf s.mem = true) :
    Memory.wf t'.mem = true := by
  have h : KeepsE (State.engWrite s q c a bs tag) := State.engWrite_keeps h_s
  rw [eq_] at h
  exact h

theorem execEnq_keeps {a b : Reg} {sc : BitVec 3} {s : State} (h_s : Memory.wf s.mem = true) :
    KeepsR (execEnq a b sc s) := by
  unfold execEnq
  repeat' first
      | with_reducible assumption
      | with_reducible refine keepsR_next ?_
      | dsimp only
      | with_reducible refine State.setMe_keeps ?_
      | with_reducible refine State.setQueue_keeps ?_
      | with_reducible refine State.stopCore_keeps ?_
      | with_reducible refine State.finish_keeps ?_
      | with_reducible refine State.block_keeps ?_
      | with_reducible refine State.trap_keeps ?_
      | with_reducible refine State.illegal_keeps ?_
      | with_reducible refine State.issue_keeps ?_ ?_
      | with_reducible refine State.reach_keeps ?_ ?_
      | intro _
      | split

end Sys2Proof.Machine
end

