-- ==== Sys2Proof/Laws/KeepVector.lean ====
section
/-! SUPPORT. The operations of Machine/Vector.lean keep memory in its canonical form. -/

namespace Sys2Proof.Machine

theorem State.vIssue_keeps {s : State} {vop : Nat} {i : Instr} {a b : Reg} {wa wb : Bool} {fmt : BitVec 4} {flg : BitVec 3} (h_s : Memory.wf s.mem = true) :
    Memory.wf (State.vIssue s vop i a b wa wb fmt flg).mem = true := by
  unfold State.vIssue
  repeat' first
      | with_reducible assumption
      | dsimp only
      | with_reducible refine State.setMe_keeps ?_
      | with_reducible refine State.finish_keeps ?_
      | with_reducible refine State.trap_keeps ?_
      | with_reducible refine State.illegal_keeps ?_
      | with_reducible refine State.issue_keeps ?_ ?_
      | intro _
      | split

theorem execVadd_keeps {a b : Reg} {wa wb : Bool} {fmt : BitVec 4} {flg : BitVec 3} {s : State} (h_s : Memory.wf s.mem = true) :
    KeepsR (execVadd a b wa wb fmt flg s) := by
  unfold execVadd
  repeat' first
      | with_reducible assumption
      | with_reducible refine keepsR_next ?_
      | dsimp only
      | with_reducible refine State.vIssue_keeps ?_

theorem execVsub_keeps {a b : Reg} {wa wb : Bool} {fmt : BitVec 4} {flg : BitVec 3} {s : State} (h_s : Memory.wf s.mem = true) :
    KeepsR (execVsub a b wa wb fmt flg s) := by
  unfold execVsub
  repeat' first
      | with_reducible assumption
      | with_reducible refine keepsR_next ?_
      | dsimp only
      | with_reducible refine State.vIssue_keeps ?_

theorem execVmul_keeps {a b : Reg} {wa wb : Bool} {fmt : BitVec 4} {flg : BitVec 3} {s : State} (h_s : Memory.wf s.mem = true) :
    KeepsR (execVmul a b wa wb fmt flg s) := by
  unfold execVmul
  repeat' first
      | with_reducible assumption
      | with_reducible refine keepsR_next ?_
      | dsimp only
      | with_reducible refine State.vIssue_keeps ?_

theorem execVfma_keeps {a b : Reg} {wa wb : Bool} {fmt : BitVec 4} {flg : BitVec 3} {s : State} (h_s : Memory.wf s.mem = true) :
    KeepsR (execVfma a b wa wb fmt flg s) := by
  unfold execVfma
  repeat' first
      | with_reducible assumption
      | with_reducible refine keepsR_next ?_
      | dsimp only
      | with_reducible refine State.vIssue_keeps ?_

theorem execVmin_keeps {a b : Reg} {wa wb : Bool} {fmt : BitVec 4} {s : State} (h_s : Memory.wf s.mem = true) :
    KeepsR (execVmin a b wa wb fmt s) := by
  unfold execVmin
  repeat' first
      | with_reducible assumption
      | with_reducible refine keepsR_next ?_
      | dsimp only
      | with_reducible refine State.vIssue_keeps ?_

theorem execVmax_keeps {a b : Reg} {wa wb : Bool} {fmt : BitVec 4} {s : State} (h_s : Memory.wf s.mem = true) :
    KeepsR (execVmax a b wa wb fmt s) := by
  unfold execVmax
  repeat' first
      | with_reducible assumption
      | with_reducible refine keepsR_next ?_
      | dsimp only
      | with_reducible refine State.vIssue_keeps ?_

theorem execVabs_keeps {a b : Reg} {wa wb : Bool} {fmt : BitVec 4} {s : State} (h_s : Memory.wf s.mem = true) :
    KeepsR (execVabs a b wa wb fmt s) := by
  unfold execVabs
  repeat' first
      | with_reducible assumption
      | with_reducible refine keepsR_next ?_
      | dsimp only
      | with_reducible refine State.vIssue_keeps ?_

theorem execVneg_keeps {a b : Reg} {wa wb : Bool} {fmt : BitVec 4} {s : State} (h_s : Memory.wf s.mem = true) :
    KeepsR (execVneg a b wa wb fmt s) := by
  unfold execVneg
  repeat' first
      | with_reducible assumption
      | with_reducible refine keepsR_next ?_
      | dsimp only
      | with_reducible refine State.vIssue_keeps ?_

theorem execVrcp_keeps {a b : Reg} {wa wb : Bool} {fmt : BitVec 4} {flg : BitVec 3} {s : State} (h_s : Memory.wf s.mem = true) :
    KeepsR (execVrcp a b wa wb fmt flg s) := by
  unfold execVrcp
  repeat' first
      | with_reducible assumption
      | with_reducible refine keepsR_next ?_
      | dsimp only
      | with_reducible refine State.vIssue_keeps ?_

theorem execVrsq_keeps {a b : Reg} {wa wb : Bool} {fmt : BitVec 4} {flg : BitVec 3} {s : State} (h_s : Memory.wf s.mem = true) :
    KeepsR (execVrsq a b wa wb fmt flg s) := by
  unfold execVrsq
  repeat' first
      | with_reducible assumption
      | with_reducible refine keepsR_next ?_
      | dsimp only
      | with_reducible refine State.vIssue_keeps ?_

theorem execVexp_keeps {a b : Reg} {wa wb : Bool} {fmt : BitVec 4} {flg : BitVec 3} {s : State} (h_s : Memory.wf s.mem = true) :
    KeepsR (execVexp a b wa wb fmt flg s) := by
  unfold execVexp
  repeat' first
      | with_reducible assumption
      | with_reducible refine keepsR_next ?_
      | dsimp only
      | with_reducible refine State.vIssue_keeps ?_

theorem execVlog2_keeps {a b : Reg} {wa wb : Bool} {fmt : BitVec 4} {flg : BitVec 3} {s : State} (h_s : Memory.wf s.mem = true) :
    KeepsR (execVlog2 a b wa wb fmt flg s) := by
  unfold execVlog2
  repeat' first
      | with_reducible assumption
      | with_reducible refine keepsR_next ?_
      | dsimp only
      | with_reducible refine State.vIssue_keeps ?_

theorem execVtanh_keeps {a b : Reg} {wa wb : Bool} {fmt : BitVec 4} {flg : BitVec 3} {s : State} (h_s : Memory.wf s.mem = true) :
    KeepsR (execVtanh a b wa wb fmt flg s) := by
  unfold execVtanh
  repeat' first
      | with_reducible assumption
      | with_reducible refine keepsR_next ?_
      | dsimp only
      | with_reducible refine State.vIssue_keeps ?_

theorem execVcvt_keeps {a b : Reg} {wa wb : Bool} {fmt : BitVec 4} {flg : BitVec 3} {s : State} (h_s : Memory.wf s.mem = true) :
    KeepsR (execVcvt a b wa wb fmt flg s) := by
  unfold execVcvt
  repeat' first
      | with_reducible assumption
      | with_reducible refine keepsR_next ?_
      | dsimp only
      | with_reducible refine State.vIssue_keeps ?_

theorem execVcvtS_keeps {a b : Reg} {wa wb : Bool} {fmt : BitVec 4} {flg : BitVec 3} {s : State} (h_s : Memory.wf s.mem = true) :
    KeepsR (execVcvtS a b wa wb fmt flg s) := by
  unfold execVcvtS
  repeat' first
      | with_reducible assumption
      | with_reducible refine keepsR_next ?_
      | dsimp only
      | with_reducible refine State.vIssue_keeps ?_

theorem execVcmp_keeps {a b : Reg} {wa wb : Bool} {fmt : BitVec 4} {flg : BitVec 3} {s : State} (h_s : Memory.wf s.mem = true) :
    KeepsR (execVcmp a b wa wb fmt flg s) := by
  unfold execVcmp
  repeat' first
      | with_reducible assumption
      | with_reducible refine keepsR_next ?_
      | dsimp only
      | with_reducible refine State.vIssue_keeps ?_

theorem execVsel_keeps {a b : Reg} {wa wb : Bool} {fmt : BitVec 4} {s : State} (h_s : Memory.wf s.mem = true) :
    KeepsR (execVsel a b wa wb fmt s) := by
  unfold execVsel
  repeat' first
      | with_reducible assumption
      | with_reducible refine keepsR_next ?_
      | dsimp only
      | with_reducible refine State.vIssue_keeps ?_

theorem execVshuf_keeps {a b : Reg} {wa wb : Bool} {fmt : BitVec 4} {s : State} (h_s : Memory.wf s.mem = true) :
    KeepsR (execVshuf a b wa wb fmt s) := by
  unfold execVshuf
  repeat' first
      | with_reducible assumption
      | with_reducible refine keepsR_next ?_
      | dsimp only
      | with_reducible refine State.vIssue_keeps ?_

theorem execVfill_keeps {a b : Reg} {wa wb : Bool} {fmt : BitVec 4} {s : State} (h_s : Memory.wf s.mem = true) :
    KeepsR (execVfill a b wa wb fmt s) := by
  unfold execVfill
  repeat' first
      | with_reducible assumption
      | with_reducible refine keepsR_next ?_
      | dsimp only
      | with_reducible refine State.vIssue_keeps ?_

theorem execVred_keeps {a b : Reg} {wa wb : Bool} {fmt : BitVec 4} {s : State} (h_s : Memory.wf s.mem = true) :
    KeepsR (execVred a b wa wb fmt s) := by
  unfold execVred
  repeat' first
      | with_reducible assumption
      | with_reducible refine keepsR_next ?_
      | dsimp only
      | with_reducible refine State.vIssue_keeps ?_

theorem execVscan_keeps {a b : Reg} {wa wb : Bool} {fmt : BitVec 4} {s : State} (h_s : Memory.wf s.mem = true) :
    KeepsR (execVscan a b wa wb fmt s) := by
  unfold execVscan
  repeat' first
      | with_reducible assumption
      | with_reducible refine keepsR_next ?_
      | dsimp only
      | with_reducible refine State.vIssue_keeps ?_

theorem execVdot_keeps {a b : Reg} {wa wb : Bool} {fmt : BitVec 4} {s : State} (h_s : Memory.wf s.mem = true) :
    KeepsR (execVdot a b wa wb fmt s) := by
  unfold execVdot
  repeat' first
      | with_reducible assumption
      | with_reducible refine keepsR_next ?_
      | dsimp only
      | with_reducible refine State.vIssue_keeps ?_

theorem State.vStore_keeps {s : State} {n pa : Nat} {bs : List (Byte × Bool)} (h_s : Memory.wf s.mem = true) :
    Memory.wf (State.vStore s n pa bs).mem = true := by
  unfold State.vStore
  repeat' first
      | with_reducible assumption
      | dsimp only
      | with_reducible refine State.setCore_keeps ?_
      | with_reducible refine State.write_keeps ?_

theorem State.vWrite_keeps {s : State} {n t base q v : Nat} {p : Bool} (h_s : Memory.wf s.mem = true) :
    KeepsV (State.vWrite s n t base q v p) := by
  unfold State.vWrite
  repeat' first
      | with_reducible assumption
      | with_reducible refine keepsV_ok ?_
      | with_reducible refine keepsV_err
      | dsimp only
      | with_reducible refine State.vStore_keeps ?_
      | intro _
      | split

theorem State.vWrite_keeps_ok {s : State} {n t base q v : Nat} {p : Bool} {t' : State} (eq_ : State.vWrite s n t base q v p = .ok t') (h_s : Memory.wf s.mem = true) :
    Memory.wf t'.mem = true := by
  have h : KeepsV (State.vWrite s n t base q v p) := State.vWrite_keeps h_s
  rw [eq_] at h
  exact h

theorem State.vOut_keeps {s : State} {n : Nat} {v : VCmd} {p x : Nat} {px : Bool} (h_s : Memory.wf s.mem = true) :
    KeepsVP (State.vOut s n v p x px) := by
  unfold State.vOut
  repeat' first
      | with_reducible assumption
      | with_reducible refine keepsVP_ok ?_
      | with_reducible refine keepsVP_err
      | dsimp only
      | with_reducible refine State.vWrite_keeps ?_
      | with_reducible refine State.vWrite_keeps_ok ‹_› ?_
      | intro _
      | split

theorem State.vOut_keeps_ok {s : State} {n : Nat} {v : VCmd} {p x : Nat} {px : Bool} {t' : State} {b' : _} (eq_ : State.vOut s n v p x px = .ok (t', b')) (h_s : Memory.wf s.mem = true) :
    Memory.wf t'.mem = true := by
  have h : KeepsVP (State.vOut s n v p x px) := State.vOut_keeps h_s
  rw [eq_] at h
  exact h

theorem State.vElemSel_keeps {s : State} {n : Nat} {v : VCmd} {p : Nat} (h_s : Memory.wf s.mem = true) :
    KeepsVP (State.vElemSel s n v p) := by
  unfold State.vElemSel
  repeat' first
      | with_reducible assumption
      | with_reducible refine keepsVP_ok ?_
      | with_reducible refine keepsVP_err
      | dsimp only
      | with_reducible refine State.vOut_keeps ?_
      | with_reducible refine State.vOut_keeps_ok ‹_› ?_
      | intro _
      | split

theorem State.vElemSel_keeps_ok {s : State} {n : Nat} {v : VCmd} {p : Nat} {t' : State} {b' : _} (eq_ : State.vElemSel s n v p = .ok (t', b')) (h_s : Memory.wf s.mem = true) :
    Memory.wf t'.mem = true := by
  have h : KeepsVP (State.vElemSel s n v p) := State.vElemSel_keeps h_s
  rw [eq_] at h
  exact h

theorem State.vElemShuf_keeps {s : State} {n : Nat} {v : VCmd} {p : Nat} (h_s : Memory.wf s.mem = true) :
    KeepsVP (State.vElemShuf s n v p) := by
  unfold State.vElemShuf
  repeat' first
      | with_reducible assumption
      | with_reducible refine keepsVP_ok ?_
      | with_reducible refine keepsVP_err
      | dsimp only
      | with_reducible refine State.vOut_keeps ?_
      | with_reducible refine State.vOut_keeps_ok ‹_› ?_
      | intro _
      | split

theorem State.vElemShuf_keeps_ok {s : State} {n : Nat} {v : VCmd} {p : Nat} {t' : State} {b' : _} (eq_ : State.vElemShuf s n v p = .ok (t', b')) (h_s : Memory.wf s.mem = true) :
    Memory.wf t'.mem = true := by
  have h : KeepsVP (State.vElemShuf s n v p) := State.vElemShuf_keeps h_s
  rw [eq_] at h
  exact h

theorem State.vElemCvt_keeps {s : State} {n : Nat} {v : VCmd} {p : Nat} (h_s : Memory.wf s.mem = true) :
    KeepsVP (State.vElemCvt s n v p) := by
  unfold State.vElemCvt
  repeat' first
      | with_reducible assumption
      | with_reducible refine keepsVP_ok ?_
      | with_reducible refine keepsVP_err
      | dsimp only
      | with_reducible refine State.setCore_keeps ?_
      | with_reducible refine State.vOut_keeps ?_
      | with_reducible refine State.vOut_keeps_ok ‹_› ?_
      | intro _
      | split

theorem State.vElemCvt_keeps_ok {s : State} {n : Nat} {v : VCmd} {p : Nat} {t' : State} {b' : _} (eq_ : State.vElemCvt s n v p = .ok (t', b')) (h_s : Memory.wf s.mem = true) :
    Memory.wf t'.mem = true := by
  have h : KeepsVP (State.vElemCvt s n v p) := State.vElemCvt_keeps h_s
  rw [eq_] at h
  exact h

theorem State.vElemCmp_keeps {s : State} {n : Nat} {v : VCmd} {p : Nat} (h_s : Memory.wf s.mem = true) :
    KeepsVP (State.vElemCmp s n v p) := by
  unfold State.vElemCmp
  repeat' first
      | with_reducible assumption
      | with_reducible refine keepsVP_ok ?_
      | with_reducible refine keepsVP_err
      | dsimp only
      | with_reducible refine State.vOut_keeps ?_
      | with_reducible refine State.vOut_keeps_ok ‹_› ?_
      | intro _
      | split

theorem State.vElemCmp_keeps_ok {s : State} {n : Nat} {v : VCmd} {p : Nat} {t' : State} {b' : _} (eq_ : State.vElemCmp s n v p = .ok (t', b')) (h_s : Memory.wf s.mem = true) :
    Memory.wf t'.mem = true := by
  have h : KeepsVP (State.vElemCmp s n v p) := State.vElemCmp_keeps h_s
  rw [eq_] at h
  exact h

theorem State.vElemSum_keeps {s : State} {n : Nat} {v : VCmd} {p : Nat} (h_s : Memory.wf s.mem = true) :
    KeepsVP (State.vElemSum s n v p) := by
  unfold State.vElemSum
  repeat' first
      | with_reducible assumption
      | with_reducible refine keepsVP_ok ?_
      | with_reducible refine keepsVP_err
      | dsimp only
      | with_reducible refine State.vOut_keeps ?_
      | with_reducible refine State.vOut_keeps_ok ‹_› ?_
      | intro _
      | split

theorem State.vElemSum_keeps_ok {s : State} {n : Nat} {v : VCmd} {p : Nat} {t' : State} {b' : _} (eq_ : State.vElemSum s n v p = .ok (t', b')) (h_s : Memory.wf s.mem = true) :
    Memory.wf t'.mem = true := by
  have h : KeepsVP (State.vElemSum s n v p) := State.vElemSum_keeps h_s
  rw [eq_] at h
  exact h

theorem State.vElemArith_keeps {s : State} {n : Nat} {v : VCmd} {p : Nat} (h_s : Memory.wf s.mem = true) :
    KeepsVP (State.vElemArith s n v p) := by
  unfold State.vElemArith
  repeat' first
      | with_reducible assumption
      | with_reducible refine keepsVP_ok ?_
      | with_reducible refine keepsVP_err
      | dsimp only
      | with_reducible refine State.vOut_keeps ?_
      | with_reducible refine State.vOut_keeps_ok ‹_› ?_
      | intro _
      | split

theorem State.vElemArith_keeps_ok {s : State} {n : Nat} {v : VCmd} {p : Nat} {t' : State} {b' : _} (eq_ : State.vElemArith s n v p = .ok (t', b')) (h_s : Memory.wf s.mem = true) :
    Memory.wf t'.mem = true := by
  have h : KeepsVP (State.vElemArith s n v p) := State.vElemArith_keeps h_s
  rw [eq_] at h
  exact h

theorem State.vElem_keeps {s : State} {n : Nat} {v : VCmd} {p : Nat} (h_s : Memory.wf s.mem = true) :
    KeepsVP (State.vElem s n v p) := by
  unfold State.vElem
  repeat' first
      | with_reducible assumption
      | with_reducible refine keepsVP_ok ?_
      | with_reducible refine keepsVP_err
      | dsimp only
      | with_reducible refine State.vOut_keeps ?_
      | with_reducible refine State.vOut_keeps_ok ‹_› ?_
      | with_reducible refine State.vElemSel_keeps ?_
      | with_reducible refine State.vElemSel_keeps_ok ‹_› ?_
      | with_reducible refine State.vElemShuf_keeps ?_
      | with_reducible refine State.vElemShuf_keeps_ok ‹_› ?_
      | with_reducible refine State.vElemCvt_keeps ?_
      | with_reducible refine State.vElemCvt_keeps_ok ‹_› ?_
      | with_reducible refine State.vElemCmp_keeps ?_
      | with_reducible refine State.vElemCmp_keeps_ok ‹_› ?_
      | with_reducible refine State.vElemSum_keeps ?_
      | with_reducible refine State.vElemSum_keeps_ok ‹_› ?_
      | with_reducible refine State.vElemArith_keeps ?_
      | with_reducible refine State.vElemArith_keeps_ok ‹_› ?_
      | intro _
      | split

theorem State.vElem_keeps_ok {s : State} {n : Nat} {v : VCmd} {p : Nat} {t' : State} {b' : _} (eq_ : State.vElem s n v p = .ok (t', b')) (h_s : Memory.wf s.mem = true) :
    Memory.wf t'.mem = true := by
  have h : KeepsVP (State.vElem s n v p) := State.vElem_keeps h_s
  rw [eq_] at h
  exact h

theorem State.vHold_keeps {s : State} {n : Nat} {v : VCmd} {f : VFault} (h_s : Memory.wf s.mem = true) :
    Memory.wf (State.vHold s n v f).mem = true := by
  unfold State.vHold
  repeat' first
      | with_reducible assumption
      | dsimp only
      | with_reducible refine State.setCore_keeps ?_
      | with_reducible refine State.holdFault_keeps ?_

theorem State.vDone_keeps {s : State} {n : Nat} (h_s : Memory.wf s.mem = true) :
    Memory.wf (State.vDone s n).mem = true := by
  unfold State.vDone
  repeat' first
      | with_reducible assumption
      | dsimp only
      | with_reducible refine State.setCore_keeps ?_

theorem State.vEnd_keeps {s : State} {n : Nat} {v : VCmd} (h_s : Memory.wf s.mem = true) :
    Memory.wf (State.vEnd s n v).mem = true := by
  unfold State.vEnd
  repeat' first
      | with_reducible assumption
      | dsimp only
      | with_reducible refine State.vWrite_keeps ?_
      | with_reducible refine State.vWrite_keeps_ok ‹_› ?_
      | with_reducible refine State.vHold_keeps ?_
      | with_reducible refine State.vDone_keeps ?_
      | intro _
      | split

theorem State.vRun_keeps {s : State} {n : Nat} {v : VCmd} {fuel : Nat} (h_s : Memory.wf s.mem = true) :
    Memory.wf (State.vRun s n v fuel).mem = true := by
  induction fuel generalizing s n v with
  | zero =>
    simp only [State.vRun]
    repeat' first
      | with_reducible assumption
      | dsimp only
      | with_reducible refine State.setCore_keeps ?_
      | with_reducible refine State.vElem_keeps ?_
      | with_reducible refine State.vElem_keeps_ok ‹_› ?_
      | with_reducible refine State.vHold_keeps ?_
      | with_reducible refine State.vEnd_keeps ?_
      | intro _
      | split
  | succ fuel ih =>
    simp only [State.vRun]
    repeat' first
      | with_reducible assumption
      | with_reducible refine ih ?_
      | with_reducible refine ih _ ?_
      | with_reducible refine ih _ _ ?_
      | with_reducible refine ih _ _ _ ?_
      | with_reducible refine ih _ _ _ _ ?_
      | with_reducible refine ih _ _ _ _ _ ?_
      | dsimp only
      | with_reducible refine State.setCore_keeps ?_
      | with_reducible refine State.vElem_keeps ?_
      | with_reducible refine State.vElem_keeps_ok ‹_› ?_
      | with_reducible refine State.vHold_keeps ?_
      | with_reducible refine State.vEnd_keeps ?_
      | intro _
      | split

theorem execVectorChunk_keeps {core : Nat} {s : State} (h_s : Memory.wf s.mem = true) :
    KeepsR (execVectorChunk core s) := by
  unfold execVectorChunk
  repeat' first
      | with_reducible assumption
      | with_reducible refine keepsR_next ?_
      | dsimp only
      | with_reducible refine State.grain_keeps ?_
      | with_reducible refine State.grain_keeps_eq ‹_› ?_
      | with_reducible refine State.vRun_keeps ?_
      | intro _
      | split

theorem execVbusy_keeps {d : Reg} {s : State} (h_s : Memory.wf s.mem = true) :
    KeepsR (execVbusy d s) := by
  unfold execVbusy
  repeat' first
      | with_reducible assumption
      | with_reducible refine keepsR_next ?_
      | dsimp only
      | with_reducible refine State.result_keeps ?_
      | with_reducible refine State.issue_keeps ?_ ?_
      | intro _

theorem execVfence_keeps {s : State} (h_s : Memory.wf s.mem = true) :
    KeepsR (execVfence s) := by
  unfold execVfence
  repeat' first
      | with_reducible assumption
      | with_reducible refine keepsR_next ?_
      | dsimp only
      | with_reducible refine State.finish_keeps ?_
      | with_reducible refine State.block_keeps ?_
      | with_reducible refine State.issue_keeps ?_ ?_
      | intro _
      | split

end Sys2Proof.Machine
end

