-- ==== Sys2Proof/Laws/KeepMatrix.lean ====
section
/-! SUPPORT. The operations of Machine/Matrix.lean keep memory in its canonical form. -/

namespace Sys2Proof.Machine

theorem State.setMCore_keeps {s : State} {q : Nat} {c : Core} (h_s : Memory.wf s.mem = true) :
    Memory.wf (State.setMCore s q c).mem = true := by
  unfold State.setMCore
  repeat' first
      | with_reducible assumption
      | dsimp only
      | with_reducible refine State.setCore_keeps ?_

theorem State.walkRun_keeps {s : State} {q : Nat} {c : QCmd} {act : Nat → Run → Except State State} (h_s : Memory.wf s.mem = true) (h_act : ∀ (a0 : Nat) (a1 : Run), KeepsE (act a0 a1)) :
    Memory.wf (State.walkRun s q c act).mem = true := by
  unfold State.walkRun
  repeat' first
      | with_reducible assumption
      | with_reducible refine keepsE_elim_err ‹_› (h_act _ _ )
      | with_reducible refine keepsE_elim_ok ‹_› (h_act _ _ )
      | with_reducible refine h_act _ _
      | dsimp only
      | with_reducible refine State.setProg_keeps ?_
      | with_reducible refine State.cmdDone_keeps ?_
      | with_reducible refine State.setMCore_keeps ?_
      | intro _
      | split

theorem execMzero_keeps {_c : Cmd} {s : State} (h_s : Memory.wf s.mem = true) :
    KeepsR (execMzero _c s) := by
  unfold execMzero
  repeat' first
      | with_reducible assumption
      | with_reducible refine keepsR_next ?_
      | dsimp only
      | with_reducible refine State.cmdDone_keeps ?_
      | with_reducible refine State.checked_keeps ?_ ?_
      | with_reducible refine State.setMCore_keeps ?_
      | intro _
      | split

theorem execMld_keeps {_c : Cmd} {s : State} (h_s : Memory.wf s.mem = true) :
    KeepsR (execMld _c s) := by
  unfold execMld
  repeat' first
      | with_reducible assumption
      | with_reducible refine keepsE_ok ?_
      | with_reducible refine keepsE_err ?_
      | with_reducible refine keepsE_elim_ok ‹_› ?_
      | with_reducible refine keepsE_elim_err ‹_› ?_
      | with_reducible refine keepsR_next ?_
      | dsimp only
      | with_reducible refine State.setProg_keeps ?_
      | with_reducible refine State.checked_keeps ?_ ?_
      | with_reducible refine State.engRead_keeps ?_
      | with_reducible refine State.engRead_keeps_ok ‹_› ?_
      | with_reducible refine State.engRead_keeps_err ‹_› ?_
      | with_reducible refine State.setMCore_keeps ?_
      | with_reducible refine State.walkRun_keeps ?_ ?_
      | intro _
      | split

theorem execMst_keeps {_c : Cmd} {s : State} (h_s : Memory.wf s.mem = true) :
    KeepsR (execMst _c s) := by
  unfold execMst
  repeat' first
      | with_reducible assumption
      | with_reducible refine keepsE_ok ?_
      | with_reducible refine keepsE_err ?_
      | with_reducible refine keepsE_elim_ok ‹_› ?_
      | with_reducible refine keepsE_elim_err ‹_› ?_
      | with_reducible refine keepsR_next ?_
      | dsimp only
      | with_reducible refine State.checked_keeps ?_ ?_
      | with_reducible refine State.engWrite_keeps ?_
      | with_reducible refine State.engWrite_keeps_ok ‹_› ?_
      | with_reducible refine State.engWrite_keeps_err ‹_› ?_
      | with_reducible refine State.walkRun_keeps ?_ ?_
      | intro _

theorem State.cvtNibbles_keeps {s : State} {q : Nat} {c : QCmd} {p : Nat} {r : Run} {vs : List Nat} {bad : Bool} (h_s : Memory.wf s.mem = true) :
    KeepsE (State.cvtNibbles s q c p r vs bad) := by
  unfold State.cvtNibbles
  repeat' first
      | with_reducible assumption
      | with_reducible refine keepsE_ok ?_
      | with_reducible refine keepsE_err ?_
      | dsimp only
      | with_reducible refine State.engWriteHalf_keeps ?_

theorem State.cvtNibbles_keeps_ok {s : State} {q : Nat} {c : QCmd} {p : Nat} {r : Run} {vs : List Nat} {bad : Bool} {t' : State} (eq_ : State.cvtNibbles s q c p r vs bad = .ok t') (h_s : Memory.wf s.mem = true) :
    Memory.wf t'.mem = true := by
  have h : KeepsE (State.cvtNibbles s q c p r vs bad) := State.cvtNibbles_keeps h_s
  rw [eq_] at h
  exact h

theorem State.cvtNibbles_keeps_err {s : State} {q : Nat} {c : QCmd} {p : Nat} {r : Run} {vs : List Nat} {bad : Bool} {t' : State} (eq_ : State.cvtNibbles s q c p r vs bad = .error t') (h_s : Memory.wf s.mem = true) :
    Memory.wf t'.mem = true := by
  have h : KeepsE (State.cvtNibbles s q c p r vs bad) := State.cvtNibbles_keeps h_s
  rw [eq_] at h
  exact h

theorem execMcvt_keeps {_c : Cmd} {s : State} (h_s : Memory.wf s.mem = true) :
    KeepsR (execMcvt _c s) := by
  unfold execMcvt
  repeat' first
      | with_reducible assumption
      | with_reducible refine keepsE_ok ?_
      | with_reducible refine keepsE_err ?_
      | with_reducible refine keepsE_elim_ok ‹_› ?_
      | with_reducible refine keepsE_elim_err ‹_› ?_
      | with_reducible refine keepsR_next ?_
      | dsimp only
      | with_reducible refine State.checked_keeps ?_ ?_
      | with_reducible refine State.engWrite_keeps ?_
      | with_reducible refine State.engWrite_keeps_ok ‹_› ?_
      | with_reducible refine State.engWrite_keeps_err ‹_› ?_
      | with_reducible refine State.setMCore_keeps ?_
      | with_reducible refine State.walkRun_keeps ?_ ?_
      | with_reducible refine State.cvtNibbles_keeps ?_
      | with_reducible refine State.cvtNibbles_keeps_ok ‹_› ?_
      | with_reducible refine State.cvtNibbles_keeps_err ‹_› ?_
      | intro _
      | split

theorem State.poisonStop_keeps {s : State} {q : Nat} {c : QCmd} {u gen : Nat} {va : W64} (h_s : Memory.wf s.mem = true) :
    Memory.wf (State.poisonStop s q c u gen va).mem = true := by
  unfold State.poisonStop
  repeat' first
      | with_reducible assumption
      | dsimp only
      | with_reducible refine State.setQueue_keeps ?_
      | with_reducible refine State.raiseEv_keeps ?_
      | with_reducible refine State.setProg_keeps ?_
      | with_reducible refine State.cmdTrap_keeps ?_

theorem execRingTileArrive_keeps {core : Nat} {s : State} (h_s : Memory.wf s.mem = true) :
    KeepsR (execRingTileArrive core s) := by
  unfold execRingTileArrive
  repeat' first
      | with_reducible assumption
      | with_reducible refine keepsR_next ?_
      | dsimp only
      | with_reducible refine State.setCore_keeps ?_
      | with_reducible refine State.latch_keeps ?_
      | intro _
      | split

theorem execMring_keeps {_c : Cmd} {s : State} (h_s : Memory.wf s.mem = true) :
    KeepsR (execMring _c s) := by
  unfold execMring
  repeat' first
      | with_reducible assumption
      | with_reducible refine keepsR_next ?_
      | dsimp only
      | with_reducible refine State.cmdDone_keeps ?_
      | with_reducible refine State.checked_keeps ?_ ?_
      | with_reducible refine State.setMCore_keeps ?_
      | with_reducible refine State.latch_keeps ?_
      | intro _
      | split

theorem State.operandOr_keeps {s : State} {q : Nat} {c : QCmd} {u k : Nat} {dead : Bool} {o : Operand} (h_s : Memory.wf s.mem = true) :
    KeepsEX (State.operandOr s q c u k dead o) := by
  unfold State.operandOr
  repeat' first
      | with_reducible assumption
      | with_reducible refine keepsEX_ok
      | with_reducible refine keepsEX_err ?_
      | dsimp only
      | with_reducible refine State.raiseGen_keeps ?_
      | with_reducible refine State.setProg_keeps ?_
      | intro _
      | split

theorem State.operandOr_keeps_err {s : State} {q : Nat} {c : QCmd} {u k : Nat} {dead : Bool} {o : Operand} {t' : State} (eq_ : State.operandOr s q c u k dead o = .error t') (h_s : Memory.wf s.mem = true) :
    Memory.wf t'.mem = true := by
  have h : KeepsEX (State.operandOr s q c u k dead o) := State.operandOr_keeps h_s
  rw [eq_] at h
  exact h

theorem State.mmaRelease_keeps {s : State} {q : Nat} {c : Cmd} {u : Nat} {b : List (Fp × Bool)} {bb : List Nat} (h_s : Memory.wf s.mem = true) :
    Memory.wf (State.mmaRelease s q c u b bb).mem = true := by
  unfold State.mmaRelease
  repeat' first
      | with_reducible assumption
      | dsimp only
      | with_reducible refine State.setQuad_keeps ?_
      | with_reducible refine State.setMCore_keeps ?_
      | with_reducible refine State.latch_keeps ?_
      | intro _
      | split

theorem State.mmaForward_keeps {s : State} {q : Nat} {c : QCmd} {u : Nat} (h_s : Memory.wf s.mem = true) :
    Memory.wf (State.mmaForward s q c u).mem = true := by
  unfold State.mmaForward
  repeat' first
      | with_reducible assumption
      | dsimp only
      | with_reducible refine State.setProg_keeps ?_
      | with_reducible refine State.setMCore_keeps ?_
      | with_reducible refine State.poisonStop_keeps ?_
      | intro _
      | split

theorem State.mmaSums_keeps {s : State} {q : Nat} {c : QCmd} {u : Nat} {a b : List (Fp × Bool)} {bb : List Nat} (h_s : Memory.wf s.mem = true) :
    Memory.wf (State.mmaSums s q c u a b bb).mem = true := by
  unfold State.mmaSums
  repeat' first
      | with_reducible assumption
      | dsimp only
      | with_reducible refine State.setProg_keeps ?_
      | with_reducible refine State.setMCore_keeps ?_
      | with_reducible refine State.mmaRelease_keeps ?_
      | with_reducible refine State.mmaForward_keeps ?_

/-- An operand read where a condition holds has faulted: the read has. -/
theorem ite_error {α : Type} {p : Prop} [Decidable p] {x : Except State α} {y : α} {t : State} (h : (if p then x else .ok y) = .error t) :
    x = .error t := by
  split at h
  · exact h
  · cases h

theorem State.stepTags_keeps {s : State} {q : Nat} {c : QCmd} {u : Nat} (h_s : Memory.wf s.mem = true) :
    KeepsEX (State.stepTags s q c u) := by
  unfold State.stepTags
  repeat' first
      | with_reducible assumption
      | with_reducible refine keepsEX_ok
      | with_reducible refine keepsEX_err ?_
      | dsimp only
      | with_reducible refine State.operandOr_keeps_err (ite_error ‹_›) ?_
      | split

theorem State.stepTags_keeps_err {s : State} {q : Nat} {c : QCmd} {u : Nat} {t' : State} (eq_ : State.stepTags s q c u = .error t') (h_s : Memory.wf s.mem = true) :
    Memory.wf t'.mem = true := by
  have h : KeepsEX (State.stepTags s q c u) := State.stepTags_keeps h_s
  rw [eq_] at h
  exact h

theorem State.stepGrain_keeps {s : State} {q : Nat} {c : QCmd} {u : Nat} (h_s : Memory.wf s.mem = true) :
    KeepsE (State.stepGrain s q c u) := by
  unfold State.stepGrain
  repeat' first
      | with_reducible assumption
      | with_reducible refine keepsE_ok ?_
      | with_reducible refine keepsE_err ?_
      | dsimp only
      | with_reducible refine State.grain_keeps ?_
      | with_reducible refine State.grain_keeps_eq ‹_› ?_
      | with_reducible refine State.setProg_keeps ?_
      | intro _
      | split

theorem State.stepGrain_keeps_ok {s : State} {q : Nat} {c : QCmd} {u : Nat} {t' : State} (eq_ : State.stepGrain s q c u = .ok t') (h_s : Memory.wf s.mem = true) :
    Memory.wf t'.mem = true := by
  have h : KeepsE (State.stepGrain s q c u) := State.stepGrain_keeps h_s
  rw [eq_] at h
  exact h

theorem State.stepGrain_keeps_err {s : State} {q : Nat} {c : QCmd} {u : Nat} {t' : State} (eq_ : State.stepGrain s q c u = .error t') (h_s : Memory.wf s.mem = true) :
    Memory.wf t'.mem = true := by
  have h : KeepsE (State.stepGrain s q c u) := State.stepGrain_keeps h_s
  rw [eq_] at h
  exact h

theorem State.mmaStepAt_keeps {s : State} {q : Nat} {c : QCmd} {u : Nat} (h_s : Memory.wf s.mem = true) :
    Memory.wf (State.mmaStepAt s q c u).mem = true := by
  unfold State.mmaStepAt
  repeat' first
      | with_reducible assumption
      | dsimp only
      | with_reducible refine State.setProg_keeps ?_
      | with_reducible refine State.cmdTrap_keeps ?_
      | with_reducible refine State.operandOr_keeps ?_
      | with_reducible refine State.operandOr_keeps_err ‹_› ?_
      | with_reducible refine State.mmaSums_keeps ?_
      | with_reducible refine State.stepTags_keeps ?_
      | with_reducible refine State.stepTags_keeps_err ‹_› ?_
      | with_reducible refine State.stepGrain_keeps ?_
      | with_reducible refine State.stepGrain_keeps_ok ‹_› ?_
      | with_reducible refine State.stepGrain_keeps_err ‹_› ?_
      | with_reducible refine State.latch_keeps ?_
      | intro _
      | split

theorem execMma_keeps {_c : Cmd} {s : State} (h_s : Memory.wf s.mem = true) :
    KeepsR (execMma _c s) := by
  unfold execMma
  repeat' first
      | with_reducible assumption
      | with_reducible refine keepsR_next ?_
      | dsimp only
      | with_reducible refine State.setProg_keeps ?_
      | with_reducible refine State.checked_keeps ?_ ?_
      | intro _
      | split

theorem execMmaStep_keeps {core : Nat} {s : State} (h_s : Memory.wf s.mem = true) :
    KeepsR (execMmaStep core s) := by
  unfold execMmaStep
  repeat' first
      | with_reducible assumption
      | with_reducible refine keepsR_next ?_
      | dsimp only
      | with_reducible refine State.cmdDone_keeps ?_
      | with_reducible refine State.mmaForward_keeps ?_
      | with_reducible refine State.mmaStepAt_keeps ?_
      | intro _
      | split

end Sys2Proof.Machine
end

