-- ==== Sys2Proof/Laws/KeepCopy.lean ====
section
/-! SUPPORT. The operations of Machine/Copy.lean keep memory in its canonical form. -/

namespace Sys2Proof.Machine

theorem State.copyPass_keeps {s : State} {q : Nat} {u adv mode : Nat} {buf : List (Byte × Bool)} {holes : List Nat} (h_s : Memory.wf s.mem = true) :
    Memory.wf (State.copyPass s q u adv mode buf holes).mem = true := by
  unfold State.copyPass
  repeat' first
      | with_reducible assumption
      | dsimp only
      | with_reducible refine State.setProg_keeps ?_

theorem State.copyServed_keeps {s : State} {q : Nat} {whole : Bool} (h_s : Memory.wf s.mem = true) :
    Memory.wf (State.copyServed s q whole).mem = true := by
  unfold State.copyServed
  repeat' first
      | with_reducible assumption
      | dsimp only
      | with_reducible refine State.setQuad_keeps ?_

theorem State.copyGrain_keeps {s : State} {q : Nat} {c : QCmd} {big : Nat} (h_s : Memory.wf s.mem = true) :
    KeepsE (State.copyGrain s q c big) := by
  unfold State.copyGrain
  repeat' first
      | with_reducible assumption
      | with_reducible refine keepsE_ok ?_
      | with_reducible refine keepsE_err ?_
      | dsimp only
      | with_reducible refine State.grain_keeps ?_
      | with_reducible refine State.grain_keeps_eq ‹_› ?_
      | with_reducible refine State.setProg_keeps ?_
      | intro _
      | split

theorem State.copyGrain_keeps_ok {s : State} {q : Nat} {c : QCmd} {big : Nat} {t' : State} (eq_ : State.copyGrain s q c big = .ok t') (h_s : Memory.wf s.mem = true) :
    Memory.wf t'.mem = true := by
  have h : KeepsE (State.copyGrain s q c big) := State.copyGrain_keeps h_s
  rw [eq_] at h
  exact h

theorem State.copyGrain_keeps_err {s : State} {q : Nat} {c : QCmd} {big : Nat} {t' : State} (eq_ : State.copyGrain s q c big = .error t') (h_s : Memory.wf s.mem = true) :
    Memory.wf t'.mem = true := by
  have h : KeepsE (State.copyGrain s q c big) := State.copyGrain_keeps h_s
  rw [eq_] at h
  exact h

theorem State.copyIndex_keeps {s : State} {q : Nat} {c : QCmd} {row : Nat} (h_s : Memory.wf s.mem = true) :
    KeepsEP (State.copyIndex s q c row) := by
  unfold State.copyIndex
  repeat' first
      | with_reducible assumption
      | with_reducible refine keepsEP_ok ?_
      | with_reducible refine keepsEP_err ?_
      | dsimp only
      | with_reducible refine State.raiseGen_keeps ?_
      | with_reducible refine State.setProg_keeps ?_
      | intro _
      | split

theorem State.copyIndex_keeps_ok {s : State} {q : Nat} {c : QCmd} {row : Nat} {t' : State} {b' : _} (eq_ : State.copyIndex s q c row = .ok (t', b')) (h_s : Memory.wf s.mem = true) :
    Memory.wf t'.mem = true := by
  have h : KeepsEP (State.copyIndex s q c row) := State.copyIndex_keeps h_s
  rw [eq_] at h
  exact h

theorem State.copyIndex_keeps_err {s : State} {q : Nat} {c : QCmd} {row : Nat} {t' : State} (eq_ : State.copyIndex s q c row = .error t') (h_s : Memory.wf s.mem = true) :
    Memory.wf t'.mem = true := by
  have h : KeepsEP (State.copyIndex s q c row) := State.copyIndex_keeps h_s
  rw [eq_] at h
  exact h

theorem State.copySource_keeps {s : State} {q : Nat} {c : QCmd} {idx : Option Nat} (h_s : Memory.wf s.mem = true) :
    KeepsEP (State.copySource s q c idx) := by
  unfold State.copySource
  repeat' first
      | with_reducible assumption
      | with_reducible refine keepsEP_ok ?_
      | with_reducible refine keepsEP_err ?_
      | dsimp only
      | with_reducible refine State.engRead_keeps ?_
      | with_reducible refine State.engRead_keeps_ok ‹_› ?_
      | with_reducible refine State.engRead_keeps_err ‹_› ?_
      | intro _
      | split

theorem State.copySource_keeps_ok {s : State} {q : Nat} {c : QCmd} {idx : Option Nat} {t' : State} {b' : _} (eq_ : State.copySource s q c idx = .ok (t', b')) (h_s : Memory.wf s.mem = true) :
    Memory.wf t'.mem = true := by
  have h : KeepsEP (State.copySource s q c idx) := State.copySource_keeps h_s
  rw [eq_] at h
  exact h

theorem State.copySource_keeps_err {s : State} {q : Nat} {c : QCmd} {idx : Option Nat} {t' : State} (eq_ : State.copySource s q c idx = .error t') (h_s : Memory.wf s.mem = true) :
    Memory.wf t'.mem = true := by
  have h : KeepsEP (State.copySource s q c idx) := State.copySource_keeps h_s
  rw [eq_] at h
  exact h

theorem State.copyNext_keeps {s : State} {q : Nat} {c : QCmd} {big n : Nat} (h_s : Memory.wf s.mem = true) :
    Memory.wf (State.copyNext s q c big n).mem = true := by
  unfold State.copyNext
  repeat' first
      | with_reducible assumption
      | dsimp only
      | with_reducible refine State.setProg_keeps ?_
      | with_reducible refine State.copyPass_keeps ?_
      | with_reducible refine State.copyServed_keeps ?_
      | intro _
      | split

theorem State.copyPut_keeps {s : State} {q : Nat} {c : QCmd} {idx : Option Nat} {bs : List (Byte × Bool)} {n : Nat} (h_s : Memory.wf s.mem = true) :
    KeepsE (State.copyPut s q c idx bs n) := by
  unfold State.copyPut
  repeat' first
      | with_reducible assumption
      | with_reducible refine keepsE_ok ?_
      | with_reducible refine keepsE_err ?_
      | dsimp only
      | with_reducible refine State.engWriteHalf_keeps ?_
      | with_reducible refine State.engWriteHalf_keeps_ok ‹_› ?_
      | with_reducible refine State.engWriteHalf_keeps_err ‹_› ?_
      | with_reducible refine keepsO_getD ?_ ?_
      | intro _
      | split

theorem State.copyPut_keeps_ok {s : State} {q : Nat} {c : QCmd} {idx : Option Nat} {bs : List (Byte × Bool)} {n : Nat} {t' : State} (eq_ : State.copyPut s q c idx bs n = .ok t') (h_s : Memory.wf s.mem = true) :
    Memory.wf t'.mem = true := by
  have h : KeepsE (State.copyPut s q c idx bs n) := State.copyPut_keeps h_s
  rw [eq_] at h
  exact h

theorem State.copyPut_keeps_err {s : State} {q : Nat} {c : QCmd} {idx : Option Nat} {bs : List (Byte × Bool)} {n : Nat} {t' : State} (eq_ : State.copyPut s q c idx bs n = .error t') (h_s : Memory.wf s.mem = true) :
    Memory.wf t'.mem = true := by
  have h : KeepsE (State.copyPut s q c idx bs n) := State.copyPut_keeps h_s
  rw [eq_] at h
  exact h

theorem State.stepXgen_keeps {s : State} {q : Nat} {c : Cmd} {n : Nat} (h_s : Memory.wf s.mem = true) :
    Memory.wf (State.stepXgen s q c n).mem = true := by
  unfold State.stepXgen
  repeat' first
      | with_reducible assumption
      | dsimp only
      | with_reducible refine State.setQuad_keeps ?_

theorem State.copyPast_keeps {s : State} {q : Nat} {c : QCmd} (h_s : Memory.wf s.mem = true) :
    Memory.wf (State.copyPast s q c).mem = true := by
  unfold State.copyPast
  repeat' first
      | with_reducible assumption
      | dsimp only
      | with_reducible refine State.setProg_keeps ?_
      | with_reducible refine State.copyNext_keeps ?_

theorem State.copyChunk_keeps {s : State} {q : Nat} {c : QCmd} (h_s : Memory.wf s.mem = true) :
    Memory.wf (State.copyChunk s q c).mem = true := by
  unfold State.copyChunk
  repeat' first
      | with_reducible assumption
      | dsimp only
      | with_reducible refine State.setProg_keeps ?_
      | with_reducible refine State.copyGrain_keeps ?_
      | with_reducible refine State.copyGrain_keeps_ok ‹_› ?_
      | with_reducible refine State.copyGrain_keeps_err ‹_› ?_
      | with_reducible refine State.copyIndex_keeps ?_
      | with_reducible refine State.copyIndex_keeps_ok ‹_› ?_
      | with_reducible refine State.copyIndex_keeps_err ‹_› ?_
      | with_reducible refine State.copySource_keeps ?_
      | with_reducible refine State.copySource_keeps_ok ‹_› ?_
      | with_reducible refine State.copySource_keeps_err ‹_› ?_
      | with_reducible refine State.copyNext_keeps ?_
      | with_reducible refine State.copyPut_keeps ?_
      | with_reducible refine State.copyPut_keeps_ok ‹_› ?_
      | with_reducible refine State.copyPut_keeps_err ‹_› ?_
      | with_reducible refine State.stepXgen_keeps ?_
      | with_reducible refine State.copyPast_keeps ?_
      | intro _
      | split

theorem State.copyMoved_keeps {s : State} {q : Nat} {c : QCmd} {adv : Nat} (h_s : Memory.wf s.mem = true) :
    Memory.wf (State.copyMoved s q c adv).mem = true := by
  unfold State.copyMoved
  repeat' first
      | with_reducible assumption
      | dsimp only
      | with_reducible refine State.setQueue_keeps ?_
      | intro _
      | split

theorem State.copyMove_keeps {s : State} {q : Nat} {c : QCmd} (h_s : Memory.wf s.mem = true) :
    Memory.wf (State.copyMove s q c).mem = true := by
  unfold State.copyMove
  repeat' first
      | with_reducible assumption
      | dsimp only
      | with_reducible refine State.cmdDone_keeps ?_
      | with_reducible refine State.copyPass_keeps ?_
      | with_reducible refine State.copyChunk_keeps ?_
      | with_reducible refine State.copyMoved_keeps ?_
      | intro _
      | split

theorem execXcopy_keeps {_c : Cmd} {s : State} (h_s : Memory.wf s.mem = true) :
    KeepsR (execXcopy _c s) := by
  unfold execXcopy
  repeat' first
      | with_reducible assumption
      | with_reducible refine keepsR_next ?_
      | dsimp only
      | with_reducible refine State.checked_keeps ?_ ?_
      | with_reducible refine State.copyMove_keeps ?_
      | intro _

theorem execXfill_keeps {_c : Cmd} {s : State} (h_s : Memory.wf s.mem = true) :
    KeepsR (execXfill _c s) := by
  unfold execXfill
  repeat' first
      | with_reducible assumption
      | with_reducible refine keepsR_next ?_
      | dsimp only
      | with_reducible refine State.checked_keeps ?_ ?_
      | with_reducible refine State.copyMove_keeps ?_
      | intro _

theorem execXgath_keeps {_c : Cmd} {s : State} (h_s : Memory.wf s.mem = true) :
    KeepsR (execXgath _c s) := by
  unfold execXgath
  repeat' first
      | with_reducible assumption
      | with_reducible refine keepsR_next ?_
      | dsimp only
      | with_reducible refine State.checked_keeps ?_ ?_
      | with_reducible refine State.copyMove_keeps ?_
      | intro _

theorem execXscat_keeps {_c : Cmd} {s : State} (h_s : Memory.wf s.mem = true) :
    KeepsR (execXscat _c s) := by
  unfold execXscat
  repeat' first
      | with_reducible assumption
      | with_reducible refine keepsR_next ?_
      | dsimp only
      | with_reducible refine State.checked_keeps ?_ ?_
      | with_reducible refine State.copyMove_keeps ?_
      | intro _

theorem State.swzRead_keeps {s : State} {q : Nat} {c : QCmd} {x : Nat} (h_s : Memory.wf s.mem = true) :
    KeepsEP (State.swzRead s q c x) := by
  unfold State.swzRead
  repeat' first
      | with_reducible assumption
      | with_reducible refine keepsEP_ok ?_
      | with_reducible refine keepsEP_err ?_
      | dsimp only
      | with_reducible refine State.engRead_keeps ?_
      | with_reducible refine State.engRead_keeps_ok ‹_› ?_
      | with_reducible refine State.engRead_keeps_err ‹_› ?_
      | intro _
      | split

theorem State.swzRead_keeps_ok {s : State} {q : Nat} {c : QCmd} {x : Nat} {t' : State} {b' : _} (eq_ : State.swzRead s q c x = .ok (t', b')) (h_s : Memory.wf s.mem = true) :
    Memory.wf t'.mem = true := by
  have h : KeepsEP (State.swzRead s q c x) := State.swzRead_keeps h_s
  rw [eq_] at h
  exact h

theorem State.swzRead_keeps_err {s : State} {q : Nat} {c : QCmd} {x : Nat} {t' : State} (eq_ : State.swzRead s q c x = .error t') (h_s : Memory.wf s.mem = true) :
    Memory.wf t'.mem = true := by
  have h : KeepsEP (State.swzRead s q c x) := State.swzRead_keeps h_s
  rw [eq_] at h
  exact h

theorem State.swzAhead_keeps {s : State} {q : Nat} {c : QCmd} (h_s : Memory.wf s.mem = true) :
    Memory.wf (State.swzAhead s q c).mem = true := by
  unfold State.swzAhead
  repeat' first
      | with_reducible assumption
      | dsimp only
      | with_reducible refine State.setProg_keeps ?_
      | with_reducible refine State.copyServed_keeps ?_
      | with_reducible refine State.swzRead_keeps ?_
      | with_reducible refine State.swzRead_keeps_ok ‹_› ?_
      | with_reducible refine State.swzRead_keeps_err ‹_› ?_
      | intro _
      | split

theorem State.swzBytes_keeps {s : State} {q : Nat} {c : QCmd} {x : Nat} (h_s : Memory.wf s.mem = true) :
    KeepsEP (State.swzBytes s q c x) := by
  unfold State.swzBytes
  repeat' first
      | with_reducible assumption
      | with_reducible refine keepsEP_ok ?_
      | with_reducible refine keepsEP_err ?_
      | dsimp only
      | with_reducible refine State.swzRead_keeps ?_
      | with_reducible refine State.swzRead_keeps_ok ‹_› ?_
      | with_reducible refine State.swzRead_keeps_err ‹_› ?_
      | intro _
      | split

theorem State.swzBytes_keeps_ok {s : State} {q : Nat} {c : QCmd} {x : Nat} {t' : State} {b' : _} (eq_ : State.swzBytes s q c x = .ok (t', b')) (h_s : Memory.wf s.mem = true) :
    Memory.wf t'.mem = true := by
  have h : KeepsEP (State.swzBytes s q c x) := State.swzBytes_keeps h_s
  rw [eq_] at h
  exact h

theorem State.swzBytes_keeps_err {s : State} {q : Nat} {c : QCmd} {x : Nat} {t' : State} (eq_ : State.swzBytes s q c x = .error t') (h_s : Memory.wf s.mem = true) :
    Memory.wf t'.mem = true := by
  have h : KeepsEP (State.swzBytes s q c x) := State.swzBytes_keeps h_s
  rw [eq_] at h
  exact h

theorem State.swzBlock_keeps {s : State} {q : Nat} {c : QCmd} (h_s : Memory.wf s.mem = true) :
    Memory.wf (State.swzBlock s q c).mem = true := by
  unfold State.swzBlock
  repeat' first
      | with_reducible assumption
      | dsimp only
      | with_reducible refine State.setProg_keeps ?_
      | with_reducible refine State.engWrite_keeps ?_
      | with_reducible refine State.engWrite_keeps_ok ‹_› ?_
      | with_reducible refine State.engWrite_keeps_err ‹_› ?_
      | with_reducible refine State.copyServed_keeps ?_
      | with_reducible refine State.copyGrain_keeps ?_
      | with_reducible refine State.copyGrain_keeps_ok ‹_› ?_
      | with_reducible refine State.copyGrain_keeps_err ‹_› ?_
      | with_reducible refine State.swzBytes_keeps ?_
      | with_reducible refine State.swzBytes_keeps_ok ‹_› ?_
      | with_reducible refine State.swzBytes_keeps_err ‹_› ?_
      | with_reducible refine keepsO_getD ?_ ?_
      | intro _
      | split

theorem execXswz_keeps {_c : Cmd} {s : State} (h_s : Memory.wf s.mem = true) :
    KeepsR (execXswz _c s) := by
  unfold execXswz
  repeat' first
      | with_reducible assumption
      | with_reducible refine keepsR_next ?_
      | dsimp only
      | with_reducible refine State.setProg_keeps ?_
      | with_reducible refine State.cmdDone_keeps ?_
      | with_reducible refine State.checked_keeps ?_ ?_
      | with_reducible refine State.swzAhead_keeps ?_
      | with_reducible refine State.swzBlock_keeps ?_
      | intro _
      | split

end Sys2Proof.Machine
end

