-- ==== Sys2Proof/Laws/KeepPhotonic.lean ====
section
/-! SUPPORT. The operations of Machine/Photonic.lean keep memory in its canonical form. -/

namespace Sys2Proof.Machine

theorem State.setGt_keeps {s : State} {name : Nat} {e : Gt} (h_s : Memory.wf s.mem = true) :
    Memory.wf (State.setGt s name e).mem = true := by
  unfold State.setGt
  repeat' first
      | with_reducible assumption
      | dsimp only
      | with_reducible refine State.setCtl_keeps ?_

theorem execLrx_keeps {_c : Cmd} {s : State} (h_s : Memory.wf s.mem = true) :
    KeepsR (execLrx _c s) := by
  unfold execLrx
  repeat' first
      | with_reducible assumption
      | with_reducible refine keepsR_next ?_
      | dsimp only
      | with_reducible refine State.setQuad_keeps ?_
      | with_reducible refine State.cmdDone_keeps ?_
      | with_reducible refine State.cmdTrap_keeps ?_
      | with_reducible refine State.checked_keeps ?_ ?_
      | intro _
      | split

theorem State.grains_keeps {s : State} {field unit : Nat} {ref : Option NodeRef} {fuel : Nat} (h_s : Memory.wf s.mem = true) :
    Memory.wf (State.grains s field unit ref fuel).1.mem = true := by
  induction fuel generalizing s field unit ref with
  | zero =>
    simp only [State.grains]
    repeat' first
      | with_reducible assumption
  | succ fuel ih =>
    simp only [State.grains]
    repeat' first
      | with_reducible assumption
      | with_reducible refine ih ?_
      | with_reducible refine ih _ ?_
      | with_reducible refine ih _ _ ?_
      | with_reducible refine ih _ _ _ ?_
      | with_reducible refine ih _ _ _ _ ?_
      | with_reducible refine ih _ _ _ _ _ ?_
      | dsimp only
      | with_reducible refine State.grain_keeps ?_
      | with_reducible refine State.grain_keeps_eq ‹_› ?_
      | intro _
      | split

theorem State.grains_keeps_eq {s : State} {field unit : Nat} {ref : Option NodeRef} {fuel : Nat} {t' : State} {b' : _} (eq_ : State.grains s field unit ref fuel = (t', b')) (h_s : Memory.wf s.mem = true) :
    Memory.wf t'.mem = true := by
  have h : Memory.wf (State.grains s field unit ref fuel).1.mem = true := State.grains_keeps h_s
  rw [eq_] at h
  exact h

theorem execLtx_keeps {_c : Cmd} {s : State} (h_s : Memory.wf s.mem = true) :
    KeepsR (execLtx _c s) := by
  unfold execLtx
  repeat' first
      | with_reducible assumption
      | with_reducible refine keepsR_next ?_
      | dsimp only
      | with_reducible refine State.setCtl_keeps ?_
      | with_reducible refine State.setProg_keeps ?_
      | with_reducible refine State.popCmd_keeps ?_
      | with_reducible refine State.checked_keeps ?_ ?_
      | with_reducible refine State.grains_keeps ?_
      | with_reducible refine State.grains_keeps_eq ‹_› ?_
      | intro _
      | split

theorem State.modJob_keeps {s : State} {g : Nat} {f : Ltx → Ltx} (h_s : Memory.wf s.mem = true) :
    Memory.wf (State.modJob s g f).mem = true := by
  unfold State.modJob
  repeat' first
      | with_reducible assumption
      | dsimp only
      | with_reducible refine State.setCtl_keeps ?_

theorem State.endJob_keeps {s : State} {ctl : Nat} {j : Ltx} {st : Nat} (h_s : Memory.wf s.mem = true) :
    Memory.wf (State.endJob s ctl j st).mem = true := by
  unfold State.endJob
  repeat' first
      | with_reducible assumption
      | dsimp only
      | with_reducible refine State.setCtl_keeps ?_
      | with_reducible refine State.mailbox_keeps ?_

theorem State.endJobs_keeps {s : State} {ctl : Nat} (h_s : Memory.wf s.mem = true) :
    Memory.wf (State.endJobs s ctl).mem = true := by
  unfold State.endJobs
  repeat' first
      | with_reducible assumption
      | dsimp only
      | with_reducible refine State.endJob_keeps ?_
      | with_reducible refine foldl_keeps ?_ ?_
      | intro _

theorem State.readBlock_keeps {s : State} {g : Nat} {j : Ltx} (h_s : Memory.wf s.mem = true) :
    Memory.wf (State.readBlock s g j).mem = true := by
  unfold State.readBlock
  repeat' first
      | with_reducible assumption
      | dsimp only
      | with_reducible refine State.raiseGen_keeps ?_
      | with_reducible refine State.askWalk_keeps ?_
      | with_reducible refine State.enterView_keeps ?_
      | with_reducible refine State.setGt_keeps ?_
      | with_reducible refine State.modJob_keeps ?_
      | intro _
      | split

theorem State.wakeTrunks_keeps {s : State} {ctl mask : Nat} (h_s : Memory.wf s.mem = true) :
    Memory.wf (State.wakeTrunks s ctl mask).mem = true := by
  unfold State.wakeTrunks
  repeat' first
      | with_reducible assumption
      | dsimp only
      | with_reducible refine State.setCtl_keeps ?_

theorem State.sendBlock_keeps {s : State} {g : Nat} {j : Ltx} {bs : List (Byte × Bool)} (h_s : Memory.wf s.mem = true) :
    Memory.wf (State.sendBlock s g j bs).mem = true := by
  unfold State.sendBlock
  repeat' first
      | with_reducible assumption
      | dsimp only
      | with_reducible refine State.setCtl_keeps ?_
      | with_reducible refine State.setGt_keeps ?_
      | with_reducible refine State.modJob_keeps ?_
      | with_reducible refine State.wakeTrunks_keeps ?_

theorem execBlockSend_keeps {group : Nat} {s : State} (h_s : Memory.wf s.mem = true) :
    KeepsR (execBlockSend group s) := by
  unfold execBlockSend
  repeat' first
      | with_reducible assumption
      | with_reducible refine keepsR_next ?_
      | dsimp only
      | with_reducible refine State.modJob_keeps ?_
      | with_reducible refine State.endJob_keeps ?_
      | with_reducible refine State.readBlock_keeps ?_
      | with_reducible refine State.wakeTrunks_keeps ?_
      | with_reducible refine State.sendBlock_keeps ?_
      | intro _
      | split

theorem execDemandUpdate_keeps {quad group : Nat} {s : State} (h_s : Memory.wf s.mem = true) :
    KeepsR (execDemandUpdate quad group s) := by
  unfold execDemandUpdate
  repeat' first
      | with_reducible assumption
      | with_reducible refine keepsR_next ?_
      | dsimp only
      | with_reducible refine State.setGt_keeps ?_
      | with_reducible refine State.enrol_keeps ?_
      | intro _
      | split

theorem State.fillSlot_keeps {s : State} {quad g : Nat} {f : Flight} {bs : List (Byte × Bool)} (h_s : Memory.wf s.mem = true) :
    Memory.wf (State.fillSlot s quad g f bs).mem = true := by
  unfold State.fillSlot
  repeat' first
      | with_reducible assumption
      | dsimp only
      | with_reducible refine State.setQuad_keeps ?_
      | with_reducible refine State.write_keeps ?_
      | intro _
      | split

theorem execSlotFill_keeps {quad group : Nat} {ok : Bool} {s : State} (h_s : Memory.wf s.mem = true) :
    KeepsR (execSlotFill quad group ok s) := by
  unfold execSlotFill
  repeat' first
      | with_reducible assumption
      | with_reducible refine keepsR_next ?_
      | dsimp only
      | with_reducible refine State.setQuad_keeps ?_
      | with_reducible refine State.setCtl_keeps ?_
      | with_reducible refine State.endJobs_keeps ?_
      | with_reducible refine State.fillSlot_keeps ?_
      | intro _
      | split

theorem execBlockResend_keeps {group : Nat} {s : State} (h_s : Memory.wf s.mem = true) :
    KeepsR (execBlockResend group s) := by
  unfold execBlockResend
  repeat' first
      | with_reducible assumption
      | with_reducible refine keepsR_next ?_
      | dsimp only
      | with_reducible refine State.setCtl_keeps ?_
      | with_reducible refine State.wakeTrunks_keeps ?_
      | intro _
      | split

theorem State.holdImage_keeps {s : State} {q : Nat} {w0 : W64} (h_s : Memory.wf s.mem = true) :
    Memory.wf (State.holdImage s q w0).mem = true := by
  unfold State.holdImage
  repeat' first
      | with_reducible assumption
      | dsimp only
      | with_reducible refine State.setProg_keeps ?_

theorem State.enrol_keeps {s : State} {name : Nat} {w0 : W64} {part : Nat} {ref : Option NodeRef} {quads : List Nat} (h_s : Memory.wf s.mem = true) :
    Memory.wf (State.enrol s name w0 part ref quads).mem = true := by
  unfold State.enrol
  repeat' first
      | with_reducible assumption
      | dsimp only
      | with_reducible refine State.setQuad_keeps ?_
      | with_reducible refine State.setGt_keeps ?_
      | with_reducible refine State.turn_keeps ?_
      | with_reducible refine foldl_keeps ?_ ?_
      | intro _

theorem State.lgrpWrite_keeps {s : State} {name : Nat} {w0 : W64} {part : Nat} {ref : Option NodeRef} (h_s : Memory.wf s.mem = true) :
    Memory.wf (State.lgrpWrite s name w0 part ref).1.mem = true := by
  unfold State.lgrpWrite
  repeat' first
      | with_reducible assumption
      | dsimp only
      | with_reducible refine State.enrol_keeps ?_
      | intro _
      | split

theorem State.lgrpWrite_keeps_eq {s : State} {name : Nat} {w0 : W64} {part : Nat} {ref : Option NodeRef} {t' : State} {b' : _} (eq_ : State.lgrpWrite s name w0 part ref = (t', b')) (h_s : Memory.wf s.mem = true) :
    Memory.wf t'.mem = true := by
  have h : Memory.wf (State.lgrpWrite s name w0 part ref).1.mem = true := State.lgrpWrite_keeps h_s
  rw [eq_] at h
  exact h

theorem State.enrolCmd_keeps {s : State} {q : Nat} {c : QCmd} {name : Nat} {w0 : W64} (h_s : Memory.wf s.mem = true) :
    Memory.wf (State.enrolCmd s q c name w0).mem = true := by
  unfold State.enrolCmd
  split
  · exact State.cmdDone_keeps h_s
  split
  · exact State.raiseGen_keeps h_s
  · exact State.cmdDone_keeps (State.lgrpWrite_keeps h_s)

theorem execLgrpEnrol_keeps {_c : Cmd} {s : State} (h_s : Memory.wf s.mem = true) :
    KeepsR (execLgrpEnrol _c s) := by
  unfold execLgrpEnrol
  repeat' first
      | with_reducible assumption
      | with_reducible refine keepsR_next ?_
      | dsimp only
      | with_reducible refine State.checked_keeps ?_ ?_
      | with_reducible refine State.enrolCmd_keeps ?_
      | intro _

theorem State.unbind_keeps {s : State} {name : Nat} (h_s : Memory.wf s.mem = true) :
    Memory.wf (State.unbind s name).mem = true := by
  unfold State.unbind
  repeat' first
      | with_reducible assumption
      | dsimp only
      | with_reducible refine State.setGt_keeps ?_
      | with_reducible refine State.endJob_keeps ?_
      | with_reducible refine foldl_keeps ?_ ?_
      | intro _

theorem State.withdrawGroup_keeps {s : State} {name : Nat} (h_s : Memory.wf s.mem = true) :
    Memory.wf (State.withdrawGroup s name).mem = true := by
  unfold State.withdrawGroup
  repeat' first
      | with_reducible assumption
      | dsimp only
      | with_reducible refine State.setQuad_keeps ?_
      | with_reducible refine State.setGt_keeps ?_
      | with_reducible refine State.turn_keeps ?_
      | with_reducible refine foldl_keeps ?_ ?_
      | intro _

theorem execLgrpDissolve_keeps {_c : Cmd} {s : State} (h_s : Memory.wf s.mem = true) :
    KeepsR (execLgrpDissolve _c s) := by
  unfold execLgrpDissolve
  repeat' first
      | with_reducible assumption
      | with_reducible refine keepsR_next ?_
      | dsimp only
      | with_reducible refine State.cmdDone_keeps ?_
      | with_reducible refine State.checked_keeps ?_ ?_
      | with_reducible refine State.holdImage_keeps ?_
      | with_reducible refine State.unbind_keeps ?_
      | with_reducible refine State.withdrawGroup_keeps ?_
      | intro _
      | split

theorem execLgrpRd_keeps {_c : Cmd} {s : State} (h_s : Memory.wf s.mem = true) :
    KeepsR (execLgrpRd _c s) := by
  unfold execLgrpRd
  repeat' first
      | with_reducible assumption
      | with_reducible refine keepsR_next ?_
      | dsimp only
      | with_reducible refine State.cmdDone_keeps ?_
      | with_reducible refine State.checked_keeps ?_ ?_
      | with_reducible refine State.engWrite_keeps ?_
      | with_reducible refine State.engWrite_keeps_ok ‹_› ?_
      | with_reducible refine State.engWrite_keeps_err ‹_› ?_
      | intro _
      | split

theorem execGroupStall_keeps {group : Nat} {s : State} (h_s : Memory.wf s.mem = true) :
    KeepsR (execGroupStall group s) := by
  unfold execGroupStall
  repeat' first
      | with_reducible assumption
      | with_reducible refine keepsR_next ?_
      | dsimp only
      | with_reducible refine State.raiseEv_keeps ?_
      | with_reducible refine State.setGt_keeps ?_
      | with_reducible refine keepsO_getD ?_ ?_
      | intro _
      | split

theorem execRingHandoff_keeps {quad : Nat} {s : State} (h_s : Memory.wf s.mem = true) :
    KeepsR (execRingHandoff quad s) := by
  unfold execRingHandoff
  repeat' first
      | with_reducible assumption
      | with_reducible refine keepsR_next ?_
      | dsimp only
      | with_reducible refine State.setQuad_keeps ?_

theorem execPhaseWake_keeps {sheaf phase : Nat} {s : State} (h_s : Memory.wf s.mem = true) :
    KeepsR (execPhaseWake sheaf phase s) := by
  unfold execPhaseWake
  repeat' first
      | with_reducible assumption
      | with_reducible refine keepsR_next ?_
      | dsimp only
      | with_reducible refine State.wakeTrunks_keeps ?_
      | with_reducible refine foldl_keeps ?_ ?_
      | intro _
      | split

theorem execTrunkSleep_keeps {ctl trunk : Nat} {s : State} (h_s : Memory.wf s.mem = true) :
    KeepsR (execTrunkSleep ctl trunk s) := by
  unfold execTrunkSleep
  repeat' first
      | with_reducible assumption
      | with_reducible refine keepsR_next ?_
      | dsimp only
      | with_reducible refine State.setCtl_keeps ?_
      | intro _
      | split

end Sys2Proof.Machine
end

