-- ==== Sys2Proof/Laws/KeepReduce.lean ====
section
/-! SUPPORT. The operations of Machine/Reduce.lean keep memory in its canonical form. -/

namespace Sys2Proof.Machine

theorem State.drainStep_keeps {s : State} {put : State → Drain → State} {who : Who} {f : Nat → GenFault} {va : W64} {bs : List (Byte × Bool)} {i : WInfo} {rel : Option Rel} {d : Drain} (h_s : Memory.wf s.mem = true) (h_put : ∀ (a0 : State) (a1 : Drain), Memory.wf a0.mem = true → Memory.wf (put a0 a1).mem = true) :
    Memory.wf (State.drainStep s put who f va bs i rel d).mem = true := by
  unfold State.drainStep
  repeat' first
      | with_reducible assumption
      | with_reducible refine h_put _ _ ?_
      | dsimp only
      | with_reducible refine State.raiseEv_keeps ?_
      | with_reducible refine State.raiseGen_keeps ?_
      | with_reducible refine State.writeAs_keeps ?_
      | with_reducible refine State.askWalk_keeps ?_
      | with_reducible refine State.enterView_keeps ?_
      | intro _
      | split

theorem State.redLeave_keeps {s : State} {k : Nat} {t : Team} {qn : Nat} (h_s : Memory.wf s.mem = true) :
    Memory.wf (State.redLeave s k t qn).mem = true := by
  unfold State.redLeave
  repeat' first
      | with_reducible assumption
      | dsimp only
      | with_reducible refine State.mailbox_keeps ?_
      | with_reducible refine State.setRed_keeps ?_
      | with_reducible refine foldl_keeps ?_ ?_
      | intro _
      | split

theorem State.eredRun_keeps {s : State} {c : QCmd} {k : Nat} {r : RedGroup} {t : Team} (h_s : Memory.wf s.mem = true) :
    Memory.wf (State.eredRun s c k r t).mem = true := by
  unfold State.eredRun
  repeat' first
      | with_reducible assumption
      | dsimp only
      | with_reducible refine State.setProg_keeps ?_
      | with_reducible refine State.popCmd_keeps ?_
      | with_reducible refine State.engRead_keeps ?_
      | with_reducible refine State.engRead_keeps_ok ‹_› ?_
      | with_reducible refine State.engRead_keeps_err ‹_› ?_
      | with_reducible refine State.grains_keeps ?_
      | with_reducible refine State.grains_keeps_eq ‹_› ?_
      | with_reducible refine State.setRed_keeps ?_
      | with_reducible refine State.redLeave_keeps ?_
      | intro _
      | split

theorem execEred_keeps {_c : Cmd} {s : State} (h_s : Memory.wf s.mem = true) :
    KeepsR (execEred _c s) := by
  unfold execEred
  repeat' first
      | with_reducible assumption
      | with_reducible refine keepsR_next ?_
      | dsimp only
      | with_reducible refine State.cmdTrap_keeps ?_
      | with_reducible refine State.checked_keeps ?_ ?_
      | with_reducible refine State.eredRun_keeps ?_
      | intro _
      | split

theorem State.redStore_keeps {s : State} {k : Nat} {r : RedGroup} {root : Nat} {v : List (W32 × Bool)} (h_s : Memory.wf s.mem = true) :
    Memory.wf (State.redStore s k r root v).mem = true := by
  unfold State.redStore
  repeat' first
      | with_reducible assumption
      | dsimp only
      | with_reducible refine State.drainStep_keeps ?_ ?_
      | with_reducible refine State.setRed_keeps ?_
      | intro _
      | split

theorem execRedRouterAdd_keeps {grp node : Nat} {s : State} (h_s : Memory.wf s.mem = true) :
    KeepsR (execRedRouterAdd grp node s) := by
  unfold execRedRouterAdd
  repeat' first
      | with_reducible assumption
      | with_reducible refine keepsR_next ?_
      | dsimp only
      | with_reducible refine State.setRed_keeps ?_
      | with_reducible refine State.redStore_keeps ?_
      | intro _
      | split

theorem State.setCredW_keeps {s : State} {k w : Nat} {p : CredW} (h_s : Memory.wf s.mem = true) :
    Memory.wf (State.setCredW s k w p).mem = true := by
  unfold State.setCredW
  repeat' first
      | with_reducible assumption
      | dsimp only
      | with_reducible refine State.setCred_keeps ?_
      | intro _
      | split

theorem State.zeroDst_keeps {s : State} {w m asid : Nat} {va : W64} {n : Nat} {fuel : Nat} (h_s : Memory.wf s.mem = true) :
    Memory.wf (State.zeroDst s w m asid va n fuel).mem = true := by
  induction fuel generalizing s w m asid va n with
  | zero =>
    simp only [State.zeroDst]
    repeat' first
      | with_reducible assumption
  | succ fuel ih =>
    simp only [State.zeroDst]
    repeat' first
      | with_reducible assumption
      | with_reducible refine ih ?_
      | with_reducible refine ih _ ?_
      | with_reducible refine ih _ _ ?_
      | with_reducible refine ih _ _ _ ?_
      | with_reducible refine ih _ _ _ _ ?_
      | with_reducible refine ih _ _ _ _ _ ?_
      | dsimp only
      | with_reducible refine State.write_keeps ?_
      | intro _
      | split

theorem State.credEdge_keeps {s : State} {q : Nat} {c : QCmd} {k : Nat} {g : CredG} {p : CredW} {slot : Nat × Nat} {bs : List (Byte × Bool)} (h_s : Memory.wf s.mem = true) :
    Memory.wf (State.credEdge s q c k g p slot bs).mem = true := by
  unfold State.credEdge
  repeat' first
      | with_reducible assumption
      | dsimp only
      | with_reducible refine State.enterView_keeps ?_
      | with_reducible refine State.setProg_keeps ?_
      | with_reducible refine State.cmdDone_keeps ?_
      | with_reducible refine State.setCred_keeps ?_
      | with_reducible refine State.setCredW_keeps ?_
      | with_reducible refine State.zeroDst_keeps ?_
      | intro _
      | split

theorem State.credSwitch_keeps {s : State} {q : Nat} {c : QCmd} {k : Nat} {g : CredG} {p : CredW} {bs : List (Byte × Bool)} (h_s : Memory.wf s.mem = true) :
    Memory.wf (State.credSwitch s q c k g p bs).mem = true := by
  unfold State.credSwitch
  repeat' first
      | with_reducible assumption
      | dsimp only
      | with_reducible refine State.cmdDone_keeps ?_
      | with_reducible refine State.setCred_keeps ?_

theorem execCred_keeps {_c : Cmd} {s : State} (h_s : Memory.wf s.mem = true) :
    KeepsR (execCred _c s) := by
  unfold execCred
  repeat' first
      | with_reducible assumption
      | with_reducible refine keepsR_next ?_
      | dsimp only
      | with_reducible refine State.setProg_keeps ?_
      | with_reducible refine State.cmdDone_keeps ?_
      | with_reducible refine State.cmdTrap_keeps ?_
      | with_reducible refine State.checked_keeps ?_ ?_
      | with_reducible refine State.engRead_keeps ?_
      | with_reducible refine State.engRead_keeps_ok ‹_› ?_
      | with_reducible refine State.engRead_keeps_err ‹_› ?_
      | with_reducible refine State.grains_keeps ?_
      | with_reducible refine State.grains_keeps_eq ‹_› ?_
      | with_reducible refine State.setCredW_keeps ?_
      | with_reducible refine State.credEdge_keeps ?_
      | with_reducible refine State.credSwitch_keeps ?_
      | intro _
      | split

end Sys2Proof.Machine
end

