-- ==== Sys2Proof/Laws/KeepFabric.lean ====
section
/-! SUPPORT. The operations of Machine/Fabric.lean keep memory in its canonical form. -/

namespace Sys2Proof.Machine

theorem State.toReturn_keeps {s : State} {k site : Nat} {t : Tok} (h_s : Memory.wf s.mem = true) :
    Memory.wf (State.toReturn s k site t).mem = true := by
  unfold State.toReturn
  repeat' first
      | with_reducible assumption
      | dsimp only
      | with_reducible refine State.setCtl_keeps ?_
      | intro _
      | split

theorem State.emit_keeps {s : State} {k site : Nat} {os : List OutP} {keep : Bool} {t : Tok} (h_s : Memory.wf s.mem = true) :
    Memory.wf (State.emit s k site os keep t).mem = true := by
  unfold State.emit
  repeat' first
      | with_reducible assumption
      | dsimp only
      | with_reducible refine State.setPlane_keeps ?_
      | with_reducible refine State.toReturn_keeps ?_
      | with_reducible refine foldl_keeps ?_ ?_
      | intro _
      | split

theorem State.setResid_keeps {s : State} {i : Nat} {r : Resid} (h_s : Memory.wf s.mem = true) :
    Memory.wf (State.setResid s i r).mem = true := by
  unfold State.setResid
  repeat' first
      | with_reducible assumption

theorem State.modResid_keeps {s : State} {i : Nat} {f : Resid → Resid} (h_s : Memory.wf s.mem = true) :
    Memory.wf (State.modResid s i f).mem = true := by
  unfold State.modResid
  repeat' first
      | with_reducible assumption
      | dsimp only
      | with_reducible refine State.setResid_keeps ?_
      | intro _
      | split

theorem State.modSlotOf_keeps {s : State} {c site : Nat} {f : EdgeSlot → EdgeSlot} (h_s : Memory.wf s.mem = true) :
    Memory.wf (State.modSlotOf s c site f).mem = true := by
  unfold State.modSlotOf
  repeat' first
      | with_reducible assumption
      | dsimp only
      | with_reducible refine State.setCtl_keeps ?_
      | intro _
      | split

theorem State.putStatus_keeps {s : State} {i : Nat} (h_s : Memory.wf s.mem = true) :
    Memory.wf (State.putStatus s i).mem = true := by
  unfold State.putStatus
  repeat' first
      | with_reducible assumption
      | dsimp only
      | with_reducible refine State.modNode_keeps ?_
      | with_reducible refine State.hwWrite_keeps ?_
      | intro _
      | split

theorem State.putWord4_keeps {s : State} {c sl : Nat} (h_s : Memory.wf s.mem = true) :
    Memory.wf (State.putWord4 s c sl).mem = true := by
  unfold State.putWord4
  repeat' first
      | with_reducible assumption
      | dsimp only
      | with_reducible refine State.hwWrite_keeps ?_
      | intro _
      | split

theorem State.fabHalt_keeps {s : State} {k site cause : Nat} (h_s : Memory.wf s.mem = true) :
    Memory.wf (State.fabHalt s k site cause).mem = true := by
  unfold State.fabHalt
  repeat' first
      | with_reducible assumption
      | dsimp only
      | with_reducible refine State.setCtl_keeps ?_
      | with_reducible refine State.raiseEv_keeps ?_
      | with_reducible refine State.setResid_keeps ?_
      | with_reducible refine State.putStatus_keeps ?_
      | with_reducible refine State.putWord4_keeps ?_
      | intro _
      | split

theorem State.setLenmis_keeps {s : State} {k site : Nat} (h_s : Memory.wf s.mem = true) :
    Memory.wf (State.setLenmis s k site).mem = true := by
  unfold State.setLenmis
  repeat' first
      | with_reducible assumption
      | dsimp only
      | with_reducible refine State.setCtl_keeps ?_
      | with_reducible refine State.setResid_keeps ?_
      | with_reducible refine State.putStatus_keeps ?_
      | with_reducible refine State.putWord4_keeps ?_
      | intro _
      | split

end Sys2Proof.Machine
end

