-- ==== Sys2Proof/Laws/KeepCells.lean ====
section
/-! SUPPORT. The operations of Machine/Cells.lean keep memory in its canonical form. -/

namespace Sys2Proof.Machine

theorem State.setPortToks_keeps {s : State} {k site sel : Nat} {ts : List Tok} (h_s : Memory.wf s.mem = true) :
    Memory.wf (State.setPortToks s k site sel ts).mem = true := by
  unfold State.setPortToks
  repeat' first
      | with_reducible assumption
      | dsimp only
      | with_reducible refine State.setPlane_keeps ?_
      | with_reducible refine State.modResid_keeps ?_
      | with_reducible refine State.modSlotOf_keeps ?_
      | intro _
      | split

theorem State.takeIn_keeps {s : State} {k site sel : Nat} (h_s : Memory.wf s.mem = true) :
    Memory.wf (State.takeIn s k site sel).mem = true := by
  unfold State.takeIn
  repeat' first
      | with_reducible assumption
      | dsimp only
      | with_reducible refine State.setPlane_keeps ?_
      | with_reducible refine State.setPortToks_keeps ?_
      | intro _
      | split

theorem State.spreadEos_keeps {s : State} {k site : Nat} (h_s : Memory.wf s.mem = true) :
    Memory.wf (State.spreadEos s k site).mem = true := by
  unfold State.spreadEos
  repeat' first
      | with_reducible assumption
      | dsimp only
      | with_reducible refine State.setPlane_keeps ?_
      | with_reducible refine State.setPortToks_keeps ?_
      | with_reducible refine foldl_keeps ?_ ?_
      | intro _
      | split

theorem State.takeAll_keeps {s : State} {k site : Nat} {sels : List Nat} (h_s : Memory.wf s.mem = true) :
    Memory.wf (State.takeAll s k site sels).mem = true := by
  unfold State.takeAll
  repeat' first
      | with_reducible assumption
      | dsimp only
      | with_reducible refine State.takeIn_keeps ?_
      | with_reducible refine foldl_keeps ?_ ?_
      | intro _

theorem State.drainSite_keeps {s : State} {k site : Nat} {ins : List (Nat × Nat)} {flag : Bool} (h_s : Memory.wf s.mem = true) :
    Memory.wf (State.drainSite s k site ins flag).mem = true := by
  unfold State.drainSite
  repeat' first
      | with_reducible assumption
      | dsimp only
      | with_reducible refine State.setCell_keeps ?_
      | with_reducible refine State.setLenmis_keeps ?_
      | with_reducible refine State.takeIn_keeps ?_
      | with_reducible refine foldl_keeps ?_ ?_
      | intro _
      | split

theorem State.endSite_keeps {s : State} {k site : Nat} {ins : List (Nat × Nat)} {os : List OutP} (h_s : Memory.wf s.mem = true) :
    Memory.wf (State.endSite s k site ins os).mem = true := by
  unfold State.endSite
  repeat' first
      | with_reducible assumption
      | dsimp only
      | with_reducible refine State.setCell_keeps ?_
      | with_reducible refine State.emit_keeps ?_
      | with_reducible refine State.takeAll_keeps ?_

theorem State.payGrain_keeps {s : State} {k x : Nat} (h_s : Memory.wf s.mem = true) :
    Memory.wf (State.payGrain s k x).1.mem = true := by
  unfold State.payGrain
  repeat' first
      | with_reducible assumption
      | dsimp only
      | with_reducible refine State.grain_keeps ?_
      | with_reducible refine State.grain_keeps_eq ‹_› ?_
      | with_reducible refine State.modResid_keeps ?_
      | intro _
      | split

theorem State.payGrain_keeps_eq {s : State} {k x : Nat} {t' : State} {b' : _} (eq_ : State.payGrain s k x = (t', b')) (h_s : Memory.wf s.mem = true) :
    Memory.wf t'.mem = true := by
  have h : Memory.wf (State.payGrain s k x).1.mem = true := State.payGrain_keeps h_s
  rw [eq_] at h
  exact h

theorem State.collect_keeps {s : State} {a : Seat} {os : List OutP} (h_s : Memory.wf s.mem = true) :
    Memory.wf (State.collect s a os).mem = true := by
  unfold State.collect
  repeat' first
      | with_reducible assumption
      | dsimp only
      | with_reducible refine State.setCell_keeps ?_
      | with_reducible refine State.setLane_keeps ?_
      | with_reducible refine State.emit_keeps ?_
      | intro _
      | split

theorem State.endFiring_keeps {s : State} {a : Seat} {ts : List Tok} (h_s : Memory.wf s.mem = true) :
    Memory.wf (State.endFiring s a ts).mem = true := by
  unfold State.endFiring
  repeat' first
      | with_reducible assumption
      | dsimp only
      | with_reducible refine State.setLane_keeps ?_

theorem State.latch_keeps {s : State} {a : Seat} {ins : List (Nat × Nat)} (h_s : Memory.wf s.mem = true) :
    Memory.wf (State.latch s a ins).mem = true := by
  unfold State.latch
  repeat' first
      | with_reducible assumption
      | dsimp only
      | with_reducible refine State.setLane_keeps ?_
      | with_reducible refine State.takeAll_keeps ?_

theorem State.endStep_keeps {s : State} {a : Seat} {ins : List (Nat × Nat)} {os : List OutP} {flag : Bool} (h_s : Memory.wf s.mem = true) :
    Memory.wf (State.endStep s a ins os flag).mem = true := by
  unfold State.endStep
  repeat' first
      | with_reducible assumption
      | dsimp only
      | with_reducible refine State.setCell_keeps ?_
      | with_reducible refine State.emit_keeps ?_
      | with_reducible refine State.drainSite_keeps ?_
      | intro _
      | split

theorem State.onSite_keeps {s : State} {a : Seat} {w : W64} {os : List OutP} {ins : List (Nat × Nat)} {flag : Bool} {act : State → State} (h_s : Memory.wf s.mem = true) (h_act : ∀ (a0 : State), Memory.wf a0.mem = true → Memory.wf (act a0).mem = true) :
    Memory.wf (State.onSite s a w os ins flag act).mem = true := by
  unfold State.onSite
  repeat' first
      | with_reducible assumption
      | with_reducible refine h_act _ ?_
      | dsimp only
      | with_reducible refine State.spreadEos_keeps ?_
      | with_reducible refine State.collect_keeps ?_
      | with_reducible refine State.endStep_keeps ?_
      | intro _
      | split

theorem State.dealEos_keeps {s : State} {a : Seat} {ins : List (Nat × Nat)} (h_s : Memory.wf s.mem = true) :
    Memory.wf (State.dealEos s a ins).mem = true := by
  unfold State.dealEos
  repeat' first
      | with_reducible assumption
      | dsimp only
      | with_reducible refine State.setCell_keeps ?_
      | with_reducible refine State.setLane_keeps ?_
      | with_reducible refine State.takeAll_keeps ?_
      | with_reducible refine foldl_keeps ?_ ?_
      | intro _

theorem State.startFiring_keeps {s : State} {a : Seat} {ins : List (Nat × Nat)} {os : List OutP} {sends : Bool} {ok : List Tok → Bool} {last : Lane → List Tok} {go : State → State} (h_s : Memory.wf s.mem = true) (h_go : ∀ (a0 : State), Memory.wf a0.mem = true → Memory.wf (go a0).mem = true) :
    Memory.wf (State.startFiring s a ins os sends ok last go).mem = true := by
  unfold State.startFiring
  repeat' first
      | with_reducible assumption
      | with_reducible refine h_go _ ?_
      | dsimp only
      | with_reducible refine State.setCell_keeps ?_
      | with_reducible refine State.setLane_keeps ?_
      | with_reducible refine State.emit_keeps ?_
      | with_reducible refine State.fabHalt_keeps ?_
      | with_reducible refine State.endSite_keeps ?_
      | with_reducible refine State.payGrain_keeps ?_
      | with_reducible refine State.payGrain_keeps_eq ‹_› ?_
      | with_reducible refine State.latch_keeps ?_
      | with_reducible refine State.dealEos_keeps ?_
      | with_reducible refine foldl_keeps ?_ ?_
      | intro _
      | split

theorem State.operate_keeps {s : State} {w : W64} {sends : Bool} {ok : List Tok → Bool} {last : Lane → List Tok} {go : Seat → List OutP → State → State} (h_s : Memory.wf s.mem = true) (h_go : ∀ (a0 : Seat) (a1 : List OutP) (a2 : State), Memory.wf a2.mem = true → Memory.wf (go a0 a1 a2).mem = true) :
    Memory.wf (State.operate s w sends ok last go).mem = true := by
  unfold State.operate
  repeat' first
      | with_reducible assumption
      | with_reducible refine h_go _ _ _ ?_
      | dsimp only
      | with_reducible refine State.onSite_keeps ?_ ?_
      | with_reducible refine State.startFiring_keeps ?_ ?_
      | intro _
      | split

theorem State.setFabGen_keeps {s : State} {k x : Nat} {g : W32} (h_s : Memory.wf s.mem = true) :
    Memory.wf (State.setFabGen s k x g).mem = true := by
  unfold State.setFabGen
  repeat' first
      | with_reducible assumption
      | dsimp only
      | with_reducible refine State.setCtl_keeps ?_
      | with_reducible refine State.modResid_keeps ?_
      | intro _
      | split

theorem State.peOp_keeps {s : State} {w : W64} {ty : Nat} {f : W32 → List Opnd → Nat} {rty : Nat} {rs : Bool} (h_s : Memory.wf s.mem = true) :
    Memory.wf (State.peOp s w ty f rty rs).mem = true := by
  unfold State.peOp
  repeat' first
      | with_reducible assumption
      | dsimp only
      | with_reducible refine State.fabHalt_keeps ?_
      | with_reducible refine State.collect_keeps ?_
      | with_reducible refine State.endFiring_keeps ?_
      | with_reducible refine State.operate_keeps ?_ ?_
      | with_reducible refine State.setFabGen_keeps ?_
      | intro _
      | split

theorem execPadd_keeps {w : W64} {s : State} (h_s : Memory.wf s.mem = true) :
    KeepsR (execPadd w s) := by
  unfold execPadd
  repeat' first
      | with_reducible assumption
      | with_reducible refine keepsR_next ?_
      | dsimp only
      | with_reducible refine State.peOp_keeps ?_

theorem execPsub_keeps {w : W64} {s : State} (h_s : Memory.wf s.mem = true) :
    KeepsR (execPsub w s) := by
  unfold execPsub
  repeat' first
      | with_reducible assumption
      | with_reducible refine keepsR_next ?_
      | dsimp only
      | with_reducible refine State.peOp_keeps ?_

theorem execPmul_keeps {w : W64} {s : State} (h_s : Memory.wf s.mem = true) :
    KeepsR (execPmul w s) := by
  unfold execPmul
  repeat' first
      | with_reducible assumption
      | with_reducible refine keepsR_next ?_
      | dsimp only
      | with_reducible refine State.peOp_keeps ?_

theorem execPfma_keeps {w : W64} {s : State} (h_s : Memory.wf s.mem = true) :
    KeepsR (execPfma w s) := by
  unfold execPfma
  repeat' first
      | with_reducible assumption
      | with_reducible refine keepsR_next ?_
      | dsimp only
      | with_reducible refine State.peOp_keeps ?_

theorem execPmin_keeps {w : W64} {s : State} (h_s : Memory.wf s.mem = true) :
    KeepsR (execPmin w s) := by
  unfold execPmin
  repeat' first
      | with_reducible assumption
      | with_reducible refine keepsR_next ?_
      | dsimp only
      | with_reducible refine State.peOp_keeps ?_

theorem execPmax_keeps {w : W64} {s : State} (h_s : Memory.wf s.mem = true) :
    KeepsR (execPmax w s) := by
  unfold execPmax
  repeat' first
      | with_reducible assumption
      | with_reducible refine keepsR_next ?_
      | dsimp only
      | with_reducible refine State.peOp_keeps ?_

theorem execPcmp_keeps {w : W64} {s : State} (h_s : Memory.wf s.mem = true) :
    KeepsR (execPcmp w s) := by
  unfold execPcmp
  repeat' first
      | with_reducible assumption
      | with_reducible refine keepsR_next ?_
      | dsimp only
      | with_reducible refine State.peOp_keeps ?_

theorem execPlog_keeps {w : W64} {s : State} (h_s : Memory.wf s.mem = true) :
    KeepsR (execPlog w s) := by
  unfold execPlog
  repeat' first
      | with_reducible assumption
      | with_reducible refine keepsR_next ?_
      | dsimp only
      | with_reducible refine State.peOp_keeps ?_

theorem execPshf_keeps {w : W64} {s : State} (h_s : Memory.wf s.mem = true) :
    KeepsR (execPshf w s) := by
  unfold execPshf
  repeat' first
      | with_reducible assumption
      | with_reducible refine keepsR_next ?_
      | dsimp only
      | with_reducible refine State.peOp_keeps ?_

theorem execPcvt_keeps {w : W64} {s : State} (h_s : Memory.wf s.mem = true) :
    KeepsR (execPcvt w s) := by
  unfold execPcvt
  repeat' first
      | with_reducible assumption
      | with_reducible refine keepsR_next ?_
      | dsimp only
      | with_reducible refine State.peOp_keeps ?_

theorem execPacc_keeps {w : W64} {s : State} (h_s : Memory.wf s.mem = true) :
    KeepsR (execPacc w s) := by
  unfold execPacc
  repeat' first
      | with_reducible assumption
      | with_reducible refine keepsR_next ?_
      | dsimp only
      | with_reducible refine State.setLane_keeps ?_
      | with_reducible refine State.fabHalt_keeps ?_
      | with_reducible refine State.collect_keeps ?_
      | with_reducible refine State.endFiring_keeps ?_
      | with_reducible refine State.operate_keeps ?_ ?_
      | intro _
      | split

theorem execPlut_keeps {w : W64} {s : State} (h_s : Memory.wf s.mem = true) :
    KeepsR (execPlut w s) := by
  unfold execPlut
  repeat' first
      | with_reducible assumption
      | with_reducible refine keepsR_next ?_
      | dsimp only
      | with_reducible refine State.fabHalt_keeps ?_
      | with_reducible refine State.takeIn_keeps ?_
      | with_reducible refine State.endSite_keeps ?_
      | with_reducible refine State.collect_keeps ?_
      | with_reducible refine State.endFiring_keeps ?_
      | with_reducible refine State.onSite_keeps ?_ ?_
      | intro _
      | split

theorem State.fabAccess_keeps {s : State} {k site : Nat} {va : W64} {bad : Bool} {n : Nat} {wr : Option (List (Byte × Bool))} {f : GenFault} (h_s : Memory.wf s.mem = true) :
    KeepsEP (State.fabAccess s k site va bad n wr f) := by
  unfold State.fabAccess
  repeat' first
      | with_reducible assumption
      | with_reducible refine keepsEP_ok ?_
      | with_reducible refine keepsEP_err ?_
      | dsimp only
      | with_reducible refine State.raiseEv_keeps ?_
      | with_reducible refine State.setLane_keeps ?_
      | with_reducible refine State.raiseGen_keeps ?_
      | with_reducible refine State.write_keeps ?_
      | with_reducible refine State.askWalk_keeps ?_
      | with_reducible refine State.enterView_keeps ?_
      | intro _
      | split

theorem State.fabAccess_keeps_ok {s : State} {k site : Nat} {va : W64} {bad : Bool} {n : Nat} {wr : Option (List (Byte × Bool))} {f : GenFault} {t' : State} {b' : _} (eq_ : State.fabAccess s k site va bad n wr f = .ok (t', b')) (h_s : Memory.wf s.mem = true) :
    Memory.wf t'.mem = true := by
  have h : KeepsEP (State.fabAccess s k site va bad n wr f) := State.fabAccess_keeps h_s
  rw [eq_] at h
  exact h

theorem State.fabAccess_keeps_err {s : State} {k site : Nat} {va : W64} {bad : Bool} {n : Nat} {wr : Option (List (Byte × Bool))} {f : GenFault} {t' : State} (eq_ : State.fabAccess s k site va bad n wr f = .error t') (h_s : Memory.wf s.mem = true) :
    Memory.wf t'.mem = true := by
  have h : KeepsEP (State.fabAccess s k site va bad n wr f) := State.fabAccess_keeps h_s
  rw [eq_] at h
  exact h

theorem State.portOp_keeps {s : State} {w : W64} {go : Seat → List OutP → Opnd → Opnd → State → State} (h_s : Memory.wf s.mem = true) (h_go : ∀ (a0 : Seat) (a1 : List OutP) (a2 : Opnd) (a3 : Opnd) (a4 : State), Memory.wf a4.mem = true → Memory.wf (go a0 a1 a2 a3 a4).mem = true) :
    Memory.wf (State.portOp s w go).mem = true := by
  unfold State.portOp
  repeat' first
      | with_reducible assumption
      | with_reducible refine h_go _ _ _ _ _ ?_
      | dsimp only
      | with_reducible refine State.fabHalt_keeps ?_
      | with_reducible refine State.operate_keeps ?_ ?_
      | intro _
      | split

theorem execPld_keeps {w : W64} {s : State} (h_s : Memory.wf s.mem = true) :
    KeepsR (execPld w s) := by
  unfold execPld
  repeat' first
      | with_reducible assumption
      | with_reducible refine keepsR_next ?_
      | dsimp only
      | with_reducible refine State.collect_keeps ?_
      | with_reducible refine State.endFiring_keeps ?_
      | with_reducible refine State.fabAccess_keeps ?_
      | with_reducible refine State.fabAccess_keeps_ok ‹_› ?_
      | with_reducible refine State.fabAccess_keeps_err ‹_› ?_
      | with_reducible refine State.portOp_keeps ?_ ?_
      | intro _
      | split

theorem execPst_keeps {w : W64} {s : State} (h_s : Memory.wf s.mem = true) :
    KeepsR (execPst w s) := by
  unfold execPst
  repeat' first
      | with_reducible assumption
      | with_reducible refine keepsR_next ?_
      | dsimp only
      | with_reducible refine State.collect_keeps ?_
      | with_reducible refine State.endFiring_keeps ?_
      | with_reducible refine State.fabAccess_keeps ?_
      | with_reducible refine State.fabAccess_keeps_ok ‹_› ?_
      | with_reducible refine State.fabAccess_keeps_err ‹_› ?_
      | with_reducible refine State.portOp_keeps ?_ ?_
      | intro _
      | split

theorem State.genShort_keeps {s : State} {k site : Nat} {ins : List (Nat × Nat)} {os : List OutP} (h_s : Memory.wf s.mem = true) :
    Memory.wf (State.genShort s k site ins os).mem = true := by
  unfold State.genShort
  repeat' first
      | with_reducible assumption
      | dsimp only
      | with_reducible refine State.fabHalt_keeps ?_
      | with_reducible refine State.setLenmis_keeps ?_
      | with_reducible refine State.endSite_keeps ?_
      | intro _
      | split

theorem State.genDone_keeps {s : State} {k site : Nat} {os : List OutP} {ws : List W64} {bs : List (Byte × Bool)} (h_s : Memory.wf s.mem = true) :
    Memory.wf (State.genDone s k site os ws bs).mem = true := by
  unfold State.genDone
  repeat' first
      | with_reducible assumption
      | dsimp only
      | with_reducible refine State.setCell_keeps ?_
      | with_reducible refine State.setLane_keeps ?_
      | with_reducible refine State.emit_keeps ?_
      | intro _
      | split

theorem State.genGo_keeps {s : State} {k site : Nat} {os : List OutP} {ws : List W64} (h_s : Memory.wf s.mem = true) :
    Memory.wf (State.genGo s k site os ws).mem = true := by
  unfold State.genGo
  repeat' first
      | with_reducible assumption
      | dsimp only
      | with_reducible refine State.fabAccess_keeps ?_
      | with_reducible refine State.fabAccess_keeps_ok ‹_› ?_
      | with_reducible refine State.fabAccess_keeps_err ‹_› ?_
      | with_reducible refine State.genDone_keeps ?_
      | with_reducible refine keepsO_getD ?_ ?_
      | intro _
      | split

theorem State.genIter_keeps {s : State} {a : Seat} {ins : List (Nat × Nat)} {os : List OutP} {ws : List W64} (h_s : Memory.wf s.mem = true) :
    Memory.wf (State.genIter s a ins os ws).mem = true := by
  unfold State.genIter
  repeat' first
      | with_reducible assumption
      | dsimp only
      | with_reducible refine State.fabHalt_keeps ?_
      | with_reducible refine State.latch_keeps ?_
      | with_reducible refine State.genShort_keeps ?_
      | with_reducible refine State.genGo_keeps ?_
      | intro _
      | split

theorem execPag_keeps {w : W64} {s : State} (h_s : Memory.wf s.mem = true) :
    KeepsR (execPag w s) := by
  unfold execPag
  repeat' first
      | with_reducible assumption
      | with_reducible refine keepsR_next ?_
      | dsimp only
      | with_reducible refine State.setCell_keeps ?_
      | with_reducible refine State.emit_keeps ?_
      | with_reducible refine State.onSite_keeps ?_ ?_
      | with_reducible refine State.genGo_keeps ?_
      | with_reducible refine State.genIter_keeps ?_
      | intro _
      | split

theorem State.rtTake_keeps {s : State} {k c code : Nat} (h_s : Memory.wf s.mem = true) :
    Memory.wf (State.rtTake s k c code).mem = true := by
  unfold State.rtTake
  repeat' first
      | with_reducible assumption
      | dsimp only
      | with_reducible refine State.setPlane_keeps ?_

theorem State.rtEnd_keeps {s : State} {k site : Nat} {ps : List Nat} {i : Nat} {os : List OutP} (h_s : Memory.wf s.mem = true) :
    Memory.wf (State.rtEnd s k site ps i os).mem = true := by
  unfold State.rtEnd
  repeat' first
      | with_reducible assumption
      | dsimp only
      | with_reducible refine State.setCell_keeps ?_
      | with_reducible refine State.emit_keeps ?_
      | with_reducible refine State.rtTake_keeps ?_

theorem State.rtDrain_keeps {s : State} {k site op : Nat} {ps : List Nat} (h_s : Memory.wf s.mem = true) :
    Memory.wf (State.rtDrain s k site op ps).mem = true := by
  unfold State.rtDrain
  repeat' first
      | with_reducible assumption
      | dsimp only
      | with_reducible refine State.setCell_keeps ?_
      | with_reducible refine State.rtTake_keeps ?_
      | intro _
      | split

theorem State.onRouter_keeps {s : State} {w : W64} {act : Nat → Nat → List Nat → State} (h_s : Memory.wf s.mem = true) (h_act : ∀ (a0 : Nat) (a1 : Nat) (a2 : List Nat), Memory.wf (act a0 a1 a2).mem = true) :
    Memory.wf (State.onRouter s w act).mem = true := by
  unfold State.onRouter
  repeat' first
      | with_reducible assumption
      | with_reducible refine h_act _ _ _
      | dsimp only
      | with_reducible refine State.rtDrain_keeps ?_
      | intro _
      | split

theorem State.rtSend_keeps {s : State} {k site : Nat} {takes : List Nat} {os : List OutP} {t : Tok} {st : Cell → Cell} (h_s : Memory.wf s.mem = true) :
    Memory.wf (State.rtSend s k site takes os t st).mem = true := by
  unfold State.rtSend
  repeat' first
      | with_reducible assumption
      | dsimp only
      | with_reducible refine State.setCell_keeps ?_
      | with_reducible refine State.emit_keeps ?_
      | with_reducible refine State.rtTake_keeps ?_
      | with_reducible refine foldl_keeps ?_ ?_
      | intro _
      | split

theorem execRouterPass_keeps {w : W64} {s : State} (h_s : Memory.wf s.mem = true) :
    KeepsR (execRouterPass w s) := by
  unfold execRouterPass
  repeat' first
      | with_reducible assumption
      | with_reducible refine keepsR_next ?_
      | dsimp only
      | with_reducible refine State.rtEnd_keeps ?_
      | with_reducible refine State.onRouter_keeps ?_ ?_
      | with_reducible refine State.rtSend_keeps ?_
      | intro _
      | split

theorem execSteer_keeps {w : W64} {s : State} (h_s : Memory.wf s.mem = true) :
    KeepsR (execSteer w s) := by
  unfold execSteer
  repeat' first
      | with_reducible assumption
      | with_reducible refine keepsR_next ?_
      | dsimp only
      | with_reducible refine State.rtTake_keeps ?_
      | with_reducible refine State.rtEnd_keeps ?_
      | with_reducible refine State.onRouter_keeps ?_ ?_
      | with_reducible refine State.rtSend_keeps ?_
      | intro _
      | split

theorem execCarry_keeps {w : W64} {s : State} (h_s : Memory.wf s.mem = true) :
    KeepsR (execCarry w s) := by
  unfold execCarry
  repeat' first
      | with_reducible assumption
      | with_reducible refine keepsR_next ?_
      | dsimp only
      | with_reducible refine State.setCell_keeps ?_
      | with_reducible refine State.rtTake_keeps ?_
      | with_reducible refine State.rtEnd_keeps ?_
      | with_reducible refine State.onRouter_keeps ?_ ?_
      | with_reducible refine State.rtSend_keeps ?_
      | intro _
      | split

theorem execInvar_keeps {w : W64} {s : State} (h_s : Memory.wf s.mem = true) :
    KeepsR (execInvar w s) := by
  unfold execInvar
  repeat' first
      | with_reducible assumption
      | with_reducible refine keepsR_next ?_
      | dsimp only
      | with_reducible refine State.setCell_keeps ?_
      | with_reducible refine State.rtTake_keeps ?_
      | with_reducible refine State.rtEnd_keeps ?_
      | with_reducible refine State.onRouter_keeps ?_ ?_
      | with_reducible refine State.rtSend_keeps ?_
      | intro _
      | split

theorem execMerge_keeps {w : W64} {s : State} (h_s : Memory.wf s.mem = true) :
    KeepsR (execMerge w s) := by
  unfold execMerge
  repeat' first
      | with_reducible assumption
      | with_reducible refine keepsR_next ?_
      | dsimp only
      | with_reducible refine State.rtTake_keeps ?_
      | with_reducible refine State.rtEnd_keeps ?_
      | with_reducible refine State.onRouter_keeps ?_ ?_
      | with_reducible refine State.rtSend_keeps ?_
      | intro _
      | split

end Sys2Proof.Machine
end

