-- ==== Sys2Proof/Laws/KeepEdge.lean ====
section
/-! SUPPORT. The operations of Machine/Edge.lean keep memory in its canonical form. -/

namespace Sys2Proof.Machine

theorem State.setSlot_keeps {s : State} {c sl : Nat} {e : EdgeSlot} (h_s : Memory.wf s.mem = true) :
    Memory.wf (State.setSlot s c sl e).mem = true := by
  unfold State.setSlot
  repeat' first
      | with_reducible assumption
      | dsimp only
      | with_reducible refine State.setCtl_keeps ?_

theorem State.mark_keeps {s : State} {k x m : Nat} (h_s : Memory.wf s.mem = true) :
    Memory.wf (State.mark s k x m).mem = true := by
  unfold State.mark
  repeat' first
      | with_reducible assumption
      | dsimp only
      | with_reducible refine State.setLane_keeps ?_
      | intro _
      | split

theorem State.viewCore_keeps {s : State} {n id : Nat} {v : VAcc} {bs : List (Byte × Bool)} (h_s : Memory.wf s.mem = true) :
    Memory.wf (State.viewCore s n id v bs).mem = true := by
  unfold State.viewCore
  repeat' first
      | with_reducible assumption
      | dsimp only
      | with_reducible refine State.setCore_keeps ?_
      | with_reducible refine State.taintFault_keeps ?_
      | with_reducible refine State.endParked_keeps ?_
      | intro _
      | split

theorem State.viewFab_keeps {s : State} {k site : Nat} {bs : List (Byte × Bool)} (h_s : Memory.wf s.mem = true) :
    Memory.wf (State.viewFab s k site bs).mem = true := by
  unfold State.viewFab
  repeat' first
      | with_reducible assumption
      | dsimp only
      | with_reducible refine State.setLane_keeps ?_
      | with_reducible refine State.endFiring_keeps ?_
      | with_reducible refine State.genDone_keeps ?_
      | intro _
      | split

theorem State.viewDone_keeps {s : State} {v : VAcc} {bs : List (Byte × Bool)} (h_s : Memory.wf s.mem = true) :
    Memory.wf (State.viewDone s v bs).mem = true := by
  unfold State.viewDone
  repeat' first
      | with_reducible assumption
      | dsimp only
      | with_reducible refine State.setProg_keeps ?_
      | with_reducible refine State.setGt_keeps ?_
      | with_reducible refine State.modJob_keeps ?_
      | with_reducible refine State.setRed_keeps ?_
      | with_reducible refine State.setCredW_keeps ?_
      | with_reducible refine State.viewCore_keeps ?_
      | with_reducible refine State.viewFab_keeps ?_
      | intro _
      | split

theorem State.viewOver_keeps {s : State} {c sl : Nat} {v : VAcc} {bs : List (Byte × Bool)} (h_s : Memory.wf s.mem = true) :
    Memory.wf (State.viewOver s c sl v bs).mem = true := by
  unfold State.viewOver
  repeat' first
      | with_reducible assumption
      | dsimp only
      | with_reducible refine State.putWord4_keeps ?_
      | with_reducible refine State.setSlot_keeps ?_
      | with_reducible refine State.viewDone_keeps ?_

theorem State.viewKill_keeps {s : State} {v : VAcc} (h_s : Memory.wf s.mem = true) :
    Memory.wf (State.viewKill s v).mem = true := by
  unfold State.viewKill
  repeat' first
      | with_reducible assumption
      | dsimp only
      | with_reducible refine State.viewDone_keeps ?_

theorem State.slotKill_keeps {s : State} {c sl : Nat} (h_s : Memory.wf s.mem = true) :
    Memory.wf (State.slotKill s c sl).mem = true := by
  unfold State.slotKill
  repeat' first
      | with_reducible assumption
      | dsimp only
      | with_reducible refine State.setSlot_keeps ?_
      | with_reducible refine State.viewKill_keeps ?_
      | with_reducible refine foldl_keeps ?_ ?_
      | intro _

theorem State.viewReturn_keeps {s : State} {c sl : Nat} {e : EdgeSlot} {t : Tok} {rest : List Tok} (h_s : Memory.wf s.mem = true) :
    Memory.wf (State.viewReturn s c sl e t rest).mem = true := by
  unfold State.viewReturn
  repeat' first
      | with_reducible assumption
      | dsimp only
      | with_reducible refine State.putWord4_keeps ?_
      | with_reducible refine State.fabHalt_keeps ?_
      | with_reducible refine State.setSlot_keeps ?_
      | intro _
      | split

theorem State.viewOffer_keeps {s : State} {c sl : Nat} {e : EdgeSlot} (h_s : Memory.wf s.mem = true) :
    Memory.wf (State.viewOffer s c sl e).mem = true := by
  unfold State.viewOffer
  repeat' first
      | with_reducible assumption
      | dsimp only
      | with_reducible refine State.setSlot_keeps ?_
      | intro _
      | split

theorem execViewAccess_keeps {ctl slot : Nat} {s : State} (h_s : Memory.wf s.mem = true) :
    KeepsR (execViewAccess ctl slot s) := by
  unfold execViewAccess
  repeat' first
      | with_reducible assumption
      | with_reducible refine keepsR_next ?_
      | dsimp only
      | with_reducible refine State.viewOver_keeps ?_
      | with_reducible refine State.viewReturn_keeps ?_
      | with_reducible refine State.viewOffer_keeps ?_
      | intro _
      | split

theorem State.accPiece_keeps {s : State} {c sl : Nat} {e : EdgeSlot} {v : VAcc} (h_s : Memory.wf s.mem = true) :
    Memory.wf (State.accPiece s c sl e v).mem = true := by
  unfold State.accPiece
  repeat' first
      | with_reducible assumption
      | dsimp only
      | with_reducible refine State.raiseGen_keeps ?_
      | with_reducible refine State.write_keeps ?_
      | with_reducible refine State.askWalk_keeps ?_
      | with_reducible refine State.setSlot_keeps ?_
      | with_reducible refine State.viewOver_keeps ?_
      | intro _
      | split

theorem execAccumulateWrite_keeps {ctl slot : Nat} {s : State} (h_s : Memory.wf s.mem = true) :
    KeepsR (execAccumulateWrite ctl slot s) := by
  unfold execAccumulateWrite
  repeat' first
      | with_reducible assumption
      | with_reducible refine keepsR_next ?_
      | dsimp only
      | with_reducible refine State.accPiece_keeps ?_
      | intro _
      | split

theorem State.bindSlot_keeps {s : State} {c sl : Nat} {desc : W64} {asid : Nat} {ds : List W64} {recs : List (Nat × List W64)} (h_s : Memory.wf s.mem = true) :
    Memory.wf (State.bindSlot s c sl desc asid ds recs).mem = true := by
  unfold State.bindSlot
  repeat' first
      | with_reducible assumption
      | dsimp only
      | with_reducible refine State.setCtl_keeps ?_
      | with_reducible refine State.setCell_keeps ?_
      | with_reducible refine State.putWord4_keeps ?_
      | with_reducible refine State.setSlot_keeps ?_

theorem State.closeSlot_keeps {s : State} {c sl : Nat} (h_s : Memory.wf s.mem = true) :
    Memory.wf (State.closeSlot s c sl).mem = true := by
  unfold State.closeSlot
  repeat' first
      | with_reducible assumption
      | dsimp only
      | with_reducible refine State.setSlot_keeps ?_
      | with_reducible refine State.slotKill_keeps ?_
      | intro _
      | split

theorem State.freeSlot_keeps {s : State} {c sl : Nat} (h_s : Memory.wf s.mem = true) :
    Memory.wf (State.freeSlot s c sl).mem = true := by
  unfold State.freeSlot
  repeat' first
      | with_reducible assumption
      | dsimp only
      | with_reducible refine State.setCtl_keeps ?_
      | with_reducible refine State.setSlot_keeps ?_
      | with_reducible refine State.slotKill_keeps ?_
      | intro _
      | split

theorem State.bindRead_keeps {s : State} {c : QCmd} {va : W64} {n st : Nat} {k : State → List (Byte × Bool) → State} (h_s : Memory.wf s.mem = true) (h_k : ∀ (a0 : State) (a1 : List (Byte × Bool)), Memory.wf a0.mem = true → Memory.wf (k a0 a1).mem = true) :
    Memory.wf (State.bindRead s c va n st k).mem = true := by
  unfold State.bindRead
  repeat' first
      | with_reducible assumption
      | with_reducible refine h_k _ _ ?_
      | dsimp only
      | with_reducible refine State.raiseGen_keeps ?_
      | with_reducible refine State.setProg_keeps ?_
      | with_reducible refine State.cmdDone_keeps ?_
      | with_reducible refine State.engRead_keeps ?_
      | with_reducible refine State.engRead_keeps_ok ‹_› ?_
      | with_reducible refine State.engRead_keeps_err ‹_› ?_
      | intro _
      | split

theorem State.bindEnd_keeps {s : State} {c : QCmd} {ds : List W64} {recs : List (Nat × List W64)} (h_s : Memory.wf s.mem = true) :
    Memory.wf (State.bindEnd s c ds recs).mem = true := by
  unfold State.bindEnd
  repeat' first
      | with_reducible assumption
      | dsimp only
      | with_reducible refine State.cmdDone_keeps ?_
      | with_reducible refine State.bindSlot_keeps ?_
      | intro _
      | split

theorem State.bind_keeps {s : State} {acc : Bool} {c : QCmd} (h_s : Memory.wf s.mem = true) :
    Memory.wf (State.bind s acc c).mem = true := by
  unfold State.bind
  repeat' first
      | with_reducible assumption
      | dsimp only
      | with_reducible refine State.setProg_keeps ?_
      | with_reducible refine State.cmdDone_keeps ?_
      | with_reducible refine State.bindRead_keeps ?_ ?_
      | with_reducible refine State.bindEnd_keeps ?_
      | intro _
      | split

theorem execGbind_keeps {_c : Cmd} {s : State} (h_s : Memory.wf s.mem = true) :
    KeepsR (execGbind _c s) := by
  unfold execGbind
  repeat' first
      | with_reducible assumption
      | with_reducible refine keepsR_next ?_
      | dsimp only
      | with_reducible refine State.checked_keeps ?_ ?_
      | with_reducible refine State.bind_keeps ?_
      | intro _

theorem execGacc_keeps {_c : Cmd} {s : State} (h_s : Memory.wf s.mem = true) :
    KeepsR (execGacc _c s) := by
  unfold execGacc
  repeat' first
      | with_reducible assumption
      | with_reducible refine keepsR_next ?_
      | dsimp only
      | with_reducible refine State.checked_keeps ?_ ?_
      | with_reducible refine State.bind_keeps ?_
      | intro _

theorem execGunbind_keeps {_c : Cmd} {s : State} (h_s : Memory.wf s.mem = true) :
    KeepsR (execGunbind _c s) := by
  unfold execGunbind
  repeat' first
      | with_reducible assumption
      | with_reducible refine keepsR_next ?_
      | dsimp only
      | with_reducible refine State.setProg_keeps ?_
      | with_reducible refine State.cmdDone_keeps ?_
      | with_reducible refine State.checked_keeps ?_ ?_
      | with_reducible refine State.closeSlot_keeps ?_
      | with_reducible refine State.freeSlot_keeps ?_
      | intro _
      | split

end Sys2Proof.Machine
end

