-- ==== Sys2Proof/Laws/KeepResid.lean ====
section
/-! SUPPORT. The operations of Machine/Resid.lean keep memory in its canonical form. -/

namespace Sys2Proof.Machine

theorem State.residNext_keeps {s : State} {i : Nat} {r : Resid} {next : Nat} (h_s : Memory.wf s.mem = true) :
    Memory.wf (State.residNext s i r next).mem = true := by
  unfold State.residNext
  repeat' first
      | with_reducible assumption
      | dsimp only
      | with_reducible refine State.reach_keeps ?_ ?_
      | with_reducible refine State.setResid_keeps ?_
      | with_reducible refine State.putStatus_keeps ?_
      | with_reducible refine State.fabHalt_keeps ?_
      | intro _
      | split

theorem execConfigWordLoad_keeps {res : Nat} {s : State} (h_s : Memory.wf s.mem = true) :
    KeepsR (execConfigWordLoad res s) := by
  unfold execConfigWordLoad
  repeat' first
      | with_reducible assumption
      | with_reducible refine keepsR_next ?_
      | dsimp only
      | with_reducible refine State.setCell_keeps ?_
      | with_reducible refine State.setResid_keeps ?_
      | with_reducible refine State.fabHalt_keeps ?_
      | intro _
      | split

theorem execRequestToken_keeps {res chan : Nat} {s : State} (h_s : Memory.wf s.mem = true) :
    KeepsR (execRequestToken res chan s) := by
  unfold execRequestToken
  repeat' first
      | with_reducible assumption
      | with_reducible refine keepsR_next ?_
      | dsimp only
      | with_reducible refine State.setPlane_keeps ?_
      | intro _
      | split

theorem State.putCells_keeps {s : State} {r : Resid} {p : Plane} (h_s : Memory.wf s.mem = true) :
    Memory.wf (State.putCells s r p).mem = true := by
  unfold State.putCells
  repeat' first
      | with_reducible assumption
      | dsimp only
      | with_reducible refine foldl_keeps ?_ ?_
      | intro _
      | split

theorem State.dropWalks_keeps {s : State} {k : Nat} (h_s : Memory.wf s.mem = true) :
    Memory.wf (State.dropWalks s k).mem = true := by
  unfold State.dropWalks
  repeat' first
      | with_reducible assumption

theorem State.freeze_keeps {s : State} {a : Seat} {r : Resid} {w : W64} (h_s : Memory.wf s.mem = true) :
    Memory.wf (State.freeze s a r w).mem = true := by
  unfold State.freeze
  repeat' first
      | with_reducible assumption
      | dsimp only
      | with_reducible refine State.setLane_keeps ?_
      | with_reducible refine State.setResid_keeps ?_
      | with_reducible refine State.putStatus_keeps ?_
      | with_reducible refine State.fabHalt_keeps ?_
      | with_reducible refine State.putCells_keeps ?_
      | intro _
      | split

theorem State.callOp_keeps {s : State} {w : W64} {mine : Resid → Nat → Bool} {cont go : State → Seat → Resid → State} (h_s : Memory.wf s.mem = true) (h_cont : ∀ (a0 : State) (a1 : Seat) (a2 : Resid), Memory.wf a0.mem = true → Memory.wf (cont a0 a1 a2).mem = true) (h_go : ∀ (a0 : State) (a1 : Seat) (a2 : Resid), Memory.wf a0.mem = true → Memory.wf (go a0 a1 a2).mem = true) :
    Memory.wf (State.callOp s w mine cont go).mem = true := by
  unfold State.callOp
  repeat' first
      | with_reducible assumption
      | with_reducible refine h_go _ _ _ ?_
      | with_reducible refine h_cont _ _ _ ?_
      | dsimp only
      | with_reducible refine State.onSite_keeps ?_ ?_
      | with_reducible refine State.startFiring_keeps ?_ ?_
      | intro _
      | split

theorem execCcall_keeps {w : W64} {s : State} (h_s : Memory.wf s.mem = true) :
    KeepsR (execCcall w s) := by
  unfold execCcall
  repeat' first
      | with_reducible assumption
      | with_reducible refine keepsR_next ?_
      | dsimp only
      | with_reducible refine State.setResid_keeps ?_
      | with_reducible refine State.fabHalt_keeps ?_
      | with_reducible refine State.freeze_keeps ?_
      | with_reducible refine State.callOp_keeps ?_ ?_ ?_
      | intro _
      | split

theorem State.thaw_keeps {s : State} {a : Seat} {r : Resid} {w : W64} (h_s : Memory.wf s.mem = true) :
    Memory.wf (State.thaw s a r w).mem = true := by
  unfold State.thaw
  repeat' first
      | with_reducible assumption
      | dsimp only
      | with_reducible refine State.setLane_keeps ?_
      | with_reducible refine State.setResid_keeps ?_
      | with_reducible refine State.putStatus_keeps ?_
      | with_reducible refine State.fabHalt_keeps ?_
      | with_reducible refine foldl_keeps ?_ ?_
      | intro _
      | split

theorem State.dropResid_keeps {s : State} {i : Nat} (h_s : Memory.wf s.mem = true) :
    Memory.wf (State.dropResid s i).mem = true := by
  unfold State.dropResid
  repeat' first
      | with_reducible assumption
      | dsimp only
      | with_reducible refine State.setPart_keeps ?_
      | with_reducible refine State.spill_keeps ?_
      | with_reducible refine State.dropWalks_keeps ?_
      | with_reducible refine foldl_keeps ?_ ?_
      | intro _
      | split

theorem execConfigStep_keeps {res : Nat} {s : State} (h_s : Memory.wf s.mem = true) :
    KeepsR (execConfigStep res s) := by
  unfold execConfigStep
  repeat' first
      | with_reducible assumption
      | with_reducible refine keepsR_next ?_
      | dsimp only
      | with_reducible refine State.reach_keeps ?_ ?_
      | with_reducible refine State.setResid_keeps ?_
      | with_reducible refine State.putStatus_keeps ?_
      | with_reducible refine State.fabHalt_keeps ?_
      | with_reducible refine State.residNext_keeps ?_
      | with_reducible refine State.dropResid_keeps ?_
      | intro _
      | split

theorem State.instReturn_keeps {s : State} {a : Seat} {r : Resid} {w : W64} {req : Nat × Nat × Nat} (h_s : Memory.wf s.mem = true) :
    Memory.wf (State.instReturn s a r w req).mem = true := by
  unfold State.instReturn
  repeat' first
      | with_reducible assumption
      | dsimp only
      | with_reducible refine State.modResid_keeps ?_
      | with_reducible refine State.dropResid_keeps ?_

theorem execCret_keeps {w : W64} {s : State} (h_s : Memory.wf s.mem = true) :
    KeepsR (execCret w s) := by
  unfold execCret
  repeat' first
      | with_reducible assumption
      | with_reducible refine keepsR_next ?_
      | dsimp only
      | with_reducible refine State.setResid_keeps ?_
      | with_reducible refine State.fabHalt_keeps ?_
      | with_reducible refine State.callOp_keeps ?_ ?_ ?_
      | with_reducible refine State.thaw_keeps ?_
      | with_reducible refine State.instReturn_keeps ?_
      | intro _
      | split

theorem State.creqFire_keeps {s : State} {a : Seat} {w : W64} (h_s : Memory.wf s.mem = true) :
    Memory.wf (State.creqFire s a w).mem = true := by
  unfold State.creqFire
  repeat' first
      | with_reducible assumption
      | dsimp only
      | with_reducible refine State.modResid_keeps ?_
      | with_reducible refine State.fabHalt_keeps ?_
      | with_reducible refine State.endFiring_keeps ?_
      | intro _
      | split

theorem execCreq_keeps {w : W64} {s : State} (h_s : Memory.wf s.mem = true) :
    KeepsR (execCreq w s) := by
  unfold execCreq
  repeat' first
      | with_reducible assumption
      | with_reducible refine keepsR_next ?_
      | dsimp only
      | with_reducible refine State.emit_keeps ?_
      | with_reducible refine State.modResid_keeps ?_
      | with_reducible refine State.onSite_keeps ?_ ?_
      | with_reducible refine State.startFiring_keeps ?_ ?_
      | with_reducible refine State.creqFire_keeps ?_
      | intro _
      | split

theorem execCalleeRest_keeps {res : Nat} {s : State} (h_s : Memory.wf s.mem = true) :
    KeepsR (execCalleeRest res s) := by
  unfold execCalleeRest
  repeat' first
      | with_reducible assumption
      | with_reducible refine keepsR_next ?_
      | dsimp only
      | with_reducible refine State.fabHalt_keeps ?_
      | with_reducible refine State.bind_keeps ?_
      | with_reducible refine keepsO_getD ?_ ?_
      | intro _
      | split

theorem State.message_keeps {s : State} {c : Core} {g : W64} {a b : W64} {eos : Bool} (h_s : Memory.wf s.mem = true) :
    Memory.wf (State.message s c g a b eos).mem = true := by
  unfold State.message
  repeat' first
      | with_reducible assumption
      | dsimp only
      | with_reducible refine State.setField_keeps ?_
      | with_reducible refine State.finish_keeps ?_
      | with_reducible refine State.block_keeps ?_
      | with_reducible refine State.trap_keeps ?_
      | with_reducible refine State.modResid_keeps ?_
      | intro _
      | split

theorem execAmsg_keeps {d a b : Reg} {s : State} (h_s : Memory.wf s.mem = true) :
    KeepsR (execAmsg d a b s) := by
  unfold execAmsg
  repeat' first
      | with_reducible assumption
      | with_reducible refine keepsR_next ?_
      | dsimp only
      | with_reducible refine State.issue_keeps ?_ ?_
      | with_reducible refine State.message_keeps ?_
      | intro _

theorem execMarke_keeps {a : Reg} {s : State} (h_s : Memory.wf s.mem = true) :
    KeepsR (execMarke a s) := by
  unfold execMarke
  repeat' first
      | with_reducible assumption
      | with_reducible refine keepsR_next ?_
      | dsimp only
      | with_reducible refine State.issue_keeps ?_ ?_
      | with_reducible refine State.message_keeps ?_
      | intro _

theorem execAmsgDeliver_keeps {field : Nat} {s : State} (h_s : Memory.wf s.mem = true) :
    KeepsR (execAmsgDeliver field s) := by
  unfold execAmsgDeliver
  repeat' first
      | with_reducible assumption
      | with_reducible refine keepsR_next ?_
      | dsimp only
      | with_reducible refine State.setField_keeps ?_
      | with_reducible refine State.modResid_keeps ?_
      | intro _
      | split

end Sys2Proof.Machine
end

