-- ==== Sys2Proof/Laws/KeepKRegs.lean ====
section
/-! SUPPORT. The operations of Machine/KRegs.lean keep memory in its canonical form. -/

namespace Sys2Proof.Machine

theorem State.hostReads_keeps {s : State} {wafer port off size : Nat} (h_s : Memory.wf s.mem = true) :
    Memory.wf (State.hostReads s wafer port off size).mem = true := by
  unfold State.hostReads
  repeat' first
      | with_reducible assumption
      | dsimp only
      | with_reducible refine State.setWafer_keeps ?_

theorem State.rebase_keeps {s s' : State} {k : Nat} (_h_s : Memory.wf s.mem = true) (h_s' : Memory.wf s'.mem = true) :
    Memory.wf (State.rebase s s' k).mem = true := by
  unfold State.rebase
  repeat' first
      | with_reducible assumption
      | dsimp only
      | with_reducible refine State.setField_keeps ?_

theorem State.startHop_keeps {s : State} {k : Nat} (h_s : Memory.wf s.mem = true) :
    Memory.wf (State.startHop s k).mem = true := by
  unfold State.startHop
  repeat' first
      | with_reducible assumption
      | dsimp only
      | with_reducible refine State.setField_keeps ?_
      | intro _
      | split

theorem State.kfclkW_keeps {s : State} {k : Nat} {v : W64} (h_s : Memory.wf s.mem = true) :
    Memory.wf (State.kfclkW s k v).mem = true := by
  unfold State.kfclkW
  repeat' first
      | with_reducible assumption
      | dsimp only
      | with_reducible refine State.setField_keeps ?_
      | with_reducible refine State.startHop_keeps ?_

theorem State.ktrbW_keeps {s : State} {wf : Nat} {v : W64} (h_s : Memory.wf s.mem = true) :
    Memory.wf (State.ktrbW s wf v).mem = true := by
  unfold State.ktrbW
  repeat' first
      | with_reducible assumption
      | dsimp only
      | with_reducible refine State.setWafer_keeps ?_
      | with_reducible refine State.setCtl_keeps ?_
      | with_reducible refine foldl_keeps ?_ ?_
      | intro _
      | split

theorem State.ksvqhW_keeps {s : State} {wf : Nat} {v : W64} (h_s : Memory.wf s.mem = true) :
    Memory.wf (State.ksvqhW s wf v).mem = true := by
  unfold State.ksvqhW
  repeat' first
      | with_reducible assumption
      | dsimp only
      | with_reducible refine State.setWafer_keeps ?_

theorem State.klqdbW_keeps {s : State} {wf : Nat} {v : W64} (h_s : Memory.wf s.mem = true) :
    Memory.wf (State.klqdbW s wf v).mem = true := by
  unfold State.klqdbW
  repeat' first
      | with_reducible assumption
      | dsimp only
      | with_reducible refine State.setWafer_keeps ?_
      | with_reducible refine State.raiseEv_keeps ?_
      | intro _
      | split

theorem State.katnW_keeps {s : State} {wf : Nat} {v : W64} (h_s : Memory.wf s.mem = true) :
    Memory.wf (State.katnW s wf v).mem = true := by
  unfold State.katnW
  repeat' first
      | with_reducible assumption
      | dsimp only
      | with_reducible refine State.setWafer_keeps ?_
      | intro _
      | split

theorem State.kxinv_keeps {s : State} {wf : Nat} {v : W64} (h_s : Memory.wf s.mem = true) :
    Memory.wf (State.kxinv s wf v).mem = true := by
  unfold State.kxinv
  repeat' first
      | with_reducible assumption

theorem State.waferPlain_keeps {s : State} {wf : Nat} {r : KReg} {v : W64} (h_s : Memory.wf s.mem = true) :
    Memory.wf (State.waferPlain s wf r v).mem = true := by
  unfold State.waferPlain
  repeat' first
      | with_reducible assumption
      | dsimp only
      | with_reducible refine State.setWafer_keeps ?_
      | intro _
      | split

theorem State.waferWrite_keeps {s : State} {wf : Nat} {r : KReg} {v : W64} (h_s : Memory.wf s.mem = true) :
    Memory.wf (State.waferWrite s wf r v).mem = true := by
  unfold State.waferWrite
  repeat' first
      | with_reducible assumption
      | dsimp only
      | with_reducible refine State.ktrbW_keeps ?_
      | with_reducible refine State.ksvqhW_keeps ?_
      | with_reducible refine State.klqdbW_keeps ?_
      | with_reducible refine State.katnW_keeps ?_
      | with_reducible refine State.kxinv_keeps ?_
      | with_reducible refine State.waferPlain_keeps ?_
      | intro _
      | split

theorem State.kwrite_keeps {s : State} {n : Nat} {r : KReg} {v : W64} (h_s : Memory.wf s.mem = true) :
    Memory.wf (State.kwrite s n r v).mem = true := by
  unfold State.kwrite
  repeat' first
      | with_reducible assumption
      | dsimp only
      | with_reducible refine State.setCore_keeps ?_
      | with_reducible refine State.setQuad_keeps ?_
      | with_reducible refine State.setField_keeps ?_
      | with_reducible refine State.kfclkW_keeps ?_
      | with_reducible refine State.waferWrite_keeps ?_
      | intro _
      | split

theorem execKpresWrite_keeps {core : Nat} {v : W64} {s : State} (h_s : Memory.wf s.mem = true) :
    KeepsR (execKpresWrite core v s) := by
  unfold execKpresWrite
  repeat' first
      | with_reducible assumption
      | with_reducible refine keepsR_next ?_
      | dsimp only
      | with_reducible refine State.kwrite_keeps ?_

theorem execKrseedWrite_keeps {core : Nat} {v : W64} {s : State} (h_s : Memory.wf s.mem = true) :
    KeepsR (execKrseedWrite core v s) := by
  unfold execKrseedWrite
  repeat' first
      | with_reducible assumption
      | with_reducible refine keepsR_next ?_
      | dsimp only
      | with_reducible refine State.kwrite_keeps ?_

theorem execKqseedWrite_keeps {core : Nat} {v : W64} {s : State} (h_s : Memory.wf s.mem = true) :
    KeepsR (execKqseedWrite core v s) := by
  unfold execKqseedWrite
  repeat' first
      | with_reducible assumption
      | with_reducible refine keepsR_next ?_
      | dsimp only
      | with_reducible refine State.kwrite_keeps ?_

theorem execKrxfWrite_keeps {core : Nat} {v : W64} {s : State} (h_s : Memory.wf s.mem = true) :
    KeepsR (execKrxfWrite core v s) := by
  unfold execKrxfWrite
  repeat' first
      | with_reducible assumption
      | with_reducible refine keepsR_next ?_
      | dsimp only
      | with_reducible refine State.kwrite_keeps ?_

theorem execKfclkWrite_keeps {core : Nat} {v : W64} {s : State} (h_s : Memory.wf s.mem = true) :
    KeepsR (execKfclkWrite core v s) := by
  unfold execKfclkWrite
  repeat' first
      | with_reducible assumption
      | with_reducible refine keepsR_next ?_
      | dsimp only
      | with_reducible refine State.kwrite_keeps ?_

theorem execKxinvPage_keeps {wafer : Nat} {v : W64} {s : State} (h_s : Memory.wf s.mem = true) :
    KeepsR (execKxinvPage wafer v s) := by
  unfold execKxinvPage
  repeat' first
      | with_reducible assumption
      | with_reducible refine keepsR_next ?_
      | dsimp only
      | with_reducible refine State.kxinv_keeps ?_
      | with_reducible refine State.waferWrite_keeps ?_
      | intro _
      | split

theorem execKxinvAsid_keeps {wafer : Nat} {v : W64} {s : State} (h_s : Memory.wf s.mem = true) :
    KeepsR (execKxinvAsid wafer v s) := by
  unfold execKxinvAsid
  repeat' first
      | with_reducible assumption
      | with_reducible refine keepsR_next ?_
      | dsimp only
      | with_reducible refine State.kxinv_keeps ?_
      | with_reducible refine State.waferWrite_keeps ?_
      | intro _
      | split

theorem execKxinvAll_keeps {wafer : Nat} {v : W64} {s : State} (h_s : Memory.wf s.mem = true) :
    KeepsR (execKxinvAll wafer v s) := by
  unfold execKxinvAll
  repeat' first
      | with_reducible assumption
      | with_reducible refine keepsR_next ?_
      | dsimp only
      | with_reducible refine State.kxinv_keeps ?_
      | with_reducible refine State.waferWrite_keeps ?_
      | intro _
      | split

theorem execKtrbWrite_keeps {wafer : Nat} {v : W64} {s : State} (h_s : Memory.wf s.mem = true) :
    KeepsR (execKtrbWrite wafer v s) := by
  unfold execKtrbWrite
  repeat' first
      | with_reducible assumption
      | with_reducible refine keepsR_next ?_
      | dsimp only
      | with_reducible refine State.waferWrite_keeps ?_

theorem execKsvqhWrite_keeps {wafer : Nat} {v : W64} {s : State} (h_s : Memory.wf s.mem = true) :
    KeepsR (execKsvqhWrite wafer v s) := by
  unfold execKsvqhWrite
  repeat' first
      | with_reducible assumption
      | with_reducible refine keepsR_next ?_
      | dsimp only
      | with_reducible refine State.waferWrite_keeps ?_

theorem execLaunchDoorbell_keeps {wafer : Nat} {v : W64} {s : State} (h_s : Memory.wf s.mem = true) :
    KeepsR (execLaunchDoorbell wafer v s) := by
  unfold execLaunchDoorbell
  repeat' first
      | with_reducible assumption
      | with_reducible refine keepsR_next ?_
      | dsimp only
      | with_reducible refine State.waferWrite_keeps ?_

theorem execKatnWrite_keeps {wafer : Nat} {v : W64} {s : State} (h_s : Memory.wf s.mem = true) :
    KeepsR (execKatnWrite wafer v s) := by
  unfold execKatnWrite
  repeat' first
      | with_reducible assumption
      | with_reducible refine keepsR_next ?_
      | dsimp only
      | with_reducible refine State.waferWrite_keeps ?_

end Sys2Proof.Machine
end

