-- ==== Sys2Proof/Laws/KeepTurn.lean ====
section
/-! SUPPORT. The operations of Machine/Turn.lean keep memory in its canonical form. -/

namespace Sys2Proof.Machine

theorem State.fetchLine_keeps {s : State} {n : Nat} (h_s : Memory.wf s.mem = true) :
    Memory.wf (State.fetchLine s n).mem = true := by
  unfold State.fetchLine
  repeat' first
      | with_reducible assumption
      | dsimp only
      | with_reducible refine State.setCore_keeps ?_
      | with_reducible refine State.setQuad_keeps ?_
      | with_reducible refine State.stopCore_keeps ?_
      | with_reducible refine State.askWalk_keeps ?_
      | intro _
      | split

theorem execIcacheFill_keeps {quad : Nat} {s : State} (h_s : Memory.wf s.mem = true) :
    KeepsR (execIcacheFill quad s) := by
  unfold execIcacheFill
  repeat' first
      | with_reducible assumption
      | with_reducible refine keepsR_next ?_
      | dsimp only
      | with_reducible refine State.setQuad_keeps ?_
      | with_reducible refine State.stopCore_keeps ?_
      | intro _
      | split

theorem State.killTurn_keeps {s : State} {n : Nat} {refs : List NodeRef} (h_s : Memory.wf s.mem = true) :
    Memory.wf (State.killTurn s n refs).mem = true := by
  unfold State.killTurn
  repeat' first
      | with_reducible assumption
      | dsimp only
      | with_reducible refine State.setCore_keeps ?_
      | intro _
      | split

theorem State.going_keeps {s : State} {n : Nat} (h_s : Memory.wf s.mem = true) :
    Memory.wf (State.going s n).mem = true := by
  unfold State.going
  repeat' first
      | with_reducible assumption
      | dsimp only
      | with_reducible refine State.setCore_keeps ?_
      | intro _
      | split

theorem State.issueTurn_keeps {s : State} {n : Nat} (h_s : Memory.wf s.mem = true) :
    KeepsT (State.issueTurn s n) := by
  unfold State.issueTurn
  repeat' first
      | with_reducible assumption
      | with_reducible refine keepsT_run ?_
      | with_reducible refine keepsT_done ?_
      | with_reducible refine keepsT_bad
      | with_reducible refine keepsT_noUnit
      | dsimp only
      | with_reducible refine State.trap_keeps ?_
      | with_reducible refine State.fetchLine_keeps ?_
      | with_reducible refine State.killTurn_keeps ?_
      | with_reducible refine State.going_keeps ?_
      | intro _
      | split

theorem State.coreTurn_keeps {s : State} {n : Nat} (h_s : Memory.wf s.mem = true) :
    KeepsT (State.coreTurn s n) := by
  unfold State.coreTurn
  repeat' first
      | with_reducible assumption
      | with_reducible refine keepsT_run ?_
      | with_reducible refine keepsT_done ?_
      | with_reducible refine keepsT_bad
      | with_reducible refine keepsT_noUnit
      | dsimp only
      | with_reducible refine State.finishEnd_keeps ?_
      | with_reducible refine State.endTurn_keeps ?_
      | with_reducible refine State.issueTurn_keeps ?_
      | intro _
      | split

theorem State.engineTurn_keeps {s : State} {q : Nat} (h_s : Memory.wf s.mem = true) :
    KeepsT (State.engineTurn s q) := by
  unfold State.engineTurn
  repeat' first
      | with_reducible assumption
      | with_reducible refine keepsT_run ?_
      | with_reducible refine keepsT_done ?_
      | with_reducible refine keepsT_bad
      | with_reducible refine keepsT_noUnit
      | dsimp only
      | with_reducible refine State.setQueue_keeps ?_
      | with_reducible refine State.cmdTrap_keeps ?_
      | intro _
      | split

theorem State.fabricTurn_keeps {s : State} {k site : Nat} (h_s : Memory.wf s.mem = true) :
    KeepsT (State.fabricTurn s k site) := by
  unfold State.fabricTurn
  repeat' first
      | with_reducible assumption
      | with_reducible refine keepsT_run ?_
      | with_reducible refine keepsT_done ?_
      | with_reducible refine keepsT_bad
      | with_reducible refine keepsT_noUnit
      | dsimp only
      | with_reducible refine State.mark_keeps ?_
      | intro _
      | split

theorem State.hostMem_keeps {s : State} {port pa : Nat} {bs : List Byte} (h_s : Memory.wf s.mem = true) :
    Memory.wf (State.hostMem s port pa bs).mem = true := by
  unfold State.hostMem
  repeat' first
      | with_reducible assumption
      | dsimp only
      | with_reducible refine State.write_keeps ?_
      | intro _
      | split

theorem State.hostLoads_keeps {s : State} {pa n : Nat} (h_s : Memory.wf s.mem = true) :
    Memory.wf (State.hostLoads s pa n).mem = true := by
  unfold State.hostLoads
  repeat' first
      | with_reducible assumption
      | dsimp only
      | with_reducible refine State.setWafer_keeps ?_
      | intro _
      | split

theorem State.upset_keeps {s : State} {word : Nat} (h_s : Memory.wf s.mem = true) :
    Memory.wf (State.upset s word).mem = true := by
  unfold State.upset
  repeat' first
      | with_reducible assumption
      | dsimp only
      | with_reducible refine State.poisonWord_keeps ?_

theorem State.upsetRow_keeps {s : State} {n row : Nat} (h_s : Memory.wf s.mem = true) :
    Memory.wf (State.upsetRow s n row).mem = true := by
  unfold State.upsetRow
  repeat' first
      | with_reducible assumption
      | dsimp only
      | with_reducible refine State.setCore_keeps ?_
      | intro _
      | split

theorem State.upsetLine_keeps {s : State} {quad line : Nat} (h_s : Memory.wf s.mem = true) :
    Memory.wf (State.upsetLine s quad line).mem = true := by
  unfold State.upsetLine
  repeat' first
      | with_reducible assumption
      | dsimp only
      | with_reducible refine State.setQuad_keeps ?_
      | intro _
      | split

theorem State.upsetPlane_keeps {s : State} {res k kind at_ i : Nat} (h_s : Memory.wf s.mem = true) :
    Memory.wf (State.upsetPlane s res k kind at_ i).mem = true := by
  unfold State.upsetPlane
  repeat' first
      | with_reducible assumption
      | dsimp only
      | with_reducible refine State.setResid_keeps ?_
      | with_reducible refine State.putCells_keeps ?_
      | with_reducible refine State.upset_keeps ?_
      | intro _
      | split

theorem State.countIsland_keeps {s : State} {isl : Nat} (h_s : Memory.wf s.mem = true) :
    Memory.wf (State.countIsland s isl).mem = true := by
  unfold State.countIsland
  repeat' first
      | with_reducible assumption

theorem State.countError_keeps {s : State} {pa : Nat} (h_s : Memory.wf s.mem = true) :
    Memory.wf (State.countError s pa).mem = true := by
  unfold State.countError
  repeat' first
      | with_reducible assumption
      | dsimp only
      | with_reducible refine State.setQuad_keeps ?_
      | with_reducible refine State.setCtl_keeps ?_
      | intro _
      | split

theorem State.readEarly_keeps {s : State} {n pa size : Nat} (h_s : Memory.wf s.mem = true) :
    Memory.wf (State.readEarly s n pa size).mem = true := by
  unfold State.readEarly
  repeat' first
      | with_reducible assumption
      | dsimp only
      | with_reducible refine State.setCore_keeps ?_
      | intro _
      | split

theorem State.evictLine_keeps {s : State} {quad line : Nat} (h_s : Memory.wf s.mem = true) :
    Memory.wf (State.evictLine s quad line).mem = true := by
  unfold State.evictLine
  repeat' first
      | with_reducible assumption
      | dsimp only
      | with_reducible refine State.setQuad_keeps ?_

theorem State.throttleSource_keeps {s : State} {wafer src : Nat} {on : Bool} (h_s : Memory.wf s.mem = true) :
    Memory.wf (State.throttleSource s wafer src on).mem = true := by
  unfold State.throttleSource
  repeat' first
      | with_reducible assumption
      | dsimp only
      | with_reducible refine State.setField_keeps ?_
      | with_reducible refine State.setWafer_keeps ?_
      | intro _
      | split

theorem State.advance_keeps {s : State} (h_s : Memory.wf s.mem = true) :
    Memory.wf (State.advance s).mem = true := by
  unfold State.advance
  repeat' first
      | with_reducible assumption

theorem State.select_keeps {s : State} {a : Act} (h_s : Memory.wf s.mem = true) :
    KeepsT (State.select s a) := by
  unfold State.select
  repeat' first
      | with_reducible assumption
      | with_reducible refine keepsT_run ?_
      | with_reducible refine keepsT_done ?_
      | with_reducible refine keepsT_bad
      | with_reducible refine keepsT_noUnit
      | dsimp only
      | with_reducible refine State.issue_keeps ?_ ?_
      | with_reducible refine State.hostReads_keeps ?_
      | with_reducible refine State.coreTurn_keeps ?_
      | with_reducible refine State.engineTurn_keeps ?_
      | with_reducible refine State.fabricTurn_keeps ?_
      | with_reducible refine State.hostMem_keeps ?_
      | with_reducible refine State.hostLoads_keeps ?_
      | with_reducible refine State.upset_keeps ?_
      | with_reducible refine State.upsetRow_keeps ?_
      | with_reducible refine State.upsetLine_keeps ?_
      | with_reducible refine State.upsetPlane_keeps ?_
      | with_reducible refine State.countIsland_keeps ?_
      | with_reducible refine State.countError_keeps ?_
      | with_reducible refine State.readEarly_keeps ?_
      | with_reducible refine State.evictLine_keeps ?_
      | with_reducible refine State.throttleSource_keeps ?_
      | intro _
      | split

theorem State.turn_keeps {s : State} (h_s : Memory.wf s.mem = true) :
    KeepsT (State.turn s) := by
  unfold State.turn
  repeat' first
      | with_reducible assumption
      | with_reducible refine keepsT_run ?_
      | with_reducible refine keepsT_done ?_
      | with_reducible refine keepsT_bad
      | with_reducible refine keepsT_noUnit
      | dsimp only
      | with_reducible refine State.advance_keeps ?_
      | with_reducible refine State.select_keeps ?_

theorem State.placeScalar_keeps {s : State} {w : W32} (h_s : Memory.wf s.mem = true) :
    Memory.wf (State.placeScalar s w).mem = true := by
  unfold State.placeScalar
  repeat' first
      | with_reducible assumption
      | dsimp only
      | with_reducible refine State.setCore_keeps ?_

theorem State.placeCmd_keeps {s : State} {c : Cmd} (h_s : Memory.wf s.mem = true) :
    Memory.wf (State.placeCmd s c).mem = true := by
  unfold State.placeCmd
  repeat' first
      | with_reducible assumption
      | dsimp only
      | with_reducible refine State.setQueue_keeps ?_

theorem State.placeFabric_keeps {s : State} {w : W64} (h_s : Memory.wf s.mem = true) :
    Memory.wf (State.placeFabric s w).mem = true := by
  unfold State.placeFabric
  repeat' first
      | with_reducible assumption
      | dsimp only
      | with_reducible refine State.setCell_keeps ?_

end Sys2Proof.Machine
end

