-- ==== Sys2Proof/Laws/KeepSystem.lean ====
section
/-! SUPPORT. The operations of Machine/System.lean keep memory in its canonical form. -/

namespace Sys2Proof.Machine

theorem execNop_keeps {s : State} (h_s : Memory.wf s.mem = true) :
    KeepsR (execNop s) := by
  unfold execNop
  repeat' first
      | with_reducible assumption
      | with_reducible refine keepsR_next ?_
      | dsimp only
      | with_reducible refine State.finish_keeps ?_

theorem execSys_keeps {svc : BitVec 5} {s : State} (h_s : Memory.wf s.mem = true) :
    KeepsR (execSys svc s) := by
  unfold execSys
  repeat' first
      | with_reducible assumption
      | with_reducible refine keepsR_next ?_
      | dsimp only
      | with_reducible refine State.trap_keeps ?_

theorem execTret_keeps {s : State} (h_s : Memory.wf s.mem = true) :
    KeepsR (execTret s) := by
  unfold execTret
  repeat' first
      | with_reducible assumption
      | with_reducible refine keepsR_next ?_
      | dsimp only
      | with_reducible refine State.trapReturn_keeps ?_

theorem execIsync_keeps {s : State} (h_s : Memory.wf s.mem = true) :
    KeepsR (execIsync s) := by
  unfold execIsync
  repeat' first
      | with_reducible assumption
      | with_reducible refine keepsR_next ?_
      | dsimp only
      | with_reducible refine State.setQuad_keeps ?_
      | with_reducible refine State.finish_keeps ?_

theorem execFenceAcq_keeps {sc : BitVec 3} {s : State} (h_s : Memory.wf s.mem = true) :
    KeepsR (execFenceAcq sc s) := by
  unfold execFenceAcq
  repeat' first
      | with_reducible assumption
      | with_reducible refine keepsR_next ?_
      | dsimp only
      | with_reducible refine State.setMe_keeps ?_
      | with_reducible refine State.finish_keeps ?_
      | with_reducible refine State.illegal_keeps ?_
      | intro _
      | split

theorem execFenceRel_keeps {sc : BitVec 3} {s : State} (h_s : Memory.wf s.mem = true) :
    KeepsR (execFenceRel sc s) := by
  unfold execFenceRel
  repeat' first
      | with_reducible assumption
      | with_reducible refine keepsR_next ?_
      | dsimp only
      | with_reducible refine State.setMe_keeps ?_
      | with_reducible refine State.finish_keeps ?_
      | with_reducible refine State.illegal_keeps ?_
      | with_reducible refine keepsO_getD ?_ ?_
      | intro _
      | split

theorem State.readTime_keeps {s : State} (h_s : Memory.wf s.mem = true) :
    Memory.wf (State.readTime s).mem = true := by
  unfold State.readTime
  repeat' first
      | with_reducible assumption
      | dsimp only
      | with_reducible refine State.setMe_keeps ?_

theorem execTime_keeps {d : Reg} {s : State} (h_s : Memory.wf s.mem = true) :
    KeepsR (execTime d s) := by
  unfold execTime
  repeat' first
      | with_reducible assumption
      | with_reducible refine keepsR_next ?_
      | dsimp only
      | with_reducible refine State.result_keeps ?_
      | with_reducible refine State.issue_keeps ?_ ?_
      | with_reducible refine State.readTime_keeps ?_
      | intro _

theorem execTimedgo_keeps {a : Reg} {s : State} (h_s : Memory.wf s.mem = true) :
    KeepsR (execTimedgo a s) := by
  unfold execTimedgo
  repeat' first
      | with_reducible assumption
      | with_reducible refine keepsR_next ?_
      | dsimp only
      | with_reducible refine State.setMe_keeps ?_
      | with_reducible refine State.issue_keeps ?_ ?_
      | intro _

theorem execTimedgoRelease_keeps {core : Nat} {s : State} (h_s : Memory.wf s.mem = true) :
    KeepsR (execTimedgoRelease core s) := by
  unfold execTimedgoRelease
  repeat' first
      | with_reducible assumption
      | with_reducible refine keepsR_next ?_
      | dsimp only
      | with_reducible refine State.setCore_keeps ?_
      | intro _
      | split

theorem execKrd_keeps {d : Reg} {kreg : BitVec 12} {s : State} (h_s : Memory.wf s.mem = true) :
    KeepsR (execKrd d kreg s) := by
  unfold execKrd
  repeat' first
      | with_reducible assumption
      | with_reducible refine keepsR_next ?_
      | dsimp only
      | with_reducible refine State.result_keeps ?_
      | with_reducible refine State.illegal_keeps ?_
      | with_reducible refine State.noPriv_keeps ?_
      | with_reducible refine State.issue_keeps ?_ ?_
      | intro _
      | split

theorem execRmov_keeps {a b : Reg} {n : BitVec 5} {s : State} (h_s : Memory.wf s.mem = true) :
    KeepsR (execRmov a b n s) := by
  unfold execRmov
  repeat' first
      | with_reducible assumption
      | with_reducible refine keepsR_next ?_
      | dsimp only
      | with_reducible refine State.finish_keeps ?_
      | with_reducible refine State.trap_keeps ?_
      | with_reducible refine State.issue_keeps ?_ ?_
      | intro _
      | split

theorem execRmovArrive_keeps {src dst : Nat} {s : State} (h_s : Memory.wf s.mem = true) :
    KeepsR (execRmovArrive src dst s) := by
  unfold execRmovArrive
  repeat' first
      | with_reducible assumption
      | with_reducible refine keepsR_next ?_
      | dsimp only
      | with_reducible refine State.setCore_keeps ?_
      | intro _
      | split

theorem execTranslationWalk_keeps {k : Nat} {s : State} (h_s : Memory.wf s.mem = true) :
    KeepsR (execTranslationWalk k s) := by
  unfold execTranslationWalk
  repeat' first
      | with_reducible assumption
      | with_reducible refine keepsR_next ?_
      | dsimp only
      | with_reducible refine State.raiseGen_keeps ?_
      | with_reducible refine State.cacheLeaf_keeps ?_
      | intro _
      | split

end Sys2Proof.Machine
end

