-- ==== Sys2Proof/Laws/KeepAccept.lean ====
section
/-! SUPPORT. The operations of Machine/Accept.lean keep memory in its canonical form. -/

namespace Sys2Proof.Machine

theorem State.joinCreds_keeps {s : State} {w key asid pod seq : Nat} {cs : List (List W64)} (h_s : Memory.wf s.mem = true) :
    Memory.wf (State.joinCreds s w key asid pod seq cs).mem = true := by
  unfold State.joinCreds
  repeat' first
      | with_reducible assumption
      | dsimp only
      | with_reducible refine State.setCred_keeps ?_
      | with_reducible refine foldl_keeps ?_ ?_
      | with_reducible refine keepsO_getD ?_ ?_
      | intro _
      | split

theorem State.putRecord_keeps {s : State} {key : Nat} {sh : Sheaf} {off : Nat} {v : W64} {rel : Option Rel} (h_s : Memory.wf s.mem = true) :
    Memory.wf (State.putRecord s key sh off v rel).mem = true := by
  unfold State.putRecord
  repeat' first
      | with_reducible assumption
      | dsimp only
      | with_reducible refine State.hwWriteAs_keeps ?_

theorem State.acceptAt_keeps {s : State} {e : PodEntry} {w slot : Nat} {h : Option (List W64)} {pod : Option Nat} (h_s : Memory.wf s.mem = true) :
    Memory.wf (State.acceptAt s e w slot h pod).mem = true := by
  unfold State.acceptAt
  repeat' first
      | with_reducible assumption
      | dsimp only
      | with_reducible refine State.bind_keeps ?_
      | with_reducible refine State.joinCreds_keeps ?_
      | with_reducible refine keepsO_getD ?_ ?_
      | intro _
      | split

theorem State.passPod_keeps {s : State} {e : PodEntry} (h_s : Memory.wf s.mem = true) :
    Memory.wf (State.passPod s e).mem = true := by
  unfold State.passPod
  repeat' first
      | with_reducible assumption
      | dsimp only
      | with_reducible refine State.setWafer_keeps ?_
      | with_reducible refine foldl_keeps ?_ ?_
      | intro _
      | split

theorem State.submitPod_keeps {s : State} {e : PodEntry} {h : Option (List W64)} {refused : Bool} (h_s : Memory.wf s.mem = true) :
    Memory.wf (State.submitPod s e h refused).1.mem = true := by
  unfold State.submitPod
  repeat' first
      | with_reducible assumption
      | dsimp only
      | with_reducible refine State.passPod_keeps ?_
      | intro _
      | split

theorem State.submitPod_keeps_eq {s : State} {e : PodEntry} {h : Option (List W64)} {refused : Bool} {t' : State} {b' : _} (eq_ : State.submitPod s e h refused = (t', b')) (h_s : Memory.wf s.mem = true) :
    Memory.wf t'.mem = true := by
  have h : Memory.wf (State.submitPod s e h refused).1.mem = true := State.submitPod_keeps h_s
  rw [eq_] at h
  exact h

theorem State.acceptHere_keeps {s : State} {e : PodEntry} {slot : Nat} {h : Option (List W64)} {ok : Bool} (h_s : Memory.wf s.mem = true) :
    Memory.wf (State.acceptHere s e slot h ok).mem = true := by
  unfold State.acceptHere
  repeat' first
      | with_reducible assumption
      | dsimp only
      | with_reducible refine State.acceptAt_keeps ?_
      | with_reducible refine State.submitPod_keeps ?_

theorem State.takeEntry_keeps {s : State} {w : Nat} (h_s : Memory.wf s.mem = true) :
    Memory.wf (State.takeEntry s w).mem = true := by
  unfold State.takeEntry
  repeat' first
      | with_reducible assumption
      | dsimp only
      | with_reducible refine State.setWafer_keeps ?_

theorem State.refuseEntry_keeps {s : State} {w reason : Nat} {va : W64} (h_s : Memory.wf s.mem = true) :
    Memory.wf (State.refuseEntry s w reason va).mem = true := by
  unfold State.refuseEntry
  repeat' first
      | with_reducible assumption
      | dsimp only
      | with_reducible refine State.raiseEv_keeps ?_
      | with_reducible refine State.takeEntry_keeps ?_
      | intro _
      | split

theorem execLaunchEntryTake_keeps {wafer : Nat} {s : State} (h_s : Memory.wf s.mem = true) :
    KeepsR (execLaunchEntryTake wafer s) := by
  unfold execLaunchEntryTake
  repeat' first
      | with_reducible assumption
      | with_reducible refine keepsR_next ?_
      | dsimp only
      | with_reducible refine State.submitPod_keeps ?_
      | with_reducible refine State.submitPod_keeps_eq ‹_› ?_
      | with_reducible refine State.acceptHere_keeps ?_
      | with_reducible refine State.takeEntry_keeps ?_
      | with_reducible refine State.refuseEntry_keeps ?_
      | intro _
      | split

theorem execLaunch_keeps {d a b : Reg} {s : State} (h_s : Memory.wf s.mem = true) :
    KeepsR (execLaunch d a b s) := by
  unfold execLaunch
  repeat' first
      | with_reducible assumption
      | with_reducible refine keepsR_next ?_
      | dsimp only
      | with_reducible refine State.setMe_keeps ?_
      | with_reducible refine State.result_keeps ?_
      | with_reducible refine State.trap_keeps ?_
      | with_reducible refine State.issue_keeps ?_ ?_
      | with_reducible refine State.acceptHere_keeps ?_
      | intro _
      | split

theorem State.refusePod_keeps {s : State} {p : Nat} (h_s : Memory.wf s.mem = true) :
    Memory.wf (State.refusePod s p).mem = true := by
  unfold State.refusePod
  repeat' first
      | with_reducible assumption

theorem State.consider_keeps {s : State} {key : Nat} (h_s : Memory.wf s.mem = true) :
    Memory.wf (State.consider s key).mem = true := by
  unfold State.consider
  repeat' first
      | with_reducible assumption
      | dsimp only
      | with_reducible refine State.refusePod_keeps ?_
      | intro _
      | split

theorem State.walk_keeps {s : State} {part : Nat} (h_s : Memory.wf s.mem = true) :
    Memory.wf (State.walk s part).mem = true := by
  unfold State.walk
  repeat' first
      | with_reducible assumption
      | dsimp only
      | with_reducible refine State.consider_keeps ?_
      | with_reducible refine foldl_keeps ?_ ?_
      | intro _
      | split

theorem execPodSheafAccept_keeps {wafer : Nat} {s : State} (h_s : Memory.wf s.mem = true) :
    KeepsR (execPodSheafAccept wafer s) := by
  unfold execPodSheafAccept
  repeat' first
      | with_reducible assumption
      | with_reducible refine keepsR_next ?_
      | dsimp only
      | with_reducible refine State.setWafer_keeps ?_
      | with_reducible refine State.raiseEv_keeps ?_
      | with_reducible refine State.acceptAt_keeps ?_
      | with_reducible refine State.refusePod_keeps ?_
      | intro _
      | split

end Sys2Proof.Machine
end

