-- ==== Sys2Proof/Laws/KeepPlace.lean ====
section
/-! SUPPORT. The operations of Machine/Place.lean keep memory in its canonical form. -/

namespace Sys2Proof.Machine

theorem State.placedOne_keeps {s : State} {r : NodeRef} (h_s : Memory.wf s.mem = true) :
    Memory.wf (State.placedOne s r).mem = true := by
  unfold State.placedOne
  repeat' first
      | with_reducible assumption
      | dsimp only
      | with_reducible refine State.modNode_keeps ?_
      | with_reducible refine foldl_keeps ?_ ?_
      | intro _
      | split

theorem State.poolTake_keeps {s : State} {r : NodeRef} {n al : Nat} (h_s : Memory.wf s.mem = true) :
    KeepsOP (State.poolTake s r n al) := by
  unfold State.poolTake
  repeat' first
      | with_reducible assumption
      | with_reducible refine keepsOP_some ?_
      | with_reducible refine keepsOP_none
      | dsimp only
      | with_reducible refine State.setPart_keeps ?_
      | intro _
      | split

theorem State.poolTake_keeps_ok {s : State} {r : NodeRef} {n al : Nat} {t' : State} {b' : _} (eq_ : State.poolTake s r n al = some (b', t')) (h_s : Memory.wf s.mem = true) :
    Memory.wf t'.mem = true := by
  have h : KeepsOP (State.poolTake s r n al) := State.poolTake_keeps h_s
  rw [eq_] at h
  exact h

theorem State.poolGive_keeps {s : State} {part a : Nat} (h_s : Memory.wf s.mem = true) :
    Memory.wf (State.poolGive s part a).mem = true := by
  unfold State.poolGive
  repeat' first
      | with_reducible assumption
      | dsimp only
      | with_reducible refine State.setPart_keeps ?_

theorem State.kernelFit_keeps {s : State} {r : NodeRef} (h_s : Memory.wf s.mem = true) :
    KeepsOQ (State.kernelFit s r) := by
  unfold State.kernelFit
  repeat' first
      | with_reducible assumption
      | with_reducible refine keepsOQ_some ?_
      | with_reducible refine keepsOQ_none
      | dsimp only
      | with_reducible refine State.poolTake_keeps ?_
      | with_reducible refine State.poolTake_keeps_ok ‹_› ?_
      | intro _
      | split

theorem State.kernelFit_keeps_ok {s : State} {r : NodeRef} {t' : State} {b' : _} {c' : _} (eq_ : State.kernelFit s r = some (b', c', t')) (h_s : Memory.wf s.mem = true) :
    Memory.wf t'.mem = true := by
  have h : KeepsOQ (State.kernelFit s r) := State.kernelFit_keeps h_s
  rw [eq_] at h
  exact h

theorem State.finishNode_keeps {s : State} {r : NodeRef} (h_s : Memory.wf s.mem = true) :
    Memory.wf (State.finishNode s r).mem = true := by
  unfold State.finishNode
  repeat' first
      | with_reducible assumption
      | dsimp only
      | with_reducible refine State.modNode_keeps ?_
      | with_reducible refine State.putRecord_keeps ?_
      | intro _
      | split

theorem State.refuseNode_keeps {s : State} {r : NodeRef} {st : Nat} (h_s : Memory.wf s.mem = true) :
    Memory.wf (State.refuseNode s r st).mem = true := by
  unfold State.refuseNode
  repeat' first
      | with_reducible assumption
      | dsimp only
      | with_reducible refine State.modNode_keeps ?_
      | with_reducible refine State.finishNode_keeps ?_

theorem State.ringTake_keeps {s : State} {r : NodeRef} {n : Nat} (h_s : Memory.wf s.mem = true) :
    KeepsOP (State.ringTake s r n) := by
  unfold State.ringTake
  repeat' first
      | with_reducible assumption
      | with_reducible refine keepsOP_some ?_
      | with_reducible refine keepsOP_none
      | dsimp only
      | with_reducible refine State.poolTake_keeps ?_
      | with_reducible refine State.poolTake_keeps_ok ‹_› ?_
      | intro _
      | split

theorem State.ringTake_keeps_ok {s : State} {r : NodeRef} {n : Nat} {t' : State} {b' : _} (eq_ : State.ringTake s r n = some (b', t')) (h_s : Memory.wf s.mem = true) :
    Memory.wf t'.mem = true := by
  have h : KeepsOP (State.ringTake s r n) := State.ringTake_keeps h_s
  rw [eq_] at h
  exact h

theorem State.residPlace_keeps {s : State} {ref : NodeRef} {ws : List W64} {stamp : Nat} (h_s : Memory.wf s.mem = true) :
    KeepsOP (State.residPlace s ref ws stamp) := by
  unfold State.residPlace
  repeat' first
      | with_reducible assumption
      | with_reducible refine keepsOP_some ?_
      | with_reducible refine keepsOP_none
      | dsimp only
      | with_reducible refine State.spill_keeps ?_
      | with_reducible refine State.setResid_keeps ?_
      | with_reducible refine State.ringTake_keeps ?_
      | with_reducible refine State.ringTake_keeps_ok ‹_› ?_
      | intro _
      | split

theorem State.residPlace_keeps_ok {s : State} {ref : NodeRef} {ws : List W64} {stamp : Nat} {t' : State} {b' : _} (eq_ : State.residPlace s ref ws stamp = some (b', t')) (h_s : Memory.wf s.mem = true) :
    Memory.wf t'.mem = true := by
  have h : KeepsOP (State.residPlace s ref ws stamp) := State.residPlace_keeps h_s
  rw [eq_] at h
  exact h

theorem State.setTeam_keeps {s : State} {w : Nat} {quads : List Nat} {t : Option Team} (h_s : Memory.wf s.mem = true) :
    Memory.wf (State.setTeam s w quads t).mem = true := by
  unfold State.setTeam
  repeat' first
      | with_reducible assumption
      | dsimp only
      | with_reducible refine State.setCore_keeps ?_
      | with_reducible refine foldl_keeps ?_ ?_
      | intro _

theorem State.emptyTags_keeps {s : State} {w : Nat} {quads : List Nat} (h_s : Memory.wf s.mem = true) :
    Memory.wf (State.emptyTags s w quads).mem = true := by
  unfold State.emptyTags
  repeat' first
      | with_reducible assumption

theorem execNodePlace_keeps {sheaf node : Nat} {s : State} (h_s : Memory.wf s.mem = true) :
    KeepsR (execNodePlace sheaf node s) := by
  unfold execNodePlace
  repeat' first
      | with_reducible assumption
      | with_reducible refine keepsR_next ?_
      | dsimp only
      | with_reducible refine State.setPart_keeps ?_
      | with_reducible refine State.modNode_keeps ?_
      | with_reducible refine State.walk_keeps ?_
      | with_reducible refine State.placedOne_keeps ?_
      | with_reducible refine State.kernelFit_keeps ?_
      | with_reducible refine State.kernelFit_keeps_ok ‹_› ?_
      | with_reducible refine State.setTeam_keeps ?_
      | with_reducible refine State.emptyTags_keeps ?_
      | intro _
      | split

theorem execNodeReserve_keeps {sheaf node : Nat} {s : State} (h_s : Memory.wf s.mem = true) :
    KeepsR (execNodeReserve sheaf node s) := by
  unfold execNodeReserve
  repeat' first
      | with_reducible assumption
      | with_reducible refine keepsR_next ?_
      | dsimp only
      | with_reducible refine State.setPart_keeps ?_
      | with_reducible refine State.walk_keeps ?_
      | intro _
      | split

theorem execResidencyPlace_keeps {sheaf node : Nat} {s : State} (h_s : Memory.wf s.mem = true) :
    KeepsR (execResidencyPlace sheaf node s) := by
  unfold execResidencyPlace
  repeat' first
      | with_reducible assumption
      | with_reducible refine keepsR_next ?_
      | dsimp only
      | with_reducible refine State.modNode_keeps ?_
      | with_reducible refine State.modResid_keeps ?_
      | with_reducible refine State.walk_keeps ?_
      | with_reducible refine State.placedOne_keeps ?_
      | with_reducible refine State.refuseNode_keeps ?_
      | with_reducible refine State.residPlace_keeps ?_
      | with_reducible refine State.residPlace_keeps_ok ‹_› ?_
      | with_reducible refine keepsO_getD ?_ ?_
      | intro _
      | split

theorem execCreqPlace_keeps {k : Nat} {s : State} (h_s : Memory.wf s.mem = true) :
    KeepsR (execCreqPlace k s) := by
  unfold execCreqPlace
  repeat' first
      | with_reducible assumption
      | with_reducible refine keepsR_next ?_
      | dsimp only
      | with_reducible refine State.modResid_keeps ?_
      | with_reducible refine State.fabHalt_keeps ?_
      | with_reducible refine State.residPlace_keeps ?_
      | with_reducible refine State.residPlace_keeps_ok ‹_› ?_
      | intro _
      | split

theorem execEdgeGraphBind_keeps {sheaf node : Nat} {s : State} (h_s : Memory.wf s.mem = true) :
    KeepsR (execEdgeGraphBind sheaf node s) := by
  unfold execEdgeGraphBind
  repeat' first
      | with_reducible assumption
      | with_reducible refine keepsR_next ?_
      | dsimp only
      | with_reducible refine State.modNode_keeps ?_
      | with_reducible refine State.setSlot_keeps ?_
      | with_reducible refine State.bindSlot_keeps ?_
      | with_reducible refine State.walk_keeps ?_
      | with_reducible refine State.placedOne_keeps ?_
      | with_reducible refine State.refuseNode_keeps ?_
      | with_reducible refine foldl_keeps ?_ ?_
      | intro _
      | split

theorem execViewEosSend_keeps {sheaf : Nat} {s : State} (h_s : Memory.wf s.mem = true) :
    KeepsR (execViewEosSend sheaf s) := by
  unfold execViewEosSend
  repeat' first
      | with_reducible assumption
      | with_reducible refine keepsR_next ?_
      | dsimp only
      | with_reducible refine State.modNode_keeps ?_
      | with_reducible refine State.setSlot_keeps ?_
      | with_reducible refine foldl_keeps ?_ ?_
      | intro _
      | split

theorem State.bindEnrol_keeps {s : State} {r : NodeRef} {name : Nat} {w0 : W64} {next : State → State} (h_s : Memory.wf s.mem = true) (h_next : ∀ (a0 : State), Memory.wf a0.mem = true → Memory.wf (next a0).mem = true) :
    Memory.wf (State.bindEnrol s r name w0 next).mem = true := by
  unfold State.bindEnrol
  repeat' first
      | with_reducible assumption
      | with_reducible refine h_next _ ?_
      | dsimp only
      | with_reducible refine State.lgrpWrite_keeps ?_
      | with_reducible refine State.lgrpWrite_keeps_eq ‹_› ?_
      | with_reducible refine State.refuseNode_keeps ?_
      | intro _
      | split

theorem State.bindHold_keeps {s : State} {r : NodeRef} {l : List (Nat × W64)} {va : W64} {ty : Nat} (h_s : Memory.wf s.mem = true) :
    Memory.wf (State.bindHold s r l va ty).mem = true := by
  unfold State.bindHold
  repeat' first
      | with_reducible assumption
      | dsimp only
      | with_reducible refine State.modNode_keeps ?_
      | with_reducible refine State.raiseGen_keeps ?_

theorem State.bindDissolve_keeps {s : State} {r : NodeRef} {name : Nat} {all : List (Nat × W64)} {next : State → State} (h_s : Memory.wf s.mem = true) (h_next : ∀ (a0 : State), Memory.wf a0.mem = true → Memory.wf (next a0).mem = true) :
    Memory.wf (State.bindDissolve s r name all next).mem = true := by
  unfold State.bindDissolve
  repeat' first
      | with_reducible assumption
      | with_reducible refine h_next _ ?_
      | dsimp only
      | with_reducible refine State.modNode_keeps ?_
      | with_reducible refine State.unbind_keeps ?_
      | with_reducible refine State.withdrawGroup_keeps ?_
      | intro _
      | split

theorem State.bindGroup_keeps {s : State} {r : NodeRef} {x : Nat × W64} {rs : List (Nat × W64)} {next : State → State} (h_s : Memory.wf s.mem = true) (h_next : ∀ (a0 : State), Memory.wf a0.mem = true → Memory.wf (next a0).mem = true) :
    Memory.wf (State.bindGroup s r x rs next).mem = true := by
  unfold State.bindGroup
  repeat' first
      | with_reducible assumption
      | with_reducible refine h_next _ ?_
      | dsimp only
      | with_reducible refine State.refuseNode_keeps ?_
      | with_reducible refine State.bindEnrol_keeps ?_ ?_
      | with_reducible refine State.bindHold_keeps ?_
      | with_reducible refine State.bindDissolve_keeps ?_ ?_
      | with_reducible refine keepsO_getD ?_ ?_
      | intro _
      | split

theorem State.bindGroups_keeps {r : NodeRef} {l : List (Nat × W64)} {s : State} (h_s : Memory.wf s.mem = true) :
    Memory.wf (s.bindGroups r l).mem = true := by
  induction l generalizing s with
  | nil => exact State.modNode_keeps h_s
  | cons x rs ih => exact State.bindGroup_keeps h_s fun t h => ih h

theorem execGroupBindingPlace_keeps {sheaf node : Nat} {s : State} (h_s : Memory.wf s.mem = true) :
    KeepsR (execGroupBindingPlace sheaf node s) := by
  unfold execGroupBindingPlace
  repeat' first
      | with_reducible assumption
      | with_reducible refine keepsR_next ?_
      | dsimp only
      | with_reducible refine State.modNode_keeps ?_
      | with_reducible refine State.walk_keeps ?_
      | with_reducible refine State.placedOne_keeps ?_
      | with_reducible refine State.refuseNode_keeps ?_
      | with_reducible refine State.bindGroups_keeps ?_
      | with_reducible refine keepsO_getD ?_ ?_
      | intro _
      | split

end Sys2Proof.Machine
end

