-- ==== Sys2Proof/Laws/KeepCred.lean ====
section
/-! SUPPORT. The operations of Machine/Cred.lean keep memory in its canonical form. -/

namespace Sys2Proof.Machine

theorem State.credCopy_keeps {s : State} {k w cls agent : Nat} {p : CredW} {bs : List (Byte × Bool)} (h_s : Memory.wf s.mem = true) :
    Memory.wf (State.credCopy s k w cls agent p bs).mem = true := by
  unfold State.credCopy
  repeat' first
      | with_reducible assumption
      | dsimp only
      | with_reducible refine State.drainStep_keeps ?_ ?_
      | with_reducible refine State.setCredW_keeps ?_
      | intro _
      | split

theorem State.credBind_keeps {s : State} {k : Nat} {g : CredG} (h_s : Memory.wf s.mem = true) :
    Memory.wf (State.credBind s k g).mem = true := by
  unfold State.credBind
  repeat' first
      | with_reducible assumption
      | dsimp only
      | with_reducible refine State.setCtl_keeps ?_
      | with_reducible refine State.setCred_keeps ?_
      | intro _
      | split

theorem execCredDistribute_keeps {grp : Nat} {s : State} (h_s : Memory.wf s.mem = true) :
    KeepsR (execCredDistribute grp s) := by
  unfold execCredDistribute
  repeat' first
      | with_reducible assumption
      | with_reducible refine keepsR_next ?_
      | dsimp only
      | with_reducible refine State.credCopy_keeps ?_
      | with_reducible refine State.credBind_keeps ?_
      | with_reducible refine keepsO_getD ?_ ?_
      | intro _
      | split

theorem execCredResultFlit_keeps {wafer k : Nat} {s : State} (h_s : Memory.wf s.mem = true) :
    KeepsR (execCredResultFlit wafer k s) := by
  unfold execCredResultFlit
  repeat' first
      | with_reducible assumption
      | with_reducible refine keepsR_next ?_
      | dsimp only
      | with_reducible refine State.setLink_keeps ?_
      | with_reducible refine State.setCredW_keeps ?_
      | intro _
      | split

end Sys2Proof.Machine
end

