-- ==== Sys2Proof/Laws/KeepNodes.lean ====
section
/-! SUPPORT. The operations of Machine/Nodes.lean keep memory in its canonical form. -/

namespace Sys2Proof.Machine

theorem State.feedQueue_keeps {s : State} {r : NodeRef} {n : Nat} {e : List W64} (h_s : Memory.wf s.mem = true) :
    Memory.wf (State.feedQueue s r n e).mem = true := by
  unfold State.feedQueue
  repeat' first
      | with_reducible assumption
      | dsimp only
      | with_reducible refine State.setQueue_keeps ?_

theorem State.formReds_keeps {s : State} {r : NodeRef} (h_s : Memory.wf s.mem = true) :
    Memory.wf (State.formReds s r).mem = true := by
  unfold State.formReds
  repeat' first
      | with_reducible assumption
      | dsimp only
      | with_reducible refine State.setRed_keeps ?_
      | with_reducible refine foldl_keeps ?_ ?_
      | with_reducible refine keepsO_getD ?_ ?_
      | intro _

theorem State.startCoreOf_keeps {s : State} {r : NodeRef} {t : Team} {region prio rank : Nat} (h_s : Memory.wf s.mem = true) :
    Memory.wf (State.startCoreOf s r t region prio rank).mem = true := by
  unfold State.startCoreOf
  repeat' first
      | with_reducible assumption
      | dsimp only
      | with_reducible refine State.setCore_keeps ?_
      | with_reducible refine State.pushHard_keeps ?_

theorem State.startKernel_keeps {s : State} {r : NodeRef} {t : Team} {region prio : Nat} (h_s : Memory.wf s.mem = true) :
    Memory.wf (State.startKernel s r t region prio).mem = true := by
  unfold State.startKernel
  repeat' first
      | with_reducible assumption
      | dsimp only
      | with_reducible refine State.hwWrite_keeps ?_
      | with_reducible refine State.feedQueue_keeps ?_
      | with_reducible refine State.formReds_keeps ?_
      | with_reducible refine State.startCoreOf_keeps ?_
      | with_reducible refine foldl_keeps ?_ ?_
      | intro _

theorem execNodeStart_keeps {sheaf node : Nat} {s : State} (h_s : Memory.wf s.mem = true) :
    KeepsR (execNodeStart sheaf node s) := by
  unfold execNodeStart
  repeat' first
      | with_reducible assumption
      | with_reducible refine keepsR_next ?_
      | dsimp only
      | with_reducible refine State.modNode_keeps ?_
      | with_reducible refine State.putStatus_keeps ?_
      | with_reducible refine State.startKernel_keeps ?_
      | intro _
      | split

theorem State.dropReds_keeps {s : State} {r : NodeRef} (h_s : Memory.wf s.mem = true) :
    Memory.wf (State.dropReds s r).mem = true := by
  unfold State.dropReds
  repeat' first
      | with_reducible assumption

theorem State.dropCommands_keeps {s : State} {r : NodeRef} (h_s : Memory.wf s.mem = true) :
    Memory.wf (State.dropCommands s r).mem = true := by
  unfold State.dropCommands
  repeat' first
      | with_reducible assumption

theorem State.killNode_keeps {s : State} {r : NodeRef} {reason : Nat} (h_s : Memory.wf s.mem = true) :
    Memory.wf (State.killNode s r reason).mem = true := by
  unfold State.killNode
  repeat' first
      | with_reducible assumption
      | dsimp only
      | with_reducible refine State.modNode_keeps ?_
      | with_reducible refine State.endStrands_keeps ?_
      | with_reducible refine State.slotKill_keeps ?_
      | with_reducible refine State.closeSlot_keeps ?_
      | with_reducible refine State.dropResid_keeps ?_
      | with_reducible refine State.dropReds_keeps ?_
      | with_reducible refine State.dropCommands_keeps ?_
      | with_reducible refine foldl_keeps ?_ ?_
      | intro _
      | split

theorem State.releaseSlots_keeps {s : State} {r : NodeRef} (h_s : Memory.wf s.mem = true) :
    Memory.wf (State.releaseSlots s r).mem = true := by
  unfold State.releaseSlots
  repeat' first
      | with_reducible assumption
      | dsimp only
      | with_reducible refine State.setSlot_keeps ?_
      | with_reducible refine State.closeSlot_keeps ?_
      | with_reducible refine State.freeSlot_keeps ?_
      | with_reducible refine foldl_keeps ?_ ?_
      | intro _
      | split

theorem State.releaseNode_keeps {s : State} {r : NodeRef} {n : Node} (h_s : Memory.wf s.mem = true) :
    Memory.wf (State.releaseNode s r n).mem = true := by
  unfold State.releaseNode
  repeat' first
      | with_reducible assumption
      | dsimp only
      | with_reducible refine State.setPart_keeps ?_
      | with_reducible refine State.dropResid_keeps ?_
      | with_reducible refine State.poolGive_keeps ?_
      | with_reducible refine State.setTeam_keeps ?_
      | with_reducible refine State.dropReds_keeps ?_
      | with_reducible refine foldl_keeps ?_ ?_
      | intro _
      | split

theorem State.charge_keeps {s : State} {r : NodeRef} {num den : Nat} (h_s : Memory.wf s.mem = true) :
    Memory.wf (State.charge s r num den).mem = true := by
  unfold State.charge
  repeat' first
      | with_reducible assumption
      | dsimp only
      | with_reducible refine State.modNode_keeps ?_

theorem State.chargeNow_keeps {s : State} {r : NodeRef} {k : Nat} (h_s : Memory.wf s.mem = true) :
    Memory.wf (State.chargeNow s r k).mem = true := by
  unfold State.chargeNow
  repeat' first
      | with_reducible assumption
      | dsimp only
      | with_reducible refine State.setField_keeps ?_
      | with_reducible refine State.charge_keeps ?_
      | intro _
      | split

theorem State.chargeLast_keeps {s : State} {r : NodeRef} (h_s : Memory.wf s.mem = true) :
    Memory.wf (State.chargeLast s r).mem = true := by
  unfold State.chargeLast
  repeat' first
      | with_reducible assumption
      | dsimp only
      | with_reducible refine State.chargeNow_keeps ?_
      | with_reducible refine foldl_keeps ?_ ?_
      | intro _

theorem execNodeComplete_keeps {sheaf node : Nat} {s : State} (h_s : Memory.wf s.mem = true) :
    KeepsR (execNodeComplete sheaf node s) := by
  unfold execNodeComplete
  repeat' first
      | with_reducible assumption
      | with_reducible refine keepsR_next ?_
      | dsimp only
      | with_reducible refine State.finishNode_keeps ?_
      | with_reducible refine State.releaseSlots_keeps ?_
      | with_reducible refine State.releaseNode_keeps ?_
      | with_reducible refine State.chargeLast_keeps ?_
      | intro _
      | split

theorem State.dropSheaf_keeps {s : State} {key : Nat} {sh : Sheaf} (h_s : Memory.wf s.mem = true) :
    Memory.wf (State.dropSheaf s key sh).mem = true := by
  unfold State.dropSheaf
  repeat' first
      | with_reducible assumption
      | dsimp only
      | with_reducible refine State.setSlot_keeps ?_
      | with_reducible refine foldl_keeps ?_ ?_
      | intro _
      | split

theorem State.writeSheaf_keeps {s : State} {key : Nat} {sh : Sheaf} (h_s : Memory.wf s.mem = true) :
    Memory.wf (State.writeSheaf s key sh).mem = true := by
  unfold State.writeSheaf
  repeat' first
      | with_reducible assumption
      | dsimp only
      | with_reducible refine State.putRecord_keeps ?_

theorem execSheafComplete_keeps {sheaf : Nat} {s : State} (h_s : Memory.wf s.mem = true) :
    KeepsR (execSheafComplete sheaf s) := by
  unfold execSheafComplete
  repeat' first
      | with_reducible assumption
      | with_reducible refine keepsR_next ?_
      | dsimp only
      | with_reducible refine State.raiseEv_keeps ?_
      | with_reducible refine State.putRecord_keeps ?_
      | with_reducible refine State.walk_keeps ?_
      | with_reducible refine State.dropSheaf_keeps ?_
      | with_reducible refine State.writeSheaf_keeps ?_
      | intro _
      | split

end Sys2Proof.Machine
end

