-- ==== Sys2Proof/Laws/KeepSupervisor.lean ====
section
/-! SUPPORT. The operations of Machine/Supervisor.lean keep memory in its canonical form. -/

namespace Sys2Proof.Machine

theorem State.writeEv_keeps {s : State} {w : Nat} {e : Ev} (h_s : Memory.wf s.mem = true) :
    Memory.wf (State.writeEv s w e).mem = true := by
  unfold State.writeEv
  repeat' first
      | with_reducible assumption
      | dsimp only
      | with_reducible refine State.setWafer_keeps ?_
      | with_reducible refine State.writeAs_keeps ?_

theorem State.spillQueue_keeps {s : State} {q : ContQ} {part : Nat} {put : State → ContQ → State} {len : NodeRef → Nat} {base : NodeRef → W64} (h_s : Memory.wf s.mem = true) (h_put : ∀ (a0 : State) (a1 : ContQ), Memory.wf a0.mem = true → Memory.wf (put a0 a1).mem = true) :
    Memory.wf (State.spillQueue s q part put len base).mem = true := by
  unfold State.spillQueue
  repeat' first
      | with_reducible assumption
      | with_reducible refine h_put _ _ ?_
      | dsimp only
      | with_reducible refine State.spillOut_keeps ?_
      | intro _
      | split

theorem State.spillPart_keeps {s : State} {part : Nat} (h_s : Memory.wf s.mem = true) :
    Memory.wf (State.spillPart s part).mem = true := by
  unfold State.spillPart
  repeat' first
      | with_reducible assumption
      | dsimp only
      | with_reducible refine State.setQuad_keeps ?_
      | with_reducible refine State.setField_keeps ?_
      | with_reducible refine State.spillQueue_keeps ?_ ?_
      | with_reducible refine foldl_keeps ?_ ?_
      | intro _

theorem State.refillPart_keeps {s : State} {part : Nat} (h_s : Memory.wf s.mem = true) :
    Memory.wf (State.refillPart s part).mem = true := by
  unfold State.refillPart
  repeat' first
      | with_reducible assumption

theorem State.gate_keeps {s : State} {part : Nat} (h_s : Memory.wf s.mem = true) :
    Memory.wf (State.gate s part).mem = true := by
  unfold State.gate
  repeat' first
      | with_reducible assumption
      | dsimp only
      | with_reducible refine State.setPart_keeps ?_
      | with_reducible refine State.spillPart_keeps ?_
      | intro _
      | split

theorem State.evictQuad_keeps {s : State} {w quad : Nat} (h_s : Memory.wf s.mem = true) :
    Memory.wf (State.evictQuad s w quad).mem = true := by
  unfold State.evictQuad
  repeat' first
      | with_reducible assumption
      | dsimp only
      | with_reducible refine State.write_keeps ?_

theorem State.reloadQuad_keeps {s : State} {w quad : Nat} (h_s : Memory.wf s.mem = true) :
    Memory.wf (State.reloadQuad s w quad).mem = true := by
  unfold State.reloadQuad
  repeat' first
      | with_reducible assumption
      | dsimp only
      | with_reducible refine State.write_keeps ?_

theorem State.swapOut_keeps {s : State} {w part : Nat} (h_s : Memory.wf s.mem = true) :
    Memory.wf (State.swapOut s w part).mem = true := by
  unfold State.swapOut
  repeat' first
      | with_reducible assumption
      | dsimp only
      | with_reducible refine State.setPart_keeps ?_
      | with_reducible refine State.raiseEv_keeps ?_
      | with_reducible refine State.killNode_keeps ?_
      | with_reducible refine State.spillPart_keeps ?_
      | with_reducible refine State.evictQuad_keeps ?_
      | with_reducible refine foldl_keeps ?_ ?_
      | intro _

theorem State.restoreCore_keeps {s : State} {n : Nat} (h_s : Memory.wf s.mem = true) :
    Memory.wf (State.restoreCore s n).mem = true := by
  unfold State.restoreCore
  repeat' first
      | with_reducible assumption
      | dsimp only
      | with_reducible refine State.setCore_keeps ?_
      | intro _
      | split

theorem State.swapIn_keeps {s : State} {w part : Nat} (h_s : Memory.wf s.mem = true) :
    Memory.wf (State.swapIn s w part).mem = true := by
  unfold State.swapIn
  repeat' first
      | with_reducible assumption
      | dsimp only
      | with_reducible refine State.setPart_keeps ?_
      | with_reducible refine State.raiseEv_keeps ?_
      | with_reducible refine State.refillPart_keeps ?_
      | with_reducible refine State.reloadQuad_keeps ?_
      | with_reducible refine State.restoreCore_keeps ?_
      | with_reducible refine foldl_keeps ?_ ?_
      | intro _

theorem State.svcDone_keeps {s : State} {core : Option Nat} (h_s : Memory.wf s.mem = true) :
    Memory.wf (State.svcDone s core).mem = true := by
  unfold State.svcDone
  repeat' first
      | with_reducible assumption
      | dsimp only
      | with_reducible refine State.setCore_keeps ?_
      | intro _
      | split

theorem State.svcPop_keeps {s : State} {w : Nat} (h_s : Memory.wf s.mem = true) :
    Memory.wf (State.svcPop s w).mem = true := by
  unfold State.svcPop
  repeat' first
      | with_reducible assumption
      | dsimp only
      | with_reducible refine State.setWafer_keeps ?_
      | with_reducible refine State.svcDone_keeps ?_
      | intro _
      | split

theorem State.pauseParts_keeps {s : State} {w : Nat} {on : Bool} (h_s : Memory.wf s.mem = true) :
    Memory.wf (State.pauseParts s w on).mem = true := by
  unfold State.pauseParts
  repeat' first
      | with_reducible assumption
      | dsimp only
      | with_reducible refine State.setPart_keeps ?_
      | with_reducible refine foldl_keeps ?_ ?_
      | intro _
      | split

theorem State.svcServe_keeps {s : State} {w : Nat} {fuel : Nat} (h_s : Memory.wf s.mem = true) :
    Memory.wf (State.svcServe s w fuel).mem = true := by
  induction fuel generalizing s w with
  | zero =>
    simp only [State.svcServe]
    repeat' first
      | with_reducible assumption
  | succ fuel ih =>
    simp only [State.svcServe]
    repeat' first
      | with_reducible assumption
      | with_reducible refine ih ?_
      | with_reducible refine ih _ ?_
      | with_reducible refine ih _ _ ?_
      | with_reducible refine ih _ _ _ ?_
      | with_reducible refine ih _ _ _ _ ?_
      | with_reducible refine ih _ _ _ _ _ ?_
      | dsimp only
      | with_reducible refine State.setWafer_keeps ?_
      | with_reducible refine State.gate_keeps ?_
      | with_reducible refine State.swapIn_keeps ?_
      | with_reducible refine State.svcPop_keeps ?_
      | with_reducible refine State.pauseParts_keeps ?_
      | intro _
      | split

theorem State.svcQueue_keeps {s : State} {w : Nat} {v : W64} {core : Option Nat} (h_s : Memory.wf s.mem = true) :
    Memory.wf (State.svcQueue s w v core).mem = true := by
  unfold State.svcQueue
  repeat' first
      | with_reducible assumption
      | dsimp only
      | with_reducible refine State.setCore_keeps ?_
      | with_reducible refine State.setWafer_keeps ?_
      | with_reducible refine State.svcServe_keeps ?_
      | intro _
      | split

theorem State.svcKills_keeps {s : State} {refs : List NodeRef} {core : Option Nat} (h_s : Memory.wf s.mem = true) :
    Memory.wf (State.svcKills s refs core).mem = true := by
  unfold State.svcKills
  repeat' first
      | with_reducible assumption
      | dsimp only
      | with_reducible refine State.setCore_keeps ?_
      | with_reducible refine State.killNode_keeps ?_
      | with_reducible refine foldl_keeps ?_ ?_
      | intro _
      | split

theorem State.release_keeps {s : State} {id : Nat} {f : GenFault} {skip : Bool} (h_s : Memory.wf s.mem = true) :
    Memory.wf (State.release s id f skip).mem = true := by
  unfold State.release
  repeat' first
      | with_reducible assumption
      | dsimp only
      | with_reducible refine State.setCore_keeps ?_
      | with_reducible refine State.setCtl_keeps ?_
      | with_reducible refine State.setQueue_keeps ?_
      | with_reducible refine State.modNode_keeps ?_
      | with_reducible refine State.setLane_keeps ?_
      | with_reducible refine State.setRed_keeps ?_
      | with_reducible refine State.setCredW_keeps ?_
      | with_reducible refine State.setSlot_keeps ?_
      | intro _
      | split

theorem State.skipPort_keeps {s : State} {n : Nat} (h_s : Memory.wf s.mem = true) :
    Memory.wf (State.skipPort s n).mem = true := by
  unfold State.skipPort
  repeat' first
      | with_reducible assumption
      | dsimp only
      | with_reducible refine State.setCore_keeps ?_
      | with_reducible refine State.markAbn_keeps ?_
      | with_reducible refine State.retire_keeps ?_
      | intro _
      | split

theorem State.skipLate_keeps {s : State} {n id : Nat} (h_s : Memory.wf s.mem = true) :
    Memory.wf (State.skipLate s n id).mem = true := by
  unfold State.skipLate
  repeat' first
      | with_reducible assumption
      | dsimp only
      | with_reducible refine State.setCore_keeps ?_
      | with_reducible refine State.access_keeps ?_
      | intro _
      | split

theorem State.retryFault_keeps {s : State} {id : Nat} (h_s : Memory.wf s.mem = true) :
    Memory.wf (State.retryFault s id).mem = true := by
  unfold State.retryFault
  repeat' first
      | with_reducible assumption
      | dsimp only
      | with_reducible refine State.release_keeps ?_
      | intro _
      | split

theorem State.skipFault_keeps {s : State} {id : Nat} (h_s : Memory.wf s.mem = true) :
    Memory.wf (State.skipFault s id).mem = true := by
  unfold State.skipFault
  repeat' first
      | with_reducible assumption
      | dsimp only
      | with_reducible refine State.release_keeps ?_
      | with_reducible refine State.skipPort_keeps ?_
      | with_reducible refine State.skipLate_keeps ?_
      | intro _
      | split

theorem State.skipQueue_keeps {s : State} {q stop : Nat} (h_s : Memory.wf s.mem = true) :
    Memory.wf (State.skipQueue s q stop).mem = true := by
  unfold State.skipQueue
  repeat' first
      | with_reducible assumption
      | dsimp only
      | with_reducible refine State.setQueue_keeps ?_
      | with_reducible refine State.popCmd_keeps ?_
      | intro _
      | split

theorem State.ksvc_keeps {s : State} {w : Nat} {v : W64} {core : Option Nat} (h_s : Memory.wf s.mem = true) :
    Memory.wf (State.ksvc s w v core).mem = true := by
  unfold State.ksvc
  repeat' first
      | with_reducible assumption
      | dsimp only
      | with_reducible refine State.setCore_keeps ?_
      | with_reducible refine State.svcQueue_keeps ?_
      | with_reducible refine State.svcKills_keeps ?_
      | with_reducible refine State.retryFault_keeps ?_
      | with_reducible refine State.skipFault_keeps ?_
      | with_reducible refine State.skipQueue_keeps ?_
      | intro _
      | split

theorem execKsvcKill_keeps {wafer : Nat} {v : W64} {s : State} (h_s : Memory.wf s.mem = true) :
    KeepsR (execKsvcKill wafer v s) := by
  unfold execKsvcKill
  repeat' first
      | with_reducible assumption
      | with_reducible refine keepsR_next ?_
      | dsimp only
      | with_reducible refine State.ksvc_keeps ?_
      | intro _
      | split

theorem execKsvcRetry_keeps {wafer : Nat} {v : W64} {s : State} (h_s : Memory.wf s.mem = true) :
    KeepsR (execKsvcRetry wafer v s) := by
  unfold execKsvcRetry
  repeat' first
      | with_reducible assumption
      | with_reducible refine keepsR_next ?_
      | dsimp only
      | with_reducible refine State.ksvc_keeps ?_
      | intro _
      | split

theorem execKsvcContinue_keeps {wafer : Nat} {v : W64} {s : State} (h_s : Memory.wf s.mem = true) :
    KeepsR (execKsvcContinue wafer v s) := by
  unfold execKsvcContinue
  repeat' first
      | with_reducible assumption
      | with_reducible refine keepsR_next ?_
      | dsimp only
      | with_reducible refine State.ksvc_keeps ?_
      | intro _
      | split

theorem execKsvcPreempt_keeps {wafer : Nat} {v : W64} {s : State} (h_s : Memory.wf s.mem = true) :
    KeepsR (execKsvcPreempt wafer v s) := by
  unfold execKsvcPreempt
  repeat' first
      | with_reducible assumption
      | with_reducible refine keepsR_next ?_
      | dsimp only
      | with_reducible refine State.ksvc_keeps ?_
      | intro _
      | split

theorem execKsvcRestore_keeps {wafer : Nat} {v : W64} {s : State} (h_s : Memory.wf s.mem = true) :
    KeepsR (execKsvcRestore wafer v s) := by
  unfold execKsvcRestore
  repeat' first
      | with_reducible assumption
      | with_reducible refine keepsR_next ?_
      | dsimp only
      | with_reducible refine State.ksvc_keeps ?_
      | intro _
      | split

theorem execKsvcCheckpoint_keeps {wafer : Nat} {v : W64} {s : State} (h_s : Memory.wf s.mem = true) :
    KeepsR (execKsvcCheckpoint wafer v s) := by
  unfold execKsvcCheckpoint
  repeat' first
      | with_reducible assumption
      | with_reducible refine keepsR_next ?_
      | dsimp only
      | with_reducible refine State.ksvc_keeps ?_
      | intro _
      | split

theorem execKsvcKillAll_keeps {wafer : Nat} {v : W64} {s : State} (h_s : Memory.wf s.mem = true) :
    KeepsR (execKsvcKillAll wafer v s) := by
  unfold execKsvcKillAll
  repeat' first
      | with_reducible assumption
      | with_reducible refine keepsR_next ?_
      | dsimp only
      | with_reducible refine State.ksvc_keeps ?_
      | intro _
      | split

theorem execEventPost_keeps {wafer k : Nat} {s : State} (h_s : Memory.wf s.mem = true) :
    KeepsR (execEventPost wafer k s) := by
  unfold execEventPost
  repeat' first
      | with_reducible assumption
      | with_reducible refine keepsR_next ?_
      | dsimp only
      | with_reducible refine State.setWafer_keeps ?_
      | with_reducible refine State.writeEv_keeps ?_
      | with_reducible refine State.svcServe_keeps ?_
      | intro _
      | split

theorem execPreemptQuiesce_keeps {wafer part : Nat} {s : State} (h_s : Memory.wf s.mem = true) :
    KeepsR (execPreemptQuiesce wafer part s) := by
  unfold execPreemptQuiesce
  repeat' first
      | with_reducible assumption
      | with_reducible refine keepsR_next ?_
      | dsimp only
      | with_reducible refine State.setCore_keeps ?_
      | with_reducible refine State.swapOut_keeps ?_
      | with_reducible refine State.svcPop_keeps ?_
      | with_reducible refine foldl_keeps ?_ ?_
      | intro _
      | split

theorem execHalt_keeps {s : State} (h_s : Memory.wf s.mem = true) :
    KeepsR (execHalt s) := by
  unfold execHalt
  repeat' first
      | with_reducible assumption
      | with_reducible refine keepsR_next ?_
      | dsimp only
      | with_reducible refine State.finish_keeps ?_
      | with_reducible refine State.noPriv_keeps ?_
      | with_reducible refine State.gate_keeps ?_
      | intro _
      | split

theorem State.siteAwn_keeps {s : State} {w k site : Nat} (h_s : Memory.wf s.mem = true) :
    Memory.wf (State.siteAwn s w k site).mem = true := by
  unfold State.siteAwn
  repeat' first
      | with_reducible assumption
      | dsimp only
      | with_reducible refine State.setPlane_keeps ?_
      | intro _
      | split

theorem State.resumeSites_keeps {s : State} {w : Nat} (h_s : Memory.wf s.mem = true) :
    Memory.wf (State.resumeSites s w).mem = true := by
  unfold State.resumeSites
  repeat' first
      | with_reducible assumption

theorem State.pauseWait_keeps {s : State} {n : Nat} (h_s : Memory.wf s.mem = true) :
    Memory.wf (State.pauseWait s n).mem = true := by
  unfold State.pauseWait
  repeat' first
      | with_reducible assumption
      | dsimp only
      | with_reducible refine State.setCore_keeps ?_

theorem execAwnReceive_keeps {wafer unit : Nat} {s : State} (h_s : Memory.wf s.mem = true) :
    KeepsR (execAwnReceive wafer unit s) := by
  unfold execAwnReceive
  repeat' first
      | with_reducible assumption
      | with_reducible refine keepsR_next ?_
      | dsimp only
      | with_reducible refine State.setWafer_keeps ?_
      | with_reducible refine State.siteAwn_keeps ?_
      | with_reducible refine State.pauseWait_keeps ?_
      | intro _
      | split

theorem execCheckpointSave_keeps {wafer : Nat} {s : State} (h_s : Memory.wf s.mem = true) :
    KeepsR (execCheckpointSave wafer s) := by
  unfold execCheckpointSave
  repeat' first
      | with_reducible assumption
      | with_reducible refine keepsR_next ?_
      | dsimp only
      | with_reducible refine State.setWafer_keeps ?_
      | with_reducible refine State.raiseEv_keeps ?_
      | with_reducible refine State.svcPop_keeps ?_
      | with_reducible refine State.pauseParts_keeps ?_
      | with_reducible refine State.resumeSites_keeps ?_
      | with_reducible refine State.pauseWait_keeps ?_
      | with_reducible refine foldl_keeps ?_ ?_
      | intro _
      | split

theorem State.newInterval_keeps {s : State} {part : Nat} (h_s : Memory.wf s.mem = true) :
    Memory.wf (State.newInterval s part).mem = true := by
  unfold State.newInterval
  repeat' first
      | with_reducible assumption
      | dsimp only
      | with_reducible refine State.setPart_keeps ?_

theorem execWatchdogExpire_keeps {wafer : Nat} {s : State} (h_s : Memory.wf s.mem = true) :
    KeepsR (execWatchdogExpire wafer s) := by
  unfold execWatchdogExpire
  repeat' first
      | with_reducible assumption
      | with_reducible refine keepsR_next ?_
      | dsimp only
      | with_reducible refine State.setPart_keeps ?_
      | with_reducible refine State.raiseEv_keeps ?_
      | with_reducible refine State.gate_keeps ?_
      | with_reducible refine State.newInterval_keeps ?_
      | with_reducible refine foldl_keeps ?_ ?_
      | intro _
      | split

theorem execKwr_keeps {a : Reg} {kreg : BitVec 12} {s : State} (h_s : Memory.wf s.mem = true) :
    KeepsR (execKwr a kreg s) := by
  unfold execKwr
  repeat' first
      | with_reducible assumption
      | with_reducible refine keepsR_next ?_
      | dsimp only
      | with_reducible refine State.setMe_keeps ?_
      | with_reducible refine State.finish_keeps ?_
      | with_reducible refine State.illegal_keeps ?_
      | with_reducible refine State.noPriv_keeps ?_
      | with_reducible refine State.issue_keeps ?_ ?_
      | with_reducible refine State.kxinv_keeps ?_
      | with_reducible refine State.waferWrite_keeps ?_
      | with_reducible refine State.kwrite_keeps ?_
      | with_reducible refine State.ksvc_keeps ?_
      | intro _
      | split

end Sys2Proof.Machine
end

