-- ==== Sys2Proof/Laws/KeepPower.lean ====
section
/-! SUPPORT. The operations of Machine/Power.lean keep memory in its canonical form. -/

namespace Sys2Proof.Machine

theorem State.chargeField_keeps {s : State} {k : Nat} (h_s : Memory.wf s.mem = true) :
    Memory.wf (State.chargeField s k).mem = true := by
  unfold State.chargeField
  repeat' first
      | with_reducible assumption
      | dsimp only
      | with_reducible refine State.charge_keeps ?_
      | with_reducible refine foldl_keeps ?_ ?_
      | intro _

theorem State.beginInterval_keeps {s : State} {w : Nat} (h_s : Memory.wf s.mem = true) :
    Memory.wf (State.beginInterval s w).mem = true := by
  unfold State.beginInterval
  repeat' first
      | with_reducible assumption
      | dsimp only
      | with_reducible refine State.setField_keeps ?_
      | with_reducible refine foldl_keeps ?_ ?_
      | intro _

theorem execGrainInterval_keeps {wafer : Nat} {s : State} (h_s : Memory.wf s.mem = true) :
    KeepsR (execGrainInterval wafer s) := by
  unfold execGrainInterval
  repeat' first
      | with_reducible assumption
      | with_reducible refine keepsR_next ?_
      | dsimp only
      | with_reducible refine State.setWafer_keeps ?_
      | with_reducible refine State.chargeField_keeps ?_
      | with_reducible refine State.beginInterval_keeps ?_
      | with_reducible refine foldl_keeps ?_ ?_
      | intro _
      | split

theorem State.makeGrant_keeps {s : State} {w : Nat} (h_s : Memory.wf s.mem = true) :
    Memory.wf (State.makeGrant s w).mem = true := by
  unfold State.makeGrant
  repeat' first
      | with_reducible assumption
      | dsimp only
      | with_reducible refine State.setWafer_keeps ?_
      | with_reducible refine State.setLink_keeps ?_
      | intro _
      | split

theorem execTradingPeriod_keeps {wafer : Nat} {s : State} (h_s : Memory.wf s.mem = true) :
    KeepsR (execTradingPeriod wafer s) := by
  unfold execTradingPeriod
  repeat' first
      | with_reducible assumption
      | with_reducible refine keepsR_next ?_
      | dsimp only
      | with_reducible refine State.setWafer_keeps ?_
      | with_reducible refine State.makeGrant_keeps ?_
      | intro _
      | split

theorem execGrantReceive_keeps {wafer : Nat} {s : State} (h_s : Memory.wf s.mem = true) :
    KeepsR (execGrantReceive wafer s) := by
  unfold execGrantReceive
  repeat' first
      | with_reducible assumption
      | with_reducible refine keepsR_next ?_
      | dsimp only
      | with_reducible refine State.setWafer_keeps ?_
      | with_reducible refine State.setLink_keeps ?_
      | intro _
      | split

theorem execBudgetDecay_keeps {wafer : Nat} {s : State} (h_s : Memory.wf s.mem = true) :
    KeepsR (execBudgetDecay wafer s) := by
  unfold execBudgetDecay
  repeat' first
      | with_reducible assumption
      | with_reducible refine keepsR_next ?_
      | dsimp only
      | with_reducible refine State.setWafer_keeps ?_
      | intro _
      | split

theorem State.rebaseAll_keeps {s s' : State} {w : Nat} (h_s : Memory.wf s.mem = true) (h_s' : Memory.wf s'.mem = true) :
    Memory.wf (State.rebaseAll s s' w).mem = true := by
  unfold State.rebaseAll
  repeat' first
      | with_reducible assumption
      | dsimp only
      | with_reducible refine State.rebase_keeps ?_ ?_
      | with_reducible refine foldl_keeps ?_ ?_
      | intro _

theorem execThrottleEntry_keeps {wafer src : Nat} {s : State} (h_s : Memory.wf s.mem = true) :
    KeepsR (execThrottleEntry wafer src s) := by
  unfold execThrottleEntry
  repeat' first
      | with_reducible assumption
      | with_reducible refine keepsR_next ?_
      | dsimp only
      | with_reducible refine State.setWafer_keeps ?_
      | with_reducible refine State.rebaseAll_keeps ?_ ?_
      | intro _
      | split

theorem execThrottleExit_keeps {wafer : Nat} {s : State} (h_s : Memory.wf s.mem = true) :
    KeepsR (execThrottleExit wafer s) := by
  unfold execThrottleExit
  repeat' first
      | with_reducible assumption
      | with_reducible refine keepsR_next ?_
      | dsimp only
      | with_reducible refine State.setWafer_keeps ?_
      | with_reducible refine State.startHop_keeps ?_
      | with_reducible refine State.rebaseAll_keeps ?_ ?_
      | with_reducible refine foldl_keeps ?_ ?_
      | intro _
      | split

theorem execHopComplete_keeps {field : Nat} {s : State} (h_s : Memory.wf s.mem = true) :
    KeepsR (execHopComplete field s) := by
  unfold execHopComplete
  repeat' first
      | with_reducible assumption
      | with_reducible refine keepsR_next ?_
      | dsimp only
      | with_reducible refine State.setField_keeps ?_
      | with_reducible refine State.rebase_keeps ?_ ?_
      | with_reducible refine State.startHop_keeps ?_
      | intro _
      | split

theorem execHopAbandon_keeps {field : Nat} {s : State} (h_s : Memory.wf s.mem = true) :
    KeepsR (execHopAbandon field s) := by
  unfold execHopAbandon
  repeat' first
      | with_reducible assumption
      | with_reducible refine keepsR_next ?_
      | dsimp only
      | with_reducible refine State.setField_keeps ?_
      | intro _
      | split

theorem execHopRetry_keeps {field : Nat} {s : State} (h_s : Memory.wf s.mem = true) :
    KeepsR (execHopRetry field s) := by
  unfold execHopRetry
  repeat' first
      | with_reducible assumption
      | with_reducible refine keepsR_next ?_
      | dsimp only
      | with_reducible refine State.setField_keeps ?_
      | intro _
      | split

theorem execTimeFlit_keeps {wafer : Nat} {s : State} (h_s : Memory.wf s.mem = true) :
    KeepsR (execTimeFlit wafer s) := by
  unfold execTimeFlit
  repeat' first
      | with_reducible assumption
      | with_reducible refine keepsR_next ?_
      | dsimp only
      | with_reducible refine State.setWafer_keeps ?_
      | intro _
      | split

theorem execFieldHot_keeps {field : Nat} {s : State} (h_s : Memory.wf s.mem = true) :
    KeepsR (execFieldHot field s) := by
  unfold execFieldHot
  repeat' first
      | with_reducible assumption
      | with_reducible refine keepsR_next ?_
      | dsimp only
      | with_reducible refine State.setField_keeps ?_
      | with_reducible refine State.setWafer_keeps ?_
      | intro _
      | split

theorem execFieldCool_keeps {field : Nat} {s : State} (h_s : Memory.wf s.mem = true) :
    KeepsR (execFieldCool field s) := by
  unfold execFieldCool
  repeat' first
      | with_reducible assumption
      | with_reducible refine keepsR_next ?_
      | dsimp only
      | with_reducible refine State.setField_keeps ?_
      | intro _
      | split

theorem State.moveTags_keeps {s t : State} {a b : Nat} (_h_s : Memory.wf s.mem = true) (h_t : Memory.wf t.mem = true) :
    Memory.wf (State.moveTags s t a b).mem = true := by
  unfold State.moveTags
  repeat' first
      | with_reducible assumption

theorem State.moveStore_keeps {s : State} {w src dst : Nat} (h_s : Memory.wf s.mem = true) :
    Memory.wf (State.moveStore s w src dst).mem = true := by
  unfold State.moveStore
  exact State.moveTags_keeps h_s (State.write_keeps (State.write_keeps h_s))

theorem State.moveCore_keeps {s : State} {n n' : Nat} {t : Team} (h_s : Memory.wf s.mem = true) :
    Memory.wf (State.moveCore s n n' t).mem = true := by
  unfold State.moveCore
  repeat' first
      | with_reducible assumption
      | dsimp only
      | with_reducible refine State.setCore_keeps ?_

theorem State.moveQuad_keeps {s : State} {k k' : Nat} {ren : Nat → Nat} (h_s : Memory.wf s.mem = true) :
    Memory.wf (State.moveQuad s k k' ren).mem = true := by
  unfold State.moveQuad
  repeat' first
      | with_reducible assumption
      | dsimp only
      | with_reducible refine State.setQuad_keeps ?_

theorem State.moveField_keeps {s : State} {r : NodeRef} {ren : Nat → Nat} {dst : Nat} (h_s : Memory.wf s.mem = true) :
    Memory.wf (State.moveField s r ren dst).mem = true := by
  unfold State.moveField
  repeat' first
      | with_reducible assumption
      | dsimp only
      | with_reducible refine State.setField_keeps ?_

theorem State.moveFaults_keeps {s : State} {w : Nat} {cores : List Nat} {ren key : Nat → Nat} (h_s : Memory.wf s.mem = true) :
    Memory.wf (State.moveFaults s w cores ren key).mem = true := by
  unfold State.moveFaults
  repeat' first
      | with_reducible assumption
      | dsimp only
      | with_reducible refine State.setWafer_keeps ?_

theorem State.moveNames_keeps {s : State} {r : NodeRef} {w : Nat} {cores : List Nat} {ren key qn : Nat → Nat} (h_s : Memory.wf s.mem = true) :
    Memory.wf (State.moveNames s r w cores ren key qn).mem = true := by
  unfold State.moveNames
  repeat' first
      | with_reducible assumption

theorem State.moveTeam_keeps {s : State} {r : NodeRef} {t : Team} {f x y : Nat} (h_s : Memory.wf s.mem = true) :
    Memory.wf (State.moveTeam s r t f x y).mem = true := by
  unfold State.moveTeam
  repeat' first
      | with_reducible assumption
      | dsimp only
      | with_reducible refine State.moveStore_keeps ?_
      | with_reducible refine State.moveCore_keeps ?_
      | with_reducible refine State.moveQuad_keeps ?_
      | with_reducible refine State.moveField_keeps ?_
      | with_reducible refine State.moveFaults_keeps ?_
      | with_reducible refine State.moveNames_keeps ?_
      | with_reducible refine foldl_keeps ?_ ?_
      | intro _

theorem State.moveResid_keeps {s : State} {i f col row : Nat} (h_s : Memory.wf s.mem = true) :
    Memory.wf (State.moveResid s i f col row).mem = true := by
  unfold State.moveResid
  repeat' first
      | with_reducible assumption
      | dsimp only
      | with_reducible refine State.setResid_keeps ?_
      | with_reducible refine foldl_keeps ?_ ?_
      | intro _
      | split

theorem execNodeMigrate_keeps {sheaf node : Nat} {s : State} (h_s : Memory.wf s.mem = true) :
    KeepsR (execNodeMigrate sheaf node s) := by
  unfold execNodeMigrate
  repeat' first
      | with_reducible assumption
      | with_reducible refine keepsR_next ?_
      | dsimp only
      | with_reducible refine State.modNode_keeps ?_
      | with_reducible refine State.reach_keeps ?_ ?_
      | with_reducible refine State.moveTeam_keeps ?_
      | with_reducible refine State.moveResid_keeps ?_
      | intro _
      | split

end Sys2Proof.Machine
end

