-- ==== Sys2Proof/Laws/KeepLinks.lean ====
section
/-! SUPPORT. The operations of Machine/Links.lean keep memory in its canonical form. -/

namespace Sys2Proof.Machine

theorem execFlitReceive_keeps {link : Nat} {s : State} (h_s : Memory.wf s.mem = true) :
    KeepsR (execFlitReceive link s) := by
  unfold execFlitReceive
  repeat' first
      | with_reducible assumption
      | with_reducible refine keepsR_next ?_
      | dsimp only
      | with_reducible refine State.setLink_keeps ?_
      | intro _
      | split

theorem execFlitReplay_keeps {link : Nat} {s : State} (h_s : Memory.wf s.mem = true) :
    KeepsR (execFlitReplay link s) := by
  unfold execFlitReplay
  repeat' first
      | with_reducible assumption
      | with_reducible refine keepsR_next ?_
      | dsimp only
      | with_reducible refine State.setLink_keeps ?_
      | intro _
      | split

theorem execLinkDown_keeps {link : Nat} {s : State} (h_s : Memory.wf s.mem = true) :
    KeepsR (execLinkDown link s) := by
  unfold execLinkDown
  repeat' first
      | with_reducible assumption
      | with_reducible refine keepsR_next ?_
      | dsimp only
      | with_reducible refine State.setWafer_keeps ?_
      | with_reducible refine State.setLink_keeps ?_
      | intro _
      | split

theorem execLinkUp_keeps {link : Nat} {s : State} (h_s : Memory.wf s.mem = true) :
    KeepsR (execLinkUp link s) := by
  unfold execLinkUp
  repeat' first
      | with_reducible assumption
      | with_reducible refine keepsR_next ?_
      | dsimp only
      | with_reducible refine State.setLink_keeps ?_
      | intro _
      | split

theorem execWavelengthSteer_keeps {wafer bank : Nat} {s : State} (h_s : Memory.wf s.mem = true) :
    KeepsR (execWavelengthSteer wafer bank s) := by
  unfold execWavelengthSteer
  repeat' first
      | with_reducible assumption
      | with_reducible refine keepsR_next ?_
      | dsimp only
      | with_reducible refine State.setWafer_keeps ?_
      | with_reducible refine State.setLink_keeps ?_
      | with_reducible refine foldl_keeps ?_ ?_
      | intro _
      | split

theorem execKeyRolloverRequest_keeps {link : Nat} {s : State} (h_s : Memory.wf s.mem = true) :
    KeepsR (execKeyRolloverRequest link s) := by
  unfold execKeyRolloverRequest
  repeat' first
      | with_reducible assumption
      | with_reducible refine keepsR_next ?_
      | dsimp only
      | with_reducible refine State.setLink_keeps ?_
      | intro _
      | split

theorem execKeyRollover_keeps {link : Nat} {s : State} (h_s : Memory.wf s.mem = true) :
    KeepsR (execKeyRollover link s) := by
  unfold execKeyRollover
  repeat' first
      | with_reducible assumption
      | with_reducible refine keepsR_next ?_
      | dsimp only
      | with_reducible refine State.setLink_keeps ?_
      | intro _
      | split

theorem execKeySlotFree_keeps {link : Nat} {s : State} (h_s : Memory.wf s.mem = true) :
    KeepsR (execKeySlotFree link s) := by
  unfold execKeySlotFree
  repeat' first
      | with_reducible assumption
      | with_reducible refine keepsR_next ?_
      | dsimp only
      | with_reducible refine State.setLink_keeps ?_
      | intro _
      | split

end Sys2Proof.Machine
end

