-- ==== Sys2Proof/Laws/KeepBoot.lean ====
section
/-! SUPPORT. The operations of Machine/Boot.lean keep memory in its canonical form. -/

namespace Sys2Proof.Machine

theorem execModuleReset_keeps {wafer : Nat} {s : State} (h_s : Memory.wf s.mem = true) :
    KeepsR (execModuleReset wafer s) := by
  unfold execModuleReset
  repeat' first
      | with_reducible assumption
      | with_reducible refine keepsR_next ?_

theorem execBootStageVerify_keeps {wafer : Nat} {s : State} (h_s : Memory.wf s.mem = true) :
    KeepsR (execBootStageVerify wafer s) := by
  unfold execBootStageVerify
  repeat' first
      | with_reducible assumption
      | with_reducible refine keepsR_next ?_
      | dsimp only
      | with_reducible refine State.setWafer_keeps ?_
      | intro _
      | split

theorem State.krcvcW_keeps {s : State} {wafer : Nat} {v : W64} (h_s : Memory.wf s.mem = true) :
    Memory.wf (State.krcvcW s wafer v).mem = true := by
  unfold State.krcvcW
  repeat' first
      | with_reducible assumption
      | dsimp only
      | with_reducible refine State.setWafer_keeps ?_
      | intro _
      | split

theorem execKrcvcGo_keeps {wafer : Nat} {v : W64} {s : State} (h_s : Memory.wf s.mem = true) :
    KeepsR (execKrcvcGo wafer v s) := by
  unfold execKrcvcGo
  repeat' first
      | with_reducible assumption
      | with_reducible refine keepsR_next ?_
      | dsimp only
      | with_reducible refine State.krcvcW_keeps ?_

theorem execRecoveryLoadDone_keeps {wafer : Nat} {s : State} (h_s : Memory.wf s.mem = true) :
    KeepsR (execRecoveryLoadDone wafer s) := by
  unfold execRecoveryLoadDone
  repeat' first
      | with_reducible assumption
      | with_reducible refine keepsR_next ?_
      | dsimp only
      | with_reducible refine State.setWafer_keeps ?_
      | intro _
      | split

theorem execAttestReportDone_keeps {wafer : Nat} {s : State} (h_s : Memory.wf s.mem = true) :
    KeepsR (execAttestReportDone wafer s) := by
  unfold execAttestReportDone
  repeat' first
      | with_reducible assumption
      | with_reducible refine keepsR_next ?_
      | dsimp only
      | with_reducible refine State.setWafer_keeps ?_
      | with_reducible refine State.write_keeps ?_
      | intro _
      | split

theorem execPodFormation_keeps {size budget : Nat} {red : Bool} {s : State} (h_s : Memory.wf s.mem = true) :
    KeepsR (execPodFormation size budget red s) := by
  unfold execPodFormation
  repeat' first
      | with_reducible assumption
      | with_reducible refine keepsR_next ?_
      | dsimp only
      | with_reducible refine State.setWafer_keeps ?_
      | with_reducible refine State.beginInterval_keeps ?_
      | with_reducible refine State.rebaseAll_keeps ?_ ?_
      | with_reducible refine foldl_keeps ?_ ?_
      | intro _
      | split

theorem State.recoveryWrite_keeps {s : State} {wafer port off : Nat} {v : W64} (h_s : Memory.wf s.mem = true) :
    Memory.wf (State.recoveryWrite s wafer port off v).mem = true := by
  unfold State.recoveryWrite
  repeat' first
      | with_reducible assumption
      | dsimp only
      | with_reducible refine State.setWafer_keeps ?_
      | with_reducible refine State.krcvcW_keeps ?_
      | intro _
      | split

theorem execHostWindowWrite_keeps {wafer port off : Nat} {v : W64} {s : State} (h_s : Memory.wf s.mem = true) :
    KeepsR (execHostWindowWrite wafer port off v s) := by
  unfold execHostWindowWrite
  repeat' first
      | with_reducible assumption
      | with_reducible refine keepsR_next ?_
      | dsimp only
      | with_reducible refine State.waferWrite_keeps ?_
      | with_reducible refine State.ksvc_keeps ?_
      | with_reducible refine State.recoveryWrite_keeps ?_
      | intro _
      | split

theorem execHbmScrub_keeps {ctl : Nat} {s : State} (h_s : Memory.wf s.mem = true) :
    KeepsR (execHbmScrub ctl s) := by
  unfold execHbmScrub
  repeat' first
      | with_reducible assumption
      | with_reducible refine keepsR_next ?_
      | dsimp only
      | with_reducible refine State.setCtl_keeps ?_
      | with_reducible refine State.poisonWord_keeps ?_
      | intro _
      | split

end Sys2Proof.Machine
end

