-- ==== Sys2Proof/Laws/Map.lean ====
section
/-! SUPPORT. Reading a sparse collection after a put or a removal. -/

namespace Sys2Proof.Machine

@[simp] theorem mget_mput_same {α : Type} (m : Map α) (k : Nat) (v d : α) : mget (mput m k v) k d = v := by
  induction m with
  | nil => simp [mput, mget]
  | cons e r ih =>
    obtain ⟨k', v'⟩ := e
    simp only [mput]
    split
    · simp [mget]
    · split <;> simp_all [mget]

theorem mget_mput_ne {α : Type} (m : Map α) (k j : Nat) (v d : α) (h : j ≠ k) : mget (mput m k v) j d = mget m j d := by
  induction m with
  | nil => simp [mput, mget, Ne.symm h]
  | cons e r ih =>
    obtain ⟨k', v'⟩ := e
    simp only [mput]
    split
    · subst_vars; simp [mget, Ne.symm h]
    · split <;> simp [mget, Ne.symm h, ih]

@[simp] theorem mfind_mput_same {α : Type} (m : Map α) (k : Nat) (v : α) : mfind (mput m k v) k = some v := by
  induction m with
  | nil => simp [mput, mfind]
  | cons e r ih =>
    obtain ⟨k', v'⟩ := e
    simp only [mput]
    split
    · simp [mfind]
    · split <;> simp_all [mfind]

theorem mfind_mput_ne {α : Type} (m : Map α) (k j : Nat) (v : α) (h : j ≠ k) : mfind (mput m k v) j = mfind m j := by
  induction m with
  | nil => simp [mput, mfind, Ne.symm h]
  | cons e r ih =>
    obtain ⟨k', v'⟩ := e
    simp only [mput]
    split
    · subst_vars; simp [mfind, Ne.symm h]
    · split <;> simp [mfind, Ne.symm h, ih]

/-! ## Units of the state after a put -/

@[simp] theorem State.core_setCore (s : State) (n : Nat) (c : Core) : (s.setCore n c).core n = c := mget_mput_same ..

theorem State.core_setCore_ne (s : State) (n m : Nat) (c : Core) (h : m ≠ n) : (s.setCore n c).core m = s.core m :=
  mget_mput_ne _ _ _ _ _ h

@[simp] theorem State.me_setMe (s : State) (c : Core) : (s.setMe c).me = c := State.core_setCore ..

theorem State.core_setMe_ne (s : State) (c : Core) (m : Nat) (h : m ≠ s.cur) : (s.setMe c).core m = s.core m :=
  State.core_setCore_ne _ _ _ _ h

@[simp] theorem State.quad_setQuad (s : State) (k : Nat) (q : Quad) : (s.setQuad k q).quad k = q := mget_mput_same ..

@[simp] theorem State.field_setField (s : State) (k : Nat) (f : Field) : (s.setField k f).field k = f := mget_mput_same ..

@[simp] theorem State.wafer_setWafer (s : State) (k : Nat) (w : Wafer) : (s.setWafer k w).wafer k = w := mget_mput_same ..

@[simp] theorem State.ctl_setCtl (s : State) (k : Nat) (c : Ctl) : (s.setCtl k c).ctl k = c := mget_mput_same ..

@[simp] theorem State.link_setLink (s : State) (k : Nat) (l : Link) : (s.setLink k l).link k = l := mget_mput_same ..

@[simp] theorem State.queue_setQueue (s : State) (k : Nat) (q : EngQ) : (s.setQueue k q).queue k = q := mget_mput_same ..

@[simp] theorem State.part_setPart (s : State) (k : Nat) (p : Part) : (s.setPart k p).part k = p := mget_mput_same ..

theorem State.quad_setQuad_ne (s : State) (k j : Nat) (q : Quad) (h : j ≠ k) : (s.setQuad k q).quad j = s.quad j :=
  mget_mput_ne _ _ _ _ _ h

theorem State.field_setField_ne (s : State) (k j : Nat) (f : Field) (h : j ≠ k) : (s.setField k f).field j = s.field j :=
  mget_mput_ne _ _ _ _ _ h

theorem State.wafer_setWafer_ne (s : State) (k j : Nat) (w : Wafer) (h : j ≠ k) : (s.setWafer k w).wafer j = s.wafer j :=
  mget_mput_ne _ _ _ _ _ h

theorem State.link_setLink_ne (s : State) (k j : Nat) (l : Link) (h : j ≠ k) : (s.setLink k l).link j = s.link j :=
  mget_mput_ne _ _ _ _ _ h

theorem State.queue_setQueue_ne (s : State) (k j : Nat) (q : EngQ) (h : j ≠ k) : (s.setQueue k q).queue j = s.queue j :=
  mget_mput_ne _ _ _ _ _ h

end Sys2Proof.Machine
end

