-- ==== Sys2Proof/Laws/Ops.lean ====
section
/-! SUPPORT. What the shared operations of issue can do: reading and writing a register, reading sources, completing, waiting and
taking a trap. -/

namespace Sys2Proof.Machine

/-! ## Registers -/

theorem Core.get_zero (c : Core) : c.get 0 = 0 := rfl

theorem Core.isFull_zero (c : Core) : c.isFull 0 = true := rfl

theorem Core.put_zero (c : Core) (v : W64) : c.put 0 v = c := rfl

theorem Core.put_of_ne (c : Core) {d : Reg} (v : W64) (h : d ≠ 0) :
    c.put d v = { c with x := c.x.set d.toNat v d.isLt, full := c.full ||| regMask d } := if_neg h

theorem Core.get_of_ne (c : Core) {r : Reg} (h : r ≠ 0) : c.get r = c.x[r.toNat]'(r.isLt) := if_neg h

theorem Core.isFull_of_ne (c : Core) {r : Reg} (h : r ≠ 0) : c.isFull r = c.full.getLsbD r.toNat := by
  simp only [Core.isFull, beq_eq_false_iff_ne.mpr h, Bool.false_or]

theorem reg_toNat_ne {r d : Reg} (h : r ≠ d) : d.toNat ≠ r.toNat := fun e => h (BitVec.eq_of_toNat_eq e).symm

theorem regMask_getLsbD (d : Reg) (i : Nat) : (regMask d).getLsbD i = decide (i = d.toNat) := by
  have hd : d.toNat < 32 := d.isLt
  by_cases h : i = d.toNat
  · subst h; simp [regMask, hd]
  · simp [regMask, BitVec.getLsbD_shiftLeft, h]; omega

theorem Core.get_put_same (c : Core) (d : Reg) (v : W64) : (c.put d v).get d = if d = 0 then 0 else v := by
  by_cases h : d = 0
  · subst h; rfl
  · rw [if_neg h, Core.get_of_ne _ h, Core.put_of_ne _ _ h]; simp

theorem Core.get_put_ne (c : Core) {d r : Reg} (v : W64) (h : r ≠ d) : (c.put d v).get r = c.get r := by
  by_cases hd : d = 0
  · subst hd; rfl
  · by_cases hr : r = 0
    · subst hr; rfl
    · rw [Core.get_of_ne _ hr, Core.get_of_ne _ hr, Core.put_of_ne _ _ hd]
      simp [Vector.getElem_set_ne, reg_toNat_ne h]

theorem Core.isFull_put_same (c : Core) (d : Reg) (v : W64) : (c.put d v).isFull d = true := by
  by_cases h : d = 0
  · subst h; rfl
  · rw [Core.isFull_of_ne _ h, Core.put_of_ne _ _ h]; simp [regMask_getLsbD]

theorem Core.isFull_put_ne (c : Core) {d r : Reg} (v : W64) (h : r ≠ d) : (c.put d v).isFull r = c.isFull r := by
  by_cases hd : d = 0
  · subst hd; rfl
  · by_cases hr : r = 0
    · subst hr; rfl
    · rw [Core.isFull_of_ne _ hr, Core.isFull_of_ne _ hr, Core.put_of_ne _ _ hd]
      simp [regMask_getLsbD, (reg_toNat_ne h).symm]

theorem Core.isFull_mkEmpty (c : Core) {d : Reg} (r : Reg) (h : d ≠ 0) :
    (c.mkEmpty d).isFull r = if r = d then false else c.isFull r := by
  have he : c.mkEmpty d = { c with full := c.full &&& ~~~ regMask d } := if_neg h
  have hl : r.toNat < 32 := r.isLt
  by_cases hr : r = 0
  · subst hr; rw [if_neg (Ne.symm h)]; rfl
  · rw [Core.isFull_of_ne _ hr, Core.isFull_of_ne _ hr, he]
    by_cases hrd : r = d
    · subst hrd; simp [regMask_getLsbD]
    · have hm : (regMask d).getLsbD r.toNat = false := by simp [regMask_getLsbD, (reg_toNat_ne hrd).symm]
      rw [if_neg hrd, BitVec.getLsbD_and, BitVec.getLsbD_not, hm]; simp [hl]

/-- A write to a register changes x and its presence bit alone. -/
theorem Core.put_eq (c : Core) (d : Reg) (v : W64) : c.put d v = { c with x := (c.put d v).x, full := (c.put d v).full } := by
  by_cases h : d = 0
  · subst h; rfl
  · rw [Core.put_of_ne _ _ h]

/-! ## Reading the sources -/

/-- With every source full, none traps. -/
theorem Core.emptyTrap_of_full {c : Core} {srcs : List (Reg × Bool)} (h : (srcs.map (·.1)).all c.isFull = true) :
    c.emptyTrap srcs = none := by
  have hf : ∀ p ∈ srcs, c.isFull p.1 = true := by simpa using h
  simp only [Core.emptyTrap, Option.map_eq_none_iff, List.find?_eq_none]
  intro p hp
  simp [hf p hp]

/-- An instruction whose sources are full, and whose destination no producer will write, goes on. -/
theorem State.issue_ready {s : State} {srcs : List (Reg × Bool)} {d : Reg} (k : Core → State)
    (h : s.me.ready (srcs.map (·.1)) d = true) : s.issue srcs d k = k s.me := by
  simp only [Core.ready, Bool.and_eq_true] at h
  have hw : s.me.mustWait srcs d = false := by
    have hf : ∀ p ∈ srcs, s.me.isFull p.1 = true := by simpa using h.1
    simp only [Core.mustWait, Bool.or_eq_false_iff, List.any_eq_false]
    exact ⟨fun p hp => by simp [hf p hp], by have := h.2; revert this; cases s.me.isFull d <;> simp⟩
  simp [State.issue, Core.emptyTrap_of_full h.1, hw]

/-- An instruction with an empty source that a w bit governs traps. -/
theorem State.issue_empty {s : State} {srcs : List (Reg × Bool)} {d r : Reg} (k : Core → State)
    (h : s.me.emptyTrap srcs = some r) : s.issue srcs d k = s.trap causeEmpty (w64 r.toNat) := by simp [State.issue, h]

/-- An instruction that must wait, and no source of which traps, waits. -/
theorem State.issue_wait {s : State} {srcs : List (Reg × Bool)} {d : Reg} (k : Core → State)
    (h : s.me.emptyTrap srcs = none) (w : s.me.mustWait srcs d = true) : s.issue srcs d k = s.block := by
  simp [State.issue, h, w]

/-! ## Completing -/

theorem State.finish_me (s : State) : s.finish s.me = s.past := rfl

theorem State.jump_me (s : State) (p : W64) : s.jump s.me p = s.goTo p := rfl

/-- A jump that writes a register. -/
theorem wroteTo_jump (s : State) (d : Reg) (v p : W64) : WroteTo s (s.jump (s.me.put d v) p) d v p := by
  refine ⟨s.me.put d v, ?_, Core.get_put_same .., Core.isFull_put_same .., fun r h =>
    ⟨Core.get_put_ne _ _ h, Core.isFull_put_ne _ _ h⟩⟩
  rw [State.jump, Core.put_eq]

/-- A result that completes its instruction. -/
theorem wrote_result (s : State) (d : Reg) (v : W64) : Wrote s (s.result s.me d v) d v := by
  have hp : (s.me.put d v).pc = s.me.pc := by rw [Core.put_eq]
  simpa [Wrote, State.result, State.finish, State.jump, hp] using wroteTo_jump s d v (s.me.pc + 4)

/-- A register operation of two sources that are full. -/
theorem wrote_op2 {s : State} {d a b : Reg} (wa wb : Bool) (f : W64 → W64 → W64) (h : s.me.ready [a, b] d = true) :
    Wrote s (s.op2 d a b wa wb f) d (f (s.me.get a) (s.me.get b)) := by
  rw [State.op2, State.issue_ready _ h]; exact wrote_result ..

/-- A register operation of one source that is full. -/
theorem wrote_op1 {s : State} {d a : Reg} (wa : Bool) (f : W64 → W64) (h : s.me.ready [a] d = true) :
    Wrote s (s.op1 d a wa f) d (f (s.me.get a)) := by
  rw [State.op1, State.issue_ready _ h]; exact wrote_result ..

/-! ## Taking a trap -/

/-- With a handler and no trap under way, the handler is entered (R205). -/
theorem State.trap_handles {s : State} (cause : Nat) (tval : W64) (h : s.me.handles = true) :
    s.trap cause tval = s.trapped cause (if cause = causeSys then s.me.pc + 4 else s.me.pc) tval := by
  have hh : (s.me.tm || s.me.ktvec == 0) = false := by
    simp only [Core.handles, Bool.and_eq_true, Bool.not_eq_true', bne_iff_ne] at h
    simpa [h.1] using h.2
  show s.trapOn s.cur cause tval = _
  unfold State.trapOn
  simp only [show s.core s.cur = s.me from rfl, hh]
  rfl

/-- Without a handler, or in one, the strand begins to end (R205). -/
theorem State.trap_double {s : State} (cause : Nat) (tval : W64) (h : s.me.handles = false) :
    s.trap cause tval = s.setMe { s.me with
      ending := some ⟨1, some (cause, if cause = causeSys then s.me.pc + 4 else s.me.pc), false⟩, hold := .none, wait := none } := by
  have hh : (s.me.tm || s.me.ktvec == 0) = true := by
    cases htm : s.me.tm
    · simpa [Core.handles, htm] using h
    · simp
  show s.trapOn s.cur cause tval = _
  unfold State.trapOn
  simp only [show s.core s.cur = s.me from rfl, hh]
  rfl

end Sys2Proof.Machine
end

