-- ==== Sys2Proof/Laws/PerInstr.lean ====
section
/-! SUPPORT. No scalar instruction's word is all zeros (13_encodings.md R243: major 0x00 is unassigned), instruction by instruction. -/

namespace Sys2Proof.Laws.NonZero

/-- The word of a scalar instruction is not zero. -/
def Statement (i : Instr) : Prop := i.scalar = true → encode i ≠ 0

theorem append_ne {n m : Nat} {a : BitVec n} (b : BitVec m) (h : a ≠ 0) : a ++ b ≠ 0 := by
  intro e
  apply h
  have := congrArg BitVec.toNat e
  simp [BitVec.toNat_append] at this
  exact BitVec.eq_of_toNat_eq this.1

theorem encA_ne {m : BitVec 6} {d a b : Reg} {wa wb : Bool} {fn : BitVec 9} (h : m ≠ 0) : encA m d a b wa wb fn ≠ 0 :=
  append_ne _ (append_ne _ (append_ne _ (append_ne _ (append_ne _ (append_ne _ h)))))

theorem encI_ne {m : BitVec 6} {d a : Reg} {wa : Bool} {imm : BitVec 15} (h : m ≠ 0) : encI m d a wa imm ≠ 0 :=
  append_ne _ (append_ne _ (append_ne _ (append_ne _ h)))

theorem encM_ne {m : BitVec 6} {t a : Reg} {wa : Bool} {sz sc : BitVec 3} {ord : Bool} {imm : BitVec 8} (h : m ≠ 0) :
    encM m t a wa sz sc ord imm ≠ 0 :=
  append_ne _ (append_ne _ (append_ne _ (append_ne _ (append_ne _ (append_ne _ (append_ne _ h))))))

theorem encB_ne {cc : BitVec 4} {a b : Reg} {off : BitVec 12} : encB cc a b off ≠ 0 :=
  append_ne _ (append_ne _ (append_ne _ (append_ne _ (by decide))))

theorem encV_ne {vop : BitVec 7} {a b : Reg} {wa wb : Bool} {f : BitVec 4} {g : BitVec 3} : encV vop a b wa wb f g ≠ 0 :=
  append_ne _ (append_ne _ (append_ne _ (append_ne _ (append_ne _ (append_ne _ (append_ne _ (by decide)))))))

theorem encS_ne {d a b : Reg} {sop : BitVec 6} {m : BitVec 5} : encS d a b sop m ≠ 0 :=
  append_ne _ (append_ne _ (append_ne _ (append_ne _ (append_ne _ (by decide)))))

theorem add (d a b : Reg) (wa wb : Bool) : Statement (.add d a b wa wb) := fun _ => encA_ne (by decide)
theorem addi (d a : Reg) (wa : Bool) (imm : BitVec 15) : Statement (.addi d a wa imm) := fun _ => encI_ne (by decide)
theorem sub (d a b : Reg) (wa wb : Bool) : Statement (.sub d a b wa wb) := fun _ => encA_ne (by decide)
theorem and (d a b : Reg) (wa wb : Bool) : Statement (.and d a b wa wb) := fun _ => encA_ne (by decide)
theorem andi (d a : Reg) (wa : Bool) (imm : BitVec 15) : Statement (.andi d a wa imm) := fun _ => encI_ne (by decide)
theorem or (d a b : Reg) (wa wb : Bool) : Statement (.or d a b wa wb) := fun _ => encA_ne (by decide)
theorem ori (d a : Reg) (wa : Bool) (imm : BitVec 15) : Statement (.ori d a wa imm) := fun _ => encI_ne (by decide)
theorem xor (d a b : Reg) (wa wb : Bool) : Statement (.xor d a b wa wb) := fun _ => encA_ne (by decide)
theorem xori (d a : Reg) (wa : Bool) (imm : BitVec 15) : Statement (.xori d a wa imm) := fun _ => encI_ne (by decide)
theorem shl (d a b : Reg) (wa wb : Bool) : Statement (.shl d a b wa wb) := fun _ => encA_ne (by decide)
theorem shli (d a : Reg) (wa : Bool) (imm : BitVec 6) : Statement (.shli d a wa imm) := fun _ => encI_ne (by decide)
theorem shr (d a b : Reg) (wa wb : Bool) : Statement (.shr d a b wa wb) := fun _ => encA_ne (by decide)
theorem shri (d a : Reg) (wa : Bool) (imm : BitVec 6) : Statement (.shri d a wa imm) := fun _ => encI_ne (by decide)
theorem sra (d a b : Reg) (wa wb : Bool) : Statement (.sra d a b wa wb) := fun _ => encA_ne (by decide)
theorem srai (d a : Reg) (wa : Bool) (imm : BitVec 6) : Statement (.srai d a wa imm) := fun _ => encI_ne (by decide)
theorem rot (d a b : Reg) (wa wb : Bool) : Statement (.rot d a b wa wb) := fun _ => encA_ne (by decide)
theorem slt (d a b : Reg) (wa wb : Bool) : Statement (.slt d a b wa wb) := fun _ => encA_ne (by decide)
theorem sltn (d a b : Reg) (wa wb : Bool) : Statement (.sltn d a b wa wb) := fun _ => encA_ne (by decide)
theorem slti (d a : Reg) (wa : Bool) (imm : BitVec 15) : Statement (.slti d a wa imm) := fun _ => encI_ne (by decide)
theorem min (d a b : Reg) (wa wb : Bool) : Statement (.min d a b wa wb) := fun _ => encA_ne (by decide)
theorem minn (d a b : Reg) (wa wb : Bool) : Statement (.minn d a b wa wb) := fun _ => encA_ne (by decide)
theorem max (d a b : Reg) (wa wb : Bool) : Statement (.max d a b wa wb) := fun _ => encA_ne (by decide)
theorem maxn (d a b : Reg) (wa wb : Bool) : Statement (.maxn d a b wa wb) := fun _ => encA_ne (by decide)
theorem clz (d a : Reg) (wa : Bool) : Statement (.clz d a wa) := fun _ => encA_ne (by decide)
theorem ctz (d a : Reg) (wa : Bool) : Statement (.ctz d a wa) := fun _ => encA_ne (by decide)
theorem popc (d a : Reg) (wa : Bool) : Statement (.popc d a wa) := fun _ => encA_ne (by decide)
theorem bext (d a b : Reg) (wa wb : Bool) : Statement (.bext d a b wa wb) := fun _ => encA_ne (by decide)
theorem bins (d a b : Reg) (wa wb : Bool) : Statement (.bins d a b wa wb) := fun _ => encA_ne (by decide)
theorem mul (d a b : Reg) (wa wb : Bool) : Statement (.mul d a b wa wb) := fun _ => encA_ne (by decide)
theorem mulh (d a b : Reg) (wa wb : Bool) : Statement (.mulh d a b wa wb) := fun _ => encA_ne (by decide)
theorem mulhn (d a b : Reg) (wa wb : Bool) : Statement (.mulhn d a b wa wb) := fun _ => encA_ne (by decide)
theorem div (d a b : Reg) (wa wb : Bool) : Statement (.div d a b wa wb) := fun _ => encA_ne (by decide)
theorem divn (d a b : Reg) (wa wb : Bool) : Statement (.divn d a b wa wb) := fun _ => encA_ne (by decide)
theorem mod (d a b : Reg) (wa wb : Bool) : Statement (.mod d a b wa wb) := fun _ => encA_ne (by decide)
theorem modn (d a b : Reg) (wa wb : Bool) : Statement (.modn d a b wa wb) := fun _ => encA_ne (by decide)
theorem amoAdd (d a b : Reg) (wa wb wide : Bool) (sc : BitVec 3) : Statement (.amoAdd d a b wa wb wide sc) := fun _ => encA_ne (by decide)
theorem amoAnd (d a b : Reg) (wa wb wide : Bool) (sc : BitVec 3) : Statement (.amoAnd d a b wa wb wide sc) := fun _ => encA_ne (by decide)
theorem amoOr (d a b : Reg) (wa wb wide : Bool) (sc : BitVec 3) : Statement (.amoOr d a b wa wb wide sc) := fun _ => encA_ne (by decide)
theorem amoXor (d a b : Reg) (wa wb wide : Bool) (sc : BitVec 3) : Statement (.amoXor d a b wa wb wide sc) := fun _ => encA_ne (by decide)
theorem amoMin (d a b : Reg) (wa wb wide : Bool) (sc : BitVec 3) : Statement (.amoMin d a b wa wb wide sc) := fun _ => encA_ne (by decide)
theorem amoMax (d a b : Reg) (wa wb wide : Bool) (sc : BitVec 3) : Statement (.amoMax d a b wa wb wide sc) := fun _ => encA_ne (by decide)
theorem amoMinn (d a b : Reg) (wa wb wide : Bool) (sc : BitVec 3) : Statement (.amoMinn d a b wa wb wide sc) := fun _ => encA_ne (by decide)
theorem amoMaxn (d a b : Reg) (wa wb wide : Bool) (sc : BitVec 3) : Statement (.amoMaxn d a b wa wb wide sc) := fun _ => encA_ne (by decide)
theorem amoSwp (d a b : Reg) (wa wb wide : Bool) (sc : BitVec 3) : Statement (.amoSwp d a b wa wb wide sc) := fun _ => encA_ne (by decide)
theorem amoCas (d a b : Reg) (wa wb wide : Bool) (sc : BitVec 3) : Statement (.amoCas d a b wa wb wide sc) := fun _ => encA_ne (by decide)
theorem lhi (d a : Reg) (wa : Bool) (imm : BitVec 15) : Statement (.lhi d a wa imm) := fun _ => encI_ne (by decide)
theorem pcrel (d : Reg) (imm : BitVec 15) : Statement (.pcrel d imm) := fun _ => encI_ne (by decide)
theorem jmpr (d a : Reg) (wa : Bool) (imm : BitVec 15) : Statement (.jmpr d a wa imm) := fun _ => encI_ne (by decide)
theorem ld (t a : Reg) (wa : Bool) (sz sc : BitVec 3) (ord : Bool) (imm : BitVec 8) : Statement (.ld t a wa sz sc ord imm) := fun _ => encM_ne (by decide)
theorem st (t a : Reg) (wa : Bool) (sz : BitVec 2) (sc : BitVec 3) (ord : Bool) (imm : BitVec 8) : Statement (.st t a wa sz sc ord imm) := fun _ => encM_ne (by decide)
theorem sta (t a : Reg) (wa : Bool) (sz : BitVec 2) (sc : BitVec 3) (imm : BitVec 8) : Statement (.sta t a wa sz sc imm) := fun _ => encM_ne (by decide)
theorem ldfe (t a : Reg) (wa : Bool) (imm : BitVec 8) : Statement (.ldfe t a wa imm) := fun _ => encM_ne (by decide)
theorem stfe (t a : Reg) (wa : Bool) (imm : BitVec 8) : Statement (.stfe t a wa imm) := fun _ => encM_ne (by decide)
theorem bEq (a b : Reg) (off : BitVec 12) : Statement (.bEq a b off) := fun _ => encB_ne
theorem bNe (a b : Reg) (off : BitVec 12) : Statement (.bNe a b off) := fun _ => encB_ne
theorem bLt (a b : Reg) (off : BitVec 12) : Statement (.bLt a b off) := fun _ => encB_ne
theorem bGe (a b : Reg) (off : BitVec 12) : Statement (.bGe a b off) := fun _ => encB_ne
theorem bLtn (a b : Reg) (off : BitVec 12) : Statement (.bLtn a b off) := fun _ => encB_ne
theorem bGen (a b : Reg) (off : BitVec 12) : Statement (.bGen a b off) := fun _ => encB_ne
theorem bFull (a : Reg) (off : BitVec 12) : Statement (.bFull a off) := fun _ => encB_ne
theorem bEmpty (a : Reg) (off : BitVec 12) : Statement (.bEmpty a off) := fun _ => encB_ne
theorem jmp (off : BitVec 26) : Statement (.jmp off) := fun _ => append_ne _ (by decide)
theorem jmpl (off : BitVec 26) : Statement (.jmpl off) := fun _ => append_ne _ (by decide)
theorem vadd (a b : Reg) (wa wb : Bool) (fmt : BitVec 4) (flg : BitVec 3) : Statement (.vadd a b wa wb fmt flg) := fun _ => encV_ne
theorem vsub (a b : Reg) (wa wb : Bool) (fmt : BitVec 4) (flg : BitVec 3) : Statement (.vsub a b wa wb fmt flg) := fun _ => encV_ne
theorem vmul (a b : Reg) (wa wb : Bool) (fmt : BitVec 4) (flg : BitVec 3) : Statement (.vmul a b wa wb fmt flg) := fun _ => encV_ne
theorem vfma (a b : Reg) (wa wb : Bool) (fmt : BitVec 4) (flg : BitVec 3) : Statement (.vfma a b wa wb fmt flg) := fun _ => encV_ne
theorem vmin (a b : Reg) (wa wb : Bool) (fmt : BitVec 4) : Statement (.vmin a b wa wb fmt) := fun _ => encV_ne
theorem vmax (a b : Reg) (wa wb : Bool) (fmt : BitVec 4) : Statement (.vmax a b wa wb fmt) := fun _ => encV_ne
theorem vabs (a b : Reg) (wa wb : Bool) (fmt : BitVec 4) : Statement (.vabs a b wa wb fmt) := fun _ => encV_ne
theorem vneg (a b : Reg) (wa wb : Bool) (fmt : BitVec 4) : Statement (.vneg a b wa wb fmt) := fun _ => encV_ne
theorem vrcp (a b : Reg) (wa wb : Bool) (fmt : BitVec 4) (flg : BitVec 3) : Statement (.vrcp a b wa wb fmt flg) := fun _ => encV_ne
theorem vrsq (a b : Reg) (wa wb : Bool) (fmt : BitVec 4) (flg : BitVec 3) : Statement (.vrsq a b wa wb fmt flg) := fun _ => encV_ne
theorem vexp (a b : Reg) (wa wb : Bool) (fmt : BitVec 4) (flg : BitVec 3) : Statement (.vexp a b wa wb fmt flg) := fun _ => encV_ne
theorem vlog2 (a b : Reg) (wa wb : Bool) (fmt : BitVec 4) (flg : BitVec 3) : Statement (.vlog2 a b wa wb fmt flg) := fun _ => encV_ne
theorem vtanh (a b : Reg) (wa wb : Bool) (fmt : BitVec 4) (flg : BitVec 3) : Statement (.vtanh a b wa wb fmt flg) := fun _ => encV_ne
theorem vcvt (a b : Reg) (wa wb : Bool) (fmt : BitVec 4) (flg : BitVec 3) : Statement (.vcvt a b wa wb fmt flg) := fun _ => encV_ne
theorem vcvtS (a b : Reg) (wa wb : Bool) (fmt : BitVec 4) (flg : BitVec 3) : Statement (.vcvtS a b wa wb fmt flg) := fun _ => encV_ne
theorem vcmp (a b : Reg) (wa wb : Bool) (fmt : BitVec 4) (flg : BitVec 3) : Statement (.vcmp a b wa wb fmt flg) := fun _ => encV_ne
theorem vsel (a b : Reg) (wa wb : Bool) (fmt : BitVec 4) : Statement (.vsel a b wa wb fmt) := fun _ => encV_ne
theorem vshuf (a b : Reg) (wa wb : Bool) (fmt : BitVec 4) : Statement (.vshuf a b wa wb fmt) := fun _ => encV_ne
theorem vfill (a b : Reg) (wa wb : Bool) (fmt : BitVec 4) : Statement (.vfill a b wa wb fmt) := fun _ => encV_ne
theorem vred (a b : Reg) (wa wb : Bool) (fmt : BitVec 4) : Statement (.vred a b wa wb fmt) := fun _ => encV_ne
theorem vscan (a b : Reg) (wa wb : Bool) (fmt : BitVec 4) : Statement (.vscan a b wa wb fmt) := fun _ => encV_ne
theorem vdot (a b : Reg) (wa wb : Bool) (fmt : BitVec 4) : Statement (.vdot a b wa wb fmt) := fun _ => encV_ne
theorem vectorChunk (core : Nat) : Statement (.vectorChunk core) := nofun
theorem krd (d : Reg) (kreg : BitVec 12) : Statement (.krd d kreg) := fun _ => append_ne _ (append_ne _ (append_ne _ (append_ne _ (by decide))))
theorem kwr (a : Reg) (kreg : BitVec 12) : Statement (.kwr a kreg) := fun _ => append_ne _ (append_ne _ (append_ne _ (append_ne _ (by decide))))
theorem nop : Statement .nop := fun _ => encS_ne
theorem halt : Statement .halt := fun _ => encS_ne
theorem sys (svc : BitVec 5) : Statement (.sys svc) := fun _ => encS_ne
theorem tret : Statement .tret := fun _ => encS_ne
theorem isync : Statement .isync := fun _ => encS_ne
theorem fenceAcq (sc : BitVec 3) : Statement (.fenceAcq sc) := fun _ => encS_ne
theorem fenceRel (sc : BitVec 3) : Statement (.fenceRel sc) := fun _ => encS_ne
theorem time (d : Reg) : Statement (.time d) := fun _ => encS_ne
theorem timedgo (a : Reg) : Statement (.timedgo a) := fun _ => encS_ne
theorem timedgoRelease (core : Nat) : Statement (.timedgoRelease core) := nofun
theorem vbusy (d : Reg) : Statement (.vbusy d) := fun _ => encS_ne
theorem vfence : Statement .vfence := fun _ => encS_ne
theorem waitf (d a b : Reg) : Statement (.waitf d a b) := fun _ => encS_ne
theorem waitpred (d : Reg) : Statement (.waitpred d) := fun _ => encS_ne
theorem hintsucc : Statement .hintsucc := fun _ => encS_ne
theorem kend : Statement .kend := fun _ => encS_ne
theorem spawn (a : Reg) : Statement (.spawn a) := fun _ => encS_ne
theorem retire : Statement .retire := fun _ => encS_ne
theorem join (d a : Reg) : Statement (.join d a) := fun _ => encS_ne
theorem launch (d a b : Reg) : Statement (.launch d a b) := fun _ => encS_ne
theorem enq (a b : Reg) (sc : BitVec 3) : Statement (.enq a b sc) := fun _ => encS_ne
theorem amsg (d a b : Reg) : Statement (.amsg d a b) := fun _ => encS_ne
theorem marke (a : Reg) : Statement (.marke a) := fun _ => encS_ne
theorem rmov (a b : Reg) (n : BitVec 5) : Statement (.rmov a b n) := fun _ => encS_ne
theorem fnew (d : Reg) : Statement (.fnew d) := fun _ => encS_ne
theorem fset (a b : Reg) : Statement (.fset a b) := fun _ => encS_ne
theorem fsetF (a b : Reg) : Statement (.fsetF a b) := fun _ => encS_ne
theorem fget (d a : Reg) : Statement (.fget d a) := fun _ => encS_ne
theorem fwait (d a : Reg) : Statement (.fwait d a) := fun _ => encS_ne
theorem ffree (a : Reg) : Statement (.ffree a) := fun _ => encS_ne
theorem binit (a b : Reg) : Statement (.binit a b) := fun _ => encS_ne
theorem arrive (d a : Reg) : Statement (.arrive d a) := fun _ => encS_ne
theorem bwait (d a b : Reg) : Statement (.bwait d a b) := fun _ => encS_ne
theorem waitLimitTrap (core : Nat) : Statement (.waitLimitTrap core) := nofun
theorem producerArrive (core : Nat) (id : Nat) : Statement (.producerArrive core id) := nofun
theorem rmovArrive (src : Nat) (dst : Nat) : Statement (.rmovArrive src dst) := nofun
theorem storeAck (core : Nat) (id : Nat) : Statement (.storeAck core id) := nofun
theorem homeAccess (core : Nat) (id : Nat) : Statement (.homeAccess core id) := nofun
theorem remoteWriteUnbacked (core : Nat) (id : Nat) : Statement (.remoteWriteUnbacked core id) := nofun
theorem remoteAccessRefused (core : Nat) (id : Nat) : Statement (.remoteAccessRefused core id) := nofun
theorem icacheFill (quad : Nat) : Statement (.icacheFill quad) := nofun
theorem translationWalk (k : Nat) : Statement (.translationWalk k) := nofun
theorem strandStart (core : Nat) : Statement (.strandStart core) := nofun
theorem queueRefill (q : Nat) : Statement (.queueRefill q) := nofun
theorem heldRecordPush (k : Nat) : Statement (.heldRecordPush k) := nofun
theorem recordPromote (field : Nat) : Statement (.recordPromote field) := nofun
theorem launchDoorbell (wafer : Nat) (v : W64) : Statement (.launchDoorbell wafer v) := nofun
theorem launchEntryTake (wafer : Nat) : Statement (.launchEntryTake wafer) := nofun
theorem podSheafAccept (wafer : Nat) : Statement (.podSheafAccept wafer) := nofun
theorem nodePlace (sheaf : Nat) (node : Nat) : Statement (.nodePlace sheaf node) := nofun
theorem nodeReserve (sheaf : Nat) (node : Nat) : Statement (.nodeReserve sheaf node) := nofun
theorem residencyPlace (sheaf : Nat) (node : Nat) : Statement (.residencyPlace sheaf node) := nofun
theorem edgeGraphBind (sheaf : Nat) (node : Nat) : Statement (.edgeGraphBind sheaf node) := nofun
theorem groupBindingPlace (sheaf : Nat) (node : Nat) : Statement (.groupBindingPlace sheaf node) := nofun
theorem nodeStart (sheaf : Nat) (node : Nat) : Statement (.nodeStart sheaf node) := nofun
theorem nodeComplete (sheaf : Nat) (node : Nat) : Statement (.nodeComplete sheaf node) := nofun
theorem sheafComplete (sheaf : Nat) : Statement (.sheafComplete sheaf) := nofun
theorem viewEosSend (sheaf : Nat) : Statement (.viewEosSend sheaf) := nofun
theorem amsgDeliver (field : Nat) : Statement (.amsgDeliver field) := nofun
theorem phaseWake (sheaf : Nat) (phase : Nat) : Statement (.phaseWake sheaf phase) := nofun
theorem trunkSleep (ctl : Nat) (trunk : Nat) : Statement (.trunkSleep ctl trunk) := nofun
theorem mma (c : Cmd) : Statement (.mma c) := nofun
theorem mmaStep (core : Nat) : Statement (.mmaStep core) := nofun
theorem ringTileArrive (core : Nat) : Statement (.ringTileArrive core) := nofun
theorem mld (c : Cmd) : Statement (.mld c) := nofun
theorem mst (c : Cmd) : Statement (.mst c) := nofun
theorem mcvt (c : Cmd) : Statement (.mcvt c) := nofun
theorem mzero (c : Cmd) : Statement (.mzero c) := nofun
theorem mring (c : Cmd) : Statement (.mring c) := nofun
theorem xcopy (c : Cmd) : Statement (.xcopy c) := nofun
theorem xfill (c : Cmd) : Statement (.xfill c) := nofun
theorem xgath (c : Cmd) : Statement (.xgath c) := nofun
theorem xscat (c : Cmd) : Statement (.xscat c) := nofun
theorem xswz (c : Cmd) : Statement (.xswz c) := nofun
theorem ltx (c : Cmd) : Statement (.ltx c) := nofun
theorem lrx (c : Cmd) : Statement (.lrx c) := nofun
theorem lgrpEnrol (c : Cmd) : Statement (.lgrpEnrol c) := nofun
theorem lgrpDissolve (c : Cmd) : Statement (.lgrpDissolve c) := nofun
theorem lgrpRd (c : Cmd) : Statement (.lgrpRd c) := nofun
theorem ered (c : Cmd) : Statement (.ered c) := nofun
theorem cred (c : Cmd) : Statement (.cred c) := nofun
theorem gbind (c : Cmd) : Statement (.gbind c) := nofun
theorem gacc (c : Cmd) : Statement (.gacc c) := nofun
theorem gunbind (c : Cmd) : Statement (.gunbind c) := nofun
theorem blockSend (group : Nat) : Statement (.blockSend group) := nofun
theorem demandUpdate (quad : Nat) (group : Nat) : Statement (.demandUpdate quad group) := nofun
theorem slotFill (quad : Nat) (group : Nat) (ok : Bool) : Statement (.slotFill quad group ok) := nofun
theorem blockResend (group : Nat) : Statement (.blockResend group) := nofun
theorem groupStall (group : Nat) : Statement (.groupStall group) := nofun
theorem ringHandoff (quad : Nat) : Statement (.ringHandoff quad) := nofun
theorem krxfWrite (core : Nat) (v : W64) : Statement (.krxfWrite core v) := nofun
theorem redRouterAdd (grp : Nat) (node : Nat) : Statement (.redRouterAdd grp node) := nofun
theorem credDistribute (grp : Nat) : Statement (.credDistribute grp) := nofun
theorem credResultFlit (wafer : Nat) (k : Nat) : Statement (.credResultFlit wafer k) := nofun
theorem viewAccess (ctl : Nat) (slot : Nat) : Statement (.viewAccess ctl slot) := nofun
theorem accumulateWrite (ctl : Nat) (slot : Nat) : Statement (.accumulateWrite ctl slot) := nofun
theorem configWordLoad (res : Nat) : Statement (.configWordLoad res) := nofun
theorem configStep (res : Nat) : Statement (.configStep res) := nofun
theorem requestToken (res : Nat) (chan : Nat) : Statement (.requestToken res chan) := nofun
theorem calleeRest (res : Nat) : Statement (.calleeRest res) := nofun
theorem creqPlace (k : Nat) : Statement (.creqPlace k) := nofun
theorem plut (w : W64) : Statement (.plut w) := nofun
theorem pag (w : W64) : Statement (.pag w) := nofun
theorem padd (w : W64) : Statement (.padd w) := nofun
theorem psub (w : W64) : Statement (.psub w) := nofun
theorem pmul (w : W64) : Statement (.pmul w) := nofun
theorem pfma (w : W64) : Statement (.pfma w) := nofun
theorem pmin (w : W64) : Statement (.pmin w) := nofun
theorem pmax (w : W64) : Statement (.pmax w) := nofun
theorem pcmp (w : W64) : Statement (.pcmp w) := nofun
theorem plog (w : W64) : Statement (.plog w) := nofun
theorem pshf (w : W64) : Statement (.pshf w) := nofun
theorem pcvt (w : W64) : Statement (.pcvt w) := nofun
theorem pacc (w : W64) : Statement (.pacc w) := nofun
theorem pld (w : W64) : Statement (.pld w) := nofun
theorem pst (w : W64) : Statement (.pst w) := nofun
theorem ccall (w : W64) : Statement (.ccall w) := nofun
theorem cret (w : W64) : Statement (.cret w) := nofun
theorem creq (w : W64) : Statement (.creq w) := nofun
theorem routerPass (w : W64) : Statement (.routerPass w) := nofun
theorem steer (w : W64) : Statement (.steer w) := nofun
theorem carry (w : W64) : Statement (.carry w) := nofun
theorem invar (w : W64) : Statement (.invar w) := nofun
theorem merge (w : W64) : Statement (.merge w) := nofun
theorem kpresWrite (core : Nat) (v : W64) : Statement (.kpresWrite core v) := nofun
theorem krseedWrite (core : Nat) (v : W64) : Statement (.krseedWrite core v) := nofun
theorem kqseedWrite (core : Nat) (v : W64) : Statement (.kqseedWrite core v) := nofun
theorem kxinvPage (wafer : Nat) (v : W64) : Statement (.kxinvPage wafer v) := nofun
theorem kxinvAsid (wafer : Nat) (v : W64) : Statement (.kxinvAsid wafer v) := nofun
theorem kxinvAll (wafer : Nat) (v : W64) : Statement (.kxinvAll wafer v) := nofun
theorem ksvcKill (wafer : Nat) (v : W64) : Statement (.ksvcKill wafer v) := nofun
theorem ksvcRetry (wafer : Nat) (v : W64) : Statement (.ksvcRetry wafer v) := nofun
theorem ksvcContinue (wafer : Nat) (v : W64) : Statement (.ksvcContinue wafer v) := nofun
theorem ksvcPreempt (wafer : Nat) (v : W64) : Statement (.ksvcPreempt wafer v) := nofun
theorem ksvcRestore (wafer : Nat) (v : W64) : Statement (.ksvcRestore wafer v) := nofun
theorem ksvcCheckpoint (wafer : Nat) (v : W64) : Statement (.ksvcCheckpoint wafer v) := nofun
theorem ksvcKillAll (wafer : Nat) (v : W64) : Statement (.ksvcKillAll wafer v) := nofun
theorem preemptQuiesce (wafer : Nat) (part : Nat) : Statement (.preemptQuiesce wafer part) := nofun
theorem awnReceive (wafer : Nat) (unit : Nat) : Statement (.awnReceive wafer unit) := nofun
theorem checkpointSave (wafer : Nat) : Statement (.checkpointSave wafer) := nofun
theorem watchdogExpire (wafer : Nat) : Statement (.watchdogExpire wafer) := nofun
theorem eventPost (wafer : Nat) (k : Nat) : Statement (.eventPost wafer k) := nofun
theorem grainInterval (wafer : Nat) : Statement (.grainInterval wafer) := nofun
theorem tradingPeriod (wafer : Nat) : Statement (.tradingPeriod wafer) := nofun
theorem grantReceive (wafer : Nat) : Statement (.grantReceive wafer) := nofun
theorem throttleEntry (wafer : Nat) (src : Nat) : Statement (.throttleEntry wafer src) := nofun
theorem throttleExit (wafer : Nat) : Statement (.throttleExit wafer) := nofun
theorem kfclkWrite (core : Nat) (v : W64) : Statement (.kfclkWrite core v) := nofun
theorem hopComplete (field : Nat) : Statement (.hopComplete field) := nofun
theorem hopAbandon (field : Nat) : Statement (.hopAbandon field) := nofun
theorem hopRetry (field : Nat) : Statement (.hopRetry field) := nofun
theorem fieldHot (field : Nat) : Statement (.fieldHot field) := nofun
theorem fieldCool (field : Nat) : Statement (.fieldCool field) := nofun
theorem nodeMigrate (sheaf : Nat) (node : Nat) : Statement (.nodeMigrate sheaf node) := nofun
theorem budgetDecay (wafer : Nat) : Statement (.budgetDecay wafer) := nofun
theorem timeFlit (wafer : Nat) : Statement (.timeFlit wafer) := nofun
theorem flitReceive (link : Nat) : Statement (.flitReceive link) := nofun
theorem flitReplay (link : Nat) : Statement (.flitReplay link) := nofun
theorem linkDown (link : Nat) : Statement (.linkDown link) := nofun
theorem wavelengthSteer (wafer : Nat) (bank : Nat) : Statement (.wavelengthSteer wafer bank) := nofun
theorem keyRolloverRequest (link : Nat) : Statement (.keyRolloverRequest link) := nofun
theorem keyRollover (link : Nat) : Statement (.keyRollover link) := nofun
theorem keySlotFree (link : Nat) : Statement (.keySlotFree link) := nofun
theorem moduleReset (wafer : Nat) : Statement (.moduleReset wafer) := nofun
theorem bootStageVerify (wafer : Nat) : Statement (.bootStageVerify wafer) := nofun
theorem krcvcGo (wafer : Nat) (v : W64) : Statement (.krcvcGo wafer v) := nofun
theorem recoveryLoadDone (wafer : Nat) : Statement (.recoveryLoadDone wafer) := nofun
theorem katnWrite (wafer : Nat) (v : W64) : Statement (.katnWrite wafer v) := nofun
theorem attestReportDone (wafer : Nat) : Statement (.attestReportDone wafer) := nofun
theorem podFormation (size : Nat) (budget : Nat) (red : Bool) : Statement (.podFormation size budget red) := nofun
theorem linkUp (link : Nat) : Statement (.linkUp link) := nofun
theorem ksvqhWrite (wafer : Nat) (v : W64) : Statement (.ksvqhWrite wafer v) := nofun
theorem ktrbWrite (wafer : Nat) (v : W64) : Statement (.ktrbWrite wafer v) := nofun
theorem hostWindowWrite (wafer : Nat) (port : Nat) (off : Nat) (v : W64) : Statement (.hostWindowWrite wafer port off v) := nofun
theorem hbmScrub (ctl : Nat) : Statement (.hbmScrub ctl) := nofun

end Sys2Proof.Laws.NonZero
end

