-- ==== Sys2Proof/Laws/Write.lean ====
section
/-! SUPPORT. What a write at its home leaves as it was: every field of the state but memory with its marks, the trace counters, what a
watched word wakes, and the tokens that a residency has spilled there; and every core that waits in no access. -/

namespace Sys2Proof.Machine

/-- `t` differs from `s` at most in memory and its marks, the trace counters of controllers, cores, the tokens that residencies have
spilled, and the faults and events of a core that a poisoned word stops. -/
structure State.Same (s t : State) : Prop where
  cur : t.cur = s.cur
  tick : t.tick = s.tick
  qtags : t.qtags = s.qtags
  quads : t.quads = s.quads
  fields : t.fields = s.fields
  links : t.links = s.links
  queues : t.queues = s.queues
  sheaves : t.sheaves = s.sheaves
  parts : t.parts = s.parts
  parked : t.parked = s.parked
  held : t.held = s.held
  points : t.points = s.points
  reds : t.reds = s.reds
  creds : t.creds = s.creds
  resids : t.resids.map (·.1) = s.resids.map (·.1)
  cellMem : t.cellMem = s.cellMem
  islCorr : t.islCorr = s.islCorr
  streams : t.streams = s.streams
  walks : t.walks = s.walks
  sends : t.sends = s.sends
  creqs : t.creqs = s.creqs
  podBudget : t.podBudget = s.podBudget
  idle : ∀ n, (∀ i, (s.core n).hold ≠ .access i) → t.core n = s.core n

theorem State.Same.rfl' (s : State) : State.Same s s :=
  ⟨rfl, rfl, rfl, rfl, rfl, rfl, rfl, rfl, rfl, rfl, rfl, rfl, rfl, rfl, rfl, rfl, rfl, rfl, rfl, rfl, rfl, rfl, fun _ _ => rfl⟩

theorem State.Same.trans {s t u : State} (h : State.Same s t) (k : State.Same t u) : State.Same s u where
  cur := k.cur.trans h.cur
  tick := k.tick.trans h.tick
  qtags := k.qtags.trans h.qtags
  quads := k.quads.trans h.quads
  fields := k.fields.trans h.fields
  links := k.links.trans h.links
  queues := k.queues.trans h.queues
  sheaves := k.sheaves.trans h.sheaves
  parts := k.parts.trans h.parts
  parked := k.parked.trans h.parked
  held := k.held.trans h.held
  points := k.points.trans h.points
  reds := k.reds.trans h.reds
  creds := k.creds.trans h.creds
  resids := k.resids.trans h.resids
  cellMem := k.cellMem.trans h.cellMem
  islCorr := k.islCorr.trans h.islCorr
  streams := k.streams.trans h.streams
  walks := k.walks.trans h.walks
  sends := k.sends.trans h.sends
  creqs := k.creqs.trans h.creqs
  podBudget := k.podBudget.trans h.podBudget
  idle := fun n hn => (k.idle n (by rw [h.idle n hn]; exact hn)).trans (h.idle n hn)

/-- The state with other memory and marks. -/
theorem same_putRun (s : State) (pa : Nat) (bs : List (Byte × Bool)) (tag : Nat) (rel : Option Rel) :
    State.Same s (s.putRun pa bs tag rel) :=
  ⟨rfl, rfl, rfl, rfl, rfl, rfl, rfl, rfl, rfl, rfl, rfl, rfl, rfl, rfl, rfl, rfl, rfl, rfl, rfl, rfl, rfl, rfl, fun _ _ => rfl⟩

theorem same_setCtl (s : State) (k : Nat) (c : Ctl) : State.Same s (s.setCtl k c) :=
  ⟨rfl, rfl, rfl, rfl, rfl, rfl, rfl, rfl, rfl, rfl, rfl, rfl, rfl, rfl, rfl, rfl, rfl, rfl, rfl, rfl, rfl, rfl, fun _ _ => rfl⟩

/-- A core that waits in an access may change. -/
theorem State.Same.of_setCore {s : State} {n : Nat} (c : Core) {i : Nat} (h : (s.core n).hold = .access i) :
    State.Same s (s.setCore n c) :=
  ⟨rfl, rfl, rfl, rfl, rfl, rfl, rfl, rfl, rfl, rfl, rfl, rfl, rfl, rfl, rfl, rfl, rfl, rfl, rfl, rfl, rfl, rfl, fun m hm => by
    by_cases e : m = n
    · subst e; exact absurd h (hm i)
    · exact State.core_setCore_ne _ _ _ _ e⟩

theorem same_endWatch (s : State) (n : Nat) (a : Access) (v : W64) {i : Nat} (h : (s.core n).hold = .access i) :
    State.Same s (s.endWatch n a v) := State.Same.of_setCore _ h

/-- Stopping a core that waits in an access. -/
theorem same_stop (s : State) (n : Nat) (c : Core) (o : Owner) (va : W64) (ty acc : Nat) {i : Nat}
    (h : (s.core n).hold = .access i) : State.Same s ((s.setCore n c).stopCore n o va ty acc) :=
  ⟨rfl, rfl, rfl, rfl, rfl, rfl, rfl, rfl, rfl, rfl, rfl, rfl, rfl, rfl, rfl, rfl, rfl, rfl, rfl, rfl, rfl, rfl, fun m hm => by
    by_cases e : m = n
    · subst e; exact absurd h (hm i)
    · exact (State.core_setCore_ne _ _ _ _ e).trans (State.core_setCore_ne _ _ _ _ e)⟩

theorem same_wakeOne (s : State) (n : Nat) (ws : List Nat) : State.Same s (s.wakeOne n ws) := by
  simp only [State.wakeOne]
  split
  next i hi =>
    split
    · split
      · split
        · split
          · split
            · exact State.Same.of_setCore _ hi
            · exact same_stop _ _ _ _ _ _ _ hi
          · split
            · exact same_endWatch _ _ _ _ hi
            · exact State.Same.rfl' s
        · exact State.Same.rfl' s
      · exact State.Same.rfl' s
    · exact State.Same.rfl' s
  · exact State.Same.rfl' s

theorem same_wake (s : State) (ws : List Nat) : State.Same s (s.wake ws) := by
  simp only [State.wake]
  generalize s.cores.map (·.1) = l
  induction l generalizing s with
  | nil => exact State.Same.rfl' s
  | cons n r ih => exact (same_wakeOne s n ws).trans (ih _)

theorem same_logPiece (s : State) (w m pa len : Nat) (i : WInfo) : State.Same s (s.logPiece w m pa len i) :=
  ((same_setCtl ..).trans (same_putRun ..)).trans (same_wake ..)

theorem same_logRun (w m : Nat) (i : WInfo) (k : Nat) : ∀ (s : State) (pa n : Nat), State.Same s (s.logRun w m pa n i k) := by
  induction k with
  | zero => exact fun s _ _ => State.Same.rfl' s
  | succ k ih =>
    intro s pa n
    simp only [State.logRun]
    split
    · exact State.Same.rfl' s
    · exact (same_logPiece ..).trans (ih ..)

theorem same_trace (s : State) (pa n : Nat) (i : WInfo) : State.Same s (s.trace pa n i) := by
  simp only [State.trace]
  split
  · split
    · split
      · exact same_logRun ..
      · exact State.Same.rfl' s
    · exact State.Same.rfl' s
  · exact State.Same.rfl' s

/-- Tokens spilled where a write goes change; no residency comes or goes. -/
theorem same_spoil (s : State) (pa n : Nat) : State.Same s (s.spoil pa n) := by
  simp only [State.spoil]
  split
  · refine ⟨rfl, rfl, rfl, rfl, rfl, rfl, rfl, rfl, rfl, rfl, rfl, rfl, rfl, rfl, ?_, rfl, rfl, rfl, rfl, rfl, rfl, rfl, fun _ _ => rfl⟩
    simp only [List.map_map]
    refine List.map_congr_left fun e _ => ?_
    simp only [Function.comp]
    split <;> rfl
  · exact State.Same.rfl' s

/-- A write takes its place at its home. -/
theorem same_land (s : State) (pa : Nat) (bs : List (Byte × Bool)) (i : WInfo) (rel : Option Rel) :
    State.Same s (s.land pa bs i rel) :=
  (((same_putRun ..).trans (same_trace ..)).trans (same_wake ..)).trans (same_spoil ..)

/-- A write of sound bytes at its home; one that poisons words lets reads of them perform first (`State.settle`). -/
theorem same_writeAs (s : State) (pa : Nat) (bs : List (Byte × Bool)) (i : WInfo) (rel : Option Rel) (h : bs.any (·.2) = false) :
    State.Same s (s.writeAs pa bs i rel) := by
  rw [State.writeAs, h]
  exact same_land ..

/-- A write that is no release. -/
theorem same_write (s : State) (pa : Nat) (bs : List (Byte × Bool)) (i : WInfo) (h : bs.any (·.2) = false) :
    State.Same s (s.write pa bs i) := same_writeAs _ _ _ _ _ h

end Sys2Proof.Machine
end

