-- ==== Sys2Proof/Tests/Slice0.lean ====
section
/-! SUPPORT. Tests: words of the spec decode to what they stand for; ill-formed terms are refused; and for every statement with
hypotheses a concrete state and operands that meet them, clause by clause. -/

namespace Sys2Proof.Tests

open Sys2Proof.Machine

/-! ## Decoding: words written out from the encodings and entries of the spec -/

/-- Whether a word decodes to an instruction. -/
def reads (w : W32) (i : Instr) : Bool := decide (decodeWord w = .ok i)

theorem test_decode_alu :
    reads 0x04611000 (.add 3 1 2 false false) && reads 0x04611400 (.add 3 1 2 true false)
      && reads 0x04A6380D (.max 5 6 7 false false) && reads 0x04A6380E (.maxn 5 6 7 false false)
      && reads 0x065A580B (.min 18 26 11 false false) && reads 0x04A6380C (.minn 5 6 7 false false)
      && reads 0x04A63807 (.sra 5 6 7 false false) && reads 0x04E65814 (.bext 7 6 11 false false)
      && reads 0x04E65815 (.bins 7 6 11 false false) && reads 0x04850012 (.popc 4 5 false)
      && reads 0x04850010 (.clz 4 5 false) && reads 0x04850011 (.ctz 4 5 false) := by decide

theorem test_decode_muldiv :
    reads 0x08A63800 (.mul 5 6 7 false false) && reads 0x08A63804 (.div 5 6 7 false false)
      && reads 0x08A63806 (.mod 5 6 7 false false) := by decide

theorem test_decode_imm :
    reads 0x20407FFF (.addi 2 0 false (-1)) && reads 0x21290010 (.addi 9 9 false 16) && reads 0x24A40003 (.andi 5 4 false 3)
      && reads 0x24A67FF0 (.andi 5 6 false (-16)) && reads 0x3CA6003F (.srai 5 6 false 63)
      && reads 0x41294540 (.lhi 9 9 false 0x4540) && reads 0x42803C00 (.lhi 20 0 false 0x3C00)
      && reads 0x44A00010 (.pcrel 5 16) := by decide

theorem test_decode_memory :
    reads 0x60A93003 (.ld 5 9 false 3 0 false 3) && reads 0x64C93500 (.st 6 9 false 3 2 true 0)
      && reads 0x6B353800 (.sta 25 21 false 3 4 0) && reads 0x6D743000 (.ldfe 11 20 false 0)
      && reads 0x72513000 (.stfe 18 17 false 0) && reads 0x0CA84934 (.amoCas 5 8 9 false false true 4)
      && reads 0x0DCC6814 (.amoAdd 14 12 13 false false true 4) && reads 0x0CA84903 (.amoSwp 5 8 9 false false false 3)
      && reads 0xE0B00140 (.waitf 5 16 0) := by decide

theorem test_decode_branch :
    reads 0x80480FFD (.bNe 4 0 (-3)) && reads 0x81920002 (.bFull 9 2) && reads 0x87FFFFFE (.jmp (-2))
      && reads 0x88000010 (.jmpl 16) && reads 0x4BE50002 (.jmpr 31 5 false 2) && reads 0x481F0000 (.jmpr 0 31 false 0) := by decide

theorem test_decode_vector :
    reads 0xA00A9638 (.vadd 10 11 false false 7 0) && reads 0xA0990A00 (.vfill 4 5 false false 0) := by decide

theorem test_decode_system :
    reads 0xE0000043 (.sys 3) && reads 0xE0000060 .tret && reads 0xE0000020 .halt && reads 0xE0000080 .isync
      && reads 0xE0000180 .hintsucc && reads 0xE00000AC (.fenceRel 4) && reads 0xE00000A2 (.fenceAcq 2)
      && reads 0xE14000C0 (.time 10) && reads 0xE00F00E0 (.timedgo 15) && reads 0xE0A00100 (.vbusy 5)
      && reads 0xE0A00160 (.waitpred 5) && reads 0xC0E000D0 (.krd 7 0x00D) && reads 0xC00B0061 (.kwr 11 6)
      && reads 0xC0130411 (.kwr 19 0x041) := by decide

theorem test_decode_strand :
    reads 0xE0060200 (.spawn 6) && reads 0xE0000220 .retire && reads 0xE0E90240 (.join 7 9) && reads 0xE0A63A60 (.launch 5 6 7)
      && reads 0xE0108A81 (.enq 16 17 1) && reads 0xE0E952A0 (.amsg 7 9 10) && reads 0xE0042AE9 (.rmov 4 5 9)
      && reads 0xE0A00300 (.fnew 5) && reads 0xE0063B20 (.fset 6 7) && reads 0xE0063B40 (.fsetF 6 7)
      && reads 0xE0A60360 (.fget 5 6) && reads 0xE0A60380 (.fwait 5 6) && reads 0xE00603A0 (.ffree 6)
      && reads 0xE0063BC0 (.binit 6 7) && reads 0xE0A603E0 (.arrive 5 6) && reads 0xE0062C00 (.bwait 0 6 5) := by decide

/-- A command word of four words. -/
def cmd (a b c d : W64) : Cmd := ⟨a, b, c, d⟩

/-- Whether a command word decodes to the instruction that `f` makes of it. -/
def readsCmd (c : Cmd) (f : Cmd → Instr) : Bool := decide (decodeCmd true c = .ok (f c))

/-- The command words of the entries' examples. -/
def wMma := cmd 0x0100105000100081 0x0000000001001000 0x0000000001000000 0x0000FF0010008100
def wMring := cmd 0x0600000000100000 0x000022480000003F 0 0x32
def wMzero := cmd 0x0500000000100000 0 0x0000000640200000 0x31
def wMcvt := cmd 0x0400000000100000 0x00FFFFFFFFF80800 0x0000081000000020 0x8030
def wXcopy := cmd 0x1011000000107000 0x03FFFFFFFFF81000 0x00FFFFFFFFF82000 0x0004001000FC8040
def wXswz := cmd 0x1411000000100000 0x00FFFFFFFFF80200 0x00FFFFFFFFF80400 0x80000041
def wLgrp := cmd 0x2222000000100000 0x400 3 0x18022
def wLrx := cmd 0x2122000000100000 0xF0 0x105 0x8023
def wLtx := cmd 0x2022000000100000 0x0000100000010000 0x0403C003 0x8024
def wEred := cmd 0x3032000000107000 0x203F02000 0 0x10020
def wCred := cmd 0x4042000000107000 0x2000000000 0x10003 0x20040
def wGbind := cmd 0x5052000000100000 0x3000000000 0x315 0x18021

theorem test_decode_commands :
    readsCmd wMma .mma && readsCmd wMring .mring && readsCmd wMzero .mzero && readsCmd wMcvt .mcvt && readsCmd wXcopy .xcopy
      && readsCmd wXswz .xswz && readsCmd wLgrp .lgrpEnrol && readsCmd wLrx .lrx && readsCmd wLtx .ltx && readsCmd wEred .ered
      && readsCmd wCred .cred && readsCmd wGbind .gbind := by decide

/-- Whether a cell word decodes to the instruction that `f` makes of it. -/
def readsCell (w : W64) (f : W64 → Instr) : Bool := decide (decodeCell w = .ok (f w))

theorem test_decode_cells :
    readsCell 0x1003F20000000007 .padd && readsCell 0x1103F20000000009 .psub && readsCell 0x1303220000000007 .pfma
      && readsCell 0x1503F20000000007 .pmax && readsCell 0x1603F20000000207 .pcmp && readsCell 0x1703F2000000020E .plog
      && readsCell 0x1803F2000000030A .pshf && readsCell 0x190FF200000007C2 .pcvt && readsCell 0x1A0FF20000000007 .pacc
      && readsCell 0x200FF2000000000E .pld && readsCell 0x2103F00000000009 .pst && readsCell 0x0140020000000001 .plut
      && readsCell 0x304FF20000000001 .ccall && readsCell 0x313FF00000000000 .cret && readsCell 0x0200F0000D800000 .pag := by decide

/-- Whether a router word decodes to the instruction that `f` makes of it. -/
def readsRouter (w : W64) (f : W64 → Instr) : Bool := decide (decodeRouter w = .ok (f w))

theorem test_decode_routers :
    readsRouter 0x13210000 .steer && readsRouter 0x20312000 .carry && readsRouter 0x3031F000 .invar
      && readsRouter 0x40312000 .merge := by decide

/-- R261: what the tables do not assign is refused by name. -/
theorem test_decode_refuses :
    decodeWord 0 = .error .major ∧ decodeWord 0xFFFFFFFF = .error .major ∧ decodeWord 0x0400000F = .error .fn
      ∧ decodeWord 0xE00007E0 = .error .sop ∧ decodeWord 0xE0000001 = .error .reserved
      ∧ decodeCmd true (cmd 0 0 0 0) = .error .command ∧ decodeCell 0xFF00000000000000 = .error .cell := by decide

/-! ## Well-formedness: one ill-formed term for each check -/

theorem test_wf_scope : (Instr.fenceRel 6).wf = false ∧ (Instr.amoAdd 1 2 3 false false true 6).wf = false := by decide
theorem test_wf_size : (Instr.ld 1 2 false 7 0 false 0).wf = false := by decide
theorem test_wf_order : (Instr.ld 1 2 false 3 1 false 0).wf = false ∧ (Instr.st 1 2 false 3 6 true 0).wf = false := by decide
theorem test_wf_vector :
    (Instr.vadd 1 2 false false 2 0).wf = false ∧ (Instr.vadd 1 2 false false 9 1).wf = false ∧ (Instr.vmin 1 2 false false 3).wf = false
      ∧ (Instr.vabs 1 2 false false 0xB).wf = false ∧ (Instr.vrcp 1 2 false false 9 0).wf = false
      ∧ (Instr.vsel 1 2 false false 5).wf = false ∧ (Instr.vfill 1 2 false false 6).wf = false
      ∧ (Instr.vcvt 1 2 false false 0 5).wf = false ∧ (Instr.vcmp 1 2 false false 7 4).wf = false := by decide
theorem test_wf_kreg : (Instr.krd 1 0x011).wf = false ∧ (Instr.kwr 1 0x430).wf = false ∧ (Instr.krd 1 0x0C6).wf = false := by decide
theorem test_wf_command : (Instr.mma wMring).wf = false ∧ (Instr.xcopy wMma).wf = false := by decide
theorem test_wf_fabric : (Instr.padd 0x1103F20000000009).wf = false ∧ (Instr.steer 0x20312000).wf = false := by decide

/-! ## Witnesses -/

/-- The pod at reset but for core 0 of wafer 0, which acts. -/
def at_ (c : Core) : State := State.reset.setCore 0 c

/-- A core whose registers hold what the list says. -/
def rg (l : List (Reg × W64)) : Core := l.foldl (fun c p => c.put p.1 p.2) resetCore

/-- A core with a handler. -/
def hd (l : List (Reg × W64)) : Core := { rg l with ktvec := 0x1000 }

/-- A word of local space. -/
def loc (o : Nat) : W64 := BitVec.ofNat 64 (localBase + o)

/-- The first node of the first sheaf. -/
def r0 : NodeRef := ⟨0, 0⟩

/-- A core that runs a strand of that node. -/
def run (l : List (Reg × W64)) : Core := { hd l with strand := some ⟨0, 1, r0⟩ }

/-- No home of the pod but an edge window is a window. -/
theorem no_window {h : Home} (e : (match h with
    | .window _ _ _ _ => false
    | _ => true) = true) : ∀ w m sl o, h ≠ .window w m sl o := by
  intro w m sl o x
  rw [x] at e
  exact Bool.noConfusion e


/-! ## Single steps: expected results worked by hand from the rules -/

/-- What register x3 holds after an instruction on x1 and x2. -/
def out (i : Instr) (a b : W64) : Option W64 :=
  match exec i (at_ (rg [(1, a), (2, b)])) with
  | .next t => some (t.me.get 3)
  | _ => none

/-- R308, R361: wraps and signs of the register forms. -/
theorem test_arith : out (.add 3 1 2 false false) 0xFFFFFFFFFFFFFFFF 2 = some 1 ∧ out (.sub 3 1 2 false false) 0 1 = some 0xFFFFFFFFFFFFFFFF ∧
    out (.addi 3 1 false (-1)) 0 0 = some 0xFFFFFFFFFFFFFFFF ∧ out (.and 3 1 2 false false) 0xC 0xA = some 8 ∧
    out (.or 3 1 2 false false) 0xC 0xA = some 0xE ∧ out (.xor 3 1 2 false false) 0xC 0xA = some 6 ∧
    out (.slt 3 1 2 false false) 0xFFFFFFFFFFFFFFFF 1 = some 1 ∧ out (.sltn 3 1 2 false false) 0xFFFFFFFFFFFFFFFF 1 = some 0 ∧
    out (.min 3 1 2 false false) 0x8000000000000000 1 = some 0x8000000000000000 ∧
    out (.minn 3 1 2 false false) 0x8000000000000000 1 = some 1 ∧ out (.max 3 1 2 false false) 0x8000000000000000 1 = some 1 ∧
    out (.maxn 3 1 2 false false) 0x8000000000000000 1 = some 0x8000000000000000 := by decide

/-- R361: bits 63:6 of a count are ignored; ROT turns right; SRA copies bit 63. -/
theorem test_shift : out (.shl 3 1 2 false false) 3 0x41 = some 6 ∧ out (.shr 3 1 2 false false) 0x8000000000000000 63 = some 1 ∧
    out (.sra 3 1 2 false false) 0x8000000000000000 63 = some 0xFFFFFFFFFFFFFFFF ∧
    out (.rot 3 1 2 false false) 1 1 = some 0x8000000000000000 ∧ out (.rot 3 1 2 false false) 0x1234 64 = some 0x1234 ∧
    out (.srai 3 1 false 63) 0x7FFFFFFFFFFFFFFF 0 = some 0 := by decide

/-- R334, R361: products and quotients at their corners. -/
theorem test_muldiv : out (.mul 3 1 2 false false) 0xFFFFFFFFFFFFFFFF 0xFFFFFFFFFFFFFFFF = some 1 ∧
    out (.mulh 3 1 2 false false) 0xFFFFFFFFFFFFFFFF 0xFFFFFFFFFFFFFFFF = some 0 ∧
    out (.mulhn 3 1 2 false false) 0xFFFFFFFFFFFFFFFF 0xFFFFFFFFFFFFFFFF = some 0xFFFFFFFFFFFFFFFE ∧
    out (.div 3 1 2 false false) 0xFFFFFFFFFFFFFFF9 2 = some 0xFFFFFFFFFFFFFFFD ∧
    out (.mod 3 1 2 false false) 0xFFFFFFFFFFFFFFF9 2 = some 0xFFFFFFFFFFFFFFFF ∧
    out (.div 3 1 2 false false) 0x8000000000000000 0xFFFFFFFFFFFFFFFF = some 0x8000000000000000 ∧
    out (.mod 3 1 2 false false) 0x8000000000000000 0xFFFFFFFFFFFFFFFF = some 0 ∧ out (.modn 3 1 2 false false) 7 0 = some 7 ∧
    out (.divn 3 1 2 false false) 0xFFFFFFFFFFFFFFFF 2 = some 0x7FFFFFFFFFFFFFFF := by decide

/-- R324, R333, R361: counts of leading, trailing and set bits. -/
theorem test_counts : out (.clz 3 1 false) 0 0 = some 64 ∧ out (.ctz 3 1 false) 0 0 = some 64 ∧ out (.popc 3 1 false) 0xFF 0 = some 8 ∧
    out (.clz 3 1 false) 1 0 = some 63 ∧ out (.ctz 3 1 false) 0x8000000000000000 0 = some 63 := by decide

/-- The core after an instruction. -/
def aft (i : Instr) (c : Core) : Core :=
  match exec i (at_ c) with
  | .next t => t.me
  | _ => resetCore

/-- R313: a taken branch goes to pc + 4 × its offset, one that is not taken on to pc + 4. -/
theorem test_branch : (aft (.bNe 1 2 (-3)) { rg [(1, 5)] with pc := 0x100 }).pc = 0xF4 ∧
    (aft (.bNe 1 2 (-3)) { rg [] with pc := 0x100 }).pc = 0x104 ∧ (aft (.jmpl 16) { rg [] with pc := 0x100 }).pc = 0x140 ∧
    (aft (.jmpl 16) { rg [] with pc := 0x100 }).get 31 = 0x104 := by decide

/-- R205, R392: SYS 3 saves the address after it and 0x43, and goes to the handler; R395: TRET goes back, but only in trap mode. -/
theorem test_trap : let c := aft (.sys 3) { hd [] with pc := 0x100 }
    (c.kepc, c.pc, c.tm, c.ktval, c.kcause) = (0x104, 0x1000, true, 0x43, 5) ∧
    let d := aft .tret { hd [] with pc := 0x1000, kepc := 0x100, tm := true }
    (d.pc, d.tm) = (0x100, false) ∧ (aft .tret { hd [] with pc := 0x200, kepc := 0x100 }).kepc = 0x200 := by decide

/-- A core with a handler whose register waits for a load. -/
def waitingOn (r : Reg) : Core := { (hd []).mkEmpty r with port := [mkAccess .ld 0 8 r] }

/-- R240: an empty source traps at once where its w bit is set, and blocks where it is clear. -/
theorem test_empty : (aft (.add 4 3 1 true false) (waitingOn 3)).tm = true ∧ (aft (.add 4 3 1 true false) (waitingOn 3)).pc = 0x1000 ∧
    (aft (.add 4 3 1 false false) (waitingOn 3)).tm = false ∧ (aft (.add 4 3 1 false false) (waitingOn 3)).pc = 0 := by decide

/-- R241: x0 reads 0 whatever is written to it. -/
theorem test_x0 : (aft (.add 0 1 2 false false) (rg [(1, 5), (2, 6)])).get 0 = 0 := by decide
/-! ### Register instructions -/

theorem wit_RegisterLogic : (at_ (rg [(1, 5), (2, 3)])).me.ready [1, 2] 3 = true := by decide
theorem wit_MultiplyDivide : (at_ (rg [(1, 5)])).me.ready [1, 2] 0 = true := by decide
theorem wit_ImmediatesAndBits : (at_ (rg [(31, 5)])).me.ready [31] 31 = true ∧ (at_ (rg [(2, 0x3F3F)])).me.ready [1, 2] 31 = true := by
  decide

/-- A core whose register x3 waits for a load. -/
def waiting (l : List (Reg × W64)) : Core :=
  let c := hd l
  { c.mkEmpty 3 with port := [mkAccess .ld (loc 0) 8 3] }

theorem wit_CountsAndLhi_done : (at_ (rg [(1, 5)])).me.ready [1] 2 = true := by decide
theorem wit_CountsAndLhi_trap : (at_ (waiting [])).me.isFull 3 = false ∧ (at_ (waiting [])).me.handles = true := by decide
theorem wit_CountsAndLhi_wait : (at_ (waiting [])).me.ready [1] 3 = false ∧ (at_ (waiting [])).me.isFull 1 = true := by decide

theorem wit_BitFieldInsert : State.reset.me.ready [1, 2, 3] 3 = true ∧ Does (.bext 4 3 2 false false) State.reset 4 0 ∧
    State.reset.me.get 1 = 0 := by
  refine ⟨by decide, ⟨_, rfl, (State.reset.me.put 4 0), rfl, by decide, by decide, by decide⟩, by decide⟩

theorem wit_PcRelative : State.reset.me.ready [] 5 = true ∧ (at_ (waiting [])).me.ready [] 3 = false := by decide

theorem wit_BranchesAndJumps : (at_ (rg [(1, 8)])).me.ready [1, 2] 0 = true ∧ (at_ (rg [])).me.ready [] 31 = true ∧
    ((at_ (rg [(1, 8)])).me.get 1 + (1 : BitVec 15).signExtend 64 * 4).toNat % 4 = 0 ∧
    ((at_ (hd [(1, 6)])).me.get 1 + (1 : BitVec 15).signExtend 64 * 4).toNat % 4 ≠ 0 ∧ (at_ (hd [(1, 6)])).me.handles = true := by
  decide

theorem wit_EmptySource_first : (at_ (waiting [])).me.handles = true ∧ (at_ (waiting [])).me.isFull 3 = false := by decide
theorem wit_EmptySource_second : (at_ (waiting [])).me.isFull 1 = true ∧ (at_ (waiting [])).me.isFull 3 = false := by decide
theorem wit_EmptySource_waits : (at_ (waiting [])).me.isFull 3 = false ∧ (at_ (waiting [])).me.wait = none := by decide

/-! ### The load-store port -/

/-- Both registers that an access reads. -/
def ldst : Core := rg [(1, loc 0x100), (2, 0x1122334455667788)]

theorem wit_LoadsAndStoresIssue_ld : (at_ ldst).me.ready [1] 4 = true ∧ (Instr.ld 4 1 false 6 3 true 1).wf = true ∧
    (at_ ldst).reaches { mkAccess .ld (loc 0x104) 4 4 with zext := true, sc := 3, acq := true } (quadPa 0 0 0x104) false false := by
  exact ⟨by decide, by decide, rfl, rfl, by decide⟩

theorem wit_LoadsAndStoresIssue_st : (at_ ldst).me.ready [1, 2] 0 = true ∧ (Instr.st 2 1 false 3 2 true 0).wf = true ∧
    (at_ ldst).me.storesAcked = true ∧ (at_ ldst).me.stas < 64 ∧
    (at_ ldst).reaches { mkAccess .st (loc 0x100) 8 0 with data := 0x1122334455667788, sc := 2, rel := true }
      (quadPa 0 0 0x100) false false := by
  exact ⟨by decide, by decide, by decide, by decide, rfl, rfl, by decide⟩

theorem wit_LoadsAndStoresIssue_sta : (Instr.sta 2 1 false 0 1 0).wf = true ∧
    (at_ ldst).reaches { mkAccess .sta (loc 0x100) 1 0 with data := 0x88, sc := 1 } (quadPa 0 0 0x100) false false := by
  exact ⟨by decide, rfl, rfl, by decide⟩

theorem wit_LoadsAndStoresIssue_tagged :
    (at_ ldst).reaches { mkAccess .stfe (loc 0x100) 8 0 with data := 0x1122334455667788 } (quadPa 0 0 0x100) false false ∧
    (at_ ldst).reaches (mkAccess .ldfe (loc 0x3FFF8) 8 4) (quadPa 0 0 0x3FFF8) false false ∧
    (at_ ldst).reaches { mkAccess .waitf (loc 0x100) 8 4 with cmp := 7 } (quadPa 0 0 0x100) false false := by
  exact ⟨⟨rfl, rfl, by decide⟩, ⟨rfl, rfl, by decide⟩, rfl, rfl, by decide⟩

theorem wit_AmosIssue : (Instr.amoAdd 4 1 2 false false true 1, AmoOp.add) ∈ amos 4 1 2 false false true 1 ∧
    (Instr.amoCas 4 1 2 false false true 5, AmoOp.cas) ∈ amos 4 1 2 false false true 5 ∧
    (at_ ldst).me.ready [1, 2] 4 = true ∧ (at_ ldst).me.ready [1, 2, 4] 4 = true ∧ (loc 0x100).toNat % 8 = 0 ∧
    (at_ ldst).reaches { mkAccess (.amo .add) (loc 0x100) 8 4 with data := 0x1122334455667788, sc := 1 } (quadPa 0 0 0x100) false false ∧
    (at_ ldst).reaches { mkAccess (.amo .cas) (loc 0x100) 8 4 with data := 0x1122334455667788, sc := 5 } (quadPa 0 0 0x100) false false := by
  exact ⟨by simp [amos], by simp [amos], by decide, by decide, by decide, ⟨rfl, rfl, by decide⟩, rfl, rfl, by decide⟩

theorem wit_AmoResults : 0 < 32 ∧ 0 < 64 := by decide

/-- An address that no access of two bytes or more may have. -/
def odd : Core := hd [(1, loc 0x101), (2, 7)]

theorem wit_MisalignedTraps : (at_ odd).me.handles = true ∧ (at_ odd).me.ready [1] 2 = true ∧ (at_ odd).me.ready [1, 2] 0 = true ∧
    (at_ odd).me.ready [1, 2] 2 = true ∧ (at_ odd).me.ready [1, 2, 2] 2 = true ∧ (Instr.ld 2 1 false 1 0 false 0).wf = true ∧
    (Instr.st 2 1 false 1 0 false 0).wf = true ∧ (Instr.sta 2 1 false 1 5 0).wf = true ∧ (loc 0x101).toNat % 2 ≠ 0 ∧
    (loc 0x101).toNat % 8 ≠ 0 ∧ (Instr.amoSwp 2 1 2 false false false 0, AmoOp.swp) ∈ amos 2 1 2 false false false 0 := by
  refine ⟨by decide, by decide, by decide, by decide, by decide, by decide, by decide, by decide, by decide, by decide, by simp [amos]⟩

/-! ### Traps -/

theorem wit_TrapEntry_handler : (255 : Nat) < 256 ∧ (at_ odd).me.tm = false ∧ (at_ odd).me.ktvec ≠ 0 := by decide
theorem wit_TrapEntry_double : (at_ { odd with tm := true }).me.tm = true ∧ State.reset.me.ktvec = 0 := by decide

theorem wit_SysAndTret : (at_ odd).me.handles = true ∧ (at_ { odd with tm := true, kepc := 0x40 }).me.tm = true ∧
    (at_ { odd with tm := true, kepc := 0x40 }).me.kepc.toNat % 4 = 0 := by decide

theorem wit_KregChecks : (at_ odd).me.handles = true ∧ kregOf 0x011 = none ∧ kregOf 0x430 = none ∧ kregOf 0x082 = some .kfclk ∧
    KReg.kfclk.readPriv = true ∧ kregOf 0x008 = some .kasid ∧ KReg.kasid.writePriv = true ∧ (at_ odd).me.priv = false := by decide

theorem wit_CoreKregs : kregOf 0x000 = some .kstat ∧ kregOf 0x42F = some (.kflnk 47) ∧ (at_ odd).me.ready [] 5 = true ∧
    (at_ odd).me.ready [1] 0 = true ∧ KReg.kepc.writePriv = false ∧ KReg.kstat ≠ .ktime ∧
    (at_ { odd with priv := true }).me.priv = true ∧ kregOf 0x007 = some .kpres ∧ kregOf 0x00A = some .kggeo := by decide

theorem wit_OtherKregs : let s := at_ { odd with priv := true }
    s.me.ready [1] 0 = true ∧ s.me.priv = true ∧ [0x00B, 0x00C].map kregOf = [some .kaplo, some .kaphi] ∧
    kregOf 0x10E = some .klead ∧ kregOf 0x42F = some (.kflnk 47) ∧
    (match exec (.kpresWrite 0 5) s, exec (.krseedWrite 0 5) s, exec (.kqseedWrite 0 5) s, exec (.krxfWrite 0 5) s, exec (.kfclkWrite 0 5) s with
      | .next _, .next _, .next _, .next _, .next _ => True
      | _, _, _, _, _ => False) := by
  refine ⟨by decide, by decide, by decide, by decide, by decide, trivial⟩
/-! ### System instructions and strands -/

/-- A node with its entry, running. -/
def nd (ws : List W64) : Node := { resetNode with words := ws, st := .running }

/-- A sheaf of the host queue with its nodes and edges. -/
def shf (ns : Map Node) (es : List W64) : Sheaf :=
  ⟨0x10000, 0, 7, true, 0, 0, [], [], BitVec.allOnes 72, true, ns, es, none, 0, 0, []⟩

/-- The pod with core 0 and one sheaf of two nodes, the second depending on the first. -/
def two (c : Core) (a b : Node) : State := { at_ c with sheaves := [(0, shf [(0, a), (1, b)] [0x400000000])] }

/-- A strand of the second node. -/
def run1 (l : List (Reg × W64)) : Core := { hd l with strand := some ⟨0, 1, ⟨0, 1⟩⟩ }

theorem wit_OrderAndTime : (5 : BitVec 3).toNat ≤ 5 ∧ (at_ (run [])).me.vq = [] ∧ (at_ { run [] with priv := true }).me.priv = true ∧
    (at_ (run [])).me.partKey = some 0 ∧ ((at_ (run [])).part 0).st = .run ∧ (at_ (run [])).me.ready [1] 0 = true ∧
    ((at_ { run [] with hold := .timedgo 5 0 }).core 0).hold = .timedgo 5 0 ∧ (at_ { run [] with hold := .timedgo 5 0 }).unitRuns 0 .core = true := by
  decide

theorem wit_ReadsOfTheMachine : (two (run1 []) { nd [] with st := .done } (nd [])).me.ready [] 5 = true ∧
    (two (run1 []) { nd [] with st := .done } (nd [])).me.strand = some ⟨0, 1, ⟨0, 1⟩⟩ ∧
    mfind (two (run1 []) { nd [] with st := .done } (nd [])).sheaves 0 = some (shf [(0, { nd [] with st := .done }), (1, nd [])] [0x400000000]) ∧
    (shf [(0, { nd [] with st := .done }), (1, nd [])] [0x400000000]).preds 1 = [0] ∧
    ((shf [(0, { nd [] with st := .done }), (1, nd [])] [0x400000000]).nodeAt 0).abn = false := by decide

theorem wit_ReadsOfTheMachine_abnormal :
    0 ∈ (shf [(0, { nd [] with st := .done, abn := true }), (1, nd [])] [0x400000000]).preds 1 ∧
    ((shf [(0, { nd [] with st := .done, abn := true }), (1, nd [])] [0x400000000]).nodeAt 0).abn = true ∧
    ∀ q ∈ (shf [(0, { nd [] with st := .done, abn := true }), (1, nd [])] [0x400000000]).preds 1, 0 ≤ q := by decide

/-- A state with a word of memory. -/
def put (s : State) (l : Nat) (v : W64) : State := s.write (quadPa 0 0 l) (natRun 8 v.toNat false) ⟨3, 0, 0, false, 0⟩

/-- A SPAWN whose record lies at 0x200 of the QSP. -/
def spw : State := at_ (run [(6, loc 0x200)])

theorem wit_SpawnPushes : spw.me.strand = some ⟨0, 1, r0⟩ ∧ spw.me.ready [6] 0 = true ∧ (loc 0x200).toNat % 32 = 0 ∧
    spw.me.records = [] ∧ (spw.near (loc 0x200)).atOnce (loc 0x200) 32 0 (quadPa 0 0 0x200) false false ∧
    recReserved (fun i => (spw.near (loc 0x200)).readW (quadPa 0 0 0x200 + 8 * i)) = false ∧
    (spw.pushSpawn 0 (mkRec 0 r0 fun i => spw.readW (quadPa 0 0 0x200 + 8 * i))).isSome = true := by
  exact ⟨rfl, by decide, by decide, by decide, ⟨rfl, by decide, by decide, by decide⟩, by decide, by decide⟩

/-- A SPAWN whose record lies in a read view that stands at virtual address 0. -/
def spwV : State :=
  { at_ (run [(6, 0x200)]) with
    streams := [(0, ⟨0, 0, 0, 2 ^ 30, BitVec.ofNat 64 (0xF800000000000000 + winPa 0 0 2)⟩)]
    ctls := [(0, { resetCtl with slots := [(2, { resetSlot with bound := true, kind := 0, wlen := 1 })] })] }

set_option maxRecDepth 40000 in
theorem wit_SpawnPushes_view : spwV.me.records = [] ∧ spwV.me.ready [6] 0 = true ∧
    spwV.translate (spwV.portWho 0) 0x200 32 0 = .ok (winPa 0 0 2 + 0x200) false false ∧ windowed (winPa 0 0 2 + 0x200) = true ∧
    spwV.remoteUnbacked 0 (winPa 0 0 2 + 0x200) = false ∧
    spwV.mayStall spwV.me { mkAccess .record 0x200 32 0 with pa := winPa 0 0 2 + 0x200 } = false := by
  exact ⟨by decide, by decide, rfl, rfl, by decide, by decide⟩

/-- A word of that record, read. -/
def recW (i : Nat) : Access := { mkAccess .record 0x200 8 0 with id := i, pa := winPa 0 0 2 + 0x200 + 8 * i, phase := .performed 0 }

theorem wit_SpawnPushes_read : let s := at_ { run [(6, 0x200)] with port := (List.range 4).map recW }
    s.me.records = [recW 0, recW 1, recW 2, recW 3] ∧ (∀ r ∈ [recW 0, recW 1, recW 2, recW 3], r.performed = true) ∧
    recReserved (fun i => nth [(recW 0).got, (recW 1).got, (recW 2).got, (recW 3).got] i 0) = false := by decide

/-- A record. -/
def rec0 : Rec := ⟨0x4000, 0x100, 0, 0, false, 0, false, 1, 0, r0, false⟩

/-- Queues with no room on chip. -/
def fullQ : State :=
  { spw with
    quads := [(0, { resetQuad with contq := ⟨List.replicate 64 rec0, []⟩ })]
    fields := [(0, { resetField with contq := ⟨List.replicate 1024 rec0, []⟩ })] }

set_option maxRecDepth 40000 in
theorem wit_SpawnPushes_spill : fullQ.pushSpawn 0 (mkRec 0 r0 fun i => fullQ.readW (quadPa 0 0 0x200 + 8 * i)) = none ∧
    fullQ.me.handles = true := by decide

/-- The record names a join block. -/
def spwJ (s : State) : State := (put s 0x210 (loc 0x300)).near (loc 0x200)

theorem wit_SpawnPushes_join : (spwJ spw).readW (quadPa 0 0 0x210) = loc 0x300 ∧ (loc 0x300).toNat % 32 = 0 ∧
    recReserved (fun i => (spwJ spw).readW (quadPa 0 0 0x200 + 8 * i)) = false ∧
    (((spwJ spw).setMe ((spwJ spw).me.didRead (quadPa 0 0 0x200) 32 [])).near (loc 0x300)).atOnce (loc 0x300) 32 2 (quadPa 0 0 0x300) false false := by
  exact ⟨by decide, by decide, by decide, rfl, by decide, by decide, by decide⟩

set_option maxRecDepth 40000 in
theorem wit_SpawnPushes_joinSpill : (spwJ fullQ).readW (quadPa 0 0 0x210) = loc 0x300 ∧ (spwJ fullQ).me.handles = true ∧
    (spwJ fullQ).pushSpawn 0 (mkRec 0 r0 fun i => (spwJ fullQ).readW (quadPa 0 0 0x200 + 8 * i)) = none := by
  decide

set_option maxRecDepth 40000 in
theorem wit_PushIsBehind : (spw.pushSpawn 0 rec0).isSome = true ∧ ({ fullQ with fields := [] }.pushSpawn 0 rec0).isSome = true ∧
    (∀ x ∈ (spw.quad 0).contq.chip, x.out = false) := by decide

theorem wit_RetireAndKend : ∃ t, retires (at_ (run [])) t := by
  refine ⟨_, ⟨0, 1, r0⟩, rfl, by decide, by decide, by decide, .inl ⟨by decide, rfl⟩⟩

theorem wit_RetireAndKend_trap : (at_ { run [] with tm := true }).me.tm = true ∧ ∃ t, retires (at_ { run [] with tm := true }) t := by
  refine ⟨rfl, _, ⟨0, 1, r0⟩, rfl, by decide, by decide, by decide, .inl ⟨by decide, rfl⟩⟩

/-- A core whose join block is at 0x300, which `n` strands hold. -/
def jb (n : W64) : State := put (at_ (run [(1, loc 0x400), (2, loc 0x300), (9, loc 0x300)])) 0x300 n

theorem wit_RetireAndKend_block : ((jb 1).readW (quadPa 0 0 0x300)).toNat % 2 ^ 63 ≠ 0 ∧ ∃ t, retires (jb 1) t := by
  refine ⟨by decide, _, ⟨0, 1, r0⟩, rfl, by decide, by decide, by decide,
    .inr ⟨by decide, by decide, quadPa 0 0 0x300, false, false, ⟨rfl, by decide, by decide, by decide⟩, rfl⟩⟩

theorem wit_RetireAndKend_underflow : ((jb 0).readW (quadPa 0 0 0x300)).toNat % 2 ^ 63 = 0 ∧ ∃ t, retires (jb 0) t := by
  refine ⟨by decide, _, ⟨0, 1, r0⟩, rfl, by decide, by decide, by decide,
    .inr ⟨by decide, by decide, quadPa 0 0 0x300, false, false, ⟨rfl, by decide, by decide, by decide⟩, rfl⟩⟩

theorem wit_RetireAndKend_kend : ∃ t, retires ((at_ (run [])).endStrands r0 0 (some 0)) t := by
  refine ⟨_, ⟨0, 1, r0⟩, rfl, by decide, by decide, by decide, .inl ⟨by decide, rfl⟩⟩

/-- A parked strand whose save area is at 0x400. -/
def waits : Parked := ⟨0, loc 0x400, 0, 0, r0, false, loc 0x300, 0, none⟩

/-- The first node with the cores, the quad's records and the parked strands that the lists name. -/
def ends (cs : Map Core) (rs : List Rec) (ps : List Parked) : State :=
  { State.reset with cores := cs, quads := [(0, { resetQuad with contq := ⟨rs, []⟩ })], parked := ps }

set_option maxRecDepth 40000 in
theorem wit_OthersEnd :
    ((ends [(1, run [])] [] []).cores.filter fun p => p.2.ref == some r0 && some 0 != some p.1).map (·.1) = [1] ∧
    ((ends [(1, run [])] [] []).core 1).ref = some r0 ∧ ((ends [(1, run [])] [] []).core 1).ending = none ∧
    ((ends [(1, { run [] with fault := some 5 })] [] []).lateId 1).isNone = true ∧
    (ends [] [rec0] []).quads.flatMap (fun p => p.2.contq.of r0) = [rec0] ∧ rec0.jc = 0 ∧
    ({ rec0 with jc := loc 0x300 } : Rec).jc ≠ 0 ∧
    (put (ends [] [{ rec0 with jc := loc 0x300 }] []) 0x300 2).coreTr 0 0 (loc 0x300) 32 2 = .ok (quadPa 0 0 0x300) false false ∧
    (ends [] [] [waits]).parked.filter (·.ref == r0) = [waits] ∧ waits.ends = none ∧ (ends [] [] [waits]).parkedDone waits = true ∧
    (ends [(0, { resetCore with port := [{ mkAccess .sta (loc 0) 8 0 with pa := quadPa 0 0 0 }] })] [] [{ waits with after := 9 }]).parkedDone
      { waits with after := 9 } = false ∧
    (put (ends [] [] [waits]) 0x410 (loc 0x300)).coreWord 0 0 (waits.save + 16) = loc 0x300 := by
  exact ⟨by decide, by decide, by decide, by decide, by decide, by decide, by decide, rfl, by decide, by decide, by decide, by decide, by decide⟩

theorem wit_BlockDecrements : 1 < ((jb 2).readW (quadPa 0 0 0x300)).toNat % 2 ^ 63 ∧ (jb 2).readW (quadPa 0 0 0x310) = 0 ∧
    ((jb 1).readW (quadPa 0 0 0x300)).toNat % 2 ^ 63 ≤ 1 ∧ (put (jb 1) 0x310 (loc 0x400)).readW (quadPa 0 0 0x310) ≠ 0 ∧
    [waits].find? (fun p => !p.fget && p.save == loc 0x400 && p.asid == 0 && p.ends.isNone) = some waits := by
  decide

theorem wit_JoinCompletesOrParks : (jb 1).me.ready [9] 7 = true ∧ (jb 1).me.acquired = true ∧ (jb 1).me.get 9 = loc 0x300 ∧
    ((jb 1).near (loc 0x300)).atOnce (loc 0x300) 32 2 (quadPa 0 0 0x300) false false ∧
    (((jb 1).near (loc 0x300)).readW (quadPa 0 0 0x300)).toNat % 2 ^ 63 ≠ 0 ∧
    ((jb 1).near (loc 0x300)).readW (quadPa 0 0 0x310) = 0 ∧ (jb 1).me.tm = false ∧ (jb 1).me.isFull 1 = true ∧
    ((jb 1).me.get 1).toNat % 32 = 0 ∧ (jb 1).me.strand = some ⟨0, 1, r0⟩ ∧
    (((jb 1).near (loc 0x300)).near (loc 0x400)).atOnce (loc 0x400) 32 1 (quadPa 0 0 0x400) false false ∧
    ((((jb 1).near (loc 0x300)).near (loc 0x400)).near (loc 0x420)).atOnce (loc 0x420) 32 1 (quadPa 0 0 0x420) false false := by
  exact ⟨by decide, by decide, by decide, ⟨rfl, by decide, by decide, by decide⟩, by decide, by decide, by decide, by decide,
    by decide, rfl, ⟨rfl, by decide, by decide, by decide⟩, rfl, by decide, by decide, by decide⟩

theorem wit_JoinCompletesOrParks_done :
    ((jb 0x8000000000000000).near (loc 0x300)).atOnce (loc 0x300) 32 2 (quadPa 0 0 0x300) false false ∧
    (((jb 0x8000000000000000).near (loc 0x300)).readW (quadPa 0 0 0x300)).toNat % 2 ^ 63 = 0 := by
  exact ⟨⟨rfl, by decide, by decide, by decide⟩, by decide⟩

/-! ### Futures, points, commands and messages -/

theorem wit_FuturesRead_fnew : (at_ (run [])).me.ready [] 5 = true ∧ (at_ (run [])).me.ready [] 0 = true ∧
    anyFree ((at_ (run [])).field (nField 0)).futs (Config.freeEntry (at_ (run [])).tick) ≠ 0 := by
  refine ⟨by decide, by decide, ?_⟩
  show anyFree [] _ ≠ 0
  simp [anyFree, freeFrom, mget, resetFut]

theorem mget_full (n : Nat) (v d : Fut) (k e : Nat) (h : k ≤ e) (he : e < k + n) :
    mget ((List.range' k n).map fun i => (i, v)) e d = v := by
  induction n generalizing k with
  | zero => omega
  | succ n ih =>
    simp only [List.range'_succ, List.map_cons, mget]
    split
    · rfl
    · exact ih (k + 1) (by omega) (by omega)

/-- A future table without a free entry. -/
def noFut : Map Fut := (List.range' 1 65535).map fun i => (i, ⟨0, .pending, 0, []⟩)

theorem freeFrom_noFut (k e : Nat) (h : 1 ≤ e) (he : e ≤ 65535) : freeFrom noFut e k = 0 := by
  induction k generalizing e with
  | zero => rfl
  | succ k ih =>
    simp only [freeFrom, noFut, mget_full 65535 ⟨0, .pending, 0, []⟩ resetFut 1 e h (by omega)]
    rw [if_neg (by decide)]
    split <;> exact ih _ (by omega) (by omega)

theorem wit_FuturesRead_none (h : Nat) : anyFree noFut h = 0 :=
  freeFrom_noFut _ _ (by omega) (by omega)

/-- A future entry 5 of field 0, and its handle in x6. -/
def fut (f : FutSt) : State :=
  { at_ (run [(1, loc 0x400), (6, 0xA03), (7, 99)]) with fields := [(0, { resetField with futs := [(5, ⟨42, f, 3, []⟩)] })] }

theorem wit_FuturesRead : (fut .set).me.ready [6] 5 = true ∧ (fut .set).me.get 6 = 0xA03 ∧ (fut .set).stale 0 0xA03 = false ∧
    ((fut .set).fut 0 0xA03).st = .set ∧ (fut .set).me.acquired = true ∧ (fut .pending).me.acquired = true ∧ (fut .failed).stale 0 0xA03 = false ∧
    ((fut .failed).fut 0 0xA03).st = .failed ∧ (fut .failed).me.handles = true ∧ ((fut .pending).fut 0 0xA03).st = .pending ∧
    (fut .pending).me.strand = some ⟨0, 1, r0⟩ ∧ (fut .pending).me.isFull 1 = true ∧ (fut .pending).stale 0 0xA03 = false := by decide

theorem wit_FuturesRead_parks : (fut .pending).me.tm = false ∧ ((fut .pending).me.get 1).toNat % 32 = 0 ∧
    ((fut .pending).near (loc 0x400)).atOnce (loc 0x400) 32 1 (quadPa 0 0 0x400) false false ∧
    (((fut .pending).near (loc 0x400)).near (loc 0x420)).atOnce (loc 0x420) 32 1 (quadPa 0 0 0x420) false false := by
  exact ⟨by decide, by decide, ⟨rfl, by decide, by decide, by decide⟩, rfl, by decide, by decide, by decide⟩

/-- The core has a read in its port. -/
def futWaits (f : FutSt) : State :=
  (fut f).setMe { (fut f).me.mkEmpty 3 with port := [mkAccess .ld 0 8 3] }

theorem wit_FuturesRead_waits : (futWaits .set).me.ready [6] 5 = true ∧ (futWaits .set).me.acquired = false ∧
    (futWaits .set).stale 0 ((futWaits .set).me.get 6) = false ∧ ((futWaits .set).fut 0 0xA03).st ≠ .failed ∧
    ((futWaits .pending).fut 0 0xA03).st ≠ .failed := by decide

theorem wit_FuturesSetAndFree : (fut .pending).me.ready [6, 7] 0 = true ∧ (fut .pending).me.hold = .none ∧
    (fut .pending).stale 0 0xA03 = false ∧ (fut .pending).me.fenced 3 = true ∧
    ((fut .pending).setMe { (fut .pending).me with port := [mkAccess .st 0x100 8 0] }).me.fenced 3 = false ∧
    ((fut .pending).setMe { (fut .pending).me with port := [mkAccess .st 0x100 8 0] }).me.ready [6, 7] 0 = true := by decide

theorem wit_StaleHandles : (fut .free).stale 0 0xA03 = true ∧ (fut .set).stale 0 0xA04 = true ∧ (fut .set).stale 0 0x1A03 = true ∧
    (fut .set).stale 0 0x100000A03 = true ∧ (fut .set).stale 0 (72 * 2 ^ 25 + 0xA03) = true ∧ (fut .free).me.handles = true ∧
    (fut .free).me.hold = .none ∧ (fut .free).me.ready [6] 5 = true ∧ (fut .free).me.ready [6, 7] 0 = true ∧
    (fut .free).me.ready [6] 0 = true ∧ (fut .set).stale 0 0xA03 = false := by decide

/-- A point of wafer scope, its word in x6, an expected count in x7 and a parity in x8. -/
def pnt (ps : Map Point) : State := { at_ (run [(6, 0x317), (7, 65535), (8, 1)]) with points := ps }

theorem wit_RendezvousPoints_binit : (pnt []).me.strand = some ⟨0, 1, r0⟩ ∧ (pnt []).me.hold = .none ∧ pointOk 0x317 = true ∧
    (pnt []).me.ready [6, 7] 0 = true ∧ ((pnt []).me.get 7).toNat < 65536 ∧ mhas (pnt []).points ((pnt []).pointKey 0 r0 0x317) = false := by
  decide

/-- The point after BINIT with one arrival to come, or two. -/
def pnt1 (n : Nat) : State := pnt [((pnt []).pointKey 0 r0 0x317, ⟨n, 0, false⟩)]

theorem wit_RendezvousPoints : mfind (pnt1 1).points ((pnt1 1).pointKey 0 r0 0x317) = some ⟨1, 0, false⟩ ∧
    mfind (pnt1 2).points ((pnt1 2).pointKey 0 r0 0x317) = some ⟨2, 0, false⟩ ∧ (pnt1 1).me.ready [6] 5 = true ∧
    (pnt1 1).me.released (pointScope 0x317) = true ∧ (pnt1 1).me.ready [6, 8] 5 = true ∧
    ((pnt1 1).me.get 8).getLsbD 0 = true ∧ ((pnt1 1).me.get 3).getLsbD 0 = false := by decide

/-- A command at 0x200 for the copy queue 3. -/
def enqS : State := at_ (run [(16, loc 0x200), (17, 0x31)])

theorem wit_CommandsAndMessages_enq : enqS.me.ready [16, 17] 0 = true ∧ enqS.me.released 5 = true ∧ queueNameOk 0x31 = true ∧
    (loc 0x200).toNat % 32 = 0 ∧ localBase ≤ (loc 0x200).toNat ∧ (loc 0x200).toNat < localBase + 0x40000 ∧
    (enqS.queue (queueOf 0 0x31)).cmds.length < 32 ∧
    (enqS.near (loc 0x200)).atOnce (loc 0x200) 32 0 (quadPa 0 0 0x200) false false := by
  exact ⟨by decide, by decide, by decide, by decide, by decide, by decide, by decide, rfl, by decide, by decide, by decide⟩

/-- A residency of the first node, bound to graph 5. -/
def res0 : Resid where
  field := 0
  col := 0
  row := 0
  h := 1
  ref := r0
  asid := 0
  inst := none
  list := loc 0x800
  nlist := 2
  entries := []
  cmres := 0
  limit := 3
  graph := 5
  strict := false
  cause := 0
  halt := false
  lenmis := false
  retd := false
  cc := 0
  it := 0
  iters := 1
  next := 0xFF
  live := resetPlane
  planes := []
  load := []
  st := .running
  msgs := []
  backs := []
  gens := []
  fired := false
  husk := 0
  spill := 0
  huskPages := []
  spillPages := []
  binds := []

/-- A message of core 0 to graph 5, to a residency that stands or to none. -/
def msgS (rs : Map Resid) : State := { at_ (run [(7, 5), (9, 1), (10, 2)]) with resids := rs }

theorem wit_CommandsAndMessages_amsg : (msgS [(1, res0)]).me.strand = some ⟨0, 1, r0⟩ ∧ (msgS [(1, res0)]).me.ready [7, 9, 10] 0 = true ∧
    (5 : W64) ≠ 0 ∧ (5 : W64).toNat < 65536 ∧ (∀ y ∈ ((msgS [(1, res0)]).field 0).msgq, y.core ≠ 0 ∨ y.graph ≠ 5) ∧
    (msgS [(1, res0)]).graphOf 0 5 = some 1 ∧ (msgS []).graphOf 0 5 = none ∧ ((msgS []).field 0).msgq.length < 256 := by decide

/-- Two cores of one team. -/
def team : State :=
  let t : Team := ⟨r0, 0, 0, 1, 1⟩
  (at_ { run [(4, 1), (5, 77)] with team := some t }).setCore 1 { resetCore with team := some t }

theorem wit_CommandsAndMessages_rmov : team.me.ready [4, 5] 0 = true ∧ team.coreOk (team.me.get 4) = true ∧
    team.me.sameTeam (team.core (team.me.get 4).toNat) = true := by decide

/-- A LAUNCH of the sheaf at 0x10040. -/
def lnc (sh : Map Sheaf) : State := { at_ (run [(6, 0x10040), (7, 3)]) with sheaves := sh }

theorem wit_LaunchAccepts : (lnc []).me.strand = some ⟨0, 1, r0⟩ ∧ (lnc []).me.hold = .none ∧ (lnc []).me.ready [6, 7] 5 = true ∧
    (lnc []).me.fenced 3 = true ∧ ((lnc []).setMe { (lnc []).me with port := [mkAccess .st 0x100 8 0] }).me.fenced 3 = false ∧ ((lnc []).me.get 7).toNat < 4 ∧ ((lnc []).me.get 6).toNat % 64 = 0 ∧
    (∀ e ∈ ((lnc []).wafer 0).podIn, e.part ≠ 0) ∧
    (∃ e ∈ (({ lnc [] with wafers := [(0, { resetWafer with podIn := [⟨1, 0, 0, 1, 7, 0x30000, true, false⟩] })] } : State).wafer 0).podIn, e.part = 0) ∧ (lnc []).freePlace 0 0 = some 0 ∧
    (lnc ((List.range 64).map fun k => (k, shf [] []))).freePlace 0 0 = none := by decide

/-! ### The vector unit -/

/-- A VFILL of one FP32 element. -/
def vec : Core := run [(10, 0x3F800000), (11, 0x100000100)]

theorem wit_VectorsIssue : (Instr.vfill 10 11 false false 7, 19, 0) ∈ vectors 10 11 false false 7 0 ∧
    (Instr.vdot 10 11 false false 7, 22, 0) ∈ vectors 10 11 false false 7 0 ∧ (Instr.vfill 10 11 false false 7).wf = true ∧
    vCheck (.vfill 10 11 false false 7) 19 7 ((at_ vec).me.get 10) ((at_ vec).me.get 11) = none ∧ (at_ vec).me.ready [10, 11] 0 = true ∧
    (at_ vec).me.storesAcked = true ∧ (at_ vec).me.vq.length < 4 := by
  refine ⟨by simp [vectors], by simp [vectors], by decide, by decide, by decide, by decide, by decide⟩

/-- A unit that holds one command. -/
def vun (v : VCmd) : State := at_ { resetCore with vq := [v] }

/-- A command of `n` elements, at 0x100 and 0x200 to 0x300, whose first grain is drawn. -/
def vop (op fmt n st : Nat) : VCmd :=
  ⟨0, op, fmt, 0, 0x20000000100, BitVec.ofNat 64 (0x300 + n * 2 ^ 32 + st * 2 ^ 56), 0, 1, 0, false⟩

theorem runs_vun (v : VCmd) : (vun v).vecRuns 0 v :=
  ⟨⟨[], rfl⟩, rfl, rfl, fun a m => absurd (show a ∈ [] from m) (by simp)⟩

theorem ready_vun (v : VCmd) (h : v.next = 0 ∧ 0 < vCount v.b ∧ v.paid = 1) : (vun v).vecReady 0 v 0 := by
  obtain ⟨h1, h2, h3⟩ := h
  exact ⟨runs_vun v, h1, h2, by omega⟩

theorem wit_VectorArithmetic : (vun (vop 1 0xA 1 0)).vecReady 0 (vop 1 0xA 1 0) 0 ∧ (vun (vop 13 7 1 0)).vecReady 0 (vop 13 7 1 0) 0 ∧
    8 ≤ typeBits 0xA ∧ 8 ≤ typeBits 7 ∧ typeFloat 0xA = false ∧ typeSigned 0xA = true ∧ typeFloat 7 = true ∧
    (vop 1 0xA 1 0).at (vSrc1 (vop 1 0xA 1 0).a) 8 0 < 0x48000 ∧ (vop 1 0xA 1 0).at (vSrc2 (vop 1 0xA 1 0).a) 8 0 < 0x48000 ∧
    (vop 1 0xA 1 0).at (vDst (vop 1 0xA 1 0).b) 8 0 < 0x40000 := by
  exact ⟨ready_vun _ (by decide), ready_vun _ (by decide), by decide⟩

theorem wit_VectorMoves : (vun (vop 16 7 1 0)).vecReady 0 (vop 16 7 1 0) 0 ∧ (vun (vop 19 5 1 0)).vecReady 0 (vop 19 5 1 0) 0 ∧
    (vop 16 7 1 0).at (vSrc1 (vop 16 7 1 0).a) 4 0 < 0x48000 ∧ (vop 16 7 1 0).at (vDst (vop 16 7 1 0).b) 1 0 < 0x40000 ∧
    ((vun (vop 17 7 1 0)).vecGet 0 (vop 17 7 1 0) 0x200 1 0) = (0, false) ∧
    ((put (vun (vop 17 7 1 0)) 0x200 1).vecGet 0 (vop 17 7 1 0) 0x200 1 0) = (1, false) ∧
    vCount (vop 18 7 1 0).b ≤ ((put (vun (vop 18 7 1 0)) 0x200 1).vecGet 0 (vop 18 7 1 0) 0x200 2 0).1 ∧
    ((vun (vop 18 7 1 0)).vecGet 0 (vop 18 7 1 0) 0x200 2 0).1 < vCount (vop 18 7 1 0).b := by
  exact ⟨ready_vun _ (by decide), ready_vun _ (by decide), by decide⟩

theorem wit_VectorConverts : (vun (vop 14 7 1 0xA)).vecReady 0 (vop 14 7 1 0xA) 0 ∧ (vun (vop 15 5 1 7)).vecReady 0 (vop 15 5 1 7) 0 ∧
    vStype (vop 14 7 1 0xA).b = 0xA ∧ vStype (vop 15 5 1 7).b = 7 ∧ vStype (vop 14 7 1 6).b = 6 ∧
    (∃ z, (vun (vop 14 7 1 0xA)).vValue 0 (vop 14 7 1 0xA) 0 = .ok z) ∧
    0 < (blockElems ((put (vun (vop 14 7 1 6)) 0x100 2).readRun (quadPa 0 0 0x100) 64)).length := by
  exact ⟨ready_vun _ (by decide), ready_vun _ (by decide), by decide, by decide, by decide, ⟨_, rfl⟩, by decide⟩

theorem wit_VectorSums : (vun (vop 20 0xA 1 0)).vecReady 0 (vop 20 0xA 1 0) 0 ∧ (vun (vop 21 7 1 0)).vecReady 0 (vop 21 7 1 0) 0 ∧
    (vun (vop 22 7 2 0)).vecReady 0 (vop 22 7 2 0) 0 ∧ 0 + 1 ≠ vCount (vop 22 7 2 0).b ∧ 0 + 1 = vCount (vop 20 0xA 1 0).b := by
  exact ⟨ready_vun _ (by decide), ready_vun _ (by decide), ready_vun _ (by decide), by decide, by decide⟩

theorem wit_VectorRuns : (vun (vop 1 7 1 0)).vecRuns 0 (vop 1 7 1 0) ∧ (vop 1 7 1 0).next < vCount (vop 1 7 1 0).b ∧
    (vop 1 7 1 0).next / 64 < (vop 1 7 1 0).paid ∧ ({ vop 1 7 1 0 with paid := 0 } : VCmd).paid ≤ (vop 1 7 1 0).next / 64 ∧
    (vun { vop 19 7 1 0 with b := 0x100040000 }).vElem 0 { vop 19 7 1 0 with b := 0x100040000 } 0 = .error (0x40000, 1) ∧
    vCount (vop 1 7 1 0).b ≤ ({ vop 1 7 1 0 with next := 1 } : VCmd).next :=
  ⟨runs_vun _, by decide, by decide, by decide, rfl, by decide⟩

theorem wit_VectorEnds : (vun (vop 1 7 0 0)).vecRuns 0 (vop 1 7 0 0) ∧ (vun (vop 20 7 0 0)).vecRuns 0 (vop 20 7 0 0) ∧
    vCount (vop 1 7 0 0).b = 0 ∧ vCount (vop 20 7 0 0).b = 0 ∧ (vop 20 7 0 0).paid ≠ 0 ∧ (vop 20 7 0 0).acc = 0 ∧
    vDst (vop 20 7 0 0).b < 0x40000 ∧ (vun { vop 19 7 1 0 with b := 0x100040000 }).vecRuns 0 { vop 19 7 1 0 with b := 0x100040000 } ∧
    (vop 19 7 1 0).next < vCount (vop 19 7 1 0).b ∧ ({ vop 19 7 1 0 with b := 0x100040000 } : VCmd).at (vDst 0x100040000) 4 0 = 0x40000 :=
  ⟨runs_vun _, runs_vun _, by decide, by decide, by decide, rfl, by decide, runs_vun _, by decide, by decide⟩
/-! ### Accesses, fills and walks -/

/-- An access at its home in the first scratchpad. -/
def acc (k : AccKind) (v cmp : W64) : Access := { mkAccess k (loc 0x100) 8 4 with pa := quadPa 0 0 0x100, data := v, cmp := cmp }

/-- Core 0 with one access in its port. -/
def prt (a : Access) : State := at_ { run [] with port := [a] }

/-- All that `State.performs` asks of an access in that port, but that its home is no window. -/
def okPort (s : State) (a : Access) : Bool :=
  (s.core 0).find a.id == some a && a.phase == .issued && (s.core 0).mayPerform a && a.pa == quadPa 0 0 0x100
    && !(s.remoteUnbacked 0 a.pa) && !(s.heldAt 0 a.id)

theorem performs_port {s : State} {a : Access} (h : okPort s a = true) : s.performs 0 a := by
  simp only [okPort, Bool.and_eq_true, beq_iff_eq, Bool.not_eq_true'] at h
  obtain ⟨⟨⟨⟨⟨h1, h2⟩, h3⟩, h4⟩, h5⟩, h6⟩ := h
  exact ⟨h1, h2, h3, h5, h6, by rw [h4]; exact no_window (by decide)⟩

theorem wit_HomeAccessPerforms_ld : (prt (acc .ld 0 0)).performs 0 (acc .ld 0 0) ∧ (prt (acc .ld 0 0)).poisonRun (quadPa 0 0 0x100) 8 = false :=
  ⟨performs_port (by decide), by decide⟩
/-- A core that has read its word ahead. -/
def prtE : State := at_ { run [] with port := [acc .ld 0 0], early := [⟨quadPa 0 0 0x100, 8, 5, [], [], false, false⟩] }
theorem wit_HomeAccessPerforms_early : prtE.performs 0 (acc .ld 0 0) ∧
    (prtE.core 0).earlyFor (acc .ld 0 0) = some ⟨quadPa 0 0 0x100, 8, 5, [], [], false, false⟩ := ⟨performs_port (by decide), by decide⟩
theorem wit_HomeAccessPerforms_waitf : (prt (acc .waitf 0 1)).performs 0 (acc .waitf 0 1) ∧ (prt (acc .waitf 0 0)).performs 0 (acc .waitf 0 0) ∧
    (prt (acc .waitf 0 0)).poisonAt (quadPa 0 0 0x100) = false ∧ (prt (acc .waitf 0 0)).readW (quadPa 0 0 0x100) = 0 :=
  ⟨performs_port (by decide), performs_port (by decide), by decide, by decide⟩
theorem wit_HomeAccessPerforms_st : (prt (acc .st 7 0)).performs 0 (acc .st 7 0) := performs_port (by decide)
theorem wit_HomeAccessPerforms_sta : (prt (acc .sta 7 0)).performs 0 (acc .sta 7 0) := performs_port (by decide)
theorem wit_HomeAccessPerforms_amo : (prt (acc (.amo .add) 7 0)).performs 0 (acc (.amo .add) 7 0) ∧
    (prt (acc (.amo .cas) 7 0)).performs 0 (acc (.amo .cas) 7 0) ∧ (prt (acc (.amo .cas) 7 1)).performs 0 (acc (.amo .cas) 7 1) ∧
    (prt (acc (.amo .cas) 7 0)).readNat (quadPa 0 0 0x100) 8 = 0 :=
  ⟨performs_port (by decide), performs_port (by decide), performs_port (by decide), by decide⟩
theorem wit_HomeAccessPerforms_ldfe : (prt (acc .ldfe 0 0)).performs 0 (acc .ldfe 0 0) ∧
    shas (prt (acc .ldfe 0 0)).qtags (canon (quadPa 0 0 0x100)) = false ∧
    ({ prt (acc .ldfe 0 0) with qtags := [canon (quadPa 0 0 0x100)] } : State).performs 0 (acc .ldfe 0 0) ∧
    ({ prt (acc .ldfe 0 0) with qtags := [canon (quadPa 0 0 0x100)] } : State).poisonAt (quadPa 0 0 0x100) = false :=
  ⟨performs_port (by decide), by decide, performs_port (by decide), by decide⟩
theorem wit_HomeAccessPerforms_stfe : (prt (acc .stfe 7 0)).performs 0 (acc .stfe 7 0) ∧
    ((prt (acc .stfe 7 0)).firstWaiter (quadPa 0 0 0x100)) = none := ⟨performs_port (by decide), by decide⟩

theorem wit_AccessesComeBack : ((prt { acc .ld 0 0 with phase := .performed 9 }).core 0).find 0 = some { acc .ld 0 0 with phase := .performed 9 } ∧
    ({ acc .st 0 0 with phase := .performed 0 } : Access).performed = true ∧
    ([⟨1, 0, 5, 42⟩] : List Send).find? (fun m => m.src == 1 && m.dst == 0) = some ⟨1, 0, 5, 42⟩ := by decide

/-- A pod of two wafers, the second with no field. -/
def far (a : Access) : State :=
  { prt { a with pa := quadPa 1 0 0x100 } with
    wafers := [(0, { resetWafer with podsize := 2 }), (1, { resetWafer with podsize := 2, index := 1, fen := 0 })] }

theorem wit_AccessesComeBack_far : ((far (acc .st 1 0)).core 0).find 0 = some { acc .st 1 0 with pa := quadPa 1 0 0x100 } ∧
    ((far (acc .st 1 0)).core 0).mayPerform { acc .st 1 0 with pa := quadPa 1 0 0x100 } = true ∧
    (far (acc .st 1 0)).remoteUnbacked 0 (quadPa 1 0 0x100) = true ∧ (acc .ld 1 0).isRead = true ∧ ((far (acc .ld 1 0)).core 0).fault = none ∧
    (acc .record 1 0).isRead = true ∧ ((far (acc .record 1 0)).core 0).fault = none := by
  decide

theorem wit_WaitLimit : let s : State := { at_ { run [] with wait := some 0, kwlim := 1, hold := .fwait 0xA03 5 true } with time := 1000 }
    (s.core 0).wait = some 0 ∧ (s.core 0).fault = none ∧ (s.core 0).ending = none ∧ s.unitRuns 0 .core = true ∧ (s.core 0).kwlim ≠ 0 ∧
    (s.core 0).kwlim.toNat < s.now 0 - 0 ∧ (s.core 0).tm = false ∧ (s.core 0).ktvec ≠ 0 ∧ (s.core 0).hold = .fwait 0xA03 5 true := by
  decide

/-- Device memory: an identifier table at 0x4000 and page tables that map the first GiB to itself. -/
def paged (x : Wafer) (c : Core) : State :=
  let w := fun (s : State) (p : Nat × Nat) => s.write (waferPa 0 p.1) (natRun 8 p.2 false) ⟨3, 0, 0, false, 0⟩
  [(0x4000, 0x8000000000010000), (0x10000, 0x8000000000020000), (0x20000, 0xF800000000000000)].foldl w
    { at_ c with wafers := [(0, { x with kastb := 0x4000 })] }

/-- A word of device memory. -/
def dev (s : State) (l : List (Nat × W64)) : State :=
  l.foldl (fun s p => s.write (waferPa 0 p.1) (natRun 8 p.2.toNat false) ⟨3, 0, 0, false, 0⟩) s

theorem wit_FillsAndWalks_fill : let s : State := { State.reset with quads := [(0, { resetQuad with miss := some (0, 0x5000, 0x5000) })] }
    (s.quad 0).miss = some (0, 0x5000, 0x5000) ∧ (s.quad 0).icache.length < 2048 ∧ s.poisonRun 0x5000 32 = false := by decide

/-- A walk that the load-store port of core 0 asked for. -/
def wlk (va : W64) : Walk := ⟨0, 0, 0, false, va, 0, (State.reset.portFault 0 (.port 0) va 1 0)⟩

/-- The leaf of the first GiB. -/
def leaf0 : Leaf := ⟨0, 0, 0, 2 ^ 30, 0xF800000000000000⟩

set_option maxRecDepth 40000 in
theorem wit_FillsAndWalks_walk : ({ paged resetWafer resetCore with walks := [wlk 0x5000] } : State).walks[0]? = some (wlk 0x5000) ∧
    walkVa (paged resetWafer resetCore) 0 0 0x5000 = .ok leaf0 ∧ walkVa State.reset 0 0 0x5000 = .error 1 ∧
    leaf0.maps 0 0x5000 = true ∧ (State.reset.field 0).tlb.find? (·.maps 0 0x5000) = none := by
  exact ⟨rfl, rfl, rfl, by decide, by decide⟩

/-! ### Records -/

/-- A team of one quad. -/
def tm0 : Team := ⟨r0, 0, 0, 1, 1⟩

/-- An idle core of the team, with records in its quad's and its field's queue. -/
def idl (q f : List Rec) : State :=
  { at_ { resetCore with team := some tm0 } with
    quads := [(0, { resetQuad with contq := ⟨q, []⟩ })], fields := [(0, { resetField with contq := ⟨f, []⟩ })], sheaves := [(0, shf [(0, nd [])] [])] }

theorem wit_StrandStarts : ((idl [rec0] []).core 0).team = some tm0 ∧ (idl [rec0] []).mayStart 0 tm0 = true ∧
    ((idl [rec0] []).quad 0).contq.best 0 r0 = some rec0 ∧ ((idl [rec0] []).quad 0).contq.starved 0 r0 = false ∧ rec0.rsm = false := by
  decide

theorem wit_StrandStarts_field : ((idl [] [{ rec0 with rsm := true, fp := loc 0x400 }]).quad 0).contq.best 0 r0 = none ∧
    ((idl [] [{ rec0 with rsm := true, fp := loc 0x400 }]).field 0).contq.best 0 r0 = some { rec0 with rsm := true, fp := loc 0x400 } ∧
    ((idl [] [{ rec0 with rsm := true, fp := loc 0x400 }]).field 0).contq.starved 0 r0 = false ∧
    (idl [] [{ rec0 with rsm := true, fp := loc 0x400 }]).mayStart 0 tm0 = true := by decide

theorem wit_StrandStarts_resume : ((idl [] []).coreWord 0 0 (loc 0x400 + BitVec.ofNat 64 (8 * 6))).toNat / 2 ^ 56 ≠ 1 := by decide

theorem wit_RecordsMove : ([⟨0, rec0⟩] : List HeldRec)[0]? = some ⟨0, rec0⟩ ∧
    (({ idl [] [] with held := [⟨0, rec0⟩] } : State).partRuns (shPartKey 0)) = true ∧
    (resetContQ.push 64 ((idl [] []).qlen r0) rec0).isSome = true ∧
    ((([{ rec0 with pops := 65536 }] : List Rec) ++ []).find? fun r => 65536 ≤ r.pops) = some { rec0 with pops := 65536 } ∧
    (∀ x ∈ ((idl [rec0] []).quad 0).contq.chip ++ ((idl [rec0] []).quad 0).contq.ring, x.out = false) := by decide


/-! ### The graph sequencer -/

/-- A pod whose tables are set, with one entry in its launch ring and more words of memory. -/
def gs (x : Wafer) (l : List (Nat × W64)) : State :=
  dev (paged { x with kptb := 0x8000, klqb := 0x9000, ksvqb := 0xA000, klqTail := 1 } resetCore)
    ([(0x8008, 0x8000000000000000), (0x9000, 0x30000), (0x9008, 1), (0x9010, 7)] ++ l)

set_option maxRecDepth 40000 in
theorem wit_LaunchRing : ((5 : W32) - ((gs resetWafer []).wafer 0).klqHead).toNat ≤ ringSize ((gs resetWafer []).wafer 0).klqb ∧
    ringSize ((gs resetWafer []).wafer 0).klqb < ((65 : W32) - ((gs resetWafer []).wafer 0).klqHead).toNat := by decide

theorem wit_LaunchRing_take : ((gs resetWafer []).wafer 0).tablesSet = true ∧ ((gs resetWafer []).wafer 0).round = none ∧
    ((gs resetWafer []).wafer 0).klqHead ≠ ((gs resetWafer []).wafer 0).klqTail ∧ ((gs resetWafer []).wafer 0).raised = [] ∧
    ((gs resetWafer []).wafer 0).podIn = [] := by
  exact ⟨rfl, rfl, by decide, rfl, rfl⟩

set_option maxRecDepth 40000 in
theorem wit_LaunchRing_words : entryReserved ((gs resetWafer [(0x9018, 1)]).launchEntry 0) = true ∧
    entryReserved ((gs resetWafer []).launchEntry 0) = false ∧ partValid ((gs resetWafer []).partWords 0 0) = true ∧
    (gs resetWafer []).freePlace 0 0 = some 0 ∧ ((gs resetWafer []).hwReads 0 0 0x30000 8).isSome = true ∧
    nth ((gs resetWafer []).launchEntry 0) 0 0 = 0x30000 := by
  exact ⟨rfl, rfl, rfl, rfl, rfl, rfl⟩

set_option maxRecDepth 40000 in
theorem wit_LaunchRing_area :
    ((gs resetWafer []).hwReads 0 (partAsid ((gs resetWafer []).partWords 0 0)) 0x30000 8).any
      ((gs resetWafer []).recOk 0 (partAsid ((gs resetWafer []).partWords 0 0))) = true := by decide

/-- A launch of another wafer of the pod. -/
def pin : PodEntry := ⟨1, 0, 0, 1, 7, 0x30000, true, false⟩

set_option maxRecDepth 40000 in
theorem wit_LaunchRing_pod : let s := gs { resetWafer with podIn := [pin] } []
    (s.wafer 0).podIn.find? (fun e => (s.freePlace 0 e.part).isSome) = some pin ∧ s.freePlace 0 0 = some 0 ∧
    partValid (s.partWords 0 0) = true ∧ (s.hwReads 0 (partAsid (s.partWords 0 0)) 0x30000 8).any (s.recOk 0 (partAsid (s.partWords 0 0))) = true := by
  exact ⟨rfl, rfl, rfl, by decide⟩

/-- A waiting node with its entry. -/
def wt (ws : List W64) : Node := { resetNode with words := ws }

/-- A sheaf of the host queue whose partition has a pool of 2^46 bytes. -/
def psh (ns : Map Node) : Sheaf := { shf ns [] with part := [0, 0x8000000000000000, 0, 0, 0, 0x100000, 0x400000000000] }

/-- The pod with that sheaf. -/
def wtg (n : Node) : State := { State.reset with sheaves := [(0, psh [(0, n)])] }

/-- The entry of a core kernel of one quad, with 256 bytes for each rank. -/
def kern : List W64 := [0, 0x4000, 0x10000000000]

/-- The entry of a residency of one row. -/
def regn : List W64 := [0x1000000000000000, 0x40000, 0x101]

set_option maxRecDepth 40000 in
theorem wit_NodesArePlaced : let s := (wtg (wt kern)).walk 0
    s.eligible r0 = true ∧ s.isKernel r0 = true ∧ s.turnOf r0 = true ∧ (s.part 0).reserved = none ∧ s.aged 0 = [] ∧
    (s.kernelFit r0).isSome = true := by
  exact ⟨rfl, rfl, rfl, rfl, rfl, rfl⟩

set_option maxRecDepth 40000 in
theorem wit_NodesArePlaced_reserve : let s := (wtg { wt kern with age := 64 }).walk 0
    s.eligible r0 = true ∧ s.isKernel r0 = true ∧ 64 ≤ s.ageOf r0 ∧ (s.part 0).reserved = none ∧ (∀ x ∈ s.aged 0, s.ageOf x ≤ s.ageOf r0) ∧
    (firstFit (fieldOrder (s.fmapOf r0) (hintOf kern)) 1 1 (s.quadMine 0 (s.fmapOf r0))).isSome = true := by
  exact ⟨rfl, rfl, by decide, rfl, by decide, rfl⟩

/-! A residency has a place when a region is free, its husk ring is empty and the whole pool is free, however long its spill rings are. -/

theorem poolFit_empty {base len n : Nat} (h : base % 4096 = 0) (hn : n ≤ len) : poolFit base len [] n 4096 = some base := by
  have h1 : alignUp base 4096 = base := by simp only [alignUp]; omega
  simp [poolFit, h1, hn]

theorem ringTake_some {s : State} {r : NodeRef} {sh : Sheaf} {n : Nat} (h : mfind s.sheaves r.sheaf = some sh)
    (hp : (s.part (shPartKey r.sheaf)).pool = []) (ha : sh.pool.1 % 4096 = 0)
    (hn : (n + 4095) / 4096 * 4096 ≤ sh.pool.2) : (s.ringTake r n).isSome = true := by
  unfold State.ringTake
  split
  · rfl
  · simp only [State.poolTake, h, hp, poolFit_empty ha hn, Option.isSome_some]

theorem residPlace_some {s : State} {r : NodeRef} {sh : Sheaf} {ws : List W64} {stamp : Nat} {x : Nat × Nat × Nat}
    (h : mfind s.sheaves r.sheaf = some sh) (hp : (s.part (shPartKey r.sheaf)).pool = []) (ha : sh.pool.1 % 4096 = 0)
    (hl : 2 ^ 32 ≤ sh.pool.2) (hc : (s.classStamps (shPartKey r.sheaf) (heightOf ws)).any (· < stamp) = false)
    (hf : s.regionFit (shWafer r.sheaf) ((fieldOrder (s.fmapOf r) (hintOf ws)).filter fun f => !s.fieldLocked r f) (heightOf ws) = some x)
    (hn : huskBytes (callLimit (s.field (fieldKey (shWafer r.sheaf) x.1)).depthLim.toNat (bits (nth ws 2 0) 18 8))
      (bits (nth ws 2 0) 7 4) (heightOf ws) = 0) :
    (s.residPlace r ws stamp).isSome = true := by
  have hm := ringTake_some (n := (Config.spillBytes (heightOf ws)).toNat) h hp ha (by have := (Config.spillBytes (heightOf ws)).isLt; omega)
  obtain ⟨⟨a, t⟩, e⟩ := Option.isSome_iff_exists.mp hm
  have h0 : s.ringTake r 0 = some (0, s) := rfl
  simp only [State.residPlace, hc, hf, hn, h0, e, Bool.false_eq_true, if_false, Option.isSome_some]

set_option maxRecDepth 40000 in
theorem wit_NodesArePlaced_region : let n := { wt regn with stamp := 1 }
    let s := (wtg n).walk 0
    s.eligible r0 = true ∧ s.node? r0 = some n ∧ n.stamp ≠ 0 ∧ bits (nth (s.nodeWords r0) 0 0) 63 60 = 1 ∧ s.turnOf r0 = true ∧
    s.neverFits r0 = false ∧ bits (nth n.words 3 0) 15 0 = 0 ∧ (s.residPlace r0 n.words n.stamp).isSome = true := by
  exact ⟨rfl, rfl, by decide, by decide, rfl, rfl, by decide,
    residPlace_some (sh := psh [(0, { wt regn with stamp := 1 })]) (x := (0, 0, 0)) rfl rfl (by decide) (by decide) (by decide) rfl (by decide)⟩

theorem wit_NodesArePlaced_walk : let s := wtg (wt kern)
    s.partRuns 0 = true ∧ mfind (s.walk 0).sheaves 0 = some (psh [(0, wt kern)]) ∧ shPartKey 0 = 0 := by
  exact ⟨rfl, rfl, rfl⟩

/-- A waiting node of that sheaf with the tables and memory of `gs`. -/
def gsn (host : Bool) (ws : List W64) (l : List (Nat × W64)) : State :=
  { gs resetWafer l with sheaves := [(0, { psh [(0, wt ws)] with host := host })] }

/-- An edge graph of slot 0 of controller 0, whose descriptor is at 0x40000 and has no image. -/
def edgeS : State := gsn true [0x2000000000000000, 0x40000, 0, 0, 0, 0x8000] [(0x40000, 0x8000000000000000)]

set_option maxRecDepth 40000 in
theorem wit_EdgeAndGroupNodes_edge : (edgeS.walk 0).sheaves = edgeS.sheaves ∧ edgeS.turnOf r0 = true ∧ edgeS.mayBegin r0 = true ∧
    edgeS.isEdge r0 = true ∧ edgeS.nodeGraphs r0 = some [((0, 0), 0x40000, [0x8000000000000000, 0, 0, 0, 0, 0, 0, 0], [])] ∧
    slotsOnce (edgeS.edgeSlots r0) = true ∧ bindOk 0x40000 [0x8000000000000000, 0, 0, 0, 0, 0, 0, 0] [] = true ∧
    edgeS.cellsBusy 0 0 [] = false ∧ edgeS.slotsFree r0 = true ∧
    graphsClash [((0, 0), 0x40000, [0x8000000000000000, 0, 0, 0, 0, 0, 0, 0], [])] = false := by
  exact ⟨rfl, rfl, rfl, rfl, rfl, rfl, rfl, rfl, rfl, rfl⟩

/-- A group-binding node of one record, at 0x50000. -/
def grpS (host : Bool) : State := gsn host [0x3000000000000000, 0x50000, 1] []

set_option maxRecDepth 40000 in
theorem wit_EdgeAndGroupNodes_groups : ((grpS false).walk 0).turnOf r0 = true ∧ ((grpS false).walk 0).mayBegin r0 = true ∧
    mfind ((grpS false).walk 0).sheaves 0 = some { psh [(0, wt [0x3000000000000000, 0x50000, 1])] with host := false } ∧
    ((grpS false).walk 0).node? r0 = some (wt [0x3000000000000000, 0x50000, 1]) ∧ (wt [0x3000000000000000, 0x50000, 1]).kind = 3 := by
  exact ⟨rfl, rfl, rfl, rfl, rfl⟩

/-- A group-binding node of one record, which enrols group 0 with quad 0 as its member. -/
def grpE : State := gsn true [0x3000000000000000, 0x50000, 1] [(0x50010, 0x8800040000001800)]

set_option maxRecDepth 40000 in
theorem wit_EdgeAndGroupNodes_enrol : let s := grpE.walk 0
    s.turnOf r0 = true ∧ s.mayBegin r0 = true ∧ (mfind s.sheaves 0).map (·.host) = some true ∧ (s.node? r0).map (·.kind) = some 3 ∧
    s.bindRecords r0 = some [(0, 0x8800040000001800)] ∧ (s.gt 0).v = false ∧ s.groupsWanted r0 [0] = false ∧
    ∃ t, bindsTo r0 [(0, 0x8800040000001800)] ((s.placedOne r0).modNode r0 fun n => { n with st := .placed, place := .groups }) t := by
  refine ⟨rfl, rfl, rfl, rfl, rfl, rfl, rfl, _, by decide, rfl, rfl, by decide, fun n h => ?_, by decide, rfl⟩
  exact Option.some.inj h ▸ rfl

/-- A placed node of one quad. -/
def plc : Node := { wt kern with st := .placed, place := .team 0 0 1 1, frame := (0x100000, 1088) }

theorem wit_NodesRunAndComplete : (wtg plc).node? r0 = some plc ∧ plc.st = .placed ∧ plc.place ≠ .groups ∧ (wtg plc).mayBegin r0 = true ∧
    (wtg plc).partRuns 0 = true ∧ ((wtg plc).wafer 0).round = none ∧ plc.place = .team 0 0 1 1 := by
  exact ⟨rfl, rfl, by decide, by decide, rfl, rfl, rfl⟩

theorem wit_NodesRunAndComplete_end : let s := wtg { plc with st := .running }
    (s.part 0).st ≠ .swapped ∧ s.hasStrand r0 = false ∧ s.anyCommand r0 = false ∧ s.anyAccess r0 = false ∧ s.anyResid r0 = false ∧
    s.isEdge r0 = false := by decide

/-- A running edge-graph node whose slot has been sent end-of-stream. -/
def edgeN : Node := { resetNode with words := [0x2000000000000000, 0x40000, 0, 0, 0, 0x8000], st := .running, eos := true, place := .slots }

theorem wit_NodesRunAndComplete_edge :
    let s : State := { wtg edgeN with ctls := [(0, { resetCtl with slots := [(0, { resetSlot with bound := true, held := some r0 })] })] }
    (s.part 0).st ≠ .swapped ∧ s.hasStrand r0 = false ∧ s.anyCommand r0 = false ∧ s.anyAccess r0 = false ∧ s.anyResid r0 = false ∧
    s.isEdge r0 = true ∧ s.edgeDrained r0 edgeN = true ∧ (s.releaseSlots r0).slotsGone r0 = true := by decide

theorem wit_SheavesAndTheirParts : let sh := shf [(0, { nd [] with st := .done })] []
    let s : State := { State.reset with sheaves := [(0, sh)] }
    mfind (s.walk 0).sheaves 0 = some sh ∧ ((s.walk 0).part 0).st ≠ .swapped ∧ (s.walk 0).podOver 0 sh = true ∧ sh.bad = 0 ∧ sh.read = true ∧
    ∀ e ∈ sh.nodes, e.2.st = .done := by decide

theorem wit_SheavesAndTheirParts_refused : let sh := { shf [] [] with bad := 2 }
    let s : State := { State.reset with sheaves := [(0, sh)] }
    mfind (s.walk 0).sheaves 0 = some sh ∧ ((s.walk 0).part 0).st ≠ .swapped ∧ (s.walk 0).podOver 0 sh = true ∧
    (s.walk 0).refusalHeld 0 = false := by decide

theorem wit_SheavesAndTheirParts_rising : Rising ([(0, shf [] [])] : Map Sheaf) := by simp [Rising]

theorem wit_SheavesAndTheirParts_eos : let sh := shf [(0, { nd [] with st := .done }), (1, nd [0x2000000000000000])] []
    ∀ e ∈ sh.nodes, e.2.st = .done ∨ bits (nth e.2.words 0 0) 63 60 = 2 := by decide

theorem wit_SheavesAndTheirParts_port : let s : State :=
      { wtg { edgeN with eos := false } with ctls := [(0, { resetCtl with slots := [(0, { resetSlot with bound := true, held := some r0 })] })] }
    s.edgeSlots r0 = [(0, 0)] ∧ slotsOnce (s.edgeSlots r0) = true ∧ (s.slot 0 0).bound = true ∧ (s.slot 0 0).held = some r0 ∧
    (s.slot 0 0).kind ≤ 1 ∧ edgeN.st = .running ∧ bits (nth edgeN.words 0 0) 63 60 = 2 := by decide

theorem wit_SheavesAndTheirParts_nodes : Rising ([(0, edgeN)] : Map Node) := by simp [Rising]

/-- A message for graph 5. -/
def msg5 : Msg := ⟨5, 1, 2, false, 0, 0⟩

theorem wit_SheavesAndTheirParts_amsg : let s : State := { msgS [(1, res0)] with fields := [(0, { resetField with msgq := [msg5] })] }
    (s.field 0).msgq.find? (fun m => s.partRuns (shPartKey m.sheaf) && (s.graphOf (shPartKey m.sheaf) m.graph).isSome) = some msg5 ∧ s.graphOf 0 5 = some 1 := by decide

theorem wit_SheavesAndTheirParts_wake : let sh := { shf [] [] with hdr := [0, 0x10000] }
    let s : State := { State.reset with sheaves := [(0, sh)] }
    mfind s.sheaves 0 = some sh ∧ sh.bad = 0 ∧ 0 < bits (nth sh.hdr 1 0) 23 16 ∧ shas sh.woken 0 = false ∧ s.phaseWords 0 sh 0 = [] ∧
    sh.time + 1000 * bits (nth (s.phaseWords 0 sh 0) 0 0) 63 32 ≤ s.devTime 0 + 1000 * bits (s.wafer 0).klead 15 0 := by decide

theorem wit_SheavesAndTheirParts_sleep : let s : State := { State.reset with time := 200001, ctls := [(0, { resetCtl with trunks := [(1, true, 0)] })] }
    (s.trunk 0 1).1 = true ∧ 1000 * bits (s.wafer 0).klead 47 32 < s.time - (s.trunk 0 1).2 ∧ s.inPhase 0 1 = false := by decide

/-! ### Engines -/

/-- A command of the first node. -/
def qc (c : Cmd) : QCmd := ⟨c, 0, false, 0, some r0, 0, false, 0, false, 0, 0, 0, 1, 1⟩

/-- A pod whose first team's field has grains, with one command in a queue. -/
def qst (q : Nat) (c : QCmd) (p : Prog) : State :=
  { at_ { resetCore with team := some tm0 } with
    fields := [(0, { resetField with pool := 1000 })], queues := [(q, { resetEngQ with cmds := [c], prog := p })], curQ := q }

/-- Progress at the first access of a command that has begun. -/
def on0 : Prog := { resetProg with on := true }

/-- The queues of core 0's matrix engine, its quad's copy engine and its network engine. -/
def qM : Nat := queueKey 0 0 0
def qX : Nat := queueKey 0 1 0
def qN : Nat := queueKey 0 2 0

/-- All that `State.engReaches` asks but that the home is no window. -/
theorem reaches {s : State} {q : Nat} {c : QCmd} {a : EngAcc} {n pa : Nat}
    (h : (decide (0 < n) && s.piece (engWho q c a.port) a.va n a.acc == n
      && decide (s.translate (engWho q c a.port) a.va n a.acc = .ok pa false false) && !(s.remoteUnbacked (nWafer (qName q)) pa)) = true)
    (e : (match homeOf pa with
      | .window _ _ _ _ => false
      | _ => true) = true) : s.engReaches q c a n pa false := by
  simp only [Bool.and_eq_true, decide_eq_true_eq, beq_iff_eq, Bool.not_eq_true'] at h
  exact ⟨h.1.1.1, h.1.1.2, ⟨false, h.1.2⟩, h.2, no_window e⟩

theorem wit_CommandsAnswer : (qc wMzero).sect = false ∧ ((qst qM (qc wMzero) resetProg).queue qM).cmds = qc wMzero :: [] ∧ ({ qc wMzero with sect := true, last := false } : QCmd).sect = true ∧
    (qst qM (qc wMzero) resetProg).headCmd (qst qM (qc wMzero) resetProg).curQ = some (qc wMzero) ∧
    ({ qc wMzero with c := cmd 0x0500000000000000 0 0 0 } : QCmd).headOk = false ∧ ldStOk (qc wMma) = false ∧
    mmaOk 0 (qc (cmd 0x0100000000100000 0 0 0x80000000)) = false ∧ ((qst qM (qc wMzero) resetProg).prog qM).on = false := by decide

/-- A load, a store and a conversion of one tile at local address 0x800. -/
def wMld := cmd 0x0200000000100000 0x00FFFFFFFFF80800 0 0x31
def wMst := cmd 0x0300000000100000 0x00FFFFFFFFF80800 0 0x31

/-- The run of one whole row. -/
def row0 : Run := ⟨0, 0, 16, 0, 0, 0⟩

theorem wit_MatrixMoves : (qst qM (qc wMld) on0).heads (qc wMld) ∧ on0.on = true ∧ on0.fresh ∧ (qc wMld).passEnd = 1 ∧
    ldStOk (qc wMld) = true ∧ (qst qM (qc wMst) on0).heads (qc wMst) ∧ ldStOk (qc wMst) = true ∧
    Cmd.runAt wMld 0 0 0 = some row0 ∧ Cmd.runAt wMst 0 0 0 = some row0 ∧ Cmd.walkLen wMld = 16 := by
  exact ⟨⟨rfl, rfl⟩, rfl, ⟨rfl, rfl, rfl, rfl, rfl⟩, rfl, rfl, ⟨rfl, rfl⟩, rfl, rfl, rfl, rfl⟩

theorem wit_MatrixMoves_reach :
    (qst qM (qc wMld) on0).engReaches qM (qc wMld) (Cmd.runAcc wMld 0 row0 0) 64 (quadPa 0 0 0x800) false ∧
    (qst qM (qc wMst) on0).engReaches qM (qc wMst) (Cmd.runAcc wMst 0 row0 1) 64 (quadPa 0 0 0x800) false :=
  ⟨reaches (by decide) (by decide), reaches (by decide) (by decide)⟩

/-- The last column of the example of MCVT is its only one on. -/
def row1 : Option Run := Cmd.runAt wMcvt 0 0 0

theorem wit_MatrixMoves_cvt : (qst qM (qc wMcvt) on0).heads (qc wMcvt) ∧ cvtOk (qc wMcvt) = true ∧ Cmd.fmt wMcvt = 0 ∧
    (row1.map fun r => (r.row, r.col, r.len)) = some (0, 0, 16) ∧
    (qst qM (qc wMcvt) on0).engReaches qM (qc wMcvt) (Cmd.runAcc wMcvt 0 row0 1) 32 (quadPa 0 0 0x800) false :=
  ⟨⟨rfl, rfl⟩, by decide, by decide, by decide, reaches (by decide) (by decide)⟩

/-- A conversion to FP4 whose first column is off. -/
def wMcvt4 := cmd 0x0400000000105000 0x00FFFFFFFFF80800 0 0x1000000000030

theorem wit_MatrixMoves_nibbles : (qst qM (qc wMcvt4) on0).heads (qc wMcvt4) ∧ cvtOk (qc wMcvt4) = true ∧ Cmd.fmt wMcvt4 = 5 ∧
    Cmd.runAt wMcvt4 0 0 0 = some ⟨0, 1, 15, 0, 1, 0⟩ ∧
    (nibBytes (0 :: cvtRun wMcvt4 1 (resetCore.acsRun ⟨0, 1, 15, 0, 1, 0⟩)) false).length = 8 ∧
    (qst qM (qc wMcvt4) on0).engReaches qM (qc wMcvt4) (Cmd.runAcc wMcvt4 0 ⟨0, 1, 15, 0, 1, 0⟩ 1) 8 (quadPa 0 0 0x800) false :=
  ⟨⟨rfl, rfl⟩, by decide, by decide, rfl, by decide, reaches (by decide) (by decide)⟩

theorem wit_MatrixZero : (qst qM (qc wMzero) on0).heads (qc wMzero) ∧ zeroOk (qc wMzero) = true ∧ (qc wMzero).pass0 < (qc wMzero).passEnd :=
  ⟨⟨rfl, rfl⟩, by decide, by decide⟩

/-- One step of two tiles at local address 0. -/
def wMma0 := cmd 0x0100000000100000 0 0 0x30

theorem wit_MmaSteps_begin : (qst qM (qc wMma0) resetProg).heads (qc wMma0) ∧ mmaOk 0 (qc wMma0) = true ∧ resetProg.on = false ∧
    qName qM = 0 ∧ (qst qM (qc wMma0) resetProg).engRuns qM = true ∧ Cmd.op wMma0 = 1 ∧ Cmd.steps wMma0 = 1 ∧ (qc wMma0).passEnd = 1 :=
  ⟨⟨rfl, rfl⟩, by decide, rfl, by decide, by decide, by decide, by decide, by decide⟩

/-- The operands of that step. -/
def opA : Operand := (qst qM (qc wMma0) on0).operand qM 0 0 0 0 0x40000

set_option maxRecDepth 40000 in
theorem wit_MmaSteps : let s := qst qM (qc wMma0) on0
    s.passMismatch qM wMma0 [0] = 0 ∧ s.mmaWaits qM (qc wMma0) 0 = false ∧ (s.prog qM).k = 0 ∧ (s.core 0).fwd = none ∧ Cmd.bsrc wMma0 = 0 ∧ Cmd.band wMma0 = false ∧
    (s.grain 0 (coreUnit 0 0) (some r0)).2 = true ∧ Cmd.fa wMma0 = 0 ∧ s.bOperand qM wMma0 0 = opA := by
  exact ⟨by decide, by decide, by decide, by decide, by decide, by decide, by decide, by decide, rfl⟩

/-- Whether that step's operands are in order and clean. -/
def cleanA : Bool :=
  match opA with
  | .ok (a, ab) =>
    let s := qst qM (qc wMma0) on0
    let x := stepArgs wMma0 0 0 a a (s.bandScales qM wMma0)
    s.stepMismatch qM wMma0 ab ab == 0 && x.badRows.isEmpty && !x.badB
  | .error _ => false

set_option maxRecDepth 40000 in
theorem wit_MmaSteps_clean : cleanA = true := by rfl

theorem wit_MmaSteps_noCheck : (qst qM (qc wMma0) on0).residueWrong wMma0 (stepArgs wMma0 0 0 [] [] []) = false := rfl

/-- One step whose B is in slot 0, which bears another tag than the command names. -/
def wMmaS : Cmd := cmd 0x0100000000100080 0 0 0x30
def tagS : State := { qst qM (qc wMmaS) on0 with swz := [(quadPa 0 0 0x40000 / 512, 1)] }

set_option maxRecDepth 40000 in
theorem wit_MmaSteps_tags : Cmd.bsrc wMmaS = 1 ∧ Cmd.fa wMmaS ≠ 6 ∧ Cmd.fb wMmaS ≠ 6 ∧ mmaOk 0 (qc wMmaS) = true ∧
    tagS.headCmd qM = some (qc wMmaS) ∧ tagS.engRuns qM = true ∧ (tagS.core 0).fwd = none ∧ tagS.mmaWaits qM (qc wMmaS) 0 = false ∧
    tagS.passMismatch qM wMmaS [0] = 0 ∧
    tagS.stepMismatch qM wMmaS [] (tileBlocks (Cmd.fb wMmaS) (Cmd.bBase wMmaS 0) (Cmd.ldb wMmaS)) = 2 := by decide

/-- A tile of zeros. -/
def tile0 : Tile := ⟨0, 0, []⟩

/-- A step that has computed and forwards to core 1, whose latch holds `l`. -/
def fwdS (m : Nat) (l : List Tile) : State :=
  let s := qst qM (qc wMma0) { on0 with k := 1, mode := m }
  (s.setCore 0 { s.core 0 with fwd := some (1, tile0) }).setCore 1 { resetCore with latch := l }

theorem wit_MmaSteps_forward : ((fwdS 0 []).prog qM).k = 1 ∧ ((fwdS 0 []).core 0).fwd = some (1, tile0) ∧
    (fwdS 0 []).latchRoom 1 = true ∧ (fwdS 0 [tile0, tile0]).latchRoom 1 = false ∧ ((fwdS 3 []).prog qM).mode = 3 ∧
    (fwdS 0 []).headCmd qM = some (qc wMma0) ∧ (fwdS 0 []).engRuns qM = true ∧ (fwdS 3 []).latchRoom 1 = true := by decide

theorem wit_Rings : (qst qM (qc (cmd 0x0600000000100000 0 0 0x32)) on0).heads (qc (cmd 0x0600000000100000 0 0 0x32)) ∧
    ringOk 0 (qc (cmd 0x0600000000100000 0 0 0x32)) = true ∧
    (qst qM (qc (cmd 0x0600000000100000 0 0 0x32)) on0).teamMate 0 0 = true ∧
    (resetCore.latch = [] ∧ resetCore.sent = [] ∧ resetCore.fwd = none) ∧ ringOk 0 (qc (cmd 0x0600000000100000 0x111 0 0x32)) = false ∧
    (({ resetCore with sent := [(1, tile0)] } : Core).sent = (1, tile0) :: [] ∧ (1 : Nat) ≠ 0) :=
  ⟨⟨rfl, rfl⟩, by decide, by decide, by decide, by decide, by decide⟩

/-- Copies of eight bytes from local address 0x1000 to 0x2000, with indices at 0x300. -/
def wCp (op : Nat) (w0 w3 : W64) : Cmd := cmd (w64 (op * 2 ^ 56) + 0x100000 + w0) 0x00FFFFFFFFF81000 0x00FFFFFFFFF82000 (0x1C0040 + w3)
def cX : Cmd := wCp 0x10 0 0
def cF : Cmd := cmd 0x1100000000100000 0x00000000DEADBEEF 0x00FFFFFFFFF82000 0x1C0040
def cG : Cmd := wCp 0x12 0 (w64 (0x300 * 2 ^ 34))
def cS : Cmd := wCp 0x13 0 (w64 (0x300 * 2 ^ 34))

/-- Progress of a copy whose grains are drawn. -/
def onC : Prog := { on0 with k := 1 }

/-- What the statement about copies asks of a command, but that its accesses reach their homes. -/
def okCopy (c : Cmd) (op : Nat) (ok : QCmd → Bool) : Bool :=
  let s := qst qX (qc c) onC
  s.headCmd qX == some (qc c) && (qc c).headOk && ok (qc c) && Cmd.op c == op && (qc c).passEnd == 1 && Cmd.cRows c == 1
    && Cmd.cChunks c == 1 && Cmd.cFsrc c == Cmd.cFdst c && Cmd.cLen c == 8 && s.copyTurn qX && !(s.poisonRun (engPa qX (Cmd.cIdxAt c 0 0)) 4)
    && decide (Cmd.cIdxAt c 0 0 + 4 ≤ 0x40000)

theorem wit_CopiesMove : okCopy cX 0x10 xcopyOk = true ∧ okCopy cF 0x11 xfillOk = true ∧ okCopy cG 0x12 xindexOk = true ∧
    okCopy cS 0x13 xindexOk = true ∧ onC.fresh ∧ onC.mode = 0 ∧ onC.n = 0 ∧ onC.m + 8 ≤ 512 * onC.k := by
  exact ⟨by decide, by decide, by decide, by decide, ⟨rfl, rfl, rfl, rfl, rfl⟩, rfl, rfl, by decide⟩

theorem wit_CopiesMove_turn :
    (((qst qX (qc cX) onC).setQueue (qX + 1) { resetEngQ with prog := on0 }).setQuad 0 { resetQuad with xlast := 0 }).copyTurn qX = false := by
  decide

theorem wit_CopiesMove_reach (c : Cmd) (h : c ∈ [cX, cG, cS]) :
    (qst qX (qc c) onC).engReaches qX (qc c) ⟨0, 1, Cmd.cDstRow c 0 0 0, 1, []⟩ 8 (quadPa 0 0 0x2000) false ∧
    (qst qX (qc c) onC).engReaches qX (qc c) ⟨0, 0, Cmd.cSrcRow c 0 0 0, 0, []⟩ 8 (quadPa 0 0 0x1000) false ∧
    (qst qX (qc c) onC).peekIdx qX c 0 0 = 0 := by
  simp only [List.mem_cons, List.mem_nil_iff, or_false] at h
  obtain rfl | rfl | rfl := h <;> exact ⟨reaches (by decide) (by decide), reaches (by decide) (by decide), by decide⟩

theorem wit_SwizzleMoves : (qst qX (qc wXswz) resetProg).heads (qc wXswz) ∧ xswzOk (qc wXswz) = true ∧
    (qc wXswz).passEnd = 1 ∧ onC.fresh ∧ (qst qX (qc wXswz) onC).copyTurn qX = true ∧ 0 < Cmd.zBlocks wXswz ∧ onC.m + 512 ≤ 512 * onC.k ∧
    (qst qX (qc wXswz) onC).engReaches qX (qc wXswz) ⟨0, 0, Cmd.cSrc wXswz, 0, []⟩ 512 (quadPa 0 0 0x200) false ∧
    (qst qX (qc wXswz) onC).engReaches qX (qc wXswz) ⟨0, 1, Cmd.cDst wXswz, 1, []⟩ 512 (quadPa 0 0 0x400) false ∧ Cmd.zBlocks wXswz = 1 :=
  ⟨⟨rfl, rfl⟩, by decide, by decide, ⟨rfl, rfl, rfl, rfl, rfl⟩, by decide, by decide, by decide, reaches (by decide) (by decide),
    reaches (by decide) (by decide), by decide⟩

theorem wit_SwizzleMoves_modes (m : Nat) (h : m ∈ [0, 1, 2, 3]) : let s := qst qX (qc wXswz) { onC with mode := m }
    s.heads (qc wXswz) ∧ (s.prog qX).mode = m ∧ s.copyTurn qX = true ∧ (s.prog qX).fresh ∧
    s.engReaches qX (qc wXswz) ⟨0, 0, Cmd.cSrc wXswz, 0, []⟩ 512 (quadPa 0 0 0x200) false ∧
    s.engReaches qX (qc wXswz) ⟨0, 1, Cmd.cDst wXswz, 1, []⟩ 512 (quadPa 0 0 0x400) false := by
  simp only [List.mem_cons, List.mem_nil_iff, or_false] at h
  obtain rfl | rfl | rfl | rfl := h <;>
    exact ⟨⟨rfl, rfl⟩, rfl, by decide, ⟨rfl, rfl, rfl, rfl, rfl⟩, reaches (by decide) (by decide), reaches (by decide) (by decide)⟩

/-! ### Photonic groups -/

/-- A command of a privileged core. -/
def pc (c : Cmd) : QCmd := { qc c with priv := true }

/-- LGRP, LGRP.RD, LRX and LTX of group 0, which controller 0 sends, with an image at local address 0x400. -/
def wG := cmd 0x2222000000100000 0x400 0 0x18022
def wGrd := cmd 0x2322000000100000 0x400 0 0x18022
def wRx := cmd 0x2122000000100000 0xF0 0 0x8023
def wTx := cmd 0x2022000000100000 0x0000100000010000 0 0x8024

/-- The image of an entry with one member, quad 0. -/
def img0 : W64 := 0x8800040000000400

/-- A queue whose quad holds that image, on a controller of the given state. -/
def gst (c : QCmd) (m : Ctl) (q : Quad) : State :=
  { put (qst qN c resetProg) 0x400 img0 with ctls := [(0, m)], quads := [(0, q)] }

/-- The entry of that image, with its member. -/
def ent (known : Nat) : Gt := { resetGt with w0 := img0, enrol := 5, membs := [⟨0, known⟩] }

/-- A quad enrolled in group 0. -/
def mem0 (fill : List Nat) (p : Nat) : Quad := { resetQuad with membs := [⟨0, 5, fill, p, 0⟩], slots := fill.map fun i => (i, .posted 0) }

theorem wit_GroupTables_enrol : let s := gst (pc wG) resetCtl resetQuad
    s.heads (pc wG) ∧ lgrpOk 16 (pc wG) = true ∧ groupName qN wG = 0 ∧ (s.gt 0).v = false ∧ (s.prog qN).skip = false ∧
    s.readW (engPa qN 0x400) = img0 ∧ bits img0 50 42 = 1 ∧ s.mapFault 0 img0 = none ∧ s.readNat (waferPa 0 0x10000) 4 = 0 ∧
    s.memberOk 0 0 (bits img0 62 59) 0 0 = true :=
  ⟨⟨rfl, rfl⟩, by decide, by decide, by decide, by decide, by decide, by decide, by decide, by decide, by decide⟩

theorem wit_GroupTables_entry : let s := fun (e : Gt) => gst (pc wG) { resetCtl with gt := [(0, e)] } (mem0 [4] 1)
    (s (ent 0)).heads (pc wG) ∧ ((s (ent 0)).gt 0).v = true ∧ ((s (ent 0)).gt 0).dissolve = false ∧
    ((s { ent 0 with dissolve := true }).gt 0).v = true ∧ ((s { ent 0 with dissolve := true }).gt 0).dissolve = true ∧
    ((s { ent 0 with dissolve := true }).ctl 0).flights = [] :=
  ⟨⟨rfl, rfl⟩, by decide, by decide, by decide, by decide, by decide⟩

theorem wit_GroupTables_read : let s := gst (pc wGrd) { resetCtl with gt := [(0, ent 0)] } resetQuad
    s.heads (pc wGrd) ∧ lgrpOk 8 (pc wGrd) = true ∧ (s.prog qN).fresh ∧
    s.engReaches qN (pc wGrd) ⟨0, 1, loc 0x400, 1, []⟩ 8 (quadPa 0 0 0x400) false :=
  ⟨⟨rfl, rfl⟩, by decide, ⟨rfl, rfl, rfl, rfl, rfl⟩, reaches (by decide) (by decide)⟩

theorem wit_GroupTables_post : let s := fun (q : Quad) => gst (qc wRx) { resetCtl with gt := [(0, ent 0)] } q
    (s (mem0 [] 0)).heads (qc wRx) ∧ lrxOk (qc wRx) = true ∧ ((s (mem0 [] 0)).quad 0).memb? 0 = some ⟨0, 5, [], 0, 0⟩ ∧
    (∀ i ∈ [4, 5, 6, 7], ((s (mem0 [] 0)).quad 0).slotSt i = .free) ∧
    ((s (mem0 [4] 1)).quad 0).memb? 0 = some ⟨0, 5, [4], 1, 0⟩ ∧ ((s (mem0 [4] 1)).quad 0).slotSt 4 ≠ .free ∧ bitAt wRx.w1 4 = true :=
  ⟨⟨rfl, rfl⟩, by decide, by decide, by decide, by decide, by decide, by decide⟩

theorem wit_BlocksAreSent_accept : let s := { gst (qc wTx) resetCtl resetQuad with queues := [(qN, { resetEngQ with
      cmds := [qc wTx], prog := { resetProg with k := 1 } })] }
    s.heads (qc wTx) ∧ ltxOk (qc wTx) = true ∧ Cmd.blocks wTx ≤ (s.prog qN).k ∧ (s.ctl 0).jobs.length < 64 :=
  ⟨⟨rfl, rfl⟩, by decide, by decide, by decide⟩

/-- A job of group 0 that sends the block at 0x30000 of controller 0. -/
def job (b : Option (List (Byte × Bool))) : Ltx := ⟨qN, qc { wTx with w1 := 0x30000 }, 0, true, 0, 0, b, false, none, false⟩

/-- A controller with that job, its trunks awake. -/
def ctlJ (b : Option (List (Byte × Bool))) (known : Nat) : State :=
  { paged resetWafer { resetCore with team := some tm0 } with
    ctls := [(0, { resetCtl with gt := [(0, ent known)], jobs := [job b], trunks := [(0, true, 0)] })], quads := [(0, mem0 [4] 1)]
    streams := [(6, leaf0)] }

set_option maxRecDepth 40000 in
theorem wit_BlocksAreSent_read : (ctlJ none 0).jobOf 0 = some (job none) ∧ (ctlJ none 0).awnStopped 0 (unitNo .ctl 0) = false ∧
    (ctlJ none 0).partRuns (QCmd.part qN (job none).q) = true ∧ ((ctlJ none 0).gt 0).dissolve = false ∧
    (ctlJ none 0).translate (ltxWho 0 (job none)) 0x30000 512 0 = .ok 0x30000 false false ∧ homeOf 0x30000 = .hbm 0 0 4096 := by
  exact ⟨rfl, rfl, rfl, rfl, rfl, rfl⟩

theorem wit_BlocksAreSent : (ctlJ (some []) 0).jobOf 0 = some (job (some [])) ∧ ((ctlJ (some []) 0).gt 0).demand 0 = false ∧
    (ctlJ (some []) 1).jobOf 0 = some (job (some [])) ∧ ((ctlJ (some []) 1).gt 0).demand 0 = true ∧
    (ctlJ (some []) 1).trunksAwake 0 (ent 1).tmask = true ∧ (ctlJ (some []) 1).myTurn 0 = true := by decide

theorem wit_BlocksAreSent_report : ((ctlJ none 0).quad 0).memb? 0 = some ⟨0, 5, [4], 1, 0⟩ ∧ ((ctlJ none 0).gt 0).v = true ∧
    ((ctlJ none 0).gt 0).enrol = 5 := by decide

/-- A block on its way to quad 0. -/
def flt (again dup : Bool) : Flight := ⟨0, 0, 0, List.replicate 512 (0, false), 0, 0, again, dup⟩

/-- The controller with that block. -/
def ctlF (f : Flight) : State :=
  { ctlJ none 1 with ctls := [(0, { resetCtl with gt := [(0, ent 1)], jobs := [job none], trunks := [(0, true, 0)], flights := [f] })] }

set_option maxRecDepth 40000 in
theorem wit_BlocksArrive : findFlight 0 0 ((ctlF (flt false false)).ctl 0).flights = some ([], flt false false, []) ∧
    (flt false false).again = false ∧ (flt false false).dup = false ∧ (flt false false).tries < 8 ∧
    ((ctlF (flt false false)).quad 0).memb? 0 = some ⟨0, 5, [4], 1, 0⟩ ∧
    findFlight 0 0 ((ctlF (flt false true)).ctl 0).flights = some ([], flt false true, []) ∧
    ((ctlF (flt true false)).ctl 0).flights.find? (fun f => f.group == 0 && f.again) = some (flt true false) := by
  exact ⟨rfl, rfl, rfl, by decide, by decide, rfl, rfl⟩

theorem wit_BlocksArrive_stall : let s : State := { ctlJ (some []) 0 with time := 100000001 }
    s.jobOf 0 = some (job (some [])) ∧ (s.gt 0).demand 0 = false ∧ (s.gt 0).stalled ≠ some 0 ∧ (s.wafer 0).kgstall ≠ 0 ∧
    (s.wafer 0).kgstall.toNat * 1000 < s.time - (s.gt 0).since := by decide

theorem wit_BlocksArrive_demand : let s : State := { ctlJ (some []) 1 with time := 100000001 }
    s.jobOf 0 = some (job (some [])) ∧ (s.gt 0).demand 0 = true ∧ (job (some [])).buf.isSome = true ∧ (s.gt 0).stalled ≠ some 0 ∧
    (s.wafer 0).kgstall.toNat * 1000 < s.time - (s.gt 0).since := by decide

/-- The controller of a block to be sent again, its trunks asleep or awake. -/
def ctlA (up : Bool) : State :=
  { ctlJ none 1 with ctls := [(0, { resetCtl with gt := [(0, ent 1)], jobs := [job none], trunks := [(0, up, 0)], flights := [flt true false] })] }

set_option maxRecDepth 40000 in
theorem wit_BlocksArrive_resend : ((ctlA true).ctl 0).flights.find? (fun f => f.group == 0 && f.again) = some (flt true false) ∧
    (ctlA true).trunksAwake 0 ((ctlA true).gt 0).tmask = true ∧ (ctlA false).trunksAwake 0 ((ctlA false).gt 0).tmask = false ∧
    ((ctlA false).gt 0).tmask.testBit 0 = true := by decide

/-! ### Reductions -/

/-- A command of core 0 in its network queue, with core 0 in the team of the first node. -/
def nst (c : QCmd) (p : Prog) : State := { qst qN c p with sheaves := [(0, shf [(0, { nd [] with place := .team 0 0 1 1 })] [])] }

/-- An ERED of two FP32 elements of group 0 at local address 0x2000. -/
def wEr := cmd 0x3032000000107000 0x102000 0 0x10020

/-- A group of ranks 0 and 1, with what the list says has come. -/
def red0 (vs ls os : Map (List (W32 × Bool))) : RedGroup :=
  ⟨loc 0x3000, loc 0x3100, 0, 2, 0, 0, 1, 0, vs, ls, os, [], resetDrain⟩

/-- Two elements. -/
def v2 : List (W32 × Bool) := [(1, false), (2, false)]

theorem wit_EredRounds : let s := { nst (qc wEr) { resetProg with k := 1 } with reds := [(0, red0 [] [] [])] }
    s.heads (qc wEr) ∧ eredOk (qc wEr) = true ∧ (qc wEr).ref = some r0 ∧ (s.core 0).team = some tm0 ∧ redKey r0 (bits wEr.w1 35 32) = 0 ∧
    mfind s.reds 0 = some (red0 [] [] []) ∧ tm0.rank 0 = 0 ∧ (red0 [] [] []).count = Cmd.redCount wEr ∧
    mhas (red0 [] [] []).vecs 0 = false ∧ grainsFor (Cmd.redCount wEr * eredSize wEr) ≤ 1 ∧ (s.prog qN).fresh ∧
    s.engReaches qN (qc wEr) ⟨0, 0, loc 0x2000, 0, []⟩ 8 (quadPa 0 0 0x2000) false :=
  ⟨⟨rfl, rfl⟩, by decide, rfl, rfl, by decide, rfl, by decide, by decide, by decide, by decide, ⟨rfl, rfl, rfl, rfl, rfl⟩,
    reaches (by decide) (by decide)⟩

/-- The pod with that group. -/
def rst (r : RedGroup) : State := { nst (qc wEr) resetProg with reds := [(0, r)] }

theorem wit_EredRounds_router : let r := red0 [(0, v2), (1, v2)] [(0, v2)] []
    mfind (rst r).reds 0 = some r ∧ (rst r).nodeTeam (redRef 0) = some tm0 ∧ (rst r).partRuns 0 = true ∧ mhas r.outs 0 = false ∧
    r.children tm0 0 = [] ∧ r.inQuad tm0 0 ≠ [] ∧ mhas r.locs 0 = true := by decide

/-- A team of two quads, whose second holds every member. -/
def tm2 : Team := ⟨r0, 0, 0, 2, 1⟩

theorem wit_EredRounds_pass : let r : RedGroup := { red0 [] [] [(2, v2)] with first := 8, last := 8 }
    let t : Team := ⟨r0, 0, 0, 3, 1⟩
    r.inQuad t 1 = [] ∧ r.children t 1 = [2] ∧ mhas r.outs 2 = true ∧ mhas r.outs 1 = false := by decide

theorem wit_EredRounds_root : let r := red0 [(0, v2), (1, v2)] [(0, v2)] [(0, v2)]
    mhas r.outs 0 = true ∧ (0 : Nat) = nQn (tm0.coreOf 0 r.root) ∧ r.drain = resetDrain ∧ 0 < (elemBytes v2).length ∧
    (rst r).piece ((rst r).redWho 0 0) r.dst (elemBytes v2).length 1 = (elemBytes v2).length ∧
    (rst r).piece ((rst r).redWho 0 0) r.done 8 1 = 8 ∧
    (rst r).translate ((rst r).redWho 0 0) r.done 8 1 = .ok (quadPa 0 0 0x3100) false false ∧
    (rst r).translate ((rst r).redWho 0 0) r.dst 8 1 = .ok (quadPa 0 0 0x3000) false false ∧
    (rst r).remoteUnbacked 0 (quadPa 0 0 0x3000) = false ∧ (elemBytes v2).length + 8 ≤ ({ resetDrain with put := 16 } : Drain).put := by
  decide

theorem wit_EredRounds_window : ∀ w m sl o, homeOf (quadPa 0 0 0x3000) ≠ .window w m sl o := no_window (by decide)

/-- A CRED group of a pod of one wafer. -/
def cg (pl : Nat) (slot : Option (Nat × Nat)) (bound : Bool) : CredG :=
  ⟨1, 3, 1, 0, 0, pl, slot, 0, bound, 1, [], [(0, ⟨0, 0x30000, 0x31000, 0, 0, 0, none, [], [], resetDrain⟩)]⟩

/-- A CRED at its head, its vector of one element read. -/
def wC (pl : Nat) : Cmd := cmd 0x4042000000107000 0x2000 (w64 (pl * 65536 + 3)) 0x20040

/-- The pod with that group. -/
def cst (g : CredG) (p : Prog) : State :=
  let s := nst (qc (wC g.placement)) p
  { s with sheaves := [(0, { shf [(0, nd [])] [] with pod := some 1 })], creds := [(65539, g)] }

/-- Progress of a CRED that has read four bytes. -/
def onV (n : Nat) : Prog := { resetProg with k := 1, got := List.replicate 4 (0, false), put := n }

theorem wit_CredContributes_refused : let s := cst (cg 0 none false) resetProg
    let t := cst (cg 1 none false) resetProg
    s.heads (qc (wC 0)) ∧ credOk (qc (wC 0)) = true ∧ s.credOf qN (qc (wC 0)) = some (65539, cg 0 none false) ∧ t.heads (qc (wC 1)) ∧
    credOk (qc (wC 1)) = true ∧ t.credOf qN (qc (wC 1)) = some (65539, cg 1 none false) ∧ (t.wafer 0).switchRed = false :=
  ⟨⟨rfl, rfl⟩, by decide, by decide, ⟨rfl, rfl⟩, by decide, by decide, by decide⟩

theorem wit_CredContributes : let g := cg 0 (some (0, 2)) true
    let s := cst g (onV 4)
    s.credOf qN (qc (wC 0)) = some (65539, g) ∧ mfind g.parts 0 = some ⟨0, 0x30000, 0x31000, 0, 0, 0, none, [], [], resetDrain⟩ ∧
    mfind s.creds 65539 = some g ∧ s.credHolder qN 65539 ⟨0, 0x30000, 0x31000, 0, 0, 0, none, [], [], resetDrain⟩ = none ∧
    grainsFor g.bytes ≤ (onV 4).k ∧ (onV 4).got.length = g.bytes ∧ 0 < g.zeroed ∧ g.bytes ≤ (onV 4).put ∧ (onV 0).put < g.bytes ∧
    (onV 0).view = false ∧ ({ resetWafer with switchRed := true } : Wafer).switchRed = true := by decide

theorem wit_CredResults_bind : let s := cst (cg 0 (some (0, 2)) false) resetProg
    mfind s.creds 65539 = some (cg 0 (some (0, 2)) false) ∧ (s.slot 0 2).bound = false ∧ (s.slot 0 2).closing = false ∧
    (s.slot 0 2).held = none ∧ (s.slot 0 2).cred = none ∧ s.slotClaimed 0 2 0 = false := by decide

/-- A part whose copy and done word have been written. -/
def cw : CredW := ⟨0, 0x30000, 0x31000, 0, 1, 0, none, [], [(0, [5])], { resetDrain with put := 12 }⟩

/-- A group of which one wafer's copy is due. -/
def cgd : CredG := { cg 1 none false with parts := [(0, cw)] }

theorem wit_CredResults_due : let s := cst cgd resetProg
    mfind s.creds 65539 = some cgd ∧ cgd.placement = 1 ∧ cgd.due = [(0, cw)] ∧
    ∀ x ∈ cgd.due, (flitBytes (cgd.count + 1) x.2.got (mget cgd.marks (x.2.released + 1) [])).length + 8 ≤ x.2.drain.put := by decide

/-- A group that waits for the result flit which reaches wafer 0 next. -/
def cgf : CredG :=
  let f := Config.resultFlit 0
  { cg 1 none false with gid := f.1, parts := [(0, { cw with flits := [⟨f.1, f.2.1, f.2.2.1, 0, []⟩] })] }

theorem wit_CredResults_takes : let s : State := { State.reset with creds := [(65539, cgf)] }
    s.creds.find? (fun x => x.2.awaits 0 (Config.resultFlit (s.tick + 0)).1 (Config.resultFlit (s.tick + 0)).2.1
      (Config.resultFlit (s.tick + 0)).2.2.1) = some (65539, cgf) ∧ mfind s.creds 65539 = some cgf ∧
    (mfind cgf.parts 0).isSome = true := by
  refine ⟨?_, rfl, rfl⟩
  rw [List.find?_cons_of_pos]
  simp [CredG.awaits, cgf, cg, mfind, State.reset]

/-- Without a group no flit is taken. -/
theorem wit_CredResults_flit (p : Nat × CredG → Bool) : State.reset.creds.find? p = none := rfl

/-! ### The memory edge -/

/-- GBIND, GACC and GUNBIND of slot 3 of controller 21. -/
def wGacc := cmd 0x5152000000100000 0x3000000000 0x315 0x18021
def wGun := cmd 0x5252000000100000 0 0x315 0x18021

/-- Progress that has read a descriptor of a kind and a window of two pages, without an image. -/
def onD (kind : Nat) : Prog :=
  { on0 with buf := natRun 8 (kind * 2 ^ 62) false ++ natRun 8 0 false ++ natRun 8 1 false ++ natRun 8 (if kind = 2 then 0x60000 else 0) false
      ++ List.replicate 32 (0, false) }

/-- The pod with an edge slot. -/
def est (c : QCmd) (p : Prog) (e : EdgeSlot) : State := { qst qN c p with ctls := [(21, { resetCtl with slots := [(3, e)] })] }

/-- A slot that the first node holds. -/
def held0 : EdgeSlot := { resetSlot with held := some r0 }

/-- A descriptor with an image whose list of records is empty. -/
def onI : Prog :=
  { on0 with buf := natRun 8 0 false ++ natRun 8 0x70000 false ++ natRun 8 1 false ++ List.replicate 40 (0, false)
      ++ natRun 8 0xF000000000000000 false }

set_option maxRecDepth 40000 in
theorem wit_EdgeBinds : let s := est (qc wGbind) onI held0
    s.heads (qc wGbind) ∧ gOk false (qc wGbind) = true ∧ Cmd.ectl wGbind = 21 ∧ Cmd.eslot wGbind = 3 ∧
    descOk false ((runWords64 onI.buf).take 8) = true ∧ (s.slot 21 3).heldBy (QCmd.part qN (qc wGbind)) = true ∧
    (s.slot 21 3).bound = false ∧ (s.slot 21 3).closing = false ∧ nth (runWords64 onI.buf) 1 0 ≠ 0 ∧
    parseImage true 1 imageFuel ((runWords64 onI.buf).drop 8) [] = .over [] ∧ graphOk [] = true ∧ s.cellsBusy 21 3 [] = false :=
  ⟨⟨rfl, rfl⟩, by decide, by decide, by decide, by decide, by decide, by decide, by decide, by decide, rfl, by decide, by decide⟩

theorem wit_EdgeBinds_acc : let s := est (qc wGacc) (onD 2) held0
    s.heads (qc wGacc) ∧ gOk false (qc wGacc) = true ∧ descOk true ((runWords64 (onD 2).buf).take 8) = true ∧
    nth ((runWords64 (onD 2).buf).take 8) 1 0 = 0 ∧ resetSlot.heldBy (QCmd.part qN (qc wGacc)) = false ∧
    ({ held0 with bound := true } : EdgeSlot).bound = true ∧ s.cellsBusy 21 3 [] = false :=
  ⟨⟨rfl, rfl⟩, by decide, by decide, by decide, by decide, rfl, by decide⟩

theorem wit_EdgeBinds_read : let c := qc { wGbind with w1 := 0x00FFFFFFFFF82000 }
    let s := est c resetProg held0
    s.heads c ∧ gOk false c = true ∧ resetProg.fresh ∧
    s.engReaches qN c ⟨0, 0, BitVec.ofNat 64 (bits c.c.w1 55 0), 0, []⟩ 64 (quadPa 0 0 0x2000) false ∧ s.poisonRun (quadPa 0 0 0x2000) 64 = false :=
  ⟨⟨rfl, rfl⟩, by decide, ⟨rfl, rfl, rfl, rfl, rfl⟩, reaches (by decide) (by decide), by decide⟩

/-- A write of eight bytes at the start of a window. -/
def va0 (wr : Option (List (Byte × Bool))) (sent : Nat) (back : List (W64 × Bool)) : VAcc := ⟨.port 0, 0, 0, 0, 8, wr, sent, back, 1, []⟩

theorem wit_EdgeBinds_unbind : let s := fun p e => est (qc wGun) p e
    (s resetProg { held0 with bound := true }).heads (qc wGun) ∧ gOk true (qc wGun) = true ∧
    ({ held0 with bound := true } : EdgeSlot).heldBy (QCmd.part qN (qc wGun)) = true ∧ held0.halt = false ∧
    ({ held0 with closing := true, accs := [va0 none 0 []] } : EdgeSlot).accs ≠ [] ∧
    (s on0 { held0 with bound := true, closing := true }).slotRest 21 3 = true :=
  ⟨⟨rfl, rfl⟩, by decide, by decide, rfl, by decide, by decide⟩

/-- A bound slot of a kind with its accesses and return port. -/
def bnd (kind : Nat) (l : List VAcc) (ret : List Tok) : State :=
  { State.reset with ctls := [(0, { resetCtl with slots := [(2, { held0 with bound := true, kind := kind, accs := l, ret := ret, acc := loc 0x3000 })] })] }

theorem wit_EdgeAccesses : let s := fun v (r : List Tok) => bnd 0 [v] r
    ((s (va0 none 0 []) []).slot 0 2).bound = true ∧ ((s (va0 none 0 []) []).slot 0 2).halt = false ∧
    (s (va0 none 0 []) []).ctlRuns 0 = true ∧ ((s (va0 none 0 []) []).slot 0 2).accs = va0 none 0 [] :: [] ∧
    (va0 none 0 []).sent < (va0 none 0 []).words ∧ (va0 none 0 []).back.length ≠ (va0 none 0 []).words ∧
    ((s (va0 none 1 []) [.data 5 false 0 false 1]).slot 0 2).ret = .data 5 false 0 false 1 :: [] ∧
    (va0 none 1 []).back.length < (va0 none 1 []).sent ∧ (va0 none 1 [(5, false)]).back.length = (va0 none 1 [(5, false)]).words ∧
    (s (va0 none 1 [(5, false)]) []).settled 0 2 1 = true := by
  decide

theorem wit_EdgeAccesses_write : let v := va0 (some (natRun 8 7 false)) 1 []
    let s := bnd 1 [v] []
    (s.slot 0 2).kind = 1 ∧ v.sent = v.words ∧ s.settled 0 2 v.id = true ∧ (s.slot 0 2).ret = [] := by decide

/-- An accumulate slot over memory at 0x30000 of controller 0. -/
def accS (v : VAcc) : State :=
  { paged resetWafer resetCore with
    streams := [(8 * (2 ^ 47 + 2) + 7, leaf0)]
    ctls := [(0, { resetCtl with slots := [(2, { held0 with bound := true, kind := 2, accs := [v], acc := 0x30000 })] })] }

set_option maxRecDepth 40000 in
theorem wit_EdgeAccesses_accumulate : let s := accS (va0 (some (natRun 8 7 false)) 0 [])
    let e := s.slot 0 2
    e.kind = 2 ∧ e.img = 0 ∧ e.fault = none ∧ e.skip = false ∧ homeOf 0x30000 = .hbm 0 0 4096 ∧
    s.translate (s.accWho 0 2 e) 0x30000 8 1 = .ok 0x30000 false false ∧ s.translate (s.accWho 0 2 e) 0x30000 8 0 = .ok 0x30000 false false ∧
    pieceLen 0x30000 8 = 8 ∧ (∀ o, homeOf (quadPa 0 0 0) ≠ .hbm 0 0 o) := by
  exact ⟨rfl, rfl, rfl, rfl, rfl, rfl, rfl, by decide, fun _ h => nomatch (show Home.quad 0 0 0 = _ from h)⟩

/-! ### Fabrics -/

/-- A region of one row whose configuration runs, with one cell, router or generator at a site, and grains. -/
def fab (site : Nat) (c : Cell) (chs : Map Chan) : State :=
  { State.reset with
    fields := [(0, { resetField with pool := 1000 })]
    sheaves := [(0, shf [(0, nd [])] [])]
    resids := [(1, { res0 with live := { resetPlane with cells := [(site, c)], chans := chs } })]
    curRes := 2
    curSite := site }

/-- A cell of one word, which has reached it. -/
def pe (w : W64) : Cell := { cellOf [w] with ready := true }

/-- A data token. -/
def tk (v : W64) : Tok := .data v false scaleOne false 0

/-- A channel with tokens, and one that its consumer has asked for. -/
def chT (l : List Tok) : Chan := { resetChan with toks := l }
def chD : Chan := { resetChan with dem := 1 }

/-- What `State.siteFree` asks. -/
def okFree (s : State) (w : W64) : Bool :=
  let a := s.seat
  let c := s.cell a.k a.b
  let l := s.lane a.k a.x
  !c.words.isEmpty && nth c.words 0 0 == w && !c.done && s.fabRuns a.k a.b a.x && l.fault.isNone && !l.busy && l.out.isEmpty

theorem free_of {s : State} {w : W64} (h : okFree s w = true) : s.siteFree w := by
  simp only [okFree, Bool.and_eq_true, Bool.not_eq_true', beq_iff_eq, List.isEmpty_iff, Option.isNone_iff_eq_none] at h
  obtain ⟨⟨⟨⟨⟨⟨h1, h2⟩, h3⟩, h4⟩, h5⟩, h6⟩, h7⟩ := h
  refine ⟨fun e => ?_, h2, h3, h4, h5, h6, h7⟩
  rw [e] at h1
  exact Bool.noConfusion h1

/-- What `State.siteReady` asks beside. -/
def okSite (s : State) (w : W64) : Bool :=
  let a := s.seat
  okFree s w && !(s.lane a.k a.x).on && !(s.cell a.k a.b).closed && (s.portToks a.k a.b 0xC).isEmpty

theorem ready_of {s : State} {w : W64} (h : okSite s w = true) : s.siteReady w := by
  simp only [okSite, Bool.and_eq_true, Bool.not_eq_true', List.isEmpty_iff] at h
  obtain ⟨⟨⟨h1, h2⟩, h3⟩, h4⟩ := h
  exact ⟨free_of h1, h2, .inl h3, fun r e => absurd (h4.symm.trans e) (by simp)⟩

/-- The tokens of a firing that begins, and the state that they leave. -/
def heads (s : State) (w : W64) : List Tok := s.atHeads s.seat.k s.seat.b (inputsOf (wInputs w))
def begun (s : State) (w : W64) : State := (s.payGrain s.seat.k s.seat.x).1.latch s.seat (inputsOf (wInputs w))

/-- What `State.begins` asks of an operator of one copy. -/
def okFire (s : State) (w : W64) : Bool :=
  let a := s.seat
  okSite s w && a.n == 1 && !(s.lane a.k a.x).deal && decide (s.inputs a.k a.b (inputsOf (wInputs w)) = .fires) && (s.plane a.k).canEmit (s.outs a.k a.b)
    && (s.payGrain a.k a.x).2

theorem begins_of {s : State} {w : W64} {sends : Bool} (h : okFire s w = true) : s.begins w sends (heads s w) (begun s w) := by
  simp only [okFire, Bool.and_eq_true, Bool.not_eq_true', decide_eq_true_eq, beq_iff_eq] at h
  obtain ⟨⟨⟨⟨⟨h1, h2⟩, h6⟩, h3⟩, h4⟩, h5⟩ := h
  exact ⟨ready_of h1, h6, h3, rfl, _, Prod.ext rfl h5, .inl ⟨h2, fun _ => h4, rfl⟩⟩

theorem fires_of {s : State} {w : W64} {sends : Bool} (h : okFire s w = true) : s.fires w sends (heads s w) (begun s w) := .inl (begins_of h)

/-- A state whose cell has a firing under way on some tokens. -/
def going (s : State) (ts : List Tok) : State := s.setLane s.seat.k s.seat.x { s.lane s.seat.k s.seat.x with on := true, ops := ts }

/-- What `State.goesOn` asks. -/
def okOn (s : State) (w : W64) (ts : List Tok) : Bool :=
  let a := s.seat
  okFree s w && (s.lane a.k a.x).on && decide ((s.lane a.k a.x).ops = ts) && (s.portToks a.k a.b 0xC).isEmpty

theorem goesOn_of {s : State} {w : W64} {ts : List Tok} (h : okOn s w ts = true) : s.goesOn w ts := by
  simp only [okOn, Bool.and_eq_true, decide_eq_true_eq, List.isEmpty_iff] at h
  obtain ⟨⟨⟨h1, h2⟩, h3⟩, h4⟩ := h
  exact ⟨free_of h1, h2, h3, fun r e => absurd (h4.symm.trans e) (by simp)⟩

/-- A cell with tokens at its ports 0, 2 and 3, and demand at its east neighbour. -/
def cel (w : W64) : State := fab 0 (pe w) [(0, chT [tk 0x3F800000]), (2, chT [tk 0x40000000]), (3, chT [tk 0x40400000]), (19, chD)]

theorem wit_CellsCompute :
    ((cel 0x1003F20000000007).fires 0x1003F20000000007 true (heads (cel 0x1003F20000000007) 0x1003F20000000007) (begun (cel 0x1003F20000000007) 0x1003F20000000007) ∧
      (readOps 0x1003F20000000007 7 (heads (cel 0x1003F20000000007) 0x1003F20000000007)).isSome = true) ∧
    ((cel 0x1803F2000000030A).fires 0x1803F2000000030A true (heads (cel 0x1803F2000000030A) 0x1803F2000000030A) (begun (cel 0x1803F2000000030A) 0x1803F2000000030A) ∧
      (readOps 0x1803F2000000030A 0xA (heads (cel 0x1803F2000000030A) 0x1803F2000000030A)).isSome = true) :=
  ⟨⟨fires_of (by decide), by decide⟩, ⟨fires_of (by decide), by decide⟩⟩

theorem wit_CellsCompute_cvt : (cel 0x190FF20000000702).fires 0x190FF20000000702 true (heads (cel 0x190FF20000000702) 0x190FF20000000702)
      (begun (cel 0x190FF20000000702) 0x190FF20000000702) ∧
    (readOps 0x190FF20000000702 7 (heads (cel 0x190FF20000000702) 0x190FF20000000702)).isSome = true ∧ wFn 0x190FF20000000702 = 7 ∧
    wRnd 0x190FF20000000702 = 0 ∧ wRnd 0x190FF20000000742 = 4 :=
  ⟨fires_of (by decide), by decide⟩

/-- The same cell in the edge fabric of controller 0, in the graph of slot 2. -/
def celE (w : W64) : State :=
  { State.reset with
    sheaves := [(0, shf [(0, nd [])] [])]
    ctls := [(0, { resetCtl with
      slots := [(2, { held0 with bound := true, sites := [0] })]
      fab := { resetPlane with cells := [(0, pe w)], chans := [(0, chT [tk 0x3F800000]), (19, chD)] } })]
    curRes := 1 }

theorem wit_CellsCompute_edge : (celE 0x190FF20000000742).fires 0x190FF20000000742 true (heads (celE 0x190FF20000000742) 0x190FF20000000742)
      (begun (celE 0x190FF20000000742) 0x190FF20000000742) ∧ wRnd 0x190FF20000000742 = 4 ∧
    fabCtl (celE 0x190FF20000000742).curRes = some 0 :=
  ⟨fires_of (by decide), by decide⟩

theorem wit_CellsCompute_waits : (fab 0 (pe 0x1003F20000000007) []).siteReady 0x1003F20000000007 ∧ (fab 0 (pe 0x1003F20000000007) []).seat.n = 1 ∧
    (fab 0 (pe 0x1003F20000000007) []).inputs 2 0 (inputsOf (wInputs 0x1003F20000000007)) = .waits :=
  ⟨ready_of (by decide), by decide, by decide⟩

/-- A PADD of two copies. -/
def wRep2 : W64 := 0x1003F20400000007

theorem wit_CellsCompute_copies : (cel wRep2).siteReady wRep2 ∧ (cel wRep2).seat = ⟨2, 0, 0, 0, 2⟩ ∧ ((cel wRep2).lane 2 0).deal = false ∧
    (cel wRep2).inputs 2 0 (inputsOf (wInputs wRep2)) = .fires ∧ ((cel wRep2).cell 2 0).taken = 0 ∧
    (((cel wRep2).takeAll 2 0 (distinct (inputsOf (wInputs wRep2)))).cell 2 0).taken = 0 :=
  ⟨ready_of (by decide), by decide, by decide, by decide, by decide, by decide⟩

/-- A copy whose turn it is not: the first, with one set of operands taken before. -/
def celT : State :=
  fab 0 { pe wRep2 with taken := 1 } [(0, chT [tk 0x3F800000]), (2, chT [tk 0x40000000]), (3, chT [tk 0x40400000]), (19, chD)]

theorem wit_CellsCompute_turn : celT.siteReady wRep2 ∧ celT.seat.n ≠ 1 ∧ celT.inputs 2 0 (inputsOf (wInputs wRep2)) = .fires ∧
    (celT.lane 2 0).deal = false ∧ (celT.cell 2 0).taken % celT.seat.n ≠ celT.seat.j :=
  ⟨ready_of (by decide), by decide, by decide, by decide, by decide⟩

theorem wit_SumsAndTables : (cel 0x1A0FF20000000107).fires 0x1A0FF20000000107 true (heads (cel 0x1A0FF20000000107) 0x1A0FF20000000107)
      (begun (cel 0x1A0FF20000000107) 0x1A0FF20000000107) ∧
    (readOps 0x1A0FF20000000107 7 (heads (cel 0x1A0FF20000000107) 0x1A0FF20000000107)).isSome = true ∧
    (cel 0x0100020000000001).siteReady 0x0100020000000001 ∧
    (cel 0x0100020000000001).peek 2 0 (wIa 0x0100020000000001) = some (.data 0x3F800000 false scaleOne false 0) ∧
    ((cel 0x0100020000000001).plane 2).canEmit ((cel 0x0100020000000001).outs 2 0) = true :=
  ⟨fires_of (by decide), by decide, ready_of (by decide), by decide, by decide⟩

/-- A sum whose input has ended. -/
def sumE : State := fab 0 (pe 0x1A0FF20000000007) [(0, chT [.eos]), (19, chD)]

theorem wit_SumsAndTables_end : sumE.siteReady 0x1A0FF20000000007 ∧ sumE.seat.n = 1 ∧ wFn 0x1A0FF20000000007 ≠ 1 ∧
    sumE.inputs 2 0 (inputsOf (wInputs 0x1A0FF20000000007)) = .ends ∧ (sumE.plane 2).canEmit (sumE.outs 2 0) = true ∧
    (sumE.payGrain 2 0).2 = true :=
  ⟨ready_of (by decide), by decide, by decide, by decide, by decide, by decide⟩

/-- A region's cell or generator with memory that maps the first GiB to itself. -/
def fabM (site : Nat) (c : Cell) (chs : Map Chan) (more : Map Cell) (l : List (Nat × W64)) : State :=
  { dev (paged resetWafer resetCore) l with
    fields := [(0, { resetField with pool := 1000 })]
    streams := [(8 * (2 ^ 48 + 2 * 16384 + site) + 4, leaf0)]
    sheaves := [(0, shf [(0, nd [])] [])]
    resids := [(1, { res0 with live := { resetPlane with cells := (more ++ [(site, c)]), chans := chs } })]
    curRes := 2
    curSite := site }

/-- All that `State.fabReaches` asks but that the home is no window. -/
theorem reaches_fab {s : State} {k x : Nat} {va : W64} {n acc pa : Nat} (h : (s.lane k x).skip = false ∧ va.toNat % n = 0)
    (t : s.translate (s.fabWho k x) va n acc = .ok pa false false) (b : s.remoteUnbacked (s.fabWho k x).wafer pa = false)
    (e : (match homeOf pa with
      | .window _ _ _ _ => false
      | _ => true) = true) : s.fabReaches k x va n acc pa false :=
  ⟨h.1, h.2, ⟨false, t⟩, b, no_window e⟩

/-- A PLD and a PST whose address token is 0x30000, with demand at the east neighbour. -/
def wPld : W64 := 0x200FF2000000000E
def wPst : W64 := 0x2103F00000000009
def ptS (w : W64) : State := fabM 0 (pe w) [(0, chT [tk 0x30000]), (3, chT [tk 0x77]), (19, chD)] [] []

set_option maxRecDepth 40000 in
theorem wit_FabricMemory_pld : (ptS wPld).fires wPld true (heads (ptS wPld) wPld) (begun (ptS wPld) wPld) ∧ wOp wPld = 0x20 ∧
    (readOps wPld 0xE (heads (ptS wPld) wPld)).map (fun o => (opRaw o 0, (nth o 0 ⟨.nan, 0, false⟩).bad)) = some (0x30000, false) ∧
    (begun (ptS wPld) wPld).fabReaches 2 0 0x30000 (memSize (wTy wPld)) 0 0x30000 false :=
  ⟨fires_of (by rfl), by decide, by rfl, reaches_fab (by exact ⟨rfl, rfl⟩) (by rfl) (by rfl) (by decide)⟩

set_option maxRecDepth 40000 in
theorem wit_FabricMemory_pst : (ptS wPst).fires wPst true (heads (ptS wPst) wPst) (begun (ptS wPst) wPst) ∧ wOp wPst = 0x21 ∧
    (readOps wPst 0xE (heads (ptS wPst) wPst)).map (fun o => (opRaw o 0, (nth o 0 ⟨.nan, 0, false⟩).bad)) = some (0x30000, false) ∧
    (begun (ptS wPst) wPst).fabReaches 2 0 0x30000 (memSize (wTy wPst)) 1 0x30000 false :=
  ⟨fires_of (by rfl), by decide, by rfl, reaches_fab (by exact ⟨rfl, rfl⟩) (by rfl) (by rfl) (by decide)⟩

/-- Words of a generator of one level, that reads or writes four elements from 0x30000. -/
def gen (w : W64) : Cell := { cellOf [w, 0x30000, 0x400000004] with ready := true }
def wRd : W64 := 0x0200F00005800000
def wWr : W64 := 0x0200F00045800000

/-- A generator beside a cell that reads its stream. -/
def genS (w : W64) : State :=
  fabM 8192 (gen w) [(4, chD), (0, chT [tk 0x55])] [(0, pe 0x1004F20000000007)] []

set_option maxRecDepth 40000 in
theorem wit_FabricMemory_gen : let s := genS wRd
    let t := s.latch s.seat (inputsOf (genSels wRd))
    s.siteReady wRd ∧ s.seat.b = s.curSite ∧ (s.cell 2 8192).st = 0 ∧ gDir wRd = 0 ∧ gGx wRd = false ∧
    genAddr (gen wRd).words (t.genBase 2 8192 (gen wRd).words) (t.genCtrs 2 8192 (gen wRd).words) = 0x30000 ∧
    ((s.plane 2).genOuts 8192).isEmpty = false ∧ (s.plane 2).canEmit ((s.plane 2).genOuts 8192) = true ∧
    t.fabReaches 2 8192 0x30000 (memSize (gTy wRd)) 0 0x30000 false :=
  ⟨ready_of (by rfl), by rfl, by rfl, by decide, by decide, by rfl, by rfl, by rfl, reaches_fab (by exact ⟨rfl, rfl⟩) (by rfl) (by rfl) (by decide)⟩

set_option maxRecDepth 40000 in
theorem wit_FabricMemory_genWrite : let s := genS wWr
    let t := s.latch s.seat (inputsOf (genSels wWr))
    s.siteReady wWr ∧ s.seat.b = s.curSite ∧ (s.cell 2 8192).st = 0 ∧ gDir wWr = 1 ∧ gGx wWr = false ∧ wIa wWr ≤ 0xD ∧
    s.peek 2 8192 (wIa wWr) = some (.data 0x55 false scaleOne false 0) ∧
    genAddr (gen wWr).words (t.genBase 2 8192 (gen wWr).words) (t.genCtrs 2 8192 (gen wWr).words) = 0x30000 ∧
    t.fabReaches 2 8192 0x30000 (memSize (gTy wWr)) 1 0x30000 false :=
  ⟨ready_of (by rfl), by rfl, by rfl, by decide, by decide, by decide, by rfl, by rfl, reaches_fab (by exact ⟨rfl, rfl⟩) (by rfl) (by rfl) (by decide)⟩

/-- A router of cell 0 with tokens at its ports, and demand at its neighbours. -/
def rtr (w : W64) (st : Nat) (v : Option Tok) (ts : List (Nat × Tok)) : State :=
  fab 4096 { pe w with st := st, val := v } (ts.map (fun x => (x.1, chT [x.2])) ++ [(19, chD), (194, chD)])

/-- What `State.routerReady` asks, and demand on the outputs of some codes. -/
def okRouter (s : State) (w : W64) (codes : List Nat) : Bool :=
  let c := s.cell s.curRes s.curSite
  siteKind s.curSite == 1 && !c.words.isEmpty && nth c.words 0 0 == w && !c.done && !c.closed && s.fabRuns s.curRes s.curSite s.curSite
    && (s.plane s.curRes).canEmit (codes.flatMap (s.rtOuts s.curRes s.curSite))

theorem router_of {s : State} {w : W64} {l : List Nat} (h : okRouter s w l = true) : s.routerReady w := by
  simp only [okRouter, Bool.and_eq_true, Bool.not_eq_true', beq_iff_eq] at h
  obtain ⟨⟨⟨⟨⟨⟨h1, h2⟩, h3⟩, h4⟩, h5⟩, h6⟩, _⟩ := h
  refine ⟨h1, fun e => ?_, h3, h4, h5, h6⟩
  rw [e] at h2
  exact Bool.noConfusion h2

theorem wit_RoutersForward : let pass := rtr 0x031FF000 0 none [(3, tk 5)]
    let steer := rtr 0x13210000 0 none [(3, tk 1), (2, tk 6)]
    okRouter pass 0x031FF000 [1] = true ∧ pass.rtPeek 2 0 3 = some (tk 5) ∧ nth (rtPorts 0x031FF000) 1 0 = 1 ∧
    okRouter steer 0x13210000 [1] = true ∧ steer.rtPeek 2 0 3 = some (tk 1) ∧ steer.rtPeek 2 0 2 = some (tk 6) ∧
    rtPorts 0x13210000 = [3, 2, 1, 0] := by decide

theorem wit_RoutersForward_carry : let s := fun st => rtr 0x23210000 st none [(0, tk 7), (2, tk 6), (3, tk 1)]
    okRouter (s 0) 0x23210000 [1] = true ∧ ((s 0).cell 2 4096).st = 0 ∧ (s 0).rtPeek 2 0 2 = some (tk 6) ∧
    ((s 1).cell 2 4096).st = 1 ∧ (s 1).rtPeek 2 0 3 = some (tk 1) ∧ (s 1).rtPeek 2 0 0 = some (tk 7) ∧
    (rtr 0x23210000 1 none [(3, tk 0)]).rtPeek 2 0 3 = some (tk 0) := by decide

theorem wit_RoutersForward_held : let inv := fun v c => rtr 0x3321F000 0 v [(2, tk 6), (3, tk c)]
    let mrg := rtr 0x43210000 0 none [(0, tk 7), (2, tk 6), (3, tk 1)]
    okRouter (inv none 1) 0x3321F000 [1] = true ∧ ((inv none 1).cell 2 4096).val = none ∧ (inv none 1).rtPeek 2 0 2 = some (tk 6) ∧
    ((inv (some (tk 9)) 1).cell 2 4096).val = some (tk 9) ∧ (inv (some (tk 9)) 1).rtPeek 2 0 3 = some (tk 1) ∧
    (inv (some (tk 9)) 0).rtPeek 2 0 3 = some (tk 0) ∧ okRouter mrg 0x43210000 [1] = true ∧ mrg.rtPeek 2 0 3 = some (tk 1) ∧
    mrg.rtPeek 2 0 2 = some (tk 6) ∧ mrg.rtPeek 2 0 0 = some (tk 7) := by decide

/-- A residency in memory of its own, at a list of two entries at 0x40000 whose images are empty. -/
def cfg (f : Resid → Resid) : State :=
  { dev (paged resetWafer resetCore) [(0x40000, 0x50000), (0x40008, 0xFF00000000000002), (0x40010, 0x50000), (0x40018, 0xFF00000000000002),
      (0x50000, 0xF000000000000000)] with
    fields := [(0, { resetField with pool := 1000 })]
    sheaves := [(0, shf [(0, nd [0x1000000000000000])] [])]
    resids := [(1, f { res0 with list := 0x40000 })]
    curRes := 2
    curSite := 0 }

/-- The residency of that state. -/
def cfgR (f : Resid → Resid) : Resid := f { res0 with list := 0x40000 }

set_option maxRecDepth 40000 in
theorem wit_ConfigurationsRun : let f : Resid → Resid := fun r => { r with st := .reach }
    mfind (cfg f).resids 1 = some (cfgR f) ∧ (cfgR f).halt = false ∧ (cfg f).residRuns 1 (cfgR f) = true ∧
    (cfg f).readEntry (cfgR f) 0 false = .ok (⟨0x50000, 0xFF, 2⟩, []) ∧ (2 : Nat) ≠ 0 := ⟨rfl, rfl, rfl, rfl, by decide⟩

set_option maxRecDepth 40000 in
theorem wit_ConfigurationsRun_unread : let f : Resid → Resid := fun r => { r with st := .reach, list := 0x40000000 }
    (cfg f).residRuns 1 (cfgR f) = true ∧ (cfg f).readEntry (cfgR f) 0 false = .error 7 := ⟨rfl, rfl⟩

theorem wit_ConfigurationsRun_pass : (cfg id).residRuns 1 (cfgR id) = true ∧ (cfgR id).st = .running ∧ (cfgR id).planes = [] ∧
    (cfgR id).live.passed = true ∧ (cfgR id).it = 0 ∧ (cfgR id).iters ≤ (cfgR id).it + 1 ∧ (cfgR id).next = 0xFF ∧
    (cfgR fun r => { r with next := 1 }).next < (cfgR id).nlist ∧ (cfgR id).nlist ≤ (cfgR fun r => { r with next := 2 }).next ∧
    (cfgR id).it + 1 < (cfgR fun r => { r with iters := 2 }).iters ∧
    (cfg fun r => { r with inst := some (7, 0, 0) }).residRuns 1 (cfgR fun r => { r with inst := some (7, 0, 0) }) = true := by decide

theorem wit_ConfigurationsRun_instance : let f : Resid → Resid := fun r => { r with inst := some (7, 0, 0) }
    (cfgR f).inst ≠ none ∧ (cfgR f).live.passed = true ∧ Rising (cfg f).resids := by
  exact ⟨by decide, by decide, by simp [Rising, cfg]⟩

/-- A residency whose image's next record goes to a site, its words on that site's channel. -/
def ldR (site : Nat) (ws : List W64) (r : Resid) : Resid :=
  { r with st := .loading, load := [site], live := r.live.setChan (confCh site) { resetChan with conf := [ws] } }

theorem wit_ConfigurationsRun_load : let f := ldR 0 [0x1003F20000000007]
    let g := ldR badSite []
    (cfg f).loadRuns 1 (cfgR f) = true ∧ recordOk false (recordKind false 0) [0x1003F20000000007] = true ∧ (0 : Nat) < badSite ∧
    (cfgR f).load = 0 :: [] ∧ ((cfgR f).live.chan (confCh 0)).conf = [0x1003F20000000007] :: [] ∧
    (cfg g).loadRuns 1 (cfgR g) = true ∧ (cfgR g).load = badSite :: [] ∧ ((cfgR g).live.chan (confCh badSite)).conf = [] :: [] ∧
    (cfgR fun r => { r with st := .loading }).live.firstBad false 1 [] = none ∧
    ({ resetPlane with cells := [(100, cellOf [0x1003F2FC00000007])] } : Plane).firstBad false 1 [100] = some 100 := by decide

theorem wit_ConfigurationsRun_rest : let f : Resid → Resid := fun r => { r with planes := [{ resetPlane with caller := some 0 }] }
    (cfg f).residRuns 1 (cfgR f) = true ∧ (cfg f).atRest 1 (cfgR f) = true := by decide

theorem wit_ConfigurationsRun_request : (cel 0x1003F20000000007).fabOpen 2 = true ∧
    ((cel 0x1003F20000000007).plane 2).consumes 3 = true ∧ (((cel 0x1003F20000000007).plane 2).chan 3).dem < 16 ∧
    16 ≤ ({ resetChan with dem := 16 } : Chan).dem := by decide

/-- A cell that calls, returns or asks, with a token at its port 0. -/
def calP (w : W64) : Plane := { resetPlane with id := 9, cells := [(0, pe w)], chans := [(0, chT [tk 5])] }

/-- Its residency; the sheaf's second node is a residency of one row. -/
def calR (w : W64) (f : Resid → Resid) : Resid := f { res0 with list := 0x40000, live := calP w }
def calS (w : W64) (f : Resid → Resid) : State :=
  { cfg (fun r => f { r with live := calP w }) with
    sheaves := [(0, { psh [(0, nd [0x1000000000000000]), (1, nd [0x1000000000000000, 0x40000, 0x101])] with hdr := [0, 0x10000000000] })] }

/-- CCALL of entry 1 and of entry 2, CRET, and CREQ of node 1. -/
def wCc (n : W64) : W64 := 0x300FF00000000000 + n
def wCr : W64 := 0x310FF00000000000
def wCq : W64 := 0x320FF00000000001

theorem wit_CallsAndRequests : (calS (wCc 2) id).fires (wCc 2) false (heads (calS (wCc 2) id) (wCc 2)) (begun (calS (wCc 2) id) (wCc 2)) ∧
    (calS (wCc 1) id).fires (wCc 1) false (heads (calS (wCc 1) id) (wCc 1)) (begun (calS (wCc 1) id) (wCc 1)) ∧
    (calS wCr id).fires wCr false (heads (calS wCr id) wCr) (begun (calS wCr id) wCr) ∧ heads (calS (wCc 1) id) (wCc 1) = [tk 5] ∧
    fabCtl (calS wCr id).seat.k = none ∧ (tk 5).scaled = false ∧
    ((mfind (begun (calS (wCc 1) id) (wCc 1)).resids 1).any fun r =>
      r.st == .running && r.nlist == 2 && r.limit == 3 && r.planes.isEmpty && r.inst.isNone) = true ∧
    ((mfind (begun (calS (wCc 1) fun r => { r with limit := 0 }) (wCc 1)).resids 1).any fun r => r.limit == 0 && r.planes.isEmpty) = true ∧ bits (wCc 2) 7 0 = 2 ∧ bits (wCc 1) 7 0 = 1 ∧
    ((mfind (begun (calS wCr fun r => { r with planes := [resetPlane] }) wCr).resids 1).map fun r => (r.st == .running, r.planes.length)) = some (true, 1) :=
  ⟨fires_of (by decide), fires_of (by decide), fires_of (by decide), by decide, by decide, by decide, by decide, by decide, by decide, by decide, by decide⟩

theorem wit_CallsAndRequests_ask : (calS wCq id).begins wCq false (heads (calS wCq id) wCq) (begun (calS wCq id) wCq) ∧
    heads (calS wCq id) wCq = [tk 5] ∧ (mfind (begun (calS wCq id) wCq).resids 1).map (·.live.id) = some 9 ∧
    (begun (calS wCq id) wCq).creqNode res0 (bits wCq 11 0) = true ∧ (begun (calS wCq id) wCq).creqNode res0 2 = false ∧
    (calS wCq id).instOf 1 0 9 = none ∧ (begun (calS wCq id) wCq).instOf 1 0 9 = none ∧ (calS wCq id).creqs = [] ∧
    (calR wCq id).backs = [] :=
  ⟨begins_of (by decide), by decide, by decide, by decide, by decide, by decide, by decide, by decide, by decide⟩

/-- A call and a return that wait for their firings to end. -/
def fzS : State := going (calS (wCc 1) fun r => { r with st := .freezing 0 }) [tk 5]
def rtS (strict : Bool) : State :=
  going (calS wCr fun r => { r with st := .returning 0, strict := strict, planes := [{ resetPlane with caller := some 3 }] }) [tk 5]

set_option maxRecDepth 40000 in
theorem wit_CallsAndRequests_freeze : fzS.goesOn (wCc 1) [tk 5] ∧ (mfind fzS.resids 1).map (fun r => (r.st, r.live.quiet)) = some (.freezing 0, true) ∧
    fzS.readEntry (cfgR id) 1 true = .ok (⟨0x50000, 0xFF, 2⟩, []) :=
  ⟨goesOn_of (by rfl), by rfl, by rfl⟩

theorem wit_CallsAndRequests_back : (rtS false).goesOn wCr [tk 5] ∧ (mfind (rtS false).resids 1).map (fun r =>
      (r.st, r.live.quiet, r.strict, r.planes)) = some (.returning 0, true, false, [] ++ [{ resetPlane with caller := some 3 }]) ∧
    (rtS true).goesOn wCr [tk 5] ∧ (mfind (rtS true).resids 1).map (fun r => (r.st, r.live.quiet, r.strict, (r.live.setLane 0 resetLane).holds)) =
      some (.returning 0, true, true, true) := ⟨goesOn_of (by decide), by decide, goesOn_of (by decide), by decide⟩

/-- A request of cell 0 for node 1. -/
def crq : Creq := ⟨1, 1, 0, 9, 1, [tk 5]⟩
def crqS (fen : BitVec 72) : State := { calS wCq id with creqs := [crq], wafers := [(0, { resetWafer with fen := fen })] }

set_option maxRecDepth 40000 in
theorem wit_CallsAndRequests_place : (crqS (.allOnes 72)).creqs[0]? = some crq ∧ (mfind (crqS (.allOnes 72)).resids 1).map (·.halt) = some false ∧
    (crqS (.allOnes 72)).partRuns 0 = true ∧ (crqS (.allOnes 72)).neverFits r0 = false ∧
    ((crqS (.allOnes 72)).residPlace r0 ((crqS (.allOnes 72)).nodeWords ⟨0, 1⟩) 1).isSome = true ∧ (crqS 0).neverFits r0 = true :=
  ⟨rfl, rfl, rfl, rfl, residPlace_some (sh := { psh [(0, nd [0x1000000000000000]), (1, nd [0x1000000000000000, 0x40000, 0x101])] with
    hdr := [0, 0x10000000000] }) (x := (0, 0, 1)) rfl rfl (by decide) (by decide) (by decide) rfl (by decide), rfl⟩

/-! ### Registers and the supervisor -/

theorem wit_RegisterWrites : (State.reset.field 0).cur ≠ (1 : BitVec 2) ∧ (State.reset.field 0).hopFrom = none ∧
    (State.reset.field 0).retryAt = none ∧ (State.reset.wafer 0).thrAct = false ∧ (State.reset.field 0).drp = false ∧
    bits (State.reset.wafer 0).katn 47 13 = 0 ∧ 0x400000000000 ≤ bits (0x400000002000 : W64) 47 13 * 2 ^ 13 ∧
    bits (0x400000002000 : W64) 47 13 * 2 ^ 13 < 0x800000000000 ∧ bits (0x2000 : W64) 47 13 ≠ 0 ∧
    bits ({ resetWafer with katn := 0x2000 } : Wafer).katn 47 13 ≠ 0 := by decide

theorem wit_RegisterWrites_slots : Rising (State.reset.quad 0).slots := by simp [Rising, State.reset, State.quad, mget, resetQuad]

/-- The pod with one node of the first sheaf. -/
def nodS (n : Node) : State := { at_ (run []) with sheaves := [(0, shf [(0, n)] [])] }

/-- A KSVC value: op and arg, for partition 0. -/
def svc (op arg : Nat) : W64 := w64 (op * 2 ^ 60 + arg)

theorem wit_SupervisorActs : svcOp (svc 1 0) = 1 ∧ (nodS (nd [])).killRef 0 (svc 1 0) = [r0] ∧ State.reset.killRef 0 (svc 1 0) = [] ∧
    svcOp (svc 7 0) = 7 ∧ (nodS (nd [])).node? r0 = some (nd []) ∧ (nd []).st ≠ .done := by decide

theorem wit_SupervisorActs_slots : let s : State := { wtg edgeN with ctls := [(0, { resetCtl with slots := [(0, { held0 with bound := true, accs := [va0 none 0 []] })] })] }
    (s.node? r0).map (·.st) = some .running ∧ s.edgeSlots r0 = [(0, 0)] ∧ (s.slot 0 0).accs = [va0 none 0 []] ∧
    ((s.killNode r0 2).slot 0 0).held = some r0 ∧ ((s.killNode r0 2).slot 0 0).bound = true := by decide

/-- A pod with a held fault of some owner, told of by the event of sequence number 4. -/
def fltS (o : Owner) (s : State) : State :=
  { s with wafers := [(0, { resetWafer with posted := [(4, (.fault 2, 0))] })], faults := [(2, State.reset.portFault 0 o 0x5000 1 0)] }

theorem wit_FaultAnswers (o : Owner) : (fltS o State.reset).svcEvent 0 (svc 2 4) = some (.fault 2) ∧
    (fltS o State.reset).svcEvent 0 (svc 3 4) = some (.fault 2) ∧
    mfind (fltS o State.reset).faults 2 = some (State.reset.portFault 0 o 0x5000 1 0) ∧
    (State.reset.portFault 0 o 0x5000 1 0).owner = o ∧ svcOp (svc 2 4) = 2 ∧ svcOp (svc 3 4) = 3 := ⟨rfl, rfl, rfl, rfl, by decide, by decide⟩

/-- A core that a fault of its port has stopped before the instruction of word `w`, its strand ending or not. -/
def stopS (w : W32) (e : Option Ending) : State :=
  fltS (.port 0) (at_ { run [] with fault := some 2, fetch := [(0, w)], ending := e })

theorem wit_FaultAnswers_port : let c := { (stopS 0x60A93003 none).core 0 with fault := none }
    c.ends = false ∧ c.tm = false ∧ c.strand ≠ none ∧ c.fetched c.fetchPc = some 0x60A93003 ∧
    decodeWord 0x60A93003 = .ok (.ld 5 9 false 3 0 false 3) ∧ skippedTo (.ld 5 9 false 3 0 false 3) ≠ 0 ∧
    decodeWord 0xE0000220 = .ok .retire ∧ ({ (stopS 0 (some ⟨0, none, false⟩)).core 0 with fault := none } : Core).ends = true := by decide

theorem wit_FaultAnswers_late : let a := { acc .ld 0 0 with phase := .refused }
    ((fltS (.late 0 0) (prt a)).core 0).find 0 = some a ∧ a.phase = .refused ∧ ((fltS (.late 0 0) (prt a)).core 0).hold ≠ .access 0 ∧
    a.isRead = true ∧ a.dst ≠ 0 ∧ (acc .st 0 0).isRead = false := by decide

theorem wit_FaultAnswers_drain : mfind (fltS (.red 0) (rst (red0 [] [] []))).reds 0 = some (red0 [] [] []) ∧
    (mfind (fltS (.cred 65539 0) (cst cgd resetProg)).creds 65539).isSome = true := ⟨rfl, by rfl⟩

theorem wit_SupervisorActs_queue : let s : State := { State.reset with
      wafers := [(0, { resetWafer with posted := [(4, (.queue qM 6, 0)), (5, (.queue qM 5, 0))] })]
      queues := [(qM, { resetEngQ with cmds := [qc wMzero], halt := true, stop := 6 })] }
    s.svcEvent 0 (svc 3 4) = some (.queue qM 6) ∧ (s.queue qM).halt = true ∧ (s.queue qM).stop = 6 ∧ (s.queue qM).stopped = false ∧
    s.svcEvent 0 (svc 3 5) = some (.queue qM 5) ∧ (s.queue qM).stop ≠ 5 := by decide

theorem wit_SupervisorActs_turns : (State.reset.wafer 0).pendingSvc = [] ∧ (State.reset.wafer 0).raised = [] ∧
    (State.reset.part 0).st = .run ∧ svcOp (svc 4 0) = 4 ∧ svcOp (svc 5 0) = 5 ∧ svcOp (svc 6 9) = 6 ∧ (State.reset.wafer 0).round = none ∧
    State.reset.parts = [] ∧ (({ State.reset with parts := [(0, { resetPart with st := .swapped })] } : State).part 0).st = .swapped := by decide

/-- An event. -/
def ev (k : Nat) : Ev := ⟨k, none, [1], .other, none⟩

theorem wit_SupervisorEvents_post : let x : Wafer := { resetWafer with raised := [ev 1, ev 2], ksvqb := 0x9000 }
    x.raised[0]? = some (ev 1) ∧ evFirst x.raised 0 (ev 1) = true ∧ x.ringFull = false ∧ (ev 1).kind ≠ 8 ∧
    ({ x with ksvqb := 0 } : Wafer).ringFull = true ∧ (ev 1).kind = 1 ∧ (ev 2).kind ≠ 1 := by decide

theorem wit_SupervisorEvents_next : let x : Wafer := { resetWafer with raised := [ev 8], ksvqb := 0x9000, pendingSvc := [(svc 4 0, none)] }
    x.raised[0]? = some (ev 8) ∧ evFirst x.raised 0 (ev 8) = true ∧ x.ringFull = false ∧ (ev 8).kind = 8 ∧
    x.raised.take 0 ++ x.raised.drop 1 = [] ∧ x.pendingSvc = (svc 4 0, none) :: [] ∧ (State.reset.part 0).st = .run ∧ x.round = none := by decide

/-- A gating partition, its core with or without an access. -/
def gat (ps : List Access) : State := { at_ { run [] with port := ps } with parts := [(0, { resetPart with st := .gating })] }

theorem wit_SupervisorEvents_quiet : ((gat []).part 0).st = .gating ∧ ((gat []).wafer 0).round = none ∧ ((gat []).part 0).killAfter = [] ∧
    (((gat []).partCores 0).foldl (fun s n => s.setCore n (s.core n).unwait) (gat [])).quiescent 0 = true ∧
    (((gat [acc .ld 0 0]).partCores 0).foldl (fun s n => s.setCore n (s.core n).unwait) (gat [acc .ld 0 0])).quiescent 0 = false := by decide

theorem wit_SupervisorEvents_round : let s : State := { at_ (run []) with wafers := [(0, { resetWafer with round := some ⟨9, []⟩ })] }
    (s.wafer 0).round = some ⟨9, []⟩ ∧ shas [] 0 = false ∧ s.unitStill 0 0 = true ∧ s.liveUnits 0 = [unitNo .core 0] ∧
    shas [unitNo .core 0] (unitNo .core 0) = true := by decide

/-- A silent persistent node, and one that is not persistent, an interval later. -/
def wdg (w : W64) : State := { nodS (nd [w]) with time := 10000000 }

theorem wit_SupervisorEvents_watchdog : ((wdg 0).wafer 0).kwdog ≠ 0 ∧ ((wdg 0).wafer 0).raised = [] ∧ ((wdg 0).wafer 0).round = none ∧
    (∀ k ∈ (wdg 0).dueParts 0 (((wdg 0).wafer 0).kwdog.toNat * 1000), (wdg 0).silentNode k = none) ∧
    (wdg 0x0800000000000000).dueParts 0 (((wdg 0x0800000000000000).wafer 0).kwdog.toNat * 1000) = [] ++ 0 :: (List.range 64).drop 1 ∧
    (wdg 0x0800000000000000).silentNode 0 = some (r0, 0) := by decide

/-- A fabric under a round, whose cell has tokens to fire on or none. -/
def rndS (l : List Tok) (n : Bool) : State :=
  { fab 0 { pe 0x1003F20000000007 with awn := n } [(0, chT l), (19, chD)] with wafers := [(0, { resetWafer with round := some ⟨9, []⟩ })] }

set_option maxRecDepth 40000 in
theorem wit_SupervisorEvents_site : let s := rndS [] false
    (s.wafer 0).round = some ⟨9, []⟩ ∧ s.fabWafer 2 = 0 ∧ (s.cell 2 0).ready = true ∧ (s.cell 2 0).awn = false ∧ s.awnDue 2 0 = true ∧
    s.siteRests 2 0 = true ∧ s.sitesStopped 0 = false ∧ (rndS [] true).sitesStopped 0 = true ∧ s.siteOuts 2 0 ≠ [] := by decide

/-! ### Power, links and the module -/

theorem wit_SharesAreFair : ([3, 0, 5] : List Nat) ≠ [] ∧ 2 * ([3, 0, 5] : List Nat).length ≤ 17 ∧ 17 < 6 * ([3, 0, 5] : List Nat).length := by decide

theorem wit_BudgetsAreShared : State.reset.devTime 0 < 0 + 1000 ∧ 0 + 1000 ≤ ({ State.reset with time := 1000 } : State).devTime 0 ∧
    0 + 100000 ≤ ({ State.reset with time := 100000 } : State).devTime 0 ∧ State.reset.sourceOn 0 0 = false ∧
    ({ State.reset with wafers := [(0, { resetWafer with srcPin := true })] } : State).sourceOn 0 0 = true ∧ resetWafer.thrAct = false := by
  decide

/-- A pod of two wafers, the second in need, with a link and a grant. -/
def trd : State :=
  { State.reset with
    time := 100001
    wafers := [(0, { resetWafer with podsize := 2, lastTrade := 100000, told := (0, 600), budget := 1000 }),
      (1, { resetWafer with podsize := 2, index := 1, lastTrade := 100000, told := (300, 0) })]
    links := [(5, { resetLink with up := true, grants := [(0, 7)] })] }

theorem wit_BudgetsAreShared_trade : trd.devTime 0 < (trd.wafer 0).lastTrade + 100000 ∧ (trd.wafer 0).traded < (trd.wafer 0).lastTrade ∧
    (∀ u, u < trd.podsize → (trd.wafer u).lastTrade = (trd.wafer 0).lastTrade) ∧ (trd.wafer 0).budget < 16 * (trd.wafer 0).told.2 ∧
    trd.neediest 0 = some (1, 300) ∧ trd.upLink 0 = some 5 ∧ min (min ((trd.wafer 0).told.2 / 2) 300)
      ((trd.wafer 0).budget - (trd.wafer 0).kpbudMin.toNat * (trd.wafer 0).nfield) ≠ 0 := by decide

theorem wit_BudgetsAreShared_grant : trd.links.find? (fun e => e.2.up && e.2.grants.any (·.1 == 0)) = some (5, trd.link 5) ∧
    takeGrant 0 (trd.link 5).grants = some (7, []) := by decide

/-- A wafer of one field, which is hot. -/
def hotW : State :=
  { State.reset with time := 1000000, wafers := [(0, { resetWafer with fen := 1 })], fields := [(0, { resetField with hot := true })] }

theorem wit_BudgetsAreShared_decay : hotW.allHot 0 = true ∧ (hotW.wafer 0).lastDecay + 1000000 ≤ hotW.time := by decide

theorem wit_BudgetsAreShared_exit : let s : State := { State.reset with time := 20000, wafers := [(0, { resetWafer with thrAct := true })] }
    (s.wafer 0).thrAct = true ∧ (∀ src, src < 74 → s.sourceOn 0 src = false) ∧ (s.wafer 0).clearAt + 20000 ≤ s.time := by decide

theorem wit_HopsAndHeat : let f : Field := { resetField with hopFrom := some 1, want := 1 }
    f.hopFrom = some 1 ∧ f.retryAt = none ∧ f.want = BitVec.ofNat 2 1 ∧ ({ f with retryAt := some 5 } : Field).retryAt.isSome = true ∧
    ({ resetField with retryAt := some 0, want := 1 } : Field).drp = false ∧ resetField.hopFrom = none ∧ resetField.hot = false ∧
    resetField.cur ≠ (1 : BitVec 2) ∧ (1 : Nat) ≠ 0 := by decide

theorem wit_HopsAndHeat_hot : let s : State := { State.reset with wafers := [(0, { resetWafer with khot := 0 })] }
    (s.field 0).hot = false ∧ (s.wafer (0 / 128)).khot.toNat ≤ (Config.temperature 0 s.tick).toNat := ⟨rfl, Nat.zero_le _⟩

/-- A movable node on field 0, which is hot, in a partition of fields 0 and 1. -/
def mov (w : W64) (p : Place) : State :=
  { State.reset with
    sheaves := [(0, { psh [(0, { nd [w] with place := p })] with fmap := 3 })]
    fields := [(0, { resetField with hot := true })]
    resids := [(1, { res0 with st := .reach })] }

/-- A movable residency and a movable core kernel. -/
def mvR : State := mov 0x1400000000000000 (.region 1)
def mvK : State := mov 0x0400000000000000 (.team 0 0 1 1)

set_option maxRecDepth 40000 in
theorem wit_HopsAndHeat_region : let n : Node := { nd [0x1400000000000000] with place := .region 1 }
    mvR.node? r0 = some n ∧ mvR.mayMigrate r0 n = true ∧ mfind mvR.resids 1 = some { res0 with st := .reach } ∧
    (mvR.field 0).hot = true ∧ mvR.coolField r0 (fun f => (mvR.roomFor 0 f 1).isSome) = some 1 ∧
    mvR.roomFor 0 1 1 = some (1, 0, 0) := ⟨rfl, rfl, rfl, rfl, rfl, rfl⟩

set_option maxRecDepth 40000 in
theorem wit_HopsAndHeat_team : let n : Node := { nd [0x0400000000000000] with place := .team 0 0 1 1 }
    mvK.node? r0 = some n ∧ mvK.mayMigrate r0 n = true ∧ (∃ q ∈ rectQuads 0 0 1 1, (mvK.field (fieldKey 0 (qnField q))).hot = true) ∧
    mvK.teamStill r0 ⟨r0, 0, 0, 1, 1⟩ = true ∧
    mvK.coolField r0 (fun g => (firstFit [g] 1 1 (mvK.quadFree r0 (mvK.fmapOf r0))).isSome) = some 1 ∧
    (firstFit [1] 1 1 (mvK.quadFree r0 (mvK.fmapOf r0))).isSome = true := ⟨rfl, rfl, ⟨0, by decide, rfl⟩, rfl, rfl, rfl⟩

/-- The pod with one link. -/
def lnk (l : Link) : State := { State.reset with links := [(5, l)] }

/-- What a link has sent since its last move leaves these as they are, or higher. -/
theorem sendMore_keeps (l : Link) (n : Nat) : (l.sendMore n).up = l.up ∧ (l.sendMore n).fails = l.fails ∧ (l.sendMore n).held = l.held ∧
    (l.sendMore n).rxN = l.rxN ∧ (l.sendMore n).rxSeq = l.rxSeq ∧
    (l.sendMore n).asked = l.asked ∧ (l.sendMore n).txAcked = l.txAcked ∧ l.txSeq ≤ (l.sendMore n).txSeq ∧ l.sealed ≤ (l.sendMore n).sealed := by
  unfold Link.sendMore
  split <;> simp

/-- A link with flits on their way, its key near its limit, and an old slot held. -/
def lk1 : Link := { resetLink with up := true, fails := 8, txSeq := 600, txAcked := 50, sealed := 2 ^ 47, held := some 40 }

theorem wit_LinksCarryFlits : ((lnk lk1).linkNow 5).up = true ∧ 8 ≤ ((lnk lk1).linkNow 5).fails ∧
    ((lnk lk1).linkNow 5).txAcked < ((lnk lk1).linkNow 5).txSeq ∧ ((lnk lk1).linkNow 5).asked = false ∧
    2 ^ 47 ≤ ((lnk lk1).linkNow 5).sealed ∧ ((lnk lk1).linkNow 5).held = some 40 ∧ 40 ≤ ((lnk lk1).linkNow 5).txAcked ∧
    40 + 512 ≤ ((lnk lk1).linkNow 5).txSeq ∧ ((lnk lk1).linkNow 5).rxN ≤ ((lnk lk1).linkNow 5).rxSeq := by
  obtain ⟨h1, h2, h3, r1, r2, h4, h5, h6, h7⟩ := sendMore_keeps lk1 (Config.linkLoad 5 0).1
  have e : (lnk lk1).linkNow 5 = lk1.sendMore (Config.linkLoad 5 0).1 := rfl
  simp only [lk1, resetLink] at h1 h2 h3 r1 r2 h4 h5 h6 h7
  rw [e]
  refine ⟨h1, h2 ▸ Nat.le_refl _, ?_, h4, h7, h3, ?_, ?_, ?_⟩ <;> simp only [lk1, resetLink] <;> omega

theorem wit_LinksCarryFlits_up : let l : Link := { resetLink with up := true }
    ((lnk l).linkNow 5).up = true ∧ ((lnk l).linkNow 5).fails < 8 ∧ ((lnk l).linkNow 5).held = none ∧
    ((lnk resetLink).link 5).up = false ∧ ((lnk resetLink).link 5).sealed < 2 ^ 48 := by
  obtain ⟨h1, h2, h3, -⟩ := sendMore_keeps { resetLink with up := true } (Config.linkLoad 5 0).1
  exact ⟨h1, h2 ▸ by decide, h3, by decide, by decide⟩

theorem wit_LinksCarryFlits_steer : (0 : Nat) < 12 ∧
    mget (({ State.reset with time := 10000 } : State).wafer 0).steered 0 0 + 10000 ≤ ({ State.reset with time := 10000 } : State).devTime 0 ∧
    8 < ((State.reset.link 0).wl) := by decide

theorem wit_ModulesBootAndServe : resetWafer.stage < 2 ∧ ({ resetWafer with kbstat := 0xF } : Wafer).stage = 0xF ∧
    (1 : W64).toNat % 16 = 1 ∧ resetWafer.krcvc ≠ 1 ∧ ({ resetWafer with krcvc := 1 } : Wafer).krcvc = 1 ∧
    bits ({ resetWafer with katn := 0x400000002000 } : Wafer).katn 47 13 ≠ 0 ∧ (0 : Nat) < 32 ∧ (32 : Nat) ≤ 32 ∧ (1 : Nat) ≠ 0 := by decide

/-! ### Decoding and the step -/

theorem wit_DecodeOfEncode : (Instr.add 3 1 2 false false).scalar = true ∧ (Instr.add 3 1 2 false false).wf = true ∧
    decodeWord 0x04611000 = .ok (.add 3 1 2 false false) := by decide

/-- The pod at reset with a word where the next step fetches it. -/
def at0 (w : Nat) : State := State.reset.withFetchWord 32 w

set_option maxRecDepth 40000 in
theorem wit_OpcodeMap : ((0 : W32).toNat / 2 ^ 26 ∉ majors) ∧ fetches (at0 0) 0 0 :=
  ⟨by decide, by rfl, by rfl, by rfl, by rfl⟩

set_option maxRecDepth 40000 in
theorem wit_StepRunsDecoded : fetches (at0 0x04611000) 0 0x04611000 ∧ decodeWord 0x04611000 = .ok (.add 3 1 2 false false) :=
  ⟨⟨by rfl, by rfl, by rfl, by rfl⟩, by decide⟩

/-- A pod whose next move is an act of the agenda. -/
def agd (s : State) (a : Act) : State := { s with agenda := [⟨0, a⟩] }

theorem wit_StepRunsDecoded_event : (agd State.reset (.event (.grainInterval 0))).nextMove.act = .event (.grainInterval 0) ∧
    spontaneous (.grainInterval 0) = true := by decide

set_option maxRecDepth 40000 in
theorem wit_StepRunsDecoded_engine : let s := agd (qst qM (qc wMzero) resetProg) (.engine qM)
    let u : State := { s.advance with curQ := qM }
    s.nextMove.act = .engine qM ∧ s.advance.queueOk qM = true ∧ (u.queue qM).halt = false ∧ (u.queue qM).fault = none ∧
    u.engRuns qM = true ∧ u.headCmd qM = some (qc wMzero) ∧ decodeCmd (u.imageV qM wMzero) wMzero = .ok (.mzero wMzero) ∧
    bits wMzero.w0 51 48 = qEng qM ∧ Cmd.op wMzero ≠ 1 := ⟨rfl, by rfl, rfl, rfl, by decide, by rfl, by decide, by decide, by decide⟩

theorem wit_StepRunsDecoded_fabric : let s := agd (cel 0x1003F20000000007) (.fabric 2 0)
    s.nextMove.act = .fabric 2 0 ∧ s.advance.fabricOk 2 0 = true ∧ (s.cell 2 0).words ≠ [] ∧
    decodeCell ((s.plane 2).word 0) = .ok (.padd 0x1003F20000000007) ∧
    ({ s.advance with curRes := 2, curSite := 0 } : State).serving 2 0 0 = some 0 ∧ fabCtl 2 = none ∧ (s.lane 2 0).serves = 0 := by decide

/-- A generator of an edge fabric whose graph serves no access. -/
def edgG : State :=
  { State.reset with
    sheaves := [(0, shf [(0, nd [])] [])]
    ctls := [(0, { resetCtl with
      slots := [(2, { held0 with bound := true, sites := [8192] })]
      fab := { resetPlane with cells := [(8192, gen wRd)] } })] }

theorem wit_StepRunsDecoded_noAccess : let s := agd edgG (.fabric 1 8192)
    s.nextMove.act = .fabric 1 8192 ∧ s.advance.fabricOk 1 8192 = true ∧ (s.cell 1 8192).words ≠ [] ∧
    decodeCell ((s.plane 1).word 8192) = .ok (.pag wRd) ∧
    ({ s.advance with curRes := 1, curSite := 8192 } : State).serving 1 8192 8192 = none := by decide

theorem wit_ResetState : nQn 0 < 6336 := by decide

/-- Each kind of scalar instruction completes somewhere, and memory is in canonical form at reset. -/
theorem wit_IssueFrame : (Instr.nop).scalar = true ∧ writesAtIssue .nop = false ∧ State.reset.MemOk :=
  ⟨rfl, rfl, by show Memory.wf [] = true; rfl⟩

set_option maxRecDepth 40000 in
theorem wit_StepKeepsMemory : (at0 0x04611000).MemOk ∧ ∃ t, step (at0 0x04611000) = .next t := ⟨by rfl, _, by rfl⟩

/-! ### Where forms complete -/

theorem wit_CoreFormsComplete : spw.me.strand = some ⟨0, 1, r0⟩ ∧ spw.me.ready [6] 0 = true ∧ spw.me.get 6 = loc 0x200 ∧
    spw.atOnce (loc 0x200) 32 0 (quadPa 0 0 0x200) false false ∧ (loc 0x200).toNat % 32 = 0 ∧
    recReserved (fun i => spw.readW (quadPa 0 0 0x200 + 8 * i)) = false ∧ (spw.readW (quadPa 0 0 0x208)).toNat % 32 = 0 ∧
    spw.readW (quadPa 0 0 0x210) = 0 ∧ (spw.quad (nQuad spw.cur)).contq = ⟨[], []⟩ ∧ (∀ x ∈ (spw.quad (nQuad spw.cur)).contq.chip, x.out = false) ∧
    (prt (acc .ld 0 0)).performs 0 (acc .ld 0 0) ∧ ((prt (acc .ld 0 0)).core 0).earlyFor (acc .ld 0 0) = none ∧
    (prt (acc .ld 0 0)).poisonRun (quadPa 0 0 0x100) 8 = false ∧ (prt (acc .st 7 0)).performs 0 (acc .st 7 0) ∧ (acc .st 7 0).rel = false := by
  exact ⟨rfl, by decide, by decide, ⟨rfl, by decide, by decide, by decide⟩, by decide, by decide, by decide, by decide, by decide, by decide,
    performs_port (by decide), by decide, by decide, performs_port (by decide), rfl⟩

theorem wit_CoreFormsComplete_limit : let s : State := { at_ { run [] with wait := some 0, kwlim := 1, hold := .fwait 0xA03 5 true } with time := 1000 }
    (s.core 0).wait = some 0 ∧ (s.core 0).fault = none ∧ (s.core 0).ending = none ∧ s.unitRuns 0 .core = true ∧ (s.core 0).kwlim ≠ 0 ∧
    (s.core 0).kwlim.toNat < s.now 0 - 0 ∧ (s.core 0).tm = false ∧ (s.core 0).ktvec ≠ 0 := by decide

/-! Its clauses on ERED and RED_ROUTER_ADD ask what `wit_EredRounds` and `wit_EredRounds_router` show; those of the next statement what the
witnesses of ConfigurationsRun and CallsAndRequests show, and what follows. -/

theorem wit_FabricFormsComplete : let f : Resid → Resid := fun r => { r with iters := 2 }
    mfind (cfg f).resids 1 = some (cfgR f) ∧ (cfg f).residRuns 1 (cfgR f) = true ∧ (cfgR f).st = .running ∧ (cfgR f).planes = [] ∧
    (cfgR f).inst = none ∧ (cfgR f).live.passed = true ∧ (cfgR f).it + 1 < (cfgR f).iters := by decide

/-- A call and a return at work in a region that runs. -/
def onS (w : W64) (f : Resid → Resid) : State := going (calS w f) [tk 5]

theorem wit_FabricFormsComplete_call : (onS (wCc 1) id).goesOn (wCc 1) [tk 5] ∧ fabCtl (onS (wCc 1) id).seat.k = none ∧
    ((mfind (onS (wCc 1) id).resids 1).any fun r => r.st == .running && bits (wCc 1) 7 0 < r.nlist && r.planes.length < r.limit) = true ∧
    (onS wCr fun r => { r with planes := [resetPlane] }).goesOn wCr [tk 5] ∧
    ((mfind (onS wCr fun r => { r with planes := [resetPlane] }).resids 1).any fun r => r.st == .running && !r.planes.isEmpty) = true :=
  ⟨goesOn_of (by decide), by decide, by decide, goesOn_of (by decide), by decide⟩

theorem wit_LinkFormsComplete : ((lnk { resetLink with up := true }).linkNow 5).up = true ∧ ((lnk { resetLink with up := true }).linkNow 5).fails < 8 ∧
    ((lnk { resetLink with up := true }).linkNow 5).held = none :=
  let h := wit_LinksCarryFlits_up
  ⟨h.1, h.2.1, h.2.2.1⟩

theorem wit_LinkFormsComplete_old : ((lnk lk1).linkNow 5).up = true ∧ 8 ≤ ((lnk lk1).linkNow 5).fails ∧
    ((lnk lk1).linkNow 5).txAcked < ((lnk lk1).linkNow 5).txSeq ∧ ((lnk lk1).linkNow 5).asked = false ∧
    2 ^ 47 ≤ ((lnk lk1).linkNow 5).sealed ∧ ((lnk lk1).linkNow 5).held = some 40 ∧ 40 ≤ ((lnk lk1).linkNow 5).txAcked ∧
    40 + 512 ≤ ((lnk lk1).linkNow 5).txSeq ∧ ((lnk lk1).linkNow 5).rxN ≤ ((lnk lk1).linkNow 5).rxSeq := wit_LinksCarryFlits
end Sys2Proof.Tests
end

/-! R7, R232: what a module reset leaves of a wafer's registers, and what a core then reads of them. -/

namespace Sys2Proof.Machine

/-! ## The units that a reset clears -/

/-- No entry of the dropped wafer is listed. -/
theorem mget_dropWafer {α : Type} {w k : Nat} {of : Nat → Nat} (m : Map α) (d : α) (h : of k = w) :
    mget (dropWafer w of m) k d = d := by
  induction m with
  | nil => rfl
  | cons e r ih =>
    obtain ⟨j, v⟩ := e
    by_cases hj : of j = w
    · simpa [dropWafer, hj] using ih
    · have hne : j ≠ k := fun hk => hj (hk ▸ h)
      simpa [dropWafer, hj, mget, hne] using ih

theorem qnField_lt {qn : Nat} (h : qn < 6336) : qnField qn < 72 := by
  simp only [qnField, fieldAt, qnRow, qCol, qnCol]
  omega

/-- The field of a core belongs to the core's wafer. -/
theorem nField_wafer {n : Nat} (h : nQn n < 6336) : nField n / 128 = nWafer n := by
  have := qnField_lt h
  simp only [nField, fieldKey]
  omega

theorem nQuad_wafer (n : Nat) : nQuad n / 2 ^ 13 = nWafer n := by
  simp only [nQuad, nWafer]
  omega

/-- A wafer's record at reset, but for its fuses and the edges of device time on which its next interval and trading period begin. -/
def Wafer.AtReset (x : Wafer) : Prop :=
  ∃ fen spare intvl trade traded,
    x = { resetWafer with fen := fen, spare := spare, lastIntvl := intvl, lastTrade := trade, traded := traded }

/-- The units that hold the registers that core `n` reads stand at reset. -/
structure State.UnitsAtReset (t : State) (n : Nat) : Prop where
  core : t.core n = resetCore
  quad : t.quad (nQuad n) = resetQuad
  field : t.field (nField n) = resetField
  link : ∀ l, l < 48 → t.link (nWafer n * 64 + l) = resetLink
  wafer : (t.wafer (nWafer n)).AtReset

/-- The machine starts with every unit at reset. -/
theorem unitsAtReset_reset (n : Nat) : State.reset.UnitsAtReset n := ⟨rfl, rfl, rfl, fun _ _ => rfl, _, _, _, _, _, rfl⟩

/-- MODULE_RESET leaves every unit of its wafer at reset (R232). -/
theorem unitsAtReset_moduleReset {s t : State} {n : Nat} (hn : nQn n < 6336) (h : exec (.moduleReset (nWafer n)) s = .next t) :
    t.UnitsAtReset n := by
  obtain rfl := Host.Outcome.next.inj h
  exact {
    core := mget_dropWafer _ _ rfl
    quad := mget_dropWafer (of := (· / 2 ^ 13)) _ _ (nQuad_wafer n)
    field := mget_dropWafer (of := (· / 128)) _ _ (nField_wafer hn)
    link := fun l hl => mget_dropWafer (of := (· / 64)) _ _ (show (nWafer n * 64 + l) / 64 = nWafer n by omega)
    wafer := ⟨_, _, _, _, _, mget_mput_same ..⟩ }

/-! ## What a core reads of them -/

/-- Each register that has a value in its Reset column reads that value. -/
theorem State.UnitsAtReset.kread_resetValues {t : State} {n : Nat} (h : t.UnitsAtReset n) :
    ∀ p ∈ resetValues, t.kread n p.1 = p.2 := by
  obtain ⟨fen, spare, intvl, trade, traded, hw⟩ := h.wafer
  simp only [resetValues, List.forall_mem_cons, List.not_mem_nil, IsEmpty.forall_iff, implies_true, State.kread, State.waferReg, Wafer.kthr, h.core, h.quad, h.field, hw]
  decide

/-- A link at reset is down, with 25 wavelengths (R234). -/
theorem State.UnitsAtReset.kread_kflnk {t : State} {n l : Nat} (h : t.UnitsAtReset n) (hl : l < 48) :
    t.kread n (.kflnk l) = 25 * 2 ^ 56 := by
  simp only [State.kread, h.link l hl]
  rfl

theorem Wafer.nfield_le (x : Wafer) : x.nfield ≤ 72 := by
  simpa [Wafer.nfield] using List.length_filter_le (fun i => x.fen.getLsbD i) (List.range 72)

/-- KWID shows a pod of one wafer, of index 0 (R27). -/
theorem State.UnitsAtReset.kread_kwid {t : State} {n : Nat} (h : t.UnitsAtReset n) :
    (t.kread n .kwid).toNat = 2 ^ 16 + (t.wafer (nWafer n)).nfield * 2 ^ 8 := by
  obtain ⟨fen, spare, intvl, trade, traded, hw⟩ := h.wafer
  have hp : (t.wafer (nWafer n)).podsize = 1 := by rw [hw]; rfl
  have hi : (t.wafer (nWafer n)).index = 0 := by rw [hw]; rfl
  have := (t.wafer (nWafer n)).nfield_le
  simp only [State.kread, State.waferReg, Wafer.kwid, hp, hi, w64, place, Nat.shiftLeft_eq, BitVec.toNat_ofNat]
  omega

/-- Settles O58: a reset leaves every unit at reset, and each register is read from one of them. -/
theorem resetState : Obligations.ResetState := by
  unfold Obligations.ResetState
  refine ⟨by unfold State.MemOk; rfl, fun s t n hn ht => ?_⟩
  have h : t.UnitsAtReset n := by
    rcases ht with rfl | ht
    · exact unitsAtReset_reset n
    · exact unitsAtReset_moduleReset hn ht
  obtain ⟨fen, spare, intvl, trade, traded, hw⟩ := h.wafer
  have hf := (t.wafer (nWafer n)).nfield_le
  refine ⟨h.kread_resetValues, fun l hl => h.kread_kflnk hl, ?_, ?_, ?_, ?_, ?_⟩
  · rw [h.kread_kwid]; omega
  · rw [h.kread_kwid]; omega
  all_goals rw [hw]; rfl

end Sys2Proof.Machine

/-! R6, R75, R252, R253, R349: what KRD and KWR check, what KRD returns, and what KWR leaves. -/

namespace Sys2Proof.Machine

/-! ## A unit put twice -/

@[simp] theorem mput_mput_same {α : Type} (m : Map α) (k : Nat) (v w : α) : mput (mput m k v) k w = mput m k w := by
  induction m with
  | nil => simp [mput]
  | cons e r ih =>
    obtain ⟨j, x⟩ := e
    simp only [mput]
    split
    · simp [mput]
    · split
      · simp [mput]
      · simp only [mput, ih]
        split <;> simp_all

@[simp] theorem State.setMe_setMe (s : State) (c d : Core) : (s.setMe c).setMe d = s.setMe d := by
  simp [State.setMe, State.setCore]

theorem State.past_setMe (s : State) (c : Core) : (s.setMe c).past = s.finish c := by
  simp [State.past, State.finish]

/-! ## Words -/

theorem bitAt_eq_getLsbD {n : Nat} (v : BitVec n) (i : Nat) : bitAt v i = v.getLsbD i := by
  rw [bitAt, bits, show i + 1 - i = 1 by omega, BitVec.getLsbD, Nat.testBit, Nat.and_comm, Nat.and_one_is_mod]
  simp

/-- A number of bits hi:lo in its place is the word under the mask of those bits. -/
theorem w64_bits_placed (v : W64) (hi lo : Nat) :
    w64 (bits v hi lo * 2 ^ lo) = v &&& (BitVec.allOnes (hi + 1 - lo)).setWidth 64 <<< lo := by
  apply BitVec.eq_of_getLsbD_eq
  intro i h
  rw [w64, BitVec.getLsbD_ofNat, Nat.testBit_mul_two_pow, bits, Nat.testBit_mod_two_pow, Nat.testBit_shiftRight, ← BitVec.getLsbD]
  by_cases hlo : lo ≤ i
  · simp [h, hlo, Nat.not_lt.mpr hlo, Nat.add_sub_cancel' hlo, Bool.and_comm]
  · simp [hlo, Nat.not_le.mp hlo]

/-- KTVEC holds bits 55:2 of what is written (R253). -/
theorem ktvec_mask (v : W64) : w64 (bits v 55 2 * 4) = v &&& 0x00FFFFFFFFFFFFFC := w64_bits_placed v 55 2

/-- KGGEO holds bits 61:0 of what is written (R253). -/
theorem kggeo_mask (v : W64) : w64 (bits v 61 0) = v &&& 0x3FFFFFFFFFFFFFFF := by
  simpa using w64_bits_placed v 61 0

theorem ofNat_mul_two_pow_64 (v : W64) : BitVec.ofNat 128 (v.toNat * 2 ^ 64) = v.setWidth 128 <<< 64 := by
  apply BitVec.eq_of_toNat_eq
  simp [Nat.shiftLeft_eq]

theorem w64_toNat {n : Nat} (v : BitVec n) : w64 v.toNat = v.setWidth 64 := BitVec.ofNat_toNat ..

theorem w64_low (v : BitVec 128) : w64 (v.toNat % 2 ^ 64) = v.setWidth 64 :=
  BitVec.eq_of_toNat_eq (by simp [w64])

theorem w64_high (v : BitVec 128) : w64 (v.toNat / 2 ^ 64) = (v >>> 64).setWidth 64 :=
  BitVec.eq_of_toNat_eq (by simp [w64, Nat.shiftRight_eq_div_pow])

/-- A loop that sets the bits of the numbers that pass leaves set those, and the bits set before. -/
theorem getLsbD_foldl_setBit (p : Nat → Bool) (l : List Nat) (m : BitVec 32) {j : Nat} (h : j < 32) :
    (l.foldl (fun m i => if p i then m ||| 1#32 <<< i else m) m).getLsbD j = (m.getLsbD j || (l.contains j && p j)) := by
  induction l generalizing m with
  | nil => simp
  | cons i r ih =>
    rw [List.foldl_cons, ih]
    by_cases hj : j = i
    · subst hj
      cases p j <;> simp [h]
    · have hb : (1#32 <<< i).getLsbD j = false := by simp [h]; omega
      cases p i <;> simp [hj, hb]

/-! ## The checks -/

theorem State.illegal_handles {s : State} (i : Instr) (h : s.me.handles = true) :
    s.illegal i = s.trapped causeIllegal s.me.pc ((encode i).setWidth 64) := State.trap_handles _ _ h

theorem State.noPriv_handles {s : State} (i : Instr) (h : s.me.handles = true) :
    s.noPriv i = s.trapped causePriv s.me.pc ((encode i).setWidth 64) := State.trap_handles _ _ h

section
variable {s : State} {d a : Reg} {k : BitVec 12} {q : KReg}

/-- KRD and KWR of a number that R253 does not assign (R242 step 1). -/
theorem exec_krd_unassigned (hk : kregOf k.toNat = none) : exec (.krd d k) s = .next (s.illegal (.krd d k)) := by
  simp only [exec, execKrd, hk]

theorem exec_kwr_unassigned (hk : kregOf k.toNat = none) : exec (.kwr a k) s = .next (s.illegal (.kwr a k)) := by
  simp only [exec, execKwr, hk]

theorem exec_krd_unprivileged (hk : kregOf k.toNat = some q) (hq : q.readPriv = true) (hp : s.me.priv = false) :
    exec (.krd d k) s = .next (s.noPriv (.krd d k)) := by
  simp [exec, execKrd, hk, hq, hp]

theorem exec_kwr_unprivileged (hk : kregOf k.toNat = some q) (hq : q.writePriv = true) (hp : s.me.priv = false) :
    exec (.kwr a k) s = .next (s.noPriv (.kwr a k)) := by
  simp [exec, execKwr, hk, hq, hp]

theorem exec_halt_unprivileged (hp : s.me.priv = false) : exec .halt s = .next (s.noPriv .halt) := by
  simp [exec, execHalt, hp]

/-! ## What KRD and KWR do once they issue -/

/-- KRD returns the register; every read that the core has performed came before (R349). -/
theorem exec_krd_ready (hk : kregOf k.toNat = some q) (hr : s.me.ready [] d = true) (hp : s.me.priv = true ∨ q.readPriv = false)
    (hq : q ≠ .ktime) : exec (.krd d k) s = .next (s.result s.me.learnt d (s.kread s.cur q)) := by
  have hc : (q.readPriv && !s.me.priv) = false := by rcases hp with hp | hp <;> simp [hp]
  simp only [exec, execKrd, hk, hc, Bool.false_eq_true, if_false, State.issue_ready (srcs := []) _ hr, beq_iff_eq, hq]

/-- KWR of a register other than KSVC and KXINV stores its source there, and completes. -/
theorem exec_kwr_ready (hk : kregOf k.toNat = some q) (hr : s.me.ready [a] 0 = true) (hp : s.me.priv = true ∨ q.writePriv = false)
    (hs : q ≠ .ksvc) (hx : q ≠ .kxinv) : exec (.kwr a k) s = .next (s.kwrite s.cur q (s.me.get a)).past := by
  have hc : (q.writePriv && !s.me.priv) = false := by rcases hp with hp | hp <;> simp [hp]
  simp only [exec, execKwr, hk, hc, Bool.false_eq_true, if_false, State.issue_ready (srcs := [(a, false)]) _ hr, beq_iff_eq, hs, hx,
    State.finish_me]

/-- KWR whose register is stored in the state `t`. -/
theorem exec_kwr_leaves {t : State} (hk : kregOf k.toNat = some q) (hr : s.me.ready [a] 0 = true)
    (hp : s.me.priv = true ∨ q.writePriv = false) (hs : q ≠ .ksvc) (hx : q ≠ .kxinv) (ht : s.kwrite s.cur q (s.me.get a) = t) :
    exec (.kwr a k) s = .next t.past := ht ▸ exec_kwr_ready hk hr hp hs hx

/-- KWR whose register is stored in the issuing core. -/
theorem exec_kwr_sets {c : Core} (hk : kregOf k.toNat = some q) (hr : s.me.ready [a] 0 = true)
    (hp : s.me.priv = true ∨ q.writePriv = false) (hs : q ≠ .ksvc) (hx : q ≠ .kxinv)
    (hc : s.kwrite s.cur q (s.me.get a) = s.setMe c) : exec (.kwr a k) s = .next (s.finish c) := by
  rw [exec_kwr_leaves hk hr hp hs hx hc, State.past_setMe]

end

/-! ## KPRES (R75) -/

/-- The registers that a write to KPRES marks empty: those named by a 1, but for x0 and one that a local producer will write. -/
theorem Core.isFull_kpres (c : Core) (v : W64) (r : Reg) :
    (c.kpres v).isFull r = (c.isFull r && !(r != 0 && v.getLsbD r.toNat && !c.producing r)) := by
  by_cases hr : r = 0
  · subst hr; simp [Core.isFull]
  · have hlt : r.toNat < 32 := r.isLt
    have h0 : r.toNat ≠ 0 := fun h => hr (BitVec.eq_of_toNat_eq h)
    have hn : (r.toNat != 0) = (r != 0) := by rw [bne_iff_ne.mpr hr, bne_iff_ne.mpr h0]
    rw [Core.isFull_of_ne _ hr, Core.isFull_of_ne _ hr, Core.kpres, BitVec.getLsbD_and, BitVec.getLsbD_not,
      getLsbD_foldl_setBit (fun i => i != 0 && bitAt v i && !c.producing (BitVec.ofNat 5 i)) _ _ hlt]
    simp [hlt, hn, bitAt_eq_getLsbD]

/-- A write to KPRES clears the overrun marks named by a 1. -/
theorem Core.ovr_kpres (c : Core) (v : W64) (r : Reg) :
    (c.kpres v).ovr.getLsbD r.toNat = (c.ovr.getLsbD r.toNat && !v.getLsbD (32 + r.toNat)) := by
  have hlt : r.toNat < 32 := r.isLt
  simp only [Core.kpres, BitVec.getLsbD_and, BitVec.getLsbD_not, BitVec.getLsbD_ofNat, hlt, decide_true, Bool.true_and, bits,
    Nat.testBit_mod_two_pow, Nat.testBit_shiftRight]
  rfl

/-! ## The parts of the statement -/

theorem kregChecks : Pieces.KregChecks := by
  unfold Pieces.KregChecks
  intro s r k h
  have illegal : ∀ i, (.next (s.illegal i) : Res) = _ := fun i => congrArg Host.Outcome.next (State.illegal_handles i h)
  have noPriv : ∀ i, (.next (s.noPriv i) : Res) = _ := fun i => congrArg Host.Outcome.next (State.noPriv_handles i h)
  refine ⟨fun hk => ⟨?_, ?_⟩, fun q hk hp => ⟨fun hq => ?_, fun hq => ?_⟩, fun hp => ?_⟩
  · exact (exec_krd_unassigned hk).trans (illegal _)
  · exact (exec_kwr_unassigned hk).trans (illegal _)
  · exact (exec_krd_unprivileged hk hq hp).trans (noPriv _)
  · exact (exec_kwr_unprivileged hk hq hp).trans (noPriv _)
  · exact (exec_halt_unprivileged hp).trans (noPriv _)

/-- KRD writes its result after every read that the core has performed. -/
theorem krd_wrote (s : State) (d : Reg) (v : W64) : Wrote (s.setMe s.me.learnt) (s.result s.me.learnt d v) d v := by
  have h := wrote_result (s.setMe s.me.learnt) d v
  rwa [State.me_setMe, State.result, State.finish, State.setMe_setMe] at h

theorem coreKregs : Pieces.CoreKregs := by
  unfold Pieces.CoreKregs
  intro s d a k q hk
  refine ⟨fun hr hp hq => ⟨_, exec_krd_ready hk hr hp hq, krd_wrote ..⟩, fun hr hp => ?_⟩
  intro v sets
  have puts : ∀ {c : Core}, q ≠ .ksvc → q ≠ .kxinv → s.kwrite s.cur q v = s.setMe c → exec (.kwr a k) s = .next (s.finish c) :=
    fun hs hx hc => exec_kwr_sets hk hr hp hs hx hc
  refine ⟨?_, ?_, ?_, ?_, ?_, ?_, ?_, ?_, ?_, ?_, ?_⟩
  · -- KCAUSE
    rintro rfl; exact puts nofun nofun (by rw [← BitVec.ofNat_toNat]; rfl)
  · -- KEPC
    rintro rfl; exact puts nofun nofun rfl
  · -- KTVAL
    rintro rfl; exact puts nofun nofun rfl
  · -- KTVEC
    rintro rfl; exact puts nofun nofun (by rw [← ktvec_mask]; rfl)
  · -- KSCR
    rintro rfl; exact puts nofun nofun rfl
  · -- KWLIM
    rintro rfl; exact puts nofun nofun (by rw [← BitVec.ofNat_toNat]; rfl)
  · -- KASID
    rintro rfl; exact puts nofun nofun (by rw [← BitVec.ofNat_toNat]; rfl)
  · -- KGGEO
    rintro rfl; exact puts nofun nofun (by rw [← kggeo_mask]; rfl)
  · -- KHBEAT
    rintro rfl; exact puts nofun nofun rfl
  · -- KSTAT and the read-only registers
    rintro (rfl | rfl | rfl | rfl)
    all_goals exact exec_kwr_leaves hk hr hp nofun nofun rfl
  · -- KPRES
    rintro rfl
    refine ⟨_, puts nofun nofun rfl, ⟨_, rfl⟩, fun r => ?_⟩
    rw [State.finish, State.me_setMe]
    exact ⟨rfl, Core.isFull_kpres .., Core.ovr_kpres ..⟩

/-- The registers of core `n`, its field and its wafer that KRD returns as they are stored, with what each holds. -/
def State.storedKregs (s : State) (n : Nat) : List (KReg × W64) :=
  let c := s.core n
  let x := s.wafer (nWafer n)
  [(.kastb, x.kastb), (.kptb, x.kptb), (.ksva, x.ksva), (.klqb, x.klqb), (.ksvqb, x.ksvqb), (.klead, x.klead),
    (.klqdb, x.klqTail.setWidth 64), (.klqh, x.klqHead.setWidth 64), (.ksvqh, x.svqHead.setWidth 64), (.kwdog, x.kwdog.setWidth 64),
    (.kgstall, x.kgstall.setWidth 64), (.khot, x.khot.setWidth 64), (.kcdepth, (s.field (nField n)).depthLim.setWidth 64),
    (.ktrb, x.ktrb), (.katn, x.katn), (.kaplo, c.kap.setWidth 64), (.kaphi, (c.kap >>> 64).setWidth 64), (.kxinv, 0), (.ksvc, 0)]

theorem kread_storedKregs (s : State) (n : Nat) : ∀ e ∈ s.storedKregs n, s.kread n e.1 = e.2 := by
  simp only [State.storedKregs, List.forall_mem_cons, List.not_mem_nil, IsEmpty.forall_iff, implies_true, State.kread, State.waferReg,
    w64_low, w64_high, w64_toNat, and_self]

theorem otherKregs : Pieces.OtherKregs := by
  unfold Pieces.OtherKregs
  intro s a k q hk hr hp v n w x f leaves puts addr
  have sets : ∀ {t : State}, q ≠ .ksvc → q ≠ .kxinv → s.kwrite n q v = t → leaves t := fun hs hx ht =>
    exec_kwr_leaves hk hr (.inl hp) hs hx ht
  refine ⟨?_, ?_, ?_, ?_, ?_, ?_, ?_, ?_, ?_, ?_, ?_, ?_, ?_, ?_, ?_, ?_, ?_⟩
  · -- KAPLO
    rintro rfl; exact sets nofun nofun (by rw [← BitVec.ofNat_toNat]; rfl)
  · -- KAPHI
    rintro rfl; exact sets nofun nofun (by rw [← ofNat_mul_two_pow_64]; rfl)
  · -- KCDEPTH
    rintro rfl; exact sets nofun nofun rfl
  · -- KPBUD
    rintro rfl; exact sets nofun nofun rfl
  · -- KTHR
    rintro rfl; exact sets nofun nofun (by simp only [← bitAt_eq_getLsbD]; rfl)
  · -- KASTB
    rintro rfl; exact sets nofun nofun rfl
  · -- KPTB
    rintro rfl; exact sets nofun nofun rfl
  · -- KSVA
    rintro rfl; exact sets nofun nofun rfl
  · -- KLQB
    rintro rfl; exact sets nofun nofun rfl
  · -- KSVQB
    rintro rfl; exact sets nofun nofun rfl
  · -- KWDOG
    rintro rfl; exact sets nofun nofun (by rw [← BitVec.ofNat_toNat]; rfl)
  · -- KGSTALL
    rintro rfl; exact sets nofun nofun (by rw [← BitVec.ofNat_toNat]; rfl)
  · -- KLEAD
    rintro rfl; exact sets nofun nofun (by rw [← Nat.shiftLeft_eq]; rfl)
  · -- KHOT
    rintro rfl; exact sets nofun nofun (by rw [← BitVec.ofNat_toNat]; rfl)
  · -- the read-only registers
    rintro (hq | ⟨l, rfl⟩)
    · simp only [List.mem_cons, List.not_mem_nil, or_false] at hq
      rcases hq with rfl | rfl | rfl | rfl | rfl | rfl | rfl | rfl | rfl | rfl | rfl
      all_goals exact sets nofun nofun rfl
    · exact sets nofun nofun rfl
  · -- the registers whose write has an event
    simp only [List.forall_mem_cons, List.not_mem_nil, IsEmpty.forall_iff, implies_true, and_true]
    refine ⟨?_, ?_, ?_, ?_, ?_, ?_, ?_, ?_, ?_⟩
    all_goals
      rintro rfl t ht
      exact sets nofun nofun (Host.Outcome.next.inj ht)
  · -- KRD
    rintro e he rfl
    exact kread_storedKregs s n e he

/-- Settles O37: the checks of KRD and KWR, the registers of the issuing core, and those kept elsewhere. -/
theorem specialRegisters : Obligations.SpecialRegisters := ⟨kregChecks, coreKregs, otherKregs⟩

end Sys2Proof.Machine

/-! R3, R39 to R42: fields of words as numbers, and what the hardware's own accesses on a strand's behalf leave as it was: writes to save areas,
join blocks and rings, and the release of parked strands. -/

namespace Sys2Proof.Machine

/-! ## Fields of words -/

theorem bits_eq {n : Nat} (v : BitVec n) (hi lo : Nat) : bits v hi lo = v.toNat / 2 ^ lo % 2 ^ (hi + 1 - lo) := by
  rw [bits, Nat.shiftRight_eq_div_pow]

/-- The topmost field of a word is its quotient. -/
theorem bits_top (v : W64) {lo : Nat} (h : lo ≤ 63) : bits v 63 lo = v.toNat / 2 ^ lo := by
  have hp : 2 ^ lo * 2 ^ (64 - lo) = 2 ^ 64 := by rw [← Nat.pow_add]; congr 1; omega
  rw [bits_eq, Nat.mod_eq_of_lt]
  exact Nat.div_lt_of_lt_mul (by rw [hp]; exact v.isLt)

theorem bits_low {n : Nat} (v : BitVec n) (hi : Nat) : bits v hi 0 = v.toNat % 2 ^ (hi + 1) := by
  simp [bits_eq]

/-! ## Sparse collections -/

/-- Where a key is listed, its value is. -/
theorem mfind_mem {α : Type} {m : Map α} {k : Nat} {v : α} (h : mfind m k = some v) : (k, v) ∈ m := by
  induction m with
  | nil => simp [mfind] at h
  | cons e r ih =>
    obtain ⟨j, x⟩ := e
    simp only [mfind] at h
    split at h
    · next hj => obtain rfl := Option.some.inj h; simp [hj]
    · exact List.mem_cons_of_mem _ (ih h)

theorem mget_eq_mfind {α : Type} (m : Map α) (k : Nat) (d : α) : mget m k d = (mfind m k).getD d := by
  induction m with
  | nil => rfl
  | cons e r ih =>
    simp only [mget, mfind]
    split
    · rfl
    · exact ih

/-- A read of a collection whose values have all been changed in one way. -/
theorem mfind_map {α β : Type} (m : Map α) (f : α → β) (k : Nat) :
    mfind (m.map fun e => (e.1, f e.2)) k = (mfind m k).map f := by
  induction m with
  | nil => rfl
  | cons e r ih =>
    simp only [List.map_cons, mfind]
    split
    · rfl
    · exact ih

/-! ## Nodes -/

/-- A node that has been put back is the one put, and every other is as it was. -/
theorem State.node?_setNode (s : State) (r x : NodeRef) (n m : Node) (h : s.node? r = some m) :
    (s.setNode r n).node? x = if x = r then some n else s.node? x := by
  simp only [State.node?] at h
  split at h
  case h_2 => cases h
  next sh hs =>
  simp only [State.setNode, State.node?, hs]
  by_cases hx : x.sheaf = r.sheaf
  · rw [hx, mfind_mput_same, hs]
    by_cases hn : x.node = r.node
    · have he : x = r := by cases x; cases r; simp_all
      simp [he]
    · have he : x ≠ r := fun e => hn (congrArg NodeRef.node e)
      simp [he, mfind_mput_ne _ _ _ _ hn]
  · have he : x ≠ r := fun e => hx (congrArg NodeRef.sheaf e)
    simp [he, mfind_mput_ne _ _ _ _ hx]

theorem State.node?_modNode (s : State) (r x : NodeRef) (f : Node → Node) :
    (s.modNode r f).node? x = if x = r then (s.node? r).map f else s.node? x := by
  unfold State.modNode
  split
  · next n hn => rw [State.node?_setNode _ _ _ _ _ hn, hn]; rfl
  · next hn =>
    split
    · next hx => rw [hx, hn]; rfl
    · rfl

/-- No node of `s` is lost in `t`. -/
structure State.KeepsNodes (s t : State) : Prop where
  isSome : ∀ r, (s.node? r).isSome = true → (t.node? r).isSome = true

theorem State.KeepsNodes.refl (s : State) : State.KeepsNodes s s := ⟨fun _ => id⟩

theorem State.KeepsNodes.trans {s t u : State} (h : State.KeepsNodes s t) (k : State.KeepsNodes t u) : State.KeepsNodes s u :=
  ⟨fun r hr => k.isSome r (h.isSome r hr)⟩

theorem State.KeepsNodes.of_sheaves {s t : State} (h : t.sheaves = s.sheaves) : State.KeepsNodes s t :=
  ⟨fun r hr => by rwa [State.node?, h]⟩

theorem keepsNodes_modNode (s : State) (r : NodeRef) (f : Node → Node) : State.KeepsNodes s (s.modNode r f) := by
  refine ⟨fun x hx => ?_⟩
  rw [State.node?_modNode]
  split
  · next h => subst h; simpa using hx
  · exact hx

theorem keepsNodes_foldl {α : Type} (f : State → α → State) (h : ∀ s a, State.KeepsNodes s (f s a)) (l : List α) (s : State) :
    State.KeepsNodes s (l.foldl f s) := by
  induction l generalizing s with
  | nil => exact .refl s
  | cons a r ih => exact (h s a).trans (ih _)

/-! ## Writes by hardware -/

/-- `t` is `s` after writes of sound bytes at their homes: no core's end has begun or gone. -/
structure State.Written (s t : State) : Prop extends State.Same s t where
  ending : ∀ n, (t.core n).ending = (s.core n).ending

theorem State.Written.refl (s : State) : State.Written s s := ⟨.rfl' s, fun _ => rfl⟩

theorem State.Written.trans {s t u : State} (h : State.Written s t) (k : State.Written t u) : State.Written s u :=
  ⟨h.toSame.trans k.toSame, fun n => (k.ending n).trans (h.ending n)⟩

/-- A core put back with the end that it had. -/
theorem ending_setCore {s : State} {n : Nat} {c : Core} (h : c.ending = (s.core n).ending) (m : Nat) :
    ((s.setCore n c).core m).ending = (s.core m).ending := by
  by_cases e : m = n
  · subst e; rw [State.core_setCore, h]
  · rw [State.core_setCore_ne _ _ _ _ e]

theorem Core.put_ending (c : Core) (d : Reg) (v : W64) : (c.put d v).ending = c.ending := by rw [Core.put_eq]

theorem ending_stopCore {s : State} {n : Nat} {c : Core} (o : Owner) (va : W64) (ty acc : Nat) (h : c.ending = (s.core n).ending) (m : Nat) :
    (((s.setCore n c).stopCore n o va ty acc).core m).ending = (s.core m).ending := by
  have hs : ((s.setCore n c).stopCore n o va ty acc).core m
      = ((s.setCore n c).setCore n { (s.setCore n c).core n with fault := some s.serial, wait := none, tried := none }).core m := rfl
  rw [hs, ending_setCore (by rfl), ending_setCore h]

theorem ending_endWatch (s : State) (n : Nat) (a : Access) (v : W64) (m : Nat) : ((s.endWatch n a v).core m).ending = (s.core m).ending := by
  unfold State.endWatch
  exact ending_setCore (by rw [Core.put_ending]; rfl) m

theorem ending_wakeOne (s : State) (n : Nat) (ws : List Nat) (m : Nat) : ((s.wakeOne n ws).core m).ending = (s.core m).ending := by
  simp only [State.wakeOne]
  split
  case h_2 => rfl
  next i hi =>
    split
    case h_2 => rfl
    split
    case h_2 => rfl
    split
    · split
      · split
        · exact ending_setCore (n := n) (c := (s.core n).setPhase i .issued) rfl m
        · exact ending_stopCore _ _ _ _ (c := (s.core n).withdraw i) rfl m
      · split
        · exact ending_endWatch ..
        · rfl
    · rfl

theorem ending_wake (s : State) (ws : List Nat) (m : Nat) : ((s.wake ws).core m).ending = (s.core m).ending := by
  simp only [State.wake]
  generalize s.cores.map (·.1) = l
  induction l generalizing s with
  | nil => rfl
  | cons n r ih => exact (ih _).trans (ending_wakeOne s n ws m)

theorem ending_logRun (w x : Nat) (i : WInfo) (k : Nat) (m : Nat) :
    ∀ (s : State) (pa n : Nat), ((s.logRun w x pa n i k).core m).ending = (s.core m).ending := by
  induction k with
  | zero => exact fun _ _ _ => rfl
  | succ k ih =>
    intro s pa n
    simp only [State.logRun]
    split
    · rfl
    · exact (ih ..).trans (ending_wake ..)

theorem ending_trace (s : State) (pa n : Nat) (i : WInfo) (m : Nat) : ((s.trace pa n i).core m).ending = (s.core m).ending := by
  simp only [State.trace]
  split
  · split
    · split
      · exact ending_logRun ..
      · rfl
    · rfl
  · rfl

theorem ending_spoil (s : State) (pa n : Nat) (m : Nat) : ((s.spoil pa n).core m).ending = (s.core m).ending := by
  simp only [State.spoil]
  split <;> rfl

theorem written_land (s : State) (pa : Nat) (bs : List (Byte × Bool)) (i : WInfo) (rel : Option Rel) :
    State.Written s (s.land pa bs i rel) :=
  ⟨same_land .., fun _ => (ending_spoil ..).trans ((ending_wake ..).trans (ending_trace ..))⟩

theorem written_writeAs (s : State) (pa : Nat) (bs : List (Byte × Bool)) (i : WInfo) (rel : Option Rel) (h : bs.any (·.2) = false) :
    State.Written s (s.writeAs pa bs i rel) := by
  rw [State.writeAs, h]
  exact written_land ..

theorem written_write (s : State) (pa : Nat) (bs : List (Byte × Bool)) (i : WInfo) (h : bs.any (·.2) = false) :
    State.Written s (s.write pa bs i) := written_writeAs _ _ _ _ _ h

/-- The bytes of a number are sound. -/
@[simp] theorem natRun_sound (n v : Nat) : (natRun n v false).any (·.2) = false := by
  induction n generalizing v with
  | zero => rfl
  | succ n ih => simpa [natRun] using ih _

theorem written_hwWriteAs (s : State) (wf asid : Nat) (va v : W64) (rel : Option Rel) : State.Written s (s.hwWriteAs wf asid va v rel) := by
  unfold State.hwWriteAs
  split
  · exact written_writeAs _ _ _ _ _ (natRun_sound ..)
  · exact .refl s

theorem written_putCoreWord (s : State) (n asid : Nat) (va v : W64) : State.Written s (s.putCoreWord n asid va v) := by
  unfold State.putCoreWord
  split
  · exact written_write _ _ _ _ (natRun_sound ..)
  · exact .refl s

theorem written_putOut (s : State) (n asid : Nat) (va : W64) (out : Nat) : State.Written s (s.putOut n asid va out) := by
  unfold State.putOut
  split
  · exact written_write _ _ _ _ (natRun_sound ..)
  · exact .refl s

theorem written_foldl {α : Type} (f : State → α → State) (h : ∀ s a, State.Written s (f s a)) (l : List α) (s : State) :
    State.Written s (l.foldl f s) := by
  induction l generalizing s with
  | nil => exact .refl s
  | cons a r ih => exact (h s a).trans (ih _)

theorem written_spillAt (s : State) (base : W64) (slot : Nat) (r : Rec) : State.Written s (s.spillAt base slot r) :=
  written_foldl _ (fun _ _ => written_hwWriteAs ..) _ _

theorem written_spill (s : State) (q : ContQ) (base : W64) (r : Rec) : State.Written s (s.spill q base r) := by
  unfold State.spill
  split
  · exact .refl s
  · exact written_spillAt ..

/-! ## The release of parked strands -/

/-- `t` differs from `s` at most in what accesses by hardware on a strand's behalf change: what writes of sound bytes change, and the
parked strands and the records in quad queues or held that their release moves. -/
structure State.Aside (s t : State) : Prop where
  cur : t.cur = s.cur
  fields : t.fields = s.fields
  sheaves : t.sheaves = s.sheaves
  idle : ∀ n, (∀ i, (s.core n).hold ≠ .access i) → t.core n = s.core n
  ending : ∀ n, (t.core n).ending = (s.core n).ending

theorem State.Aside.refl (s : State) : State.Aside s s := ⟨rfl, rfl, rfl, fun _ _ => rfl, fun _ => rfl⟩

theorem State.Aside.trans {s t u : State} (h : State.Aside s t) (k : State.Aside t u) : State.Aside s u where
  cur := k.cur.trans h.cur
  fields := k.fields.trans h.fields
  sheaves := k.sheaves.trans h.sheaves
  idle := fun n hn => (k.idle n (by rw [h.idle n hn]; exact hn)).trans (h.idle n hn)
  ending := fun n => (k.ending n).trans (h.ending n)

theorem State.Written.aside {s t : State} (h : State.Written s t) : State.Aside s t :=
  ⟨h.cur, h.fields, h.sheaves, h.idle, h.ending⟩

/-- What a push by hardware leaves: the record is held, or it is in its quad's queue, and its words lie in the ring where it spills. -/
theorem State.pushHard_cases (s : State) (quad : Nat) (r : Rec) :
    s.pushHard quad r = { s with held := s.held ++ [⟨quad, r⟩] } ∨
    ∃ q, (s.quad quad).contq.push quadChip (s.qlen r.ref) r = some q ∧
      s.pushHard quad r = (s.setQuad quad { s.quad quad with contq := q }).spill q (s.quadRing quad r.ref) r := by
  unfold State.pushHard State.pushQuad
  split
  · exact .inl rfl
  · cases h : (s.quad quad).contq.push quadChip (s.qlen r.ref) r with
    | none => left; dsimp only; rw [h]; rfl
    | some q => refine .inr ⟨q, rfl, ?_⟩; dsimp only; rw [h]; rfl

theorem aside_pushHard (s : State) (quad : Nat) (r : Rec) : State.Aside s (s.pushHard quad r) := by
  rcases s.pushHard_cases quad r with h | ⟨q, -, h⟩ <;> rw [h]
  · exact ⟨rfl, rfl, rfl, fun _ _ => rfl, fun _ => rfl⟩
  · have hq : State.Aside s (s.setQuad quad { s.quad quad with contq := q }) := ⟨rfl, rfl, rfl, fun _ _ => rfl, fun _ => rfl⟩
    exact hq.trans (written_spill ..).aside

/-- The release of a parked strand: its save area is written, it is parked no more, and a record of its node is pushed. -/
theorem State.unpark_cases (s : State) (p : Parked) (out : Nat) (val : W64) (prio : Nat) :
    ∃ (u : State) (x : Rec), State.Written s u ∧ x.ref = p.ref ∧
      s.unpark p out val prio = { u with parked := u.parked.filter (·.id != p.id) }.pushHard (nQuad p.core) x :=
  ⟨_, _, (written_putOut ..).trans (written_putCoreWord ..), rfl, rfl⟩

theorem aside_unpark (s : State) (p : Parked) (out : Nat) (val : W64) (prio : Nat) : State.Aside s (s.unpark p out val prio) := by
  obtain ⟨u, x, hu, -, h⟩ := s.unpark_cases p out val prio
  rw [h]
  have hf : State.Aside u { u with parked := u.parked.filter (·.id != p.id) } := ⟨rfl, rfl, rfl, fun _ _ => rfl, fun _ => rfl⟩
  exact hu.aside.trans (hf.trans (aside_pushHard ..))

theorem aside_releaseAll (s : State) (ids : List Nat) (out : Nat) (val : W64) (prio : Nat) : State.Aside s (s.releaseAll ids out val prio) := by
  unfold State.releaseAll
  induction ids generalizing s with
  | nil => exact .refl s
  | cons i r ih =>
    rw [List.foldl_cons]
    refine .trans ?_ (ih _)
    split
    · exact aside_unpark ..
    · exact .refl s

/-! ## Completing -/

/-- A result that completes its instruction, with its core as given. -/
theorem wrote_result_of (s : State) (c : Core) (d : Reg) (v : W64) : Wrote (s.setMe c) (s.result c d v) d v := by
  have h := wrote_result (s.setMe c) d v
  rwa [State.me_setMe, State.result, State.finish, State.setMe_setMe] at h

end Sys2Proof.Machine

/-! R39, R40, R42, R43, R52: an instruction that performs at once at its core's port, and a strand that parks. -/

namespace Sys2Proof.Machine

/-! ## Accesses that perform at once -/

/-- No access of the core waits for its translation any more. -/
theorem State.me_near (s : State) (va : W64) : (s.near va).me = { s.me with tried := none } := by
  have hm : ∀ u : State, u.untried.me = { u.me with tried := none } := by
    intro u
    unfold State.untried
    split
    · exact State.me_setMe ..
    · next h => rw [← Option.not_isSome_iff_eq_none.mp h]
  have hr : (s.refill (s.portWho s.cur) va).me = s.me := by
    unfold State.refill
    split
    · rfl
    · split <;> rfl
  rw [State.near, hm, hr]

/-- The state that an access finds differs from the state before in the core's stream entry and what the core waits for. -/
theorem State.near_eq (s : State) (va : W64) : ∃ l c, s.near va = { s with streams := l, cores := c } := by
  have hu : ∀ u : State, ∃ c, u.untried = { u with cores := c } := by
    intro u
    unfold State.untried
    split
    · exact ⟨_, rfl⟩
    · exact ⟨_, rfl⟩
  have hr : ∃ l, s.refill (s.portWho s.cur) va = { s with streams := l } := by
    unfold State.refill
    split
    · exact ⟨_, rfl⟩
    · split <;> exact ⟨_, rfl⟩
  obtain ⟨l, hl⟩ := hr
  obtain ⟨c, hc⟩ := hu { s with streams := l }
  exact ⟨l, c, by rw [State.near, hl, hc]⟩

theorem State.near_cur (s : State) (va : W64) : (s.near va).cur = s.cur := by
  obtain ⟨l, c, h⟩ := s.near_eq va; rw [h]

theorem State.near_parked (s : State) (va : W64) : (s.near va).parked = s.parked := by
  obtain ⟨l, c, h⟩ := s.near_eq va; rw [h]

/-- An instruction that reaches its bytes at once goes on with them. -/
theorem State.reach_atOnce {s : State} {c : Core} {va : W64} {n acc pa : Nat} {trc fmt : Bool} (k : State → Nat → Bool → State)
    (hc : c.port = s.me.port) (h : (s.near va).atOnce va n acc pa trc fmt) : s.reach c va n acc k = k (s.near va) pa trc := by
  obtain ⟨ht, hw, hu, hp, hs⟩ := h
  have hany : c.port.any (fun b => !b.performed && (b.acq || b.overlaps { mkAccess .ld va n 0 with pa := pa })) = false := by
    rw [List.any_eq_false]
    intro b hb
    rw [hc] at hb
    have hb' : b ∈ (s.near va).me.port := by rw [State.me_near]; exact hb
    rcases hp b hb' with h | ⟨h1, h2⟩
    · simp [h]
    · simp only [h1, h2, Bool.or_self, Bool.and_false, Bool.false_eq_true, not_false_eq_true]
  have hpo : (acc != 1 && (s.near va).poisonRun pa n) = false := by
    rcases hs with h | h
    · simp [h]
    · simp [h]
  have hcur : (s.near va).cur = s.cur := s.near_cur va
  unfold State.reach
  simp only [show (s.refill (s.portWho s.cur) va).untried = s.near va from rfl, ht, hw, hu, hany, hpo, Bool.or_self, Bool.false_eq_true, if_false]

/-! ## Parking -/

theorem saveRun_sound (c : Core) (kind : Nat) (obj : W64) (d : Reg) (t : Strand) : (saveRun c kind obj d t).any (·.2) = false := by
  simp only [saveRun, List.any_append, List.any_flatMap, natRun_sound, Bool.or_false, List.any_eq_false]
  simp

theorem any_take_false {α : Type} {p : α → Bool} {l : List α} (n : Nat) (h : l.any p = false) : (l.take n).any p = false := by
  rw [List.any_eq_false] at *
  exact fun x hx => h x (List.mem_of_mem_take hx)

theorem any_drop_false {α : Type} {p : α → Bool} {l : List α} (n : Nat) (h : l.any p = false) : (l.drop n).any p = false := by
  rw [List.any_eq_false] at *
  exact fun x hx => h x (List.mem_of_mem_drop hx)

/-- A strand that parks leaves its core idle, and waits behind the strands parked before (R39). -/
theorem State.park_parks (s : State) (c : Core) (lo hi : Nat × Bool) (kind : Nat) (obj : W64) (d : Reg) (t : Strand) :
    ∃ p : Parked, (s.park s.cur c lo hi kind obj d t).me = c.idle ∧ (s.park s.cur c lo hi kind obj d t).parked = s.parked ++ [p] ∧
      p.save = c.get 1 ∧ p.core = s.cur ∧ p.ref = t.ref ∧ p.fget = (kind == 2) ∧ p.obj = obj := by
  have h1 := written_write s lo.1 ((saveRun c kind obj d t).take 32) ⟨0, 0, s.cur, lo.2, 0⟩ (any_take_false 32 (saveRun_sound ..))
  have h2 := h1.trans (written_write _ hi.1 ((saveRun c kind obj d t).drop 32) ⟨0, 0, s.cur, hi.2, 0⟩ (any_drop_false 32 (saveRun_sound ..)))
  refine ⟨_, ?_, congrArg (· ++ _) h2.parked, rfl, rfl, rfl, rfl, rfl⟩
  simp only [State.park, State.me, State.setCore_cur]
  rw [h2.cur, State.core_setCore]

/-- A strand whose save area its port reaches at once goes on to park: the halves lie where they are translated. -/
theorem State.reachSave_atOnce {s : State} {c : Core} {lo hi : Nat} {ltrc lfmt htrc hfmt : Bool}
    (k : State → Nat × Bool → Nat × Bool → State) (hc : c.port = s.me.port)
    (hlo : (s.near (c.get 1)).atOnce (c.get 1) 32 1 lo ltrc lfmt)
    (hhi : ((s.near (c.get 1)).near (c.get 1 + 32)).atOnce (c.get 1 + 32) 32 1 hi htrc hfmt) :
    s.reachSave c k = k ((s.near (c.get 1)).near (c.get 1 + 32)) (lo, ltrc) (hi, htrc) := by
  rw [State.reachSave, State.reach_atOnce _ hc hlo, State.reach_atOnce _ (by rw [State.me_near]; exact hc) hhi]

end Sys2Proof.Machine

/-! R44 to R48, R53, R108, R314, R317, R319, R338, R339: futures and rendezvous points. -/

namespace Sys2Proof.Machine

/-! ## Handles -/

/-- The fields of a handle decide whether it is stale (R45). -/
theorem State.stale_iff (s : State) (w : Nat) (h : W64) :
    s.stale w h = true ↔ h.toNat / 2 ^ 32 ≠ 0 ∨ s.fieldOn w (h.toNat / 2 ^ 25 % 128) = false ∨ h.toNat / 2 ^ 9 % 2 ^ 16 = 0 ∨
      (s.fut w h).st = .free ∨ h.toNat % 512 ≠ (s.fut w h).gen.toNat := by
  simp only [State.stale, Bool.or_eq_true, bne_iff_ne, beq_iff_eq, Bool.not_eq_true', hField, hEntry, hGen, or_assoc]
  rw [bits_top h (by decide), bits_eq h 31 25, bits_eq h 24 9, bits_low h 8]
  exact Iff.rfl

/-- The entry of a handle depends on the futures of fields alone. -/
theorem State.fut_congr {s t : State} (h : t.fields = s.fields) (w : Nat) (v : W64) : t.fut w v = s.fut w v := by
  simp only [State.fut, State.field, h]

@[simp] theorem State.fut_setFut (s : State) (w : Nat) (h : W64) (f : Fut) : (s.setFut w h f).fut w h = f := by
  simp [State.fut, State.setFut]

/-! ## What a set, failed or freed entry and a turned point release -/

/-- A trap changes the core that takes it alone. -/
theorem State.trapOn_eq_setCore (s : State) (n cause : Nat) (v : W64) : ∃ c, s.trapOn n cause v = s.setCore n c := by
  simp only [State.trapOn]
  split <;> exact ⟨_, rfl⟩

/-- What ends the waits of cores on an entry or a point: `t` differs from `s` in cores that wait alone. -/
structure State.Woken (s t : State) : Prop where
  fields : t.fields = s.fields
  cur : t.cur = s.cur
  points : t.points = s.points
  free : ∀ n, (s.core n).hold = .none → t.core n = s.core n

/-- A loop over cores that leaves each that waits on nothing as it was. -/
theorem woken_foldl (f : State → Nat → State) (h : ∀ s n, f s n = s ∨ (s.core n).hold ≠ .none ∧ ∃ c, f s n = s.setCore n c)
    (l : List Nat) (s : State) : State.Woken s (l.foldl f s) := by
  induction l generalizing s with
  | nil => exact ⟨rfl, rfl, rfl, fun _ _ => rfl⟩
  | cons n r ih =>
    rw [List.foldl_cons]
    have ih := ih (f s n)
    rcases h s n with e | ⟨hn, c, e⟩ <;> rw [e] at ih ⊢
    · exact ih
    · have keep : ∀ m, (s.core m).hold = .none → (s.setCore n c).core m = s.core m := fun m hm =>
        State.core_setCore_ne _ _ _ _ fun e => hn (e ▸ hm)
      exact ⟨ih.fields, ih.cur, ih.points, fun m hm => (ih.free m (by rw [keep m hm]; exact hm)).trans (keep m hm)⟩

theorem woken_wakeFwait (s : State) (h : W64) (w : Nat) (v : Option W64) : State.Woken s (s.wakeFwait h w v) := by
  refine woken_foldl _ (fun s n => ?_) _ s
  dsimp only
  split
  case h_2 => exact .inl rfl
  next hd =>
    have hn : (s.core n).hold ≠ .none := by rw [hd]; nofun
    split
    case isFalse => exact .inl rfl
    split
    · exact .inr ⟨hn, _, rfl⟩
    · obtain ⟨c, hc⟩ := (s.setCore n (s.core n).unhold).trapOn_eq_setCore n causeFailed h
      exact .inr ⟨hn, c, by rw [hc]; simp [State.setCore]⟩

theorem woken_wakeBwait (s : State) (k : Nat) (par : Bool) : State.Woken s (s.wakeBwait k par) := by
  refine woken_foldl _ (fun s n => ?_) _ s
  dsimp only
  split
  case h_2 => exact .inl rfl
  next hd =>
    split
    · exact .inr ⟨by rw [hd]; nofun, _, rfl⟩
    · exact .inl rfl

/-- An entry's new state stands, and the core that puts it, which waits on nothing, goes on as it was, once its waiters are released. -/
theorem settled_entry {s : State} (h : W64) (w : Nat) (f : Fut) (ids : List Nat) (out : Nat) (val : W64) (prio : Nat) (v : Option W64)
    (hn : s.me.hold = .none) :
    let t := ((s.setFut w h f).releaseAll ids out val prio).wakeFwait h w v
    t.fut w h = f ∧ t.cur = s.cur ∧ t.me = s.me := by
  have ha := aside_releaseAll (s.setFut w h f) ids out val prio
  have hw := woken_wakeFwait ((s.setFut w h f).releaseAll ids out val prio) h w v
  have hm : ((s.setFut w h f).releaseAll ids out val prio).core s.cur = s.me :=
    ha.idle s.cur fun i hi => by
      have : s.me.hold = .access i := hi
      rw [hn] at this
      cases this
  refine ⟨?_, hw.cur.trans ha.cur, ?_⟩
  · rw [State.fut_congr (hw.fields.trans ha.fields), State.fut_setFut]
  · rw [State.me, hw.cur.trans ha.cur]
    exact (hw.free s.cur (by rw [hm]; exact hn)).trans hm

/-! ## FSET, FSET.F and FFREE -/

section
variable {s : State} {a b d : Reg}

/-- A future instruction that is given a stale handle traps (R45). -/
theorem exec_fget_stale (hr : s.me.ready [a] d = true) (hs : s.stale (nWafer s.cur) (s.me.get a) = true) :
    exec (.fget d a) s = .next (s.trap causeStale (s.me.get a)) := by
  simp only [exec, execFget, State.issue_ready (srcs := [(a, false)]) _ hr, hs, if_true]

theorem exec_fwait_stale (hr : s.me.ready [a] d = true) (hs : s.stale (nWafer s.cur) (s.me.get a) = true) :
    exec (.fwait d a) s = .next (s.trap causeStale (s.me.get a)) := by
  simp only [exec, execFwait, State.issue_ready (srcs := [(a, false)]) _ hr, hs, if_true]

theorem futSet_stale (ok : Bool) (hr : s.me.ready [a, b] 0 = true) (hs : s.stale (nWafer s.cur) (s.me.get a) = true) :
    s.futSet a b ok = s.trap causeStale (s.me.get a) := by
  simp only [State.futSet, State.issue_ready (srcs := [(a, false), (b, false)]) _ hr, hs, if_true]

theorem exec_ffree_stale (hr : s.me.ready [a] 0 = true) (hs : s.stale (nWafer s.cur) (s.me.get a) = true) :
    exec (.ffree a) s = .next (s.trap causeStale (s.me.get a)) := by
  simp only [exec, execFfree, State.issue_ready (srcs := [(a, false)]) _ hr, hs, if_true]

/-- FSET waits until FENCE.rel at wafer scope completes. -/
theorem futSet_unfenced (ok : Bool) (hr : s.me.ready [a, b] 0 = true) (hs : s.stale (nWafer s.cur) (s.me.get a) = false)
    (hf : s.me.fenced 3 = false) : s.futSet a b ok = s.setMe { s.me with wait := none } := by
  simp only [State.futSet, State.issue_ready (srcs := [(a, false), (b, false)]) _ hr, hs, hf, Bool.false_eq_true, if_false, Bool.not_false, if_true]

/-- The state of an FSET whose release has completed, before its core goes on. -/
def State.futDone (s : State) (h : W64) (e : Fut) (ok : Bool) (v : W64) : State :=
  let w := nWafer s.cur
  ((s.setFut w h { e with st := if ok then .set else .failed, val := v, waiters := [] }).releaseAll e.waiters (if ok then 0 else 1) v
    s.me.prio).wakeFwait h w (if ok then some v else none)

/-- The state of an FFREE, before its core goes on. -/
def State.futFreed (s : State) (h : W64) : State :=
  let w := nWafer s.cur
  let e := s.fut w h
  ((s.setFut w h { e with st := .free, gen := e.gen + 1, waiters := [] }).releaseAll e.waiters 1 0 0).wakeFwait h w none

/-- The core that has completed an instruction. -/
theorem State.me_finish (s : State) (c : Core) : (s.finish c).me = { c with pc := c.pc + 4, wait := none } := State.me_setMe ..

theorem State.fut_finish (s : State) (c : Core) (w : Nat) (h : W64) : (s.finish c).fut w h = s.fut w h := rfl

theorem futSet_fenced (ok : Bool) (hr : s.me.ready [a, b] 0 = true) (hs : s.stale (nWafer s.cur) (s.me.get a) = false)
    (hp : (s.fut (nWafer s.cur) (s.me.get a)).st = .pending) (hf : s.me.fenced 3 = true) :
    let u := (s.setMe (s.me.relFence 3)).futDone (s.me.get a) (s.fut (nWafer s.cur) (s.me.get a)) ok (if ok then s.me.get b else 0)
    s.futSet a b ok = u.finish u.me := by
  have hp' : (((s.setMe (s.me.relFence 3)).fut (nWafer s.cur) (s.me.get a)).st != .pending) = false := by
    rw [bne_eq_false_iff_eq]; exact hp
  have hm : (s.setMe (s.me.relFence 3)).me.prio = s.me.prio := by rw [State.me_setMe]; rfl
  simp only [State.futSet, State.issue_ready (srcs := [(a, false), (b, false)]) _ hr, hs, hf, hp', Bool.not_true, Bool.false_eq_true, if_false,
    State.futDone, hm]
  rfl

/-- FSET and FSET.F of a pending entry leave its new state, and the core past the instruction with its release (R46). -/
theorem futSet_pending (ok : Bool) (hr : s.me.ready [a, b] 0 = true) (hn : s.me.hold = .none)
    (hs : s.stale (nWafer s.cur) (s.me.get a) = false) (hp : (s.fut (nWafer s.cur) (s.me.get a)).st = .pending)
    (hf : s.me.fenced 3 = true) :
    let w := nWafer s.cur
    let h := s.me.get a
    (s.futSet a b ok).fut w h = ⟨if ok then s.me.get b else 0, if ok then .set else .failed, (s.fut w h).gen, []⟩ ∧
      (s.futSet a b ok).me = { s.me.relFence 3 with pc := (s.me.relFence 3).pc + 4, wait := none } := by
  intro w h
  obtain ⟨h1, h2, h3⟩ := settled_entry (s := s.setMe (s.me.relFence 3)) h w
    ⟨if ok then s.me.get b else 0, if ok then .set else .failed, (s.fut w h).gen, []⟩ (s.fut w h).waiters (if ok then 0 else 1)
    (if ok then s.me.get b else 0) (s.setMe (s.me.relFence 3)).me.prio (if ok then some (if ok then s.me.get b else 0) else none)
    (by rw [State.me_setMe]; exact hn)
  rw [futSet_fenced ok hr hs hp hf, State.fut_finish, State.me_finish]
  refine ⟨h1, congrArg (fun c : Core => { c with pc := c.pc + 4, wait := none }) (h3.trans (State.me_setMe ..))⟩

theorem exec_ffree_fresh (hr : s.me.ready [a] 0 = true) (hs : s.stale (nWafer s.cur) (s.me.get a) = false) :
    let u := s.futFreed (s.me.get a)
    exec (.ffree a) s = .next (u.finish u.me) := by
  simp only [exec, execFfree, State.issue_ready (srcs := [(a, false)]) _ hr, hs, Bool.false_eq_true, if_false, State.futFreed]

/-- FFREE frees its entry and steps its generation (R46). -/
theorem exec_ffree_frees (hr : s.me.ready [a] 0 = true) (hn : s.me.hold = .none) (hs : s.stale (nWafer s.cur) (s.me.get a) = false) :
    let w := nWafer s.cur
    let h := s.me.get a
    let e := s.fut w h
    ∃ t, exec (.ffree a) s = .next t ∧ t.fut w h = ⟨e.val, .free, e.gen + 1, []⟩ ∧ t.me = { s.me with pc := s.me.pc + 4, wait := none } := by
  intro w h e
  obtain ⟨h1, h2, h3⟩ := settled_entry h w ⟨e.val, .free, e.gen + 1, []⟩ e.waiters 1 0 0 none hn
  refine ⟨_, exec_ffree_fresh hr hs, h1, ?_⟩
  rw [State.me_finish]
  exact congrArg (fun c : Core => { c with pc := c.pc + 4, wait := none }) h3

end

/-- Settles O14: the fields of a handle decide, each instruction checks them first, and FFREE steps the generation in its table. -/
theorem staleHandles : Obligations.StaleHandles := by
  unfold Obligations.StaleHandles
  intro s d a b h w e
  refine ⟨s.stale_iff w h, fun hs hh _ => ?_, fun hs hn hr => ?_⟩
  · have trap : s.trap causeStale h = s.trapped causeStale s.me.pc h := State.trap_handles _ _ hh
    refine ⟨fun hr => ⟨?_, ?_⟩, fun hr => ⟨?_, ?_⟩, fun hr => ?_⟩
    · exact (exec_fget_stale hr hs).trans (congrArg _ trap)
    · exact (exec_fwait_stale hr hs).trans (congrArg _ trap)
    · exact congrArg _ ((futSet_stale true hr hs).trans trap)
    · exact congrArg _ ((futSet_stale false hr hs).trans trap)
    · exact (exec_ffree_stale hr hs).trans (congrArg _ trap)
  · obtain ⟨t, ht, hf, -⟩ := exec_ffree_frees hr hn hs
    refine ⟨t, ht, ?_⟩
    rw [hf]
    simp [BitVec.toNat_add, e, w, h]

/-! ## FNEW, FGET and FWAIT -/

/-- The entry that a search of a table finds is free (R46). -/
theorem freeFrom_free (m : Map Fut) (e k : Nat) (h : freeFrom m e k ≠ 0) : (mget m (freeFrom m e k) resetFut).st = .free := by
  induction k generalizing e with
  | zero => exact absurd rfl h
  | succ k ih =>
    simp only [freeFrom] at h ⊢
    split
    · next hf => exact beq_iff_eq.mp hf
    · next hf => rw [if_neg hf] at h; exact ih _ h

section
variable {s : State} {a d : Reg}

theorem exec_fnew_discarded (hr : s.me.ready [] 0 = true) : exec (.fnew 0) s = .next s.past := by
  simp only [exec, execFnew, State.issue_ready (srcs := []) _ hr, if_true, State.finish_me]

theorem exec_fnew_full (hr : s.me.ready [] d = true) (hd : d ≠ 0) (he : anyFree (s.field (nField s.cur)).futs (Config.freeEntry s.tick) = 0) :
    exec (.fnew d) s = .next (s.result s.me d 0) := by
  simp only [exec, execFnew, State.issue_ready (srcs := []) _ hr, hd, he, if_false, if_true]

theorem exec_fnew_takes (hr : s.me.ready [] d = true) (hd : d ≠ 0)
    (he : anyFree (s.field (nField s.cur)).futs (Config.freeEntry s.tick) ≠ 0) :
    let k := nField s.cur
    let f := s.field k
    let e := anyFree f.futs (Config.freeEntry s.tick)
    let u := mget f.futs e resetFut
    exec (.fnew d) s = .next ((s.setField k { f with futs := mput f.futs e { u with st := .pending, val := 0, waiters := [] } }).result
      s.me.learnt d (mkHandle (k % 128) e u.gen.toNat)) := by
  simp only [exec, execFnew, State.issue_ready (srcs := []) _ hr, hd, he, if_false]

/-- FGET and FWAIT of a failed entry trap. -/
theorem exec_fget_failed (hr : s.me.ready [a] d = true) (hs : s.stale (nWafer s.cur) (s.me.get a) = false)
    (he : (s.fut (nWafer s.cur) (s.me.get a)).st = .failed) : exec (.fget d a) s = .next (s.trap causeFailed (s.me.get a)) := by
  simp only [exec, execFget, State.issue_ready (srcs := [(a, false)]) _ hr, hs, he, Bool.false_eq_true, if_false, beq_self_eq_true, if_true]

theorem exec_fwait_failed (hr : s.me.ready [a] d = true) (hs : s.stale (nWafer s.cur) (s.me.get a) = false)
    (he : (s.fut (nWafer s.cur) (s.me.get a)).st = .failed) : exec (.fwait d a) s = .next (s.trap causeFailed (s.me.get a)) := by
  simp only [exec, execFwait, State.issue_ready (srcs := [(a, false)]) _ hr, hs, he, Bool.false_eq_true, if_false, beq_self_eq_true, if_true]

/-- FGET and FWAIT wait for the core's earlier reads (R108). -/
theorem exec_fget_unacquired (hr : s.me.ready [a] d = true) (hs : s.stale (nWafer s.cur) (s.me.get a) = false)
    (he : (s.fut (nWafer s.cur) (s.me.get a)).st ≠ .failed) (hq : s.me.acquired = false) :
    exec (.fget d a) s = .next (s.setMe { s.me with wait := none }) := by
  simp only [exec, execFget, State.issue_ready (srcs := [(a, false)]) _ hr, hs, hq, beq_eq_false_iff_ne.mpr he, Bool.false_eq_true, if_false,
    Bool.not_false, if_true]

theorem exec_fwait_unacquired (hr : s.me.ready [a] d = true) (hs : s.stale (nWafer s.cur) (s.me.get a) = false)
    (he : (s.fut (nWafer s.cur) (s.me.get a)).st ≠ .failed) (hq : s.me.acquired = false) :
    exec (.fwait d a) s = .next (s.setMe { s.me with wait := none }) := by
  simp only [exec, execFwait, State.issue_ready (srcs := [(a, false)]) _ hr, hs, hq, beq_eq_false_iff_ne.mpr he, Bool.false_eq_true, if_false,
    Bool.not_false, if_true]

/-- FGET and FWAIT of a set entry read its value, with FENCE.acq at wafer scope. -/
theorem exec_fget_set (hr : s.me.ready [a] d = true) (hs : s.stale (nWafer s.cur) (s.me.get a) = false)
    (he : (s.fut (nWafer s.cur) (s.me.get a)).st = .set) (hq : s.me.acquired = true) :
    exec (.fget d a) s = .next (s.result s.me.acquire d (s.fut (nWafer s.cur) (s.me.get a)).val) := by
  simp only [exec, execFget, State.issue_ready (srcs := [(a, false)]) _ hr, hs, he, hq]
  rfl

theorem exec_fwait_set (hr : s.me.ready [a] d = true) (hs : s.stale (nWafer s.cur) (s.me.get a) = false)
    (he : (s.fut (nWafer s.cur) (s.me.get a)).st = .set) (hq : s.me.acquired = true) :
    exec (.fwait d a) s = .next (s.result s.me.acquire d (s.fut (nWafer s.cur) (s.me.get a)).val) := by
  simp only [exec, execFwait, State.issue_ready (srcs := [(a, false)]) _ hr, hs, he, hq]
  rfl

/-- FGET of a pending entry goes on to park; FWAIT holds the core, its destination empty. -/
theorem exec_fget_pending (hr : s.me.ready [a] d = true) (hs : s.stale (nWafer s.cur) (s.me.get a) = false)
    (he : (s.fut (nWafer s.cur) (s.me.get a)).st = .pending) (hq : s.me.acquired = true) :
    exec (.fget d a) s = .next (s.futPark s.me (s.me.get a) d) := by
  simp only [exec, execFget, State.issue_ready (srcs := [(a, false)]) _ hr, hs, he, hq]
  rfl

theorem exec_fwait_pending (hr : s.me.ready [a] d = true) (hs : s.stale (nWafer s.cur) (s.me.get a) = false)
    (he : (s.fut (nWafer s.cur) (s.me.get a)).st = .pending) (hq : s.me.acquired = true) :
    exec (.fwait d a) s = .next (s.setMe { s.me.mkEmpty d with
      hold := .fwait (s.me.get a) d (s.me.isFull d), wait := some (s.now s.cur) }) := by
  simp only [exec, execFwait, State.issue_ready (srcs := [(a, false)]) _ hr, hs, he, hq]
  rfl

end

/-- A strand parks on an entry: outside trap mode, with x1 at a save area that its core's port reaches at once (R39, R46). -/
theorem futPark_parks {s : State} {st : Strand} {h : W64} {lo hi : Nat} {ltrc lfmt htrc hfmt : Bool} (d : Reg) (htm : s.me.tm = false)
    (h1 : s.me.isFull 1 = true) (hx : (s.me.get 1).toNat % 32 = 0) (hst : s.me.strand = some st)
    (hlo : (s.near (s.me.get 1)).atOnce (s.me.get 1) 32 1 lo ltrc lfmt)
    (hhi : ((s.near (s.me.get 1)).near (s.me.get 1 + 32)).atOnce (s.me.get 1 + 32) 32 1 hi htrc hfmt) :
    ∃ p : Parked, (s.futPark s.me h d).me = s.me.idle ∧ (s.futPark s.me h d).parked = s.parked ++ [p] ∧ p.save = s.me.get 1 ∧
      p.core = s.cur ∧ p.ref = st.ref ∧ p.fget = true ∧ p.obj = h := by
  have hb : (bits (s.me.get 1) 4 0 != 0) = false := by rw [bits_low, bne_eq_false_iff_eq]; exact hx
  simp only [State.futPark, htm, h1, hb, hst, State.reachSave_atOnce _ rfl hlo hhi, Bool.not_true, Bool.false_eq_true, if_false]
  generalize hu : (s.near (s.me.get 1)).near (s.me.get 1 + 32) = u
  have hc : u.cur = s.cur := by rw [← hu, State.near_cur, State.near_cur]
  have hp : u.parked = s.parked := by rw [← hu, State.near_parked, State.near_parked]
  -- the state once the save area has joined the entry's list: only memory and the entry have changed
  have key : ∀ v : State, v.cur = s.cur → v.parked = s.parked →
      ∃ p : Parked, (v.park v.cur s.me (lo, ltrc) (hi, htrc) 2 h d st).me = s.me.idle ∧
        (v.park v.cur s.me (lo, ltrc) (hi, htrc) 2 h d st).parked = s.parked ++ [p] ∧ p.save = s.me.get 1 ∧
        p.core = s.cur ∧ p.ref = st.ref ∧ p.fget = true ∧ p.obj = h := by
    intro v hvc hvp
    obtain ⟨p, h1, h2, h3, h4, h5⟩ := v.park_parks s.me (lo, ltrc) (hi, htrc) 2 h d st
    exact ⟨p, h1, hvp ▸ h2, h3, h4.trans hvc, h5⟩
  split
  · next p _ =>
    have hw := written_putCoreWord u p.core p.asid (p.save + 8) (s.me.get 1)
    exact key _ (hw.cur.trans hc) (hw.parked.trans hp)
  · exact key _ hc hp

theorem futuresRead : Pieces.FuturesRead := by
  unfold Pieces.FuturesRead
  intro s d a
  refine ⟨fun hr => ?_, fun hr => ?_⟩
  · intro k f e
    refine ⟨?_, fun he => ?_, fun hd he => ⟨freeFrom_free _ _ _ he, _, exec_fnew_takes hr hd he, wrote_result_of ..⟩⟩
    · rintro rfl; exact exec_fnew_discarded hr
    · by_cases hd : d = 0
      · subst hd; exact ⟨_, exec_fnew_discarded hr, wrote_result s 0 0⟩
      · exact ⟨_, exec_fnew_full hr hd he, wrote_result ..⟩
  · intro h w e hs
    refine ⟨fun he hq i hi => ?_, fun he hq => ?_, fun he hh => ?_, fun he hq => ⟨?_, ?_⟩⟩
    · simp only [List.mem_cons, List.not_mem_nil, or_false] at hi
      rcases hi with rfl | rfl
      · exact exec_fget_unacquired hr hs he hq
      · exact exec_fwait_unacquired hr hs he hq
    · exact ⟨⟨_, exec_fget_set hr hs he hq, wrote_result_of ..⟩, _, exec_fwait_set hr hs he hq, wrote_result_of ..⟩
    · have trap : s.trap causeFailed h = s.trapped causeFailed s.me.pc h := State.trap_handles _ _ hh
      exact ⟨(exec_fget_failed hr hs he).trans (congrArg _ trap), (exec_fwait_failed hr hs he).trans (congrArg _ trap)⟩
    · exact exec_fwait_pending hr hs he hq
    · intro htm h1 hx st lo ltrc lfmt hi htrc hfmt hst hlo hhi
      obtain ⟨p, hp⟩ := futPark_parks d htm h1 hx hst hlo hhi
      exact ⟨_, p, exec_fget_pending hr hs he hq, hp⟩

theorem futuresSetAndFree : Pieces.FuturesSetAndFree := by
  unfold Pieces.FuturesSetAndFree
  intro s a b hr hn h w e ends
  have hra : s.me.ready [a] 0 = true := by
    simp only [Core.ready, List.all_cons, List.all_nil, Bool.and_eq_true, Bool.and_true] at hr ⊢
    exact ⟨hr.1.1, hr.2⟩
  refine ⟨fun hs he hf => ?_, fun hs hf i hi => ?_, fun hs => exec_ffree_frees hra hn hs⟩
  · exact ⟨⟨_, rfl, futSet_pending true hr hn hs he hf⟩, _, rfl, futSet_pending false hr hn hs he hf⟩
  · simp only [List.mem_cons, List.not_mem_nil, or_false] at hi
    rcases hi with rfl | rfl
    · exact congrArg _ (futSet_unfenced true hr hs hf)
    · exact congrArg _ (futSet_unfenced false hr hs hf)

/-- Settles O43: what FNEW, FGET and FWAIT read or wait for, and what FSET, FSET.F and FFREE leave of an entry. -/
theorem futures : Obligations.Futures := ⟨futuresRead, futuresSetAndFree⟩

/-! ## Rendezvous points -/

section
variable {s : State} {a b d : Reg} {st : Strand}

/-- The count of a point word's BINIT (R317). -/
theorem point_count {v : W64} (h : v.toNat < 65536) : bits v 63 16 = 0 ∧ bits v 15 0 = v.toNat := by
  rw [bits_top v (by decide), bits_low]
  exact ⟨Nat.div_eq_of_lt h, Nat.mod_eq_of_lt h⟩

theorem exec_binit_ready (hst : s.me.strand = some st) (hv : pointOk (s.me.get a) = true) (hr : s.me.ready [a, b] 0 = true)
    (h1 : 1 ≤ (s.me.get b).toNat) (h2 : (s.me.get b).toNat < 65536) (hp : mhas s.points (s.pointKey s.cur st.ref (s.me.get a)) = false) :
    exec (.binit a b) s = .next
      { s with points := mput s.points (s.pointKey s.cur st.ref (s.me.get a)) ⟨(s.me.get b).toNat, 0, false⟩ }.past := by
  obtain ⟨h63, h15⟩ := point_count h2
  have hc : (bits (s.me.get b) 63 16 != 0 || decide ((s.me.get b).toNat = 0)) = false := by
    rw [h63]
    simp only [bne_self_eq_false, Bool.false_or, decide_eq_false_iff_not]
    omega
  simp only [exec, execBinit, State.issue_ready (srcs := [(a, false), (b, false)]) _ hr, State.point, hv, hst, hp, hc, h15, Bool.not_true,
    Bool.false_eq_true, if_false]
  rfl

/-- ARRIVE counts one arrival, and reads the parity before it (R314). -/
theorem exec_arrive_released {p : Point} (hst : s.me.strand = some st) (hn : s.me.hold = .none) (hv : pointOk (s.me.get a) = true)
    (hr : s.me.ready [a] d = true) (hp : mfind s.points (s.pointKey s.cur st.ref (s.me.get a)) = some p)
    (hl : s.me.released (pointScope (s.me.get a)) = true) :
    ∃ t, exec (.arrive d a) s = .next t ∧ mfind t.points (s.pointKey s.cur st.ref (s.me.get a)) = some p.arrive ∧
      t.me.get d = (if d = 0 then 0 else truth p.parity) ∧ t.me.pc = s.me.pc + 4 := by
  have done : ∀ u : State, mfind u.points (s.pointKey s.cur st.ref (s.me.get a)) = some p.arrive → u.me = s.me →
      let t := u.result u.me.learnt d (truth p.parity)
      mfind t.points (s.pointKey s.cur st.ref (s.me.get a)) = some p.arrive ∧ t.me.get d = (if d = 0 then 0 else truth p.parity) ∧
        t.me.pc = s.me.pc + 4 := by
    intro u hu hm
    refine ⟨hu, ?_, ?_⟩
    · rw [State.result, State.me_finish]; exact Core.get_put_same ..
    · rw [State.result, State.me_finish, Core.put_eq, hm]; rfl
  simp only [exec, execArrive, State.issue_ready (srcs := [(a, false)]) _ hr, State.point, hv, hst, hp, hl, Bool.not_true,
    Bool.false_eq_true, if_false]
  refine ⟨_, rfl, done _ ?_ ?_⟩
  · split
    · rw [(woken_wakeBwait ..).points]; exact mfind_mput_same ..
    · exact mfind_mput_same ..
  · split
    · have hw := woken_wakeBwait { s with points := mput s.points (s.pointKey s.cur st.ref (s.me.get a)) p.arrive }
        (s.pointKey s.cur st.ref (s.me.get a)) p.arrive.parity
      rw [State.me, hw.cur]
      exact hw.free s.cur hn
    · rfl

/-- BWAIT reads a parity other than its own, and acquires; it holds the core while the parity is its own (R319). -/
theorem exec_bwait_turned {p : Point} (hst : s.me.strand = some st) (hv : pointOk (s.me.get a) = true) (hr : s.me.ready [a, b] d = true)
    (hp : mfind s.points (s.pointKey s.cur st.ref (s.me.get a)) = some p) (hd : p.parity ≠ (s.me.get b).getLsbD 0) :
    exec (.bwait d a b) s = .next (s.result s.me.acquire d (truth p.parity)) := by
  simp only [exec, execBwait, State.issue_ready (srcs := [(a, false), (b, false)]) _ hr, State.point, hv, hst, hp, bitAt_eq_getLsbD,
    bne_iff_ne.mpr hd, Bool.not_true, Bool.false_eq_true, if_false, if_true]

theorem exec_bwait_same {p : Point} (hst : s.me.strand = some st) (hv : pointOk (s.me.get a) = true) (hr : s.me.ready [a, b] d = true)
    (hp : mfind s.points (s.pointKey s.cur st.ref (s.me.get a)) = some p) (hd : p.parity = (s.me.get b).getLsbD 0) :
    exec (.bwait d a b) s = .next (s.setMe { s.me with
      hold := .bwait (s.pointKey s.cur st.ref (s.me.get a)) ((s.me.get b).getLsbD 0) d, wait := some (s.now s.cur) }) := by
  simp only [exec, execBwait, State.issue_ready (srcs := [(a, false), (b, false)]) _ hr, State.point, hv, hst, hp, bitAt_eq_getLsbD,
    hd, bne_self_eq_false, Bool.not_true, Bool.false_eq_true, if_false]

end

/-- Settles O15: BINIT makes the point, ARRIVE counts on it, and BWAIT compares its parity. -/
theorem rendezvousPoints : Obligations.RendezvousPoints := by
  unfold Obligations.RendezvousPoints
  intro s d a b st hst hn v k hv
  refine ⟨fun hr h1 h2 hp => exec_binit_ready hst hv hr h1 h2 hp, fun p hp => ⟨fun hr hl => ?_, fun hr => ⟨fun hd => ?_, fun hd => ?_⟩⟩⟩
  · exact exec_arrive_released hst hn hv hr hp hl
  · exact ⟨_, exec_bwait_turned hst hv hr hp hd, wrote_result_of ..⟩
  · exact exec_bwait_same hst hv hr hp hd

end Sys2Proof.Machine

/-! R38, R39, R187, R196 to R198: continuation queues, how their records move, and the strands that they start. -/

namespace Sys2Proof.Machine

/-! ## A list without the first elements of a kind -/

/-- A list without the first `k` elements of those that `p` selects. -/
def withoutFirst {α : Type} (p : α → Bool) : Nat → List α → List α
  | _, [] => []
  | 0, l => l
  | k + 1, x :: r => if p x then withoutFirst p k r else x :: withoutFirst p (k + 1) r

section
variable {α : Type} (p : α → Bool)

/-- An element that the rest are not stays in front. -/
theorem foldl_erase_cons [DecidableEq α] {x : α} (b r : List α) (h : ∀ y ∈ b, y ≠ x) :
    b.foldl List.erase (x :: r) = x :: b.foldl List.erase r := by
  induction b generalizing r with
  | nil => rfl
  | cons y b ih =>
    have hy : (x :: r).erase y = x :: r.erase y := List.erase_cons_tail (by simpa using (h y (by simp)).symm)
    rw [List.foldl_cons, hy, ih _ fun z hz => h z (List.mem_cons_of_mem _ hz), List.foldl_cons]

/-- Each of the first elements of a kind is taken out at its own place. -/
theorem foldl_erase_take_filter [DecidableEq α] (k : Nat) (l : List α) :
    ((l.filter p).take k).foldl List.erase l = withoutFirst p k l := by
  induction l generalizing k with
  | nil => simp [withoutFirst]
  | cons x r ih =>
    cases k with
    | zero => rfl
    | succ k =>
      by_cases hx : p x = true
      · simp [withoutFirst, hx, ih]
      · have hne : ∀ y ∈ (r.filter p).take (k + 1), y ≠ x := by
          rintro y hy rfl
          exact hx (List.mem_filter.mp (List.mem_of_mem_take hy)).2
        rw [List.filter_cons_of_neg hx, foldl_erase_cons _ _ hne, ih, withoutFirst, if_neg hx]

/-- Of the elements of a class in which `p` is constant, those taken out stand before those that stay. -/
theorem filter_take_append_withoutFirst (c : α → Bool) (hc : ∀ x y, c x = true → c y = true → p x = p y) (k : Nat) (l : List α) :
    ((l.filter p).take k).filter c ++ (withoutFirst p k l).filter c = l.filter c := by
  induction l generalizing k with
  | nil => simp [withoutFirst]
  | cons x r ih =>
    cases k with
    | zero => simp [withoutFirst]
    | succ k =>
      by_cases hx : p x = true
      · by_cases hcx : c x = true <;> simp [withoutFirst, hx, hcx, ih]
      · rw [List.filter_cons_of_neg hx, withoutFirst, if_neg hx]
        by_cases hcx : c x = true
        · -- no element of the class is taken out
          have hnil : ((r.filter p).take (k + 1)).filter c = [] := by
            rw [List.filter_eq_nil_iff]
            intro y hy hcy
            exact hx ((hc x y hcx hcy).trans (List.mem_filter.mp (List.mem_of_mem_take hy)).2)
          have := ih (k + 1)
          rw [hnil, List.nil_append] at this ⊢
          rw [List.filter_cons_of_pos hcx, List.filter_cons_of_pos hcx, this]
        · rw [List.filter_cons_of_neg hcx, List.filter_cons_of_neg hcx, ih]

theorem withoutFirst_of_all {l : List α} (h : ∀ x ∈ l, p x = true) (k : Nat) : withoutFirst p k l = l.drop k := by
  induction l generalizing k with
  | nil => simp [withoutFirst]
  | cons x r ih =>
    cases k with
    | zero => rfl
    | succ k => rw [withoutFirst, if_pos (h x (by simp)), ih fun y hy => h y (List.mem_cons_of_mem _ hy), List.drop_succ_cons]

/-- Where an element of the kind stays, as many as asked have been taken out. -/
theorem length_take_of_mem_withoutFirst {k : Nat} {l : List α} {x : α} (h : x ∈ withoutFirst p k l) (hx : p x = true) :
    ((l.filter p).take k).length = k := by
  induction l generalizing k with
  | nil => simp [withoutFirst] at h
  | cons y r ih =>
    cases k with
    | zero => rfl
    | succ k =>
      rw [withoutFirst] at h
      split at h
      · next hy => rw [List.filter_cons_of_pos hy, List.take_succ_cons, List.length_cons, ih h]
      · next hy =>
        rw [List.filter_cons_of_neg hy]
        rcases List.mem_cons.mp h with rfl | h
        · exact absurd hx hy
        · exact ih h

end

/-! ## Refilling and pushing (R197) -/

/-- Records of one partition are away together. -/
theorem ContQ.away_congr (q : ContQ) {x y : Rec} (h : shPartKey x.ref.sheaf = shPartKey y.ref.sheaf) : q.away x = q.away y := by
  simp only [ContQ.away, h]

theorem ContQ.away_of_none_out {q : ContQ} (h : ∀ x ∈ q.chip, x.out = false) (r : Rec) : q.away r = false := by
  rw [ContQ.away, List.any_eq_false]
  intro x hx
  simp [h x hx]

/-- The records that a refill brings on chip. -/
def ContQ.coming (q : ContQ) (cap : Nat) : List Rec := (q.ring.filter (!q.away ·)).take (cap - q.onChip)

theorem ContQ.refill_eq (q : ContQ) (cap : Nat) :
    q.refill cap = ⟨q.chip ++ q.coming cap, withoutFirst (!q.away ·) (cap - q.onChip) q.ring⟩ := by
  rw [ContQ.refill, ContQ.coming, foldl_erase_take_filter]

/-- A refill keeps the order of each partition's records. -/
theorem ContQ.refill_filter (q : ContQ) (cap part : Nat) :
    ((q.refill cap).chip ++ (q.refill cap).ring).filter (shPartKey ·.ref.sheaf == part) =
      (q.chip ++ q.ring).filter (shPartKey ·.ref.sheaf == part) := by
  have h := filter_take_append_withoutFirst (!q.away ·) (shPartKey ·.ref.sheaf == part)
    (fun x y hx hy => congrArg (!·) (q.away_congr ((beq_iff_eq.mp hx).trans (beq_iff_eq.mp hy).symm))) (cap - q.onChip) q.ring
  rw [ContQ.refill_eq, List.filter_append, List.filter_append, List.append_assoc, ContQ.coming, h, List.filter_append]

/-- While pre-emption has moved none, a refill keeps the order of all. -/
theorem ContQ.refill_append {q : ContQ} (h : ∀ x ∈ q.chip, x.out = false) (cap : Nat) :
    (q.refill cap).chip ++ (q.refill cap).ring = q.chip ++ q.ring := by
  have hp : ∀ x ∈ q.ring, (!q.away x) = true := fun x _ => by rw [ContQ.away_of_none_out h]; rfl
  rw [ContQ.refill_eq, withoutFirst_of_all _ hp, ContQ.coming, List.filter_eq_self.mpr hp, List.append_assoc, List.take_append_drop]

theorem ContQ.onChip_append (chip back ring ring' : List Rec) :
    ContQ.onChip ⟨chip ++ back, ring'⟩ = ContQ.onChip ⟨chip, ring⟩ + (back.filter (!·.out)).length := by
  simp [ContQ.onChip]

theorem ContQ.onChip_refill (q : ContQ) (cap : Nat) : (q.refill cap).onChip = q.onChip + ((q.coming cap).filter (!·.out)).length := by
  rw [ContQ.refill_eq]
  exact ContQ.onChip_append ..

/-- A refill leaves the on-chip part within its room, or as it was. -/
theorem ContQ.onChip_refill_le (q : ContQ) (cap : Nat) : (q.refill cap).onChip ≤ max cap q.onChip := by
  have h1 : ((q.coming cap).filter (!·.out)).length ≤ (q.coming cap).length := List.length_filter_le ..
  have h2 : (q.coming cap).length ≤ cap - q.onChip := List.length_take_le ..
  rw [ContQ.onChip_refill]
  omega

/-- A refill leaves in the ring records of partitions with moved ones alone, or fills the on-chip part. -/
theorem ContQ.refill_ring {q : ContQ} (h : ∀ x ∈ q.ring, x.out = false) (cap : Nat) :
    (∀ x ∈ (q.refill cap).ring, q.away x = true) ∨ cap ≤ (q.refill cap).onChip := by
  by_cases hall : ∀ x ∈ (q.refill cap).ring, q.away x = true
  · exact .inl hall
  · right
    obtain ⟨x, hx, ha⟩ : ∃ x ∈ (q.refill cap).ring, q.away x ≠ true := by simpa using hall
    rw [ContQ.refill_eq] at hx
    have hlen : (q.coming cap).length = cap - q.onChip :=
      length_take_of_mem_withoutFirst _ hx (by simpa using ha)
    have hout : (q.coming cap).filter (!·.out) = q.coming cap := by
      rw [List.filter_eq_self]
      intro y hy
      simp [h y (List.mem_filter.mp (List.mem_of_mem_take hy)).1]
    rw [ContQ.onChip_refill, hout, hlen]
    omega

theorem refilled_refill (q : ContQ) (cap : Nat) : refilled cap q (q.refill cap) :=
  ⟨q.refill_filter cap, fun h => ContQ.refill_append h cap, fun h => ContQ.refill_ring h cap⟩

/-- Where a push puts its record: on chip, or in the ring. -/
theorem ContQ.push_cases {q c : ContQ} {cap len : Nat} {r : Rec} (h : q.push cap len r = some c) :
    (((q.refill cap).onChip < cap ∧ (q.refill cap).ring = []) ∧ c = ⟨(q.refill cap).chip ++ [r], []⟩) ∨
    (¬((q.refill cap).onChip < cap ∧ (q.refill cap).ring = []) ∧ (q.refill cap).inRing < len ∧
      c = ⟨(q.refill cap).chip, (q.refill cap).ring ++ [r]⟩) := by
  simp only [ContQ.push, Bool.and_eq_true, decide_eq_true_eq, List.isEmpty_iff] at h
  split at h
  · next hroom =>
    refine .inl ⟨hroom, ?_⟩
    rw [← Option.some.inj h, hroom.2]
  · next hroom =>
    split at h
    · next hlen => exact .inr ⟨hroom, hlen, (Option.some.inj h).symm⟩
    · cases h

theorem ContQ.push_none {q : ContQ} {cap : Nat} {r : Rec} (h : q.push cap 0 r = none) :
    ¬((q.refill cap).onChip < cap ∧ (q.refill cap).ring = []) := by
  intro hroom
  simp [ContQ.push, hroom.1, hroom.2] at h

/-- All records of the pushed queue, in order, are those of the refilled one with the new one last. -/
theorem ContQ.push_append {q c : ContQ} {cap len : Nat} {r : Rec} (h : q.push cap len r = some c) :
    c.chip ++ c.ring = (q.refill cap).chip ++ (q.refill cap).ring ++ [r] := by
  rcases ContQ.push_cases h with ⟨⟨-, hr⟩, rfl⟩ | ⟨-, -, rfl⟩
  · simp [hr]
  · simp

/-- A pushed record is behind all others. -/
theorem behind_push {q c : ContQ} {cap len : Nat} {r : Rec} (h : q.push cap len r = some c) : behind q c r := by
  constructor
  · intro part
    rw [ContQ.push_append h, List.filter_append, q.refill_filter, ← List.filter_append]
  · intro ho
    rw [ContQ.push_append h, ContQ.refill_append ho]

/-- A push that finds room on chip leaves the on-chip part within it. -/
theorem ContQ.onChip_push_room {q c : ContQ} {cap len : Nat} {r : Rec} (h : q.push cap len r = some c)
    (hroom : (q.refill cap).onChip < cap ∧ (q.refill cap).ring = []) : c.onChip ≤ cap := by
  rcases ContQ.push_cases h with ⟨⟨hn, -⟩, rfl⟩ | ⟨hno, -⟩
  · have h1 : ([r].filter (!·.out)).length ≤ 1 := List.length_filter_le ..
    rw [ContQ.onChip_append (q.refill cap).chip [r] (q.refill cap).ring]
    have : ContQ.onChip ⟨(q.refill cap).chip, (q.refill cap).ring⟩ < cap := hn
    omega
  · exact absurd hroom hno

/-- A push leaves the on-chip part within its room, or as it was. -/
theorem ContQ.onChip_push_le {q c : ContQ} {cap len : Nat} {r : Rec} (h : q.push cap len r = some c) : c.onChip ≤ max cap q.onChip := by
  rcases ContQ.push_cases h with ⟨hroom, -⟩ | ⟨-, -, rfl⟩
  · exact le_trans (ContQ.onChip_push_room h hroom) (le_max_left ..)
  · exact q.onChip_refill_le cap

/-- Records of a queue and the one pushed are all there after the push. -/
theorem ContQ.mem_push {q c : ContQ} {cap len : Nat} {r x : Rec} (h : q.push cap len r = some c) (hx : x = r ∨ x ∈ q.chip ++ q.ring) :
    x ∈ c.chip ++ c.ring := by
  have hb := (behind_push h).1 (shPartKey x.ref.sheaf)
  have hm : x ∈ (q.chip ++ q.ring ++ [r]).filter (shPartKey ·.ref.sheaf == shPartKey x.ref.sheaf) := by
    refine List.mem_filter.mpr ⟨?_, by simp⟩
    rcases hx with rfl | hx
    · simp
    · exact List.mem_append_left _ hx
  rw [← hb] at hm
  exact (List.mem_filter.mp hm).1

/-- The records of a pushed queue are those of the queue before and the new one. -/
theorem ContQ.mem_of_mem_push {q c : ContQ} {cap len : Nat} {r x : Rec} (h : q.push cap len r = some c) (hx : x ∈ c.chip ++ c.ring) :
    x = r ∨ x ∈ q.chip ++ q.ring := by
  have hb := (behind_push h).1 (shPartKey x.ref.sheaf)
  have hm : x ∈ (c.chip ++ c.ring).filter (shPartKey ·.ref.sheaf == shPartKey x.ref.sheaf) := List.mem_filter.mpr ⟨hx, by simp⟩
  rw [hb] at hm
  rcases List.mem_append.mp (List.mem_filter.mp hm).1 with h | h
  · exact .inr h
  · exact .inl (List.mem_singleton.mp h)

/-! ## Promotion (R198) -/

theorem length_erase_append {α : Type} [DecidableEq α] {l : List α} {x : α} (h : x ∈ l) (y : α) : (l.erase x ++ [y]).length = l.length := by
  have := List.length_pos_of_mem h
  rw [List.length_append, List.length_erase_of_mem h, List.length_singleton]
  omega

/-- The first record with 2^16 pops rises and goes behind all others, or at level 3 keeps its place; the on-chip part keeps its length. -/
theorem ContQ.promote_of_find {q : ContQ} {r : Rec} (h : (q.chip ++ q.ring).find? (fun r => r.pops ≥ 65536) = some r) :
    q.promote.chip ++ q.promote.ring = (if r.prio < 3 then (q.chip ++ q.ring).erase r ++ [{ r with prio := r.prio + 1, pops := 0 }]
      else (q.chip ++ q.ring).replace r { r with pops := 0 }) ∧ q.promote.chip.length = q.chip.length := by
  have hif : (if r.prio ≥ 3 then (q.chip ++ q.ring).replace r { r with pops := 0 }
      else (q.chip ++ q.ring).erase r ++ [{ r with prio := r.prio + 1, pops := 0 }]) =
      if r.prio < 3 then (q.chip ++ q.ring).erase r ++ [{ r with prio := r.prio + 1, pops := 0 }]
      else (q.chip ++ q.ring).replace r { r with pops := 0 } := by
    by_cases hp : r.prio < 3
    · rw [if_neg (by omega), if_pos hp]
    · rw [if_pos (by omega), if_neg hp]
  simp only [ContQ.promote, h, hif, List.take_append_drop, true_and]
  have hlen : ∀ l : List Rec, l.length = (q.chip ++ q.ring).length → (l.take q.chip.length).length = q.chip.length := by
    intro l hl
    rw [List.length_take, hl, List.length_append]
    omega
  apply hlen
  split
  · exact length_erase_append (List.mem_of_find?_eq_some h) _
  · exact List.length_replace

theorem recordsMove : Pieces.RecordsMove := by
  unfold Pieces.RecordsMove
  intro s
  refine ⟨fun k => ⟨_, ?_, refilled_refill ..⟩, fun k => ⟨_, ?_, refilled_refill ..⟩, fun k h hk hfirst hrun q hq => ?_, fun k r => ?_⟩
  · have h0 : 2 * k % 2 = 0 := by omega
    have h2 : 2 * k / 2 = k := by omega
    simp only [exec, execQueueRefill, h0, h2, if_true]
    rfl
  · have h0 : (2 * k + 1) % 2 ≠ 0 := by omega
    have h2 : (2 * k + 1) / 2 = k := by omega
    simp only [exec, execQueueRefill, h0, h2, if_false]
    rfl
  · have hany : (s.held.take k).any (·.quad == h.quad) = false := by
      rw [List.any_eq_false]
      intro g hg
      simpa using hfirst g hg
    have hq' : (({ s with held := dropNth s.held k } : State).quad h.quad).contq.push quadChip
        (({ s with held := dropNth s.held k } : State).qlen h.crec.ref) h.crec = some q := hq
    simp only [exec, execHeldRecordPush, hk, hany, hrun, State.pushQuad, hq', Bool.not_true, Bool.or_self, Bool.false_eq_true, if_false]
    rfl
  · intro l hl
    exact ⟨_, rfl, ContQ.promote_of_find hl⟩

/-! ## The start of a strand (R38, R39) -/

/-- The registers that a strand finds: its record's words in x1 to x3, every other zero, and all full (R38). -/
theorem State.startCore_finds (s : State) (n : Nat) (r : Rec) (x2 x3 cp : W64) :
    let c := s.startCore n r x2 x3 cp
    c.get 1 = r.fp ∧ c.get 2 = x2 ∧ c.get 3 = x3 ∧ (∀ i : Reg, c.isFull i = true) ∧
      ∀ i : Reg, i ≠ 1 → i ≠ 2 → i ≠ 3 → c.get i = 0 := by
  intro c
  refine ⟨rfl, rfl, rfl, fun i => ?_, fun i h1 h2 h3 => ?_⟩
  · have hi : i.toNat < 32 := i.isLt
    have hall : c.full.getLsbD i.toNat = true := (BitVec.getLsbD_allOnes (v := 32)).trans (decide_eq_true hi)
    rw [Core.isFull, hall, Bool.or_true]
  · by_cases h0 : i = 0
    · rw [h0]; rfl
    · rw [Core.get_of_ne _ h0]
      have n1 : (1 : Nat) ≠ i.toNat := reg_toNat_ne h1
      have n2 : (2 : Nat) ≠ i.toNat := reg_toNat_ne h2
      have n3 : (3 : Nat) ≠ i.toNat := reg_toNat_ne h3
      simp [c, State.startCore, Vector.getElem_set_ne, n1, n2, n3]

/-- A record that is no resume record starts a strand at its cp. -/
theorem State.startStrand_fresh (s : State) (n : Nat) {r : Rec} (h : r.rsm = false) :
    (s.startStrand n r).core n = s.startCore n r r.jc r.word3 r.cp := by
  simp only [State.startStrand, h, Bool.not_false, if_true, State.core_setCore]

/-- A resume record whose instruction has not failed completes it with the value of its save area. -/
theorem State.startStrand_resumed (s : State) (n : Nat) {r : Rec} (h : r.rsm = true) :
    let w := fun i => s.coreWord n (s.core n).kasid.toNat (r.fp + w64 (8 * i))
    bits (w 6) 63 56 ≠ 1 → (s.startStrand n r).core n =
      (s.startCore n r (w 2) (w 3) (w64 (bits (w 6) 55 0))).put (BitVec.ofNat 5 (bits (w 5) 14 10)) (w 7) := by
  intro w hw
  simp only [State.startStrand, h, Bool.not_true, Bool.false_eq_true, if_false]
  rw [if_neg hw, State.core_setCore]

/-- An idle core starts the record that its quad's queue offers, or else its field's. -/
theorem exec_strandStart {s : State} {n : Nat} {tm : Team} {r : Rec} (ht : (s.core n).team = some tm) (hm : s.mayStart n tm = true) {u : State}
    (hu : (s.quad (nQuad n)).contq.best n tm.ref = some r ∧ (s.quad (nQuad n)).contq.starved n tm.ref = false ∧
        u = s.setQuad (nQuad n) { s.quad (nQuad n) with contq := (s.quad (nQuad n)).contq.take r } ∨
      (s.quad (nQuad n)).contq.best n tm.ref = none ∧ (s.field (nField n)).contq.best n tm.ref = some r ∧
        (s.field (nField n)).contq.starved n tm.ref = false ∧
        u = s.setField (nField n) { s.field (nField n) with contq := ((s.field (nField n)).contq.take r).counted.promoteAll }) :
    exec (.strandStart n) s = .next (u.startStrand n r) := by
  rcases hu with ⟨hb, hs, rfl⟩ | ⟨hn, hb, hs, rfl⟩
  · simp only [exec, execStrandStart, ht, hm, hb, hs, Bool.not_true, Bool.false_eq_true, if_false]
  · simp only [exec, execStrandStart, ht, hm, hn, hb, hs, Bool.not_true, Bool.false_eq_true, if_false]

theorem strandStarts : Pieces.StrandStarts := by
  unfold Pieces.StrandStarts
  intro s n tm r ht hm q f u1 u2 u hu
  have hk : (u.core n).kasid = (s.core n).kasid := by rcases hu with ⟨-, -, rfl⟩ | ⟨-, -, -, rfl⟩ <;> rfl
  refine ⟨_, exec_strandStart ht hm hu, fun hr => ?_, fun hr => ?_⟩
  · obtain ⟨h1, h2, h3, hfull, hzero⟩ := u.startCore_finds n r r.jc r.word3 r.cp
    rw [State.startStrand_fresh _ _ hr]
    exact ⟨rfl, h1, h2, h3, rfl, rfl, rfl, hfull, hzero⟩
  · intro w hw
    have hw' : bits (u.coreWord n (u.core n).kasid.toNat (r.fp + w64 (8 * 6))) 63 56 ≠ 1 := by
      rw [bits_top _ (by decide), hk]; exact hw
    rw [State.startStrand_resumed _ _ hr hw', hk]
    refine ⟨by rw [Core.put_eq]; rfl, by rw [Core.put_eq]; rfl, fun d hd => ?_⟩
    have hd' : BitVec.ofNat 5 (bits (w 5) 14 10) = d := by
      rw [bits_eq, show (2 : Nat) ^ (14 + 1 - 10) = 32 from rfl, ← hd]
      exact BitVec.ofNat_toNat ..
    rw [← hd']
    exact Core.get_put_same ..

/-- Settles O45: how records start strands, and how they move between queues. -/
theorem records : Obligations.Records := ⟨strandStarts, recordsMove⟩

end Sys2Proof.Machine

/-! R40, R52, R95, R180, R309, R351, R352, R386 to R391, R406: SPAWN and the queues that its record goes to, accesses at their homes, and the
wait limit. -/

namespace Sys2Proof.Machine

/-! ## Where a spawned record goes (R40) -/

theorem pushIsBehind : Pieces.PushIsBehind := by
  unfold Pieces.PushIsBehind
  intro s s' n r h q f room
  simp only [State.pushSpawn] at h
  split at h
  · next c hc =>
    rcases ContQ.push_cases hc with ⟨hroom, -⟩ | ⟨-, hlen, -⟩
    · exact .inl ⟨hroom, c, (Option.some.inj h).symm, behind_push hc, ContQ.onChip_push_room hc hroom⟩
    · exact absurd hlen (Nat.not_lt_zero _)
  · next hq =>
    split at h
    · next c hc => exact .inr ⟨ContQ.push_none hq, c, behind_push hc, ContQ.onChip_push_le hc, (Option.some.inj h).symm⟩
    · cases h

/-! ## SPAWN (R40, R386) -/

theorem w64_bits_of_lt {v : W64} (h : v.toNat / 2 ^ 56 = 0) : w64 (bits v 55 0) = v := by
  have hv : v.toNat < 2 ^ 56 := by
    rcases Nat.div_eq_zero_iff.mp h with h | h
    · omega
    · exact h
  rw [bits_low, show (55 + 1) = 56 from rfl, Nat.mod_eq_of_lt hv]
  exact BitVec.eq_of_toNat_eq (by simp [w64])

/-- The alignment of a record's address field is that of its word. -/
theorem bits_low_field (v : W64) : bits (w64 (bits v 55 0)) 4 0 = v.toNat % 32 := by
  rw [bits_low, bits_low, w64, BitVec.toNat_ofNat]
  omega

/-- A record none of whose reserved fields is set has its block's address in word 2. -/
theorem recReserved_jc {w : Nat → W64} (h : recReserved w = false) : w64 (bits (w 2) 55 0) = w 2 := by
  simp only [recReserved, Bool.or_eq_false_iff, bne_eq_false_iff_eq] at h
  exact w64_bits_of_lt (by rw [← bits_top _ (by decide)]; exact h.1.1.2)

/-- What SPAWN does with a record's words `w`, issued by the core `c` as it stood then. -/
def State.spawnWith (s : State) (c : Core) (va : W64) (w : Nat → W64) : State :=
  let fp := w64 (bits (w 1) 55 0)
  let jc := w64 (bits (w 2) 55 0)
  if bits fp 4 0 != 0 then s.trap causeMisaligned fp
  else if bits jc 4 0 != 0 then s.trap causeMisaligned jc
  else if recReserved w then s.trap causeSync va
  else match c.strand with
    | none => s
    | some t =>
      let r := mkRec s.cur t.ref w
      if jc = 0 then s.spawnPush va r
      else s.reach s.me jc 32 2 fun s b trc =>
        let old := s.readW b
        let new := place (bits old 63 63) 63 + (bits old 62 0 + 1) % 2 ^ 63
        ((s.setMe (s.me.didRead b 8 (s.relsAt b 8))).write b (natRun 8 new false) (coreInfo s.cur 2 trc)).spawnPush va r

theorem exec_spawn_ready {s : State} {a : Reg} (hr : s.me.ready [a] 0 = true) (ha : (s.me.get a).toNat % 32 = 0) :
    exec (.spawn a) s = .next (s.reachRecord s.me (s.me.get a) fun u w => u.spawnWith s.me (s.me.get a) w) := by
  have hb : ((s.me.get a).toNat % 32 != 0) = false := by rw [bne_eq_false_iff_eq]; exact ha
  simp only [exec, execSpawn, State.issue_ready (srcs := [(a, false)]) _ hr, State.aligned, hb, Bool.false_eq_true, if_false]
  rfl

section
variable {u : State} {c : Core} {va : W64} {w : Nat → W64} {st : Strand}

/-- A well-formed record without a join block is pushed. -/
theorem State.spawnWith_bare (hst : c.strand = some st) (hres : recReserved w = false) (hfp : (w 1).toNat % 32 = 0) (hjc : w 2 = 0) :
    u.spawnWith c va w = u.spawnPush va (mkRec u.cur st.ref w) := by
  have h0 : w64 (bits (w 2) 55 0) = 0 := (recReserved_jc hres).trans hjc
  simp only [State.spawnWith, bits_low_field, hfp, hres, hst, h0, show bits (0 : W64) 4 0 = 0 from rfl, bne_self_eq_false, Bool.false_eq_true, if_false, if_true]

/-- The count of a block with one hold more. -/
theorem raised_count (v : W64) : place (bits v 63 63) 63 + (bits v 62 0 + 1) % 2 ^ 63 =
    v.toNat / 2 ^ 63 * 2 ^ 63 + (v.toNat + 1) % 2 ^ 63 := by
  rw [bits_top v (by decide), bits_low, place, Nat.shiftLeft_eq, Nat.mod_add_mod]

/-- One with a join block whose bytes the port reaches at once raises the block's count, and is pushed. -/
theorem State.spawnWith_block {b : Nat} {trc fmt : Bool} (hst : c.strand = some st) (hres : recReserved w = false)
    (hfp : (w 1).toNat % 32 = 0) (hal : (w 2).toNat % 32 = 0) (hjc : w 2 ≠ 0) (h : (u.near (w 2)).atOnce (w 2) 32 2 b trc fmt) :
    let v := u.near (w 2)
    u.spawnWith c va w = ((v.setMe (v.me.didRead b 8 (v.relsAt b 8))).write b
      (natRun 8 ((v.readW b).toNat / 2 ^ 63 * 2 ^ 63 + ((v.readW b).toNat + 1) % 2 ^ 63) false) ⟨2, 0, u.cur, trc, 0⟩).spawnPush va
        (mkRec u.cur st.ref w) := by
  intro v
  have hb : bits (w 2) 4 0 = 0 := (bits_low ..).trans hal
  simp only [State.spawnWith, bits_low_field, hfp, hb, hres, hst, recReserved_jc hres, hjc, bne_self_eq_false, Bool.false_eq_true, if_false,
    State.reach_atOnce _ rfl h, raised_count, coreInfo, State.near_cur, v]

theorem State.spawnPush_room {r : Rec} {s' : State} (h : u.pushSpawn u.cur r = some s') : u.spawnPush va r = s'.past := by
  simp only [State.spawnPush, h, State.finish_me]

theorem State.spawnPush_full {r : Rec} (h : u.pushSpawn u.cur r = none) (hh : u.me.handles = true) :
    u.spawnPush va r = u.trapped causeSpill u.me.pc va := by
  simp only [State.spawnPush, h]
  exact State.trap_handles _ _ hh

end

/-- SPAWN that has its record's words goes on with them. -/
theorem spawnsOn_of {s u : State} {a : Reg} {st : Strand} {va : W64} {w : Nat → W64} (hc : u.cur = s.cur) (hst : s.me.strand = some st)
    (he : exec (.spawn a) s = .next (u.spawnWith s.me va w)) : spawnsOn s u a st va w := by
  unfold spawnsOn
  intro jc r leaves hres hfp hal
  have leaves_of : ∀ v : State, v.cur = s.cur → exec (.spawn a) s = .next (v.spawnPush va r) → leaves v := by
    intro v hv hev
    refine ⟨fun s' hs' => ?_, fun hn hh => ?_⟩
    · rw [hev, State.spawnPush_room (hv ▸ hs')]
    · rw [hev, State.spawnPush_full (hv ▸ hn) hh]
  refine ⟨fun h0 => leaves_of u hc ?_, fun h0 => ?_⟩
  · rw [he, State.spawnWith_bare hst hres hfp h0, hc]
  · intro v b trc fmt h
    refine leaves_of _ ?_ ?_
    · rw [(written_write _ _ _ _ (natRun_sound ..)).cur]
      exact (State.near_cur ..).trans hc
    · rw [he, State.spawnWith_block hst hres hfp hal h0 h, hc]

/-! ## Reading a record -/

theorem State.portWho_near (s : State) (va : W64) : (s.near va).portWho (s.near va).cur = s.portWho s.cur := by
  have hm : (s.near va).core s.cur = { s.core s.cur with tried := none } := by
    have h := s.me_near va
    rwa [State.me, State.near_cur] at h
  simp only [State.portWho, hm, State.near_cur]

section
variable {s : State} {va : W64} {pa : Nat} {trc fmt : Bool} (k : State → (Nat → W64) → State)

/-- The record of a core that has asked for none, read at once. -/
theorem State.reachRecord_atOnce (hn : s.me.records = []) (h : (s.near va).atOnce va 32 0 pa trc fmt) :
    s.reachRecord s.me va k = k ((s.near va).setMe ((s.near va).me.didRead pa 32 ((s.near va).relsAt pa 32)))
      fun i => (s.near va).readW (pa + 8 * i) := by
  have ht : (s.near va).translate (s.portWho s.cur) va 32 0 = .ok pa trc fmt := by rw [← State.portWho_near s va]; exact h.1
  simp only [State.reachRecord, hn, show (s.refill (s.portWho s.cur) va).untried = s.near va from rfl, ht, h.2.1, Bool.false_and,
    Bool.false_eq_true, if_false, State.reach_atOnce _ rfl h]
  rfl

/-- A record in an edge window is asked for. -/
theorem State.reachRecord_window (hn : s.me.records = []) (ht : (s.near va).translate ((s.near va).portWho (s.near va).cur) va 32 0 = .ok pa trc fmt)
    (hw : windowed pa = true) (hu : (s.near va).remoteUnbacked (nWafer s.cur) pa = false)
    (hm : (s.near va).mayStall s.me { mkAccess .record va 32 0 with pa := pa } = false) :
    s.reachRecord s.me va k = (s.near va).askRecord s.me va pa := by
  rw [State.portWho_near] at ht
  simp only [State.reachRecord, hn, show (s.refill (s.portWho s.cur) va).untried = s.near va from rfl, ht, hw, hu, hm, Bool.not_false,
    Bool.and_self, Bool.false_eq_true, if_false, if_true]
  rfl

/-- A record whose words have come is read. -/
theorem State.reachRecord_performed {r0 r1 r2 r3 : Access} (hn : s.me.records = [r0, r1, r2, r3])
    (hp : ∀ r ∈ [r0, r1, r2, r3], r.performed = true) :
    s.reachRecord s.me va k = k (s.setMe s.me.dropRecords) fun i => nth [r0.got, r1.got, r2.got, r3.got] i 0 := by
  have hany : [r0, r1, r2, r3].any (!·.performed) = false := by
    rw [List.any_eq_false]
    intro r hr
    simp [hp r hr]
  have hw : (fun i => (([r0, r1, r2, r3][i]?).map (·.got)).getD 0) = fun i => nth [r0.got, r1.got, r2.got, r3.got] i 0 := by
    funext i
    rcases i with _ | _ | _ | _ | i <;> rfl
  simp only [State.reachRecord, hn, hany, Bool.false_eq_true, if_false, List.length_cons, List.length_nil, Nat.zero_add, Nat.reduceAdd, if_true,
    hw]

end

/-- Where and what a read of a record's word is. -/
def Access.wordRead (a : Access) : W64 × Nat × Nat × Phase := (a.va, a.pa, a.size, a.phase)

/-- The reads of some words of a record enter the port behind those that stand there. -/
theorem askRecord_loop (va : W64) (pa : Nat) (l : List Nat) (s : State) :
    let t := l.foldl (fun s i =>
      s.setMe { s.me with
        port := s.me.port ++ [{ s.stamped s.me { mkAccess .record (va + w64 (8 * i)) 8 0 with pa := pa + 8 * i } with born := none }],
        nextId := s.me.nextId + 1 }) s
    t.me.pc = s.me.pc ∧ t.me.records.map Access.wordRead =
      s.me.records.map Access.wordRead ++ l.map fun i => (va + w64 (8 * i), pa + 8 * i, 8, Phase.issued) := by
  induction l generalizing s with
  | nil => exact ⟨rfl, (List.append_nil _).symm⟩
  | cons i r ih =>
    obtain ⟨hp, hr⟩ := ih (s.setMe { s.me with
        port := s.me.port ++ [{ s.stamped s.me { mkAccess .record (va + w64 (8 * i)) 8 0 with pa := pa + 8 * i } with born := none }],
        nextId := s.me.nextId + 1 })
    rw [State.me_setMe] at hp hr
    refine ⟨hp, ?_⟩
    rw [List.foldl_cons, hr]
    simp only [Core.records, List.filter_append, List.map_append, List.map_cons, List.append_assoc]
    rfl

theorem State.askRecord_asks (s : State) (c : Core) (va : W64) (pa : Nat) :
    (s.askRecord c va pa).me.pc = c.pc ∧ (s.askRecord c va pa).me.records.map Access.wordRead =
      (List.range 4).map fun i => (va + w64 (8 * i), pa + 8 * i, 8, Phase.issued) := by
  have hd : ({ c.dropRecords with wait := none, tried := none } : Core).records = [] := by
    simp only [Core.records, Core.dropRecords, List.filter_filter, List.filter_eq_nil_iff]
    intro a _
    cases hk : a.kind == AccKind.record <;> simp [bne, hk]
  have h := askRecord_loop va pa (List.range 4) (s.setMe { c.dropRecords with wait := none, tried := none })
  rw [State.me_setMe, hd] at h
  exact h

theorem spawnPushes : Pieces.SpawnPushes := by
  unfold Pieces.SpawnPushes
  intro s0 a st pa trc fmt hst hr va s hva
  have he := exec_spawn_ready hr hva
  refine ⟨fun hn h => ?_, fun hn ht hw hu hm => ?_, fun r0 r1 r2 r3 hn hp => ?_⟩
  · exact spawnsOn_of (State.near_cur ..) hst (he.trans (congrArg _ (State.reachRecord_atOnce _ hn h)))
  · have hu' : s.remoteUnbacked (nWafer s0.cur) pa = false := by rw [← State.near_cur s0 va]; exact hu
    obtain ⟨hpc, hrec⟩ := s.askRecord_asks s0.me va pa
    exact ⟨_, he.trans (congrArg _ (State.reachRecord_window _ hn ht hw hu' hm)), hpc, hrec⟩
  · exact spawnsOn_of rfl hst (he.trans (congrArg _ (State.reachRecord_performed _ hn hp)))

/-! ## Accesses at their homes (R95) -/

/-- What an access does at a home outside the edge windows. -/
def State.performHome (s : State) (n : Nat) (a : Access) : State :=
  match a.kind with
  | .ld => s.performLd n a
  | .st => s.performSt n 0 a
  | .sta => s.performSt n 1 a
  | .stfe => (s.performSt n 0 a).fillWord a.pa
  | .record => s.performLd n a
  | .ldfe =>
    if shas s.qtags (canon a.pa) then
      if s.poisonAt a.pa then s.lateFault n a 3 else s.takeWord n a
    else s.performWait n a
  | .waitf =>
    if s.poisonAt a.pa then s.lateFault n a 3
    else if s.readW a.pa != a.cmp then s.endWatch n a (s.readW a.pa)
    else s.performWait n a
  | .amo op => s.performAmo n op a

theorem State.perform_eq_performHome {s : State} {n : Nat} {a : Access} (h : ∀ w m sl o, homeOf a.pa ≠ .window w m sl o) :
    s.perform n a = s.performHome n a := by
  unfold State.perform
  split
  · next w m sl o hw => exact absurd hw (h w m sl o)
  · rfl

/-- HOME_ACCESS of an access that may perform now. -/
theorem exec_homeAccess {s : State} {n : Nat} {a : Access} (h : s.performs n a) :
    exec (.homeAccess n a.id) s = .next ((s.performHome n a).endParked n) := by
  obtain ⟨hf, hi, hm, hu, hh, hw⟩ := h
  have ht : (a.phase == .tainted) = false := by rw [hi]; rfl
  have hi' : (a.phase == .issued) = true := by rw [hi]; rfl
  simp only [exec, execHomeAccess, hf, ht, hi', hm, hu, hh, Bool.not_false, Bool.and_self, Bool.false_eq_true, if_false, if_true,
    State.perform_eq_performHome hw]

/-- A load that has performed changes the phase of its access, and beside it only what its core has read ahead. -/
theorem Core.loaded_eq (c : Core) (n : Nat) (a : Access) (v : W64) (rels : List Rel) :
    ∃ e, c.loaded n a v rels = { c.done a.id v with early := e } := by
  have hd : ∃ e, (c.done a.id v).didLoad a rels = { c.done a.id v with early := e } := by
    unfold Core.didLoad
    split <;> exact ⟨_, rfl⟩
  obtain ⟨e, he⟩ := hd
  unfold Core.loaded
  dsimp only
  rw [he]
  split
  · unfold Core.acquireRead
    split <;> exact ⟨_, rfl⟩
  · exact ⟨_, rfl⟩

section
variable {s : State} {n : Nat} {a : Access}

/-- A store lands as the release that it is. -/
theorem State.performSt_eq (s : State) (n kind : Nat) (a : Access) :
    s.performSt n kind a = (s.setCore n ((s.core n).done a.id 0)).writeAs a.pa (natRun a.size a.data.toNat false) ⟨kind, 0, n, a.trc, 0⟩
      (if a.rel then some (Rel.mk (.core n) a.relSc) else none) := by
  rw [State.writeAs, natRun_sound]
  rfl

/-- An AMO writes the word of its operation, but for an AMO.CAS that finds another word. -/
theorem State.amoAt_writes {op : AmoOp} (h : op ≠ .cas ∨ s.readNat a.pa a.size = a.cmp.toNat) :
    s.amoAt n op a = (s.setCore n (((s.core n).done a.id (w64 (s.readNat a.pa a.size))).didRead a.pa a.size (s.relsAt a.pa a.size))).writeAs
      a.pa (natRun a.size (amoNew op (8 * a.size) (s.readNat a.pa a.size) a.data.toNat) false) ⟨2, 0, n, a.trc, 0⟩
      (if a.rel then some (Rel.mk (.core n) a.relSc) else none) := by
  have hc : (op == .cas && s.readNat a.pa a.size != a.cmp.toNat) = false := by
    rcases h with h | h
    · rw [beq_eq_false_iff_ne.mpr h, Bool.false_and]
    · rw [h, bne_self_eq_false, Bool.and_false]
  rw [State.writeAs, natRun_sound]
  simp only [State.amoAt, hc, Bool.false_eq_true, if_false]
  rfl

theorem State.amoAt_cas_differs {op : AmoOp} (hop : op = .cas) (h : s.readNat a.pa a.size ≠ a.cmp.toNat) :
    s.amoAt n op a = s.setCore n
      ((((s.core n).done a.id (w64 (s.readNat a.pa a.size))).didRead a.pa a.size (s.relsAt a.pa a.size)).passFence a) := by
  have hc : (op == .cas && s.readNat a.pa a.size != a.cmp.toNat) = true := by
    rw [hop, bne_iff_ne.mpr h]
    rfl
  simp only [State.amoAt, hc, if_true]

/-- Setting a tag full changes the tags, and the core of a waiting LDFE. -/
theorem State.fillWord_leaves (s : State) (pa : Nat) :
    (s.fillWord pa).mem = s.mem ∧ (s.firstWaiter pa = none → (s.fillWord pa).qtags = sput s.qtags (canon pa)) := by
  have hf : ({ s with qtags := sput s.qtags (canon pa) } : State).firstWaiter pa = s.firstWaiter pa := rfl
  unfold State.fillWord
  dsimp only
  rw [hf]
  split
  · next h => exact ⟨rfl, fun hn => by rw [hn] at h; cases h⟩
  · exact ⟨rfl, fun _ => rfl⟩

/-- An LDFE takes its word: the word's tag is empty after it, and its core goes on. -/
theorem State.takeWord_leaves (s : State) (n : Nat) (a : Access) :
    let t := s.takeWord n a
    t.qtags = sdel s.qtags (canon a.pa) ∧ (t.core n).hold = .none ∧ (t.core n).pc = (s.core n).pc + 4 ∧ t.mem = s.mem ∧
      (t.core n).port = ((s.core n).setPhase a.id (.performed (s.readW a.pa))).port := by
  unfold State.takeWord
  dsimp only
  generalize State.relsAt _ a.pa 8 = rels
  generalize hv : State.readW _ a.pa = v
  have hv' : s.readW a.pa = v := hv
  rw [State.core_setCore, hv']
  refine ⟨rfl, rfl, ?_, rfl, rfl⟩
  simp only [Core.didRead_pc]
  rfl

/-- A watch that ends lets its core go on with the word. -/
theorem State.endWatch_leaves (s : State) (n : Nat) (a : Access) (v : W64) :
    let c := (s.endWatch n a v).core n
    c.hold = .none ∧ c.pc = (s.core n).pc + 4 ∧ c.port = (s.core n).port.filter (·.id != a.id) ∧
      c.get a.dst = (if a.dst = 0 then 0 else v) ∧ c.isFull a.dst = true := by
  simp only [State.endWatch, State.core_setCore]
  refine ⟨?_, ?_, ?_, Core.get_put_same .., Core.isFull_put_same ..⟩
  all_goals rw [Core.put_eq]; rfl

end

@[simp] theorem State.setCore_setCore (s : State) (n : Nat) (c d : Core) : (s.setCore n c).setCore n d = s.setCore n d := by
  simp [State.setCore]

theorem homeAccessPerforms : Pieces.HomeAccessPerforms := by
  unfold Pieces.HomeAccessPerforms
  intro s n a h c done bytes old rel acts
  have act : ∀ {t : State}, s.performHome n a = t → acts t := fun ht => ht ▸ exec_homeAccess h
  refine ⟨fun hk he hp => act ?_, fun e hk he => act ?_, fun v r => ?_, fun hk => act ?_, fun hk => act ?_, fun op hk hp => ?_,
    fun hk hq hp => ?_, fun hk hp hv => ?_, fun hw => act ?_, fun hk => ?_⟩
  · -- a load
    simp only [State.performHome, hk, State.performLd, he, hp, Bool.false_eq_true, if_false, c]
    rfl
  · -- a load that a read ahead serves
    simp only [State.performHome, hk, State.performLd, he, c]
  · obtain ⟨e, he⟩ := c.loaded_eq n a v r
    rw [he]
    exact ⟨rfl, rfl, rfl, rfl⟩
  · -- a store
    simp only [State.performHome, hk]
    exact s.performSt_eq n 0 a
  · -- an asynchronous store
    simp only [State.performHome, hk]
    exact s.performSt_eq n 1 a
  · -- an AMO
    have hpf : s.performHome n a = s.amoAt n op a := by
      simp only [State.performHome, hk, State.performAmo, hp, Bool.false_eq_true, if_false]
    refine ⟨fun ho => act (hpf.trans (State.amoAt_writes ho)), fun hop hne => act (hpf.trans ?_)⟩
    rw [State.core_setCore, State.setCore_setCore]
    exact State.amoAt_cas_differs hop hne
  · -- an LDFE that finds its word full
    refine ⟨_, act (t := s.takeWord n a) ?_, ?_⟩
    · simp only [State.performHome, hk, hq, hp, Bool.false_eq_true, if_false, if_true]
    · exact s.takeWord_leaves n a
  · -- a WAITF that finds another word
    refine ⟨_, act (t := s.endWatch n a (s.readW a.pa)) ?_, rfl, s.endWatch_leaves n a _⟩
    simp only [State.performHome, hk, hp, bne_iff_ne.mpr hv, Bool.false_eq_true, if_false, if_true]
  · -- an LDFE or WAITF that waits
    rcases hw with ⟨hk, hq⟩ | ⟨hk, hp, hv⟩
    · simp only [State.performHome, hk, hq, Bool.false_eq_true, if_false]
      rfl
    · simp only [State.performHome, hk, hp, hv, bne_self_eq_false, Bool.false_eq_true, if_false]
      rfl
  · -- an STFE
    have hst := s.performSt_eq n 0 a
    refine ⟨_, act (t := (s.performSt n 0 a).fillWord a.pa) (by simp only [State.performHome, hk]), ?_⟩
    obtain ⟨hmem, htag⟩ := (s.performSt n 0 a).fillWord_leaves a.pa
    intro u
    have hu : s.performSt n 0 a = u := hst
    have hq : u.qtags = s.qtags := (written_writeAs _ _ _ _ _ (natRun_sound ..)).qtags
    rw [hu] at hmem htag ⊢
    exact ⟨hmem, fun hf => hq ▸ htag hf⟩

/-! ## The wait limit (R52) -/

/-- Giving up a wait changes what the core waits for, its port and its presence bits. -/
theorem Core.unhold_eq (c : Core) : c.unhold = { c with hold := .none, wait := none, port := c.unhold.port, full := c.unhold.full } := by
  unfold Core.unhold
  split
  · split
    · dsimp only
      split <;> rfl
    · rfl
  · rfl
  · rfl

/-- A waiting FWAIT gives its register back as it was. -/
theorem Core.isFull_unhold_fwait {c : Core} {h : W64} {d : Reg} (hh : c.hold = .fwait h d true) (hd : d ≠ 0) : c.unhold.isFull d = true := by
  have hu : c.unhold = { c with hold := .none, wait := none, full := if true && d != 0 then c.full ||| regMask d else c.full } := by
    simp only [Core.unhold, hh]
  rw [hu, Core.isFull_of_ne _ hd]
  simp only [Bool.true_and, bne_iff_ne.mpr hd, if_true, BitVec.getLsbD_or, regMask_getLsbD, decide_true, Bool.or_true]

/-- A waiting access leaves the port, an LDFE with its register as it was. -/
theorem Core.unhold_access {c : Core} {id : Nat} {a : Access} (hh : c.hold = .access id) (hf : c.find id = some a) :
    c.unhold.port = c.port.filter (·.id != id) ∧
      (a.kind = .ldfe → a.hadFull = true → a.dst ≠ 0 → c.unhold.isFull a.dst = true) := by
  simp only [Core.unhold, hh, hf]
  split
  · next hc =>
    refine ⟨rfl, fun _ _ hd => ?_⟩
    rw [Core.isFull_of_ne _ hd]
    simp [regMask_getLsbD]
  · next hc =>
    refine ⟨rfl, fun hk hfull hd => absurd ?_ hc⟩
    rw [hk, hfull, bne_iff_ne.mpr hd]
    rfl

/-- A trap of a core with a handler, not in trap mode, enters the handler. -/
theorem State.trapOn_enters {s : State} {n : Nat} (cause : Nat) (v : W64) (ht : (s.core n).tm = false) (hv : (s.core n).ktvec ≠ 0)
    (hc : cause ≠ causeSys) : s.trapOn n cause v = s.setCore n { s.core n with
      kepc := (s.core n).pc, kcause := BitVec.ofNat 8 cause, ktval := v, tm := true, pc := (s.core n).ktvec, hold := .none, wait := none } := by
  simp only [State.trapOn, ht, hc, beq_eq_false_iff_ne.mpr hv, Bool.or_self, Bool.false_eq_true, if_false]

/-- WAIT_LIMIT_TRAP of a wait that has passed its limit: the core gives it up and enters its handler at its instruction. -/
theorem exec_waitLimitTrap {s : State} {n t0 : Nat} (hw : (s.core n).wait = some t0) (hf : (s.core n).fault = none)
    (he : ∀ e, (s.core n).ending = some e → e.reason = 0) (hu : s.unitRuns n .core = true) (hk : (s.core n).kwlim ≠ 0)
    (hl : (s.core n).kwlim.toNat < s.now n - t0) (ht : (s.core n).tm = false) (hv : (s.core n).ktvec ≠ 0) :
    exec (.waitLimitTrap n) s = .next (s.setCore n { (s.core n).unhold with
      kepc := (s.core n).pc, kcause := 4, ktval := BitVec.ofNat 64 (s.now n - t0), tm := true, pc := (s.core n).ktvec, hold := .none,
      wait := none, ending := (s.core n).ending.map fun e => { e with trapped := true } }) := by
  have hend : (s.core n).ending.any (·.reason != 0) = false := by
    cases h : (s.core n).ending with
    | none => rfl
    | some e => simp [he e h]
  have hc : (decide ((s.core n).kwlim = 0) || decide (s.now n - t0 ≤ (s.core n).kwlim.toNat) || (s.core n).fault.isSome ||
      (s.core n).ending.any (·.reason != 0) || !s.unitRuns n .core) = false := by
    rw [hf, hend, hu, decide_eq_false hk, decide_eq_false (Nat.not_le.mpr hl)]
    rfl
  have htrap : (s.setCore n (s.core n).unhold).trapOn n causeWait (w64 (s.now n - t0)) = s.setCore n { (s.core n).unhold with
      kepc := (s.core n).pc, kcause := 4, ktval := BitVec.ofNat 64 (s.now n - t0), tm := true, pc := (s.core n).ktvec, hold := .none,
      wait := none } := by
    have hm : ((s.setCore n (s.core n).unhold).core n).tm = false := by rw [State.core_setCore, Core.unhold_eq]; exact ht
    have hkv : ((s.setCore n (s.core n).unhold).core n).ktvec ≠ 0 := by rw [State.core_setCore, Core.unhold_eq]; exact hv
    rw [State.trapOn_enters _ _ hm hkv (by decide), State.core_setCore, State.setCore_setCore, Core.unhold_eq]
    rfl
  simp only [exec, execWaitLimitTrap, hw, hc, Bool.false_eq_true, if_false, htrap, State.trapMark, State.core_setCore, ht, Bool.not_false,
    Bool.and_self, if_true, State.setCore_setCore]
  rw [Core.unhold_eq]

theorem waitLimit : Pieces.WaitLimit := by
  unfold Pieces.WaitLimit
  intro s n t0 hw hf he hu hk hl ht hv c
  refine ⟨_, exec_waitLimitTrap hw hf he hu hk hl ht hv, rfl, ?_⟩
  rw [State.core_setCore]
  refine ⟨rfl, rfl, rfl, rfl, rfl, rfl, rfl, ?_, fun h d hh hd => ?_, fun id a hh hfi => ?_⟩
  · show (s.core n).unhold.x = _
    rw [Core.unhold_eq]
  · exact Core.isFull_unhold_fwait hh hd
  · exact Core.unhold_access hh hfi

/-- Settles O40: SPAWN's record and where it goes, the accesses at their homes, and the wait limit. -/
theorem spawnsAccessesAndWaits : Obligations.SpawnsAccessesAndWaits := ⟨spawnPushes, pushIsBehind, homeAccessPerforms, waitLimit⟩

end Sys2Proof.Machine

/-! R153, R337: an ERED that ends its quad's part of the round releases its mailbox. -/

namespace Sys2Proof.Machine

/-- The network engine's queue of core 0. -/
def soloQ : Nat := queueKey 0 2 0

/-- An ERED of two elements at local address 0x2000, for group 0 of the first node. -/
def soloWords : Cmd := ⟨0x3032000000107000, 0x102000, 0, 0x10020⟩

/-- That command, as core 0 submitted it. -/
def soloCmd : QCmd := ⟨soloWords, 0, false, 0, some ⟨0, 0⟩, 0, false, 0, false, 0, 0, 0, 1, 1⟩

/-- The team of the first node. -/
def soloTeam : Team := ⟨⟨0, 0⟩, 0, 0, 1, 1⟩

/-- A group whose only member is rank 0, at the start of a round. -/
def soloGroup : RedGroup :=
  ⟨BitVec.ofNat 64 (localBase + 0x3000), BitVec.ofNat 64 (localBase + 0x3100), 0, 2, 0, 0, 0, 0, [], [], [], [], resetDrain⟩

/-- The pod with that command at the head of its queue, its grain drawn. -/
def soloEred : State :=
  { State.reset.setCore 0 { resetCore with team := some soloTeam } with
    queues := [(soloQ, { resetEngQ with cmds := [soloCmd], prog := { resetProg with k := 1 } })], curQ := soloQ, reds := [(0, soloGroup)] }


/-- Its mailbox steps the queue's sequence number. -/
theorem soloEred_seq {t : State} (h : exec (.ered soloWords) soloEred = .next t) : (t.queue soloQ).seq = 1 := by
  have hs : (match exec (.ered soloWords) soloEred with
    | .next u => (u.queue soloQ).seq
    | _ => 0) = 1 := by decide
  rw [h] at hs
  exact hs

/-- The state satisfies all that the statement asks of an ERED in order. -/
theorem soloEred_reaches : soloEred.engReaches soloQ soloCmd ⟨0, 0, BitVec.ofNat 64 (localBase + Cmd.redSrc soloWords), 0, []⟩
    (Cmd.redCount soloWords * eredSize soloWords) (quadPa 0 0 0x2000) false := by
  refine ⟨by decide, by decide, ⟨false, by decide⟩, by decide, fun w m sl o hw => ?_⟩
  have hq : (match homeOf (quadPa 0 0 0x2000) with
    | .window _ _ _ _ => true
    | _ => false) = false := by decide
  rw [hw] at hq
  cases hq

/-- Refutes O34: the contribution of the last member of its quad releases the quad's mailboxes, and a queue's mailbox steps its sequence
number, so the queue is not only the one that the command has left. -/
theorem not_coreFormsComplete : ¬ Obligations.CoreFormsComplete := by
  unfold Obligations.CoreFormsComplete
  intro h
  obtain ⟨-, -, -, hered, -⟩ := h soloEred
  obtain ⟨t, x, ht, -, -, hq⟩ := hered soloWords soloCmd ⟨0, 0⟩ soloTeam soloGroup ⟨by decide, by decide⟩ (by decide) rfl (by decide)
    (by decide) (by decide) (by decide) (by decide) (by decide) (by decide) ⟨by decide, by decide, by decide, by decide, by decide⟩
    (quadPa 0 0 0x2000) false soloEred_reaches
  have hseq : (soloEred.queue soloQ).popped.seq = 1 := by
    rw [← soloEred_seq ht]
    exact congrArg EngQ.seq hq.symm
  exact absurd hseq (by decide)

end Sys2Proof.Machine

/-! R39, R42, R43, R347, R348, R384: strands that end and join. -/

namespace Sys2Proof.Machine

/-! ## The decrement of a join block (R42) -/

theorem place_b2n (b : Bool) (lo : Nat) : place (b2n b) lo = if b then 2 ^ lo else 0 := by
  cases b
  · exact Nat.zero_shiftLeft lo
  · exact (Nat.shiftLeft_eq ..).trans (Nat.one_mul _)

theorem place_add_bits (why : Nat) (cp : W64) : place why 56 + bits cp 55 0 = why * 2 ^ 56 + cp.toNat % 2 ^ 56 := by
  rw [place, Nat.shiftLeft_eq, bits_low]

theorem blockDecrements : Pieces.BlockDecrements := by
  unfold Pieces.BlockDecrements
  intro s n asid pa trc reason cp w0 w1 w2 count why abn new1 left
  have hcount : bits w0 62 0 = count := bits_low ..
  have habn : (bitAt w0 63 || why != 0) = abn := by rw [bitAt_eq_getLsbD]
  have hnew : (if why != 0 && decide (bits w1 63 56 = 0) then w64 (place why 56 + bits cp 55 0) else w1) = new1 := by
    rw [place_add_bits, bits_top _ (by decide)]
    simp only [Bool.and_eq_true, bne_iff_ne, decide_eq_true_eq, new1]
  have hdec : s.decBlock n asid pa trc reason cp =
      if decide (count - 1 = 0) && w2 != 0 then
        match (left 0).parked.find? (fun p => !p.fget && p.save == w2 && p.asid == asid && p.ends.isNone) with
        | some p => (left 0).unpark p 0 (if abn then new1 else 0) 0
        | none => left 0
      else left w2 := by
    simp only [State.decBlock, place_b2n]
    rw [show s.readW pa = w0 from rfl, show s.readW (pa + 8) = w1 from rfl, show s.readW (pa + 16) = w2 from rfl, hcount,
      show (if count = 0 then 4 else reason) = why from rfl, habn, hnew]
    split
    · rfl
    · rfl
  rw [hdec]
  refine ⟨fun h => ?_, fun hc h2 p hp => ?_⟩
  · have hf : (decide (count - 1 = 0) && w2 != 0) = false := by
      rcases h with h | h
      · rw [decide_eq_false (by omega), Bool.false_and]
      · rw [h, bne_self_eq_false, Bool.and_false]
    rw [hf]
    rfl
  · have ht : (decide (count - 1 = 0) && w2 != 0) = true := by
      rw [decide_eq_true (by omega), bne_iff_ne.mpr h2]
      rfl
    rw [ht, hp]
    rfl

/-! ## RETIRE and KEND (R384, R348) -/

/-- An instruction of one full source and no destination is ready. -/
theorem Core.ready_into_zero {c : Core} {r : Reg} (hf : c.isFull r = true) : c.ready [r] 0 = true := by
  have h0 : c.isFull 0 = true := by simp [Core.isFull]
  simp only [Core.ready, List.all_cons, List.all_nil, hf, h0, Bool.true_or, Bool.and_self]

theorem State.retireAt_eq (s : State) (t : Strand) (pa : Nat) (trc : Bool) :
    s.retireAt t pa trc =
      let u := s.decBlock s.cur s.me.kasid.toNat pa trc (if s.me.tm then 1 else 0) t.startCp
      let v := if s.me.tm = true ∨ (s.readW pa).toNat % 2 ^ 63 = 0 then u.markAbn t.ref 1 else u
      v.setMe v.me.idle := by
  simp only [State.retireAt, State.underflow, bits_low, Bool.or_eq_true, beq_iff_eq]

theorem retire_of_retires {s t : State} (h : retires s t) : s.retire = t := by
  obtain ⟨st, hst, hport, hfull, hfence, h⟩ := h
  have hread : s.me.port.any (·.isRead) = false := by
    rw [List.any_eq_false]
    intro a ha
    rw [hport a ha]
    exact Bool.false_ne_true
  have hready : s.me.ready ([((2 : Reg), false)].map (·.1)) 0 = true := Core.ready_into_zero hfull
  rcases h with ⟨hva, ht⟩ | ⟨hva, hal, pa, trc, fmt, hat, ht⟩
  · simp only [State.retire, hread, Bool.false_eq_true, if_false, State.issue_ready _ hready, hfence, hst, hva]
    exact ht.symm
  · have hb : bits (s.me.get 2) 4 0 = 0 := (bits_low ..).trans hal
    have hg : (s.near (s.me.get 2)).me.get 2 = s.me.get 2 := by rw [State.me_near]; rfl
    rw [hg] at hat
    have hr : s.retire = (s.near (s.me.get 2)).retireAt st pa trc := by
      simp only [State.retire, hread, Bool.false_eq_true, if_false, State.issue_ready _ hready, hfence, hst, hb, bne_self_eq_false,
        Bool.and_false, Bool.not_true, hva, State.reach_atOnce _ rfl hat]
    rw [hr, State.retireAt_eq]
    exact ht.symm

theorem retireAndKend : Pieces.RetireAndKend := by
  unfold Pieces.RetireAndKend
  intro s t
  refine ⟨fun h => congrArg _ (retire_of_retires h), fun st hst h => ?_⟩
  simp only [exec, execKend, hst, retire_of_retires h]

/-! ## JOIN (R43, R347) -/

section
variable {s : State} {d a : Reg} {b : Nat} {trc fmt : Bool}

/-- JOIN that reaches its block at once. -/
theorem exec_join_atOnce (hr : s.me.ready [a] d = true) (hq : s.me.acquired = true) (ha : (s.me.get a).toNat % 32 = 0)
    (h : (s.near (s.me.get a)).atOnce (s.me.get a) 32 2 b trc fmt) :
    let u := s.near (s.me.get a)
    let c := u.me.didRead b 32 (u.relsAt b 32)
    exec (.join d a) s = .next (
      if (u.readW b).toNat % 2 ^ 63 = 0 then
        u.result (c.acquireRead u.cur 2 (u.relsAt b 32)) d (if (u.readW b).getLsbD 63 then u.readW (b + 8) else 0)
      else if u.readW (b + 16) != 0 then u.trap causeSync (s.me.get a)
      else u.joinPark c (s.me.get a) d b trc) := by
  intro u c
  have hb : ((s.me.get a).toNat % 32 != 0) = false := by rw [bne_eq_false_iff_eq]; exact ha
  simp only [exec, execJoin, State.issue_ready (srcs := [(a, false)]) _ hr, State.aligned, hb, hq, Bool.not_true, Bool.false_eq_true, if_false,
    State.reach_atOnce _ rfl h, bits_low, bitAt_eq_getLsbD]
  rfl

end

@[simp] theorem Core.didRead_tm (c : Core) (pa n : Nat) (rels : List Rel) : (c.didRead pa n rels).tm = c.tm := rfl
@[simp] theorem Core.didRead_get (c : Core) (pa n : Nat) (rels : List Rel) (r : Reg) : (c.didRead pa n rels).get r = c.get r := rfl
@[simp] theorem Core.didRead_isFull (c : Core) (pa n : Nat) (rels : List Rel) (r : Reg) : (c.didRead pa n rels).isFull r = c.isFull r := rfl

/-- A core `c` out of trap mode whose save area its port reaches at once parks on the block. -/
theorem State.joinPark_parks {s : State} {c : Core} {st : Strand} {lo hi : Nat} {ltrc lfmt htrc hfmt : Bool} (va : W64) (d : Reg) (b : Nat)
    (trc : Bool) (hport : c.port = s.me.port) (htm : c.tm = false) (hfull : c.isFull 1 = true) (hx : (c.get 1).toNat % 32 = 0)
    (hst : c.strand = some st) (hlo : (s.near (c.get 1)).atOnce (c.get 1) 32 1 lo ltrc lfmt)
    (hhi : ((s.near (c.get 1)).near (c.get 1 + 32)).atOnce (c.get 1 + 32) 32 1 hi htrc hfmt) :
    ∃ p : Parked, (s.joinPark c va d b trc).me = c.idle ∧ (s.joinPark c va d b trc).parked = s.parked ++ [p] ∧ p.save = c.get 1 ∧
      p.core = s.cur ∧ p.ref = st.ref ∧ p.fget = false ∧ p.obj = va := by
  have hb : (bits (c.get 1) 4 0 != 0) = false := by rw [bits_low, bne_eq_false_iff_eq]; exact hx
  simp only [State.joinPark, htm, hfull, hb, hst, State.reachSave_atOnce _ hport hlo hhi, Bool.not_true, Bool.false_eq_true, if_false]
  generalize hu : (s.near (c.get 1)).near (c.get 1 + 32) = u
  have hcur : u.cur = s.cur := by rw [← hu, State.near_cur, State.near_cur]
  have hpark : u.parked = s.parked := by rw [← hu, State.near_parked, State.near_parked]
  have hw := written_write u (b + 16) (natRun 8 (c.get 1).toNat false) (coreInfo u.cur 2 trc) (natRun_sound ..)
  obtain ⟨p, h1, h2, h3, h4, h5, h6, h7⟩ :=
    (u.write (b + 16) (natRun 8 (c.get 1).toNat false) (coreInfo u.cur 2 trc)).park_parks c (lo, ltrc) (hi, htrc) 1 va d st
  exact ⟨p, h1, h2.trans (by rw [hw.parked, hpark]), h3, h4.trans (hw.cur.trans hcur), h5, h6, h7⟩

theorem joinCompletesOrParks : Pieces.JoinCompletesOrParks := by
  unfold Pieces.JoinCompletesOrParks
  intro s0 d a b trc fmt hr hq va s c hal hat w0
  have he := exec_join_atOnce hr hq hal hat
  refine ⟨fun hz => ⟨_, he.trans (congrArg _ (if_pos hz)), wrote_result_of ..⟩,
    fun hnz h16 htm hf1 hx1 st lo ltrc lfmt hi htrc hfmt hst hlo hhi => ?_⟩
  have hg : c.get 1 = s.me.get 1 := Core.didRead_get ..
  rw [← hg] at hx1 hlo hhi ⊢
  obtain ⟨p, hp⟩ := s.joinPark_parks va d b trc (Core.didRead_port ..) ((Core.didRead_tm ..).trans htm)
    ((Core.didRead_isFull ..).trans hf1) hx1 ((Core.didRead_strand ..).trans hst) hlo hhi
  refine ⟨_, p, he.trans (congrArg _ ((if_neg hnz).trans (if_neg ?_))), hp⟩
  rw [h16]
  decide

end Sys2Proof.Machine

/-! R42, R348: what becomes of the other strands of a node that a KEND ends. -/

namespace Sys2Proof.Machine

/-! ## No strand of the node waits any more -/

/-- No record of node `r` is queued or held, and what it has parked is ending. -/
structure State.Rid (s : State) (r : NodeRef) : Prop where
  quads : ∀ k, ∀ x ∈ (s.quad k).contq.chip ++ (s.quad k).contq.ring, x.ref ≠ r
  fields : ∀ k, ∀ x ∈ (s.field k).contq.chip ++ (s.field k).contq.ring, x.ref ≠ r
  held : ∀ h ∈ s.held, h.crec.ref ≠ r
  parked : ∀ p ∈ s.parked, p.ref = r → p.ends.isSome = true

theorem mget_map {α : Type} (m : Map α) (f : α → α) (k : Nat) {d : α} (h : f d = d) :
    mget (m.map fun e => (e.1, f e.2)) k d = f (mget m k d) := by
  rw [mget_eq_mfind, mget_eq_mfind, mfind_map]
  cases mfind m k with
  | none => exact h.symm
  | some v => rfl

theorem ContQ.mem_without {q : ContQ} {r : NodeRef} {x : Rec} (h : x ∈ (q.without r).chip ++ (q.without r).ring) : x.ref ≠ r := by
  rw [ContQ.without, ← List.filter_append] at h
  simpa using (List.mem_filter.mp h).2

theorem rid_dropStrands (s : State) (r : NodeRef) (reason : Nat) : (s.dropStrands r reason).Rid r where
  quads := by
    intro k x hx
    have hq : (s.dropStrands r reason).quad k = { s.quad k with contq := (s.quad k).contq.without r } :=
      mget_map s.quads (fun q => { q with contq := q.contq.without r }) k rfl
    rw [hq] at hx
    exact ContQ.mem_without hx
  fields := by
    intro k x hx
    have hf : ∃ g, (s.dropStrands r reason).field k = { s.field k with contq := (s.field k).contq.without r, futs := g } :=
      ⟨_, mget_map s.fields (fun f => { f with contq := f.contq.without r, futs := f.futs.map fun e =>
        (e.1, e.2.forget ((s.parked.filter (·.ref == r)).map (·.id))) }) k rfl⟩
    obtain ⟨g, hf⟩ := hf
    rw [hf] at hx
    exact ContQ.mem_without hx
  held := by
    intro h hh
    simpa using (List.mem_filter.mp hh).2
  parked := by
    intro p hp hr
    obtain ⟨q, -, rfl⟩ := List.mem_map.mp hp
    by_cases hc : (q.ref == r && q.ends.isNone) = true
    · rw [if_pos hc]
      rfl
    · rw [if_neg hc] at hr ⊢
      cases he : q.ends with
      | some _ => rfl
      | none => simp [hr, he] at hc

/-- `t` differs from `s` in what the end of a strand of node `r` elsewhere changes: no core's end has begun or gone, and no strand of the
node has come to wait. -/
structure State.Apart (r : NodeRef) (s t : State) : Prop where
  ending : ∀ n, (t.core n).ending = (s.core n).ending
  rid : s.Rid r → t.Rid r

section
variable {r : NodeRef} {s t u : State}

theorem State.Apart.refl (r : NodeRef) (s : State) : State.Apart r s s := ⟨fun _ => rfl, id⟩

theorem State.Apart.trans (h : State.Apart r s t) (k : State.Apart r t u) : State.Apart r s u :=
  ⟨fun n => (k.ending n).trans (h.ending n), fun x => k.rid (h.rid x)⟩

theorem State.Rid.of_same (h : s.Rid r) (hq : t.quads = s.quads) (hf : t.fields = s.fields) (hh : t.held = s.held)
    (hp : ∀ p ∈ t.parked, p ∈ s.parked) : t.Rid r where
  quads := by simpa only [State.quad, hq] using h.quads
  fields := by simpa only [State.field, hf] using h.fields
  held := by simpa only [hh] using h.held
  parked := fun p hpm => h.parked p (hp p hpm)

theorem State.Written.apart (h : State.Written s t) (r : NodeRef) : State.Apart r s t :=
  ⟨h.ending, fun x => x.of_same h.quads h.fields h.held (fun _ hp => h.parked ▸ hp)⟩

end

/-- Pushing a record of another node leaves none of this one. -/
theorem apart_pushHard (s : State) (quad : Nat) {x : Rec} {r : NodeRef} (hx : x.ref ≠ r) : State.Apart r s (s.pushHard quad x) := by
  rcases s.pushHard_cases quad x with h | ⟨q, hq, h⟩ <;> rw [h]
  · refine ⟨fun _ => rfl, fun hr => ⟨hr.quads, hr.fields, fun y hy => ?_, hr.parked⟩⟩
    rcases List.mem_append.mp hy with hy | hy
    · exact hr.held y hy
    · rw [List.mem_singleton.mp hy]
      exact hx
  · refine State.Apart.trans (t := s.setQuad quad { s.quad quad with contq := q })
      ⟨fun _ => rfl, fun hr => ⟨fun k y hy => ?_, hr.fields, hr.held, hr.parked⟩⟩ ((written_spill ..).apart r)
    by_cases hk : k = quad
    · subst hk
      rw [State.quad_setQuad] at hy
      rcases ContQ.mem_of_mem_push hq hy with rfl | hy
      · exact hx
      · exact hr.quads k y hy
    · rw [State.quad_setQuad_ne _ _ _ _ hk] at hy
      exact hr.quads k y hy

theorem apart_parked {r : NodeRef} {s : State} {l : List Parked} (h : ∀ p ∈ l, p ∈ s.parked) : State.Apart r s { s with parked := l } :=
  ⟨fun _ => rfl, fun x => x.of_same rfl rfl rfl h⟩

theorem apart_unpark (s : State) {p : Parked} {r : NodeRef} (out : Nat) (val : W64) (prio : Nat) (hp : p.ref ≠ r) :
    State.Apart r s (s.unpark p out val prio) := by
  obtain ⟨u, x, hu, hx, h⟩ := s.unpark_cases p out val prio
  rw [h]
  exact (hu.apart r).trans ((apart_parked fun q hq => (List.mem_filter.mp hq).1).trans (apart_pushHard _ _ (hx ▸ hp)))

/-- What follows the write of a decremented block: with its last hold gone, the strand parked on it is released. -/
def State.freeBlock (s : State) (last : Bool) (save : W64) (asid : Nat) (val : W64) : State :=
  if last then
    match s.parked.find? (fun p => !p.fget && p.save == save && p.asid == asid && p.ends.isNone) with
    | some p => s.unpark p 0 val 0
    | none => s
  else s

theorem State.decBlock_eq_freeBlock (s : State) (n asid pa : Nat) (trc : Bool) (reason : Nat) (cp : W64) :
    ∃ bs last val, bs.any (·.2) = false ∧ s.decBlock n asid pa trc reason cp =
      (s.writeAs pa bs ⟨2, 0, n, trc, 0⟩ (some ⟨.core n, 2⟩)).freeBlock last (s.readW (pa + 16)) asid val := by
  refine ⟨_, _, _, ?_, rfl⟩
  simp only [List.any_append, natRun_sound, Bool.or_self]

/-- What the decrement of a block leaves: the block is written, and a strand parked on it that was not ending is released. -/
theorem State.decBlock_cases (s : State) (n asid pa : Nat) (trc : Bool) (reason : Nat) (cp : W64) :
    ∃ u, State.Written s u ∧ (s.decBlock n asid pa trc reason cp = u ∨
      ∃ p ∈ u.parked, p.ends = none ∧ ∃ val, s.decBlock n asid pa trc reason cp = u.unpark p 0 val 0) := by
  obtain ⟨bs, last, val, hbs, h⟩ := s.decBlock_eq_freeBlock n asid pa trc reason cp
  refine ⟨_, written_writeAs s pa bs ⟨2, 0, n, trc, 0⟩ (some ⟨.core n, 2⟩) hbs, ?_⟩
  rw [h, State.freeBlock]
  split
  · split
    · next p hp =>
      have he := List.find?_some hp
      simp only [Bool.and_eq_true, Option.isNone_iff_eq_none] at he
      exact .inr ⟨p, List.mem_of_find?_eq_some hp, he.2, _, rfl⟩
    · exact .inl rfl
  · exact .inl rfl

theorem apart_decBlock (s : State) (n asid pa : Nat) (trc : Bool) (reason : Nat) (cp : W64) (r : NodeRef) :
    State.Apart r s (s.decBlock n asid pa trc reason cp) := by
  obtain ⟨u, hu, h | ⟨p, hp, he, val, h⟩⟩ := s.decBlock_cases n asid pa trc reason cp <;> rw [h]
  · exact hu.apart r
  · refine (hu.apart r).trans ⟨(aside_unpark ..).ending, fun hr => ?_⟩
    have hpr : p.ref ≠ r := fun e => by simpa [he] using hr.parked p hp e
    exact (apart_unpark u 0 val 0 hpr).rid hr

theorem apart_modNode (r x : NodeRef) (s : State) (f : Node → Node) : State.Apart r s (s.modNode x f) := by
  have h : ∃ l, s.modNode x f = { s with sheaves := l } := by
    unfold State.modNode State.setNode
    split
    · split
      · exact ⟨_, rfl⟩
      · exact ⟨_, rfl⟩
    · exact ⟨_, rfl⟩
  obtain ⟨l, h⟩ := h
  rw [h]
  exact ⟨fun _ => rfl, fun hr => hr.of_same rfl rfl rfl fun _ hp => hp⟩

/-- The decrement for a removed strand leaves the state alone, or decrements a block. -/
theorem State.decFor_cases {s u : State} {n asid : Nat} {jc : W64} {reason : Nat} {cp : W64} {d : Dec}
    (h : s.decFor n asid jc reason cp = (u, d)) : u = s ∨ ∃ pa trc, u = s.decBlock n asid pa trc reason cp := by
  unfold State.decFor at h
  split at h
  · exact .inl (Prod.mk.inj h).1.symm
  · split at h
    · exact .inl (Prod.mk.inj h).1.symm
    · split at h
      · next pa trc _ _ =>
        generalize s.poisonRun pa 32 = p at h
        cases p with
        | true => exact .inl (Prod.mk.inj h).1.symm
        | false =>
          rw [if_neg Bool.false_ne_true] at h
          exact .inr ⟨pa, trc, (Prod.mk.inj h).1.symm⟩
      · exact .inl (Prod.mk.inj h).1.symm

theorem apart_decRemoved (r x : NodeRef) (s : State) (n asid : Nat) (jc : W64) (reason : Nat) (cp : W64) :
    State.Apart r s (s.decRemoved n asid jc reason cp x) := by
  rcases hd : s.decFor n asid jc reason cp with ⟨u, d⟩
  have hu : State.Apart r s u := by
    rcases State.decFor_cases hd with rfl | ⟨pa, trc, rfl⟩
    · exact .refl r _
    · exact apart_decBlock ..
  simp only [State.decRemoved, hd]
  split
  · exact hu.trans (apart_modNode ..)
  · exact hu

theorem apart_foldl {α : Type} {r : NodeRef} (f : State → α → State) (h : ∀ s a, State.Apart r s (f s a)) (l : List α) (s : State) :
    State.Apart r s (l.foldl f s) := by
  induction l generalizing s with
  | nil => exact .refl r s
  | cons a l ih => exact (h s a).trans (ih _)

theorem apart_endParked (r : NodeRef) (s : State) (n : Nat) : State.Apart r s (s.endParked n) := by
  refine apart_foldl _ (fun u p => ?_) _ s
  exact (apart_parked fun q hq => (List.mem_filter.mp hq).1).trans (apart_decRemoved ..)

/-! ## Running strands begin to end -/

/-- What a core gives up does not depend on its fault. -/
theorem Core.unhold_fault (c : Core) (f : Option Nat) : { c with fault := f }.unhold = { c.unhold with fault := f } := by
  cases c
  simp only [Core.unhold, Core.find, Core.withdraw]
  split
  · split
    · split <;> rfl
    · rfl
  · rfl
  · rfl

/-- The core of a strand that begins to end. -/
def Core.begin (c : Core) (reason : Nat) : Core := { c.unhold with ending := some ⟨reason, none, false⟩ }

theorem Core.begin_strand (c : Core) (reason : Nat) : (c.begin reason).strand = c.strand := by
  rw [Core.begin, Core.unhold_eq]

/-- A strand begins to end where it runs and is not ending yet, or a KEND ends it (R42). -/
theorem State.beginEnd_cases (s : State) (n reason : Nat) :
    (s.beginEnd n reason = s ∧ ((s.core n).strand.isSome = true → (s.core n).ending.isSome = true)) ∨
      ∃ l f, s.beginEnd n reason = { s with faults := l }.setCore n ({ s.core n with fault := f }.begin reason) := by
  unfold State.beginEnd
  dsimp only
  split
  · next h => exact .inl ⟨rfl, fun hs => by rw [h] at hs; cases hs⟩
  · right
    split
    · exact ⟨_, none, by rw [State.core_setCore, State.setCore_setCore]; rfl⟩
    · exact ⟨s.faults, (s.core n).fault, rfl⟩
  · next e he =>
    split
    · exact .inr ⟨s.faults, (s.core n).fault, rfl⟩
    · exact .inl ⟨rfl, fun _ => by rw [he]; rfl⟩

/-- `t` differs from `s` in strands that have begun to end: every core runs the strand that it ran. -/
structure State.Begins (s t : State) : Prop where
  strand : ∀ n, (t.core n).strand = (s.core n).strand
  ending : ∀ n, (s.core n).ending.isSome = true → (t.core n).ending.isSome = true

theorem begins_beginEnd (s : State) (n reason : Nat) :
    State.Begins s (s.beginEnd n reason) ∧
      ((s.core n).strand.isSome = true → ((s.beginEnd n reason).core n).ending.isSome = true) := by
  rcases s.beginEnd_cases n reason with ⟨h, he⟩ | ⟨l, f, h⟩ <;> rw [h]
  · exact ⟨⟨fun _ => rfl, fun _ => id⟩, he⟩
  · refine ⟨⟨fun m => ?_, fun m hm => ?_⟩, fun _ => ?_⟩
    · by_cases e : m = n
      · rw [e, State.core_setCore, Core.begin_strand]
      · rw [State.core_setCore_ne _ _ _ _ e]
        rfl
    · by_cases e : m = n
      · rw [e, State.core_setCore]
        rfl
      · rw [State.core_setCore_ne _ _ _ _ e]
        exact hm
    · rw [State.core_setCore]
      rfl

theorem begins_foldl (reason : Nat) (l : List (Nat × Core)) (s : State) :
    let t := l.foldl (fun s p => s.beginEnd p.1 reason) s
    State.Begins s t ∧ ∀ p ∈ l, (s.core p.1).strand.isSome = true → (t.core p.1).ending.isSome = true := by
  induction l generalizing s with
  | nil => exact ⟨⟨fun _ => rfl, fun _ => id⟩, fun p hp => by cases hp⟩
  | cons a l ih =>
    obtain ⟨hb, ha⟩ := begins_beginEnd s a.1 reason
    obtain ⟨hi, hl⟩ := ih (s.beginEnd a.1 reason)
    refine ⟨⟨fun n => (hi.strand n).trans (hb.strand n), fun n hn => hi.ending n (hb.ending n hn)⟩, fun p hp hs => ?_⟩
    rcases List.mem_cons.mp hp with rfl | hp
    · exact hi.ending _ (ha hs)
    · exact hl p hp (by rw [hb.strand]; exact hs)

/-! ## The strands that end -/

section
variable (s : State) (r : NodeRef) (keep : Option Nat)

/-- The cores whose strands a KEND ends. -/
def State.othersOf : List (Nat × Core) := s.cores.filter fun p => p.2.ref == some r && keep != some p.1

/-- The records that it removes. -/
def State.recsOf : List Rec :=
  s.quads.flatMap (fun p => p.2.contq.of r) ++ s.fields.flatMap (fun p => p.2.contq.of r) ++
    (s.held.filter (·.crec.ref == r)).map (·.crec)

theorem State.endStrands_eq (reason : Nat) : s.endStrands r reason keep =
    (s.parked.filter (·.ref == r)).foldl (fun s p => s.endParked p.core) ((s.recsOf r).foldl (fun s x => s.decRec reason x)
      (((s.othersOf r keep).foldl (fun s p => s.beginEnd p.1 reason) s).dropStrands r reason)) := rfl

theorem apart_endStrands (reason : Nat) :
    State.Apart r (((s.othersOf r keep).foldl (fun s p => s.beginEnd p.1 reason) s).dropStrands r reason) (s.endStrands r reason keep) :=
  (apart_foldl _ (fun _ _ => apart_decRemoved ..) _ _).trans (apart_foldl _ (fun _ _ => apart_endParked ..) _ _)

theorem rid_endStrands (reason : Nat) : (s.endStrands r reason keep).Rid r :=
  (apart_endStrands s r keep reason).rid (rid_dropStrands ..)

theorem endStrands_ending (reason : Nat) {n : Nat} {st : Strand} (hn : (s.core n).strand = some st) (hr : st.ref = r) (hk : keep ≠ some n) :
    ((s.endStrands r reason keep).core n).ending.isSome = true := by
  obtain ⟨-, hb⟩ := begins_foldl reason (s.othersOf r keep) s
  have hm : ∃ c, mfind s.cores n = some c ∧ s.core n = c := by
    have hg : s.core n = (mfind s.cores n).getD resetCore := mget_eq_mfind ..
    cases hf : mfind s.cores n with
    | some c => exact ⟨c, rfl, by rw [hg, hf]; rfl⟩
    | none =>
      rw [hg, hf] at hn
      cases hn
  obtain ⟨c, hc, hcn⟩ := hm
  have hmem : (n, c) ∈ s.othersOf r keep := by
    refine List.mem_filter.mpr ⟨mfind_mem hc, ?_⟩
    rw [hcn] at hn
    simp [Core.ref, hn, hr, hk]
  rw [(apart_endStrands s r keep reason).ending]
  exact hb (n, c) hmem (by rw [hn]; rfl)

end

/-! ## A KEND of a node with one other strand -/

/-- A queue without records of the node stays as it is. -/
theorem ContQ.without_of_none {q : ContQ} {r : NodeRef} (h : q.of r = []) : q.without r = q := by
  have hx : ∀ x ∈ q.chip ++ q.ring, (x.ref != r) = true := by
    intro x hx
    have hn := List.filter_eq_nil_iff.mp h x hx
    rw [bne_iff_ne]
    exact fun e => hn (beq_iff_eq.mpr e)
  unfold ContQ.without
  rw [List.filter_eq_self.mpr fun x hm => hx x (List.mem_append_left _ hm),
    List.filter_eq_self.mpr fun x hm => hx x (List.mem_append_right _ hm)]

theorem Fut.forget_nil (e : Fut) : e.forget [] = e := by
  have h : e.waiters.filter (fun i => !shas [] i) = e.waiters := List.filter_eq_self.mpr fun _ _ => rfl
  rw [Fut.forget, h]

theorem map_eq_self {α : Type} {f : α → α} {l : List α} (h : ∀ x ∈ l, f x = x) : l.map f = l :=
  (List.map_congr_left h).trans (List.map_id l)

/-- Taking out the waiting strands of a node that has none changes nothing. -/
theorem State.dropStrands_of_none {s : State} {r : NodeRef} (reason : Nat) (hq : s.recsOf r = []) (hp : s.parked.filter (·.ref == r) = []) :
    s.dropStrands r reason = s := by
  simp only [State.recsOf, List.append_eq_nil_iff, List.flatMap_eq_nil_iff, List.map_eq_nil_iff] at hq
  obtain ⟨⟨hquads, hfields⟩, hheld⟩ := hq
  have hne : ∀ {α : Type} {l : List α} {g : α → NodeRef}, l.filter (g · == r) = [] → ∀ x ∈ l, g x ≠ r :=
    fun h x hx e => List.filter_eq_nil_iff.mp h x hx (beq_iff_eq.mpr e)
  have h1 : s.quads.map (fun p => (p.1, { p.2 with contq := p.2.contq.without r })) = s.quads :=
    map_eq_self fun p hm => by rw [ContQ.without_of_none (hquads p hm)]
  have hfut : ∀ m : Map Fut, m.map (fun e => (e.1, e.2.forget [])) = m := fun m => map_eq_self fun e _ => by rw [Fut.forget_nil]
  have h2 : s.fields.map (fun p => (p.1, { p.2 with contq := p.2.contq.without r, futs := p.2.futs.map fun e => (e.1, e.2.forget []) })) =
      s.fields := map_eq_self fun p hm => by
    rw [ContQ.without_of_none (hfields p hm), hfut]
  have h3 : s.held.filter (·.crec.ref != r) = s.held := List.filter_eq_self.mpr fun h hm => bne_iff_ne.mpr (hne hheld h hm)
  have h4 : s.parked.map (fun p => if p.ref == r && p.ends.isNone then { p with ends := some reason } else p) = s.parked :=
    map_eq_self fun p hm => if_neg (by simp [hne hp p hm])
  simp only [State.dropStrands, hp, List.map_nil, h1, h2, h3, h4]

/-- A list that a filter keeps alone, as its keys tell. -/
theorem eq_singleton_of_keys {α : Type} {l : List (Nat × α)} {n : Nat} (h : l.map (·.1) = [n]) : ∃ c, l = [(n, c)] := by
  obtain ⟨p, hp, rfl⟩ := List.map_eq_singleton_iff.mp h
  exact ⟨p.2, hp⟩

section
variable {s : State} {r : NodeRef} {keep : Option Nat}

/-- A KEND of a node whose one other strand runs on core `n`. -/
theorem endStrands_one_running {n : Nat} (h : (s.othersOf r keep).map (·.1) = [n]) (hq : s.recsOf r = [])
    (hp : s.parked.filter (·.ref == r) = []) : s.endStrands r 0 keep = s.beginEnd n 0 := by
  obtain ⟨c, hc⟩ := eq_singleton_of_keys h
  have hb : ∃ l cs, s.beginEnd n 0 = { s with faults := l, cores := cs } := by
    rcases s.beginEnd_cases n 0 with ⟨h, -⟩ | ⟨l, f, h⟩ <;> rw [h]
    · exact ⟨s.faults, s.cores, rfl⟩
    · exact ⟨l, _, rfl⟩
  obtain ⟨l, cs, hb⟩ := hb
  have hd : (s.beginEnd n 0).dropStrands r 0 = s.beginEnd n 0 := by
    rw [hb]
    exact State.dropStrands_of_none 0 hq hp
  rw [State.endStrands_eq, hq, hp, hc]
  exact hd

/-- A strand not yet ending begins to end; a fault before an instruction is forgotten. -/
theorem beginEnd_fresh {n : Nat} (hr : (s.core n).ref = some r) (he : (s.core n).ending = none) :
    let v := if (s.core n).fault.isSome && (s.lateId n).isNone then
      { s with faults := mdelOpt s.faults (s.core n).fault }.setCore n { s.core n with fault := none } else s
    s.beginEnd n 0 = v.setCore n ((v.core n).begin 0) := by
  intro v
  unfold State.beginEnd
  dsimp only
  split
  · next h => rw [Core.ref, h] at hr; cases hr
  · rfl
  · next h => rw [he] at h; cases h

theorem beginEnd_of_sound {n : Nat} (hr : (s.core n).ref = some r) (he : (s.core n).ending = none) (hf : (s.core n).fault = none) :
    s.beginEnd n 0 = s.setCore n ((s.core n).begin 0) := by
  rw [beginEnd_fresh hr he, if_neg (by rw [hf]; exact Bool.false_ne_true)]

theorem beginEnd_of_stopped {n f : Nat} (hr : (s.core n).ref = some r) (he : (s.core n).ending = none) (hf : (s.core n).fault = some f)
    (hl : s.lateId n = none) :
    s.beginEnd n 0 = { s with faults := mdelOpt s.faults (some f) }.setCore n { (s.core n).begin 0 with fault := none } := by
  rw [beginEnd_fresh hr he, if_pos (by rw [hf, hl]; rfl), State.core_setCore, State.setCore_setCore, Core.begin, Core.unhold_fault, hf]
  rfl

/-- The decrement for a removed strand whose block can be used, and has a hold: its node is not marked. -/
theorem decRemoved_of_block {n asid pa : Nat} {jc cp : W64} {trc fmt : Bool} (hjc : jc ≠ 0) (hal : jc.toNat % 32 = 0)
    (ht : s.coreTr n asid jc 32 2 = .ok pa trc fmt) (hp : s.poisonRun pa 32 = false) (hc : (s.readW pa).toNat % 2 ^ 63 ≠ 0) :
    s.decRemoved n asid jc 0 cp r = s.decBlock n asid pa trc 0 cp := by
  have hb : bits jc 4 0 = 0 := (bits_low ..).trans hal
  have hu : s.underflow pa = false := by
    rw [State.underflow, bits_low, beq_eq_false_iff_ne]
    exact hc
  have hd : s.decFor n asid jc 0 cp = (s.decBlock n asid pa trc 0 cp, .done) := by
    simp only [State.decFor, hjc, hb, ht, hp, hu, bne_self_eq_false, Bool.false_eq_true, if_false]
  rw [State.decRemoved, hd]
  exact if_neg (by decide)

theorem decRemoved_of_none {n asid : Nat} {cp : W64} : s.decRemoved n asid 0 0 cp r = s := by
  have hd : s.decFor n asid 0 0 cp = (s, .done) := if_pos rfl
  rw [State.decRemoved, hd]
  exact if_neg (by decide)

end

section
variable {s : State} {r : NodeRef} {keep : Option Nat}

theorem State.ref_of_mem_recsOf {x : Rec} (h : x ∈ s.recsOf r) : x.ref = r := by
  simp only [State.recsOf, List.mem_append, List.mem_flatMap, List.mem_map, List.mem_filter, ContQ.of, beq_iff_eq] at h
  rcases h with (⟨-, -, -, h⟩ | ⟨-, -, -, h⟩) | ⟨y, ⟨-, h⟩, rfl⟩
  · exact h
  · exact h
  · exact h

/-- A KEND of a node whose one other strand is a record. -/
theorem endStrands_one_record {x : Rec} (h : s.othersOf r keep = []) (hq : s.recsOf r = [x]) (hp : s.parked.filter (·.ref == r) = []) :
    let d := s.dropStrands r 0
    s.endStrands r 0 keep = d.decRemoved x.core (d.refAsid r) x.jc 0 x.cp r := by
  intro d
  have hx : x.ref = r := State.ref_of_mem_recsOf (s := s) (by rw [hq]; exact List.mem_singleton_self x)
  have hd : s.endStrands r 0 keep = d.decRec 0 x := by rw [State.endStrands_eq, h, hq, hp]; rfl
  rw [hd, State.decRec, hx]

/-- The one parked strand ends once its writes have performed. -/
theorem endParked_one {q : Parked} {reason : Nat} (hs : s.parked = [q]) (he : q.ends = some reason) :
    (s.parkedDone q = false → s.endParked q.core = s) ∧
      (s.parkedDone q = true → s.endParked q.core = { s with parked := [] }.decParked reason q) := by
  have hg : s.parked.filter (fun p => p.core == q.core && p.ends.isSome && s.parkedDone p) = if s.parkedDone q then [q] else [] := by
    rw [hs]
    simp only [List.filter_cons, List.filter_nil, beq_self_eq_true, he, Option.isSome_some, Bool.true_and]
  have hf : s.parked.filter (·.id != q.id) = [] := by
    rw [hs]
    simp
  refine ⟨fun hd => ?_, fun hd => ?_⟩
  · rw [State.endParked, hg, hd]
    rfl
  · rw [State.endParked, hg, hd]
    simp only [if_true, List.foldl_cons, List.foldl_nil, hf, he, Option.getD_some]

/-- A KEND of a node whose one other strand is parked: it is removed once its writes have performed. -/
theorem endStrands_one_parked {p : Parked} {blk : W64} (h : s.othersOf r keep = []) (hq : s.recsOf r = [])
    (hp : s.parked.filter (·.ref == r) = [p]) (hends : p.ends = none) (hps : s.parked = [p]) (e : State)
    (he : e = { s.dropStrands r 0 with parked := [] }) (hblk : e.coreWord p.core p.asid (p.save + 16) = blk) :
    (s.parkedDone p = false → s.endStrands r 0 keep = s.dropStrands r 0) ∧
      (s.parkedDone p = true → s.endStrands r 0 keep = e.decRemoved p.core p.asid blk 0
        (BitVec.ofNat 64 ((e.coreWord p.core p.asid (p.save + 48)).toNat % 2 ^ 56)) r) := by
  have hr : p.ref = r := by
    have hm : p ∈ s.parked.filter (·.ref == r) := by rw [hp]; exact List.mem_singleton_self p
    simpa using (List.mem_filter.mp hm).2
  have hpd : (s.dropStrands r 0).parked = [{ p with ends := some 0 }] := by
    simp only [State.dropStrands, hps, List.map_cons, List.map_nil, hr, hends, beq_self_eq_true, Option.isNone_none, Bool.and_self, if_true]
  have hend : s.endStrands r 0 keep = (s.dropStrands r 0).endParked p.core := by rw [State.endStrands_eq, h, hq, hp]; rfl
  obtain ⟨hstay, hgo⟩ := endParked_one hpd rfl
  refine ⟨fun hd => hend.trans (hstay hd), fun hd => hend.trans ((hgo hd).trans ?_)⟩
  rw [← he, State.decParked, bits_low, ← hr, ← hblk]
  rfl

end

theorem othersEnd : Pieces.OthersEnd := by
  unfold Pieces.OthersEnd
  intro s r keep u d running queued parked
  have hrid : u.Rid r := rid_endStrands s r keep 0
  refine ⟨fun n st hn hr hk => endStrands_ending s r keep 0 hn hr hk, fun k x hx => ?_, hrid.held, hrid.parked, ?_,
    ⟨rfl, rfl⟩, fun x hrun hq hp => ?_, ?_⟩
  · rw [List.append_assoc, List.mem_append] at hx
    rcases hx with hx | hx
    · exact hrid.quads k x hx
    · exact hrid.fields k x hx
  · intro n c hrun href hq hp he
    have hu : u = s.beginEnd n 0 := endStrands_one_running hrun hq hp
    have hc : c.unhold = { c with hold := .none, wait := none, port := c.unhold.port, full := c.unhold.full } := Core.unhold_eq c
    refine ⟨c.unhold, ?_, ?_, ?_, ?_, ?_, ?_, fun hf => hu.trans (beginEnd_of_sound href he hf),
      fun f hf hl => hu.trans (beginEnd_of_stopped href he hf hl)⟩
    all_goals rw [hc]
  · have hu : u = d.decRemoved x.core (d.refAsid r) x.jc 0 x.cp r := endStrands_one_record hrun hq hp
    refine ⟨fun h0 => ?_, fun h0 hal pa trc fmt ht hps hcnt => hu.trans (decRemoved_of_block h0 hal ht hps hcnt)⟩
    rw [hu, h0]
    exact decRemoved_of_none
  · intro p hrun hq hp hends hps e blk scp
    obtain ⟨hstay, hgo⟩ := endStrands_one_parked hrun hq hp hends hps e rfl (blk := blk) rfl
    refine ⟨hstay, fun hd h0 => (hgo hd).trans ?_,
      fun hd h0 hal pa trc fmt ht hpo hcnt => (hgo hd).trans (decRemoved_of_block h0 hal ht hpo hcnt)⟩
    rw [h0]
    exact decRemoved_of_none

/-- Settles O42: RETIRE and KEND, the strands that a KEND ends, the decrement of a join block, and JOIN. -/
theorem strandsEndAndJoin : Obligations.StrandsEndAndJoin := ⟨retireAndKend, othersEnd, blockDecrements, joinCompletesOrParks⟩

end Sys2Proof.Machine

/-! R31, R32, R37, R285: nodes that start on their ranks, and nodes that complete. -/

namespace Sys2Proof.Machine

/-! ## The start of a core kernel (R37) -/

/-- The record stands in the queue of quad `k`, or is held for it. -/
def State.offers (s : State) (k : Nat) (x : Rec) : Prop :=
  x ∈ (s.quad k).contq.chip ++ (s.quad k).contq.ring ∨ (⟨k, x⟩ : HeldRec) ∈ s.held

/-- `t` has the nodes of `s`, and every record that a quad of `s` offers. -/
structure State.Feeds (s t : State) : Prop where
  sheaves : t.sheaves = s.sheaves
  offers : ∀ k x, s.offers k x → t.offers k x

section
variable {s t u : State}

theorem State.Feeds.refl (s : State) : State.Feeds s s := ⟨rfl, fun _ _ => id⟩

theorem State.Feeds.trans (h : State.Feeds s t) (k : State.Feeds t u) : State.Feeds s u :=
  ⟨k.sheaves.trans h.sheaves, fun n x hx => k.offers n x (h.offers n x hx)⟩

theorem State.Feeds.of_eq (hs : t.sheaves = s.sheaves) (hq : t.quads = s.quads) (hh : t.held = s.held) : State.Feeds s t :=
  ⟨hs, fun k x hx => by rwa [State.offers, State.quad, hq, hh]⟩

theorem State.Written.feeds (h : State.Written s t) : State.Feeds s t := .of_eq h.sheaves h.quads h.held

theorem feeds_foldl {α : Type} (f : State → α → State) (h : ∀ s a, State.Feeds s (f s a)) (l : List α) (s : State) :
    State.Feeds s (l.foldl f s) := by
  induction l generalizing s with
  | nil => exact .refl s
  | cons a r ih => exact (h s a).trans (ih _)

end

/-- A record pushed by hardware is offered, and so is every record that was. -/
theorem feeds_pushHard (s : State) (k : Nat) (x : Rec) : State.Feeds s (s.pushHard k x) ∧ (s.pushHard k x).offers k x := by
  rcases s.pushHard_cases k x with h | ⟨q, hq, h⟩ <;> rw [h]
  · refine ⟨⟨rfl, fun j y hy => hy.imp id fun hm => List.mem_append_left _ hm⟩, .inr ?_⟩
    exact List.mem_append_right _ (List.mem_singleton_self _)
  · have hw : State.Feeds (s.setQuad k { s.quad k with contq := q }) _ := (written_spill _ q (s.quadRing k x.ref) x).feeds
    have hput : State.Feeds s (s.setQuad k { s.quad k with contq := q }) := by
      refine ⟨rfl, fun j y hy => hy.imp (fun hm => ?_) id⟩
      by_cases e : j = k
      · subst e
        rw [State.quad_setQuad]
        exact ContQ.mem_push hq (.inr hm)
      · rw [State.quad_setQuad_ne _ _ _ _ e]
        exact hm
    refine ⟨hput.trans hw, hw.offers k x (.inl ?_)⟩
    rw [State.quad_setQuad]
    exact ContQ.mem_push hq (.inl rfl)

theorem feeds_setQueue (s : State) (k : Nat) (q : EngQ) : State.Feeds s (s.setQueue k q) := .of_eq rfl rfl rfl

theorem feeds_formReds (s : State) (r : NodeRef) : State.Feeds s (s.formReds r) := by
  unfold State.formReds
  dsimp only
  refine feeds_foldl _ ?_ _ _
  exact fun _ _ => .of_eq rfl rfl rfl

theorem feeds_setCore (s : State) (n : Nat) (c : Core) : State.Feeds s (s.setCore n c) := .of_eq rfl rfl rfl

theorem feeds_startCoreOf (s : State) (r : NodeRef) (t : Team) (region prio rank : Nat) :
    let n := t.coreOf (shWafer r.sheaf) rank
    State.Feeds s (s.startCoreOf r t region prio rank) ∧
      (s.startCoreOf r t region prio rank).offers (nQuad n) (startRec r (s.nodeWords r) region prio n rank) := by
  intro n
  obtain ⟨hf, ho⟩ := feeds_pushHard (s.setCore n { s.core n with
    kasid := BitVec.ofNat 10 (s.refAsid r), kwlim := BitVec.ofNat 32 (bits (nth (s.nodeWords r) 2 0) 31 0),
    kggeo := rankGeo (nth (s.nodeWords r) 5 0) rank }) (nQuad n) (startRec r (s.nodeWords r) region prio n rank)
  exact ⟨(feeds_setCore ..).trans hf, ho⟩

theorem State.Feeds.nodeWords {s t : State} (h : State.Feeds s t) (r : NodeRef) : t.nodeWords r = s.nodeWords r := by
  rw [State.nodeWords, State.nodeWords, State.node?, State.node?, h.sheaves]

/-- Each rank's record is offered once the cores of the team have started. -/
theorem startCores_offer (r : NodeRef) (t : Team) (region prio : Nat) (l : List Nat) (s : State) :
    State.Feeds s (l.foldl (fun s k => s.startCoreOf r t region prio k) s) ∧
      ∀ k ∈ l, (l.foldl (fun s k => s.startCoreOf r t region prio k) s).offers (nQuad (t.coreOf (shWafer r.sheaf) k))
        (startRec r (s.nodeWords r) region prio (t.coreOf (shWafer r.sheaf) k) k) := by
  induction l generalizing s with
  | nil => exact ⟨.refl s, fun k hk => by cases hk⟩
  | cons a l ih =>
    obtain ⟨hf, ho⟩ := feeds_startCoreOf s r t region prio a
    obtain ⟨hl, hr⟩ := ih (s.startCoreOf r t region prio a)
    rw [hf.nodeWords] at hr
    refine ⟨hf.trans hl, fun k hk => ?_⟩
    rcases List.mem_cons.mp hk with rfl | hk
    · exact hl.offers _ _ ho
    · exact hr k hk

/-- The start of a core kernel keeps the nodes, and offers the record of each rank. -/
theorem startKernel_offers (s : State) (r : NodeRef) (t : Team) (region prio : Nat) :
    (s.startKernel r t region prio).sheaves = s.sheaves ∧ ∀ k < 4 * t.tw * t.th,
      (s.startKernel r t region prio).offers (nQuad (t.coreOf (shWafer r.sheaf) k))
        (startRec r (s.nodeWords r) region prio (t.coreOf (shWafer r.sheaf) k) k) := by
  unfold State.startKernel
  extract_lets w asid ranks s1 s2 s3 s4
  have h1 : State.Feeds s s1 := (written_hwWriteAs ..).feeds
  have h2 : State.Feeds s s2 := h1.trans (feeds_foldl _ (fun _ _ => (written_hwWriteAs ..).feeds) _ _)
  have h3 : State.Feeds s s3 := h2.trans (feeds_formReds ..)
  have h4 : State.Feeds s s4 := h3.trans (feeds_foldl _ (fun _ _ => feeds_foldl _ (fun _ _ => feeds_setQueue ..) _ _) _ _)
  obtain ⟨hf, ho⟩ := startCores_offer r t region prio ranks s4
  rw [h4.nodeWords] at ho
  exact ⟨(h4.trans hf).sheaves, fun k hk => ho k (List.mem_range.mpr hk)⟩

/-- The status word of a residency reaches its node's record: no other field of a node changes. -/
theorem State.node?_putStatus (s : State) (i : Nat) {r : NodeRef} {n : Node} (h : s.node? r = some n) :
    ∃ m, (s.putStatus i).node? r = some m ∧ m.st = n.st ∧ m.place = n.place := by
  unfold State.putStatus
  split
  · exact ⟨n, h, rfl, rfl⟩
  · next x _ =>
    split
    · exact ⟨n, h, rfl, rfl⟩
    · split
      · exact ⟨n, h, rfl, rfl⟩
      · next sh _ =>
        have hw := written_hwWriteAs s (shWafer x.ref.sheaf) sh.asid (sh.record x.ref.node + 16) x.status none
        have hn : (s.hwWrite (shWafer x.ref.sheaf) sh.asid (sh.record x.ref.node + 16) x.status).node? r = some n := by
          rw [State.node?, State.hwWrite, hw.sheaves]
          exact h
        rw [State.node?_modNode]
        split
        · next e =>
          subst e
          rw [hn]
          exact ⟨_, rfl, rfl, rfl⟩
        · exact ⟨n, hn, rfl, rfl⟩

theorem sheaf_of_node {s : State} {r : NodeRef} {n : Node} (h : s.node? r = some n) : ∃ sh, mfind s.sheaves r.sheaf = some sh := by
  unfold State.node? at h
  split at h
  · next sh hs => exact ⟨sh, hs⟩
  · cases h

/-- What a node's place does as the node starts to run: a team's cores get their records, a residency's status its place in the node's
record. -/
def State.startPlaced (s : State) (r : NodeRef) (n : Node) (prio : Nat) : State :=
  match n.place with
  | .team tq0 ty0 tw th => s.startKernel r ⟨r, tq0, ty0, tw, th⟩ n.frame.1 prio
  | .region id => s.putStatus id
  | _ => s

/-- NODE_START of a placed node whose turn it is. -/
theorem exec_nodeStart {s : State} {r : NodeRef} {n : Node} {sh : Sheaf} (hn : s.node? r = some n) (hs : mfind s.sheaves r.sheaf = some sh)
    (hst : n.st = .placed) (hg : n.place ≠ .groups) (hm : s.mayBegin r = true) (hp : s.partRuns (shPartKey r.sheaf) = true)
    (hw : (s.wafer (shWafer r.sheaf)).round = none) :
    exec (.nodeStart r.sheaf r.node) s = .next ((s.modNode r fun n => { n with st := .running }).startPlaced r n sh.prio) := by
  have hc : (n.st != .placed || n.place == .groups || !s.mayBegin r || !s.partRuns (shPartKey r.sheaf)
      || (s.wafer (shWafer r.sheaf)).round.isSome) = false := by
    rw [hst, hm, hp, hw, beq_eq_false_iff_ne.mpr hg]
    rfl
  simp only [exec, execNodeStart, hs, hn, hc, Bool.false_eq_true, if_false]
  rfl

theorem nodeStarts {s : State} {r : NodeRef} {n : Node} (hn : s.node? r = some n)
    (hst : n.st = .placed) (hg : n.place ≠ .groups) (hm : s.mayBegin r = true) (hp : s.partRuns (shPartKey r.sheaf) = true)
    (hw : (s.wafer (shWafer r.sheaf)).round = none) :
    ∃ t m, exec (.nodeStart r.sheaf r.node) s = .next t ∧ t.node? r = some m ∧ m.st = .running ∧ m.place = n.place ∧
      ∀ tq0 ty0 tw th, n.place = .team tq0 ty0 tw th → ∀ k, k < 4 * tw * th → ∃ prio,
        t.offers (nQuad ((⟨r, tq0, ty0, tw, th⟩ : Team).coreOf (shWafer r.sheaf) k))
          (startRec r n.words n.frame.1 prio ((⟨r, tq0, ty0, tw, th⟩ : Team).coreOf (shWafer r.sheaf) k) k) := by
  obtain ⟨sh, hs⟩ := sheaf_of_node hn
  have hu : (s.modNode r fun n => { n with st := .running }).node? r = some { n with st := .running } := by
    rw [State.node?_modNode, if_pos rfl, hn]
    rfl
  have he := exec_nodeStart hn hs hst hg hm hp hw
  rw [State.startPlaced] at he
  cases hpl : n.place with
  | groups => exact absurd hpl hg
  | none =>
    rw [hpl] at he
    exact ⟨_, _, he, hu, rfl, hpl, fun _ _ _ _ h => by cases h⟩
  | slots =>
    rw [hpl] at he
    exact ⟨_, _, he, hu, rfl, hpl, fun _ _ _ _ h => by cases h⟩
  | region id =>
    rw [hpl] at he
    obtain ⟨m, hm, hms, hmp⟩ := State.node?_putStatus _ id hu
    exact ⟨_, m, he, hm, hms, hmp.trans hpl, fun _ _ _ _ h => by cases h⟩
  | team tq0 ty0 tw th =>
    rw [hpl] at he
    obtain ⟨hsh, ho⟩ := startKernel_offers (s.modNode r fun n => { n with st := .running }) r ⟨r, tq0, ty0, tw, th⟩ n.frame.1 sh.prio
    have hw : (s.modNode r fun n => { n with st := .running }).nodeWords r = n.words := by rw [State.nodeWords, hu]; rfl
    rw [hw] at ho
    refine ⟨_, { n with st := .running }, he, ?_, rfl, hpl, fun _ _ _ _ h => ?_⟩
    · rw [State.node?, hsh]
      exact hu
    · cases h
      exact fun k hk => ⟨sh.prio, ho k hk⟩

end Sys2Proof.Machine

/-! R32, R184, R186, R285: what a node's completion gives back, and that no node is lost by it. -/

namespace Sys2Proof.Machine

/-! ## No step of a completion loses a node -/

section
variable (s : State) (r : NodeRef)

theorem keepsNodes_setCore (n : Nat) (c : Core) : State.KeepsNodes s (s.setCore n c) := .of_sheaves rfl
theorem keepsNodes_setCtl (n : Nat) (c : Ctl) : State.KeepsNodes s (s.setCtl n c) := .of_sheaves rfl
theorem keepsNodes_setPart (n : Nat) (p : Part) : State.KeepsNodes s (s.setPart n p) := .of_sheaves rfl
theorem keepsNodes_setProg (n : Nat) (p : Prog) : State.KeepsNodes s (s.setProg n p) := .of_sheaves rfl
theorem keepsNodes_setRed (n : Nat) (g : RedGroup) : State.KeepsNodes s (s.setRed n g) := .of_sheaves rfl
theorem keepsNodes_setSlot (c n : Nat) (e : EdgeSlot) : State.KeepsNodes s (s.setSlot c n e) := .of_sheaves rfl
theorem keepsNodes_modJob (g : Nat) (f : Ltx → Ltx) : State.KeepsNodes s (s.modJob g f) := .of_sheaves rfl
theorem keepsNodes_setGt (g : Nat) (e : Gt) : State.KeepsNodes s (s.setGt g e) := .of_sheaves rfl

theorem keepsNodes_setCredW (k w : Nat) (p : CredW) : State.KeepsNodes s (s.setCredW k w p) := by
  unfold State.setCredW
  split
  · exact .of_sheaves rfl
  · exact .refl s

theorem keepsNodes_setPlane (k : Nat) (p : Plane) : State.KeepsNodes s (s.setPlane k p) := by
  unfold State.setPlane
  split
  · exact .of_sheaves rfl
  · split
    · exact .of_sheaves rfl
    · exact .refl s

theorem keepsNodes_decBlock (n asid pa : Nat) (trc : Bool) (reason : Nat) (cp : W64) :
    State.KeepsNodes s (s.decBlock n asid pa trc reason cp) := by
  obtain ⟨u, hu, h | ⟨p, -, -, val, h⟩⟩ := s.decBlock_cases n asid pa trc reason cp <;> rw [h]
  · exact .of_sheaves hu.sheaves
  · exact .of_sheaves ((aside_unpark u p 0 val 0).sheaves.trans hu.sheaves)

theorem keepsNodes_decRemoved (n asid : Nat) (jc : W64) (reason : Nat) (cp : W64) (x : NodeRef) :
    State.KeepsNodes s (s.decRemoved n asid jc reason cp x) := by
  rcases hd : s.decFor n asid jc reason cp with ⟨u, d⟩
  have hu : State.KeepsNodes s u := by
    rcases State.decFor_cases hd with rfl | ⟨pa, trc, rfl⟩
    · exact .refl _
    · exact keepsNodes_decBlock ..
  simp only [State.decRemoved, hd]
  split
  · exact hu.trans (keepsNodes_modNode ..)
  · exact hu

theorem keepsNodes_endParked (n : Nat) : State.KeepsNodes s (s.endParked n) := by
  refine keepsNodes_foldl _ (fun u p => ?_) _ s
  exact State.KeepsNodes.trans (t := { u with parked := u.parked.filter (·.id != p.id) }) (.of_sheaves rfl) (keepsNodes_decRemoved ..)

/-! ### What comes back to the agent of an edge access -/

theorem keepsNodes_lateFault (n : Nat) (a : Access) (ty : Nat) : State.KeepsNodes s (s.lateFault n a ty) := by
  unfold State.lateFault
  split
  · exact .refl s
  · split
    · exact .of_sheaves rfl
    · split
      · exact .of_sheaves rfl
      · exact .of_sheaves rfl

theorem keepsNodes_taintFault (n : Nat) (a : Access) : State.KeepsNodes s (s.taintFault n a) := by
  unfold State.taintFault
  split
  · exact .refl s
  · exact (keepsNodes_setCore ..).trans (keepsNodes_lateFault ..)

theorem keepsNodes_viewCore (n id : Nat) (v : VAcc) (bs : List (Byte × Bool)) : State.KeepsNodes s (s.viewCore n id v bs) := by
  unfold State.viewCore
  split
  · exact .refl s
  · split
    · exact .refl s
    · split
      · exact (keepsNodes_setCore ..).trans (keepsNodes_endParked ..)
      · split
        · exact (keepsNodes_setCore ..).trans (keepsNodes_taintFault ..)
        · exact keepsNodes_setCore ..

theorem keepsNodes_toReturn (k site : Nat) (t : Tok) : State.KeepsNodes s (s.toReturn k site t) := by
  unfold State.toReturn
  split
  · split
    · exact keepsNodes_setCtl ..
    · exact .refl s
  · exact .refl s

theorem keepsNodes_emit (k site : Nat) (os : List OutP) (keep : Bool) (t : Tok) : State.KeepsNodes s (s.emit k site os keep t) := by
  refine keepsNodes_foldl _ (fun u o => ?_) _ s
  dsimp only
  split
  · exact keepsNodes_toReturn ..
  · exact keepsNodes_setPlane ..

theorem keepsNodes_setLane (k site : Nat) (l : Lane) : State.KeepsNodes s (s.setLane k site l) := keepsNodes_setPlane ..

theorem keepsNodes_setCell (k site : Nat) (c : Cell) : State.KeepsNodes s (s.setCell k site c) := keepsNodes_setPlane ..

theorem keepsNodes_genDone (k site : Nat) (os : List OutP) (ws : List W64) (bs : List (Byte × Bool)) :
    State.KeepsNodes s (s.genDone k site os ws bs) := by
  unfold State.genDone
  extract_lets l u v
  have hv : State.KeepsNodes s v := (keepsNodes_setLane ..).trans (keepsNodes_setCell ..)
  split
  · exact hv
  · exact hv.trans (keepsNodes_emit ..)

theorem keepsNodes_viewFab (k site : Nat) (bs : List (Byte × Bool)) : State.KeepsNodes s (s.viewFab k site bs) := by
  unfold State.viewFab
  extract_lets l a ws u
  have hu : State.KeepsNodes s u := keepsNodes_setLane ..
  split
  · exact .refl s
  · split
    · exact hu.trans (keepsNodes_genDone ..)
    · exact hu.trans (keepsNodes_setLane ..)

theorem keepsNodes_viewDone (v : VAcc) (bs : List (Byte × Bool)) : State.KeepsNodes s (s.viewDone v bs) := by
  unfold State.viewDone
  split
  · exact keepsNodes_viewCore ..
  · dsimp only
    split
    · exact .refl s
    · split
      · exact keepsNodes_setProg ..
      · exact keepsNodes_setProg ..
  · split
    · split
      · exact (keepsNodes_modJob ..).trans (keepsNodes_setGt ..)
      · exact .refl s
    · exact .refl s
  · exact keepsNodes_viewFab ..
  · split
    · split
      · exact keepsNodes_setRed ..
      · exact .refl s
    · exact .refl s
  · split
    · dsimp only
      split
      · exact keepsNodes_setCredW ..
      · exact .refl s
    · exact .refl s
  · exact .refl s

/-! ### Edge slots, residencies and teams -/

theorem keepsNodes_slotKill (c sl : Nat) : State.KeepsNodes s (s.slotKill c sl) :=
  (keepsNodes_setSlot ..).trans (keepsNodes_foldl _ (fun _ _ => keepsNodes_viewDone ..) _ _)

theorem keepsNodes_closeSlot (c sl : Nat) : State.KeepsNodes s (s.closeSlot c sl) := by
  unfold State.closeSlot
  dsimp only
  split
  · exact (keepsNodes_setSlot ..).trans (keepsNodes_slotKill ..)
  · exact keepsNodes_setSlot ..

theorem keepsNodes_freeSlot (c sl : Nat) : State.KeepsNodes s (s.freeSlot c sl) := by
  unfold State.freeSlot
  extract_lets u e k p v fs
  have hu : State.KeepsNodes s u := by
    unfold u
    split
    · exact keepsNodes_slotKill ..
    · exact .refl s
  split
  · exact hu
  · exact hu.trans (.of_sheaves rfl)

theorem keepsNodes_releaseSlots : State.KeepsNodes s (s.releaseSlots r) := by
  refine keepsNodes_foldl _ (fun u x => ?_) _ s
  extract_lets e u1 u2 e'
  have h1 : State.KeepsNodes u u1 := by
    unfold u1
    split
    · exact keepsNodes_closeSlot ..
    · exact .refl u
  have h2 : State.KeepsNodes u u2 := h1.trans (keepsNodes_freeSlot ..)
  split
  · exact .refl u
  · split
    · exact h2
    · exact h2.trans (keepsNodes_setSlot ..)

theorem keepsNodes_setTeam (w : Nat) (quads : List Nat) (t : Option Team) : State.KeepsNodes s (s.setTeam w quads t) :=
  keepsNodes_foldl _ (fun _ _ => keepsNodes_foldl _ (fun _ _ => keepsNodes_setCore ..) _ _) _ _

theorem keepsNodes_dropResid (i : Nat) : State.KeepsNodes s (s.dropResid i) := by
  unfold State.dropResid
  extract_lets gone u v
  have hu : State.KeepsNodes s u := by
    refine keepsNodes_foldl _ ?_ _ _
    exact fun _ _ => .of_sheaves rfl
  have hv : State.KeepsNodes s v := hu.trans (.of_sheaves rfl)
  refine hv.trans (keepsNodes_foldl _ (fun w j => ?_) _ _)
  split
  · exact .refl w
  · exact .of_sheaves rfl

theorem keepsNodes_releaseNode (n : Node) : State.KeepsNodes s (s.releaseNode r n) := by
  unfold State.releaseNode
  extract_lets w s1 s2 s3 p s4
  have h1 : State.KeepsNodes s s1 := by
    unfold s1
    split
    · exact keepsNodes_setTeam ..
    · exact .refl s
  have h2 : State.KeepsNodes s1 s2 := by
    unfold s2
    split
    · exact .refl s1
    · exact keepsNodes_setPart ..
  have h3 : State.KeepsNodes s2 s3 := keepsNodes_foldl _ (fun _ _ => keepsNodes_dropResid ..) _ _
  have h4 : State.KeepsNodes s3 s4 := by
    unfold s4
    split
    · exact keepsNodes_setPart ..
    · exact .refl s3
  exact (h1.trans h2).trans ((h3.trans h4).trans (.of_sheaves rfl))

theorem keepsNodes_charge (num den : Nat) : State.KeepsNodes s (s.charge r num den) := keepsNodes_modNode ..

theorem keepsNodes_chargeNow (k : Nat) : State.KeepsNodes s (s.chargeNow r k) := by
  unfold State.chargeNow
  extract_lets f total holders t
  have ht : State.KeepsNodes s t := by
    unfold t
    split
    · exact (keepsNodes_charge ..).trans (.of_sheaves rfl)
    · exact .refl s
  split
  · exact ht.trans (keepsNodes_charge ..)
  · exact ht

theorem keepsNodes_chargeLast : State.KeepsNodes s (s.chargeLast r) := keepsNodes_foldl _ (fun _ _ => keepsNodes_chargeNow ..) _ _

end

/-! ## The completion -/

/-- A node whose record is written is done, its place given back. -/
theorem finishNode_done {s : State} {r : NodeRef} {n : Node} (h : s.node? r = some n) :
    ∃ m, (s.finishNode r).node? r = some m ∧ m.st = .done ∧ m.place = .none := by
  obtain ⟨sh, hs⟩ := sheaf_of_node h
  obtain ⟨s4, hw, hf⟩ : ∃ s4, State.Written s s4 ∧ s.finishNode r = s4.modNode r fun n => { n with st := .done, place := .none, was := n.place } := by
    unfold State.finishNode
    rw [hs, h]
    exact ⟨_, (((written_hwWriteAs ..).trans (written_hwWriteAs ..)).trans (written_hwWriteAs ..)).trans (written_hwWriteAs ..), rfl⟩
  have hn : s4.node? r = some n := by
    rw [State.node?, hw.sheaves]
    exact h
  rw [hf, State.node?_modNode, if_pos rfl, hn]
  exact ⟨_, rfl, rfl, rfl⟩

/-- What a node's completion leaves once its edge slots are released. -/
def State.completed (s : State) (r : NodeRef) (n : Node) : State := ((s.chargeLast r).releaseNode r n).finishNode r

theorem completed_done {s : State} {r : NodeRef} (n : Node) (h : (s.node? r).isSome = true) :
    ∃ m, (s.completed r n).node? r = some m ∧ m.st = .done ∧ m.place = .none := by
  have hk := (keepsNodes_chargeLast s r).trans (keepsNodes_releaseNode _ r n)
  obtain ⟨x, hx⟩ := Option.isSome_iff_exists.mp (hk.isSome r h)
  exact finishNode_done hx

section
variable {s : State} {r : NodeRef} {n : Node}

/-- NODE_COMPLETE of a running node with no strand, command, access or residency left. -/
theorem exec_nodeComplete (hn : s.node? r = some n) (hst : n.st = .running) (hp : (s.part (shPartKey r.sheaf)).st ≠ .swapped)
    (h1 : s.hasStrand r = false) (h2 : s.anyCommand r = false) (h3 : s.anyAccess r = false) (h4 : s.anyResid r = false) :
    exec (.nodeComplete r.sheaf r.node) s = .next (
      if s.isEdge r then
        if !s.edgeDrained r n then s
        else if (s.releaseSlots r).slotsGone r then (s.releaseSlots r).completed r n else s.releaseSlots r
      else s.completed r n) := by
  have hd : (n.st == .done || !(n.st == .running || n.status != 0) || (s.part (shPartKey r.sheaf)).st == .swapped) = false := by
    rw [hst, beq_eq_false_iff_ne.mpr hp]
    rfl
  simp only [exec, execNodeComplete, hn, hd, h1, h2, h3, h4, Bool.or_self, Bool.false_eq_true, if_false]
  rfl

theorem nodeCompletes (hn : s.node? r = some n) (hst : n.st = .running)
    (hp : (s.part (shPartKey r.sheaf)).st ≠ .swapped) (h1 : s.hasStrand r = false) (h2 : s.anyCommand r = false)
    (h3 : s.anyAccess r = false) (h4 : s.anyResid r = false)
    (he : s.isEdge r = true → s.edgeDrained r n = true ∧ (s.releaseSlots r).slotsGone r = true) :
    ∃ t m, exec (.nodeComplete r.sheaf r.node) s = .next t ∧ t.node? r = some m ∧ m.st = .done ∧ m.place = .none := by
  have hx := exec_nodeComplete hn hst hp h1 h2 h3 h4
  have hs : (s.node? r).isSome = true := by rw [hn]; rfl
  cases hedge : s.isEdge r with
  | false =>
    obtain ⟨m, hm⟩ := completed_done n hs
    rw [hedge, if_neg Bool.false_ne_true] at hx
    exact ⟨_, m, hx, hm⟩
  | true =>
    obtain ⟨hdr, hg⟩ := he hedge
    obtain ⟨m, hm⟩ := completed_done n ((keepsNodes_releaseSlots s r).isSome r hs)
    rw [hedge, hdr, hg] at hx
    exact ⟨_, m, hx, hm⟩

end

/-- Settles O19: the start of a node on its ranks, and its completion. -/
theorem nodesRunAndComplete : Obligations.NodesRunAndComplete := by
  unfold Obligations.NodesRunAndComplete
  intro s r n hn
  refine ⟨fun hst hg hm hp hw => ?_, fun hst hp h1 h2 h3 h4 he => nodeCompletes hn hst hp h1 h2 h3 h4 he⟩
  obtain ⟨t, m, ht, hmn, hms, hmp, ho⟩ := nodeStarts hn hst hg hm hp hw
  refine ⟨t, m, ht, hmn, hms, hmp, fun tq0 ty0 tw th hpl k hk => ?_⟩
  obtain ⟨prio, hx⟩ := ho tq0 ty0 tw th hpl k hk
  exact ⟨_, hx, rfl, rfl, rfl, rfl, rfl, rfl⟩

end Sys2Proof.Machine

/-! R71, R181, R182, R184, R185, R340, R341: edge slots, their binding, and the accesses that they take to their graphs and to memory. -/

namespace Sys2Proof.Machine

/-! ## Slots and progress put back -/

@[simp] theorem State.slot_setSlot (s : State) (c sl : Nat) (e : EdgeSlot) : (s.setSlot c sl e).slot c sl = e := by
  rw [State.slot, State.setSlot, State.ctl_setCtl, mget_mput_same]

/-- A slot put back leaves the fabric's generator. -/
@[simp] theorem State.gen_setSlot (s : State) (c sl : Nat) (e : EdgeSlot) : ((s.setSlot c sl e).ctl c).gen = (s.ctl c).gen := by
  rw [State.setSlot, State.ctl_setCtl]

@[simp] theorem State.prog_setProg (s : State) (q : Nat) (p : Prog) : (s.setProg q p).prog q = p := by
  rw [State.prog, State.setProg, State.queue_setQueue]

@[simp] theorem State.setQueue_setQueue (s : State) (q : Nat) (e f : EngQ) : (s.setQueue q e).setQueue q f = s.setQueue q f := by
  simp [State.setQueue]

@[simp] theorem State.setProg_setProg (s : State) (q : Nat) (p r : Prog) : (s.setProg q p).setProg q r = s.setProg q r := by
  rw [State.setProg, State.setProg, State.queue_setQueue, State.setQueue_setQueue]
  rfl

/-! ## A write by hardware leaves the slots -/

/-- No slot of an edge fabric, and no fabric's generator, differs between `s` and `t`. -/
structure State.KeepsSlots (s t : State) : Prop where
  slots : ∀ c, (t.ctl c).slots = (s.ctl c).slots
  gen : ∀ c, (t.ctl c).gen = (s.ctl c).gen

theorem State.KeepsSlots.of_ctls {s t : State} (h : t.ctls = s.ctls) : State.KeepsSlots s t :=
  ⟨fun c => by rw [State.ctl, h]; rfl, fun c => by rw [State.ctl, h]; rfl⟩

theorem State.KeepsSlots.trans {s t u : State} (h : State.KeepsSlots s t) (k : State.KeepsSlots t u) : State.KeepsSlots s u :=
  ⟨fun c => (k.slots c).trans (h.slots c), fun c => (k.gen c).trans (h.gen c)⟩

theorem State.KeepsSlots.slot {s t : State} (h : State.KeepsSlots s t) (c sl : Nat) : t.slot c sl = s.slot c sl := by
  rw [State.slot, h.slots]
  rfl

/-- A controller put back with its slots and its generator. -/
theorem keepsSlots_setCtl {s : State} {n : Nat} {k : Ctl} (hs : k.slots = (s.ctl n).slots) (hg : k.gen = (s.ctl n).gen) :
    State.KeepsSlots s (s.setCtl n k) := by
  have h : ∀ c, c ≠ n → (s.setCtl n k).ctl c = s.ctl c := fun c e => mget_mput_ne _ _ _ _ _ e
  constructor <;> intro c <;> by_cases e : c = n
  · rw [e, State.ctl_setCtl, hs]
  · rw [h c e]
  · rw [e, State.ctl_setCtl, hg]
  · rw [h c e]

theorem State.wakeOne_ctls (s : State) (n : Nat) (ws : List Nat) : (s.wakeOne n ws).ctls = s.ctls := by
  simp only [State.wakeOne]
  split
  case h_2 => rfl
  split
  case h_2 => rfl
  split
  case h_2 => rfl
  split
  · split
    · split <;> rfl
    · split <;> rfl
  · rfl

theorem State.wake_ctls (s : State) (ws : List Nat) : (s.wake ws).ctls = s.ctls := by
  simp only [State.wake]
  generalize s.cores.map (·.1) = l
  induction l generalizing s with
  | nil => rfl
  | cons n r ih => exact (ih _).trans (s.wakeOne_ctls n ws)

theorem keepsSlots_logRun (w m : Nat) (i : WInfo) (k : Nat) : ∀ (s : State) (pa n : Nat), State.KeepsSlots s (s.logRun w m pa n i k) := by
  induction k with
  | zero => exact fun _ _ _ => .of_ctls rfl
  | succ k ih =>
    intro s pa n
    simp only [State.logRun]
    split
    · exact .of_ctls rfl
    · refine State.KeepsSlots.trans ?_ (ih ..)
      refine (keepsSlots_setCtl (n := w * 64 + m) ?_ ?_).trans (.of_ctls (State.wake_ctls ..))
      · rfl
      · rfl

theorem keepsSlots_trace (s : State) (pa n : Nat) (i : WInfo) : State.KeepsSlots s (s.trace pa n i) := by
  simp only [State.trace]
  split
  · split
    · split
      · exact keepsSlots_logRun ..
      · exact .of_ctls rfl
    · exact .of_ctls rfl
  · exact .of_ctls rfl

theorem State.spoil_ctls (s : State) (pa n : Nat) : (s.spoil pa n).ctls = s.ctls := by
  simp only [State.spoil]
  split <;> rfl

theorem keepsSlots_land (s : State) (pa : Nat) (bs : List (Byte × Bool)) (i : WInfo) (rel : Option Rel) :
    State.KeepsSlots s (s.land pa bs i rel) := by
  have hp : State.KeepsSlots s (s.putRun pa bs i.tag rel) := .of_ctls rfl
  exact (hp.trans (keepsSlots_trace ..)).trans (.of_ctls ((State.spoil_ctls ..).trans (State.wake_ctls ..)))

theorem keepsSlots_hwWrite (s : State) (wf asid : Nat) (va v : W64) : State.KeepsSlots s (s.hwWrite wf asid va v) := by
  unfold State.hwWrite State.hwWriteAs
  split
  · rw [State.writeAs, natRun_sound]
    exact keepsSlots_land ..
  · exact .of_ctls rfl

/-- Word 4 of a descriptor tells of its slot, and changes none (R183). -/
theorem keepsSlots_putWord4 (s : State) (c sl : Nat) : State.KeepsSlots s (s.putWord4 c sl) := by
  unfold State.putWord4
  dsimp only
  split
  · exact keepsSlots_hwWrite ..
  · exact .of_ctls rfl

/-! ## Engine reads that take place at once -/

/-- Every byte of a run without a poisoned word lies in a sound one. -/
theorem State.poisonAt_of_poisonRun {s : State} {pa n i : Nat} (h : s.poisonRun pa n = false) (hi : i < n) : s.poisonAt (pa + i) = false := by
  simp only [State.poisonRun, List.any_eq_false, List.mem_range, Bool.not_eq_true] at h
  have hp := h ((pa + i) / 8 - pa / 8) (by omega)
  have ha : (pa / 8 + ((pa + i) / 8 - pa / 8)) * 8 / 8 * 8 = (pa + i) / 8 * 8 := by omega
  rwa [State.poisonAt, ha] at hp

theorem State.readRun_any {s : State} {pa n : Nat} (h : ∀ i < n, s.poisonAt (pa + i) = false) : (s.readRun pa n).any (·.2) = false := by
  induction n generalizing pa with
  | zero => rfl
  | succ n ih =>
    have hr : (s.readRun (pa + 1) n).any (·.2) = false := ih fun i hi => by rw [Nat.add_assoc, Nat.add_comm 1 i]; exact h (i + 1) (by omega)
    rw [State.readRun, List.any_cons, hr, Bool.or_false]
    exact h 0 (by omega)

/-- The bytes of a run without a poisoned word are sound. -/
theorem State.readRun_sound {s : State} {pa n : Nat} (h : s.poisonRun pa n = false) : (s.readRun pa n).any (·.2) = false :=
  State.readRun_any fun _ hi => State.poisonAt_of_poisonRun h hi

theorem State.checked_heads {s : State} {c : QCmd} {ok : QCmd → Bool} (k : QCmd → State) (h : s.heads c) (hok : ok c = true) :
    s.checked ok k = k c := by
  obtain ⟨hc, hh⟩ := h
  simp only [State.checked, hc, hh, hok, Bool.and_self, if_true]

/-- A read of one piece has all its bytes at once (R210). -/
theorem State.engRead_atOnce {s : State} {q : Nat} {c : QCmd} {a : EngAcc} {n pa : Nat} {trc : Bool} (hf : (s.prog q).fresh)
    (ha : a.acc = 0) (hr : s.engReaches q c a n pa trc) :
    s.engRead q c a n = .ok (s.setProg q { s.prog q with got := s.readRun pa n, skip := false }, s.readRun pa n) := by
  obtain ⟨hg, -, hv, hs, -⟩ := hf
  obtain ⟨hn, hl, ⟨fmt, ht⟩, hu, hw⟩ := hr
  rw [ha] at hl ht
  have hva : a.va + w64 0 = a.va := BitVec.add_zero a.va
  unfold State.engRead
  dsimp only
  rw [hg, List.length_nil, hva, Nat.sub_zero, hl, ht, if_neg (by omega), if_neg (by rw [hv]; decide), if_neg (by rw [hs]; decide)]
  dsimp only
  rw [if_neg (by rw [hu]; decide), if_pos (by omega)]
  split
  · next w m sl o e => exact absurd e (hw w m sl o)
  · rfl

theorem Prog.fresh_eq {p : Prog} (h : p.fresh) : { p with got := [], skip := false } = p := by
  obtain ⟨hg, -, -, hs, -⟩ := h
  rw [← hg, ← hs]

/-- A bind goes on with sound bytes that it reads at once, its progress as before (R341). -/
theorem State.bindRead_atOnce {s : State} {c : QCmd} {va : W64} {n pa : Nat} {trc : Bool} (st : Nat)
    (k : State → List (Byte × Bool) → State) (hf : (s.prog s.curQ).fresh) (hr : s.engReaches s.curQ c ⟨0, 0, va, 0, []⟩ n pa trc)
    (hp : s.poisonRun pa n = false) : s.bindRead c va n st k = k (s.setProg s.curQ (s.prog s.curQ)) (s.readRun pa n) := by
  have hs : (s.prog s.curQ).skip = false := hf.2.2.2.1
  unfold State.bindRead
  dsimp only
  rw [if_neg (by rw [hs]; decide), State.engRead_atOnce hf rfl hr]
  dsimp only
  rw [State.prog_setProg, State.setProg_setProg, if_neg (by rw [State.readRun_sound hp]; decide)]
  exact congrArg (fun p => k (s.setProg s.curQ p) (s.readRun pa n)) (Prog.fresh_eq hf)

/-! ## Binding (R184, R340, R341) -/

/-- The controller that an edge-graph command names. -/
def State.edgeCtl (s : State) (c : QCmd) : Nat := nWafer (qName s.curQ) * 64 + Cmd.ectl c.c

/-- The slot that it names. -/
def State.edgeSlot (s : State) (c : QCmd) : EdgeSlot := s.slot (s.edgeCtl c) (Cmd.eslot c.c)

/-- The words that a bind has read: its descriptor's eight, then its image's. -/
def State.bindWords (s : State) : List W64 := runWords64 (s.prog s.curQ).buf

section
variable {s : State} {w : Cmd} {c : QCmd} {acc : Bool}

/-- GBIND and GACC bind, once the checks at the head hold. -/
theorem exec_bind (hc : s.heads c) (hok : gOk false c = true) {x : Instr × Bool} (hx : x ∈ [(.gbind w, false), (.gacc w, true)]) :
    exec x.1 s = .next (s.bind x.2 c) := by
  simp only [List.mem_cons, List.not_mem_nil, or_false] at hx
  rcases hx with rfl | rfl <;> exact congrArg Host.Outcome.next (State.checked_heads _ hc hok)

/-- A bind begins by reading its descriptor. -/
theorem State.bind_reads {pa : Nat} {trc : Bool} (hon : (s.prog s.curQ).on = false) (hf : (s.prog s.curQ).fresh)
    (hr : s.engReaches s.curQ c ⟨0, 0, BitVec.ofNat 64 (bits c.c.w1 55 0), 0, []⟩ 64 pa trc) (hp : s.poisonRun pa 64 = false) :
    s.bind acc c = s.setProg s.curQ { s.prog s.curQ with on := true, buf := s.readRun pa 64 } := by
  have hb : s.bind acc c = s.bindRead c (w64 (bits c.c.w1 55 0)) 64 0x18 fun t bs =>
      t.setProg s.curQ { t.prog s.curQ with on := true, buf := bs } := by
    simp only [State.bind, hon, Bool.not_false, if_true]
  rw [hb, State.bindRead_atOnce (va := w64 (bits c.c.w1 55 0)) _ _ hf hr hp, State.prog_setProg, State.setProg_setProg]

section
variable (hon : (s.prog s.curQ).on = true) (hd : descOk acc (s.bindWords.take 8) = true)
include hon hd

theorem State.bind_notHeld (hh : (s.edgeSlot c).heldBy (QCmd.part s.curQ c) = false) : s.bind acc c = s.cmdDone s.curQ c 0x15 := by
  unfold State.bindWords State.edgeSlot State.edgeCtl at *
  simp only [State.bind, hon, hd, hh, Bool.not_true, Bool.not_false, Bool.false_eq_true, if_false, if_true]

theorem State.bind_inUse (hh : (s.edgeSlot c).heldBy (QCmd.part s.curQ c) = true)
    (hb : (s.edgeSlot c).bound = true ∨ (s.edgeSlot c).closing = true) : s.bind acc c = s.cmdDone s.curQ c 0x1A := by
  have hu := Bool.or_eq_true_iff.mpr hb
  unfold State.bindWords State.edgeSlot State.edgeCtl at *
  simp only [State.bind, hon, hd, hh, hu, Bool.not_true, Bool.false_eq_true, if_false, if_true]

/-- With its image read whole, or with none, a bind comes to its end. -/
theorem State.bind_whole {recs : List (Nat × List W64)} (hh : (s.edgeSlot c).heldBy (QCmd.part s.curQ c) = true)
    (hb : (s.edgeSlot c).bound = false) (hc : (s.edgeSlot c).closing = false)
    (hi : nth (s.bindWords.take 8) 1 0 = 0 ∧ recs = [] ∨
      nth (s.bindWords.take 8) 1 0 ≠ 0 ∧ parseImage true 1 imageFuel (s.bindWords.drop 8) [] = .over recs) :
    s.bind acc c = s.bindEnd c (s.bindWords.take 8) recs := by
  unfold State.bindWords State.edgeSlot State.edgeCtl at *
  simp only [State.bind, hon, hd, hh, hb, hc, Bool.not_true, Bool.or_self, Bool.false_eq_true, if_false]
  rcases hi with ⟨h0, rfl⟩ | ⟨h0, hp⟩
  · rw [if_pos h0]
  · rw [if_neg h0, hp]

end

theorem State.bindEnd_binds {ds : List W64} {recs : List (Nat × List W64)} (hg : graphOk recs = true)
    (hf : s.cellsBusy (s.edgeCtl c) (Cmd.eslot c.c) recs = false) : s.bindEnd c ds recs =
      (s.bindSlot (s.edgeCtl c) (Cmd.eslot c.c) (BitVec.ofNat 64 (bits c.c.w1 55 0)) c.asid ds recs).cmdDone s.curQ c 0 := by
  unfold State.edgeCtl at hf ⊢
  simp only [State.bindEnd, hg, hf, Bool.not_true, Bool.false_eq_true, if_false]
  rfl

/-- A bind takes its slot as the descriptor says, and the seed goes into the generator of its fabric (R184). -/
theorem State.bindSlot_slot (s : State) (k sl : Nat) (desc : W64) (asid : Nat) (ds : List W64) (recs : List (Nat × List W64)) :
    let t := s.bindSlot k sl desc asid ds recs
    t.slot k sl = { resetSlot with
      bound := true, held := (s.slot k sl).held, kind := bits (nth ds 0 0) 63 62, strict := bitAt (nth ds 0 0) 61, desc := desc
      asid := asid, wlen := bits (nth ds 2 0) 17 0, acc := nth ds 3 0, img := nth ds 1 0, sites := graphSites recs } ∧
    (t.ctl k).gen = seedOf (bits (nth ds 0 0) 31 0) := by
  unfold State.bindSlot
  extract_lets e k0 p sites u t
  have hk := keepsSlots_putWord4 (u.setSlot k sl { resetSlot with
    bound := true, held := e.held, kind := bits (nth ds 0 0) 63 62, strict := bitAt (nth ds 0 0) 61, desc := desc
    asid := asid, wlen := bits (nth ds 2 0) 17 0, acc := nth ds 3 0, img := nth ds 1 0, sites := sites }) k sl
  refine ⟨(hk.slot k sl).trans (State.slot_setSlot ..), (hk.gen k).trans ?_⟩
  rw [State.gen_setSlot]
  unfold u
  rw [State.ctl_setCtl]

end

/-! ## Unbinding (R184) -/

section
variable {s : State} {k sl : Nat}

theorem State.closeSlot_running (h : (s.slot k sl).halt = false) :
    s.closeSlot k sl = s.setSlot k sl { s.slot k sl with closing := true } := by
  simp only [State.closeSlot, State.slot_setSlot, h, Bool.false_eq_true, if_false]

/-- A slot of accesses that have yet to perform is not freed. -/
theorem State.freeSlot_waits (ha : (s.slot k sl).accs ≠ []) (hh : (s.slot k sl).halt = false ∨ (s.slot k sl).killed = true) :
    s.freeSlot k sl = s := by
  have hk : ((s.slot k sl).closing && (s.slot k sl).halt && !(s.slot k sl).killed) = false := by
    rcases hh with h | h <;> simp [h]
  have he : (s.slot k sl).accs.isEmpty = false := by simpa using ha
  simp only [State.freeSlot, hk, he, Bool.false_eq_true, if_false, Bool.not_false, Bool.or_true, Bool.true_or, if_true]

/-- A slot whose accesses have performed, with what its graph does for them, or have been killed, is freed. -/
theorem State.freeSlot_frees (hc : (s.slot k sl).closing = true) (ha : (s.slot k sl).accs = [])
    (hr : (s.slot k sl).halt = false ∧ s.slotRest k sl = true ∨ (s.slot k sl).killed = true) :
    (s.freeSlot k sl).slot k sl = { resetSlot with held := (s.slot k sl).held } ∧ (s.freeSlot k sl).mem = s.mem := by
  have hk : ¬((s.slot k sl).closing && (s.slot k sl).halt && !(s.slot k sl).killed) = true := by
    rcases hr with ⟨h, -⟩ | h <;> simp [h]
  have hg : ¬(!(s.slot k sl).closing || !(s.slot k sl).accs.isEmpty || !((s.slot k sl).killed || s.slotRest k sl)) = true := by
    rcases hr with ⟨-, h⟩ | h <;> simp [hc, ha, h]
  unfold State.freeSlot
  extract_lets u e _ p v faults
  have hu : u = s := if_neg hk
  clear_value u
  subst hu
  rw [if_neg hg]
  exact ⟨State.slot_setSlot .., rfl⟩

end

section
variable {s : State} {w : Cmd} {c : QCmd}

/-- GUNBIND closes a bound slot that the command's partition holds. -/
theorem exec_gunbind_closes (hc : s.heads c) (hok : gOk true c = true) (hon : (s.prog s.curQ).on = false)
    (hh : (s.edgeSlot c).heldBy (QCmd.part s.curQ c) = true) (hb : (s.edgeSlot c).bound = true) (hcl : (s.edgeSlot c).closing = false)
    (hhalt : (s.edgeSlot c).halt = false) :
    exec (.gunbind w) s = .next ((s.setSlot (s.edgeCtl c) (Cmd.eslot c.c) { s.edgeSlot c with closing := true }).setProg s.curQ
      { s.prog s.curQ with on := true }) := by
  unfold State.edgeSlot State.edgeCtl at *
  simp only [exec, execGunbind, State.checked_heads _ hc hok]
  rw [if_neg (by rw [hon]; decide), if_neg (by rw [hh]; decide), if_neg (by rw [hb, hcl]; decide), State.closeSlot_running hhalt]

section
variable (hc : s.heads c) (hok : gOk true c = true) (hon : (s.prog s.curQ).on = true) (hcl : (s.edgeSlot c).closing = true)
include hc hok hon hcl

/-- GUNBIND of a slot that is closing frees it once it can be, and then ends. -/
theorem exec_gunbind_closing : exec (.gunbind w) s = let u := s.freeSlot (s.edgeCtl c) (Cmd.eslot c.c)
      .next (if (u.slot (s.edgeCtl c) (Cmd.eslot c.c)).closing then u else u.cmdDone s.curQ c 0) := by
  unfold State.edgeSlot State.edgeCtl at *
  simp only [exec, execGunbind, State.checked_heads _ hc hok]
  rw [if_pos hon, if_pos hcl]

theorem exec_gunbind_waits (ha : (s.edgeSlot c).accs ≠ []) (hh : (s.edgeSlot c).halt = false ∨ (s.edgeSlot c).killed = true) :
    exec (.gunbind w) s = .next s := by
  rw [exec_gunbind_closing hc hok hon hcl, State.freeSlot_waits ha hh]
  exact congrArg Host.Outcome.next (if_pos hcl)

theorem exec_gunbind_frees (ha : (s.edgeSlot c).accs = [])
    (hr : (s.edgeSlot c).halt = false ∧ s.slotRest (s.edgeCtl c) (Cmd.eslot c.c) = true ∨ (s.edgeSlot c).killed = true) :
    ∃ t : State, exec (.gunbind w) s = .next (t.cmdDone s.curQ c 0) ∧
      t.slot (s.edgeCtl c) (Cmd.eslot c.c) = { resetSlot with held := (s.edgeSlot c).held } ∧ t.mem = s.mem := by
  obtain ⟨hs, hm⟩ := State.freeSlot_frees hcl ha hr
  refine ⟨_, ?_, hs, hm⟩
  rw [exec_gunbind_closing hc hok hon hcl]
  exact congrArg Host.Outcome.next (if_neg (by rw [hs]; exact Bool.false_ne_true))

end
end

theorem edgeBinds : Pieces.EdgeBinds := by
  unfold Pieces.EdgeBinds
  intro s w c hc q ctl sl e p all ds
  refine ⟨fun x hx hok => ?_, fun hok => ⟨fun hon hh hb hcl hhalt => ?_, fun hon hcl ha hh => exec_gunbind_waits hc hok hon hcl ha hh,
    fun hon hcl ha hr => exec_gunbind_frees hc hok hon hcl ha hr⟩⟩
  · rw [exec_bind hc hok hx]
    refine ⟨fun hon hf pa trc hr hp => ⟨_, congrArg Host.Outcome.next (State.bind_reads hon hf hr hp), rfl, ?_, ?_⟩,
      fun hon hd => ⟨fun hh => congrArg Host.Outcome.next (State.bind_notHeld hon hd hh),
        fun hh => ⟨fun hb => congrArg Host.Outcome.next (State.bind_inUse hon hd hh hb), fun recs hb hcl hi hg hfree => ?_⟩⟩⟩
    · rw [State.prog_setProg]
    · rw [State.prog_setProg]
    · refine ⟨_, congrArg Host.Outcome.next ((State.bind_whole hon hd hh hb hcl hi).trans (State.bindEnd_binds hg hfree)), ?_⟩
      obtain ⟨hs, hgen⟩ := s.bindSlot_slot ctl sl (BitVec.ofNat 64 (bits c.c.w1 55 0)) c.asid ds recs
      intro b
      have hb : b = _ := hs
      clear_value b
      subst hb
      exact ⟨rfl, rfl, rfl, rfl, rfl, rfl, rfl, rfl, hgen⟩
  · refine ⟨_, exec_gunbind_closes hc hok hon hh hb hcl hhalt, State.slot_setSlot .., rfl, ?_⟩
    rw [State.prog_setProg]

/-! ## The accesses of a slot (R181, R182) -/

section
variable {s : State} {c sl : Nat} {v : VAcc} {rest : List VAcc}

/-- The first access of the order leaves it, and is counted. -/
theorem State.viewOver_first (ha : (s.slot c sl).accs = v :: rest) (bs : List (Byte × Bool)) :
    ∃ t : State, s.viewOver c sl v bs = t.viewDone v bs ∧ (t.slot c sl).accs = rest ∧ (t.slot c sl).cnt = (s.slot c sl).cnt + 1 := by
  refine ⟨_, rfl, ?_, ?_⟩ <;> rw [(keepsSlots_putWord4 ..).slot, State.slot_setSlot]
  rw [ha, List.erase_cons_head]

/-- Whether a slot takes a step of its accesses through its graph. -/
def State.viewing (s : State) (c sl : Nat) : Prop :=
  (s.slot c sl).bound = true ∧ (s.slot c sl).halt = false ∧ s.ctlRuns c = true ∧ (s.slot c sl).kind ≠ 2

theorem exec_viewAccess_return {t : Tok} {ts : List Tok} (h : s.viewing c sl) (hr : (s.slot c sl).ret = t :: ts) :
    exec (.viewAccess c sl) s = .next (s.viewReturn c sl (s.slot c sl) t ts) := by
  obtain ⟨hb, hh, hrun, hk⟩ := h
  simp [exec, execViewAccess, hb, hh, hrun, hk, hr]

section
variable (h : s.viewing c sl) (hr : (s.slot c sl).ret = []) (ha : (s.slot c sl).accs = v :: rest)
include h hr ha

/-- With nothing at its return port, a slot lets its first access perform, or offers its graph a word. -/
theorem exec_viewAccess_first : exec (.viewAccess c sl) s = .next (
      if (s.slot c sl).kind = 0 && v.back.length = v.words && s.settled c sl v.id then s.viewOver c sl v v.bytes
      else if (s.slot c sl).kind = 1 && v.sent = v.words && s.settled c sl v.id then s.viewOver c sl v []
      else s.viewOffer c sl (s.slot c sl)) := by
  obtain ⟨hb, hh, hrun, hk⟩ := h
  simp [exec, execViewAccess, hb, hh, hrun, hk, hr, ha]

/-- A read performs with all its words back, once the graph has nothing more to do for it. -/
theorem exec_viewAccess_readDone (hk : (s.slot c sl).kind = 0) (hw : v.back.length = v.words) (hs : s.settled c sl v.id = true) :
    exec (.viewAccess c sl) s = .next (s.viewOver c sl v v.bytes) := by
  simp [exec_viewAccess_first h hr ha, hk, hw, hs]

/-- A write performs with all its words in, once the graph has nothing more to do for it. -/
theorem exec_viewAccess_writeDone (hk : (s.slot c sl).kind = 1) (hw : v.sent = v.words) (hs : s.settled c sl v.id = true) :
    exec (.viewAccess c sl) s = .next (s.viewOver c sl v []) := by
  simp [exec_viewAccess_first h hr ha, hk, hw, hs]

/-- A read that lacks words offers one of the order. -/
theorem exec_viewAccess_offers (hk : (s.slot c sl).kind = 0) (hn : v.back.length ≠ v.words) :
    exec (.viewAccess c sl) s = .next (s.viewOffer c sl (s.slot c sl)) := by
  simp [exec_viewAccess_first h hr ha, hk, hn]

end

/-- A read view's only access offers its next word (R181). -/
theorem State.viewOffer_only (hk : (s.slot c sl).kind = 0) (ha : (s.slot c sl).accs = [v]) (hw : v.sent < v.words) :
    s.viewOffer c sl (s.slot c sl) = s.setSlot c sl { s.slot c sl with
      accs := [{ v with sent := v.sent + 1 }]
      port := (s.slot c sl).port ++ [.data (BitVec.ofNat 64 ((v.off / 8 + v.sent) * 8)) false scaleOne false (ownMark v.id)] } := by
  have ho : offerNext (s.slot c sl).kind (s.slot c sl).accs = some (v, v.sent) := by simp [ha, hk, offerNext, hw]
  unfold State.viewOffer
  rw [ho]
  simp [ha, hk, w64]

/-- A word goes to the first access where that expects one. -/
theorem State.viewReturn_first (x : W64) (xs : Bool) (z : BitVec 16) (m : Bool) (j : Nat) (hk : (s.slot c sl).kind = 0)
    (ha : (s.slot c sl).accs = v :: rest) (hw : v.back.length < v.sent) :
    s.viewReturn c sl (s.slot c sl) (.data x xs z m j) [] =
      s.setSlot c sl { s.slot c sl with accs := { v with back := v.back ++ [(x, xs)] } :: rest, ret := [] } := by
  simp [State.viewReturn, hk, ha, giveBack, hw]

end

/-! ## Accumulate slots (R71, R185) -/

/-- The address in the backing buffer that an access reaches next. -/
def VAcc.accVa (v : VAcc) (e : EdgeSlot) : W64 := e.acc + w64 (v.off + v.got.length)

/-- The bytes of the piece there. -/
def VAcc.accLen (v : VAcc) (e : EdgeSlot) : Nat := pieceLen (v.accVa e) (v.size - v.got.length)

/-- The access code of what it does there. -/
def VAcc.accCode (v : VAcc) : Nat := if v.wr.isSome then 1 else 0

/-- The elements that it adds there. -/
def VAcc.accAdds (v : VAcc) (e : EdgeSlot) : List (W32 × Bool) :=
  ((v.addends (e.img != 0)).drop (v.got.length / 4)).take (v.accLen e / 4)

/-- An access has read, or added to, the bytes `bs` of its piece: it performs where that was its last. -/
def State.accTakes (s : State) (c sl : Nat) (v : VAcc) (bs : List (Byte × Bool)) : State :=
  let v' := { v with got := v.got ++ bs }
  let t := s.setSlot c sl { s.slot c sl with accs := (s.slot c sl).accs.map fun x => if x.id = v.id then v' else x }
  if v'.got.length < v.size then t else t.viewOver c sl v' (if v.wr.isSome then [] else v'.got)

section
variable {s : State} {c sl pa : Nat} {e : EdgeSlot} {v : VAcc} {rest : List VAcc} {trc fmt : Bool}

section
variable (hs : e.skip = false) (ht : s.translate (s.accWho c sl e) (v.accVa e) (v.accLen e) v.accCode = .ok pa trc fmt)
include hs ht

/-- A piece that is not at its controller is a fault of type 2. -/
theorem State.accPiece_elsewhere (hh : ∀ o, homeOf pa ≠ .hbm (c / 64) (c % 64) o) :
    s.accPiece c sl e v = s.raiseGen (accFault c sl e (v.accVa e) 2 v.accCode) := by
  unfold VAcc.accLen VAcc.accVa VAcc.accCode at *
  unfold State.accPiece
  dsimp only
  rw [if_neg (by rw [hs]; decide), ht]
  dsimp only
  split
  · next w m o he =>
    refine if_pos ?_
    by_cases hw : w = c / 64
    · have hm : m ≠ c % 64 := fun hm => hh o (by rw [he, hw, hm])
      simp [hm]
    · simp [hw]
  · rfl

/-- At its controller, a write adds its elements to the bytes of its piece in FP32, and a read takes them. -/
theorem State.accPiece_here {o : Nat} (hh : homeOf pa = .hbm (c / 64) (c % 64) o) : s.accPiece c sl e v =
    let bs := s.readRun pa (v.accLen e)
    let sums := elemBytes (addVec (bytesElems 4 bs) (v.accAdds e))
    if v.wr.isSome then (s.write pa sums ⟨4, 5, c / 64 * 2 ^ 15 + c % 64, trc, 0⟩).accTakes c sl v sums else s.accTakes c sl v bs := by
  unfold VAcc.accAdds VAcc.accLen VAcc.accVa VAcc.accCode at *
  unfold State.accPiece
  dsimp only
  rw [if_neg (by rw [hs]; decide), ht]
  dsimp only
  rw [hh]
  dsimp only
  rw [if_neg (by simp)]
  rfl

end

/-- ACCUMULATE_WRITE takes the first access to its next piece, of a write once the graph, where there is one, has returned its words. -/
theorem exec_accumulateWrite_piece (hb : (s.slot c sl).bound = true) (hh : (s.slot c sl).halt = false) (hrun : s.ctlRuns c = true)
    (ha : (s.slot c sl).accs = v :: rest) (hk : (s.slot c sl).kind = 2) (hf : (s.slot c sl).fault = none)
    (hg : v.wr = none ∨ (s.slot c sl).img = 0 ∨ v.words ≤ v.back.length ∧ s.settled c sl v.id = true) :
    exec (.accumulateWrite c sl) s = .next (s.accPiece c sl (s.slot c sl) v) := by
  have hw : ((s.slot c sl).img != 0 && v.wr.isSome && !(v.back.length ≥ v.words && s.settled c sl v.id)) = false := by
    rcases hg with h | h | ⟨h, hs⟩
    · simp [h]
    · simp [h]
    · simp [h, hs]
  simp only [exec, execAccumulateWrite, hb, hh, hrun, ha, hk, hf, hw]
  rfl

end

theorem edgeAccesses : Pieces.EdgeAccesses := by
  unfold Pieces.EdgeAccesses
  intro s c sl v rest e hb hh hrun ha
  have hv : e.kind ≠ 2 → s.viewing c sl := fun hk => ⟨hb, hh, hrun, hk⟩
  refine ⟨State.viewOver_first ha, fun hk hr hw hn hrest => ?_, fun x xs z m j hk hr hw => ?_,
    fun hk hr hw hs => exec_viewAccess_readDone (hv (by omega)) hr ha hk hw hs,
    fun hk hr hw hs => exec_viewAccess_writeDone (hv (by omega)) hr ha hk hw hs, fun pa trc fmt hk hf hskip => ?_⟩
  · exact (exec_viewAccess_offers (hv (by omega)) hr ha hk hn).trans
      (congrArg Host.Outcome.next (State.viewOffer_only hk (hrest ▸ ha) hw))
  · exact (exec_viewAccess_return (hv (by omega)) hr).trans (congrArg Host.Outcome.next (State.viewReturn_first x xs z m j hk ha hw))
  · intro d va n acc has then_ ht hg
    have hx := exec_accumulateWrite_piece hb hh hrun ha hk hf hg
    refine ⟨fun ho => hx.trans (congrArg Host.Outcome.next (State.accPiece_elsewhere hskip ht ho)), fun o ho => ?_⟩
    rw [hx, State.accPiece_here hskip ht ho]
    exact ⟨fun hw => congrArg Host.Outcome.next (if_neg (by rw [hw]; decide)), fun hw => congrArg Host.Outcome.next (if_pos hw)⟩

/-- Settles O52: edge slots are bound, offer their accesses to their graphs, accumulate and are unbound. -/
theorem edgeFabrics : Obligations.EdgeFabrics := ⟨edgeBinds, edgeAccesses⟩

end Sys2Proof.Machine

/-! R80, R82, log 4: every instruction and event, and with them every step, keeps memory in its canonical form. -/

namespace Sys2Proof.Machine

/-- What an instruction answers keeps memory's form: what each one's meaning keeps, put together. -/
theorem exec_keeps {s : State} (h : Memory.wf s.mem = true) (i : Instr) : KeepsR (exec i s) :=
  match i with
  | .add .. => execAdd_keeps h | .addi .. => execAddi_keeps h | .sub .. => execSub_keeps h | .and .. => execAnd_keeps h
  | .andi .. => execAndi_keeps h | .or .. => execOr_keeps h | .ori .. => execOri_keeps h | .xor .. => execXor_keeps h
  | .xori .. => execXori_keeps h | .shl .. => execShl_keeps h | .shli .. => execShli_keeps h | .shr .. => execShr_keeps h
  | .shri .. => execShri_keeps h | .sra .. => execSra_keeps h | .srai .. => execSrai_keeps h | .rot .. => execRot_keeps h
  | .slt .. => execSlt_keeps h | .sltn .. => execSltn_keeps h | .slti .. => execSlti_keeps h | .min .. => execMin_keeps h
  | .minn .. => execMinn_keeps h | .max .. => execMax_keeps h | .maxn .. => execMaxn_keeps h | .clz .. => execClz_keeps h
  | .ctz .. => execCtz_keeps h | .popc .. => execPopc_keeps h | .bext .. => execBext_keeps h | .bins .. => execBins_keeps h
  | .mul .. => execMul_keeps h | .mulh .. => execMulh_keeps h | .mulhn .. => execMulhn_keeps h | .div .. => execDiv_keeps h
  | .divn .. => execDivn_keeps h | .mod .. => execMod_keeps h | .modn .. => execModn_keeps h | .amoAdd .. => execAmoAdd_keeps h
  | .amoAnd .. => execAmoAnd_keeps h | .amoOr .. => execAmoOr_keeps h | .amoXor .. => execAmoXor_keeps h
  | .amoMin .. => execAmoMin_keeps h | .amoMax .. => execAmoMax_keeps h | .amoMinn .. => execAmoMinn_keeps h
  | .amoMaxn .. => execAmoMaxn_keeps h | .amoSwp .. => execAmoSwp_keeps h | .amoCas .. => execAmoCas_keeps h | .lhi .. => execLhi_keeps h
  | .pcrel .. => execPcrel_keeps h | .jmpr .. => execJmpr_keeps h | .ld .. => execLd_keeps h | .st .. => execSt_keeps h
  | .sta .. => execSta_keeps h | .ldfe .. => execLdfe_keeps h | .stfe .. => execStfe_keeps h | .bEq .. => execBEq_keeps h
  | .bNe .. => execBNe_keeps h | .bLt .. => execBLt_keeps h | .bGe .. => execBGe_keeps h | .bLtn .. => execBLtn_keeps h
  | .bGen .. => execBGen_keeps h | .bFull .. => execBFull_keeps h | .bEmpty .. => execBEmpty_keeps h | .jmp .. => execJmp_keeps h
  | .jmpl .. => execJmpl_keeps h | .vadd .. => execVadd_keeps h | .vsub .. => execVsub_keeps h | .vmul .. => execVmul_keeps h
  | .vfma .. => execVfma_keeps h | .vmin .. => execVmin_keeps h | .vmax .. => execVmax_keeps h | .vabs .. => execVabs_keeps h
  | .vneg .. => execVneg_keeps h | .vrcp .. => execVrcp_keeps h | .vrsq .. => execVrsq_keeps h | .vexp .. => execVexp_keeps h
  | .vlog2 .. => execVlog2_keeps h | .vtanh .. => execVtanh_keeps h | .vcvt .. => execVcvt_keeps h | .vcvtS .. => execVcvtS_keeps h
  | .vcmp .. => execVcmp_keeps h | .vsel .. => execVsel_keeps h | .vshuf .. => execVshuf_keeps h | .vfill .. => execVfill_keeps h
  | .vred .. => execVred_keeps h | .vscan .. => execVscan_keeps h | .vdot .. => execVdot_keeps h
  | .vectorChunk .. => execVectorChunk_keeps h | .krd .. => execKrd_keeps h | .kwr .. => execKwr_keeps h | .nop => execNop_keeps h
  | .halt => execHalt_keeps h | .sys .. => execSys_keeps h | .tret => execTret_keeps h | .isync => execIsync_keeps h
  | .fenceAcq .. => execFenceAcq_keeps h | .fenceRel .. => execFenceRel_keeps h | .time .. => execTime_keeps h
  | .timedgo .. => execTimedgo_keeps h | .timedgoRelease .. => execTimedgoRelease_keeps h | .vbusy .. => execVbusy_keeps h
  | .vfence => execVfence_keeps h | .waitf .. => execWaitf_keeps h | .waitpred .. => execWaitpred_keeps h
  | .hintsucc => execHintsucc_keeps h | .kend => execKend_keeps h | .spawn .. => execSpawn_keeps h | .retire => execRetire_keeps h
  | .join .. => execJoin_keeps h | .launch .. => execLaunch_keeps h | .enq .. => execEnq_keeps h | .amsg .. => execAmsg_keeps h
  | .marke .. => execMarke_keeps h | .rmov .. => execRmov_keeps h | .fnew .. => execFnew_keeps h | .fset .. => execFset_keeps h
  | .fsetF .. => execFsetF_keeps h | .fget .. => execFget_keeps h | .fwait .. => execFwait_keeps h | .ffree .. => execFfree_keeps h
  | .binit .. => execBinit_keeps h | .arrive .. => execArrive_keeps h | .bwait .. => execBwait_keeps h
  | .waitLimitTrap .. => execWaitLimitTrap_keeps h | .producerArrive .. => execProducerArrive_keeps h
  | .rmovArrive .. => execRmovArrive_keeps h | .storeAck .. => execStoreAck_keeps h | .homeAccess .. => execHomeAccess_keeps h
  | .remoteWriteUnbacked .. => execRemoteWriteUnbacked_keeps h | .remoteAccessRefused .. => execRemoteAccessRefused_keeps h
  | .icacheFill .. => execIcacheFill_keeps h | .translationWalk .. => execTranslationWalk_keeps h
  | .strandStart .. => execStrandStart_keeps h | .queueRefill .. => execQueueRefill_keeps h
  | .heldRecordPush .. => execHeldRecordPush_keeps h | .recordPromote .. => execRecordPromote_keeps h
  | .launchDoorbell .. => execLaunchDoorbell_keeps h | .launchEntryTake .. => execLaunchEntryTake_keeps h
  | .podSheafAccept .. => execPodSheafAccept_keeps h | .nodePlace .. => execNodePlace_keeps h
  | .nodeReserve .. => execNodeReserve_keeps h | .residencyPlace .. => execResidencyPlace_keeps h
  | .edgeGraphBind .. => execEdgeGraphBind_keeps h | .groupBindingPlace .. => execGroupBindingPlace_keeps h
  | .nodeStart .. => execNodeStart_keeps h | .nodeComplete .. => execNodeComplete_keeps h
  | .sheafComplete .. => execSheafComplete_keeps h | .viewEosSend .. => execViewEosSend_keeps h
  | .amsgDeliver .. => execAmsgDeliver_keeps h | .phaseWake .. => execPhaseWake_keeps h | .trunkSleep .. => execTrunkSleep_keeps h
  | .mma c => execMma_keeps (_c := c) h | .mmaStep .. => execMmaStep_keeps h | .ringTileArrive .. => execRingTileArrive_keeps h
  | .mld c => execMld_keeps (_c := c) h | .mst c => execMst_keeps (_c := c) h | .mcvt c => execMcvt_keeps (_c := c) h
  | .mzero c => execMzero_keeps (_c := c) h | .mring c => execMring_keeps (_c := c) h | .xcopy c => execXcopy_keeps (_c := c) h
  | .xfill c => execXfill_keeps (_c := c) h | .xgath c => execXgath_keeps (_c := c) h | .xscat c => execXscat_keeps (_c := c) h
  | .xswz c => execXswz_keeps (_c := c) h | .ltx c => execLtx_keeps (_c := c) h | .lrx c => execLrx_keeps (_c := c) h
  | .lgrpEnrol c => execLgrpEnrol_keeps (_c := c) h | .lgrpDissolve c => execLgrpDissolve_keeps (_c := c) h
  | .lgrpRd c => execLgrpRd_keeps (_c := c) h | .ered c => execEred_keeps (_c := c) h | .cred c => execCred_keeps (_c := c) h
  | .gbind c => execGbind_keeps (_c := c) h | .gacc c => execGacc_keeps (_c := c) h | .gunbind c => execGunbind_keeps (_c := c) h
  | .blockSend .. => execBlockSend_keeps h | .demandUpdate .. => execDemandUpdate_keeps h | .slotFill .. => execSlotFill_keeps h
  | .blockResend .. => execBlockResend_keeps h | .groupStall .. => execGroupStall_keeps h | .ringHandoff .. => execRingHandoff_keeps h
  | .krxfWrite .. => execKrxfWrite_keeps h | .redRouterAdd .. => execRedRouterAdd_keeps h
  | .credDistribute .. => execCredDistribute_keeps h | .credResultFlit .. => execCredResultFlit_keeps h
  | .viewAccess .. => execViewAccess_keeps h | .accumulateWrite .. => execAccumulateWrite_keeps h
  | .configWordLoad .. => execConfigWordLoad_keeps h | .configStep .. => execConfigStep_keeps h
  | .requestToken .. => execRequestToken_keeps h | .calleeRest .. => execCalleeRest_keeps h | .creqPlace .. => execCreqPlace_keeps h
  | .plut .. => execPlut_keeps h | .pag .. => execPag_keeps h | .padd .. => execPadd_keeps h | .psub .. => execPsub_keeps h
  | .pmul .. => execPmul_keeps h | .pfma .. => execPfma_keeps h | .pmin .. => execPmin_keeps h | .pmax .. => execPmax_keeps h
  | .pcmp .. => execPcmp_keeps h | .plog .. => execPlog_keeps h | .pshf .. => execPshf_keeps h | .pcvt .. => execPcvt_keeps h
  | .pacc .. => execPacc_keeps h | .pld .. => execPld_keeps h | .pst .. => execPst_keeps h | .ccall .. => execCcall_keeps h
  | .cret .. => execCret_keeps h | .creq .. => execCreq_keeps h | .routerPass .. => execRouterPass_keeps h
  | .steer .. => execSteer_keeps h | .carry .. => execCarry_keeps h | .invar .. => execInvar_keeps h | .merge .. => execMerge_keeps h
  | .kpresWrite .. => execKpresWrite_keeps h | .krseedWrite .. => execKrseedWrite_keeps h | .kqseedWrite .. => execKqseedWrite_keeps h
  | .kxinvPage .. => execKxinvPage_keeps h | .kxinvAsid .. => execKxinvAsid_keeps h | .kxinvAll .. => execKxinvAll_keeps h
  | .ksvcKill .. => execKsvcKill_keeps h | .ksvcRetry .. => execKsvcRetry_keeps h | .ksvcContinue .. => execKsvcContinue_keeps h
  | .ksvcPreempt .. => execKsvcPreempt_keeps h | .ksvcRestore .. => execKsvcRestore_keeps h
  | .ksvcCheckpoint .. => execKsvcCheckpoint_keeps h | .ksvcKillAll .. => execKsvcKillAll_keeps h
  | .preemptQuiesce .. => execPreemptQuiesce_keeps h | .awnReceive .. => execAwnReceive_keeps h
  | .checkpointSave .. => execCheckpointSave_keeps h | .watchdogExpire .. => execWatchdogExpire_keeps h
  | .eventPost .. => execEventPost_keeps h | .grainInterval .. => execGrainInterval_keeps h
  | .tradingPeriod .. => execTradingPeriod_keeps h | .grantReceive .. => execGrantReceive_keeps h
  | .throttleEntry .. => execThrottleEntry_keeps h | .throttleExit .. => execThrottleExit_keeps h
  | .kfclkWrite .. => execKfclkWrite_keeps h | .hopComplete .. => execHopComplete_keeps h | .hopAbandon .. => execHopAbandon_keeps h
  | .hopRetry .. => execHopRetry_keeps h | .fieldHot .. => execFieldHot_keeps h | .fieldCool .. => execFieldCool_keeps h
  | .nodeMigrate .. => execNodeMigrate_keeps h | .budgetDecay .. => execBudgetDecay_keeps h | .timeFlit .. => execTimeFlit_keeps h
  | .flitReceive .. => execFlitReceive_keeps h | .flitReplay .. => execFlitReplay_keeps h | .linkDown .. => execLinkDown_keeps h
  | .wavelengthSteer .. => execWavelengthSteer_keeps h | .keyRolloverRequest .. => execKeyRolloverRequest_keeps h
  | .keyRollover .. => execKeyRollover_keeps h | .keySlotFree .. => execKeySlotFree_keeps h | .moduleReset .. => execModuleReset_keeps h
  | .bootStageVerify .. => execBootStageVerify_keeps h | .krcvcGo .. => execKrcvcGo_keeps h
  | .recoveryLoadDone .. => execRecoveryLoadDone_keeps h | .katnWrite .. => execKatnWrite_keeps h
  | .attestReportDone .. => execAttestReportDone_keeps h | .podFormation .. => execPodFormation_keeps h
  | .linkUp .. => execLinkUp_keeps h | .ksvqhWrite .. => execKsvqhWrite_keeps h | .ktrbWrite .. => execKtrbWrite_keeps h
  | .hostWindowWrite .. => execHostWindowWrite_keeps h | .hbmScrub .. => execHbmScrub_keeps h

/-- What a step answers keeps memory's form: the turn does, and so does the instruction that it runs. -/
theorem step_keeps {s : State} (h : Memory.wf s.mem = true) : KeepsR (step s) := by
  have ht : KeepsT s.turn := State.turn_keeps h
  unfold step
  cases hs : s.turn with
  | run i s' => rw [hs] at ht; exact exec_keeps ht i
  | done s' => rw [hs] at ht; exact ht
  | bad => trivial
  | noUnit => trivial

/-- Settles O59: a step is a turn and the instruction that it runs, and both keep memory's form. -/
theorem stepKeepsMemory : Obligations.StepKeepsMemory := by
  intro s t h hs
  have hk : KeepsR (step s) := step_keeps h
  rwa [hs] at hk

end Sys2Proof.Machine

/-! R93, R94, R205, R242: what the issue of a scalar instruction leaves as it was, operation by operation. -/

namespace Sys2Proof.Machine

/-- `t` differs from `s` in no byte of memory, no poison mark, no presence or swizzle tag, no time, and no core but the issuing one. -/
structure State.IssueLeaves (s t : State) : Prop where
  mem : t.mem = s.mem
  poison : t.poison = s.poison
  qtags : t.qtags = s.qtags
  swz : t.swz = s.swz
  time : t.time = s.time
  tick : t.tick = s.tick
  cur : t.cur = s.cur
  others : ∀ n, n ≠ s.cur → t.core n = s.core n

namespace State.IssueLeaves

theorem refl (s : State) : s.IssueLeaves s := ⟨rfl, rfl, rfl, rfl, rfl, rfl, rfl, fun _ _ => rfl⟩

theorem trans {s t u : State} (h : s.IssueLeaves t) (k : t.IssueLeaves u) : s.IssueLeaves u where
  mem := k.mem.trans h.mem
  poison := k.poison.trans h.poison
  qtags := k.qtags.trans h.qtags
  swz := k.swz.trans h.swz
  time := k.time.trans h.time
  tick := k.tick.trans h.tick
  cur := k.cur.trans h.cur
  others n hn := (k.others n (h.cur ▸ hn)).trans (h.others n hn)

end State.IssueLeaves

section
variable {s : State}

/-! ## Units put back -/

theorem issueLeaves_setMe (c : Core) : s.IssueLeaves (s.setMe c) :=
  ⟨rfl, rfl, rfl, rfl, rfl, rfl, rfl, fun n hn => State.core_setMe_ne s c n hn⟩

theorem issueLeaves_setQuad (k : Nat) (q : Quad) : s.IssueLeaves (s.setQuad k q) := ⟨rfl, rfl, rfl, rfl, rfl, rfl, rfl, fun _ _ => rfl⟩

theorem issueLeaves_setField (k : Nat) (f : Field) : s.IssueLeaves (s.setField k f) := ⟨rfl, rfl, rfl, rfl, rfl, rfl, rfl, fun _ _ => rfl⟩

theorem issueLeaves_setQueue (k : Nat) (q : EngQ) : s.IssueLeaves (s.setQueue k q) := ⟨rfl, rfl, rfl, rfl, rfl, rfl, rfl, fun _ _ => rfl⟩

theorem issueLeaves_streams (m : Map Leaf) : s.IssueLeaves { s with streams := m } := ⟨rfl, rfl, rfl, rfl, rfl, rfl, rfl, fun _ _ => rfl⟩

theorem issueLeaves_modNode (r : NodeRef) (f : Node → Node) : s.IssueLeaves (s.modNode r f) := by
  unfold State.modNode State.setNode
  split
  · split
    · exact ⟨rfl, rfl, rfl, rfl, rfl, rfl, rfl, fun _ _ => rfl⟩
    · exact .refl s
  · exact .refl s

theorem issueLeaves_modResid (i : Nat) (f : Resid → Resid) : s.IssueLeaves (s.modResid i f) := by
  unfold State.modResid
  split
  · exact ⟨rfl, rfl, rfl, rfl, rfl, rfl, rfl, fun _ _ => rfl⟩
  · exact .refl s

/-! ## Completing, waiting, trapping and stopping -/

theorem issueLeaves_block : s.IssueLeaves s.block := by
  unfold State.block
  split
  · exact .refl s
  · exact issueLeaves_setMe _

theorem issueLeaves_trap (cause : Nat) (v : W64) : s.IssueLeaves (s.trap cause v) := by
  obtain ⟨c, hc⟩ := State.trapOn_eq_setCore s s.cur cause v
  rw [State.trap, hc]
  exact issueLeaves_setMe c

/-- The issuing core stops: its fault is held and posted, and no other core stops with it. -/
theorem issueLeaves_stopCore (o : Owner) (va : W64) (ty acc : Nat) : s.IssueLeaves (s.stopCore s.cur o va ty acc) :=
  ⟨rfl, rfl, rfl, rfl, rfl, rfl, rfl, fun _ hn => State.core_setCore_ne _ _ _ _ hn⟩

/-- What a state leaves that goes on to complete with a core of its own. -/
theorem State.IssueLeaves.finish {t : State} (h : s.IssueLeaves t) (c : Core) : s.IssueLeaves (t.finish c) :=
  h.trans (issueLeaves_setMe _)

theorem issueLeaves_finish (c : Core) : s.IssueLeaves (s.finish c) := issueLeaves_setMe _

theorem issueLeaves_issue {srcs : List (Reg × Bool)} {d : Reg} {k : Core → State} (hk : ∀ c, s.IssueLeaves (k c)) :
    s.IssueLeaves (s.issue srcs d k) := by
  unfold State.issue
  split
  · exact issueLeaves_trap ..
  · split
    · exact issueLeaves_block
    · exact hk _

theorem issueLeaves_op2 {d a b : Reg} {wa wb : Bool} {f : W64 → W64 → W64} : s.IssueLeaves (s.op2 d a b wa wb f) :=
  issueLeaves_issue fun _ => issueLeaves_finish _

theorem issueLeaves_op1 {d a : Reg} {wa : Bool} {f : W64 → W64} : s.IssueLeaves (s.op1 d a wa f) :=
  issueLeaves_issue fun _ => issueLeaves_finish _

/-- An instruction that some values of its operands make trap leaves what the trap does, or what it does with the others. -/
theorem issueLeaves_trapIf {p : Prop} [Decidable p] {cause : Nat} {v : W64} {t : State} (h : s.IssueLeaves t) :
    s.IssueLeaves (if p then s.trap cause v else t) := by
  split
  · exact issueLeaves_trap ..
  · exact h

/-- An instruction that a condition makes wait leaves what its wait does, or what it does once that has ended. -/
theorem issueLeaves_waitIf {p : Prop} [Decidable p] {c : Core} {t : State} (h : s.IssueLeaves t) :
    s.IssueLeaves (if p then s.setMe c else t) := by
  split
  · exact issueLeaves_setMe c
  · exact h

theorem issueLeaves_blockIf {p : Prop} [Decidable p] {t : State} (h : s.IssueLeaves t) : s.IssueLeaves (if p then s.block else t) := by
  split
  · exact issueLeaves_block
  · exact h

theorem issueLeaves_finishIf {p : Prop} [Decidable p] {c : Core} {t : State} (h : s.IssueLeaves t) :
    s.IssueLeaves (if p then s.finish c else t) := by
  split
  · exact issueLeaves_finish c
  · exact h

/-! ## Accesses -/

theorem issueLeaves_refill (w : Who) (va : W64) : s.IssueLeaves (s.refill w va) := by
  unfold State.refill
  split
  · exact .refl s
  · split
    · exact issueLeaves_streams _
    · exact .refl s

theorem issueLeaves_untried : s.IssueLeaves s.untried := by
  unfold State.untried
  split
  · exact issueLeaves_setMe _
  · exact .refl s

theorem issueLeaves_askWalk (w : Who) (va : W64) (acc : Nat) (f : GenFault) : s.IssueLeaves (s.askWalk w va acc f) := by
  unfold State.askWalk
  split
  · exact issueLeaves_streams _
  · split
    · exact .refl s
    · exact ⟨rfl, rfl, rfl, rfl, rfl, rfl, rfl, fun _ _ => rfl⟩

theorem issueLeaves_pushAccess (c : Core) (a : Access) : s.IssueLeaves (s.pushAccess c a) := by
  unfold State.pushAccess
  dsimp only
  split
  · exact issueLeaves_setMe _
  · exact issueLeaves_finish _

/-- An access that issues enters the port, waits, asks for its translation, or stops its core: it performs later. -/
theorem issueLeaves_access (c : Core) (a : Access) : s.IssueLeaves (s.access c a) := by
  unfold State.access
  refine (issueLeaves_refill (s.portWho s.cur) a.va).trans ?_
  generalize s.refill (s.portWho s.cur) a.va = s
  dsimp only
  split
  · exact (issueLeaves_setMe _).trans (issueLeaves_askWalk ..)
  · exact issueLeaves_stopCore ..
  · split
    · exact issueLeaves_stopCore ..
    · refine issueLeaves_waitIf ?_
      split
      · split
        · exact issueLeaves_setMe _
        · exact issueLeaves_stopCore ..
      · exact issueLeaves_waitIf (issueLeaves_pushAccess ..)

/-- An instruction that reaches its bytes at once goes on with them in a state that differs in a stream entry and its own core alone. -/
theorem issueLeaves_reach {c : Core} {va : W64} {size acc : Nat} {k : State → Nat → Bool → State}
    (hk : ∀ (u : State) (pa : Nat) (trc : Bool), u.IssueLeaves (k u pa trc)) : s.IssueLeaves (s.reach c va size acc k) := by
  unfold State.reach
  refine ((issueLeaves_refill (s.portWho s.cur) va).trans issueLeaves_untried).trans ?_
  generalize (s.refill (s.portWho s.cur) va).untried = s
  dsimp only
  split
  · exact (issueLeaves_setMe _).trans (issueLeaves_askWalk ..)
  · exact issueLeaves_stopCore ..
  · split
    · exact issueLeaves_stopCore ..
    · split
      · exact issueLeaves_setMe _
      · split
        · exact issueLeaves_stopCore ..
        · exact hk ..

/-! ## The instructions -/

theorem issueLeaves_execBins (d a b : Reg) (wa wb : Bool) : ∃ t, execBins d a b wa wb s = .next t ∧ s.IssueLeaves t := by
  refine ⟨_, rfl, ?_⟩
  split
  · exact issueLeaves_trap ..
  · exact issueLeaves_blockIf (issueLeaves_finish _)

theorem issueLeaves_amo (op : AmoOp) (i : Instr) (d a b : Reg) (wa wb wide : Bool) (sc : BitVec 3) :
    s.IssueLeaves (s.amo op i d a b wa wb wide sc) := by
  unfold State.amo
  refine issueLeaves_trapIf ?_
  split
  · exact issueLeaves_trap ..
  · exact issueLeaves_blockIf (issueLeaves_trapIf (issueLeaves_access ..))

theorem issueLeaves_branch (a b : Reg) (off : BitVec 12) (cond : W64 → W64 → Bool) : s.IssueLeaves (s.branch a b off cond) := by
  refine issueLeaves_issue fun c => ?_
  split <;> exact issueLeaves_setMe _

theorem issueLeaves_presenceBranch (taken : Bool) (off : BitVec 12) : s.IssueLeaves (s.presenceBranch taken off) := by
  unfold State.presenceBranch
  split <;> exact issueLeaves_setMe _

theorem issueLeaves_vIssue (vop : Nat) (i : Instr) (a b : Reg) (wa wb : Bool) (fmt : BitVec 4) (flg : BitVec 3) :
    s.IssueLeaves (s.vIssue vop i a b wa wb fmt flg) := by
  unfold State.vIssue
  refine issueLeaves_trapIf (issueLeaves_issue fun c => ?_)
  split
  · exact issueLeaves_trap ..
  · exact issueLeaves_waitIf (issueLeaves_finish _)

theorem issueLeaves_execKrd (d : Reg) (k : BitVec 12) : ∃ t, execKrd d k s = .next t ∧ s.IssueLeaves t := by
  refine ⟨_, rfl, ?_⟩
  split
  · exact issueLeaves_trap ..
  · refine issueLeaves_trapIf (issueLeaves_issue fun c => ?_)
    dsimp only
    split <;> exact issueLeaves_finish _

theorem issueLeaves_trapReturn : s.IssueLeaves s.trapReturn :=
  issueLeaves_trapIf (issueLeaves_trapIf (issueLeaves_setMe _))

theorem issueLeaves_execWaitpred (d : Reg) : ∃ t, execWaitpred d s = .next t ∧ s.IssueLeaves t := by
  refine ⟨_, rfl, issueLeaves_issue fun c => ?_⟩
  split
  · exact .refl s
  · split
    · exact issueLeaves_finish _
    · split
      · exact issueLeaves_finish _
      · exact issueLeaves_setMe _

theorem issueLeaves_execHintsucc : ∃ t, execHintsucc s = .next t ∧ s.IssueLeaves t := by
  refine ⟨_, rfl, ?_⟩
  split
  · exact (issueLeaves_modNode ..).finish _
  · exact issueLeaves_finish _

/-- ENQ reads its command at once, and puts it in its queue. -/
theorem issueLeaves_execEnq (a b : Reg) (sc : BitVec 3) : ∃ t, execEnq a b sc s = .next t ∧ s.IssueLeaves t := by
  refine ⟨_, rfl, issueLeaves_trapIf (issueLeaves_issue fun c => issueLeaves_trapIf (issueLeaves_trapIf ?_))⟩
  split
  · exact issueLeaves_stopCore ..
  · refine issueLeaves_blockIf (issueLeaves_waitIf (issueLeaves_reach fun u pa trc => ?_))
    have hser : u.IssueLeaves { u with serial := u.serial + 1 } := ⟨rfl, rfl, rfl, rfl, rfl, rfl, rfl, fun _ _ => rfl⟩
    exact (hser.trans (issueLeaves_setQueue ..)).finish _

theorem issueLeaves_message (c : Core) (g a b : W64) (eos : Bool) : s.IssueLeaves (s.message c g a b eos) := by
  unfold State.message
  refine issueLeaves_trapIf ?_
  split
  · exact .refl s
  · dsimp only
    split
    · exact (issueLeaves_modResid ..).finish _
    · split
      · exact (issueLeaves_setField ..).finish _
      · exact issueLeaves_block

theorem issueLeaves_execRmov (a b : Reg) (n : BitVec 5) : ∃ t, execRmov a b n s = .next t ∧ s.IssueLeaves t := by
  refine ⟨_, rfl, issueLeaves_issue fun c => issueLeaves_trapIf ?_⟩
  refine State.IssueLeaves.finish ?_ c
  exact ⟨rfl, rfl, rfl, rfl, rfl, rfl, rfl, fun _ _ => rfl⟩

theorem issueLeaves_execFnew (d : Reg) : ∃ t, execFnew d s = .next t ∧ s.IssueLeaves t := by
  refine ⟨_, rfl, issueLeaves_issue fun c => ?_⟩
  split
  · exact issueLeaves_finish _
  · dsimp only
    split
    · exact issueLeaves_finish _
    · exact (issueLeaves_setField ..).finish _

theorem issueLeaves_execFwait (d a : Reg) : ∃ t, execFwait d a s = .next t ∧ s.IssueLeaves t := by
  refine ⟨_, rfl, issueLeaves_issue fun c => issueLeaves_trapIf (issueLeaves_trapIf (issueLeaves_waitIf ?_))⟩
  split
  · exact issueLeaves_finish _
  · exact issueLeaves_setMe _

theorem issueLeaves_point {c : Core} {v : W64} {k : Nat → State} (hk : ∀ p, s.IssueLeaves (k p)) : s.IssueLeaves (s.point c v k) := by
  unfold State.point
  refine issueLeaves_trapIf ?_
  split
  · exact .refl s
  · exact hk _

theorem issueLeaves_execBinit (a b : Reg) : ∃ t, execBinit a b s = .next t ∧ s.IssueLeaves t := by
  refine ⟨_, rfl, issueLeaves_issue fun c => issueLeaves_point fun p => issueLeaves_trapIf (issueLeaves_trapIf ?_)⟩
  refine State.IssueLeaves.finish ?_ c
  exact ⟨rfl, rfl, rfl, rfl, rfl, rfl, rfl, fun _ _ => rfl⟩

theorem issueLeaves_execBwait (d a b : Reg) : ∃ t, execBwait d a b s = .next t ∧ s.IssueLeaves t := by
  refine ⟨_, rfl, issueLeaves_issue fun c => issueLeaves_point fun p => ?_⟩
  dsimp only
  split
  · exact issueLeaves_trap ..
  · split
    · exact issueLeaves_finish _
    · exact issueLeaves_setMe _

/-- Every scalar instruction but those that store or act at issue themselves answers a next state, which differs in its own core. -/
theorem exec_issueLeaves (i : Instr) (hi : i.scalar = true) (hw : writesAtIssue i = false) :
    ∃ t, exec i s = .next t ∧ s.IssueLeaves t :=
  match i, hi, hw with
  | .add .., _, _ | .sub .., _, _ | .and .., _, _ | .or .., _, _ | .xor .., _, _ | .shl .., _, _ | .shr .., _, _ | .sra .., _, _
  | .rot .., _, _ | .slt .., _, _ | .sltn .., _, _ | .min .., _, _ | .minn .., _, _ | .max .., _, _ | .maxn .., _, _ | .bext .., _, _
  | .mul .., _, _ | .mulh .., _, _ | .mulhn .., _, _ | .div .., _, _ | .divn .., _, _ | .mod .., _, _ | .modn .., _, _
    => ⟨_, rfl, issueLeaves_op2⟩
  | .addi .., _, _ | .andi .., _, _ | .ori .., _, _ | .xori .., _, _ | .shli .., _, _ | .shri .., _, _ | .srai .., _, _ | .slti .., _, _
  | .clz .., _, _ | .ctz .., _, _ | .popc .., _, _ | .lhi .., _, _ => ⟨_, rfl, issueLeaves_op1⟩
  | .bins .., _, _ => issueLeaves_execBins ..
  | .amoAdd .., _, _ | .amoAnd .., _, _ | .amoOr .., _, _ | .amoXor .., _, _ | .amoMin .., _, _ | .amoMax .., _, _ | .amoMinn .., _, _
  | .amoMaxn .., _, _ | .amoSwp .., _, _ | .amoCas .., _, _ => ⟨_, rfl, issueLeaves_amo ..⟩
  | .pcrel .., _, _ | .vbusy .., _, _ => ⟨_, rfl, issueLeaves_issue fun _ => issueLeaves_finish _⟩
  | .jmpr .., _, _ => ⟨_, rfl, issueLeaves_issue fun _ => issueLeaves_trapIf (issueLeaves_setMe _)⟩
  | .ld .., _, _ => ⟨_, rfl, issueLeaves_trapIf (issueLeaves_issue fun _ => issueLeaves_trapIf (issueLeaves_access ..))⟩
  | .st .., _, _ | .sta .., _, _
    => ⟨_, rfl, issueLeaves_trapIf (issueLeaves_issue fun _ => issueLeaves_trapIf (issueLeaves_waitIf (issueLeaves_access ..)))⟩
  | .ldfe .., _, _ | .stfe .., _, _ | .waitf .., _, _ => ⟨_, rfl, issueLeaves_issue fun _ => issueLeaves_trapIf (issueLeaves_access ..)⟩
  | .bEq .., _, _ | .bNe .., _, _ | .bLt .., _, _ | .bGe .., _, _ | .bLtn .., _, _ | .bGen .., _, _ => ⟨_, rfl, issueLeaves_branch ..⟩
  | .bFull .., _, _ | .bEmpty .., _, _ => ⟨_, rfl, issueLeaves_presenceBranch ..⟩
  | .jmp .., _, _ => ⟨_, rfl, issueLeaves_setMe _⟩
  | .jmpl .., _, _ | .timedgo .., _, _ => ⟨_, rfl, issueLeaves_issue fun _ => issueLeaves_setMe _⟩
  | .vadd .., _, _ | .vsub .., _, _ | .vmul .., _, _ | .vfma .., _, _ | .vmin .., _, _ | .vmax .., _, _ | .vabs .., _, _
  | .vneg .., _, _ | .vrcp .., _, _ | .vrsq .., _, _ | .vexp .., _, _ | .vlog2 .., _, _ | .vtanh .., _, _ | .vcvt .., _, _
  | .vcvtS .., _, _ | .vcmp .., _, _ | .vsel .., _, _ | .vshuf .., _, _ | .vfill .., _, _ | .vred .., _, _ | .vscan .., _, _
  | .vdot .., _, _ => ⟨_, rfl, issueLeaves_vIssue ..⟩
  | .krd .., _, _ => issueLeaves_execKrd ..
  | .nop, _, _ => ⟨_, rfl, issueLeaves_finish _⟩
  | .sys .., _, _ => ⟨_, rfl, issueLeaves_trap ..⟩
  | .tret, _, _ => ⟨_, rfl, issueLeaves_trapReturn⟩
  | .isync, _, _ => ⟨_, rfl, (issueLeaves_setQuad ..).finish _⟩
  | .fenceAcq .., _, _ | .fenceRel .., _, _ => ⟨_, rfl, issueLeaves_trapIf (issueLeaves_finishIf (issueLeaves_setMe _))⟩
  | .time .., _, _ => ⟨_, rfl, issueLeaves_issue fun _ => (issueLeaves_setMe _).finish _⟩
  | .vfence, _, _ => ⟨_, rfl, issueLeaves_issue fun _ => issueLeaves_blockIf (issueLeaves_finish _)⟩
  | .waitpred .., _, _ => issueLeaves_execWaitpred ..
  | .hintsucc, _, _ => issueLeaves_execHintsucc
  | .enq .., _, _ => issueLeaves_execEnq ..
  | .amsg .., _, _ | .marke .., _, _ => ⟨_, rfl, issueLeaves_issue fun _ => issueLeaves_message ..⟩
  | .rmov .., _, _ => issueLeaves_execRmov ..
  | .fnew .., _, _ => issueLeaves_execFnew ..
  | .fwait .., _, _ => issueLeaves_execFwait ..
  | .binit .., _, _ => issueLeaves_execBinit ..
  | .bwait .., _, _ => issueLeaves_execBwait ..

end

/-- Settles O60: what each operation of issue leaves, put together instruction by instruction. -/
theorem issueFrame : Obligations.IssueFrame := by
  intro s t i hi hw ht
  obtain ⟨u, hu, h⟩ := exec_issueLeaves (s := s) i hi hw
  obtain rfl : u = t := by simpa [hu] using ht
  exact ⟨h.mem, h.poison, h.qtags, h.swz, h.time, h.tick, h.cur, h.others⟩

end Sys2Proof.Machine

/-! R74, R76, R88, R91, R107, R202, R388: what comes back to a core: values, acknowledgements, refusals, lines and translations. -/

namespace Sys2Proof.Machine

section
variable {s : State} {n : Nat} {a : Access}

/-! ## Values and acknowledgements -/

/-- A read of the port other than a record's is no store, and waits for nothing but its value. -/
theorem exec_producerArrive {v : W64} (hf : (s.core n).find a.id = some a) (hp : a.phase = .performed v) (hr : a.isRead = true)
    (hk : a.kind ≠ .record) : exec (.producerArrive n a.id) s = .next (s.setCore n
      ({ s.core n with port := (s.core n).port.filter fun b => b.id != a.id }.put a.dst (a.value v))) := by
  simp only [exec, execProducerArrive, hf, hp]
  cases h : a.kind with
  | st | sta | stfe => simp [Access.isRead, h] at hr
  | record => exact absurd h hk
  | ld | ldfe | waitf | amo op => rfl

/-- No store is a read of the port. -/
theorem Access.isRead_of_store (h : a.kind = .st ∨ a.kind = .sta ∨ a.kind = .stfe) : a.isRead = false := by
  rcases h with h | h | h <;> simp [Access.isRead, h]

theorem exec_storeAck (hf : (s.core n).find a.id = some a) (hp : a.performed = true)
    (hk : a.kind = .st ∨ a.kind = .sta ∨ a.kind = .stfe) : exec (.storeAck n a.id) s =
      .next ((s.setCore n { s.core n with port := (s.core n).port.filter fun b => b.id != a.id }).endParked n) := by
  simp [exec, execStoreAck, hf, hp, Access.isRead_of_store hk]

/-! ## RMOV (R76) -/

/-- A register that receives a value holds it, full, and is marked as overrun where it was full or awaited a local producer. -/
theorem Core.receive_spec (c : Core) {d : Reg} (v : W64) (hd : d ≠ 0) :
    (c.receive d v).get d = v ∧ (c.receive d v).isFull d = true ∧
      (c.isFull d = true ∨ c.producing d = true → (c.receive d v).ovr.getLsbD d.toNat = true) := by
  have hg : (c.learnt.put d v).get d = v := by rw [Core.get_put_same, if_neg hd]
  unfold Core.receive
  rw [if_neg hd]
  split
  · refine ⟨hg, Core.isFull_put_same .., fun _ => ?_⟩
    simp [regMask_getLsbD]
  · rename_i ho
    exact ⟨hg, Core.isFull_put_same .., fun h => absurd (by simpa using h) ho⟩

theorem exec_rmovArrive {src dst : Nat} {m : Send}
    (hm : s.sends.find? (fun m => nQuad m.src == nQuad src && nQuad m.dst == nQuad dst) = some m) (hs : m.src = src) (hd : m.dst = dst) :
    exec (.rmovArrive src dst) s =
      .next ({ s with sends := s.sends.erase m }.setCore dst ((s.core dst).receive m.n m.v)) := by
  simp [exec, execRmovArrive, hm, hs, hd]

/-! ## What a remote home does not back (R388) -/

theorem exec_remoteWriteUnbacked (hf : (s.core n).find a.id = some a) (hp : a.phase = .issued) (hm : (s.core n).mayPerform a = true)
    (hu : s.remoteUnbacked (nWafer n) a.pa = true) (hk : a.kind = .st ∨ a.kind = .sta ∨ a.kind = .stfe) :
    exec (.remoteWriteUnbacked n a.id) s = .next (((s.setCore n ((s.core n).done a.id 0)).raiseEv (nWafer n)
      ((s.portFault n (.late n a.id) a.va 2 1).event .other)).endParked n) := by
  simp [exec, execRemoteWriteUnbacked, hf, hp, hm, hu, Access.isRead_of_store hk]

section
variable (hf : (s.core n).find a.id = some a) (hp : a.phase = .issued) (hm : (s.core n).mayPerform a = true)
  (hu : s.remoteUnbacked (nWafer n) a.pa = true) (hr : a.isRead = true) (hn : (s.core n).fault = none)
include hf hp hm hu hr hn

/-- A core whose SPAWN reads a record that is refused stops before the SPAWN. -/
theorem exec_remoteAccessRefused_record (hk : a.kind = .record) :
    exec (.remoteAccessRefused n a.id) s = .next ((s.setCore n (s.core n).dropRecords).stopCore n (.port n) a.va 2 0) := by
  simp [exec, execRemoteAccessRefused, State.lateFault, hf, hp, hm, hu, hr, hn, hk]

/-- Any other refused read stops its core with the access held. -/
theorem exec_remoteAccessRefused_late (hk : a.kind ≠ .record) : exec (.remoteAccessRefused n a.id) s =
    .next ((s.setCore n ((s.core n).setPhase a.id .refused)).stopCore n (.late n a.id) a.va 2 a.kind.code) := by
  simp [exec, execRemoteAccessRefused, hf, hp, hm, hu, hr, hn, hk]

end

/-- A core that is put back and stops holds its fault under the next number, and keeps its port. -/
theorem State.stopCore_setCore (s : State) (n : Nat) (c : Core) (o : Owner) (va : W64) (ty acc : Nat) :
    let t := (s.setCore n c).stopCore n o va ty acc
    (t.core n).fault = some s.serial ∧ mfind t.faults s.serial = some ((s.setCore n c).portFault n o va ty acc) ∧
      (t.core n).port = c.port := by
  have hc : ((s.setCore n c).stopCore n o va ty acc).core n = { c with fault := some s.serial, wait := none, tried := none } := by
    rw [State.stopCore, State.core_setCore]
    exact congrArg (fun c : Core => { c with fault := some s.serial, wait := none, tried := none }) (State.core_setCore s n c)
  exact ⟨by rw [hc], mfind_mput_same .., by rw [hc]⟩

/-- The words of a record are gone from the port. -/
theorem Core.records_dropRecords (c : Core) : c.dropRecords.records = [] := by
  simp [Core.records, Core.dropRecords]

/-! ## Instruction lines and translations (R88, R91, R202) -/

/-- The eight words of an instruction line. -/
def State.lineWords (s : State) (pa : Nat) : List W32 := (List.range 8).map fun i => BitVec.ofNat 32 (s.readNat (pa + 4 * i) 4)

/-- ICACHE_FILL of a sound line that its quad waits for, with room for it. -/
theorem exec_icacheFill {quad m pa va asid : Nat} (hq : (s.quad quad).miss = some (m, pa, va, asid))
    (hl : (s.quad quad).icache.length < 2048) (hp : s.poisonRun pa 32 = false) :
    ∃ t, exec (.icacheFill quad) s = .next t ∧ t.mem = s.mem ∧ t.quad quad =
      { s.quad quad with miss := none, icache := mput (s.quad quad).icache (canon pa / 32) (s.lineWords pa) } := by
  have hroom : ¬ (s.quad quad).icache.length ≥ icacheLines := Nat.not_le.mpr hl
  have hsound : ¬ (s.setQuad quad { s.quad quad with miss := none }).poisonRun pa lineBytes = true :=
    fun h => absurd (hp.symm.trans h) nofun
  refine ⟨_, rfl, ?_⟩
  dsimp only
  rw [hq]
  dsimp only
  rw [if_neg hroom, if_neg hsound]
  exact ⟨rfl, by rw [State.quad_setQuad, State.quad_setQuad]; rfl⟩

/-- A leaf that a walk has found is its stream's, and the newest of its field's cache, which holds 2,048. -/
theorem State.cacheLeaf_spec (s : State) (field gid : Nat) (l : Leaf) :
    let t := s.cacheLeaf field gid l
    mfind t.streams gid = some l ∧ l ∈ (t.field field).tlb ∧ (t.field field).tlb.length ≤ 2048 ∧ t.mem = s.mem := by
  let old := (s.field field).tlb.filter fun k => !(k.asid == l.asid && k.base == l.base && k.size == l.size)
  have htlb : ((s.cacheLeaf field gid l).field field).tlb = (old ++ [l]).drop ((old ++ [l]).length - 2048) := by
    simp only [State.cacheLeaf, State.field, State.setField, mget_mput_same, old]
  refine ⟨mfind_mput_same .., ?_, ?_, rfl⟩
  · have hk : (old ++ [l]).length - 2048 ≤ old.length := by rw [List.length_append, List.length_singleton]; omega
    rw [htlb, List.drop_append_of_le_length hk]
    exact List.mem_append_right _ (List.mem_singleton_self l)
  · rw [htlb, List.length_drop]
    omega

/-- The state once the k-th walk has been taken up. -/
def State.walkTaken (s : State) (k : Nat) : State := { s with walks := dropNth s.walks k }

section
variable {k : Nat} {q : Walk} {l : Leaf} (hk : s.walks[k]? = some q)
include hk

/-- TRANSLATION_WALK gives its stream the leaf of its field's cache. -/
theorem exec_translationWalk_cached (hl : (s.field q.field).tlb.find? (·.maps q.asid q.va) = some l) :
    exec (.translationWalk k) s = .next { s.walkTaken k with streams := mput s.streams q.gid l } := by
  have hc : (s.walkTaken k).fieldLeaf q.field q.asid q.va = some l := hl
  simp only [exec, execTranslationWalk, hk]
  rw [← State.walkTaken, hc]
  rfl

/-- Where the cache has none, it caches and gives the leaf that it walks to. -/
theorem exec_translationWalk_walked (hn : (s.field q.field).tlb.find? (·.maps q.asid q.va) = none)
    (hl : walkVa (s.walkTaken k) q.fault.wafer q.asid q.va = .ok l) :
    exec (.translationWalk k) s = .next ((s.walkTaken k).cacheLeaf q.field q.gid l) := by
  have hc : (s.walkTaken k).fieldLeaf q.field q.asid q.va = none := hn
  simp only [exec, execTranslationWalk, hk]
  rw [← State.walkTaken, hc]
  simp only [hl]

/-- A walk that fails raises the fault of the access that asked for it. -/
theorem exec_translationWalk_fails {ty : Nat} (hn : (s.field q.field).tlb.find? (·.maps q.asid q.va) = none)
    (hl : walkVa (s.walkTaken k) q.fault.wafer q.asid q.va = .error ty) :
    exec (.translationWalk k) s = .next ((s.walkTaken k).raiseGen { q.fault with ty := ty }) := by
  have hc : (s.walkTaken k).fieldLeaf q.field q.asid q.va = none := hn
  simp only [exec, execTranslationWalk, hk]
  rw [← State.walkTaken, hc]
  simp only [hl]

end

end

/-! ## The parts of the statement -/

theorem accessesComeBack : Pieces.AccessesComeBack := by
  intro s n a hf
  refine ⟨fun v hp hr hk => exec_producerArrive hf hp hr hk, fun hp hk => exec_storeAck hf hp hk, ?_, fun hp hm hu => ⟨?_, ?_⟩⟩
  · intro src dst m hm hs hd hn
    obtain ⟨hget, hfull, hovr⟩ := Core.receive_spec (s.core dst) m.v hn
    exact ⟨_, exec_rmovArrive hm hs hd, rfl, by simpa using hget, by simpa using hfull, by simpa using hovr⟩
  · intro hk
    refine ⟨_, (s.portFault n (.late n a.id) a.va 2 1).event .other, exec_remoteWriteUnbacked hf hp hm hu hk, rfl, ?_, ?_, rfl⟩
    · show ((s.setCore n ((s.core n).done a.id 0)).core n).port = _
      rw [State.core_setCore]
      rfl
    · exact congrArg Wafer.raised (State.wafer_setWafer ..)
  · intro hr hn
    by_cases hk : a.kind = .record
    · obtain ⟨hfault, hheld, hport⟩ := State.stopCore_setCore s n (s.core n).dropRecords (.port n) a.va 2 0
      refine ⟨_, _, exec_remoteAccessRefused_record hf hp hm hu hr hn hk, rfl, hfault, hheld, rfl, rfl,
        fun h => absurd hk h, fun _ => ⟨rfl, rfl, ?_⟩⟩
      rw [Core.records, hport]
      exact Core.records_dropRecords _
    · obtain ⟨hfault, hheld, -⟩ := State.stopCore_setCore s n ((s.core n).setPhase a.id .refused) (.late n a.id) a.va 2 a.kind.code
      exact ⟨_, _, exec_remoteAccessRefused_late hf hp hm hu hr hn hk, rfl, hfault, hheld, rfl, rfl,
        fun _ => ⟨rfl, rfl⟩, fun h => absurd h hk⟩

theorem fillsAndWalks : Pieces.FillsAndWalks := by
  intro s
  refine ⟨?_, fun k q hk => ⟨fun l hl => exec_translationWalk_cached hk hl, fun hn => ⟨fun l hl => ?_, fun ty hl => ?_⟩⟩⟩
  · intro quad m pa va asid hq hl hp
    obtain ⟨t, ht, hmem, hquad⟩ := exec_icacheFill hq hl hp
    exact ⟨t, ht, by rw [hquad], hmem, by rw [hquad]; exact mfind_mput_same ..⟩
  · exact ⟨_, exec_translationWalk_walked hk hn hl, State.cacheLeaf_spec ..⟩
  · exact exec_translationWalk_fails hk hn hl

/-- Settles O46: what comes back to a core's port, to its quad's instruction lines and to its stream. -/
theorem portAnswers : Obligations.PortAnswers := ⟨accessesComeBack, fillsAndWalks⟩

end Sys2Proof.Machine

/-! R67, R75, R89, R90, R143, R207, R224, R238: the registers whose write acts. -/

namespace Sys2Proof.Machine

/-! ## Collections -/

/-- A read of a collection that keeps the entries which pass: one that does not pass reads as absent. -/
theorem mget_filter {α : Type} {m : Map α} (h : Rising m) (p : Nat × α → Bool) (k : Nat) (d : α) :
    mget (m.filter p) k d = if p (k, mget m k d) then mget m k d else d := by
  induction m with
  | nil =>
    rw [List.filter_nil]
    split <;> rfl
  | cons e r ih =>
    obtain ⟨j, v⟩ := e
    simp only [Rising, List.map_cons, List.pairwise_cons] at h
    obtain ⟨hlow, hr⟩ := h
    by_cases hj : j = k
    · subst hj
      have habs : mget (r.filter p) j d = d := by
        rw [mget_eq_mfind, Option.getD_eq_iff]
        refine .inr ⟨?_, rfl⟩
        by_contra hne
        obtain ⟨w, hw⟩ := Option.ne_none_iff_exists'.mp hne
        have hmem : (j, w) ∈ r := List.mem_of_mem_filter (mfind_mem hw)
        exact absurd (hlow j (List.mem_map_of_mem (f := (·.1)) hmem)) (Nat.lt_irrefl j)
      simp only [List.filter_cons, mget, if_pos]
      split
      · simp [mget]
      · exact habs
    · have hi := ih hr
      simp only [List.filter_cons, mget, if_neg hj]
      split
      · rw [mget, if_neg hj, hi]
      · exact hi

@[simp] theorem State.setField_setField (s : State) (k : Nat) (f g : Field) : (s.setField k f).setField k g = s.setField k g := by
  simp [State.setField]

theorem State.ctl_setCtl_ne (s : State) (k j : Nat) (c : Ctl) (h : j ≠ k) : (s.setCtl k c).ctl j = s.ctl j := mget_mput_ne _ _ _ _ _ h

/-! ## The word of a KXINV (R89) -/

/-- The word that names an operation in bits 63:62 and has the rest of `v`. -/
theorem toNat_kxinvWord (v : W64) (op : Nat) (h : op < 4) :
    (v &&& 0x3FFFFFFFFFFFFFFF ||| BitVec.ofNat 64 (op * 2 ^ 62)).toNat = v.toNat % 2 ^ 62 + op * 2 ^ 62 := by
  have hlow : (v &&& 0x3FFFFFFFFFFFFFFF).toNat = v.toNat % 2 ^ 62 := Nat.and_two_pow_sub_one_eq_mod v.toNat 62
  have hop : (BitVec.ofNat 64 (op * 2 ^ 62)).toNat = 2 ^ 62 * op := by
    rw [BitVec.toNat_ofNat, Nat.mod_eq_of_lt (by omega), Nat.mul_comm]
  rw [BitVec.toNat_or, hlow, hop, Nat.or_comm, ← Nat.two_pow_add_eq_or_of_lt (Nat.mod_lt _ (by decide)), Nat.add_comm, Nat.mul_comm op]

/-- Its operation, its identifier and its page are in their places. -/
theorem bits_kxinvWord (v : W64) (op : Nat) (h : op < 4) :
    let x := v &&& 0x3FFFFFFFFFFFFFFF ||| BitVec.ofNat 64 (op * 2 ^ 62)
    bits x 63 62 = op ∧ bits x 61 52 = bits v 61 52 ∧ bits x 39 0 = bits v 39 0 := by
  have hx := toNat_kxinvWord v op h
  simp only [bits_eq, hx]
  have := v.isLt
  refine ⟨?_, ?_, ?_⟩ <;> omega

/-- KXINV drops what its word names from the streams and every field's cache. -/
theorem State.kxinv_leaves (s : State) (wf : Nat) (v : W64) (hits : Leaf → Bool) (h : kxinvHits wf v = hits) :
    (s.kxinv wf v).streams = s.streams.filter (fun e => !hits e.2) ∧ (s.kxinv wf v).mem = s.mem ∧
      ∀ k, ((s.kxinv wf v).field k).tlb = (s.field k).tlb.filter fun l => !hits l := by
  subst h
  refine ⟨rfl, rfl, fun k => ?_⟩
  have hk := mget_map s.fields (fun f => { f with tlb := f.tlb.filter fun l => !kxinvHits wf v l }) k (d := resetField) rfl
  exact congrArg Field.tlb hk

theorem exec_kxinvPage {s : State} {wf : Nat} {v : W64} (h : bits v 63 62 = 0) : exec (.kxinvPage wf v) s = .next (s.kxinv wf v) :=
  congrArg Host.Outcome.next (if_pos h)

theorem exec_kxinvAsid {s : State} {wf : Nat} {v : W64} (h : bits v 63 62 = 1) : exec (.kxinvAsid wf v) s = .next (s.kxinv wf v) :=
  congrArg Host.Outcome.next (if_pos h)

theorem exec_kxinvAll {s : State} {wf : Nat} {v : W64} (h : bits v 63 62 = 2) : exec (.kxinvAll wf v) s = .next (s.kxinv wf v) :=
  congrArg Host.Outcome.next (if_pos h)

/-! ## Seeds, slots and clocks -/

/-- A register that no producer fills is emptied where a write to KPRES names it. -/
theorem Core.full_kpres (c : Core) (v : W64) {i : Reg} (hi : i ≠ 0) :
    (c.kpres v).full.getLsbD i.toNat = (c.full.getLsbD i.toNat && (!v.getLsbD i.toNat || c.producing i)) := by
  have h := Core.isFull_kpres c v i
  rw [Core.isFull_of_ne _ hi, Core.isFull_of_ne _ hi, bne_iff_ne.mpr hi] at h
  rw [h, Bool.true_and, Bool.not_and, Bool.not_not]

theorem Core.krseedW_eq (c : Core) (v : W64) :
    c.krseedW v = { c with krseed := v, mgen := seedOf (v.toNat / 2 ^ 32), vgen := seedOf (v.toNat % 2 ^ 32) } := by
  rw [Core.krseedW, bits_top v (by decide), bits_low]

/-- A slot that KRXF frees was filled and is named by a 1. -/
theorem Quad.slotSt_krxfW {q : Quad} (h : Rising q.slots) (v : W64) (i : Nat) :
    (q.krxfW v).slotSt i = if q.slotFull i && bitAt v i then .free else q.slotSt i := by
  have hf : (q.slotSt i).isFilled = q.slotFull i := rfl
  have hm := mget_filter h (fun e => !(e.2.isFilled && bitAt v e.1)) i .free
  simp only [show mget q.slots i .free = q.slotSt i from rfl, hf] at hm
  rw [Quad.slotSt, Quad.krxfW, hm]
  cases q.slotFull i && bitAt v i <;> rfl

/-- A hop that is asked for starts at once, but where one is under way or waits, or throttle or a droop is in force (R224). -/
theorem State.kfclkW_starts {s : State} {k : Nat} {v : W64} (hw : (v.setWidth 2 : BitVec 2) ≠ (s.field k).cur)
    (hh : (s.field k).hopFrom = none) (hr : (s.field k).retryAt = none) (ht : (s.wafer (k / 128)).thrAct = false)
    (hd : (s.field k).drp = false) :
    s.kfclkW k v = s.setField k { s.field k with want := v.setWidth 2, busy := true, hopFrom := some (v.setWidth 2 : BitVec 2).toNat } := by
  have hv : BitVec.ofNat 2 (bits v 1 0) = v.setWidth 2 := BitVec.eq_of_toNat_eq (by simp [bits_low])
  have hx : ∀ f, (s.setField k f).wafer (k / 128) = s.wafer (k / 128) := fun _ => rfl
  simp [State.kfclkW, State.startHop, hv, hw, hh, hr, hx, ht, hd]

/-! ## The trace ring (R90) -/

/-- The controllers of some ports restart their counters, and no other register changes. -/
theorem restarted_ctls (b : Nat) (l : List Nat) (s : State) :
    let t := l.foldl (fun s m => s.setCtl (b + m) { s.ctl (b + m) with trcSeq := 0 }) s
    t.wafers = s.wafers ∧ ∀ m, (t.ctl (b + m)).trcSeq = if m ∈ l then 0 else (s.ctl (b + m)).trcSeq := by
  induction l generalizing s with
  | nil => exact ⟨rfl, fun m => rfl⟩
  | cons x r ih =>
    obtain ⟨hw, hc⟩ := ih (s.setCtl (b + x) { s.ctl (b + x) with trcSeq := 0 })
    refine ⟨hw, fun m => (hc m).trans ?_⟩
    by_cases hm : m = x
    · subst hm
      rw [State.ctl_setCtl]
      simp
    · rw [State.ctl_setCtl_ne _ _ _ _ (by omega)]
      simp [hm]

/-- The word of KTRB has its base and en. -/
theorem bitAt_ktrbWord (v : W64) : bitAt (w64 (bits v 47 22 * 2 ^ 22 + bits v 0 0)) 0 = bitAt v 0 := by
  simp only [bitAt, bits_eq, w64, BitVec.toNat_ofNat]
  congr 1
  have := v.isLt
  omega

theorem State.ktrbW_spec (s : State) (wf : Nat) (v : W64) :
    ((s.ktrbW wf v).wafer wf).ktrb = BitVec.ofNat 64 (bits v 47 22 * 2 ^ 22 + bits v 0 0) ∧
      ∀ m, m < 48 → ((s.ktrbW wf v).ctl (wf * 64 + m)).trcSeq =
        if bitAt (s.wafer wf).ktrb 0 = false ∧ bitAt v 0 = true then 0 else (s.ctl (wf * 64 + m)).trcSeq := by
  unfold State.ktrbW
  dsimp only
  rw [bitAt_ktrbWord]
  obtain ⟨hw, hc⟩ := restarted_ctls (wf * 64) (List.range 48)
    (s.setWafer wf { s.wafer wf with ktrb := w64 (bits v 47 22 * 2 ^ 22 + bits v 0 0) })
  split
  · rename_i hen
    have hen : bitAt (s.wafer wf).ktrb 0 = false ∧ bitAt v 0 = true := by simpa using hen
    refine ⟨?_, fun m hm => ?_⟩
    · rw [State.wafer, hw]
      exact congrArg Wafer.ktrb (State.wafer_setWafer ..)
    · rw [hc, if_pos (List.mem_range.mpr hm), if_pos hen]
  · rename_i hen
    refine ⟨congrArg Wafer.ktrb (State.wafer_setWafer ..), fun m _ => ?_⟩
    rw [if_neg (by simpa using hen)]
    rfl

/-! ## The statement -/

theorem exec_katnWrite_busy {s : State} {wf : Nat} {v : W64} (h : bits (s.wafer wf).katn 47 13 ≠ 0) :
    exec (.katnWrite wf v) s = .next s := by
  simp [exec, execKatnWrite, State.waferWrite, State.katnW, h]

/-- Where no report is under way, KATN takes an address in the host windows, and ends with code 2 for any other (R238). -/
theorem exec_katnWrite_idle {s : State} {wf : Nat} {v : W64} (h : bits (s.wafer wf).katn 47 13 = 0) (ha : bits v 47 13 * 2 ^ 13 ≠ 0) :
    exec (.katnWrite wf v) s = .next (s.setWafer wf { s.wafer wf with
      katn := if hostWindow (bits v 47 13 * 2 ^ 13) then w64 (bits v 47 13 * 2 ^ 13) else 2 }) := by
  simp only [exec, execKatnWrite, State.waferWrite, State.katnW, h, bne_self_eq_false, Bool.false_eq_true, if_false, if_neg ha]
  split <;> rfl

/-- Settles O27: each register's write, one by one. -/
theorem registerWrites : Obligations.RegisterWrites := by
  intro s n wf v
  have hput : ∀ q, s.setQuad (nQuad n) q = s.setQuad (nQuad n) ((s.setQuad (nQuad n) q).quad (nQuad n)) := fun q => by
    rw [State.quad_setQuad]
  refine ⟨?kpres, ?krseed, ?kqseed, ?krxf, ?kfclk, ?page, ?asid, ?all, ?ktrb, ?ksvqh, ?katn⟩
  case kpres =>
    refine ⟨(s.core n).kpres v, rfl, rfl, fun i hi => Core.full_kpres _ v hi, fun i hi => ?_⟩
    have hn : (BitVec.ofNat 5 i).toNat = i := Nat.mod_eq_of_lt hi
    simpa only [hn] using Core.ovr_kpres (s.core n) v (BitVec.ofNat 5 i)
  case krseed => exact congrArg (fun c => Host.Outcome.next (s.setCore n c)) (Core.krseedW_eq ..)
  case kqseed =>
    refine ⟨s.setQuad (nQuad n) ((s.quad (nQuad n)).kqseedW v), rfl, hput _, ?_⟩
    rw [State.quad_setQuad]
    exact ⟨rfl, BitVec.ofNat_toNat ..⟩
  case krxf =>
    refine ⟨s.setQuad (nQuad n) ((s.quad (nQuad n)).krxfW v), rfl, hput _, fun h i => ?_⟩
    rw [State.quad_setQuad]
    exact Quad.slotSt_krxfW h v i
  case kfclk => exact fun hw hh hr ht hd => congrArg Host.Outcome.next (State.kfclkW_starts hw hh hr ht hd)
  case page =>
    have hx : v &&& 0x3FFFFFFFFFFFFFFF ||| BitVec.ofNat 64 (0 * 2 ^ 62) = v &&& 0x3FFFFFFFFFFFFFFF := BitVec.or_zero
    obtain ⟨hop, hasid, hpage⟩ := bits_kxinvWord v 0 (by decide)
    rw [hx] at hop hasid hpage
    refine ⟨_, exec_kxinvPage hop, State.kxinv_leaves s wf _ (fun l => l.wafer == wf && l.maps _ _) (funext fun l => ?_)⟩
    simp only [kxinvHits, hop, hasid, hpage, w64]
  case asid =>
    have hx : BitVec.ofNat 64 (1 * 2 ^ 62) = (0x4000000000000000 : W64) := rfl
    obtain ⟨hop, hasid, -⟩ := bits_kxinvWord v 1 (by decide)
    rw [hx] at hop hasid
    refine ⟨_, exec_kxinvAsid hop, State.kxinv_leaves s wf _ (fun l => l.wafer == wf && l.asid == _) (funext fun l => ?_)⟩
    simp only [kxinvHits, hop, hasid]
  case all =>
    have hx : BitVec.ofNat 64 (2 * 2 ^ 62) = (0x8000000000000000 : W64) := rfl
    obtain ⟨hop, -, -⟩ := bits_kxinvWord v 2 (by decide)
    rw [hx] at hop
    refine ⟨_, exec_kxinvAll hop, State.kxinv_leaves s wf _ (fun l => l.wafer == wf) (funext fun l => ?_)⟩
    simp only [kxinvHits, hop, Bool.and_true]
  case ktrb => exact ⟨_, rfl, State.ktrbW_spec s wf v⟩
  case ksvqh => exact congrArg (fun h => Host.Outcome.next (s.setWafer wf { s.wafer wf with svqHead := h })) (BitVec.ofNat_toNat ..)
  case katn =>
    refine ⟨exec_katnWrite_busy, fun h ha => ⟨fun hlo hhi => ?_, fun hout => ?_⟩⟩
    · rw [exec_katnWrite_idle h ha, if_pos (by simp only [hostWindow, Bool.and_eq_true, decide_eq_true_eq]; omega)]; rfl
    · rw [exec_katnWrite_idle h ha, if_neg (by simp only [hostWindow, Bool.and_eq_true, decide_eq_true_eq]; omega)]

end Sys2Proof.Machine

/-! R83, R219, R226, R231, R232, R236 to R238: reset, boot, recovery, attestation, pod formation, the host's window and scrubbing. -/

namespace Sys2Proof.Machine

/-! ## Reset, boot and recovery -/

theorem mfind_dropWafer {α : Type} {w k : Nat} {of : Nat → Nat} (m : Map α) (h : of k = w) : mfind (dropWafer w of m) k = none := by
  by_contra hne
  obtain ⟨v, hv⟩ := Option.ne_none_iff_exists'.mp hne
  obtain ⟨-, hk⟩ := List.mem_filter.mp (mfind_mem hv)
  simp [h] at hk

/-- KBSTAT of a wafer in recovery shows the check that failed. -/
theorem bstat_recovery (f : Nat) : bstat 0 f 0xF = BitVec.ofNat 64 (f * 16 + 0xF) := by
  simp [bstat, place, w64, Nat.shiftLeft_eq]

section
variable {s : State} {w : Nat}

/-- MODULE_RESET keeps the fuses of its wafer, and leaves its cores at reset and its partitions invalid; memory stays (log 33). -/
theorem exec_moduleReset (s : State) (w : Nat) : ∃ t : State, exec (.moduleReset w) s = .next t ∧
    (let now := s.time - s.epoch
      let trade := now / 100000 * 100000
      t.wafer w = { resetWafer with
        fen := (s.wafer w).fen, spare := (s.wafer w).spare, lastIntvl := now / 1000 * 1000, lastTrade := trade, traded := trade }) ∧
    t.mem = s.mem ∧ (∀ n, nWafer n = w → t.core n = resetCore) ∧ ∀ p, p / 64 = w → mfind t.parts p = none :=
  ⟨_, rfl, mget_mput_same .., rfl, fun _ hn => mget_dropWafer _ _ hn, fun _ hp => mfind_dropWafer (of := (· / 64)) _ hp⟩

/-- A boot stage runs the image that it has checked, or enters recovery with the check that failed. -/
theorem exec_bootStageVerify (h : (s.wafer w).stage < 2) : let img := Config.bootImage w s.tick
    exec (.bootStageVerify w) s = .next (if imageCheck w img = 0 then s.setWafer w ((s.wafer w).runImage (s.wafer w).stage img)
      else s.setWafer w { s.wafer w with kbstat := BitVec.ofNat 64 (imageCheck w img * 16 + 0xF), recFrom := (s.wafer w).stage }) := by
  intro img
  rw [← bstat_recovery]
  exact congrArg Host.Outcome.next (if_neg (by simpa using h))

theorem exec_krcvcGo {v : W64} (hs : (s.wafer w).stage = 0xF) (hv : v.toNat % 16 = 1) (hc : (s.wafer w).krcvc ≠ 1) :
    exec (.krcvcGo w v) s = .next (s.setWafer w { s.wafer w with krcvc := 1 }) :=
  congrArg Host.Outcome.next (if_pos ⟨hs, (bits_low v 3).trans hv, hc⟩)

/-- A recovery that has loaded its image runs it, or shows the check that failed. -/
theorem exec_recoveryLoadDone (hs : (s.wafer w).stage = 0xF) (hc : (s.wafer w).krcvc = 1) :
    let x := s.wafer w
    let img := Config.hostImage s.tick x.krcva.toNat x.krcvl.toNat
    exec (.recoveryLoadDone w) s = .next (if x.recoveryCheck w img = 0 then s.setWafer w { x.runImage x.recFrom img with krcvc := 2 }
      else s.setWafer w { x with kbstat := BitVec.ofNat 64 (x.recoveryCheck w img * 16 + 0xF), krcvc := 3 }) := by
  intro x img
  rw [← bstat_recovery]
  exact congrArg Host.Outcome.next (if_neg (by simp [hs, hc]))

/-! ## Attestation and the host's window -/

theorem exec_attestReportDone_unsigned (hk : bits (s.wafer w).katn 47 13 ≠ 0) (hs : Config.signaturesLeft w (s.wafer w).reports = false) :
    exec (.attestReportDone w) s = .next (s.setWafer w { s.wafer w with katn := 1 }) := by
  simp [exec, execAttestReportDone, hk, hs]

/-- A report is written after its nonce, and KATN is then cleared. -/
theorem exec_attestReportDone_signed (hk : bits (s.wafer w).katn 47 13 ≠ 0) (hs : Config.signaturesLeft w (s.wafer w).reports = true) :
    let pa := waferPa w (bits (s.wafer w).katn 47 13 * 2 ^ 13)
    let u := s.write (pa + 32) ((s.report w (s.wafer w).reports pa).map fun b => (b, false)) ⟨3, 0, w * 2 ^ 15, false, 0⟩
    exec (.attestReportDone w) s =
      .next (u.setWafer w { u.wafer w with katn := 0, reports := (s.wafer w).reports + 1 }) := by
  simp [exec, execAttestReportDone, hk, hs]

/-- The recovery registers take a write in recovery, through port 0 alone (R237). -/
theorem exec_hostWindowWrite_krcva (v : W64) (hs : (s.wafer w).stage = 0xF) :
    exec (.hostWindowWrite w 0 0x100 v) s = .next (s.setWafer w { s.wafer w with krcva := v }) := by
  simp [exec, execHostWindowWrite, windowReg, State.recoveryWrite, hs]

theorem exec_hostWindowWrite_otherPort {port : Nat} (v : W64) (hp : port ≠ 0) : exec (.hostWindowWrite w port 0x100 v) s = .next s := by
  simp [exec, execHostWindowWrite, windowReg, State.recoveryWrite, hp]

end

/-! ## Pod formation -/

/-- A loop whose steps change fields alone changes fields alone. -/
theorem fieldsOnly_foldl {f : State → Nat → State} (h : ∀ s n, ∃ m, f s n = { s with fields := m }) (l : List Nat) (s : State) :
    ∃ m, l.foldl f s = { s with fields := m } := by
  induction l generalizing s with
  | nil => exact ⟨s.fields, rfl⟩
  | cons n r ih =>
    obtain ⟨m, hm⟩ := h s n
    obtain ⟨m', hm'⟩ := ih (f s n)
    exact ⟨m', by rw [List.foldl_cons, hm', hm]⟩

theorem fieldsOnly_rebaseAll (s t : State) (w : Nat) : ∃ m, s.rebaseAll t w = { t with fields := m } :=
  fieldsOnly_foldl (fun _ _ => ⟨_, rfl⟩) _ _

theorem fieldsOnly_beginInterval (s : State) (w : Nat) : ∃ m, s.beginInterval w = { s with fields := m } :=
  fieldsOnly_foldl (fun _ _ => ⟨_, rfl⟩) _ _

/-- A loop that changes each wafer of a list once. -/
theorem foldl_setWafer (f : Nat → Wafer → Wafer) (l : List Nat) (hl : l.Nodup) (s : State) :
    let t := l.foldl (fun s w => s.setWafer w (f w (s.wafer w))) s
    t.podBudget = s.podBudget ∧ t.epoch = s.epoch ∧ ∀ v, t.wafer v = if v ∈ l then f v (s.wafer v) else s.wafer v := by
  induction l generalizing s with
  | nil => exact ⟨rfl, rfl, fun _ => rfl⟩
  | cons w r ih =>
    obtain ⟨hw, hr⟩ := List.nodup_cons.mp hl
    obtain ⟨hb, he, hv⟩ := ih hr (s.setWafer w (f w (s.wafer w)))
    refine ⟨hb, he, fun v => (hv v).trans ?_⟩
    by_cases hvw : v = w
    · subst hvw
      rw [if_neg hw, State.wafer_setWafer, if_pos List.mem_cons_self]
    · rw [State.wafer_setWafer_ne _ _ _ _ hvw]
      simp [hvw]

/-- The pod's device time, budget and links as its formation begins them. -/
def State.podCleared (s : State) (budget : Nat) : State :=
  { s with
    epoch := s.time, podBudget := budget
    cores := s.cores.map fun e => (e.1, { e.2 with lastTime := 0 })
    links := s.links.map fun e => (e.1, { e.2 with grants := [] }) }

/-- The state with the pod's wafers formed, before their fields begin their first interval. -/
def State.podFormed (s : State) (size budget : Nat) (red : Bool) : State :=
  (List.range size).foldl (fun s w => s.setWafer w ((s.wafer w).form size budget w red)) (s.podCleared budget)

/-- POD_FORMATION forms its wafers, carries over every field's clock, and begins the first interval. -/
theorem exec_podFormation_eq (s : State) (size budget : Nat) (red : Bool) (h0 : 0 < size) (h32 : size ≤ 32) :
    exec (.podFormation size budget red) s = .next ((List.range size).foldl (fun s w => s.beginInterval w)
      ((List.range 32).foldl (fun t w => s.rebaseAll t w) (s.podFormed size budget red))) :=
  congrArg Host.Outcome.next (if_neg (by omega))

theorem exec_podFormation (s : State) (size budget : Nat) (red : Bool) (h0 : 0 < size) (h32 : size ≤ 32) :
    ∃ t : State, exec (.podFormation size budget red) s = .next t ∧ t.podBudget = budget ∧ t.epoch = s.time ∧
      ∀ v, v < size → (t.wafer v).podsize = size ∧ (t.wafer v).index = v ∧
        (t.wafer v).budget = budget / size + (if v = 0 then budget % size else 0) := by
  obtain ⟨m, hm⟩ := fieldsOnly_foldl (f := fun t w => s.rebaseAll t w) (fieldsOnly_rebaseAll s) (List.range 32)
    (s.podFormed size budget red)
  obtain ⟨m', hm'⟩ := fieldsOnly_foldl fieldsOnly_beginInterval (List.range size) { s.podFormed size budget red with fields := m }
  have hrun := exec_podFormation_eq s size budget red h0 h32
  rw [hm, hm'] at hrun
  obtain ⟨hb, he, hv⟩ := foldl_setWafer (fun w x => x.form size budget w red) (List.range size) List.nodup_range (s.podCleared budget)
  refine ⟨_, hrun, hb, he, fun v hlt => ?_⟩
  have hx : (s.podFormed size budget red).wafer v = ((s.podCleared budget).wafer v).form size budget v red :=
    (hv v).trans (if_pos (List.mem_range.mpr hlt))
  show ((s.podFormed size budget red).wafer v).podsize = size ∧ ((s.podFormed size budget red).wafer v).index = v ∧
    ((s.podFormed size budget red).wafer v).budget = _
  rw [hx]
  exact ⟨rfl, rfl, rfl⟩

/-! ## Scrubbing: what performs before a word is poisoned leaves the rings where they are -/

/-- The rings of `t`'s residencies lie where those of `s` do. -/
structure State.KeepsRings (s t : State) : Prop where
  inRing : ∀ pa, t.inRing pa = s.inRing pa

section
variable {s : State}

theorem State.KeepsRings.trans {t u : State} (h : s.KeepsRings t) (k : t.KeepsRings u) : s.KeepsRings u :=
  ⟨fun pa => (k.inRing pa).trans (h.inRing pa)⟩

theorem State.KeepsRings.of_resids {t : State} (h : t.resids = s.resids) : s.KeepsRings t :=
  ⟨fun pa => by rw [State.inRing, h, State.inRing]⟩

theorem keepsRings_foldl {α : Type} {f : State → α → State} (h : ∀ (s : State) a, s.KeepsRings (f s a)) (l : List α) :
    s.KeepsRings (l.foldl f s) := by
  induction l generalizing s with
  | nil => exact .of_resids rfl
  | cons a r ih => exact (h s a).trans ih

theorem keepsRings_wakeOne (n : Nat) (ws : List Nat) : s.KeepsRings (s.wakeOne n ws) := by
  refine .of_resids ?_
  unfold State.wakeOne
  dsimp only
  repeat' split
  all_goals rfl

theorem keepsRings_wake (ws : List Nat) : s.KeepsRings (s.wake ws) := keepsRings_foldl (fun _ _ => keepsRings_wakeOne ..) _

theorem keepsRings_setCore (n : Nat) (c : Core) : s.KeepsRings (s.setCore n c) := .of_resids rfl

theorem keepsRings_putRun (pa : Nat) (bs : List (Byte × Bool)) (tag : Nat) (rel : Option Rel) :
    s.KeepsRings (s.putRun pa bs tag rel) := .of_resids rfl

theorem keepsRings_setCtl (k : Nat) (c : Ctl) : s.KeepsRings (s.setCtl k c) := .of_resids rfl

theorem keepsRings_logRun (w m : Nat) (i : WInfo) (k : Nat) : ∀ (s : State) (pa n : Nat), s.KeepsRings (s.logRun w m pa n i k) := by
  induction k with
  | zero => exact fun _ _ _ => .of_resids rfl
  | succ k ih =>
    intro s pa n
    unfold State.logRun
    split
    · exact .of_resids rfl
    · exact (((keepsRings_setCtl ..).trans (keepsRings_putRun ..)).trans (keepsRings_wake _)).trans (ih ..)

theorem keepsRings_trace (pa n : Nat) (i : WInfo) : s.KeepsRings (s.trace pa n i) := by
  unfold State.trace
  split
  · split
    · split
      · exact keepsRings_logRun ..
      · exact .of_resids rfl
    · exact .of_resids rfl
  · exact .of_resids rfl

/-- The tokens spilled in a ring change, and no ring's pages. -/
theorem keepsRings_spoil (pa n : Nat) : s.KeepsRings (s.spoil pa n) := by
  unfold State.spoil
  dsimp only
  split
  · refine ⟨fun p => ?_⟩
    simp only [State.inRing, List.any_map]
    congr 1
    funext e
    simp only [Function.comp]
    split <;> rfl
  · exact .of_resids rfl

theorem keepsRings_land (pa : Nat) (bs : List (Byte × Bool)) (i : WInfo) (rel : Option Rel) : s.KeepsRings (s.land pa bs i rel) :=
  (((keepsRings_putRun ..).trans (keepsRings_trace ..)).trans (keepsRings_wake _)).trans (keepsRings_spoil ..)

theorem keepsRings_performSt (n kind : Nat) (a : Access) : s.KeepsRings (s.performSt n kind a) :=
  (keepsRings_setCore ..).trans (keepsRings_land ..)

theorem keepsRings_amoAt (n : Nat) (op : AmoOp) (a : Access) : s.KeepsRings (s.amoAt n op a) := by
  unfold State.amoAt
  dsimp only
  split
  · exact .of_resids rfl
  · exact (keepsRings_setCore ..).trans (keepsRings_land ..)

theorem keepsRings_fillWord (pa : Nat) : s.KeepsRings (s.fillWord pa) := by
  refine .of_resids ?_
  unfold State.fillWord
  dsimp only
  split <;> rfl

theorem keepsRings_settleOne (n id : Nat) : s.KeepsRings (s.settleOne n id) := by
  have same : s.KeepsRings s := .of_resids rfl
  unfold State.settleOne
  split
  · exact same
  · split
    · split
      · split
        · exact same
        · exact .of_resids rfl
      · split
        · exact same
        · exact keepsRings_amoAt ..
      · exact keepsRings_performSt ..
      · exact keepsRings_performSt ..
      · exact (keepsRings_performSt ..).trans (keepsRings_fillWord _)
      · exact same
    · exact same

theorem keepsRings_settle (ws : List Nat) : s.KeepsRings (s.settle ws) :=
  keepsRings_foldl (fun _ _ => keepsRings_foldl (fun _ _ => keepsRings_settleOne ..) _) _

/-- A word in no ring is poisoned with nothing that a ring holds. -/
theorem State.ringError_outside {pa : Nat} (h : s.inRing pa = false) : s.ringError pa = s := if_neg (by simp [h])

/-- What an uncorrectable error in a ring's word poisons changes residencies alone. -/
theorem State.ringError_eq (s : State) (pa : Nat) : s.ringError pa = { s with resids := (s.ringError pa).resids } := by
  unfold State.ringError
  split <;> rfl

end

/-- The state of a scrub once it has counted what it corrects. -/
def State.scrubbed (s : State) (c : Nat) : State := s.setCtl c { s.ctl c with corr := (s.ctl c).corr + (Config.scrub s.tick).1 }

theorem exec_hbmScrub_corrects {s : State} {c : Nat} (h : (Config.scrub s.tick).2 = none) :
    exec (.hbmScrub c) s = .next (s.scrubbed c) := by
  simp only [exec, execHbmScrub, h]
  rfl

/-- The word that a scrub finds past correction. -/
def scrubPa (c o : Nat) : Nat := c / 64 * 2 ^ 48 + 0x100000000000 + c % 64 * 0x1000000000 + o % 0xC00000000 / 8 * 8

theorem exec_hbmScrub_poisons {s : State} {c o : Nat} (h : (Config.scrub s.tick).2 = some o) :
    exec (.hbmScrub c) s = .next ((s.scrubbed c).poisonWord (scrubPa c o)) := by
  simp only [exec, execHbmScrub, h]
  rfl

/-- A word is poisoned after the reads of it that cores have issued; beyond that only what a ring keeps there changes. -/
theorem State.poisonWord_aligned (s : State) {pa : Nat} (h : pa / 8 * 8 = pa) : let u := s.settle [canon pa]
    s.poisonWord pa = { u with poison := sput u.poison (canon pa), resids := (s.poisonWord pa).resids } ∧
      (s.inRing pa = false → (s.poisonWord pa).resids = u.resids) := by
  have hp : s.poisonWord pa = State.ringError { s.settle [canon pa] with poison := sput (s.settle [canon pa]).poison (canon pa) } pa := by
    rw [State.poisonWord, h]
  rw [hp]
  refine ⟨State.ringError_eq .., fun hr => ?_⟩
  have hout : State.inRing { s.settle [canon pa] with poison := sput (s.settle [canon pa]).poison (canon pa) } pa = false :=
    ((keepsRings_settle [canon pa]).inRing pa).trans hr
  rw [State.ringError_outside hout]

/-! ## The statement -/

/-- Settles O33: each event of a module, one by one. -/
theorem modulesBootAndServe : Obligations.ModulesBootAndServe := by
  intro s w
  refine ⟨exec_moduleReset s w, fun hst => ?boot, fun hst => ?recovery, fun hk => ?attest, ?pod, ?window, fun c => ?scrub⟩
  case boot => exact ⟨fun h => (exec_bootStageVerify hst).trans (congrArg _ (if_pos h)),
    fun h => (exec_bootStageVerify hst).trans (congrArg _ (if_neg h))⟩
  case recovery =>
    refine ⟨fun v hv hc => exec_krcvcGo hst hv hc, fun hc => ⟨fun h => ?_, fun h => ?_⟩⟩
    · exact (exec_recoveryLoadDone hst hc).trans (congrArg _ (if_pos h))
    · exact (exec_recoveryLoadDone hst hc).trans (congrArg _ (if_neg h))
  case attest =>
    refine ⟨exec_attestReportDone_unsigned hk, fun hs => ⟨_, exec_attestReportDone_signed hk hs, ?_, ?_, State.setWafer_mem ..⟩⟩
    · rw [State.wafer_setWafer]
    · rw [State.wafer_setWafer]
  case pod => exact fun size budget red => exec_podFormation s size budget red
  case window =>
    intro port v
    have h32 : BitVec.ofNat 32 v.toNat = v.setWidth 32 := BitVec.ofNat_toNat ..
    refine ⟨rfl, ?_, ?_, exec_hostWindowWrite_krcva v, exec_hostWindowWrite_otherPort v⟩
    · rw [← h32]; rfl
    · rw [← h32]; rfl
  case scrub =>
    refine ⟨exec_hbmScrub_corrects, fun o ho => ?_⟩
    have hpa : scrubPa c o / 8 * 8 = scrubPa c o := by simp only [scrubPa]; omega
    obtain ⟨heq, hring⟩ := (s.scrubbed c).poisonWord_aligned hpa
    exact ⟨_, exec_hbmScrub_poisons ho, heq, hring⟩

end Sys2Proof.Machine

/-! R210, R95: what an access of an engine comes to that one piece makes at once, and that a write takes no heed of queues and quads. -/

namespace Sys2Proof.Machine

/-! ## A write of one piece -/

theorem nth_eq_getD {α : Type} (l : List α) (i : Nat) (d : α) : nth l i d = l.getD i d := by
  induction l generalizing i with
  | nil => rfl
  | cons a r ih =>
    cases i with
    | zero => rfl
    | succ i => exact ih i

/-- A write of whole bytes stores them as they are. -/
theorem State.mergeHalf_whole (s : State) (pa : Nat) (bs : List (Byte × Bool)) : s.mergeHalf pa bs false false = bs := by
  refine List.ext_getElem (by simp [State.mergeHalf]) fun i _ hi => ?_
  simp [State.mergeHalf, nth_eq_getD, hi]

section
variable {s : State} {w : Who} {va : W64} {n acc pa : Nat} {trc fmt : Bool}

/-- A stream that translates an address needs no refill (R88). -/
theorem State.refill_of_ok (h : s.translate w va n acc = .ok pa trc fmt) : s.refill w va = s := by
  unfold State.translate at h
  unfold State.refill
  split at h
  · cases h
  · split at h
    · next hl => rw [if_pos (by rw [hl]; rfl)]
    · split at h
      · cases h
      · next l hl => rw [if_pos (by rw [hl]; simp)]

end

section
variable {s : State} {q : Nat} {c : QCmd} {a : EngAcc} {n pa : Nat} {trc : Bool}

/-- An access of one piece finds nothing in its way. -/
theorem State.restOk_atOnce (hr : s.engReaches q c a n pa trc) (k : Nat) : s.restOk q c a 0 n (k + 1) = .ok s := by
  obtain ⟨hn, hl, ⟨fmt, ht⟩, -, -⟩ := hr
  have hva : a.va + w64 0 = a.va := BitVec.add_zero a.va
  have hend : ∀ k, s.restOk q c a (0 + n) n k = .ok s := fun k => by
    cases k with
    | zero => rfl
    | succ k => exact if_pos (by omega)
  unfold State.restOk
  dsimp only
  rw [if_neg (by omega), hva, State.refill_of_ok ht, Nat.sub_zero, hl, ht]
  exact hend k

/-- A read of one piece would not fault. -/
theorem State.readFaults_atOnce (ha : a.acc = 0) (hr : s.engReaches q c a n pa trc) (k : Nat) :
    s.readFaults q c a 0 n (k + 1) = false := by
  obtain ⟨hn, hl, ⟨fmt, ht⟩, hu, -⟩ := hr
  rw [ha] at hl ht
  have hva : a.va + w64 0 = a.va := BitVec.add_zero a.va
  have hend : ∀ k, s.readFaults q c a (0 + n) n k = false := fun k => by
    cases k with
    | zero => rfl
    | succ k => exact if_pos (by omega)
  unfold State.readFaults
  dsimp only
  rw [if_neg (by omega), hva, State.refill_of_ok ht, Nat.sub_zero, hl, ht]
  dsimp only
  rw [hu, hend k]
  rfl

/-- A write of one piece performs at once (R95, R210). -/
theorem State.engPieces_atOnce {bs : List (Byte × Bool)} (tag : Nat) (lo hi : Bool) (hp : (s.prog q).put = 0) (ha : a.acc = 1)
    (hr : s.engReaches q c a bs.length pa trc) (k : Nat) : s.engPieces q c a bs tag lo hi none (k + 1) =
      .ok ((s.write pa (s.mergeHalf pa bs lo hi) ⟨3, engCls q, engAgent q, trc, tag⟩).setProg q { s.prog q with put := bs.length }) := by
  obtain ⟨hn, hl, ⟨fmt, ht⟩, hu, hw⟩ := hr
  rw [ha] at hl ht
  have hva : a.va + w64 0 = a.va := BitVec.add_zero a.va
  unfold State.engPieces
  dsimp only
  rw [hp, hva, State.refill_of_ok ht, Nat.sub_zero, hl, ht]
  dsimp only
  rw [if_neg (by simp), if_neg (by rw [hu]; decide), Nat.zero_add]
  split
  · next w m sl o e => exact absurd e (hw w m sl o)
  · rw [if_pos (Nat.le_refl _), List.drop_zero, List.take_length]
    simp

theorem State.engWriteHalf_atOnce {bs : List (Byte × Bool)} (tag : Nat) (lo hi : Bool) (hp : (s.prog q).put = 0)
    (hv : (s.prog q).view = false) (hs : (s.prog q).skip = false) (ha : a.acc = 1) (hr : s.engReaches q c a bs.length pa trc) :
    s.engWriteHalf q c a bs tag lo hi =
      .ok ((s.write pa (s.mergeHalf pa bs lo hi) ⟨3, engCls q, engAgent q, trc, tag⟩).setProg q { s.prog q with put := bs.length }) := by
  have hn : 0 < bs.length := hr.1
  unfold State.engWriteHalf
  dsimp only
  rw [hp, if_neg (by omega), if_neg (by rw [hv]; decide), if_neg (by rw [hs]; decide), State.restOk_atOnce hr]
  exact State.engPieces_atOnce tag lo hi hp ha hr _

/-- A write of whole bytes. -/
theorem State.engWrite_atOnce {bs : List (Byte × Bool)} (tag : Nat) (hp : (s.prog q).put = 0)
    (hv : (s.prog q).view = false) (hs : (s.prog q).skip = false) (ha : a.acc = 1) (hr : s.engReaches q c a bs.length pa trc) :
    s.engWrite q c a bs tag =
      .ok ((s.write pa bs ⟨3, engCls q, engAgent q, trc, tag⟩).setProg q { s.prog q with put := bs.length }) := by
  rw [State.engWrite, State.engWriteHalf_atOnce tag _ _ hp hv hs ha hr, State.mergeHalf_whole]

end
end Sys2Proof.Machine

/-! R79, R135, R124, R131, R132, R362, R363, R368: the accumulator store, and the matrix commands but MMA. -/

namespace Sys2Proof.Machine

/-! ## The accumulator store and its poison bits -/

theorem Core.acsAt_acsPut (c : Core) {row col k : Nat} (r : Nat) (v : W32) (hc : col < 128) (hk : k < 128) :
    (c.acsPut row col v).acsAt r k = if r = row ∧ k = col then v else c.acsAt r k := by
  by_cases h : r = row ∧ k = col
  · rw [if_pos h, h.1, h.2]
    exact mget_mput_same ..
  · rw [if_neg h]
    exact mget_mput_ne _ _ _ _ _ (by omega)

/-- Elements put into a row from a column on. -/
theorem Core.acsAt_acsRow (row r k : Nat) (hk : k < 128) (vs : List W32) (c : Core) (col : Nat) (hc : col + vs.length ≤ 128) :
    (c.acsRow row col vs).acsAt r k = if r = row ∧ col ≤ k ∧ k < col + vs.length then nth vs (k - col) 0 else c.acsAt r k := by
  induction vs generalizing c col with
  | nil => exact (if_neg fun h => by have := h.2.2; simp at this; omega).symm
  | cons v vs ih =>
    rw [List.length_cons] at hc ⊢
    rw [Core.acsRow, ih _ _ (by omega), Core.acsAt_acsPut _ _ _ (by omega) hk]
    by_cases h : r = row ∧ k = col
    · obtain ⟨hr, rfl⟩ := h
      rw [if_neg (by omega), if_pos ⟨hr, rfl⟩, if_pos (by omega), Nat.sub_self]
      rfl
    · rw [if_neg h]
      by_cases h' : r = row ∧ col + 1 ≤ k ∧ k < col + 1 + vs.length
      · rw [if_pos h', if_pos (by omega), show k - col = k - (col + 1) + 1 by omega]
        rfl
      · rw [if_neg h', if_neg (by omega)]

theorem Core.setRowPoison_getLsbD (c : Core) (r : Nat) (p : Bool) {row : Nat} (h : row < 128) :
    (c.setRowPoison r p).kap.getLsbD row = if row = r then p else c.kap.getLsbD row := by
  have hb : (1#128 <<< r).getLsbD row = decide (row = r) := by
    by_cases e : row = r
    · simp [e, show r < 128 by omega]
    · simp [BitVec.getLsbD_shiftLeft, e]; omega
  cases p
  · simp only [Core.setRowPoison, Bool.false_eq_true, if_false, BitVec.getLsbD_and, BitVec.getLsbD_not, hb, h]
    by_cases e : row = r <;> simp [e]
  · simp only [Core.setRowPoison, if_true, BitVec.getLsbD_or, hb]
    by_cases e : row = r <;> simp [e]

/-- A core whose rows `l` have been marked as poisoned, or as sound. -/
def Core.setRows (c : Core) (l : List Nat) (p : Bool) : Core := l.foldl (fun c r => c.setRowPoison r p) c

theorem Core.setRows_getLsbD (l : List Nat) (p : Bool) {row : Nat} (h : row < 128) (c : Core) :
    (c.setRows l p).kap.getLsbD row = if row ∈ l then p else c.kap.getLsbD row := by
  induction l generalizing c with
  | nil => rfl
  | cons r l ih =>
    refine (ih _).trans ?_
    rw [Core.setRowPoison_getLsbD _ _ _ h]
    by_cases hl : row ∈ l <;> by_cases hr : row = r <;> simp [hl, hr]

/-- Marks of rows are all that `Core.setRows` changes. -/
theorem Core.setRows_eq (l : List Nat) (p : Bool) (c : Core) : c.setRows l p = { c with kap := (c.setRows l p).kap } := by
  induction l generalizing c with
  | nil => rfl
  | cons r l ih => exact ih _

/-! ## Bytes as FP32 elements -/

section
variable (s : State)

theorem State.readRun_length (pa n : Nat) : (s.readRun pa n).length = n := by
  induction n generalizing pa with
  | zero => rfl
  | succ n ih => rw [State.readRun, List.length_cons, ih]

theorem State.readRun_add (pa m n : Nat) : s.readRun pa (m + n) = s.readRun pa m ++ s.readRun (pa + m) n := by
  induction m generalizing pa with
  | zero => rw [Nat.zero_add]; rfl
  | succ m ih =>
    rw [Nat.succ_add, State.readRun, ih, State.readRun, List.cons_append, Nat.add_assoc, Nat.add_comm 1 m]

theorem State.runNat_readRun (pa n : Nat) : runNat (s.readRun pa n) = s.readNat pa n := by
  induction n generalizing pa with
  | zero => rfl
  | succ n ih => rw [State.readRun, runNat, ih, State.readNat]

/-- A run of bytes in pieces of four. -/
theorem State.chunks_readRun (k pa : Nat) : chunks 4 k (s.readRun pa (4 * k)) = (List.range k).map fun x => s.readRun (pa + 4 * x) 4 := by
  induction k generalizing pa with
  | zero => rfl
  | succ k ih =>
    have hl : (s.readRun pa 4).length = 4 := s.readRun_length pa 4
    have hne : (s.readRun pa 4 ++ s.readRun (pa + 4) (4 * k)).isEmpty = false := rfl
    rw [Nat.mul_succ, Nat.add_comm (4 * k), State.readRun_add, List.range_succ_eq_map, List.map_cons, List.map_map]
    unfold chunks
    rw [hne, List.take_left' hl, List.drop_left' hl, ih]
    refine congrArg (s.readRun pa 4 :: ·) (List.map_congr_left fun x _ => ?_)
    rw [Function.comp, Nat.mul_succ, Nat.add_assoc, Nat.add_comm 4]

theorem State.words32_readRun (pa k : Nat) :
    words32 (s.readRun pa (4 * k)) = (List.range k).map fun x => BitVec.ofNat 32 (s.readNat (pa + 4 * x) 4) := by
  rw [words32, State.readRun_length, Nat.mul_div_cancel_left _ (by decide), State.chunks_readRun, List.map_map]
  exact List.map_congr_left fun x _ => congrArg (BitVec.ofNat 32) (s.runNat_readRun ..)

end

theorem nth_map_range {α : Type} (f : Nat → α) (n x : Nat) (d : α) (h : x < n) : nth ((List.range n).map f) x d = f x := by
  simp [nth_eq_getD, h]

/-! ## The walk over a rectangle (R362) -/

/-- The last column of a rectangle is one of the store's (R131). -/
theorem moveOk_bounds {c : Cmd} (h : moveOk c = true) : Cmd.mRow c + 16 * Cmd.mTh c ≤ 112 ∧ Cmd.mCol c + 16 * Cmd.mTw c ≤ 112 := by
  simp only [moveOk, Bool.and_eq_true, decide_eq_true_eq] at h
  exact ⟨h.1.2, h.2⟩

theorem nextRun_bound {on : Nat → Bool} {j : Nat} {x : Nat × Nat} (h : nextRun on j = some x) : x.1 + x.2 ≤ 16 := by
  unfold nextRun at h
  split at h
  · cases h
  · next j0 hj =>
    have hj0 : j0 < 16 := List.mem_range.mp (List.mem_of_find?_eq_some hj)
    split at h
    · cases h; dsimp only; omega
    · next e he =>
      have he16 : e < 16 := List.mem_range.mp (List.mem_of_find?_eq_some he)
      cases h; dsimp only; omega

theorem Cmd.walkAt_col (c : Cmd) (i : Nat) : (Cmd.walkAt c i).2.1 ≤ Cmd.mTw c := Nat.le_of_lt_succ (Nat.mod_lt _ (Nat.succ_pos _))

/-- A run lies within its row of the store. -/
theorem Cmd.runAt_bound {c : Cmd} {g : W64} {i j : Nat} {r : Run} (hm : moveOk c = true) (h : Cmd.runAt c g i j = some r) :
    r.col + r.len ≤ 128 := by
  have hc := (moveOk_bounds hm).2
  have ht := Cmd.walkAt_col c i
  unfold Cmd.runAt at h
  dsimp only at h
  split at h
  · cases h
  · obtain ⟨x, hx, rfl⟩ := Option.map_eq_some_iff.mp h
    have := nextRun_bound hx
    generalize (Cmd.walkAt c i).2.1 = t at ht ⊢
    dsimp only
    omega

/-! ## One run of MLD, MST and MCVT -/

@[simp] theorem State.prog_setCore (s : State) (n q : Nat) (m : Core) : (s.setCore n m).prog q = s.prog q := rfl

@[simp] theorem State.core_setProg (s : State) (n q : Nat) (p : Prog) : (s.setProg q p).core n = s.core n := rfl

@[simp] theorem State.setProg_mem (s : State) (q : Nat) (p : Prog) : (s.setProg q p).mem = s.mem := rfl

/-- A run read into the rows of an MLD's core, the row marked as loaded, and as poisoned where a byte of it is. -/
def State.loadRun (s : State) (q : Nat) (r : Run) (bs : List (Byte × Bool)) : State :=
  let s := s.setMCore q ((s.mCore q).acsRow r.row r.col (words32 bs))
  let m := 1#128 <<< r.row
  let g := s.prog q
  s.setProg q { g with seen := g.seen ||| m, hit := if bs.any (·.2) then g.hit ||| m else g.hit }

/-- The walk stands behind run `r`, whose access is over. -/
def State.pastRun (s : State) (q : Nat) (c : Cmd) (r : Run) : State :=
  s.setProg q { s.prog q with j := r.col + r.len - (Cmd.mCol c + 16 * r.tile), k := 0, got := [], put := 0 }

section
variable {s : State} {q : Nat} {c : QCmd} {act : Nat → Run → Except State State}

theorem State.walkRun_over (hon : (s.prog q).on = true) (hu : c.passEnd ≤ (s.prog q).u) : s.walkRun q c act = s.cmdDone q c 0 := by
  unfold State.walkRun
  dsimp only
  rw [if_neg (by rw [hon]; decide), if_pos hu]

theorem State.walkRun_run {r : Run} {t : State} (hon : (s.prog q).on = true) (hu : (s.prog q).u < c.passEnd)
    (hi : (s.prog q).i < Cmd.walkLen c.c) (hr : Cmd.runAt c.c (s.core (qName q)).kggeo (s.prog q).i (s.prog q).j = some r)
    (ha : act (s.prog q).u r = .ok t) : s.walkRun q c act = t.pastRun q c.c r := by
  unfold State.walkRun
  dsimp only
  rw [if_neg (by rw [hon]; decide), if_neg (by omega), if_neg (by omega), State.mCore, hr]
  dsimp only
  rw [ha]
  rfl

end

section
variable {s : State} {w : Cmd} {c : QCmd} {r : Run} {pa : Nat} {trc : Bool}

/-- A matrix command has passed its last pass. -/
theorem exec_mld_over (hc : s.heads c) (hok : ldStOk c = true) (hon : (s.prog s.curQ).on = true) (hu : c.passEnd ≤ (s.prog s.curQ).u) :
    exec (.mld w) s = .next (s.cmdDone s.curQ c 0) :=
  congrArg Host.Outcome.next ((State.checked_heads _ hc hok).trans (State.walkRun_over hon hu))

theorem exec_mst_over (hc : s.heads c) (hok : ldStOk c = true) (hon : (s.prog s.curQ).on = true) (hu : c.passEnd ≤ (s.prog s.curQ).u) :
    exec (.mst w) s = .next (s.cmdDone s.curQ c 0) :=
  congrArg Host.Outcome.next ((State.checked_heads _ hc hok).trans (State.walkRun_over hon hu))

theorem exec_mcvt_over (hc : s.heads c) (hok : cvtOk c = true) (hon : (s.prog s.curQ).on = true) (hu : c.passEnd ≤ (s.prog s.curQ).u) :
    exec (.mcvt w) s = .next (s.cmdDone s.curQ c 0) :=
  congrArg Host.Outcome.next ((State.checked_heads _ hc hok).trans (State.walkRun_over hon hu))

/-- The core's matrix queue stands at run `r`, no access of which is under way. -/
structure State.atRun (s : State) (c : QCmd) (r : Run) : Prop where
  heads : s.heads c
  on : (s.prog s.curQ).on = true
  fresh : (s.prog s.curQ).fresh
  pass : (s.prog s.curQ).u < c.passEnd
  place : (s.prog s.curQ).i < Cmd.walkLen c.c
  run : Cmd.runAt c.c (s.core (qName s.curQ)).kggeo (s.prog s.curQ).i (s.prog s.curQ).j = some r

theorem State.core_loadedRun (s : State) (q : Nat) (c : Cmd) (r : Run) (p : Prog) (bs : List (Byte × Bool)) :
    (((s.setProg q p).loadRun q r bs).pastRun q c r).core (qName q) = (s.core (qName q)).acsRow r.row r.col (words32 bs) := by
  simp [State.loadRun, State.pastRun, State.setMCore, State.mCore]

theorem State.prog_loadedRun (s : State) (q : Nat) (c : Cmd) (r : Run) (p : Prog) (bs : List (Byte × Bool)) :
    let t := ((s.setProg q p).loadRun q r bs).pastRun q c r
    (t.prog q).i = p.i ∧ (t.prog q).hit = if bs.any (·.2) then p.hit ||| 1#128 <<< r.row else p.hit := by
  simp [State.loadRun, State.pastRun, State.setMCore]

/-- An MLD loads the run that it reaches (R131). -/
theorem exec_mld_run (h : s.atRun c r) (hok : ldStOk c = true)
    (hr : s.engReaches s.curQ c (Cmd.runAcc c.c (s.prog s.curQ).u r 0) (4 * r.len) pa trc) :
    let bs := s.readRun pa (4 * r.len)
    exec (.mld w) s = .next (((s.setProg s.curQ { s.prog s.curQ with got := bs, skip := false }).loadRun s.curQ r bs).pastRun s.curQ c.c r) := by
  refine congrArg Host.Outcome.next ((State.checked_heads _ h.heads hok).trans (State.walkRun_run h.on h.pass h.place h.run ?_))
  rw [State.engRead_atOnce h.fresh rfl hr]
  rfl

theorem Core.acsRun_length (m : Core) (r : Run) : (m.acsRun r).length = r.len := by simp [Core.acsRun]

theorem natRun_length (n v : Nat) (p : Bool) : (natRun n v p).length = n := by
  induction n generalizing v with
  | zero => rfl
  | succ n ih => rw [natRun, List.length_cons, ih]

/-- Elements of `k` bytes each. -/
theorem length_flatMap_natRun {α : Type} (l : List α) (k : Nat) (f : α → Nat) (p : Bool) :
    (l.flatMap fun v => natRun k (f v) p).length = l.length * k := by
  simp [List.length_flatMap, natRun_length]

/-- An MST stores the run that it stands at (R131, R132). -/
theorem exec_mst_run (h : s.atRun c r) (hok : ldStOk c = true)
    (hr : s.engReaches s.curQ c (Cmd.runAcc c.c (s.prog s.curQ).u r 1) (4 * r.len) pa trc) :
    let m := s.core (qName s.curQ)
    ∃ t, exec (.mst w) s = .next t ∧ t.mem =
      (s.write pa ((m.acsRun r).flatMap fun v => natRun 4 v.toNat (m.kap.getLsbD r.row))
        ⟨3, engCls s.curQ, engAgent s.curQ, trc, 0⟩).mem := by
  intro m
  obtain ⟨-, hput, hview, hskip, -⟩ := h.fresh
  have hlen : ((m.acsRun r).flatMap fun v => natRun 4 v.toNat (m.kap.getLsbD r.row)).length = 4 * r.len := by
    rw [length_flatMap_natRun, Core.acsRun_length, Nat.mul_comm]
  refine ⟨_, congrArg Host.Outcome.next ((State.checked_heads _ h.heads hok).trans (State.walkRun_run h.on h.pass h.place h.run
    (State.engWrite_atOnce 0 hput hview hskip rfl ?_))), rfl⟩
  exact hlen ▸ hr

theorem cvtRun_length (c : Cmd) (g : W32) (vs : List W32) : (cvtRun c g vs).length = vs.length := by simp [cvtRun]

/-- The write of a run of an MCVT (R363). -/
def State.cvtWrite (s : State) (q : Nat) (c : QCmd) (p : Nat) (r : Run) : Except State State :=
  let m := s.core (qName q)
  let vs := cvtRun c.c m.mgen (m.acsRun r)
  let bad := m.kap.getLsbD r.row
  if Cmd.fmt c.c = 5 then s.cvtNibbles q c p r vs bad
  else s.engWrite q c (Cmd.runAcc c.c p r 1) (vs.flatMap fun v => natRun (typeBits (Cmd.fmt c.c) / 8) v bad) 0

/-- The generator of a core has stepped for the `n` elements of a run. -/
def State.stepMgen (s : State) (k : Nat) (c : Cmd) (g : W32) (n : Nat) : State :=
  s.setCore k { s.core k with mgen := genAfter (bits c.w2 42 40) g n }

/-- An MCVT stores the run that it stands at, and its generator steps once for each element (R363). -/
theorem exec_mcvt_run {u : State} {p : Prog} (h : s.atRun c r) (hok : cvtOk c = true)
    (hw : s.cvtWrite s.curQ c (s.prog s.curQ).u r = .ok (u.setProg s.curQ p)) :
    ∃ t, exec (.mcvt w) s = .next t ∧ t.mem = u.mem ∧
      (t.core (qName s.curQ)).mgen = genAfter (bits c.c.w2 42 40) (s.core (qName s.curQ)).mgen r.len := by
  refine ⟨((u.setProg s.curQ p).stepMgen (qName s.curQ) c.c (s.core (qName s.curQ)).mgen r.len).pastRun s.curQ c.c r,
    congrArg Host.Outcome.next ((State.checked_heads _ h.heads hok).trans (State.walkRun_run h.on h.pass h.place h.run ?_)), rfl, ?_⟩
  · have hn : (cvtRun c.c (s.core (qName s.curQ)).mgen ((s.core (qName s.curQ)).acsRun r)).length = r.len := by
      rw [cvtRun_length, Core.acsRun_length]
    rw [State.stepMgen, ← hn]
    unfold State.cvtWrite at hw
    dsimp only at hw ⊢
    rw [State.mCore, Core.rowPoison, hw]
    rfl
  · rw [State.pastRun, State.core_setProg, State.stepMgen, State.core_setCore]

theorem State.cvtWrite_bytes {s : State} {q p : Nat} (hf : (s.prog q).fresh) (h5 : Cmd.fmt c.c ≠ 5)
    (hr : s.engReaches q c (Cmd.runAcc c.c p r 1) (r.len * (typeBits (Cmd.fmt c.c) / 8)) pa trc) :
    let m := s.core (qName q)
    s.cvtWrite q c p r = .ok ((s.write pa
      ((cvtRun c.c m.mgen (m.acsRun r)).flatMap fun v => natRun (typeBits (Cmd.fmt c.c) / 8) v (m.kap.getLsbD r.row))
        ⟨3, engCls q, engAgent q, trc, 0⟩).setProg q { s.prog q with put := r.len * (typeBits (Cmd.fmt c.c) / 8) }) := by
  intro m
  obtain ⟨-, hput, hview, hskip, -⟩ := hf
  have hlen := length_flatMap_natRun (cvtRun c.c m.mgen (m.acsRun r)) (typeBits (Cmd.fmt c.c) / 8) (fun v => v) (m.kap.getLsbD r.row)
  rw [cvtRun_length, Core.acsRun_length] at hlen
  rw [← hlen] at hr ⊢
  exact (if_neg h5).trans (State.engWrite_atOnce 0 hput hview hskip rfl hr)

theorem State.cvtWrite_nibbles {s : State} {q p : Nat} (hf : (s.prog q).fresh) (h5 : Cmd.fmt c.c = 5) :
    let m := s.core (qName q)
    let vs := cvtRun c.c m.mgen (m.acsRun r)
    let odd := r.el % 2 == 1
    let bytes := nibBytes (if odd then 0 :: vs else vs) (m.kap.getLsbD r.row)
    s.engReaches q c (Cmd.runAcc c.c p r 1) bytes.length pa trc →
    s.cvtWrite q c p r = .ok ((s.write pa (s.mergeHalf pa bytes odd ((r.el + r.len) % 2 == 1))
        ⟨3, engCls q, engAgent q, trc, 0⟩).setProg q { s.prog q with put := bytes.length }) := by
  intro m vs odd bytes hr
  obtain ⟨-, hput, hview, hskip, -⟩ := hf
  have hn : vs.length = r.len := (cvtRun_length ..).trans (m.acsRun_length r)
  rw [← hn]
  exact (if_pos h5).trans (State.engWriteHalf_atOnce 0 _ _ hput hview hskip rfl hr)

end

theorem matrixMoves : Pieces.MatrixMoves := by
  intro s w c hc q p m hon hf
  refine ⟨fun hu => ⟨?done, fun hok => exec_mcvt_over hc hok hon hu⟩, fun r hu hi hr => ?_⟩
  case done =>
    intro x hx hok
    simp only [List.mem_cons, List.not_mem_nil, or_false] at hx
    obtain rfl | rfl := hx
    · exact exec_mld_over hc hok hon hu
    · exact exec_mst_over hc hok hon hu
  have h : s.atRun c r := ⟨hc, hon, hf, hu, hi, hr⟩
  refine ⟨fun pa trc hok hreach => ?mld, fun pa trc hok hreach => ?mst, fun pa trc hok h5 hreach => ?mcvt,
    fun pa trc hok h5 hreach => ?fp4⟩
  case mld =>
    have hm : moveOk c.c = true := by
      simp only [ldStOk, Bool.and_eq_true] at hok
      exact hok.1.1.1
    have hb := Cmd.runAt_bound hm hr
    have hlen : (words32 (s.readRun pa (4 * r.len))).length = r.len := by simp [State.words32_readRun]
    obtain ⟨hi', hhit⟩ := s.prog_loadedRun q c.c r { p with got := s.readRun pa (4 * r.len), skip := false } (s.readRun pa (4 * r.len))
    refine ⟨_, exec_mld_run h hok hreach, rfl, hi', hhit, fun x hx => ?_, fun row col hout _ hcol => ?_⟩
    · rw [State.core_loadedRun, Core.acsAt_acsRow _ _ _ (by omega) _ _ _ (by omega), hlen, if_pos (by omega), Nat.add_sub_cancel_left,
        State.words32_readRun, nth_map_range _ _ _ _ hx]
    · rw [State.core_loadedRun, Core.acsAt_acsRow _ _ _ hcol _ _ _ (by omega), hlen, if_neg (by omega)]
  case mst =>
    obtain ⟨t, ht, hmem⟩ := exec_mst_run h hok hreach
    rw [Core.acsRun, List.flatMap_map] at hmem
    exact ⟨t, ht, hmem⟩
  case mcvt => exact exec_mcvt_run h hok (State.cvtWrite_bytes hf h5 hreach)
  case fp4 => exact exec_mcvt_run h hok (State.cvtWrite_nibbles hf h5 hreach)

/-! ## MZERO (R131, R362) -/

/-- The core with elements of its store zeroed. -/
def Core.zeroed (c : Core) (l : List (Nat × Nat)) : Core := l.foldl (fun c e => c.acsPut e.1 e.2 0) c

theorem Core.acsAt_zeroed {col : Nat} (hk : col < 128) (row : Nat) (l : List (Nat × Nat)) (hl : ∀ e ∈ l, e.2 < 128) (c : Core) :
    (c.zeroed l).acsAt row col = if (row, col) ∈ l then 0 else c.acsAt row col := by
  induction l generalizing c with
  | nil => rfl
  | cons e l ih =>
    refine (ih (fun x hx => hl x (List.mem_cons_of_mem _ hx)) _).trans ?_
    rw [Core.acsAt_acsPut _ _ _ (hl e List.mem_cons_self) hk]
    by_cases h : (row, col) ∈ l <;> by_cases he : row = e.1 ∧ col = e.2 <;> simp [h, he, Prod.ext_iff]

/-- Elements are all that `Core.zeroed` changes. -/
theorem Core.zeroed_eq (l : List (Nat × Nat)) (c : Core) : c.zeroed l = { c with acs := (c.zeroed l).acs } := by
  induction l generalizing c with
  | nil => rfl
  | cons e l ih => exact ih _

theorem Core.zeroRect_eq (m : Core) (c : Cmd) : m.zeroRect c = (m.zeroed (Cmd.rectOn c m.kggeo)).setRows (Cmd.wholeRows c m.kggeo) false := rfl

/-- The elements of a rectangle are the store's (R131). -/
theorem Cmd.rectOn_col {c : Cmd} (h : moveOk c = true) (g : W64) : ∀ e ∈ Cmd.rectOn c g, e.2 < 128 := by
  intro e he
  have hc := (moveOk_bounds h).2
  obtain ⟨i, -, hi⟩ := List.mem_flatMap.mp he
  have ht := Cmd.walkAt_col c i
  generalize Cmd.walkAt c i = x at hi ht
  obtain ⟨r, t, n⟩ := x
  dsimp only at hi ht
  split at hi
  · obtain ⟨j, hj, rfl⟩ := List.mem_map.mp hi
    have hj16 : j < 16 := List.mem_range.mp (List.mem_filter.mp hj).1
    dsimp only
    omega
  · cases hi

theorem exec_mzero {s : State} {w : Cmd} {c : QCmd} (hc : s.heads c) (hok : zeroOk c = true) (hp : c.pass0 < c.passEnd) :
    exec (.mzero w) s =
      .next ((s.setCore (qName s.curQ) ((s.core (qName s.curQ)).zeroRect c.c)).cmdDone s.curQ c 0) := by
  refine congrArg Host.Outcome.next ((State.checked_heads _ hc hok).trans ?_)
  dsimp only
  rw [if_pos hp]
  rfl

theorem matrixZero : Pieces.MatrixZero := by
  intro s w c hc hok hp n m
  have hm : moveOk c.c = true := by
    simp only [zeroOk, Bool.and_eq_true] at hok
    exact hok.1.1.1.1
  refine ⟨_, exec_mzero hc hok hp, ?_, fun row col _ hcol => ?_, fun row hrow => ?_⟩
  · rw [State.core_setCore]
  · rw [State.core_setCore, Core.zeroRect_eq, Core.setRows_eq]
    exact Core.acsAt_zeroed hcol row _ (Cmd.rectOn_col hm _) _
  · rw [State.core_setCore, Core.zeroRect_eq, Core.setRows_getLsbD _ _ hrow, Core.zeroed_eq]
    by_cases h : row ∈ Cmd.wholeRows c.c m.kggeo
    · simp [h, m, n]
    · simp [h, m, n]

/-! ## Rings (R124, R368) -/

theorem exec_mring {s : State} {w : Cmd} {c : QCmd} (hc : s.heads c) (hok : ringOk (qName s.curQ) c = true)
    (hm : s.teamMate (qName s.curQ) (bits c.c.w1 51 32) = true) (hl : (s.core (qName s.curQ)).latch = [])
    (hs : (s.core (qName s.curQ)).sent = []) (hf : (s.core (qName s.curQ)).fwd = none) :
    exec (.mring w) s = .next ((s.setCore (qName s.curQ) { s.core (qName s.curQ) with
      ring := if bits c.c.w1 3 0 + 1 = 1 then none else some (bits c.c.w1 3 0 + 1, bits c.c.w1 7 4, bits c.c.w1 51 32) }).cmdDone s.curQ c 0) := by
  refine congrArg Host.Outcome.next ((State.checked_heads _ hc (by rw [hok, hm]; rfl)).trans ?_)
  dsimp only
  rw [State.mCore, if_neg (by rw [hl, hs, hf]; decide)]
  rfl

theorem exec_ringTileArrive {s : State} {n next : Nat} {x : Tile} {rest : List (Nat × Tile)} (h : (s.core n).sent = (next, x) :: rest)
    (hne : next ≠ n) : exec (.ringTileArrive n) s = .next ((s.setCore n { s.core n with sent := rest }).setCore next
      { s.core next with latch := (s.core next).latch ++ [x] }) := by
  simp only [exec, execRingTileArrive, h, State.core_setCore_ne _ _ _ _ hne]

theorem rings : Pieces.Rings := by
  intro s w c n
  refine ⟨fun hc hok hm hl hs hf => exec_mring hc hok hm hl hs hf, fun next x rest h hne => ⟨_, exec_ringTileArrive h hne, ?_, ?_, rfl⟩⟩
  · rw [State.core_setCore_ne _ _ _ _ hne.symm, State.core_setCore]
  · rw [State.core_setCore]

/-- Settles O48: MLD, MST and MCVT run by run, MZERO over its rectangle, and the rings. -/
theorem matrixCommands : Obligations.MatrixCommands := ⟨matrixMoves, matrixZero, rings⟩

end Sys2Proof.Machine

/-! R95, R211: a write at its home takes no heed of engine queues and quads. -/

namespace Sys2Proof.Machine

/-- The state with other engine queues and quads. -/
def State.withUnits (s : State) (e : Map EngQ) (k : Map Quad) : State := { s with queues := e, quads := k }

section
variable (s : State) (e : Map EngQ) (k : Map Quad)

/-! ## What reads of the state find -/

theorem State.core_withUnits (n : Nat) : (s.withUnits e k).core n = s.core n := rfl

theorem State.poisonAt_withUnits (pa : Nat) : (s.withUnits e k).poisonAt pa = s.poisonAt pa := rfl

theorem State.poisonRun_withUnits (pa n : Nat) : (s.withUnits e k).poisonRun pa n = s.poisonRun pa n := rfl

theorem State.readNat_withUnits (pa n : Nat) : (s.withUnits e k).readNat pa n = s.readNat pa n := by
  induction n generalizing pa with
  | zero => rfl
  | succ n ih => rw [State.readNat, ih, State.readNat]; rfl

theorem State.readRun_withUnits (pa n : Nat) : (s.withUnits e k).readRun pa n = s.readRun pa n := by
  induction n generalizing pa with
  | zero => rfl
  | succ n ih => rw [State.readRun, ih, State.readRun]; rfl

theorem State.readW_withUnits (pa : Nat) : (s.withUnits e k).readW pa = s.readW pa := congrArg w64 (s.readNat_withUnits e k pa 8)

theorem State.relsAt_withUnits (pa n : Nat) : (s.withUnits e k).relsAt pa n = s.relsAt pa n := by
  induction n generalizing pa with
  | zero => rfl
  | succ n ih => rw [State.relsAt, ih, State.relsAt]; rfl

/-! ## What changes of the state leave -/

theorem State.setCore_withUnits (n : Nat) (c : Core) : (s.withUnits e k).setCore n c = (s.setCore n c).withUnits e k := rfl

theorem State.stopCore_withUnits (n : Nat) (o : Owner) (va : W64) (ty acc : Nat) :
    (s.withUnits e k).stopCore n o va ty acc = (s.stopCore n o va ty acc).withUnits e k := rfl

theorem State.endWatch_withUnits (n : Nat) (a : Access) (v : W64) :
    (s.withUnits e k).endWatch n a v = (s.endWatch n a v).withUnits e k := by
  unfold State.endWatch
  simp only [State.relsAt_withUnits, State.core_withUnits, State.setCore_withUnits]

theorem State.wakeOne_withUnits (n : Nat) (ws : List Nat) : (s.withUnits e k).wakeOne n ws = (s.wakeOne n ws).withUnits e k := by
  simp only [State.wakeOne, State.core_withUnits, State.poisonAt_withUnits, State.readW_withUnits, State.endWatch_withUnits,
    State.setCore_withUnits, State.stopCore_withUnits]
  split
  · split
    · split
      · split
        · split
          · exact (apply_ite (State.withUnits · e k) _ _ _).symm
          · exact (apply_ite (State.withUnits · e k) _ _ _).symm
        · rfl
      · rfl
    · rfl
  · rfl

theorem State.wake_withUnits (ws : List Nat) : (s.withUnits e k).wake ws = (s.wake ws).withUnits e k :=
  List.foldl_hom (State.withUnits · e k) fun t n => State.wakeOne_withUnits t e k n ws

theorem State.logPiece_withUnits (w m pa len : Nat) (i : WInfo) :
    (s.withUnits e k).logPiece w m pa len i = (s.logPiece w m pa len i).withUnits e k := by
  have hs : ∀ (t : State) (n : Nat) (c : Ctl), (t.withUnits e k).setCtl n c = (t.setCtl n c).withUnits e k := fun _ _ _ => rfl
  have hp : ∀ (t : State) (pa : Nat) (bs : List (Byte × Bool)), (t.withUnits e k).putRun pa bs 0 none = (t.putRun pa bs 0 none).withUnits e k :=
    fun _ _ _ => rfl
  unfold State.logPiece
  dsimp only
  rw [hs, hp, State.wake_withUnits]
  rfl

theorem State.logRun_withUnits (w m : Nat) (i : WInfo) (f : Nat) :
    ∀ (s : State) (pa n : Nat), (s.withUnits e k).logRun w m pa n i f = (s.logRun w m pa n i f).withUnits e k := by
  induction f with
  | zero => exact fun _ _ _ => rfl
  | succ f ih =>
    intro s pa n
    simp only [State.logRun, State.logPiece_withUnits, ih]
    split <;> rfl

theorem State.trace_withUnits (pa n : Nat) (i : WInfo) : (s.withUnits e k).trace pa n i = (s.trace pa n i).withUnits e k := by
  have hw : ∀ w, (s.withUnits e k).wafer w = s.wafer w := fun _ => rfl
  simp only [State.trace, hw, State.logRun_withUnits]
  split
  · split
    · split <;> rfl
    · rfl
  · rfl

theorem State.spoil_withUnits (pa n : Nat) : (s.withUnits e k).spoil pa n = (s.spoil pa n).withUnits e k := by
  have hr : (s.withUnits e k).resids = s.resids := rfl
  simp only [State.spoil, hr]
  split <;> rfl

theorem State.land_withUnits (pa : Nat) (bs : List (Byte × Bool)) (i : WInfo) (rel : Option Rel) :
    (s.withUnits e k).land pa bs i rel = (s.land pa bs i rel).withUnits e k := by
  have hp : (s.withUnits e k).putRun pa bs i.tag rel = (s.putRun pa bs i.tag rel).withUnits e k := rfl
  rw [State.land, hp, State.trace_withUnits, State.wake_withUnits, State.spoil_withUnits]
  rfl

/-! ## Accesses that perform before a word is poisoned -/

theorem State.ldAt_withUnits (n : Nat) (a : Access) : (s.withUnits e k).ldAt n a = (s.ldAt n a).withUnits e k := by
  unfold State.ldAt
  simp only [State.relsAt_withUnits, State.readNat_withUnits, State.core_withUnits, State.setCore_withUnits]

theorem State.amoAt_withUnits (n : Nat) (op : AmoOp) (a : Access) : (s.withUnits e k).amoAt n op a = (s.amoAt n op a).withUnits e k := by
  simp only [State.amoAt, State.relsAt_withUnits, State.readNat_withUnits, State.core_withUnits, State.setCore_withUnits,
    State.land_withUnits]
  split <;> rfl

theorem State.performSt_withUnits (n kind : Nat) (a : Access) :
    (s.withUnits e k).performSt n kind a = (s.performSt n kind a).withUnits e k := by
  unfold State.performSt
  simp only [State.core_withUnits, State.setCore_withUnits, State.land_withUnits]

/-- The state with other full tags. -/
def State.withTags (s : State) (z : List Nat) : State := { s with qtags := z }

theorem State.withTags_withUnits (z : List Nat) : (s.withUnits e k).withTags z = (s.withTags z).withUnits e k := rfl

/-- The core of an LDFE goes on once the tag of its word is empty (R352). -/
def State.tookWord (s : State) (n : Nat) (a : Access) : State :=
  let c := ((s.core n).done a.id (s.readW a.pa)).didRead a.pa 8 (s.relsAt a.pa 8)
  s.setCore n { c with hold := .none, wait := none, pc := c.pc + 4 }

theorem State.takeWord_eq (n : Nat) (a : Access) : s.takeWord n a = (s.withTags (sdel s.qtags (canon a.pa))).tookWord n a := rfl

theorem State.takeWord_withUnits (n : Nat) (a : Access) : (s.withUnits e k).takeWord n a = (s.takeWord n a).withUnits e k := by
  have hq : (s.withUnits e k).qtags = s.qtags := rfl
  rw [State.takeWord_eq, State.takeWord_eq, hq, State.withTags_withUnits]
  unfold State.tookWord
  simp only [State.relsAt_withUnits, State.readW_withUnits, State.core_withUnits, State.setCore_withUnits]

theorem State.fillWord_eq (pa : Nat) : s.fillWord pa = let t := s.withTags (sput s.qtags (canon pa))
    ((t.firstWaiter pa).map fun x => t.takeWord x.1 x.2).getD t := by
  unfold State.fillWord
  dsimp only
  split <;> (next h => rw [State.withTags, h]; rfl)

theorem State.fillWord_withUnits (pa : Nat) : (s.withUnits e k).fillWord pa = (s.fillWord pa).withUnits e k := by
  have hq : (s.withUnits e k).qtags = s.qtags := rfl
  have hw : ∀ t : State, (t.withUnits e k).firstWaiter pa = t.firstWaiter pa := fun _ => rfl
  simp only [State.fillWord_eq, hq, State.withTags_withUnits, hw, State.takeWord_withUnits]
  cases (s.withTags (sput s.qtags (canon pa))).firstWaiter pa <;> rfl

theorem State.settleOne_withUnits (n id : Nat) : (s.withUnits e k).settleOne n id = (s.settleOne n id).withUnits e k := by
  have hh : (s.withUnits e k).heldAt n id = s.heldAt n id := rfl
  have hs : ∀ a, (s.withUnits e k).sure n a = s.sure n a := fun _ => rfl
  simp only [State.settleOne, State.core_withUnits, hh, hs, State.poisonRun_withUnits, State.ldAt_withUnits, State.amoAt_withUnits,
    State.performSt_withUnits, State.fillWord_withUnits]
  split
  · rfl
  · split
    · split
      · split <;> rfl
      · split <;> rfl
      · rfl
      · rfl
      · rfl
      · rfl
    · rfl

theorem State.settle_withUnits (ws : List Nat) : (s.withUnits e k).settle ws = (s.settle ws).withUnits e k :=
  List.foldl_hom (State.withUnits · e k) fun _ p =>
    List.foldl_hom (State.withUnits · e k) fun u a => State.settleOne_withUnits u e k p.1 a.id

/-- What a write does has nothing to do with engine queues and quads. -/
theorem State.write_withUnits (pa : Nat) (bs : List (Byte × Bool)) (i : WInfo) :
    (s.withUnits e k).write pa bs i = (s.write pa bs i).withUnits e k := by
  simp only [State.write, State.writeAs, State.settle_withUnits, State.land_withUnits]
  split <;> rfl

/-! ## Translation (R88) -/

theorem State.forbidden_withUnits : (s.withUnits e k).forbidden = s.forbidden := rfl

theorem State.permits_withUnits : (s.withUnits e k).permits = s.permits := rfl

theorem State.cachedLeaf_withUnits : (s.withUnits e k).cachedLeaf = s.cachedLeaf := rfl

theorem State.remoteUnbacked_withUnits : (s.withUnits e k).remoteUnbacked = s.remoteUnbacked := rfl

theorem State.translate_withUnits : (s.withUnits e k).translate = s.translate := by
  funext w va n acc
  unfold State.translate
  rw [State.forbidden_withUnits, State.permits_withUnits, State.cachedLeaf_withUnits]

theorem State.piece_withUnits : (s.withUnits e k).piece = s.piece := by
  funext w va rest acc
  unfold State.piece
  rw [State.forbidden_withUnits, State.translate_withUnits, State.cachedLeaf_withUnits]

theorem State.engReaches_withUnits : (s.withUnits e k).engReaches = s.engReaches := by
  funext q c a n pa trc
  unfold State.engReaches
  rw [State.piece_withUnits, State.translate_withUnits, State.remoteUnbacked_withUnits]

end
end Sys2Proof.Machine

/-! R93, R133, R408 to R412: the copy commands and XSWZ, chunk by chunk and block by block. -/

namespace Sys2Proof.Machine

/-! ## An engine within a chunk -/

/-- The progress of a command that stands where `p` does and has read `g`, with counter `n`, and has written nothing yet. -/
def Prog.reading (p : Prog) (n : Nat) (g : List (Byte × Bool)) : Prog :=
  { p with n := n, got := g, put := 0, view := false, skip := false, out := none }

theorem Prog.reading_fresh {p : Prog} (h : p.fresh) : p.reading p.n [] = p := by
  obtain ⟨hg, hput, hv, hs, ho⟩ := h
  cases p
  simp_all [Prog.reading]

/-- `t` differs from `s` in engine queues and quads alone, and the progress of queue `q` is `p`. -/
structure State.Along (s t : State) (q : Nat) (p : Prog) : Prop where
  units : ∃ e k, t = s.withUnits e k
  prog : t.prog q = p

section
variable {s t : State} {q : Nat} {c : QCmd} {a : EngAcc} {p : Prog}

theorem State.Along.refl (s : State) (q : Nat) : s.Along s q (s.prog q) := ⟨⟨s.queues, s.quads, rfl⟩, rfl⟩

theorem State.Along.setProg (h : s.Along t q p) (r : Prog) : s.Along (t.setProg q r) q r := by
  obtain ⟨e, k, rfl⟩ := h.units
  exact ⟨⟨_, _, rfl⟩, State.prog_setProg ..⟩

theorem State.Along.setQuad (h : s.Along t q p) (n : Nat) (d : Quad) : s.Along (t.setQuad n d) q p := by
  obtain ⟨⟨e, k, rfl⟩, hp⟩ := h
  exact ⟨⟨_, _, rfl⟩, hp⟩

theorem State.Along.readRun (h : s.Along t q p) (pa n : Nat) : t.readRun pa n = s.readRun pa n := by
  obtain ⟨e, k, rfl⟩ := h.units
  exact s.readRun_withUnits e k pa n

theorem State.Along.mem (h : s.Along t q p) : t.mem = s.mem := by
  obtain ⟨e, k, rfl⟩ := h.units
  rfl

theorem State.Along.swz (h : s.Along t q p) : t.swz = s.swz := by
  obtain ⟨e, k, rfl⟩ := h.units
  rfl

theorem State.Along.engReaches (h : s.Along t q p) {n pa : Nat} {trc : Bool} (hr : s.engReaches q c a n pa trc) :
    t.engReaches q c a n pa trc := by
  obtain ⟨e, k, rfl⟩ := h.units
  rwa [State.engReaches_withUnits]

theorem State.Along.write_mem (h : s.Along t q p) (pa : Nat) (bs : List (Byte × Bool)) (i : WInfo) :
    (t.write pa bs i).mem = (s.write pa bs i).mem := by
  obtain ⟨e, k, rfl⟩ := h.units
  rw [State.write_withUnits]
  rfl

/-- A read of one piece by an engine that has read nothing of it yet. -/
theorem State.Along.engRead {m n pa : Nat} {trc : Bool} (h : s.Along t q (p.reading m [])) (ha : a.acc = 0)
    (hr : s.engReaches q c a n pa trc) :
    ∃ u, t.engRead q c a n = .ok (u, s.readRun pa n) ∧ s.Along u q (p.reading m (s.readRun pa n)) := by
  have hf : (t.prog q).fresh := by rw [h.prog]; exact ⟨rfl, rfl, rfl, rfl, rfl⟩
  refine ⟨_, ?_, h.setProg _⟩
  rw [State.engRead_atOnce hf ha (h.engReaches hr), h.readRun, h.prog]
  rfl

/-- A write of one piece by an engine that has written nothing of it yet. -/
theorem State.Along.engWrite {m pa : Nat} {trc : Bool} {g bs : List (Byte × Bool)} (h : s.Along t q { p.reading m g with out := some bs })
    (ha : a.acc = 1) (hr : s.engReaches q c a bs.length pa trc) (tag : Nat) :
    ∃ u, t.engWrite q c a bs tag = .ok u ∧ u.mem = (s.write pa bs ⟨3, engCls q, engAgent q, trc, tag⟩).mem := by
  refine ⟨_, State.engWrite_atOnce tag ?_ ?_ ?_ ha (h.engReaches hr), h.write_mem ..⟩ <;> rw [h.prog] <;> rfl

/-- The chunk's grains have been drawn (R408). -/
theorem State.Along.copyGrain (h : s.Along t q p) {big : Nat} (hk : p.m + big ≤ 512 * p.k) : t.copyGrain q c big = .ok t := by
  unfold State.copyGrain
  dsimp only
  rw [h.prog, if_pos hk]

end

/-! ## A copy (R408 to R411) -/

theorem exec_copy {s : State} {w : Cmd} {c : QCmd} (hc : s.heads c) {x : Instr × Bool × Nat}
    (hx : x ∈ [(Instr.xcopy w, xcopyOk c, 0x10), (.xfill w, xfillOk c, 0x11), (.xgath w, xindexOk c, 0x12), (.xscat w, xindexOk c, 0x13)])
    (hok : x.2.1 = true) : exec x.1 s = .next (s.copyMove s.curQ c) := by
  simp only [List.mem_cons, List.not_mem_nil, or_false] at hx
  obtain rfl | rfl | rfl | rfl := hx <;> exact congrArg Host.Outcome.next (State.checked_heads (s.copyMove s.curQ) hc hok)

theorem QCmd.cmdDone_adv (s : State) (q : Nat) (c : QCmd) (adv : Nat) : s.cmdDone q { c with adv := adv } 0 = s.cmdDone q c 0 := rfl

section
variable {s : State} {q : Nat} {c : QCmd}

theorem State.copyMove_begins (hon : (s.prog q).on = false) :
    s.copyMove q c = s.copyPass q c.pass0 c.adv (s.copyMode q c) [] [] := by
  unfold State.copyMove
  dsimp only
  rw [if_pos (by rw [hon]; rfl)]

theorem State.copyMode_apart (h : s.copyMeets q c = false) : s.copyMode q c = 0 := if_pos (by simp [h])

/-- A copy ends, and later passes of its section begin past what it has covered (R257). -/
theorem State.copyMove_ends (hh : s.headCmd q = some c) (hon : (s.prog q).on = true) (hu : c.passEnd ≤ (s.prog q).u) :
    s.copyMove q c = if c.sect then (s.setQueue q { s.queue q with
      cmds := { c with adv := (s.prog q).adv } :: (s.queue q).cmds.drop 1 }).cmdDone q { c with adv := (s.prog q).adv } 0
      else s.cmdDone q c 0 := by
  unfold State.copyMove
  dsimp only
  rw [if_neg (by rw [hon]; decide), if_pos hu, State.copyMoved]
  split
  · obtain ⟨r, hr⟩ := List.head?_eq_some_iff.mp hh
    rw [QCmd.cmdDone_adv, EngQ.moved, hr]
    rfl
  · rfl

theorem State.copyMove_waits (hon : (s.prog q).on = true) (hu : (s.prog q).u < c.passEnd) (ht : s.copyTurn q = false) :
    s.copyMove q c = s := by
  unfold State.copyMove
  dsimp only
  rw [if_neg (by rw [hon]; decide), if_neg (by omega), if_pos (by rw [ht]; rfl)]

theorem State.copyMove_moves (hon : (s.prog q).on = true) (hu : (s.prog q).u < c.passEnd) (ht : s.copyTurn q = true) :
    s.copyMove q c = s.copyChunk q c := by
  unfold State.copyMove
  dsimp only
  rw [if_neg (by rw [hon]; decide), if_neg (by omega), if_neg (by rw [ht]; decide)]

theorem State.copyNext_mem (s : State) (q : Nat) (c : QCmd) (big n : Nat) : (s.copyNext q c big n).mem = s.mem := by
  unfold State.copyNext
  dsimp only
  repeat' split
  all_goals rfl

theorem Cmd.cAt_plain {c : Cmd} {p : Prog} (hm : p.mode = 0) (hc : Cmd.cConv c = false) :
    Cmd.cAt c p = (p.i, p.j, 512 * p.j, min 512 (Cmd.cLen c - 512 * p.j)) := by
  simp [Cmd.cAt, Cmd.cChunk, hm, hc, Nat.mul_comm]

/-- The index of a row that can be read, at the row's first chunk (R411). -/
theorem State.copyIndex_reads (hf : (s.prog q).fresh) (hm : (s.prog q).mode = 0) (hn : (s.prog q).n = 0) {row : Nat}
    (hi : Cmd.cIndexed c.c = true → s.poisonRun (engPa q (Cmd.cIdxAt c.c (s.prog q).u row)) 4 = false ∧ Cmd.cIdxAt c.c (s.prog q).u row + 4 ≤ 0x40000) :
    ∃ u n, s.copyIndex q c row = .ok (u, some (s.peekIdx q c.c (s.prog q).u row)) ∧ s.Along u q ((s.prog q).reading n []) := by
  have hr := Prog.reading_fresh hf
  obtain ⟨-, -, -, hs, -⟩ := hf
  have ha : c.ahead (s.prog q) = false := by simp [QCmd.ahead, hm]
  unfold State.copyIndex State.peekIdx
  dsimp only
  cases hx : Cmd.cIndexed c.c
  · refine ⟨s, (s.prog q).n, rfl, ?_⟩
    rw [hr]
    exact .refl s q
  · obtain ⟨hp, hl⟩ := hi hx
    refine ⟨_, s.readNat (engPa q (Cmd.cIdxAt c.c (s.prog q).u row)) 4 + 2, ?_, (State.Along.refl s q).setProg _⟩
    rw [if_pos rfl, if_neg (by simp [hm, ha]), if_neg (by omega), if_neg (by omega), if_neg (by rw [hs]; decide), if_neg (by omega),
      if_neg (by rw [hp]; decide)]
    exact congrArg (fun p : Prog => Except.ok (s.setProg q { p with n := _ }, some _)) hr.symm

/-- The bytes that an XFILL writes at offset `off` of a row (R410). -/
def Cmd.fillBytes (c : Cmd) (off len : Nat) : List (Byte × Bool) :=
  (List.range len).map fun k => (BitVec.ofNat 8 (bits c.w1 31 0 >>> (8 * ((off + k) % 4))), false)

/-- The bytes of a chunk: an XFILL's from its pattern, of the others those at the source. -/
def State.chunkBytes (s : State) (c : Cmd) (off len pa : Nat) : List (Byte × Bool) :=
  if Cmd.op c = 0x11 then Cmd.fillBytes c off len else s.readRun pa len

theorem State.chunkBytes_length (s : State) (c : Cmd) (off len pa : Nat) : (s.chunkBytes c off len pa).length = len := by
  unfold State.chunkBytes
  split
  · simp [Cmd.fillBytes]
  · exact s.readRun_length pa len

/-- The source of a chunk that needs no conversion, its row's index known. -/
theorem State.copySource_bytes {t : State} {p : Prog} {m x pa : Nat} {trc : Bool} (h : s.Along t q (p.reading m []))
    (hm : p.mode = 0) (hv : Cmd.cConv c.c = false) : let len := min 512 (Cmd.cLen c.c - 512 * p.j)
    (Cmd.op c.c ≠ 0x11 → s.engReaches q c ⟨0, 0, Cmd.cSrcRow c.c p.u p.i x + BitVec.ofNat 64 (512 * p.j), 0, []⟩ len pa trc) →
    ∃ u g, t.copySource q c (some x) = .ok (u, s.chunkBytes c.c (512 * p.j) len pa) ∧ s.Along u q (p.reading m g) := by
  intro len hr
  have hat : Cmd.cAt c.c (t.prog q) = (p.i, p.j, 512 * p.j, len) := by
    rw [h.prog]
    exact Cmd.cAt_plain hm hv
  have ha : c.ahead (t.prog q) = false := by
    rw [h.prog]
    simp [QCmd.ahead, Prog.reading, hm]
  have hu : (t.prog q).u = p.u := by rw [h.prog]; rfl
  unfold State.copySource State.chunkBytes
  dsimp only
  rw [hat]
  dsimp only
  by_cases h11 : Cmd.op c.c = 0x11
  · rw [if_pos h11, if_pos h11]
    exact ⟨t, [], rfl, h⟩
  · rw [if_neg h11, if_neg h11, if_neg (by rw [ha]; decide), hu]
    obtain ⟨u, hread, hal⟩ := h.engRead (a := ⟨0, 0, Cmd.cSrcRow c.c p.u p.i x + BitVec.ofNat 64 (512 * p.j), 0, [p.i, p.j]⟩) rfl (hr h11)
    exact ⟨u, _, hread, hal⟩

/-- A chunk that needs no conversion is written where its row's index says. -/
theorem State.copyPut_writes {t : State} {p : Prog} {m n x pa : Nat} {trc : Bool} {g bs : List (Byte × Bool)}
    (h : s.Along t q { p.reading m g with out := some bs }) (hm : p.mode = 0) (hv : Cmd.cConv c.c = false)
    (hr : s.engReaches q c ⟨0, 1, Cmd.cDstRow c.c p.adv p.i x + BitVec.ofNat 64 (512 * p.j), 1, []⟩ bs.length pa trc) :
    ∃ u, t.copyPut q c (some x) bs n = .ok u ∧ u.mem = (s.write pa bs ⟨3, engCls q, engAgent q, trc, 0⟩).mem := by
  have hat : Cmd.cAt c.c (t.prog q) = (p.i, p.j, 512 * p.j, min 512 (Cmd.cLen c.c - 512 * p.j)) := by
    rw [h.prog]
    exact Cmd.cAt_plain hm hv
  have hadv : (t.prog q).adv = p.adv := by rw [h.prog]; rfl
  unfold State.copyPut
  dsimp only
  rw [hat]
  dsimp only
  rw [hv, hadv, if_neg Bool.false_ne_true, if_neg (by simp)]
  exact h.engWrite (a := ⟨0, 1, Cmd.cDstRow c.c p.adv p.i x + BitVec.ofNat 64 (512 * p.j), 1, [p.i, p.j]⟩) rfl hr 0

/-- A chunk that needs no conversion, its grains drawn, goes from its source to its destination in one move. -/
theorem State.copyChunk_done {s1 s2 u : State} {row ch off len : Nat} {idx : Option Nat} {bs : List (Byte × Bool)}
    (hm : (s.prog q).mode ≠ 2) (hat : Cmd.cAt c.c (s.prog q) = (row, ch, off, len)) (hidx : s.copyIndex q c row = .ok (s1, idx))
    (hsrc : s1.copySource q c idx = .ok (s2, bs)) (hout : (s2.prog q).out = none) (hv : Cmd.cConv c.c = false) (hlen : bs.length = len)
    (hg : s2.copyGrain q c len = .ok s2)
    (hput : ((s2.stepXgen q c.c len).setProg q { s2.prog q with out := some bs }).copyPut q c idx bs len = .ok u) :
    s.copyChunk q c = u.copyNext q c len len := by
  have hcut : ∀ r, Cmd.cOut c.c r bs = (bs, len) := fun r => (if_pos (by rw [hv]; rfl)).trans (by rw [hlen])
  have hbig : max (if Cmd.op c.c = 0x11 then 0 else len) len = len := by split <;> omega
  unfold State.copyChunk
  dsimp only
  rw [hat]
  dsimp only
  rw [if_neg (by simp [hm]), hidx]
  dsimp only
  rw [hsrc]
  dsimp only
  rw [if_neg hm, hout]
  dsimp only
  rw [hcut]
  dsimp only
  rw [hlen, hbig, hg]
  dsimp only
  rw [hout, if_neg (by decide), hput]

/-- A chunk that needs no conversion is written to its destination (R408 to R411). -/
theorem State.copyChunk_writes {pa pb : Nat} {trc trc' : Bool} (hf : (s.prog q).fresh) (hm : (s.prog q).mode = 0) (hn : (s.prog q).n = 0)
    (hv : Cmd.cConv c.c = false) : let p := s.prog q
    let len := min 512 (Cmd.cLen c.c - 512 * p.j)
    let x := s.peekIdx q c.c p.u p.i
    p.m + len ≤ 512 * p.k →
    (Cmd.cIndexed c.c = true → s.poisonRun (engPa q (Cmd.cIdxAt c.c p.u p.i)) 4 = false ∧ Cmd.cIdxAt c.c p.u p.i + 4 ≤ 0x40000) →
    s.engReaches q c ⟨0, 1, Cmd.cDstRow c.c p.adv p.i x + BitVec.ofNat 64 (512 * p.j), 1, []⟩ len pb trc →
    (Cmd.op c.c ≠ 0x11 → s.engReaches q c ⟨0, 0, Cmd.cSrcRow c.c p.u p.i x + BitVec.ofNat 64 (512 * p.j), 0, []⟩ len pa trc') →
    (s.copyChunk q c).mem = (s.write pb (s.chunkBytes c.c (512 * p.j) len pa) ⟨3, engCls q, engAgent q, trc, 0⟩).mem := by
  intro p len x hk hi hd hs
  have hlen : (s.chunkBytes c.c (512 * p.j) len pa).length = len := s.chunkBytes_length ..
  obtain ⟨s1, n, hidx, h1⟩ := State.copyIndex_reads hf hm hn hi
  obtain ⟨s2, g, hsrc, h2⟩ := State.copySource_bytes h1 hm hv hs
  have hout : (s2.prog q).out = none := by rw [h2.prog]; rfl
  have h3 : s.Along ((s2.stepXgen q c.c len).setProg q { s2.prog q with out := some (s.chunkBytes c.c (512 * p.j) len pa) }) q
      { p.reading n g with out := some (s.chunkBytes c.c (512 * p.j) len pa) } := by
    rw [h2.prog]
    exact (h2.setQuad ..).setProg _
  obtain ⟨u, hput, hmem⟩ := State.copyPut_writes (n := len) h3 hm hv (hlen.symm ▸ hd)
  rw [State.copyChunk_done (by omega) (Cmd.cAt_plain hm hv) hidx hsrc hout hv hlen (h2.copyGrain hk) hput, State.copyNext_mem, hmem]

end

/-- A copy, chunk by chunk. -/
theorem copiesMove : Pieces.CopiesMove := by
  intro s w c hc q p x hx hok hop
  have hex := exec_copy hc hx hok
  refine ⟨fun hon => ⟨_, hex, ?begins⟩, fun hon hu => ?ends, fun hon hu ht => ?waits, fun hon hu ht hf hm hn _ _ hv hk hidx pa pb trc trc' hd hs => ⟨_, hex, ?chunk⟩⟩
  case begins =>
    rw [State.copyMove_begins hon, State.copyPass, State.prog_setProg]
    exact ⟨rfl, rfl, rfl, fun h => State.copyMode_apart h, rfl⟩
  case ends => rw [hex, State.copyMove_ends hc.1 hon hu]
  case waits => rw [hex, State.copyMove_waits hon hu ht]
  case chunk =>
    have hconv : Cmd.cConv c.c = false := by simp [Cmd.cConv, hv]
    rw [State.copyMove_moves hon hu ht]
    have hi' : Cmd.cIndexed c.c = true → 0x12 ≤ x.2.2 := by
      rw [← hop]
      intro h
      simp only [Cmd.cIndexed, Bool.or_eq_true, beq_iff_eq] at h
      omega
    rw [← hop]
    exact State.copyChunk_writes hf hm hn hconv hk (fun h => hidx (hi' h)) hd (fun h => hs (hop ▸ h))

end Sys2Proof.Machine

/-! R93, R133, R412: XSWZ, block by block. -/

namespace Sys2Proof.Machine

/-! ## A write of part of a block, and of nothing -/

section
variable {s : State}

theorem State.wakeOne_mem (s : State) (n : Nat) (ws : List Nat) : (s.wakeOne n ws).mem = s.mem := by
  unfold State.wakeOne
  dsimp only
  repeat' split
  all_goals rfl

theorem State.wake_mem (s : State) (ws : List Nat) : (s.wake ws).mem = s.mem := by
  unfold State.wake
  generalize s.cores.map (·.1) = l
  induction l generalizing s with
  | nil => rfl
  | cons n l ih => exact (ih _).trans (s.wakeOne_mem n ws)

theorem State.spoil_mem (s : State) (pa n : Nat) : (s.spoil pa n).mem = s.mem := by
  unfold State.spoil
  dsimp only
  split <;> rfl

/-- A write of no byte leaves memory as it is. -/
theorem State.write_nil_mem (s : State) (pa : Nat) (i : WInfo) : (s.write pa [] i).mem = s.mem := by
  have ht : (s.putRun pa [] i.tag none).trace pa 0 i = s.putRun pa [] i.tag none := if_neg (by simp)
  refine (State.spoil_mem ..).trans ((State.wake_mem ..).trans ?_)
  rw [List.length_nil, ht]
  rfl

theorem State.ringRun_shorter {pa n m : Nat} (hn : n ≤ m) (h : s.ringRun pa m = false) : s.ringRun pa n = false := by
  simp only [State.ringRun, List.any_eq_false, List.mem_range] at h ⊢
  exact fun i hi => h i (by omega)

theorem State.permits_shorter {l : Leaf} {w : Who} {va : W64} {n m acc : Nat} (hn : n ≤ m) (h : s.permits l w va m acc = true) :
    s.permits l w va n acc = true := by
  simp only [State.permits, Bool.and_eq_true, Bool.or_eq_true, Bool.not_eq_true'] at h ⊢
  exact ⟨h.1, h.2.imp_right (State.ringRun_shorter hn)⟩

/-- Outside the edge windows an access is forbidden for what it is and where it begins. -/
theorem State.forbidden_length {pa : Nat} (hw : ∀ w m sl o, homeOf pa ≠ .window w m sl o) (wf n m acc : Nat) :
    s.forbidden wf pa n acc = s.forbidden wf pa m acc := by
  unfold State.forbidden
  split
  · rfl
  · split
    case h_5 w m sl o e => exact absurd e (hw w m sl o)
    all_goals rfl

/-- The page of an address: a place of the quad's local space, or what the stream's entry maps and permits to `n` bytes (R88). -/
def State.mapsTo (s : State) (w : Who) (va : W64) (n acc pa : Nat) (trc fmt : Bool) : Prop :=
  if inLocal va then ∃ k, w.quad = some k ∧ pa = quadPa w.wafer (k % 2 ^ 13) (va.toNat - localBase) ∧ trc = false ∧ fmt = false
  else ∃ l, s.cachedLeaf w va = some l ∧ s.permits l w va n acc = true ∧ pa = l.pa va ∧ trc = bitAt l.pte 57 ∧ fmt = bitAt l.pte 58

theorem State.translate_ok_iff {w : Who} {va : W64} {n acc pa : Nat} {trc fmt : Bool} :
    s.translate w va n acc = .ok pa trc fmt ↔
      bits va 63 56 = 0 ∧ s.mapsTo w va n acc pa trc fmt ∧ s.forbidden w.wafer pa n acc = none := by
  unfold State.translate State.mapsTo
  by_cases hva : bits va 63 56 = 0
  · rw [if_neg (by simp [hva])]
    by_cases hl : inLocal va = true
    · rw [if_pos hl, if_pos hl]
      cases w.quad with
      | none => simp
      | some k =>
        dsimp only
        simp only [Option.some.injEq, exists_eq_left']
        generalize quadPa w.wafer (k % 2 ^ 13) (va.toNat - localBase) = pa'
        cases hf : s.forbidden w.wafer pa' n acc with
        | some e =>
          refine iff_of_false nofun ?_
          rintro ⟨-, ⟨rfl, -, -⟩, h⟩
          exact nomatch hf.symm.trans h
        | none =>
          refine ⟨fun h => ?_, ?_⟩
          · cases h
            exact ⟨hva, ⟨rfl, rfl, rfl⟩, hf⟩
          · rintro ⟨-, ⟨rfl, rfl, rfl⟩, -⟩
            rfl
    · rw [if_neg hl, if_neg hl]
      cases s.cachedLeaf w va with
      | none => simp
      | some l =>
        dsimp only
        cases hp : s.permits l w va n acc with
        | false => simp [hp]
        | true =>
          cases hf : s.forbidden w.wafer (l.pa va) n acc with
          | some e =>
            refine iff_of_false nofun ?_
            rintro ⟨-, ⟨_, hl, -, rfl, -, -⟩, h⟩
            cases hl
            exact nomatch hf.symm.trans h
          | none =>
            refine ⟨fun h => ?_, ?_⟩
            · cases h
              exact ⟨hva, ⟨l, rfl, hp, rfl, rfl, rfl⟩, hf⟩
            · rintro ⟨-, ⟨_, hl, -, rfl, rfl, rfl⟩, -⟩
              cases hl
              rfl
  · simp [hva]

theorem State.translate_shorter {w : Who} {va : W64} {n m acc pa : Nat} {trc fmt : Bool} (hn : n ≤ m)
    (hw : ∀ w m sl o, homeOf pa ≠ .window w m sl o) (h : s.translate w va m acc = .ok pa trc fmt) :
    s.translate w va n acc = .ok pa trc fmt := by
  obtain ⟨hva, hm, hf⟩ := State.translate_ok_iff.mp h
  refine State.translate_ok_iff.mpr ⟨hva, ?_, (State.forbidden_length hw ..).trans hf⟩
  unfold State.mapsTo at hm ⊢
  split at hm
  next hl => rwa [if_pos hl]
  next hl =>
    rw [if_neg hl]
    obtain ⟨l, hc, hp, hrest⟩ := hm
    exact ⟨l, hc, State.permits_shorter hn hp, hrest⟩

theorem State.piece_short (s : State) (w : Who) (va : W64) {n : Nat} (acc : Nat) (hn : n ≤ 512) (hva : va.toNat % 512 = 0) : s.piece w va n acc = n := by
  have hp : pieceLen va n = n := by
    unfold pieceLen
    omega
  unfold State.piece
  dsimp only
  rw [hp]
  split
  · exact ite_self n
  · exact ite_self n
  · rfl

theorem State.engReaches_shorter {q : Nat} {c : QCmd} {a : EngAcc} {n pa : Nat} {trc : Bool} (hn : n ≤ 512) (h0 : 0 < n)
    (hva : a.va.toNat % 512 = 0) (h : s.engReaches q c a 512 pa trc) : s.engReaches q c a n pa trc := by
  obtain ⟨-, -, ⟨fmt, ht⟩, hu, hw⟩ := h
  exact ⟨h0, s.piece_short _ _ _ hn hva, ⟨fmt, State.translate_shorter hn hw ht⟩, hu, hw⟩

/-- A write within an aligned block that an engine reaches. -/
theorem State.Along.engWrite_upTo {t : State} {q : Nat} {c : QCmd} {a : EngAcc} {p : Prog} {m pa : Nat} {trc : Bool} {g bs : List (Byte × Bool)}
    (h : s.Along t q { p.reading m g with out := some bs }) (ha : a.acc = 1) (hva : a.va.toNat % 512 = 0) (hn : bs.length ≤ 512)
    (hr : s.engReaches q c a 512 pa trc) (tag : Nat) :
    ∃ u, t.engWrite q c a bs tag = .ok u ∧ u.mem = (s.write pa bs ⟨3, engCls q, engAgent q, trc, tag⟩).mem := by
  cases bs with
  | nil => exact ⟨t, by rw [State.engWrite, State.engWriteHalf]; exact if_pos (Nat.zero_le _), h.mem.trans (s.write_nil_mem _ _).symm⟩
  | cons b r => exact h.engWrite ha (State.engReaches_shorter hn (Nat.succ_pos _) hva hr) tag

end

/-! ## XSWZ (R412) -/

section
variable {s : State} {q : Nat} {c : QCmd}

/-- The 512 bytes of a block at `pa`, whose virtual address is `va`, as they lie under the command's tag (R133). -/
def State.laidOut (s : State) (q : Nat) (c : Cmd) (va : W64) (pa : Nat) : List (Byte × Bool) :=
  relayout (s.tagAt (engPa q (va.toNat - localBase))) (Cmd.zTag c) (s.readRun pa 512)

theorem State.laidOut_length (s : State) (q : Nat) (c : Cmd) (va : W64) (pa : Nat) : (s.laidOut q c va pa).length = 512 := by
  simp [State.laidOut, relayout]

/-- A block that is reached is read at once. -/
theorem State.swzRead_atOnce {t : State} {p : Prog} {n x pa : Nat} {trc : Bool} (h : s.Along t q (p.reading n []))
    (hr : s.engReaches q c (c.zSource x) 512 pa trc) :
    ∃ u g, t.swzRead q c x = .ok (u, s.laidOut q c.c (c.zSource x).va pa) ∧ s.Along u q (p.reading n g) := by
  obtain ⟨u, hread, hu⟩ := h.engRead rfl hr
  refine ⟨u, _, ?_, hu⟩
  have htag : ∀ l, u.tagAt l = s.tagAt l := fun l => by rw [State.tagAt, hu.swz]; rfl
  rw [State.swzRead, hread]
  dsimp only
  rw [htag]
  rfl

/-- A block that is reached is read ahead. -/
theorem State.swzAhead_reads {pa : Nat} {trc : Bool} (hf : (s.prog q).fresh) (hr : s.engReaches q c (c.zSource (s.prog q).i) 512 pa trc) :
    let p := s.prog q
    (s.swzAhead q c).mem = s.mem ∧ (s.swzAhead q c).prog q =
      { resetProg with on := true, mode := 2, i := p.i + 1, buf := p.buf ++ s.laidOut q c.c (c.zSource p.i).va pa, holes := p.holes } := by
  intro p
  have hal : s.Along s q (p.reading p.n []) := by
    rw [Prog.reading_fresh hf]
    exact .refl s q
  obtain ⟨u, g, hread, hu⟩ := State.swzRead_atOnce hal hr
  have hgot : (s.prog q).got = [] := hf.1
  unfold State.swzAhead
  dsimp only
  rw [hgot, List.length_nil, State.readFaults_atOnce rfl hr, if_neg (by simp), hread]
  dsimp only
  rw [State.setProg_mem, State.prog_setProg]
  exact ⟨hu.mem, rfl⟩

/-- What block `x` of an XSWZ writes: what has been read ahead of it, else the block as it lies now. -/
def State.swzOut (s : State) (q : Nat) (c : QCmd) (x pa : Nat) : List (Byte × Bool) :=
  let p := s.prog q
  if p.mode = 3 ∧ x ∉ p.holes then (p.buf.drop (512 * x)).take 512 else s.laidOut q c.c (c.zSource x).va pa

theorem State.swzOut_length (s : State) (q : Nat) (c : QCmd) (x pa : Nat) : (s.swzOut q c x pa).length ≤ 512 := by
  unfold State.swzOut
  dsimp only
  split
  · simp
  · rw [State.laidOut_length]

theorem State.swzBytes_eq {x pa : Nat} {trc : Bool} (hf : (s.prog q).fresh) (hr : s.engReaches q c (c.zSource x) 512 pa trc) :
    ∃ u g, s.swzBytes q c x = .ok (u, s.swzOut q c x pa) ∧ s.Along u q ((s.prog q).reading (s.prog q).n g) := by
  have hal : s.Along s q ((s.prog q).reading (s.prog q).n []) := by
    rw [Prog.reading_fresh hf]
    exact .refl s q
  unfold State.swzBytes State.swzOut
  dsimp only
  by_cases h : (s.prog q).mode = 3 ∧ x ∉ (s.prog q).holes
  · rw [if_pos h, if_pos (by simpa using h)]
    exact ⟨s, [], rfl, hal⟩
  · rw [if_neg h, if_neg (by simpa using h)]
    exact State.swzRead_atOnce hal hr

/-- The number of the block that an XSWZ moves next. -/
def QCmd.zNext (c : QCmd) (p : Prog) : Nat := if p.mode = 1 then c.zTotal - 1 - p.i else p.i

/-- The virtual address that block `x` of an XSWZ goes to. -/
def QCmd.zDest (c : QCmd) (x : Nat) : W64 := Cmd.cDst c.c + w64 (512 * (Cmd.zBlocks c.c * c.pass0 + x))

theorem QCmd.zDest_aligned (h : xswzOk c = true) (x : Nat) : (c.zDest x).toNat % 512 = 0 := by
  have hd : bits c.c.w2 55 0 % 512 = 0 := by
    simp only [xswzOk, Bool.and_eq_true, beq_iff_eq] at h
    obtain ⟨⟨⟨⟨⟨-, hd⟩, -⟩, -⟩, -⟩, -⟩ := h
    exact hd
  simp only [QCmd.zDest, Cmd.cDst, w64, BitVec.toNat_add, BitVec.toNat_ofNat]
  omega

/-- A block whose grain is drawn is written where it goes, under the command's tag. -/
theorem State.swzBlock_writes {pa pb : Nat} {trc trc' : Bool} (hok : xswzOk c = true) (hf : (s.prog q).fresh) :
    let p := s.prog q
    let x := c.zNext p
    p.m + 512 ≤ 512 * p.k → s.engReaches q c (c.zSource x) 512 pa trc → s.engReaches q c ⟨0, 1, c.zDest x, 1, []⟩ 512 pb trc' →
    (s.swzBlock q c).mem = (s.write pb (s.swzOut q c x pa) ⟨3, engCls q, engAgent q, trc', Cmd.zTag c.c⟩).mem ∧
      (s.swzBlock q c).prog q = { resetProg with on := true, mode := p.mode, i := p.i + 1, buf := p.buf, holes := p.holes } := by
  intro p x hk hr hd
  obtain ⟨u, g, hbytes, hu⟩ := State.swzBytes_eq hf hr
  have hout : (u.prog q).out = none := by rw [hu.prog]; rfl
  have hw : s.Along (u.setProg q { u.prog q with out := some (s.swzOut q c x pa) }) q
      { p.reading p.n g with out := some (s.swzOut q c x pa) } := by
    rw [hu.prog]
    exact hu.setProg _
  obtain ⟨v, hput, hmem⟩ := hw.engWrite_upTo (a := ⟨0, 1, c.zDest x, 1, [x % Cmd.zBlocks c.c, 0]⟩) rfl (QCmd.zDest_aligned hok x)
    (s.swzOut_length ..) hd (Cmd.zTag c.c)
  have hblock : s.swzBlock q c = (v.copyServed q true).setProg q
      { resetProg with on := true, mode := p.mode, i := p.i + 1, buf := p.buf, holes := p.holes } := by
    unfold State.swzBlock
    dsimp only
    rw [show (if (s.prog q).mode = 1 then c.zTotal - 1 - (s.prog q).i else (s.prog q).i) = x from rfl, hbytes]
    dsimp only
    rw [hu.copyGrain hk]
    dsimp only
    rw [hout, Option.getD_none, ← QCmd.zDest, hput]
  rw [hblock, State.setProg_mem, State.prog_setProg]
  exact ⟨hmem, rfl⟩

end

section
variable {s : State} {w : Cmd} {c : QCmd}

theorem exec_xswz_begins (hc : s.heads c) (hok : xswzOk c = true) (hon : (s.prog s.curQ).on = false) :
    exec (.xswz w) s = .next (s.setProg s.curQ { resetProg with on := true, mode := c.zMode }) := by
  refine congrArg Host.Outcome.next ((State.checked_heads _ hc hok).trans ?_)
  exact if_pos (by rw [hon]; rfl)

/-- How an XSWZ goes, as the order of its source and its destination says (R93; log 97). -/
theorem QCmd.zMode_eq (c : QCmd) : c.zMode =
    if bits c.c.w1 55 0 < bits c.c.w2 55 0 ∧ bits c.c.w2 55 0 < bits c.c.w1 55 0 + 512 * c.zTotal then
      (if c.passEnd - c.pass0 = 1 then 1 else 2) else 0 := by
  simp only [QCmd.zMode, Bool.and_eq_true, decide_eq_true_eq]

/-- An XSWZ that has begun, and has read or moved its last block: it ends, or goes on to write what it has read. -/
theorem exec_xswz_over (hc : s.heads c) (hok : xswzOk c = true) (hon : (s.prog s.curQ).on = true) (hi : c.zTotal ≤ (s.prog s.curQ).i) :
    let p := s.prog s.curQ
    exec (.xswz w) s = .next (if p.mode = 2 then s.setProg s.curQ { resetProg with on := true, mode := 3, buf := p.buf, holes := p.holes }
      else s.cmdDone s.curQ c 0) := by
  refine congrArg Host.Outcome.next ((State.checked_heads _ hc hok).trans ?_)
  dsimp only
  rw [if_neg (by rw [hon]; decide), if_pos hi]

/-- An XSWZ with blocks to go waits for its queue's turn. -/
theorem exec_xswz_waits (hc : s.heads c) (hok : xswzOk c = true) (hon : (s.prog s.curQ).on = true) (hi : (s.prog s.curQ).i < c.zTotal)
    (ht : s.copyTurn s.curQ = false) : exec (.xswz w) s = .next s := by
  refine congrArg Host.Outcome.next ((State.checked_heads _ hc hok).trans ?_)
  dsimp only
  rw [if_neg (by rw [hon]; decide), if_neg (by omega), if_pos (by rw [ht]; rfl)]

theorem exec_xswz_moves (hc : s.heads c) (hok : xswzOk c = true) (hon : (s.prog s.curQ).on = true) (hi : (s.prog s.curQ).i < c.zTotal)
    (ht : s.copyTurn s.curQ = true) :
    exec (.xswz w) s = .next (if (s.prog s.curQ).mode = 2 then s.swzAhead s.curQ c else s.swzBlock s.curQ c) := by
  refine congrArg Host.Outcome.next ((State.checked_heads _ hc hok).trans ?_)
  dsimp only
  rw [if_neg (by rw [hon]; decide), if_neg (by omega), if_neg (by rw [ht]; decide)]

end

/-- An XSWZ, block by block. -/
theorem swizzleMoves : Pieces.SwizzleMoves := by
  intro s w c hc hok q p total from_ to_ next
  refine ⟨fun hon => ?begins, fun hon hi hm => ?ends, fun hon hi hm => ?turns, fun hon hi ht => exec_xswz_waits hc hok hon hi ht,
    fun hon hi ht hf pa pb trc trc' hr hd => ⟨fun hm => ?ahead, fun hm hk => ?block⟩⟩
  case begins =>
    rw [exec_xswz_begins hc hok hon, QCmd.zMode_eq]
    rfl
  case ends => exact (exec_xswz_over hc hok hon hi).trans (congrArg _ (if_neg hm))
  case turns => exact (exec_xswz_over hc hok hon hi).trans (congrArg _ (if_pos hm))
  case ahead =>
    have hx : (if p.mode = 1 then total - 1 - p.i else p.i) = p.i := if_neg (by omega)
    rw [hx] at hr
    obtain ⟨hmem, hprog⟩ := State.swzAhead_reads hf hr
    refine ⟨_, (exec_xswz_moves hc hok hon hi ht).trans (congrArg _ (if_pos hm)), hmem, ?_⟩
    rw [hx]
    exact hprog
  case block =>
    obtain ⟨hmem, hprog⟩ := State.swzBlock_writes hok hf hk hr hd
    exact ⟨_, (exec_xswz_moves hc hok hon hi ht).trans (congrArg _ (if_neg hm)), hmem, hprog⟩

/-- Settles O49: the copies chunk by chunk, and XSWZ block by block. -/
theorem copyEngine : Obligations.CopyEngine := ⟨copiesMove, swizzleMoves⟩

end Sys2Proof.Machine

/-! R119, R124, R136, R365, R366: MMA, step by step. -/

namespace Sys2Proof.Machine

/-! ## What drawing a grain leaves -/

/-- The state with other engine queues and fields. -/
def State.withDraws (s : State) (e : Map EngQ) (f : Map Field) : State := { s with queues := e, fields := f }

section
variable (s : State) (e : Map EngQ) (f : Map Field)

theorem State.tagByte_withDraws : (s.withDraws e f).tagByte = s.tagByte := rfl

theorem State.plainTile_withDraws : (s.withDraws e f).plainTile = s.plainTile := rfl

theorem State.blockTile_withDraws (q tag limit k : Nat) :
    ∀ l es bl, (s.withDraws e f).blockTile q tag limit k l es bl = s.blockTile q tag limit k l es bl := by
  induction k with
  | zero => exact fun _ _ _ => rfl
  | succ k ih =>
    intro l es bl
    unfold State.blockTile
    rw [ih, State.tagByte_withDraws]

theorem State.operand_withDraws : (s.withDraws e f).operand = s.operand := by
  funext q code base pitch tag limit
  unfold State.operand
  rw [State.blockTile_withDraws, State.plainTile_withDraws]

theorem State.bOperand_withDraws : (s.withDraws e f).bOperand = s.bOperand := by
  funext q c u
  unfold State.bOperand
  rw [State.operand_withDraws]
  rfl

theorem State.readRun_withDraws : (s.withDraws e f).readRun = s.readRun := by
  funext pa n
  induction n generalizing pa with
  | zero => rfl
  | succ n ih => rw [State.readRun, ih, State.readRun]; rfl

theorem State.bandScales_withDraws : (s.withDraws e f).bandScales = s.bandScales := by
  funext q c
  unfold State.bandScales
  rw [State.readRun_withDraws]

theorem State.stepMismatch_withDraws : (s.withDraws e f).stepMismatch = s.stepMismatch := rfl

end

/-- `t` differs from `s` in engine queues and fields alone, and the progress of queue `q` is `p`. -/
structure State.Drawn (s t : State) (q : Nat) (p : Prog) : Prop where
  units : ∃ e f, t = s.withDraws e f
  prog : t.prog q = p

/-! ## Sums into the accumulator store -/

/-- The core with its elements at the places `at_ x` changed by `f x`, for the `x` of a list in turn. -/
def Core.updated (m : Core) (at_ : Nat → Nat × Nat) (f : Nat → W32 → W32) (l : List Nat) : Core :=
  l.foldl (fun m x => m.acsPut (at_ x).1 (at_ x).2 (f x (m.acsAt (at_ x).1 (at_ x).2))) m

section
variable {at_ : Nat → Nat × Nat} {f : Nat → W32 → W32} {l : List Nat}

theorem Core.updated_eq (m : Core) : m.updated at_ f l = { m with acs := (m.updated at_ f l).acs } := by
  induction l generalizing m with
  | nil => rfl
  | cons y l ih => exact ih _

theorem Core.acsAt_updated_other {row col : Nat} (hc : col < 128) (m : Core) (hl : ∀ x ∈ l, (at_ x).2 < 128)
    (h : ∀ x ∈ l, at_ x ≠ (row, col)) : (m.updated at_ f l).acsAt row col = m.acsAt row col := by
  induction l generalizing m with
  | nil => rfl
  | cons y l ih =>
    refine (ih _ (fun x hx => hl x (List.mem_cons_of_mem _ hx)) fun x hx => h x (List.mem_cons_of_mem _ hx)).trans ?_
    rw [Core.acsAt_acsPut _ _ _ (hl y List.mem_cons_self) hc]
    exact if_neg fun e => h y List.mem_cons_self (Prod.ext e.1.symm e.2.symm)

theorem Core.acsAt_updated {x : Nat} (hx : x ∈ l) (hl : ∀ x ∈ l, (at_ x).2 < 128) (hn : l.Nodup)
    (hi : ∀ x ∈ l, ∀ y ∈ l, at_ x = at_ y → x = y) (m : Core) :
    (m.updated at_ f l).acsAt (at_ x).1 (at_ x).2 = f x (m.acsAt (at_ x).1 (at_ x).2) := by
  induction l generalizing m with
  | nil => cases hx
  | cons y l ih =>
    have hy := List.mem_cons_self (a := y) (l := l)
    have hl' : ∀ z ∈ l, (at_ z).2 < 128 := fun z hz => hl z (List.mem_cons_of_mem _ hz)
    obtain ⟨hyl, hnl⟩ := List.nodup_cons.mp hn
    rcases List.mem_cons.mp hx with rfl | hxl
    · refine (Core.acsAt_updated_other (hl x hy) _ hl' fun z hz e => ?_).trans ?_
      · exact hyl (hi z (List.mem_cons_of_mem _ hz) x hy e ▸ hz)
      · rw [Core.acsAt_acsPut _ _ _ (hl x hy) (hl x hy), if_pos ⟨rfl, rfl⟩]
    · refine (ih hxl hl' hnl (fun z hz w hw => hi z (List.mem_cons_of_mem _ hz) w (List.mem_cons_of_mem _ hw)) _).trans ?_
      rw [Core.acsAt_acsPut _ _ _ (hl y hy) (hl x hx), if_neg]
      exact fun e => hyl (hi x hx y hy (Prod.ext e.1 e.2) ▸ hxl)

end

theorem bits_lt {n : Nat} (v : BitVec n) (hi lo : Nat) : bits v hi lo < 2 ^ (hi + 1 - lo) := Nat.mod_lt _ (Nat.two_pow_pos _)

/-- The tile of an MMA lies within the store (R130). -/
theorem mmaOk_acol {g : W64} {c : QCmd} (h : mmaOk g c = true) : Cmd.acol c.c ≤ 112 := by
  have hb := bits_lt c.c.w3 30 24
  have ha : Cmd.acol c.c % 16 = 0 := by
    simp only [mmaOk, Bool.and_eq_true, beq_iff_eq] at h
    obtain ⟨⟨⟨⟨⟨⟨-, ha⟩, -⟩, -⟩, -⟩, -⟩, -⟩ := h
    exact ha
  simp only [Cmd.acol] at ha ⊢
  omega

section
variable (c : Cmd) {i j i' j' : Nat}

theorem Cmd.land_col (h : Cmd.acol c ≤ 112) (hi : i < 16) (hj : j < 16) : (Cmd.land c i j).2 < 128 := by
  unfold Cmd.land
  split <;> (dsimp only; omega)

theorem Cmd.land_inj (h : Cmd.land c i j = Cmd.land c i' j') : i = i' ∧ j = j' := by
  unfold Cmd.land at h
  split at h <;> (obtain ⟨h1, h2⟩ := Prod.mk.inj h; omega)

end

/-- The elements of a step's tile that are on, row by row. -/
def StepArgs.onElems (t : StepArgs) : List Nat := (List.range 256).filter fun x => t.row (x / 16) && t.col (x % 16)

theorem Core.mmaSum_eq (m : Core) (c : Cmd) (t : StepArgs) (zero : Bool) : m.mmaSum c t zero =
    m.updated (fun x => Cmd.land c (x / 16) (x % 16)) (fun x v => add32 (if zero then 0 else v) (t.dot (x / 16) (x % 16))) t.onElems := rfl

section
variable {c : Cmd} {t : StepArgs} {zero : Bool} {m : Core}

theorem StepArgs.onElems_land (h : Cmd.acol c ≤ 112) : ∀ x ∈ t.onElems, (Cmd.land c (x / 16) (x % 16)).2 < 128 := fun x hx => by
  have hx' : x < 256 := List.mem_range.mp (List.mem_filter.mp hx).1
  exact Cmd.land_col c h (by omega) (Nat.mod_lt _ (by decide))

/-- Each element of the tile that is on takes its sum, and the others stay (R119). -/
theorem Core.acsAt_mmaSum (h : Cmd.acol c ≤ 112) {i j : Nat} (hi : i < 16) (hj : j < 16) : let at_ := Cmd.land c i j
    (m.mmaSum c t zero).acsAt at_.1 at_.2 =
      if t.row i && t.col j then add32 (if zero then 0 else m.acsAt at_.1 at_.2) (t.dot i j) else m.acsAt at_.1 at_.2 := by
  intro at_
  have hrow : (16 * i + j) / 16 = i := by omega
  have hcol : (16 * i + j) % 16 = j := by omega
  have hmem : 16 * i + j ∈ t.onElems ↔ (t.row i && t.col j) = true := by
    rw [StepArgs.onElems, List.mem_filter, List.mem_range, hrow, hcol, and_iff_right (by omega)]
  have hinj : ∀ x y : Nat, Cmd.land c (x / 16) (x % 16) = Cmd.land c (y / 16) (y % 16) → x = y := fun x y e => by
    have := Cmd.land_inj c e
    omega
  rw [Core.mmaSum_eq]
  by_cases hon : (t.row i && t.col j) = true
  · rw [if_pos hon]
    have hup := Core.acsAt_updated (f := fun x v => add32 (if zero then 0 else v) (t.dot (x / 16) (x % 16))) (hmem.mpr hon)
      (StepArgs.onElems_land h) (List.nodup_range.filter _) (fun x _ y _ => hinj x y) m
    rwa [hrow, hcol] at hup
  · rw [if_neg hon]
    refine Core.acsAt_updated_other (Cmd.land_col c h hi hj) m (StepArgs.onElems_land h) fun x hx e => hon (hmem.mp ?_)
    have := Cmd.land_inj c e
    rwa [show 16 * i + j = x by omega]

theorem Core.acsAt_mmaSum_other (h : Cmd.acol c ≤ 112) {row col : Nat} (hcol : col < 128)
    (ho : ∀ i j, i < 16 → j < 16 → Cmd.land c i j ≠ (row, col)) : (m.mmaSum c t zero).acsAt row col = m.acsAt row col := by
  rw [Core.mmaSum_eq]
  refine Core.acsAt_updated_other hcol m (StepArgs.onElems_land h) fun x hx => ho _ _ ?_ (Nat.mod_lt _ (by decide))
  have hx' : x < 256 := List.mem_range.mp (List.mem_filter.mp hx).1
  omega

end
end Sys2Proof.Machine

namespace Sys2Proof.Machine

/-! ## A step before its operands (R365, R366) -/

/-- Core `n`'s matrix engine runs the MMA `c`, which has begun. -/
structure State.mmaRuns (s : State) (n : Nat) (c : QCmd) : Prop where
  head : s.headCmd (queueKey n 0 0) = some c
  op : Cmd.op c.c = 1
  on : (s.prog (queueKey n 0 0)).on = true
  halt : (s.queue (queueKey n 0 0)).halt = false
  fault : (s.queue (queueKey n 0 0)).fault = none
  runs : s.engRuns (queueKey n 0 0) = true

theorem exec_mma_begins {s : State} {w : Cmd} {c : QCmd} (hc : s.heads c) (hon : (s.prog s.curQ).on = false)
    (hok : mmaOk (s.core (qName s.curQ)).kggeo c = true) :
    exec (.mma w) s = .next (s.setProg s.curQ { resetProg with on := true, u := c.pass0 * Cmd.steps c.c }) := by
  refine congrArg Host.Outcome.next ?_
  dsimp only
  rw [if_neg (by rw [hon]; decide)]
  exact State.checked_heads _ hc hok

section
variable {s : State} {n : Nat} {c : QCmd}

/-- What a move of a running MMA is: the end of its step, its own end, or its next step. -/
theorem exec_mmaStep (h : s.mmaRuns n c) : let q := queueKey n 0 0
    let p := s.prog q
    exec (.mmaStep n) s = .next (if p.k = 1 then s.mmaForward q c p.u
      else if p.u ≥ c.passEnd * Cmd.steps c.c then s.cmdDone q c 0 else s.mmaStepAt q c p.u) := by
  obtain ⟨hh, hop, hon, hhalt, hfault, hrun⟩ := h
  refine congrArg Host.Outcome.next ?_
  dsimp only
  rw [hh]
  dsimp only
  rw [if_neg (by simp [hop, hon, hhalt, hfault, hrun])]

end

section
variable {s : State} {q : Nat} {c : QCmd} {u : Nat}

theorem State.passCheck_agrees (h : u % Cmd.steps c.c = 0 → (s.prog q).m ≠ u + 1 →
    s.passMismatch q c.c ((List.range (Cmd.steps c.c)).map (· + u)) = 0) : s.passCheck q c u = 0 := by
  unfold State.passCheck
  split
  next he =>
    simp only [Bool.and_eq_true, decide_eq_true_eq] at he
    exact h he.1 he.2
  · rfl

/-- Progress put back changes no command, and no halt. -/
theorem State.lrxFirst_setProg (s : State) (r q ord slot : Nat) (p : Prog) : (s.setProg r p).lrxFirst q ord slot = s.lrxFirst q ord slot := by
  unfold State.lrxFirst
  refine congrArg (List.any _) (funext fun i => ?_)
  by_cases h : queueKey (4 * nQuad (qName q)) 2 i = r
  · rw [h, State.setProg, State.queue_setQueue]
  · rw [State.setProg, State.queue_setQueue_ne _ _ _ _ h]

theorem State.mmaWaits_setProg (s : State) (r q : Nat) (c : QCmd) (u : Nat) (p : Prog) : (s.setProg r p).mmaWaits q c u = s.mmaWaits q c u := by
  unfold State.mmaWaits
  dsimp only
  rw [State.lrxFirst_setProg]
  rfl

/-- A disagreement of A's tags has nothing to do with B's (R366). -/
theorem State.stepMismatch_eq_one {s : State} {q : Nat} {c : Cmd} {ab bb : List Nat} : s.stepMismatch q c ab bb = 1 ↔
    bitAt c.w0 5 = false ∧ Cmd.fa c = 6 ∧ s.tagsAgree q (Cmd.aswz c) ab = false := by
  unfold State.stepMismatch
  by_cases h5 : bitAt c.w0 5 = true
  · simp [h5]
  by_cases ha : Cmd.fa c = 6 ∧ s.tagsAgree q (Cmd.aswz c) ab = false
  · simp [h5, ha]
  · rw [if_neg h5, if_neg (by simpa using ha)]
    refine iff_of_false ?_ fun h => ha h.2
    split
    · split
      · split <;> decide
      · decide
    · split <;> decide

/-- Where A is in no formatted blocks, none of its tags is compared at the step. -/
theorem State.stepMismatch_plain (s : State) (q : Nat) (c : Cmd) (ab ab' bb : List Nat) (h : Cmd.fa c ≠ 6) :
    s.stepMismatch q c ab bb = s.stepMismatch q c ab' bb := by
  simp [State.stepMismatch, h]

/-- The blocks of B that step `u` compares: those it reads for it, of formatted blocks, else those of its place. -/
def Cmd.bBlocks (c : Cmd) (u : Nat) (bb : List Nat) : List Nat :=
  if Cmd.fb c = 6 ∧ Cmd.bsrc c ≠ 2 then bb else tileBlocks (Cmd.fb c) (Cmd.bBase c u) (Cmd.ldb c)

/-- The comparison at a step whose formatted operands can be read (R366). -/
theorem State.stepTags_compares {a b : List (Fp × Bool)} {ab bb : List Nat} (hn : (s.prog q).n ≠ u + 1)
    (ha : Cmd.fa c.c = 6 → s.operand q (Cmd.fa c.c) (Cmd.aBase c.c u) (Cmd.lda c.c) (Cmd.aswz c.c) 0x40000 = .ok (a, ab))
    (hb : Cmd.fb c.c = 6 → Cmd.bsrc c.c ≠ 2 → s.bOperand q c.c u = .ok (b, bb)) :
    s.stepTags q c u = .ok (s.stepMismatch q c.c ab (Cmd.bBlocks c.c u bb)) := by
  obtain ⟨va, al, hva, hal⟩ : ∃ va al, (if Cmd.fa c.c = 6 then s.operandOr q c u 0 ((s.prog q).i == 1)
      (s.operand q (Cmd.fa c.c) (Cmd.aBase c.c u) (Cmd.lda c.c) (Cmd.aswz c.c) 0x40000) else .ok ([], [])) = .ok (va, al) ∧
        ∀ bl, s.stepMismatch q c.c al bl = s.stepMismatch q c.c ab bl := by
    by_cases h6 : Cmd.fa c.c = 6
    · rw [if_pos h6, ha h6]
      exact ⟨a, ab, rfl, fun _ => rfl⟩
    · rw [if_neg h6]
      exact ⟨[], [], rfl, fun bl => s.stepMismatch_plain q c.c [] ab bl h6⟩
  obtain ⟨vb, hvb⟩ : ∃ vb, (if (decide (Cmd.fb c.c = 6) && decide (Cmd.bsrc c.c ≠ 2)) = true then
      s.operandOr q c u 1 ((s.prog q).j == 1) (s.bOperand q c.c u)
      else .ok ([], tileBlocks (Cmd.fb c.c) (Cmd.bBase c.c u) (Cmd.ldb c.c))) = .ok (vb, Cmd.bBlocks c.c u bb) := by
    unfold Cmd.bBlocks
    by_cases h6 : Cmd.fb c.c = 6 ∧ Cmd.bsrc c.c ≠ 2
    · rw [if_pos (by simpa using h6), if_pos h6, hb h6.1 h6.2]
      exact ⟨b, rfl⟩
    · rw [if_neg (by simpa using h6), if_neg h6]
      exact ⟨[], rfl⟩
  unfold State.stepTags
  dsimp only
  rw [if_neg hn, hva]
  dsimp only
  by_cases h1 : s.stepMismatch q c.c al [] = 1
  · rw [if_pos h1, ← hal, State.stepMismatch_eq_one.mpr (State.stepMismatch_eq_one.mp h1)]
  · rw [if_neg h1, hvb]
    dsimp only
    rw [hal]

/-- The comparison of a step is made once. -/
theorem State.stepTags_once (h : (s.prog q).n = u + 1) : s.stepTags q c u = .ok 0 := by
  unfold State.stepTags
  exact if_pos h

/-- The grain of a step that has drawn it, or draws it now (R365). -/
theorem State.stepGrain_draws {p : Prog} (hp : s.prog q = p)
    (hg : p.k = 2 ∨ (s.grain (nField (qName q)) (coreUnit (qName q) 0) c.ref).2 = true) :
    ∃ v m, s.stepGrain q c u = .ok v ∧ s.Drawn v q { p with n := m, k := 2 } := by
  unfold State.stepGrain
  dsimp only
  rw [hp]
  by_cases hk : p.k = 2
  · rw [if_pos hk]
    exact ⟨s, p.n, rfl, ⟨_, _, rfl⟩, by rw [hp, ← hk]⟩
  · rw [if_neg hk]
    have hg' : ((s.setProg q { p with n := u + 1 }).grain (nField (qName q)) (coreUnit (qName q) 0) c.ref).2 = true := hg.resolve_left hk
    rw [if_pos hg']
    refine ⟨_, u + 1, rfl, ⟨_, _, rfl⟩, ?_⟩
    have hq : (((s.setProg q { p with n := u + 1 }).grain (nField (qName q)) (coreUnit (qName q) 0) c.ref).1).prog q = { p with n := u + 1 } :=
      State.prog_setProg ..
    rw [State.prog_setProg, hq]

/-- The progress of an MMA whose step `u` has been compared with the others of its pass. -/
def State.passed (s : State) (q u : Nat) : State := s.setProg q { s.prog q with m := u + 1 }

/-- Nothing holds back step `u` before its blocks are compared: its pass agrees, its slot and latch tile are there, and the tile is of B's
format. -/
structure State.mmaReady (s : State) (q : Nat) (c : QCmd) (u : Nat) : Prop where
  agrees : s.passCheck q c u = 0
  waits : s.mmaWaits q c u = false
  format : Cmd.bsrc c.c = 2 → ∀ x ∈ (s.core (qName q)).latch.take 1, x.fmt = Cmd.fb c.c

theorem State.mmaReady.sameFormat (h : s.mmaReady q c u) :
    ¬((decide (Cmd.bsrc c.c = 2) && ((s.core (qName q)).latch.take 1).any fun t => t.fmt != Cmd.fb c.c) = true) := by
  simp only [Bool.and_eq_true, decide_eq_true_eq, List.any_eq_true, bne_iff_ne, not_and, not_exists, not_not]
  exact fun h2 x hx => h.format h2 x hx

/-- A step whose slot, latch tile or blocks bear other tags than the command names stops it (R366). -/
theorem State.mmaStepAt_mismatch {bad : Nat} (h : s.mmaReady q c u) (ht : (s.passed q u).stepTags q c u = .ok bad) (hb : bad ≠ 0) :
    s.mmaStepAt q c u = (s.passed q u).cmdTrap q c 2 bad := by
  unfold State.mmaStepAt
  dsimp only
  rw [if_neg (by simp [h.agrees]), ← State.passed, State.passed, State.mmaWaits_setProg, if_neg (by simp [h.waits]), ← State.passed]
  refine (if_neg h.sameFormat).trans ?_
  rw [ht]
  exact if_pos hb

/-- A step that agrees, and whose grain and operands are there, forms its sums (R365). -/
theorem State.mmaStepAt_sums {v : State} {a b : List (Fp × Bool)} {ab bb : List Nat} (h : s.mmaReady q c u)
    (ht : (s.passed q u).stepTags q c u = .ok 0) (hg : (s.passed q u).stepGrain q c u = .ok v)
    (ha : v.operand q (Cmd.fa c.c) (Cmd.aBase c.c u) (Cmd.lda c.c) (Cmd.aswz c.c) 0x40000 = .ok (a, ab))
    (hb : v.bOperand q c.c u = .ok (b, bb)) : s.mmaStepAt q c u = v.mmaSums q c u a b bb := by
  have hread : ∀ k dead (x : List (Fp × Bool) × List Nat), v.operandOr q c u k dead (.ok x) = .ok x := fun _ _ _ => rfl
  unfold State.mmaStepAt
  dsimp only
  rw [if_neg (by simp [h.agrees]), ← State.passed, State.passed, State.mmaWaits_setProg, if_neg (by simp [h.waits]), ← State.passed]
  refine (if_neg h.sameFormat).trans ?_
  rw [ht]
  dsimp only
  rw [if_neg (by simp), hg]
  dsimp only
  rw [ha, hread]
  dsimp only
  rw [hb, hread]

/-! ## The sums of a step, and what follows them (R134, R136, R365) -/

theorem State.tileTag_congr {s t : State} {c : Cmd} (hl : (t.core (qName q)).latch = (s.core (qName q)).latch) (hz : t.swz = s.swz)
    (bb : List Nat) : t.tileTag q c bb = s.tileTag q c bb := by
  simp only [State.tileTag, State.mCore, State.tagAt, hl, hz]

section
variable (s : State) (q : Nat) (c : Cmd) (u : Nat) (b : List (Fp × Bool)) (bb : List Nat)

/-- The state once the slot that a step waited for is consumed (R125). -/
def State.slotUsed : State :=
  if Cmd.trg c = 1 then s.setQuad (nQuad (qName q)) ((s.quad (nQuad (qName q))).consume (Cmd.slotOf c u) (bitAt c.w0 6)) else s

theorem State.slotUsed_core (n : Nat) : (s.slotUsed q c u).core n = s.core n := by
  unfold State.slotUsed
  split <;> rfl

theorem State.slotUsed_mem : (s.slotUsed q c u).mem = s.mem := by
  unfold State.slotUsed
  split <;> rfl

theorem State.slotUsed_quad : (s.slotUsed q c u).quad (nQuad (qName q)) = if Cmd.trg c = 1 then
    (s.quad (nQuad (qName q))).consume (Cmd.slotOf c u) (bitAt c.w0 6) else s.quad (nQuad (qName q)) := by
  unfold State.slotUsed
  split
  · rw [State.quad_setQuad]
  · rfl

/-- What is left of the latch once a step has taken its tile (R124). -/
def Core.latchLeft (m : Core) (c : Cmd) : List Tile := if Cmd.bsrc c = 2 then m.latch.drop 1 else m.latch

/-- The core once its latch has moved on and the tile stands to be forwarded, if it forwards (R124). -/
def Core.passedOn (m : Core) (c : Cmd) (tile : Tile) : Core :=
  { m with latch := m.latchLeft c, fwd := (m.forwardTo.map fun next => (next, tile)).or m.fwd }

/-- After the sums of a step its slot is consumed, its latch moves on, and B stands to be forwarded (R124, R365). -/
theorem State.mmaRelease_eq : s.mmaRelease q c u b bb =
    (s.slotUsed q c u).setCore (qName q) ((s.core (qName q)).passedOn c ⟨Cmd.fb c, s.tileTag q c bb, b⟩) := by
  have hm : (s.slotUsed q c u).mCore q = s.core (qName q) := s.slotUsed_core q c u _
  have hl : (if Cmd.bsrc c = 2 then { s.core (qName q) with latch := (s.core (qName q)).latch.drop 1 } else s.core (qName q)) =
      { s.core (qName q) with latch := (s.core (qName q)).latchLeft c } := by
    unfold Core.latchLeft
    split <;> rfl
  unfold State.mmaRelease
  dsimp only
  rw [← State.slotUsed, hm, hl, State.setMCore, Core.passedOn]
  congr 1
  have hf : Core.forwardTo { s.core (qName q) with latch := (s.core (qName q)).latchLeft c } = (s.core (qName q)).forwardTo := rfl
  rw [hf]
  cases (s.core (qName q)).forwardTo <;> rfl

end

/-- The core of a step whose operands are clean: its sums, and its rows marked as poisoned where the residue check finds them wrong. -/
def State.summedCore (s : State) (q : Nat) (c : QCmd) (u : Nat) (x : StepArgs) : Core :=
  let m := (s.core (qName q)).mmaSum c.c x (bitAt c.c.w0 0 && u == 0)
  if s.residueWrong c.c x then m.setRows ((List.range 16).map (Cmd.arow c.c + ·)) true else m

/-- The state of a step whose operands are clean, once its sums are done. -/
def State.summed (s : State) (q : Nat) (c : QCmd) (u : Nat) (x : StepArgs) (b : List (Fp × Bool)) (bb : List Nat) : State :=
  let t := (s.setCore (qName q) (s.summedCore q c u x)).mmaRelease q c.c u b bb
  t.setProg q { t.prog q with k := 1, mode := if s.residueWrong c.c x then 3 else 0 }

theorem State.mmaSums_clean {a b : List (Fp × Bool)} {bb : List Nat} :
    let x := stepArgs c.c (s.core (qName q)).kggeo u a b (s.bandScales q c.c)
    x.badRows = [] → x.badB = false → s.mmaSums q c u a b bb = (s.summed q c u x b bb).mmaForward q c u := by
  intro x hr hb
  have hmark : ∀ m : Core, m.markRows c.c x = m := fun m => by simp [Core.markRows, hr, hb]
  have hrows : ∀ m : Core, (List.range 16).foldl (fun m i => m.setRowPoison (Cmd.arow c.c + i) true) m =
      m.setRows ((List.range 16).map (Cmd.arow c.c + ·)) true := fun m => by rw [Core.setRows, List.foldl_map]
  unfold State.mmaSums State.summed State.summedCore
  dsimp only
  rw [State.mCore, hmark, hrows, hr, hb]
  rfl

/-! ### What the sums leave -/

section
variable (m : Core) (l : List Nat) (p : Bool)

@[simp] theorem Core.setRows_acs : (m.setRows l p).acs = m.acs := by rw [Core.setRows_eq]
@[simp] theorem Core.setRows_latch : (m.setRows l p).latch = m.latch := by rw [Core.setRows_eq]
@[simp] theorem Core.setRows_fwd : (m.setRows l p).fwd = m.fwd := by rw [Core.setRows_eq]
@[simp] theorem Core.setRows_ring : (m.setRows l p).ring = m.ring := by rw [Core.setRows_eq]

end

section
variable (m : Core) (c : Cmd) (t : StepArgs) (zero : Bool)

/-- Sums change elements of the store alone. -/
theorem Core.mmaSum_others : m.mmaSum c t zero = { m with acs := (m.mmaSum c t zero).acs } := by
  rw [Core.mmaSum_eq]
  exact Core.updated_eq m

@[simp] theorem Core.mmaSum_kap : (m.mmaSum c t zero).kap = m.kap := by rw [Core.mmaSum_others]
@[simp] theorem Core.mmaSum_latch : (m.mmaSum c t zero).latch = m.latch := by rw [Core.mmaSum_others]
@[simp] theorem Core.mmaSum_fwd : (m.mmaSum c t zero).fwd = m.fwd := by rw [Core.mmaSum_others]
@[simp] theorem Core.mmaSum_ring : (m.mmaSum c t zero).ring = m.ring := by rw [Core.mmaSum_others]

end

section
variable (s : State) (q : Nat) (c : QCmd) (u : Nat) (x : StepArgs)

theorem State.summedCore_acs :
    (s.summedCore q c u x).acs = ((s.core (qName q)).mmaSum c.c x (bitAt c.c.w0 0 && u == 0)).acs := by
  unfold State.summedCore
  dsimp only
  split
  · rw [Core.setRows_acs]
  · rfl

theorem State.summedCore_latch : (s.summedCore q c u x).latch = (s.core (qName q)).latch := by
  unfold State.summedCore
  dsimp only
  split <;> simp

theorem State.summedCore_fwd : (s.summedCore q c u x).fwd = (s.core (qName q)).fwd := by
  unfold State.summedCore
  dsimp only
  split <;> simp

theorem State.summedCore_forwardTo : (s.summedCore q c u x).forwardTo = (s.core (qName q)).forwardTo := by
  have hr : (s.summedCore q c u x).ring = (s.core (qName q)).ring := by
    unfold State.summedCore
    dsimp only
    split <;> simp
  rw [Core.forwardTo, hr, Core.forwardTo]

end

/-- The rows of a tile that the residue check finds wrong are poisoned (R136). -/
theorem State.summedCore_kap (s : State) (q : Nat) (c : QCmd) (u : Nat) (x : StepArgs) {row : Nat} (h : row < 128) :
    (s.summedCore q c u x).kap.getLsbD row = ((s.core (qName q)).kap.getLsbD row ||
      (s.residueWrong c.c x && decide (Cmd.arow c.c ≤ row ∧ row < Cmd.arow c.c + 16))) := by
  have hmem : row ∈ (List.range 16).map (Cmd.arow c.c + ·) ↔ Cmd.arow c.c ≤ row ∧ row < Cmd.arow c.c + 16 := by
    simp only [List.mem_map, List.mem_range]
    exact ⟨fun ⟨i, hi, e⟩ => by omega, fun hr => ⟨row - Cmd.arow c.c, by omega, by omega⟩⟩
  unfold State.summedCore
  dsimp only
  split
  next hw =>
    rw [Core.setRows_getLsbD _ _ h, Core.mmaSum_kap, hw]
    by_cases hr : Cmd.arow c.c ≤ row ∧ row < Cmd.arow c.c + 16
    · rw [if_pos (hmem.mpr hr)]; simp [hr]
    · rw [if_neg (hr ∘ hmem.mp)]; simp [hr]
  next hw => simp [hw]

section
variable (s : State) (q : Nat) (c : QCmd) (u : Nat) (x : StepArgs) (b : List (Fp × Bool)) (bb : List Nat)

theorem State.summed_core : (s.summed q c u x b bb).core (qName q) =
    (s.summedCore q c u x).passedOn c.c ⟨Cmd.fb c.c, s.tileTag q c.c bb, b⟩ := by
  have htag : (s.setCore (qName q) (s.summedCore q c u x)).tileTag q c.c bb = s.tileTag q c.c bb := by
    refine State.tileTag_congr ?_ ?_ bb
    · rw [State.core_setCore, s.summedCore_latch]
    · rfl
  unfold State.summed
  dsimp only
  rw [State.core_setProg, State.mmaRelease_eq, State.core_setCore, State.core_setCore, htag]

theorem State.summed_quad : (s.summed q c u x b bb).quad (nQuad (qName q)) = if Cmd.trg c.c = 1 then
    (s.quad (nQuad (qName q))).consume (Cmd.slotOf c.c u) (bitAt c.c.w0 6) else s.quad (nQuad (qName q)) := by
  unfold State.summed
  dsimp only
  rw [State.mmaRelease_eq]
  exact State.slotUsed_quad (s.setCore (qName q) (s.summedCore q c u x)) q c.c u

theorem State.summed_mem : (s.summed q c u x b bb).mem = s.mem := by
  unfold State.summed
  dsimp only
  rw [State.mmaRelease_eq]
  exact State.slotUsed_mem (s.setCore (qName q) (s.summedCore q c u x)) q c.c u

end

/-! ## The end of a step (R124, R136) -/

/-- A tile that the next latch has no room for is kept, and the step with it. -/
theorem State.mmaForward_waits {x : Nat × Tile} (hx : (s.core (qName q)).fwd = some x) (hr : s.latchRoom x.1 = false) :
    s.mmaForward q c u = s := by
  unfold State.mmaForward
  dsimp only
  rw [State.mCore, if_pos (by rw [hx]; simp [hr])]

/-- The state once B has gone to the next latch. -/
def State.forwarded (s : State) (q : Nat) : State :=
  (s.setCore (qName q) { s.core (qName q) with sent := (s.core (qName q)).sent ++ (s.core (qName q)).fwd.toList, fwd := none }).setProg q
    { s.prog q with k := 0, mode := 0 }

theorem State.room_any {f : Option (Nat × Tile)} (h : ∀ x, f = some x → s.latchRoom x.1 = true) :
    ¬(f.any (fun x => !s.latchRoom x.1) = true) := by
  cases f with
  | none => simp
  | some x => simp [h x rfl]

theorem State.mmaForward_next (hr : ∀ x, (s.core (qName q)).fwd = some x → s.latchRoom x.1 = true) (hm : (s.prog q).mode = 0) :
    s.mmaForward q c u = (s.forwarded q).setProg q { s.prog q with k := 0, mode := 0, u := u + 1, i := 0, j := 0 } := by
  unfold State.mmaForward
  dsimp only
  rw [State.mCore, if_neg (State.room_any hr), hm]
  rw [State.prog_setProg]
  rfl

theorem State.mmaForward_stops (hr : ∀ x, (s.core (qName q)).fwd = some x → s.latchRoom x.1 = true) (hm : (s.prog q).mode = 3) :
    s.mmaForward q c u = (s.forwarded q).poisonStop q c u 2 (w64 (Cmd.aBase c.c u)) := by
  unfold State.mmaForward
  dsimp only
  rw [State.mCore, if_neg (State.room_any hr), hm]
  rfl

end

/-! ## MMA -/

section
variable {s : State} {q : Nat} {c : QCmd} {u : Nat}

theorem State.passed_eq : s.passed q u = s.withDraws (s.passed q u).queues s.fields := rfl

theorem State.prog_passed : (s.passed q u).prog q = { s.prog q with m := u + 1 } := State.prog_setProg ..

/-- A step in no formatted blocks whose slot or tile bears other tags than the command names stops it, unread (R366). -/
theorem State.mmaStepAt_plain {bad : Nat} (h : s.mmaReady q c u) (ha : Cmd.fa c.c ≠ 6) (hb : Cmd.fb c.c ≠ 6 ∨ Cmd.bsrc c.c = 2)
    (hn : (s.prog q).n ≠ u + 1)
    (hm : s.stepMismatch q c.c [] (tileBlocks (Cmd.fb c.c) (Cmd.bBase c.c u) (Cmd.ldb c.c)) = bad) (hbad : bad ≠ 0) :
    s.mmaStepAt q c u = (s.passed q u).cmdTrap q c 2 bad := by
  have hblocks : Cmd.bBlocks c.c u [] = tileBlocks (Cmd.fb c.c) (Cmd.bBase c.c u) (Cmd.ldb c.c) := if_neg (by tauto)
  refine State.mmaStepAt_mismatch h ?_ hbad
  rw [State.stepTags_compares (a := []) (b := []) (ab := []) (bb := []) (by rw [State.prog_passed]; exact hn) (by tauto) (by tauto), hblocks, ← hm]
  rfl

/-- A step whose operands are clean and whose tags agree does its sums, with its grain drawn (R365). -/
theorem State.mmaStepAt_clean {a b : List (Fp × Bool)} {ab bb : List Nat} (h : s.mmaReady q c u)
    (ha : s.operand q (Cmd.fa c.c) (Cmd.aBase c.c u) (Cmd.lda c.c) (Cmd.aswz c.c) 0x40000 = .ok (a, ab)) (hb : s.bOperand q c.c u = .ok (b, bb))
    (ht : (s.prog q).n ≠ u + 1 → s.stepMismatch q c.c ab (Cmd.bBlocks c.c u bb) = 0)
    (hg : (s.prog q).k = 2 ∨ (s.grain (nField (qName q)) (coreUnit (qName q) 0) c.ref).2 = true) :
    let x := stepArgs c.c (s.core (qName q)).kggeo u a b (s.bandScales q c.c)
    x.badRows = [] → x.badB = false →
      ∃ e f, s.mmaStepAt q c u = ((s.withDraws e f).summed q c u x b bb).mmaForward q c u := by
  intro x hr hbad
  have htags : (s.passed q u).stepTags q c u = .ok 0 := by
    by_cases hn : (s.prog q).n = u + 1
    · exact State.stepTags_once (by rw [State.prog_passed]; exact hn)
    · rw [State.passed_eq, State.stepTags_compares (a := a) (b := b) (ab := ab) (bb := bb), State.stepMismatch_withDraws, ht hn]
      · rw [← State.passed_eq, State.prog_passed]; exact hn
      · rw [State.operand_withDraws]; exact fun _ => ha
      · rw [State.bOperand_withDraws]; exact fun _ _ => hb
  obtain ⟨_, m, hgrain, ⟨e, f, rfl⟩, -⟩ := State.stepGrain_draws (c := c) (u := u) State.prog_passed hg
  have hv : (s.passed q u).withDraws e f = s.withDraws e f := rfl
  rw [hv] at hgrain
  refine ⟨e, f, (State.mmaStepAt_sums h htags hgrain (by rw [State.operand_withDraws]; exact ha)
    (by rw [State.bOperand_withDraws]; exact hb)).trans ?_⟩
  have hx : stepArgs c.c ((s.withDraws e f).core (qName q)).kggeo u a b ((s.withDraws e f).bandScales q c.c) = x := by
    rw [State.bandScales_withDraws]
    rfl
  rw [State.mmaSums_clean (by rw [hx]; exact hr) (by rw [hx]; exact hbad), hx]

end

section
variable (s : State) (q : Nat) (c : QCmd) (u : Nat) (x : StepArgs) (b : List (Fp × Bool)) (bb : List Nat)

theorem State.summed_prog : ((s.summed q c u x b bb).prog q).k = 1 ∧
    ((s.summed q c u x b bb).prog q).mode = if s.residueWrong c.c x then 3 else 0 := by
  unfold State.summed
  dsimp only
  rw [State.prog_setProg]
  exact ⟨rfl, rfl⟩

theorem State.summed_fwd (h : (s.core (qName q)).fwd = none) : ((s.summed q c u x b bb).core (qName q)).fwd =
    (s.core (qName q)).forwardTo.map fun next => (next, ⟨Cmd.fb c.c, s.tileTag q c.c bb, b⟩) := by
  rw [State.summed_core, Core.passedOn, State.summedCore_forwardTo, State.summedCore_fwd, h, Option.or_none]

theorem State.summed_acsAt (row col : Nat) : ((s.summed q c u x b bb).core (qName q)).acsAt row col =
    ((s.core (qName q)).mmaSum c.c x (bitAt c.c.w0 0 && u == 0)).acsAt row col := by
  rw [State.summed_core]
  simp only [Core.acsAt, Core.passedOn, State.summedCore_acs]

end

section
variable {n : Nat}

theorem mmaSteps_begins {s : State} {c : QCmd} (hq : s.curQ = queueKey n 0 0) (hn : qName (queueKey n 0 0) = n) (hc : s.heads c)
    (hon : (s.prog (queueKey n 0 0)).on = false) (hok : mmaOk (s.core n).kggeo c = true) (w : Cmd) :
    exec (.mma w) s = .next (s.setProg (queueKey n 0 0) { resetProg with on := true, u := c.pass0 * Cmd.steps c.c }) := by
  rw [← hq] at hn hon ⊢
  exact exec_mma_begins hc hon (by rw [hn]; exact hok)

end

/-- Settles O22: an MMA from its beginning to its end. -/
theorem mmaSteps : Obligations.MmaSteps := by
  intro s w c n q p m
  refine ⟨fun hq hc hon hok hn => mmaSteps_begins hq hn hc hon hok w, fun hn hh hop hon hhalt hfault hrun hk hfwd => ?step,
    fun hn hh hop hon hhalt hfault hrun hk => ?forward⟩
  case step =>
    have hstep := (exec_mmaStep ⟨hh, hop, hon, hhalt, hfault, hrun⟩).trans (congrArg _ (if_neg hk))
    have hat : p.u < c.passEnd * Cmd.steps c.c → exec (.mmaStep n) s = .next (s.mmaStepAt q c p.u) := fun hu =>
      hstep.trans (congrArg _ (if_neg (Nat.not_le.mpr hu)))
    have hcore : s.core (qName q) = m := by rw [hn]
    have ready {u : Nat} (hp : u % Cmd.steps c.c = 0 → p.m ≠ u + 1 →
          s.passMismatch q c.c ((List.range (Cmd.steps c.c)).map (· + u)) = 0)
        (hw : s.mmaWaits q c u = false) (hf : Cmd.bsrc c.c = 2 → ∀ x ∈ m.latch.take 1, x.fmt = Cmd.fb c.c) : s.mmaReady q c u :=
      ⟨State.passCheck_agrees hp, hw, hcore ▸ hf⟩
    refine ⟨fun hu => hstep.trans (congrArg _ (if_pos hu)), ?_, ?_⟩
    · rintro _ hu rfl hp hw hf - ha hb hpn hm
      exact (hat hu).trans (congrArg _ (State.mmaStepAt_plain (ready hp hw hf) ha hb hpn hm (by decide)))
    · intro a ab b bb hu hok _ _ _ hp hw hf ha hb ht hg
      dsimp only
      rw [← hcore] at hok hfwd ⊢
      intro hr hbad
      obtain ⟨e, f, hsums⟩ := State.mmaStepAt_clean (ready hp hw hf) ha hb ht (by rw [hn]; exact hg) hr hbad
      have hcol := mmaOk_acol hok
      obtain ⟨hone, hmode⟩ := State.summed_prog (s.withDraws e f) q c p.u
        (stepArgs c.c (s.core (qName q)).kggeo p.u a b (s.bandScales q c.c)) b bb
      refine ⟨_, (hat hu).trans (congrArg _ hsums), hone, hmode, ?_⟩
      rw [← hn]
      refine ⟨State.summed_fwd _ _ _ _ _ _ _ hfwd, State.summed_quad .., State.summed_mem .., fun row hrow => ?_, fun i j hi hj => ?_,
        fun row col _ hc hother => ?_⟩
      · rw [State.summed_core]
        exact State.summedCore_kap (s.withDraws e f) q c p.u _ hrow
      · rw [State.summed_acsAt]
        exact Core.acsAt_mmaSum hcol hi hj
      · rw [State.summed_acsAt]
        exact Core.acsAt_mmaSum_other hcol hc hother
  case forward =>
    have hstep : exec (.mmaStep n) s = .next (s.mmaForward q c p.u) :=
      (exec_mmaStep ⟨hh, hop, hon, hhalt, hfault, hrun⟩).trans (congrArg _ (if_pos hk))
    have hcore : s.core (qName q) = m := by rw [hn]
    refine ⟨hstep, fun ⟨x, hx, hr⟩ => State.mmaForward_waits (hcore ▸ hx) hr, fun hr => ?_⟩
    have hv : (s.setCore n { m with sent := m.sent ++ m.fwd.toList, fwd := none }).setProg q { p with k := 0, mode := 0 } =
        s.forwarded q := by rw [State.forwarded, hcore, hn]
    rw [← hcore] at hr
    dsimp only
    rw [hv]
    exact ⟨State.mmaForward_next hr, State.mmaForward_stops hr⟩

end Sys2Proof.Machine

/-! R153, R336, R337: what the statement about a round of ERED leaves out. -/

namespace Sys2Proof.Machine

/-- Refutes O24: the contribution of the last member of its quad releases the quad's mailboxes, its own among them, and a mailbox steps its
queue's sequence number (R212, R337), so the queue is not only the one that the command has left. -/
theorem not_eredRounds : ¬ Obligations.EredRounds := by
  unfold Obligations.EredRounds
  intro h
  obtain ⟨hered, -⟩ := h soloEred
  obtain ⟨t, r, ht, -, -, hq, -⟩ := hered soloWords soloCmd ⟨0, 0⟩ soloTeam soloGroup ⟨by decide, by decide⟩ (by decide) rfl (by decide)
    (by decide) (by decide) (by decide) (by decide) (by decide) (by decide) ⟨by decide, by decide, by decide, by decide, by decide⟩
    (quadPa 0 0 0x2000) false soloEred_reaches
  have hseq : (soloEred.queue soloQ).popped.seq = 1 := by
    rw [← soloEred_seq ht]
    exact congrArg EngQ.seq hq.symm
  exact absurd hseq (by decide)

end Sys2Proof.Machine

/-! R150, R219, R233 to R235: Fareno links, their flits, keys and wavelengths. -/

namespace Sys2Proof.Machine

/-! ## A flit that arrives (R150, R233) -/

theorem shas_sput_same (l : List Nat) (n : Nat) : shas (sput l n) n = true := by
  induction l with
  | nil => simp [sput, shas]
  | cons a r ih =>
    simp only [sput]
    split
    · simp [shas, *]
    · split
      · simp [shas]
      · simp [shas, ih]

theorem le_advanceRx (next : Nat) (got : List Nat) (k : Nat) : next ≤ (advanceRx next got k).1 := by
  induction k generalizing next got with
  | zero => exact Nat.le_refl _
  | succ k ih =>
    simp only [advanceRx]
    split
    · exact Nat.le_of_succ_le (ih ..)
    · exact Nat.le_refl _

/-- A receiver that has its next flit goes on past it. -/
theorem lt_advanceRx {next : Nat} {got : List Nat} (h : shas got next = true) (k : Nat) : next < (advanceRx next got (k + 1)).1 := by
  simp only [advanceRx, h, if_true]
  exact le_advanceRx ..

section
variable (l : Link)

theorem Link.acked_eq (ack : Nat) : ∃ a, l.acked ack = { l with txAcked := a } := by
  simp only [Link.acked]
  split
  · exact ⟨_, rfl⟩
  · exact ⟨l.txAcked, rfl⟩

/-- What accepting a flit changes: the receiver's place never goes back, a flit that has come before changes nothing, and the next one takes
it on. -/
theorem Link.accept_cases (e ty : Nat) : ∃ r g d, l.accept e ty = { l with rxSeq := r, rxGot := g, dropped := d } ∧ l.rxSeq ≤ r ∧
    (e < l.rxSeq → r = l.rxSeq ∧ g = l.rxGot) ∧ (e = l.rxSeq → shas l.rxGot e = false → l.rxSeq < r) := by
  simp only [Link.accept]
  split
  next h =>
    refine ⟨l.rxSeq, l.rxGot, l.dropped, rfl, Nat.le_refl _, fun _ => ⟨rfl, rfl⟩, fun he hn => ?_⟩
    subst he
    simp [hn, replayWindow] at h
  next h =>
    refine ⟨_, _, _, rfl, le_advanceRx .., fun he => ?_, fun he _ => ?_⟩
    · simp [he] at h
    · subst he
      exact lt_advanceRx (shas_sput_same ..) 511

/-- A flit whose check succeeds ends the run of failures and adds its credits (R150). -/
theorem Link.receive_cases (e : Nat) (h : FlitHdr) : let m := l.receive e h
    m.fails = 0 ∧ m.bad = l.bad ∧ m.cred = l.cred + h.cred.toNat ∧ l.rxSeq ≤ m.rxSeq ∧
      (e = l.rxSeq → shas l.rxGot e = false → l.rxSeq < m.rxSeq) ∧ (e < l.rxSeq → m.rxSeq = l.rxSeq ∧ m.rxGot = l.rxGot) := by
  obtain ⟨a, ha⟩ := { l with fails := 0, cred := l.cred + h.cred.toNat }.acked_eq h.ack.toNat
  obtain ⟨r, g, d, hr, hle, hold, hnext⟩ := { l with fails := 0, cred := l.cred + h.cred.toNat, txAcked := a }.accept_cases e h.type.toNat
  dsimp only [Link.receive]
  rw [ha, hr]
  exact ⟨rfl, rfl, rfl, hle, hnext, hold⟩

end

/-- The flit that arrives at a link in a state. -/
def State.flit (s : State) : FlitHdr := Config.flit s.tick

/-- The extended number of that flit (R233). -/
def State.flitNo (s : State) (k : Nat) : Nat := extSeq s.flit.seq.toNat (s.linkNow k).rxSeq

/-- It names the key of its number, and its check succeeds (R150, R235). -/
def State.flitGood (s : State) (k : Nat) : Prop :=
  s.flit.kidx = (s.linkNow k).rxKey (s.flitNo k) ∧ Config.tagOk s.tick s.flit.kidx (flitNonce k 1 (s.flitNo k)) = true

section
variable {s : State} {k : Nat}

theorem exec_flitReceive_good (hup : (s.linkNow k).up = true) (hf : (s.linkNow k).fails < 8) (h : s.flitGood k) :
    exec (.flitReceive k) s = .next (s.setLink k ((s.linkNow k).receive (s.flitNo k) s.flit)) := by
  obtain ⟨hk, ht⟩ := h
  have hrun : ¬(!(s.linkNow k).up || decide ((s.linkNow k).fails ≥ 8)) = true := by simp [hup, hf]
  exact congrArg Host.Outcome.next ((if_neg hrun).trans (if_pos (by rw [Bool.and_eq_true, beq_iff_eq]; exact ⟨hk, ht⟩)))

theorem exec_flitReceive_bad (hup : (s.linkNow k).up = true) (hf : (s.linkNow k).fails < 8) (h : ¬s.flitGood k) :
    exec (.flitReceive k) s =
      .next (s.setLink k { s.linkNow k with bad := (s.linkNow k).bad + 1, fails := (s.linkNow k).fails + 1 }) := by
  have hrun : ¬(!(s.linkNow k).up || decide ((s.linkNow k).fails ≥ 8)) = true := by simp [hup, hf]
  exact congrArg Host.Outcome.next ((if_neg hrun).trans (if_neg fun hg => h (by rwa [Bool.and_eq_true, beq_iff_eq] at hg)))

/-! ## Replay, and links that go down and up (R150, R219) -/

theorem exec_flitReplay (hup : (s.linkNow k).up = true) (ha : (s.linkNow k).txAcked < (s.linkNow k).txSeq) :
    let l := s.linkNow k
    let x := Config.replay s.tick
    let e := l.txAcked + x.1 % (l.txSeq - l.txAcked)
    exec (.flitReplay k) s = .next (s.setLink k { l with rpl := l.rpl + 1, wire := some (e, l.header e x.2.1 x.2.2) }) :=
  congrArg Host.Outcome.next (if_pos (by simp [hup, ha]))

theorem exec_linkDown (hup : (s.linkNow k).up = true) (hb : 8 ≤ (s.linkNow k).fails ∨ 2 ^ 48 ≤ (s.linkNow k).sealed) :
    exec (.linkDown k) s = .next ((s.setLink k { s.linkNow k with up := false, grants := [] }).setWafer (k / 64)
      { s.wafer (k / 64) with budget := (s.wafer (k / 64)).budget + ((s.linkNow k).grants.map (·.2)).sum }) :=
  congrArg Host.Outcome.next (if_neg (by simp [hup, Link.broken, keyLimit] at hb ⊢; omega))

theorem exec_linkUp (hup : (s.link k).up = false) (hs : (s.link k).sealed < 2 ^ 48) :
    exec (.linkUp k) s = .next (s.setLink k { s.link k with up := true, fails := 0 }) :=
  congrArg Host.Outcome.next (if_neg (by simp [hup, keyLimit] at hs ⊢; omega))

/-! ## Keys (R235) -/

theorem exec_keyRolloverRequest (ha : (s.linkNow k).asked = false) (hs : 2 ^ 47 ≤ (s.linkNow k).sealed) :
    exec (.keyRolloverRequest k) s = .next (s.setLink k { s.linkNow k with asked := true }) :=
  congrArg Host.Outcome.next (if_neg (by rw [ha, Bool.false_or, decide_eq_true_eq]; exact Nat.not_lt.mpr hs))

theorem le_foldl_top (l : List Nat) (m : Nat) : m ≤ l.foldl (fun m e => max m (e + 1)) m ∧ ∀ e ∈ l, e < l.foldl (fun m e => max m (e + 1)) m := by
  induction l generalizing m with
  | nil => simp
  | cons a r ih =>
    obtain ⟨hm, hr⟩ := ih (max m (a + 1))
    simp only [List.foldl_cons, List.forall_mem_cons]
    exact ⟨by omega, by omega, hr⟩

theorem exec_keyRollover (hh : (s.linkNow k).held = none) : exec (.keyRollover k) s = .next (s.setLink k { s.linkNow k with
    kidx := !(s.linkNow k).kidx, held := some (s.linkNow k).txSeq, sealed := 0, asked := false
    rxN := (s.linkNow k).rxTop + Config.peerKey s.tick }) :=
  congrArg Host.Outcome.next (if_neg (by simp [hh]))

theorem exec_keySlotFree {n : Nat} (hh : (s.linkNow k).held = some n) (ha : n ≤ (s.linkNow k).txAcked) (ht : n + 512 ≤ (s.linkNow k).txSeq)
    (hr : (s.linkNow k).rxN ≤ (s.linkNow k).rxSeq) : exec (.keySlotFree k) s = .next (s.setLink k { s.linkNow k with held := none }) := by
  simp [exec, execKeySlotFree, hh, ha, ht, hr]

end

/-! ## Wavelengths (R234) -/

theorem leastBy_mem {key : Nat → Nat} {l : List Nat} {g : Nat} (h : leastBy key l = some g) : g ∈ l := by
  have hf : ∀ (l : List Nat) (b : Option Nat), l.foldl (fun (b : Option Nat) x => match b with
      | none => some x
      | some y => if key x < key y then some x else b) b = some g → g ∈ l ∨ b = some g := by
    intro l
    induction l with
    | nil => exact fun b h => .inr h
    | cons a r ih =>
      intro b h
      rcases ih _ h with hr | hb
      · exact .inl (List.mem_cons_of_mem _ hr)
      · cases b with
        | none => exact .inl (by simp_all)
        | some y =>
          dsimp only at hb
          split at hb
          · exact .inl (by simp_all)
          · exact .inr hb
  simpa using hf l none h

/-- Reads of the links after the links of a list are put back with other counts of queued flits. -/
theorem link_foldl_queued (load : Nat → Nat) (l : List Nat) (s : State) :
    let t := l.foldl (fun s k => s.setLink k { s.link k with qd := load k }) s
    t.mem = s.mem ∧ ∀ i, t.link i = if i ∈ l then { s.link i with qd := load i } else s.link i := by
  induction l generalizing s with
  | nil => simp
  | cons k r ih =>
    obtain ⟨hm, hl⟩ := ih (s.setLink k { s.link k with qd := load k })
    refine ⟨hm, fun i => ?_⟩
    rw [List.foldl_cons, hl i]
    by_cases hi : i = k
    · subst hi
      simp
    · simp [hi, State.link_setLink_ne]

/-- The links of a bank (R234). -/
def bankLinks (v bank : Nat) : List Nat := (List.range 4).map fun i => v * 64 + 4 * bank + i

/-- The flits queued at a link at a move (log 16). -/
def State.queued (s : State) (k : Nat) : Nat := (Config.linkLoad k s.tick).2 % 2 ^ 24

/-- A bank's links with their counts of queued flits, and the instant noted. -/
def State.surveyed (s : State) (v bank : Nat) : State :=
  (bankLinks v bank).foldl (fun t k => t.setLink k { t.link k with qd := s.queued k })
    (s.setWafer v { s.wafer v with steered := mput (s.wafer v).steered bank (s.devTime v) })

/-- One wavelength goes from a link to another. -/
def State.moveWl (s : State) (g r : Nat) : State :=
  let t := s.setLink g { s.link g with wl := (s.link g).wl - 1 }
  t.setLink r { t.link r with wl := (t.link r).wl + 1 }

theorem State.link_surveyed (s : State) (v bank i : Nat) : (s.surveyed v bank).link i =
    if i ∈ bankLinks v bank then { s.link i with qd := s.queued i } else s.link i :=
  (link_foldl_queued s.queued ..).2 i

theorem State.surveyed_mem (s : State) (v bank : Nat) : (s.surveyed v bank).mem = s.mem := (link_foldl_queued s.queued ..).1

theorem State.moveWl_mem (s : State) (g r : Nat) : (s.moveWl g r).mem = s.mem := rfl

theorem State.moveWl_qd (s : State) (g r i : Nat) : ((s.moveWl g r).link i).qd = (s.link i).qd := by
  unfold State.moveWl
  by_cases hr : i = r <;> by_cases hg : i = g <;> by_cases h : r = g <;> simp_all [State.link_setLink_ne]

theorem State.moveWl_wl (s : State) {g r : Nat} (h : g ≠ r) :
    ((s.moveWl g r).link g).wl = (s.link g).wl - 1 ∧ ((s.moveWl g r).link r).wl = (s.link r).wl + 1 := by
  unfold State.moveWl
  dsimp only
  rw [State.link_setLink_ne _ _ _ _ h, State.link_setLink, State.link_setLink, State.link_setLink_ne _ _ _ _ h.symm]
  exact ⟨rfl, rfl⟩

/-- The bank's survey is done, and then a wavelength moves where the loads of two links differ enough (R234). -/
theorem exec_wavelengthSteer {s : State} {v bank : Nat} (hb : bank < 12)
    (ht : mget (s.wafer v).steered bank 0 + 10000 ≤ s.devTime v) : exec (.wavelengthSteer v bank) s = .next (
      let u := s.surveyed v bank
      match leastBy s.queued (bankLinks v bank), leastBy (fun k => 2 ^ 24 - s.queued k) (bankLinks v bank) with
      | some g, some r => if g = r || s.queued r < 2 * s.queued g || (u.link g).wl ≤ 8 then u else u.moveWl g r
      | _, _ => u) :=
  congrArg Host.Outcome.next (if_neg (by simp [hb, ht]))

theorem wavelengthSteers {s : State} {v bank : Nat} (hb : bank < 12) (ht : mget (s.wafer v).steered bank 0 + 10000 ≤ s.devTime v) :
    ∃ t : State, exec (.wavelengthSteer v bank) s = .next t ∧ t.mem = s.mem ∧ (∀ i ∈ bankLinks v bank, (t.link i).qd = s.queued i) ∧
      ∀ g r, leastBy s.queued (bankLinks v bank) = some g → leastBy (fun k => 2 ^ 24 - s.queued k) (bankLinks v bank) = some r →
        (g ≠ r → 2 * s.queued g ≤ s.queued r → 8 < (s.link g).wl →
          (t.link g).wl = (s.link g).wl - 1 ∧ (t.link r).wl = (s.link r).wl + 1) ∧
        (s.queued r < 2 * s.queued g → ∀ i ∈ bankLinks v bank, (t.link i).wl = (s.link i).wl) := by
  have hu : ∀ i ∈ bankLinks v bank, (s.surveyed v bank).link i = { s.link i with qd := s.queued i } := fun i hi => by
    rw [State.link_surveyed, if_pos hi]
  refine ⟨_, exec_wavelengthSteer hb ht, ?_⟩
  dsimp only
  split
  next g r hg hr =>
    have hgu := hu g (leastBy_mem hg)
    have hru := hu r (leastBy_mem hr)
    rw [hg, hr, hgu]
    split
    next hc =>
      refine ⟨State.surveyed_mem .., fun i hi => by rw [hu i hi], fun g' r' eg er => ?_⟩
      obtain rfl := Option.some.inj eg
      obtain rfl := Option.some.inj er
      refine ⟨fun hne hload hwl => ?_, fun _ i hi => by rw [hu i hi]⟩
      simp only [hne, decide_false, Bool.false_or, Bool.or_eq_true, decide_eq_true_eq] at hc
      omega
    next hc =>
      refine ⟨(State.moveWl_mem ..).trans (State.surveyed_mem ..), fun i hi => by rw [State.moveWl_qd, hu i hi], fun g' r' eg er => ?_⟩
      obtain rfl := Option.some.inj eg
      obtain rfl := Option.some.inj er
      refine ⟨fun hne _ _ => ?_, fun hlow => absurd hlow fun hlow => hc (by simp [hlow])⟩
      have hw := (s.surveyed v bank).moveWl_wl hne
      rwa [hgu, hru] at hw
  next hno =>
    refine ⟨State.surveyed_mem .., fun i hi => by rw [hu i hi], fun g r eg er => absurd er ?_⟩
    exact hno g r eg

/-- Settles O32: each clause is what one event of a link does in order; whatever a link has sent more since its last move is in the link
as the move finds it. -/
theorem linksCarryFlits : Obligations.LinksCarryFlits := by
  intro s k l w
  refine ⟨fun hup hf => ?receive, fun hup ha => ?replay, exec_linkDown, exec_linkUp, exec_keyRolloverRequest, fun hh => ?rollover,
    fun n => exec_keySlotFree, fun v bank => wavelengthSteers⟩
  case receive =>
    refine ⟨exec_flitReceive_bad hup hf, fun hg => ⟨_, exec_flitReceive_good hup hf hg, ?_⟩⟩
    rw [State.link_setLink]
    exact ⟨rfl, l.receive_cases ..⟩
  case replay =>
    have hm : (Config.replay s.tick).1 % (l.txSeq - l.txAcked) < l.txSeq - l.txAcked := Nat.mod_lt _ (Nat.sub_pos_of_lt ha)
    exact ⟨_, _, Nat.le_add_right .., Nat.add_lt_of_lt_sub' hm, rfl, rfl, exec_flitReplay hup ha⟩
  case rollover =>
    obtain ⟨hle, hgot⟩ := le_foldl_top l.rxGot l.rxSeq
    exact ⟨_, hle.trans (Nat.le_add_right ..), fun e he => Nat.lt_of_lt_of_le (hgot e he) (Nat.le_add_right ..), exec_keyRollover hh⟩

end Sys2Proof.Machine

/-! R138 to R142, R353 to R357: group tables, their entries and the receive slots of members. -/

namespace Sys2Proof.Machine

/-! ## Group-table entries -/

theorem Cmd.group_lt (c : Cmd) : Cmd.group c < 2 ^ 14 := bits_lt ..

theorem groupName_wafer (q : Nat) (c : Cmd) : groupName q c / 2 ^ 14 = nWafer (qName q) := by
  have := Cmd.group_lt c
  simp only [groupName]
  omega

theorem groupName_group (q : Nat) (c : Cmd) : groupName q c % 2 ^ 14 = Cmd.group c := by
  have := Cmd.group_lt c
  simp only [groupName]
  omega

section
variable (s : State) (name : Nat) (e : Gt)

@[simp] theorem State.gt_setGt : (s.setGt name e).gt name = e := by
  simp [State.gt, State.setGt]

/-- An entry reads as in a controller that is put back with its table. -/
theorem State.gt_setCtl {k : Nat} {c : Ctl} (h : c.gt = (s.ctl k).gt) : (s.setCtl k c).gt name = s.gt name := by
  by_cases hk : gKey name = k
  · subst hk
    rw [State.gt, State.ctl_setCtl, h]
    rfl
  · rw [State.gt, State.ctl_setCtl_ne _ _ _ _ hk]
    rfl

end

/-! ## Quads changed one after another -/

/-- The quads of some keys changed by `f`, in turn. -/
def State.onQuads (s : State) (f : Quad → Quad) (ks : List Nat) : State := ks.foldl (fun s k => s.setQuad k (f (s.quad k))) s

section
variable (f : Quad → Quad) (ks : List Nat) (s : State)

theorem State.onQuads_eq : s.onQuads f ks = { s with quads := (s.onQuads f ks).quads } := by
  induction ks generalizing s with
  | nil => rfl
  | cons k r ih => exact ih _

theorem State.gt_onQuads (name : Nat) : (s.onQuads f ks).gt name = s.gt name := by
  rw [State.onQuads_eq]
  rfl

theorem State.onQuads_mem : (s.onQuads f ks).mem = s.mem := by
  rw [State.onQuads_eq]

theorem State.quad_onQuads_other {k : Nat} (h : k ∉ ks) : (s.onQuads f ks).quad k = s.quad k := by
  induction ks generalizing s with
  | nil => rfl
  | cons j r ih =>
    obtain ⟨hj, hr⟩ := not_or.mp (List.mem_cons.not.mp h)
    exact (ih _ hr).trans (State.quad_setQuad_ne _ _ _ _ hj)

theorem State.quad_onQuads_of_nodup {k : Nat} (hn : ks.Nodup) (h : k ∈ ks) : (s.onQuads f ks).quad k = f (s.quad k) := by
  induction ks generalizing s with
  | nil => cases h
  | cons j r ih =>
    obtain ⟨hj, hr⟩ := List.nodup_cons.mp hn
    rcases List.mem_cons.mp h with rfl | hk
    · exact (State.quad_onQuads_other f r _ hj).trans (State.quad_setQuad ..)
    · refine (ih _ hr hk).trans (congrArg f (State.quad_setQuad_ne _ _ _ _ fun e => hj (e ▸ hk)))

/-- Every quad of the keys is one that `f` has left. -/
theorem State.quad_onQuads_mem {k : Nat} (h : k ∈ ks) : ∃ q, (s.onQuads f ks).quad k = f q := by
  induction ks generalizing s with
  | nil => cases h
  | cons j r ih =>
    by_cases hr : k ∈ r
    · exact ih _ hr
    · obtain rfl : k = j := (List.mem_cons.mp h).resolve_right hr
      exact ⟨s.quad k, (State.quad_onQuads_other f r _ hr).trans (State.quad_setQuad ..)⟩

end

/-! ## Enrolment (R141, R354) -/

theorem exec_lgrpEnrol {s : State} {c : QCmd} (hc : s.heads c) (hok : lgrpOk 16 c = true) (w : Cmd) :
    exec (.lgrpEnrol w) s = .next (s.enrolCmd s.curQ c (groupName s.curQ c.c) (s.imageW s.curQ c.c)) :=
  congrArg _ (State.checked_heads _ hc hok)

theorem State.enrolCmd_inUse {s : State} {q name : Nat} {c : QCmd} {w0 : W64} (h : (s.gt name).v = true) :
    s.enrolCmd q c name w0 = s.cmdDone q c 0x10 := if_pos (by simp [h])

theorem noneTwice_of_nodup {l : List Nat} (h : l.Nodup) : noneTwice l = true := by
  induction l with
  | nil => rfl
  | cons a r ih =>
    obtain ⟨ha, hr⟩ := List.nodup_cons.mp h
    simp [noneTwice, ha, ih hr]

/-- The member-map entries of an image (R140). -/
def State.mapEntries (s : State) (w : Nat) (w0 : W64) : List Nat :=
  (List.range (bits w0 50 42)).map fun i => s.readNat (waferPa w (bits w0 41 0 * 64 + 4 * i)) 4

theorem State.enrolCmd_enrols {s : State} {q name : Nat} {c : QCmd} {w0 : W64} (hname : name / 2 ^ 14 = nWafer (qName q))
    (hv : (s.gt name).v = false) (hs : (s.prog q).skip = false) (hn : memBad (bits w0 50 42) = false)
    (hf : s.mapFault (name / 2 ^ 14) w0 = none)
    (hm : ∀ x ∈ s.mapEntries (name / 2 ^ 14) w0, s.memberOk (name / 2 ^ 14) (gCtl name) (bits w0 62 59) (name % 2 ^ 14) x = true)
    (hd : ((s.mapEntries (name / 2 ^ 14) w0).map (· % 2 ^ 13)).Nodup) : s.enrolCmd q c name w0 =
      (s.enrol name w0 (QCmd.part q c) c.ref ((s.mapEntries (name / 2 ^ 14) w0).map (· % 2 ^ 13))).cmdDone q c 0 := by
  have hw : s.lgrpWrite name w0 (QCmd.part q c) c.ref =
      (s.enrol name w0 (QCmd.part q c) c.ref ((s.mapEntries (name / 2 ^ 14) w0).map (· % 2 ^ 13)), 0) := by
    have hall : (s.mapEntries (name / 2 ^ 14) w0).all (s.memberOk (name / 2 ^ 14) (gCtl name) (bits w0 62 59) (name % 2 ^ 14)) = true :=
      List.all_eq_true.mpr hm
    have hbad : ¬((!(s.mapEntries (name / 2 ^ 14) w0).all (s.memberOk (name / 2 ^ 14) (gCtl name) (bits w0 62 59) (name % 2 ^ 14)) ||
        !noneTwice ((s.mapEntries (name / 2 ^ 14) w0).map (· % 2 ^ 13))) = true) := by
      rw [hall, noneTwice_of_nodup hd]
      decide
    exact (if_neg (by simp [hv, hn])).trans (if_neg hbad)
  unfold State.enrolCmd
  rw [if_neg (by simp [hv, hs, hn]), ← hname, hf, hw]

/-- The quad with a new membership, of a group from its enrolment `n` on (R141). -/
def Quad.enrolled (q : Quad) (g n : Nat) : Quad := { q with membs := q.membs ++ [⟨g, n, [], 0, 0⟩] }

theorem Quad.memb?_enrolled {q : Quad} {g : Nat} (h : q.memb? g = none) (n : Nat) :
    (q.enrolled g n).memb? g = some ⟨g, n, [], 0, 0⟩ := by
  have hf : q.membs.find? (·.group == g) = none := h
  simp [Quad.memb?, Quad.enrolled, hf]

/-- The entry that an enrolment writes. -/
def enrolledGt (s : State) (w0 : W64) (part : Nat) (ref : Option NodeRef) (quads : List Nat) : Gt :=
  { w0 := w0, sent := 0, enrol := s.serial, part := part, ref := ref, membs := quads.map fun q => ⟨q, 0⟩, since := 0, stalled := none,
    dissolve := false, turn := 0 }

theorem State.enrol_eq (s : State) (name : Nat) (w0 : W64) (part : Nat) (ref : Option NodeRef) (quads : List Nat) :
    s.enrol name w0 part ref quads =
      ({ s with serial := s.serial + 1 }.setGt name (enrolledGt s w0 part ref quads)).onQuads
        (·.enrolled (name % 2 ^ 14) s.serial) (quads.map (quadKey (name / 2 ^ 14))) := by
  rw [State.onQuads, List.foldl_map]
  rfl

theorem quadKey_inj {w : Nat} : Function.Injective (quadKey w) := fun a b h => by
  simp only [quadKey] at h
  omega

/-- Every member of a new group is enrolled, with nothing posted. -/
theorem State.enrol_spec {s : State} {name : Nat} {quads : List Nat} (w0 : W64) (part : Nat) (ref : Option NodeRef) (hd : quads.Nodup)
    (hm : ∀ x ∈ quads, (s.quad (quadKey (name / 2 ^ 14) x)).memb? (name % 2 ^ 14) = none) :
    let t := s.enrol name w0 part ref quads
    t.gt name = enrolledGt s w0 part ref quads ∧ t.mem = s.mem ∧
      ∀ x ∈ quads, (t.quad (quadKey (name / 2 ^ 14) x)).memb? (name % 2 ^ 14) = some ⟨name % 2 ^ 14, s.serial, [], 0, 0⟩ := by
  dsimp only
  rw [State.enrol_eq]
  refine ⟨(State.gt_onQuads ..).trans (State.gt_setGt ..), State.onQuads_mem .., fun x hx => ?_⟩
  rw [State.quad_onQuads_of_nodup _ _ _ (hd.map quadKey_inj) (List.mem_map_of_mem hx)]
  exact Quad.memb?_enrolled (hm x hx) _

theorem State.memb?_of_memberOk {s : State} {w m tmask g e : Nat} (h : s.memberOk w m tmask g e = true) :
    (s.quad (quadKey w (e % 2 ^ 13))).memb? g = none := by
  simp only [State.memberOk, Bool.and_eq_true, Option.isNone_iff_eq_none] at h
  exact h.2

/-! ## What a write by hardware leaves of controllers -/

/-- No controller differs between `s` and `t` but in its trace counter. -/
structure State.KeepsCtls (s t : State) : Prop where
  ctl : ∀ c, ∃ n, t.ctl c = { s.ctl c with trcSeq := n }

theorem State.KeepsCtls.of_ctls {s t : State} (h : t.ctls = s.ctls) : s.KeepsCtls t :=
  ⟨fun c => ⟨(s.ctl c).trcSeq, by rw [State.ctl, h]; rfl⟩⟩

theorem State.KeepsCtls.trans {s t u : State} (h : s.KeepsCtls t) (k : t.KeepsCtls u) : s.KeepsCtls u where
  ctl c := by
    obtain ⟨m, hm⟩ := h.ctl c
    obtain ⟨n, hn⟩ := k.ctl c
    exact ⟨n, by rw [hn, hm]⟩

theorem State.KeepsCtls.gt {s t : State} (h : s.KeepsCtls t) (name : Nat) : t.gt name = s.gt name := by
  obtain ⟨n, hn⟩ := h.ctl (gKey name)
  rw [State.gt, hn]
  rfl

theorem keepsCtls_logPiece (s : State) (w m pa len : Nat) (i : WInfo) : s.KeepsCtls (s.logPiece w m pa len i) := by
  refine State.KeepsCtls.trans ⟨fun c => ?_⟩ (.of_ctls (State.wake_ctls ..))
  by_cases hc : c = w * 64 + m
  · subst hc
    exact ⟨_, State.ctl_setCtl ..⟩
  · exact ⟨(s.ctl c).trcSeq, State.ctl_setCtl_ne _ _ _ _ hc⟩

theorem keepsCtls_logRun (w m : Nat) (i : WInfo) (k : Nat) : ∀ (s : State) (pa n : Nat), s.KeepsCtls (s.logRun w m pa n i k) := by
  induction k with
  | zero => exact fun _ _ _ => .of_ctls rfl
  | succ k ih =>
    intro s pa n
    simp only [State.logRun]
    split
    · exact .of_ctls rfl
    · exact (keepsCtls_logPiece ..).trans (ih ..)

theorem keepsCtls_trace (s : State) (pa n : Nat) (i : WInfo) : s.KeepsCtls (s.trace pa n i) := by
  simp only [State.trace]
  split
  · split
    · split
      · exact keepsCtls_logRun ..
      · exact .of_ctls rfl
    · exact .of_ctls rfl
  · exact .of_ctls rfl

theorem keepsCtls_land (s : State) (pa : Nat) (bs : List (Byte × Bool)) (i : WInfo) (rel : Option Rel) : s.KeepsCtls (s.land pa bs i rel) := by
  have hp : s.KeepsCtls (s.putRun pa bs i.tag rel) := .of_ctls rfl
  exact (hp.trans (keepsCtls_trace ..)).trans (.of_ctls ((State.spoil_ctls ..).trans (State.wake_ctls ..)))

theorem keepsCtls_mailbox (s : State) (q : Nat) (c : QCmd) (st opnd : Nat) : s.KeepsCtls (s.mailbox q c st opnd) := by
  have hq : ∀ e, s.KeepsCtls (s.setQueue q e) := fun _ => .of_ctls rfl
  unfold State.mailbox
  dsimp only
  rw [State.writeAs, natRun_sound]
  exact (hq _).trans (keepsCtls_land ..)

/-! ## Dissolution (R141, R354) -/

/-- The end of an LTX leaves the group tables. -/
theorem State.gt_endJob (s : State) (ctl : Nat) (j : Ltx) (st name : Nat) : (s.endJob ctl j st).gt name = s.gt name :=
  ((keepsCtls_mailbox ..).gt name).trans (State.gt_setCtl s name rfl)

/-- A group whose dissolution has begun is marked so. -/
theorem State.gt_unbind (s : State) (name : Nat) : (s.unbind name).gt name = { s.gt name with dissolve := true } := by
  have hjobs : ∀ (l : List Ltx) (s : State), (l.foldl (fun s j => s.endJob (gKey name) j 0x12) s).gt name = s.gt name := by
    intro l
    induction l with
    | nil => exact fun _ => rfl
    | cons j r ih => exact fun s => (ih _).trans (State.gt_endJob ..)
  exact (hjobs ..).trans (State.gt_setGt ..)

section
variable {s : State} {c : QCmd} (hc : s.heads c) (hok : lgrpOk 16 c = true) (w : Cmd)
include hc hok

theorem exec_lgrpDissolve : let name := groupName s.curQ c.c
    exec (.lgrpDissolve w) s = .next (
      if !(s.gt name).v then s.cmdDone s.curQ c 0
      else if !(s.gt name).dissolve then (s.unbind name).holdImage s.curQ (s.imageW s.curQ c.c)
      else if (s.ctl (gKey name)).flights.any fun f => f.group == name then s
      else (s.withdrawGroup name).cmdDone s.curQ c 0) :=
  congrArg _ (State.checked_heads _ hc hok)

theorem exec_lgrpDissolve_none (hv : (s.gt (groupName s.curQ c.c)).v = false) :
    exec (.lgrpDissolve w) s = .next (s.cmdDone s.curQ c 0) := by
  rw [exec_lgrpDissolve hc hok, hv]
  rfl

theorem exec_lgrpDissolve_begins (hv : (s.gt (groupName s.curQ c.c)).v = true) (hd : (s.gt (groupName s.curQ c.c)).dissolve = false) :
    exec (.lgrpDissolve w) s = .next ((s.unbind (groupName s.curQ c.c)).holdImage s.curQ (s.imageW s.curQ c.c)) := by
  rw [exec_lgrpDissolve hc hok, hv, hd]
  rfl

theorem exec_lgrpDissolve_ends (hv : (s.gt (groupName s.curQ c.c)).v = true) (hd : (s.gt (groupName s.curQ c.c)).dissolve = true)
    (hf : ∀ f ∈ (s.ctl (gKey (groupName s.curQ c.c))).flights, f.group ≠ groupName s.curQ c.c) :
    exec (.lgrpDissolve w) s = .next ((s.withdrawGroup (groupName s.curQ c.c)).cmdDone s.curQ c 0) := by
  have hn : ¬((s.ctl (gKey (groupName s.curQ c.c))).flights.any fun f => f.group == groupName s.curQ c.c) = true := by
    simpa using hf
  rw [exec_lgrpDissolve hc hok, hv, hd]
  exact congrArg Host.Outcome.next (if_neg hn)

end

/-- The quad without its membership of a group, the slots that it posted for it free (R141). -/
def Quad.withdrawn (q : Quad) (g : Nat) : Quad :=
  { q with membs := q.membs.filter (·.group != g), slots := q.slots.filter fun e => e.2 != .posted g }

theorem Quad.withdrawn_spec (q : Quad) (g : Nat) : (q.withdrawn g).memb? g = none ∧ ∀ x ∈ (q.withdrawn g).slots, x.2 ≠ .posted g := by
  simp [Quad.withdrawn, Quad.memb?]

/-- A dissolved group's entry keeps its count of blocks sent, and its members are withdrawn. -/
theorem State.withdrawGroup_spec (s : State) (name : Nat) : let t := s.withdrawGroup name
    t.gt name = { resetGt with w0 := w64 (bits (s.gt name).w0 62 0), sent := (s.gt name).sent, turn := (s.gt name).turn } ∧ t.mem = s.mem ∧
      ∀ m ∈ (s.gt name).membs, let q := t.quad (quadKey (name / 2 ^ 14) m.quad)
        q.memb? (name % 2 ^ 14) = none ∧ ∀ x ∈ q.slots, x.2 ≠ .posted (name % 2 ^ 14) := by
  have hw : s.withdrawGroup name =
      let u := s.onQuads (·.withdrawn (name % 2 ^ 14)) ((s.gt name).membs.map fun m => quadKey (name / 2 ^ 14) m.quad)
      u.setGt name { resetGt with w0 := w64 (bits (u.gt name).w0 62 0), sent := (u.gt name).sent, turn := (u.gt name).turn } := by
    rw [State.onQuads, List.foldl_map]
    rfl
  dsimp only
  rw [hw]
  dsimp only
  rw [State.gt_onQuads, State.gt_setGt]
  refine ⟨rfl, State.onQuads_mem .., fun m hm => ?_⟩
  obtain ⟨q, hq⟩ := State.quad_onQuads_mem (·.withdrawn (name % 2 ^ 14)) ((s.gt name).membs.map fun m => quadKey (name / 2 ^ 14) m.quad) s
    (List.mem_map_of_mem (f := fun m => quadKey (name / 2 ^ 14) m.quad) hm)
  have hu := q.withdrawn_spec (name % 2 ^ 14)
  rw [← hq] at hu
  exact hu

/-! ## LGRP.RD (R354) -/

theorem exec_lgrpRd {s : State} {c : QCmd} (hc : s.heads c) (hok : lgrpOk 8 c = true) (w : Cmd) {t : State}
    (hw : s.engWrite s.curQ c ⟨0, 1, w64 (localBase + Cmd.img c.c), 1, []⟩
      (natRun 8 (place ((s.gt (groupName s.curQ c.c)).sent % 2 ^ 32) 32) false) 0 = .ok t) :
    exec (.lgrpRd w) s = .next (t.cmdDone s.curQ c 0) := by
  refine (congrArg _ (State.checked_heads _ hc hok)).trans ?_
  dsimp only
  rw [hw]

/-! ## LRX (R142, R357) -/

theorem Quad.memb?_modMemb {q : Quad} {g : Nat} {m : Memb} {f : Memb → Memb} (h : q.memb? g = some m) (hf : ∀ m, (f m).group = m.group) :
    (q.modMemb g f).memb? g = some (f m) := by
  have hm : m.group = g := by simpa using List.find?_some h
  have hp : (fun x : Memb => x.group == g) ∘ (fun x => if x.group = g then f x else x) = (·.group == g) := by
    funext x
    simp only [Function.comp]
    split
    · rw [hf]
    · rfl
  rw [Quad.memb?, Quad.modMemb, List.find?_map, hp]
  rw [Quad.memb?] at h
  rw [h, Option.map_some, if_pos hm]

/-- Slots posted one after another. -/
theorem Quad.foldl_posted (g : Nat) (slots : List Nat) (q : Quad) : let t := slots.foldl (fun q i => q.setSlot i (.posted g)) q
    t.membs = q.membs ∧ ∀ i, t.slotSt i = if i ∈ slots then .posted g else q.slotSt i := by
  induction slots generalizing q with
  | nil => simp
  | cons j r ih =>
    obtain ⟨hm, hs⟩ := ih (q.setSlot j (.posted g))
    refine ⟨hm, fun i => ?_⟩
    rw [List.foldl_cons, hs i]
    by_cases hi : i = j
    · subst hi
      simp [Quad.slotSt, Quad.setSlot]
    · simp [hi, Quad.slotSt, Quad.setSlot, mget_mput_ne]

theorem Quad.post_spec {q : Quad} {g : Nat} {m : Memb} (h : q.memb? g = some m) (slots : List Nat) :
    (∀ i, (q.post g slots).slotSt i = if i ∈ slots then .posted g else q.slotSt i) ∧
      (q.post g slots).memb? g = some { m with fill := m.fill ++ slots, posted := (m.posted + slots.length) % 2 ^ 32 } := by
  obtain ⟨hm, hs⟩ := Quad.foldl_posted g slots q
  refine ⟨hs, Quad.memb?_modMemb (m := m) ?_ fun _ => rfl⟩
  rw [Quad.memb?, hm]
  exact h

section
variable {s : State} {c : QCmd} {m : Memb} (hc : s.heads c) (hok : lrxOk c = true)
  (hm : (s.quad (nQuad (qName s.curQ))).memb? (Cmd.group c.c) = some m) (w : Cmd)
include hc hok hm

theorem exec_lrx : let k := nQuad (qName s.curQ)
    let slots := (List.range 64).filter fun i => bitAt c.c.w1 i
    exec (.lrx w) s = .next (if slots.any fun i => (s.quad k).slotSt i ≠ .free then s.cmdDone s.curQ c 0x11
      else (s.setQuad k ((s.quad k).post (Cmd.group c.c) slots)).cmdDone s.curQ c 0) :=
  (congrArg _ (State.checked_heads _ hc hok)).trans (congrArg Host.Outcome.next (if_neg (by simp [hm])))

end

/-! ## The statement -/

/-- Settles O23: LGRP, LGRP.RD and LRX do what they find their group's entry and their quad to allow. -/
theorem groupTables : Obligations.GroupTables := by
  intro s w c hc q name g wf e w0 entries quads
  have hwf : name / 2 ^ 14 = wf := groupName_wafer q c.c
  have hg : name % 2 ^ 14 = g := groupName_group q c.c
  refine ⟨fun hok => ⟨fun hv => ?inUse, fun hv hs hn hf hm hd => ?enrols, exec_lgrpDissolve_none hc hok w, fun hv hd => ?begins,
    fun hv hd hf => ?ends⟩, fun hok hf pa trc hr => ?read, fun hok => ?lrx⟩
  case inUse =>
    rw [exec_lgrpEnrol hc hok, State.enrolCmd_inUse hv]
  case enrols =>
    rw [← hwf] at hf
    have hm' : ∀ x ∈ s.mapEntries (name / 2 ^ 14) w0, s.memberOk (name / 2 ^ 14) (gCtl name) (bits w0 62 59) (name % 2 ^ 14) x = true := by
      rw [hwf, hg]
      exact hm
    have hd' : ((s.mapEntries (name / 2 ^ 14) w0).map (· % 2 ^ 13)).Nodup := by
      rw [hwf]
      exact hd
    have hfree : ∀ x ∈ (s.mapEntries (name / 2 ^ 14) w0).map (· % 2 ^ 13), (s.quad (quadKey (name / 2 ^ 14) x)).memb? (name % 2 ^ 14) = none := by
      simp only [List.forall_mem_map]
      exact fun x hx => State.memb?_of_memberOk (hm' x hx)
    obtain ⟨hgt, hmem, hq⟩ := State.enrol_spec (s := s) w0 (QCmd.part q c) c.ref hd' hfree
    rw [hwf] at hgt hmem hq
    rw [hg] at hq
    refine ⟨s.enrol name w0 (QCmd.part q c) c.ref ((s.mapEntries wf w0).map (· % 2 ^ 13)), ?_, ?_⟩
    · rw [exec_lgrpEnrol hc hok, ← hwf]
      exact congrArg _ (State.enrolCmd_enrols hwf hv hs hn hf hm' hd')
    rw [hgt]
    exact ⟨rfl, rfl, rfl, hmem, hq⟩
  case begins =>
    refine ⟨_, exec_lgrpDissolve_begins hc hok w hv hd, ?_⟩
    have hgt : ((s.unbind name).holdImage q (s.imageW q c.c)).gt name = (s.unbind name).gt name := rfl
    rw [hgt, State.gt_unbind, State.holdImage, State.prog_setProg]
    exact ⟨rfl, rfl, rfl⟩
  case ends =>
    obtain ⟨hgt, hmem, hq⟩ := s.withdrawGroup_spec name
    rw [hwf, hg] at hq
    exact ⟨_, exec_lgrpDissolve_ends hc hok w hv hd hf, hgt, hmem, fun m hm _ => hq m hm⟩
  case read =>
    obtain ⟨-, hput, hview, hskip, -⟩ := hf
    have hw := State.engWrite_atOnce (bs := natRun 8 (place (e.sent % 2 ^ 32) 32) false) 0 hput hview hskip rfl (by rwa [natRun_length])
    refine ⟨_, exec_lgrpRd hc hok w hw, ?_⟩
    rw [State.setProg_mem, place, Nat.shiftLeft_eq]
  case lrx =>
    intro k slots m hm
    refine ⟨fun ⟨i, hi, hne⟩ => ?_, fun hfree => ?_⟩
    · rw [exec_lrx hc hok hm]
      exact congrArg Host.Outcome.next (if_pos (List.any_eq_true.mpr ⟨i, hi, decide_eq_true hne⟩))
    · obtain ⟨hs, hmemb⟩ := Quad.post_spec hm slots
      have hno : ¬(slots.any fun i => (s.quad k).slotSt i ≠ .free) = true := by simpa using hfree
      refine ⟨s.setQuad k ((s.quad k).post g slots), (exec_lrx hc hok hm w).trans (congrArg Host.Outcome.next (if_neg hno)), ?_⟩
      rw [State.quad_setQuad]
      exact ⟨rfl, hs, hmemb⟩

end Sys2Proof.Machine

/-! R155, R156, R327 to R330: CRED across the wafers of a pod. -/

namespace Sys2Proof.Machine

/-! ## The parts of a group -/

/-- A wafer's part put back stands in its group, which is otherwise as it was (R155). -/
theorem State.setCredW_finds {s : State} {k : Nat} {g : CredG} (h : mfind s.creds k = some g) (w : Nat) (p : CredW) :
    mfind (s.setCredW k w p).creds k = some { g with parts := mput g.parts w p } := by
  simp only [State.setCredW, h]
  exact mfind_mput_same ..

theorem State.setCredW_eq {s : State} {k : Nat} {g : CredG} (h : mfind s.creds k = some g) (w : Nat) (p : CredW) :
    s.setCredW k w p = s.setCred k { g with parts := mput g.parts w p } := by
  simp only [State.setCredW, h]

@[simp] theorem State.prog_setCredW (s : State) (k w q : Nat) (p : CredW) : (s.setCredW k w p).prog q = s.prog q := by
  unfold State.setCredW
  split <;> rfl

/-! ## A contribution (R327 to R330) -/

/-- The state in which a CRED that has drawn its grains goes on as its wafer's contribution (R328). -/
def State.credSends (s : State) (q k : Nat) (p : CredW) : State :=
  (s.setCredW k (nWafer (qName q)) { p with sender := some q }).setProg q (s.prog q)

/-- What a CRED does with its vector: it gives it to the home slot of a group at the memory edge, and to the switch else (R329, R330). -/
def State.credGives (s : State) (q : Nat) (c : QCmd) (k : Nat) (g : CredG) (p : CredW) (bs : List (Byte × Bool)) : State :=
  match g.slot with
  | some sl => if g.placement = 0 then s.credEdge q c k g p sl bs else s.credSwitch q c k g p bs
  | none => s.credSwitch q c k g p bs

theorem State.credGives_switch {g : CredG} (h : g.placement ≠ 0) (s : State) (q : Nat) (c : QCmd) (k : Nat) (p : CredW)
    (bs : List (Byte × Bool)) : s.credGives q c k g p bs = s.credSwitch q c k g p bs := by
  unfold State.credGives
  split
  · exact if_neg h
  · rfl

theorem State.credGives_edge {g : CredG} {sl : Nat × Nat} (h : g.placement = 0) (hsl : g.slot = some sl) (s : State) (q : Nat) (c : QCmd)
    (k : Nat) (p : CredW) (bs : List (Byte × Bool)) : s.credGives q c k g p bs = s.credEdge q c k g p sl bs := by
  simp only [State.credGives, hsl, if_pos h]

section
variable {s : State} {c : QCmd} {k : Nat} {g : CredG} {p : CredW} (w : Cmd) (hc : s.heads c) (hok : credOk c = true)
  (hg : s.credOf s.curQ c = some (k, g)) (hp : mfind g.parts (nWafer (qName s.curQ)) = some p)
include hc hok hg

/-- A group with no slot at the edge, or a switch that does not reduce, gives the answer 0x14 (R327). -/
theorem exec_cred_refused (h : g.placement = 0 ∧ g.slot = none ∨ g.placement = 1 ∧ (s.wafer (nWafer (qName s.curQ))).switchRed = false) :
    exec (.cred w) s = .next (s.cmdDone s.curQ c 0x14) := by
  refine (congrArg _ (State.checked_heads _ hc hok)).trans ?_
  dsimp only
  rw [hg]
  rcases h with ⟨h0, hs⟩ | ⟨h1, hs⟩ <;> simp [*]

include hp

/-- A CRED whose vector has been read contributes it (R328). -/
theorem exec_cred_contributes (hh : g.placement = 0 → g.slot.isSome = true)
    (hw : g.placement = 1 → (s.wafer (nWafer (qName s.curQ))).switchRed = true)
    (hr : p.sent = p.released) (ho : s.credHolder s.curQ k p = none) (hk : grainsFor g.bytes ≤ (s.prog s.curQ).k)
    (hv : (s.prog s.curQ).got.length = g.bytes) : exec (.cred w) s =
      .next ((s.credSends s.curQ k p).credGives s.curQ c k g { p with sender := some s.curQ } (s.prog s.curQ).got) := by
  have hneed : grainsFor g.bytes - (s.prog s.curQ).k = 0 := Nat.sub_eq_zero_of_le hk
  have hmine : mget g.parts (nWafer (qName s.curQ)) resetCredW = p := by rw [mget_eq_mfind, hp]; rfl
  have hread : (s.credSends s.curQ k p).engRead s.curQ c ⟨0, 0, w64 (bits c.c.w1 55 0), 0, []⟩ g.bytes =
      .ok (s.credSends s.curQ k p, (s.prog s.curQ).got) := by
    unfold State.engRead
    dsimp only
    rw [State.credSends, State.prog_setProg, if_pos (by omega)]
  refine (congrArg _ (State.checked_heads _ hc hok)).trans ?_
  dsimp only
  rw [hg]
  dsimp only
  rw [hmine, if_neg (by simpa [Option.isSome_iff_ne_none] using hh), if_neg (by simpa using hw), if_neg (by rw [ho]; simp [hr]),
    State.prog_setCredW, hneed]
  dsimp only [State.grains]
  refine (congrArg Host.Outcome.next (if_neg (Nat.lt_irrefl 0))).trans (congrArg Host.Outcome.next ?_)
  change (match (s.credSends s.curQ k p).engRead s.curQ c ⟨0, 0, w64 (bits c.c.w1 55 0), 0, []⟩ g.bytes with
    | .error u => u
    | .ok (u, bs) => u.credGives s.curQ c k g { p with sender := some s.curQ } bs) = _
  rw [hread]

end

/-- The poisoned elements of a group that a contribution through the switch leaves noted (log 98). -/
def CredG.marked (g : CredG) (r : Nat) (bs : List (Byte × Bool)) : Map (List Nat) :=
  mput g.marks r ((poisonedElems (bytesElems 4 bs)).foldl sput (mget g.marks r []))

/-- A wafer's part whose vector has gone out as flits in round `r` (R330). -/
def CredW.flown (p : CredW) (g : CredG) (w : Nat) (bs : List (Byte × Bool)) : CredW :=
  { p with sent := p.sent + 1, sender := none, flits := credFlits g w (p.sent + 1) ((bytesElems 4 bs).map (·.1)), got := [] }

theorem State.credSwitch_eq (s : State) (q : Nat) (c : QCmd) (k : Nat) (g : CredG) (p : CredW) (bs : List (Byte × Bool)) :
    s.credSwitch q c k g p bs = (s.setCred k { g with
      marks := g.marked (p.sent + 1) bs, parts := mput g.parts (nWafer (qName q)) (p.flown g (nWafer (qName q)) bs) }).cmdDone q c 0 := rfl

section
variable {s : State} {q : Nat} {c : QCmd} {k : Nat} {g : CredG} {p : CredW} {sl : Nat × Nat} {bs : List (Byte × Bool)}
  (hb : g.bound = true) (hz : p.sent < g.zeroed)
include hb hz

/-- A contribution all of which the home slot has taken ends the CRED (R329). -/
theorem State.credEdge_ends (hp : bs.length ≤ (s.prog q).put) : s.credEdge q c k g p sl bs =
    (s.setCredW k (nWafer (qName q)) { p with sent := p.sent + 1, sender := none }).cmdDone q c 0 := by
  unfold State.credEdge
  dsimp only
  rw [if_neg (by simp [hb]), if_neg (by omega), if_pos hp]

/-- The next piece of a contribution goes to the home slot (R329). -/
theorem State.credEdge_goesOn (hp : (s.prog q).put < bs.length) (hv : (s.prog q).view = false) : s.credEdge q c k g p sl bs =
    (s.setProg q { s.prog q with view := true }).enterView g.home (sl.1 % 64) sl.2 ⟨.queue q, nWafer (qName q), physAsid, (s.prog q).put,
      min 512 (bs.length - (s.prog q).put), some ((bs.drop (s.prog q).put).take (min 512 (bs.length - (s.prog q).put))), 0, [], 0, []⟩ := by
  unfold State.credEdge
  dsimp only
  rw [if_neg (by simp [hb]), if_neg (by omega), if_neg (by omega), if_neg (by simp [hv])]

end

theorem credContributes : Pieces.CredContributes := by
  intro s w c k g p hc hok q wf pr hg hp hk
  have hcreds : mfind (s.credSends q k p).creds k = some { g with parts := mput g.parts wf { p with sender := some q } } :=
    State.setCredW_finds hk ..
  have hprog : (s.credSends q k p).prog q = pr := State.prog_setProg ..
  refine ⟨exec_cred_refused w hc hok hg, fun hr ho hgr hgot => ⟨fun h1 hsw => ?switch, fun sl h0 hsl hb hz => ?edge⟩⟩
  case switch =>
    have hs := exec_cred_contributes w hc hok hg hp (by omega) (fun _ => hsw) hr ho hgr hgot
    rw [State.credGives_switch (by omega), State.credSwitch_eq] at hs
    exact ⟨_, _, hs, mfind_mput_same .., mfind_mput_same ..⟩
  case edge =>
    have hex := exec_cred_contributes w hc hok hg hp (by simp [hsl]) (by omega) hr ho hgr hgot
    rw [State.credGives_edge h0 hsl] at hex
    refine ⟨fun hput => ?_, fun hput hview => ?_⟩
    · have hends := State.credEdge_ends (q := q) (c := c) (k := k) (p := { p with sender := some q }) (sl := sl) hb hz
        (show pr.got.length ≤ ((s.credSends q k p).prog q).put by rw [hprog, hgot]; exact hput)
      exact ⟨_, _, hex.trans (congrArg _ hends), State.setCredW_finds hcreds .., mfind_mput_same ..⟩
    · have hgo := State.credEdge_goesOn (q := q) (c := c) (k := k) (p := { p with sender := some q }) (sl := sl) hb hz
        (show ((s.credSends q k p).prog q).put < pr.got.length by rw [hprog, hgot]; exact hput) (by rw [hprog]; exact hview)
      rw [hprog, hgot] at hgo
      exact ⟨_, hex.trans (congrArg _ hgo), congrArg Prog.view (State.prog_setProg ..)⟩

/-! ## The home slot, the copies and the result flits (R156, R195, R329, R330) -/

section
variable {s : State} {k : Nat} {g : CredG}

/-- The slot that a group's sum gathers in, bound over the home's destination (R329). -/
def CredG.homeSlot (g : CredG) (k : Nat) (p : CredW) : EdgeSlot :=
  { resetSlot with bound := true, kind := 2, asid := p.asid, wlen := (g.bytes + 4095) / 4096 - 1, acc := p.dst, cred := some k }

/-- A free home slot that is due to its group is bound. -/
theorem State.credBind_binds {ck sl : Nat} {p : CredW} (hsl : g.slot = some (ck, sl)) (hp : mfind g.parts g.home = some p)
    (hbd : (s.slot ck sl).bound = false) (hcl : (s.slot ck sl).closing = false) (hh : (s.slot ck sl).held = none)
    (hcr : (s.slot ck sl).cred = none) (hc : s.slotClaimed ck sl g.seq = false) :
    s.credBind k g = (s.setSlot ck sl (g.homeSlot k p)).setCred k { g with bound := true } := by
  have hslot : s.slotAt (ck / 64) (ck % 64) sl = s.slot ck sl := by
    rw [State.slotAt, State.slot, show ck / 64 * 64 + ck % 64 = ck by omega]
  unfold State.credBind
  split
  next ck' sl' p' h1 h2 =>
    obtain ⟨rfl, rfl⟩ : ck = ck' ∧ sl = sl' := by simpa using hsl.symm.trans h1
    obtain rfl : p = p' := Option.some.inj (hp.symm.trans h2)
    dsimp only
    rw [if_neg (by simp [hslot, hbd, hcl, hh, hcr, hc])]
    rfl
  next hno => exact absurd hp (hno ck sl p hsl)

theorem exec_credDistribute_unbound (hk : mfind s.creds k = some g) (h0 : g.placement = 0) (hb : g.bound = false) :
    exec (.credDistribute k) s = .next (s.credBind k g) := by
  simp only [exec, execCredDistribute, hk]
  exact congrArg Host.Outcome.next (if_pos (by simp [h0, hb]))

section
variable (hk : mfind s.creds k = some g) (h1 : g.placement = 1)
include hk h1

/-- From the switch, a copy that is due goes on (log 14). -/
theorem exec_credDistribute_copies {w : Nat} {p : CredW}
    (hd : g.due[(Config.unspecified s.tick).toNat % (g.due.length + 1)]? = some (w, p)) : exec (.credDistribute k) s = .next
      (s.credCopy k w 7 (w * 2 ^ 15 + (Config.unspecified (s.tick + 1)).toNat % 48) p
        (flitBytes (g.count + 1) p.got (mget g.marks (p.released + 1) []))) := by
  simp [exec, execCredDistribute, hk, h1, hd]

/-- Or none of them does. -/
theorem exec_credDistribute_idle (hd : g.due[(Config.unspecified s.tick).toNat % (g.due.length + 1)]? = none) :
    exec (.credDistribute k) s = .next s := by
  simp [exec, execCredDistribute, hk, h1, hd]

end

/-- A copy whose bytes and done word have been written releases its round (R328). -/
theorem State.credCopy_over {p : CredW} {bs : List (Byte × Bool)} (h : bs.length + 8 ≤ p.drain.put) (w cls agent : Nat) :
    s.credCopy k w cls agent p bs = s.setCredW k w { p with released := p.released + 1, drain := resetDrain } := by
  unfold State.credCopy
  dsimp only
  rw [if_neg (by omega), if_neg (by omega)]

end

/-- Whether a group awaits the result flit that the switch sends at a move (R156). -/
def State.takesResult (s : State) (w n : Nat) (x : Nat × CredG) : Bool :=
  let f := Config.resultFlit (s.tick + n)
  x.2.awaits w f.1 f.2.1 f.2.2.1

section
variable {s : State} {w n : Nat}

theorem exec_credResultFlit_strays (h : s.creds.find? (s.takesResult w n) = none) : exec (.credResultFlit w n) s =
    .next (s.setLink (w * 64 + n % 48) { s.link (w * 64 + n % 48) with strayed := (s.link (w * 64 + n % 48)).strayed + 1 }) := by
  have hf : s.creds.find? (fun e => e.2.awaits w (Config.resultFlit (s.tick + n)).1 (Config.resultFlit (s.tick + n)).2.1
    (Config.resultFlit (s.tick + n)).2.2.1) = none := h
  simp only [exec, execCredResultFlit, hf]

theorem exec_credResultFlit_takes {k : Nat} {g : CredG} {p : CredW} (h : s.creds.find? (s.takesResult w n) = some (k, g))
    (hp : mfind g.parts w = some p) : let f := Config.resultFlit (s.tick + n)
    exec (.credResultFlit w n) s = .next (s.setCredW k w { p with
      flits := p.flits.filter fun x => !(x.round == f.2.1 && x.off == f.2.2.1), got := mput p.got f.2.2.1 (flitElems f.2.2.2 0) }) := by
  have hf : s.creds.find? (fun e => e.2.awaits w (Config.resultFlit (s.tick + n)).1 (Config.resultFlit (s.tick + n)).2.1
    (Config.resultFlit (s.tick + n)).2.2.1) = some (k, g) := h
  have hmine : mget g.parts w resetCredW = p := by rw [mget_eq_mfind, hp]; rfl
  simp only [exec, execCredResultFlit, hf, hmine]

end

theorem credResults : Pieces.CredResults := by
  intro s
  refine ⟨fun k g ck sl p hk h0 hb hsl hp hbd hcl hh hcr hc => ?bind, fun k g hk h1 hover => ?copy, fun w n =>
    ⟨exec_credResultFlit_strays, fun k g p hf hk hp =>
      ⟨_, _, exec_credResultFlit_takes hf hp, State.setCredW_finds hk .., mfind_mput_same ..⟩⟩⟩
  case bind =>
    refine ⟨(s.setSlot ck sl (g.homeSlot k p)).setCred k { g with bound := true },
      (exec_credDistribute_unbound hk h0 hb).trans (congrArg _ (State.credBind_binds hsl hp hbd hcl hh hcr hc)), mfind_mput_same .., ?_⟩
    have hslot : ((s.setSlot ck sl (g.homeSlot k p)).setCred k { g with bound := true }).slot ck sl = g.homeSlot k p :=
      State.slot_setSlot ..
    rw [hslot]
    exact ⟨rfl, rfl, rfl, rfl⟩
  case copy =>
    split
    next w p hw =>
      have hm := hover (w, p) (List.mem_of_getElem? hw)
      have hex := exec_credDistribute_copies hk h1 hw
      rw [State.credCopy_over hm, State.setCredW_eq hk] at hex
      exact ⟨_, _, hex, rfl, mfind_mput_same .., mfind_mput_same ..⟩
    next hw => exact exec_credDistribute_idle hk h1 hw

/-- Settles O51: a CRED contributes its wafer's vector to the round, and what comes back of the round is released wafer by wafer. -/
theorem podReductions : Obligations.PodReductions := ⟨credContributes, credResults⟩

end Sys2Proof.Machine

/-! R90, R95, R211: of the controllers, a write at its home heeds the trace counters alone. -/

namespace Sys2Proof.Machine

/-- The state with other controllers. -/
def State.withCtls (s : State) (m : Map Ctl) : State := { s with ctls := m }

section
variable (s : State) (m : Map Ctl)

/-! ## What reads of the state find -/

theorem State.core_withCtls (n : Nat) : (s.withCtls m).core n = s.core n := rfl

theorem State.poisonAt_withCtls (pa : Nat) : (s.withCtls m).poisonAt pa = s.poisonAt pa := rfl

theorem State.readNat_withCtls (pa n : Nat) : (s.withCtls m).readNat pa n = s.readNat pa n := by
  induction n generalizing pa with
  | zero => rfl
  | succ n ih => rw [State.readNat, ih, State.readNat]; rfl

theorem State.readW_withCtls (pa : Nat) : (s.withCtls m).readW pa = s.readW pa := congrArg w64 (s.readNat_withCtls m pa 8)

theorem State.relsAt_withCtls (pa n : Nat) : (s.withCtls m).relsAt pa n = s.relsAt pa n := by
  induction n generalizing pa with
  | zero => rfl
  | succ n ih => rw [State.relsAt, ih, State.relsAt]; rfl

theorem State.setCore_withCtls (n : Nat) (c : Core) : (s.withCtls m).setCore n c = (s.setCore n c).withCtls m := rfl

theorem State.stopCore_withCtls (n : Nat) (o : Owner) (va : W64) (ty acc : Nat) :
    (s.withCtls m).stopCore n o va ty acc = (s.stopCore n o va ty acc).withCtls m := rfl

/-! ## What changes of the state leave -/

theorem State.endWatch_withCtls (n : Nat) (a : Access) (v : W64) : (s.withCtls m).endWatch n a v = (s.endWatch n a v).withCtls m := by
  unfold State.endWatch
  simp only [State.relsAt_withCtls, State.core_withCtls, State.setCore_withCtls]

theorem State.wakeOne_withCtls (n : Nat) (ws : List Nat) : (s.withCtls m).wakeOne n ws = (s.wakeOne n ws).withCtls m := by
  simp only [State.wakeOne, State.core_withCtls, State.poisonAt_withCtls, State.readW_withCtls, State.endWatch_withCtls,
    State.setCore_withCtls, State.stopCore_withCtls]
  split
  case h_2 => rfl
  split
  case h_2 => rfl
  split
  case h_2 => rfl
  split
  · split <;> exact (apply_ite (State.withCtls · m) _ _ _).symm
  · rfl

theorem State.wake_withCtls (ws : List Nat) : (s.withCtls m).wake ws = (s.wake ws).withCtls m :=
  List.foldl_hom (State.withCtls · m) fun t n => State.wakeOne_withCtls t m n ws

theorem State.spoil_withCtls (pa n : Nat) : (s.withCtls m).spoil pa n = (s.spoil pa n).withCtls m := by
  have hr : (s.withCtls m).resids = s.resids := rfl
  simp only [State.spoil, hr]
  split <;> rfl

theorem State.ldAt_withCtls (n : Nat) (a : Access) : (s.withCtls m).ldAt n a = (s.ldAt n a).withCtls m := by
  unfold State.ldAt
  simp only [State.relsAt_withCtls, State.readNat_withCtls, State.core_withCtls, State.setCore_withCtls]

theorem State.takeWord_withCtls (n : Nat) (a : Access) : (s.withCtls m).takeWord n a = (s.takeWord n a).withCtls m := by
  have ht : ∀ z, (s.withCtls m).withTags z = (s.withTags z).withCtls m := fun _ => rfl
  have hq : (s.withCtls m).qtags = s.qtags := rfl
  rw [State.takeWord_eq, State.takeWord_eq, hq, ht]
  unfold State.tookWord
  simp only [State.relsAt_withCtls, State.readW_withCtls, State.core_withCtls, State.setCore_withCtls]

theorem State.fillWord_withCtls (pa : Nat) : (s.withCtls m).fillWord pa = (s.fillWord pa).withCtls m := by
  have hq : (s.withCtls m).qtags = s.qtags := rfl
  have ht : ∀ z, (s.withCtls m).withTags z = (s.withTags z).withCtls m := fun _ => rfl
  have hw : ∀ t : State, (t.withCtls m).firstWaiter pa = t.firstWaiter pa := fun _ => rfl
  simp only [State.fillWord_eq, hq, ht, hw, State.takeWord_withCtls]
  cases (s.withTags (sput s.qtags (canon pa))).firstWaiter pa <;> rfl

end

/-! ## States whose trace counters agree -/

/-- `t` differs from `s` in controllers alone, and their trace counters agree. -/
structure State.Beside (s t : State) : Prop where
  rest : ∃ m, t = s.withCtls m
  seq : ∀ c, (t.ctl c).trcSeq = (s.ctl c).trcSeq

section
variable {s t : State}

theorem State.Beside.mem (h : s.Beside t) : t.mem = s.mem := by
  obtain ⟨m, rfl⟩ := h.rest
  rfl

/-- An operation that takes no heed of controllers, and leaves them. -/
theorem State.Beside.of_withCtls (h : s.Beside t) {f : State → State} (hf : ∀ (s : State) m, f (s.withCtls m) = (f s).withCtls m)
    (hc : ∀ s : State, (f s).ctls = s.ctls) : (f s).Beside (f t) := by
  obtain ⟨m, rfl⟩ := h.rest
  refine ⟨⟨m, hf s m⟩, fun c => ?_⟩
  have hs : (f s).ctl c = s.ctl c := by rw [State.ctl, hc]; rfl
  rw [hf, hs]
  exact h.seq c

theorem State.Beside.foldl {α : Type} {f : State → α → State} (hf : ∀ {s t : State} a, s.Beside t → (f s a).Beside (f t a)) (l : List α)
    (h : s.Beside t) : (l.foldl f s).Beside (l.foldl f t) := by
  induction l generalizing s t with
  | nil => exact h
  | cons a r ih => exact ih (hf a h)

theorem State.Beside.setCtl (h : s.Beside t) (k : Nat) {c d : Ctl} (hd : d.trcSeq = c.trcSeq) : (s.setCtl k c).Beside (t.setCtl k d) := by
  obtain ⟨m, rfl⟩ := h.rest
  refine ⟨⟨_, rfl⟩, fun j => ?_⟩
  by_cases hj : j = k
  · subst hj
    rw [State.ctl_setCtl, State.ctl_setCtl, hd]
  · rw [State.ctl_setCtl_ne _ _ _ _ hj, State.ctl_setCtl_ne _ _ _ _ hj, h.seq]

theorem State.Beside.wake (h : s.Beside t) (ws : List Nat) : (s.wake ws).Beside (t.wake ws) :=
  h.of_withCtls (fun s m => s.wake_withCtls m ws) fun s => s.wake_ctls ws

theorem State.Beside.putRun (h : s.Beside t) (pa : Nat) (bs : List (Byte × Bool)) (tag : Nat) (rel : Option Rel) :
    (s.putRun pa bs tag rel).Beside (t.putRun pa bs tag rel) :=
  h.of_withCtls (f := (State.putRun · pa bs tag rel)) (fun _ _ => rfl) fun _ => rfl

theorem State.Beside.setCore (h : s.Beside t) (n : Nat) (c : Core) : (s.setCore n c).Beside (t.setCore n c) :=
  h.of_withCtls (f := (State.setCore · n c)) (fun _ _ => rfl) fun _ => rfl

theorem State.Beside.logPiece (h : s.Beside t) (w x pa len : Nat) (i : WInfo) : (s.logPiece w x pa len i).Beside (t.logPiece w x pa len i) := by
  have hw : t.wafer w = s.wafer w := by
    obtain ⟨m, rfl⟩ := h.rest
    rfl
  unfold State.logPiece
  dsimp only
  rw [h.seq, hw]
  exact ((h.setCtl _ (by rfl)).putRun ..).wake _

theorem State.Beside.logRun (w x : Nat) (i : WInfo) (k : Nat) :
    ∀ {s t : State} (pa n : Nat), s.Beside t → (s.logRun w x pa n i k).Beside (t.logRun w x pa n i k) := by
  induction k with
  | zero => exact fun _ _ h => h
  | succ k ih =>
    intro s t pa n h
    simp only [State.logRun]
    split
    · exact h
    · exact ih _ _ (h.logPiece ..)

theorem State.Beside.trace (h : s.Beside t) (pa n : Nat) (i : WInfo) : (s.trace pa n i).Beside (t.trace pa n i) := by
  have hw : ∀ w, t.wafer w = s.wafer w := by
    obtain ⟨m, rfl⟩ := h.rest
    exact fun _ => rfl
  simp only [State.trace, hw]
  split
  · split
    · split
      · exact State.Beside.logRun _ _ _ _ _ _ h
      · exact h
    · exact h
  · exact h

theorem State.Beside.land (h : s.Beside t) (pa : Nat) (bs : List (Byte × Bool)) (i : WInfo) (rel : Option Rel) :
    (s.land pa bs i rel).Beside (t.land pa bs i rel) :=
  (((h.putRun ..).trace ..).wake _).of_withCtls (fun s m => s.spoil_withCtls m pa bs.length) fun s => s.spoil_ctls pa bs.length

/-! ## Accesses that perform before a word is poisoned -/

theorem State.Beside.core (h : s.Beside t) (n : Nat) : t.core n = s.core n := by
  obtain ⟨m, rfl⟩ := h.rest
  rfl

theorem State.Beside.amoAt (h : s.Beside t) (n : Nat) (op : AmoOp) (a : Access) : (s.amoAt n op a).Beside (t.amoAt n op a) := by
  have hr : t.readNat a.pa a.size = s.readNat a.pa a.size ∧ t.relsAt a.pa a.size = s.relsAt a.pa a.size := by
    obtain ⟨m, rfl⟩ := h.rest
    exact ⟨s.readNat_withCtls .., s.relsAt_withCtls ..⟩
  simp only [State.amoAt, h.core, hr]
  split
  · exact h.setCore ..
  · exact (h.setCore ..).land ..

theorem State.Beside.performSt (h : s.Beside t) (n kind : Nat) (a : Access) : (s.performSt n kind a).Beside (t.performSt n kind a) := by
  unfold State.performSt
  rw [h.core]
  exact (h.setCore ..).land ..

theorem State.fillWord_ctls (s : State) (pa : Nat) : (s.fillWord pa).ctls = s.ctls := by
  rw [State.fillWord_eq]
  dsimp only
  cases (s.withTags (sput s.qtags (canon pa))).firstWaiter pa <;> rfl

/-- Whether an access performs for sure has nothing to do with controllers: one to an edge window never does. -/
theorem State.sure_withCtls (s : State) (m : Map Ctl) (n : Nat) (a : Access) : (s.withCtls m).sure n a = s.sure n a := by
  unfold State.sure State.remoteUnbacked
  cases homeOf a.pa <;> rfl

theorem State.Beside.settleOne (h : s.Beside t) (n id : Nat) : (s.settleOne n id).Beside (t.settleOne n id) := by
  have hr : (∀ id, t.heldAt n id = s.heldAt n id) ∧ (∀ a, t.sure n a = s.sure n a) ∧ ∀ pa k, t.poisonRun pa k = s.poisonRun pa k := by
    obtain ⟨m, rfl⟩ := h.rest
    exact ⟨fun _ => rfl, s.sure_withCtls m n, fun _ _ => rfl⟩
  simp only [State.settleOne, h.core, hr]
  split
  case h_1 => exact h
  split
  case isFalse => exact h
  split
  · split
    · exact h
    · exact h.of_withCtls (f := (State.ldAt · n _)) (fun s m => s.ldAt_withCtls m n _) fun _ => rfl
  · split
    · exact h
    · exact h.amoAt ..
  · exact h.performSt ..
  · exact h.performSt ..
  · exact (h.performSt ..).of_withCtls (f := (State.fillWord · _)) (fun s m => s.fillWord_withCtls m _) fun s => s.fillWord_ctls _
  · exact h

theorem State.Beside.settle (h : s.Beside t) (ws : List Nat) : (s.settle ws).Beside (t.settle ws) := by
  have hc : t.cores = s.cores := by
    obtain ⟨m, rfl⟩ := h.rest
    rfl
  unfold State.settle
  rw [hc]
  refine State.Beside.foldl (fun p h => ?_) _ h
  rw [h.core]
  exact State.Beside.foldl (fun a h => h.settleOne p.1 a.id) _ h

/-- States whose trace counters agree hold the same memory after a write. -/
theorem State.Beside.write (h : s.Beside t) (pa : Nat) (bs : List (Byte × Bool)) (i : WInfo) : (s.write pa bs i).Beside (t.write pa bs i) := by
  unfold State.write State.writeAs
  split
  · exact (h.settle _).land ..
  · exact h.land ..

end

end Sys2Proof.Machine

/-! O50: the way of a block of photonic multicast to its members (07_networks.md R142 to R149, R359). -/

namespace Sys2Proof.Machine

/-! ## Jobs at the controller -/

theorem find?_modJob {g : Nat} {f : Ltx → Ltx} {l : List Ltx} {j : Ltx}
    (h : l.find? (fun j => j.group == g && j.sent < Cmd.blocks j.q.c) = some j) (hg : (f j).group = j.group)
    (hs : (f j).sent < Cmd.blocks (f j).q.c) :
    (modJob g f l).find? (fun j => j.group == g && j.sent < Cmd.blocks j.q.c) = some (f j) := by
  induction l with
  | nil => cases h
  | cons x r ih =>
    by_cases hx : x.group = g ∧ x.sent < Cmd.blocks x.q.c
    · obtain rfl : x = j := by simpa [hx] using h
      rw [modJob, if_pos (by simpa using hx), List.find?_cons_of_pos (by simpa [hg, hs] using hx.1)]
    · rw [List.find?_cons_of_neg (by simpa using hx)] at h
      rw [modJob, if_neg (by simpa using hx), List.find?_cons_of_neg (by simpa using hx), ih h]

theorem State.jobOf_sent {s : State} {g : Nat} {j : Ltx} (h : s.jobOf g = some j) : j.sent < Cmd.blocks j.q.c := by
  have hj := List.find?_some h
  simp only [Bool.and_eq_true, decide_eq_true_eq] at hj
  exact hj.2

theorem State.jobOf_modJob {s : State} {g : Nat} {j : Ltx} (h : s.jobOf g = some j) {f : Ltx → Ltx} (hg : (f j).group = j.group)
    (hs : (f j).sent < Cmd.blocks (f j).q.c) : (s.modJob g f).jobOf g = some (f j) := by
  rw [State.jobOf, State.modJob, State.ctl_setCtl]
  exact find?_modJob h hg hs

theorem State.jobOf_setGt (s : State) (g name : Nat) (e : Gt) : (s.setGt name e).jobOf g = s.jobOf g := by
  by_cases hk : gKey g = gKey name
  · rw [State.jobOf, State.setGt, hk, State.ctl_setCtl, State.jobOf, hk]
  · rw [State.jobOf, State.setGt, State.ctl_setCtl_ne _ _ _ _ hk, State.jobOf]

/-! ## Trunks (R149) -/

section
variable (s : State) (k mask : Nat)

theorem mget_wokenTrunks (v d : Bool × Nat) (j : Nat) (l : List Nat) (m : Map (Bool × Nat)) :
    mget (l.foldl (fun t i => mput t i v) m) j d = if j ∈ l then v else mget m j d := by
  induction l generalizing m with
  | nil => simp
  | cons i r ih =>
    rw [List.foldl_cons, ih]
    by_cases hj : j = i
    · subst hj
      simp
    · simp [hj, mget_mput_ne]

theorem State.trunk_wakeTrunks {j : Nat} (hj : j < 4) (hm : mask.testBit j = true) :
    (s.wakeTrunks k mask).trunk k j = (true, s.time) := by
  rw [State.trunk, State.wakeTrunks, State.ctl_setCtl, mget_wokenTrunks, if_pos (by simp [hj, hm])]

theorem State.jobs_wakeTrunks : ((s.wakeTrunks k mask).ctl k).jobs = (s.ctl k).jobs := by
  rw [State.wakeTrunks, State.ctl_setCtl]

theorem State.flights_wakeTrunks : ((s.wakeTrunks k mask).ctl k).flights = (s.ctl k).flights := by
  rw [State.wakeTrunks, State.ctl_setCtl]

theorem State.gt_wakeTrunks (name : Nat) : (s.wakeTrunks k mask).gt name = s.gt name := State.gt_setCtl _ _ rfl

end

theorem State.flights_setGt (s : State) (name : Nat) (e : Gt) : ((s.setGt name e).ctl (gKey name)).flights = (s.ctl (gKey name)).flights := by
  rw [State.setGt, State.ctl_setCtl]

theorem State.flights_modJob (s : State) (g : Nat) (f : Ltx → Ltx) :
    ((s.modJob g f).ctl (gKey g)).flights = (s.ctl (gKey g)).flights := by
  rw [State.modJob, State.ctl_setCtl]

/-! ## LTX (R358, R359) -/

theorem exec_ltx {s : State} {c : QCmd} (hc : s.heads c) (hok : ltxOk c = true) (hk : Cmd.blocks c.c ≤ (s.prog s.curQ).k)
    (hr : (s.ctl (gKey (groupName s.curQ c.c))).jobs.length < 64) (w : Cmd) :
    exec (.ltx w) s = .next ((s.setCtl (gKey (groupName s.curQ c.c)) { s.ctl (gKey (groupName s.curQ c.c)) with
      jobs := (s.ctl (gKey (groupName s.curQ c.c))).jobs ++
        [⟨s.curQ, c, groupName s.curQ c.c, false, 0, 0, none, false, none, false⟩] }).popCmd s.curQ) := by
  refine (congrArg _ (State.checked_heads _ hc hok)).trans (congrArg Host.Outcome.next ?_)
  dsimp only
  rw [Nat.sub_eq_zero_of_le hk, State.grains]
  exact if_neg (by simp [ltxRoom, hr])

/-! ## Sending (R144, R145) -/

/-- What BLOCK_SEND asks of a job before it looks at the job's block. -/
structure State.Sends (s : State) (g : Nat) (j : Ltx) : Prop where
  job : s.jobOf g = some j
  awake : s.awnStopped (g / 2 ^ 14) (unitNo .ctl (gCtl g)) = false
  runs : s.partRuns (QCmd.part j.queue j.q) = true
  found : j.found = true
  fault : j.fault = none
  view : j.view = false
  bound : (s.gt g).dissolve = false

section
variable {s : State} {g : Nat} {j : Ltx} (h : s.Sends g j)
include h

theorem exec_blockSend_read (hb : j.buf = none) : exec (.blockSend g) s = .next (s.readBlock g j) := by
  obtain ⟨hj, ha, hr, hf, hn, hv, hd⟩ := h
  refine congrArg Host.Outcome.next ?_
  simp [-Nat.reducePow, hj, ha, hr, hf, hn, hv, hd, hb]

theorem exec_blockSend_held {bs : List (Byte × Bool)} (hb : j.buf = some bs) :
    exec (.blockSend g) s = .next (if !(s.gt g).demand (s.gt g).sent then s
      else if !s.trunksAwake (gKey g) (s.gt g).tmask then s.wakeTrunks (gKey g) (s.gt g).tmask
      else if !s.myTurn g then s else s.sendBlock g j bs) := by
  obtain ⟨hj, ha, hr, hf, hn, hv, hd⟩ := h
  refine congrArg Host.Outcome.next ?_
  simp [-Nat.reducePow, hj, ha, hr, hf, hn, hv, hd, hb]

end

/-- A block that is homed at its group's own controller is read at once. -/
theorem State.readBlock_of_hbm {s : State} {g pa o : Nat} {j : Ltx} {trc fmt : Bool} (hs : j.skip = false)
    (ht : s.translate (ltxWho g j) (w64 (bits j.q.c.w1 55 0) + w64 (512 * j.sent)) 512 0 = .ok pa trc fmt)
    (hh : homeOf pa = .hbm (g / 2 ^ 14) (gCtl g) o) :
    s.readBlock g j = (s.modJob g fun j => { j with buf := some (s.readRun pa 512), skip := false, view := false }).setGt g
      { s.gt g with since := s.time } := by
  simp [State.readBlock, hs, ht, hh, homedAt]

theorem State.sendBlock_spec (s : State) (g : Nat) (j : Ltx) (bs : List (Byte × Bool)) : let e := s.gt g
    let t := s.sendBlock g j bs
    t.mem = s.mem ∧ t.gt g = { e with sent := (e.sent + 1) % 2 ^ 32, turn := s.tick } ∧
      (t.ctl (gKey g)).flights = (s.ctl (gKey g)).flights ++ e.membs.map fun m =>
        Flight.mk g m.quad e.sent (markBlock bs) (bits j.q.c.w2 28 26) 0 false false := by
  refine ⟨rfl, ?_, ?_⟩
  · rw [State.sendBlock]
    dsimp only
    rw [State.gt_setCtl _ _ (by rfl), State.gt_wakeTrunks, State.gt_setGt]
    rfl
  · rw [State.sendBlock, State.ctl_setCtl]
    dsimp only
    rw [State.flights_wakeTrunks, State.flights_setGt, State.flights_modJob]

/-! ## A member's report (R145) -/

/-- An entry to which quad `quad` has reported its posted count. -/
def Gt.reported (e : Gt) (quad posted : Nat) : Gt :=
  { e with membs := e.membs.map fun x => if x.quad = quad then { x with known := posted } else x }

theorem Gt.map_quad_reported (e : Gt) (quad posted : Nat) : (e.reported quad posted).membs.map (·.quad) = e.membs.map (·.quad) := by
  rw [Gt.reported, List.map_map]
  refine List.map_congr_left fun x _ => ?_
  rw [Function.comp]
  split <;> rfl

theorem Gt.mem_reported {e : Gt} {quad posted : Nat} {x : Member} (h : x ∈ (e.reported quad posted).membs) :
    (x.quad = quad → x.known = posted) ∧ (x.quad ≠ quad → x ∈ e.membs) := by
  obtain ⟨y, hy, rfl⟩ := List.mem_map.mp h
  split
  next hq => exact ⟨fun _ => rfl, fun hn => absurd hq hn⟩
  next hq => exact ⟨fun h => absurd h hq, fun _ => hy⟩

theorem exec_demandUpdate {s : State} {quad g : Nat} {m : Memb} (hm : (s.quad quad).memb? g = some m)
    (hv : (s.gt (quad / 2 ^ 13 * 2 ^ 14 + g)).v = true) (he : (s.gt (quad / 2 ^ 13 * 2 ^ 14 + g)).enrol = m.enrol) :
    exec (.demandUpdate quad g) s = .next (s.setGt (quad / 2 ^ 13 * 2 ^ 14 + g)
      ((s.gt (quad / 2 ^ 13 * 2 ^ 14 + g)).reported (quad % 2 ^ 13) m.posted)) := by
  refine congrArg Host.Outcome.next ?_
  dsimp only
  rw [hm]
  exact if_pos (by simp [-Nat.reducePow, hv, he])

theorem blocksAreSent : Pieces.BlocksAreSent := by
  refine fun s => ⟨fun w c hc hok hk hr => exec_ltx hc hok hk hr w, fun g j hj ha hp hf hn hv hs hd => ?_, fun quad g m hm hv he => ?_⟩
  · have h : s.Sends g j := ⟨hj, ha, hp, hf, hn, hv, hd⟩
    refine ⟨fun pa trc fmt hb ht ⟨o, ho⟩ => ?_, fun bs hb hdem => ?_, fun bs hb hdem hup hturn => ?_⟩
    · refine ⟨_, (exec_blockSend_read h hb).trans (congrArg _ (State.readBlock_of_hbm hs ht ho)), rfl, ?_⟩
      have hsent := State.jobOf_sent hj
      rw [State.jobOf_setGt, State.jobOf_modJob hj (by rfl) (by exact hsent)]
      simp [hs, hv]
    · rw [exec_blockSend_held h hb, hdem]
      rfl
    · refine ⟨_, ?_, State.sendBlock_spec s g j bs⟩
      rw [exec_blockSend_held h hb, hdem, hup, hturn]
      rfl
  · refine ⟨_, exec_demandUpdate hm hv he, ?_⟩
    rw [State.gt_setGt]
    exact ⟨rfl, rfl, Gt.map_quad_reported .., fun x hx => Gt.mem_reported hx⟩

/-! ## Filling (R142) -/

theorem State.write_quads (s : State) (pa : Nat) (bs : List (Byte × Bool)) (i : WInfo) : (s.write pa bs i).quads = s.quads :=
  (congrArg State.quads (State.write_withUnits s s.queues s.quads pa bs i) :)

theorem State.quad_write (s : State) (k pa : Nat) (bs : List (Byte × Bool)) (i : WInfo) : (s.write pa bs i).quad k = s.quad k := by
  rw [State.quad, State.write_quads, State.quad]

/-- A controller's flights have nothing to do with what a write leaves in memory. -/
theorem State.beside_flights (s : State) (k : Nat) (fl : List Flight) : s.Beside (s.setCtl k { s.ctl k with flights := fl }) := by
  refine ⟨⟨_, rfl⟩, fun j => ?_⟩
  by_cases hj : j = k
  · subst hj
    rw [State.ctl_setCtl]
  · rw [State.ctl_setCtl_ne _ _ _ _ hj]

theorem State.write_setQuad_mem (s : State) (k : Nat) (q : Quad) (pa : Nat) (bs : List (Byte × Bool)) (i : WInfo) :
    ((s.setQuad k q).write pa bs i).mem = (s.write pa bs i).mem :=
  (congrArg State.mem (State.write_withUnits s s.queues (mput s.quads k q) pa bs i) :)

/-- A quad whose slot `i`, the first of member `m`'s queue, has been filled. -/
def Quad.filledHead (q : Quad) (g : Nat) (m : Memb) (i : Nat) (rest : List Nat) : Quad :=
  { (q.setSlot i (.filled g)).modMemb g fun m => { m with fill := rest, next := (m.next + 1) % 2 ^ 32 } with
    slotEnrol := mput q.slotEnrol i m.enrol }

section
variable {q : Quad} {g i : Nat} {m : Memb} {rest : List Nat} (hm : q.memb? g = some m)
include hm

theorem Quad.fillHead_eq (hf : m.fill = i :: rest) : q.fillHead g = some (i, q.filledHead g m i rest) := by
  rw [Quad.fillHead, hm]
  dsimp only
  rw [hf]
  rfl

theorem Quad.filledHead_spec : (q.filledHead g m i rest).slotSt i = .filled g ∧
    (q.filledHead g m i rest).memb? g = some { m with fill := rest, next := (m.next + 1) % 2 ^ 32 } :=
  ⟨mget_mput_same .., Quad.memb?_modMemb (q := q.setSlot i (.filled g)) hm fun _ => rfl⟩

end

section
variable {s : State} {quad g : Nat} {a b : List Flight} {f : Flight}
  (hf : findFlight (quad / 2 ^ 13 * 2 ^ 14 + g) (quad % 2 ^ 13) (s.ctl (gKey (quad / 2 ^ 13 * 2 ^ 14 + g))).flights = some (a, f, b))
  (ha : f.again = false)
include hf ha

/-- A good copy that the member needs. -/
theorem exec_slotFill_good (hd : f.dup = false) : let k := gKey (quad / 2 ^ 13 * 2 ^ 14 + g)
    exec (.slotFill quad g true) s = .next (((s.setCtl k { s.ctl k with flights := a ++ b }).fillSlot quad
      (quad / 2 ^ 13 * 2 ^ 14 + g) f f.bytes).endJobs k) := by
  refine congrArg Host.Outcome.next ?_
  simp [-Nat.reducePow, hf, ha, hd]

/-- A copy that fails its check, of which fewer than eight have. -/
theorem exec_slotFill_bad (hd : f.dup = false) (ht : f.tries < 8) : let k := gKey (quad / 2 ^ 13 * 2 ^ 14 + g)
    exec (.slotFill quad g false) s = .next ((s.setCtl k { s.ctl k with
      flights := a ++ { f with tries := f.tries + 1, again := true } :: b }).setQuad quad
        { s.quad quad with crc := (s.quad quad).crc + 1 }) := by
  refine congrArg Host.Outcome.next ?_
  simp only [hf, ha, hd, if_neg (Nat.not_le.mpr ht)]
  rfl

/-- A copy that the member does not need. -/
theorem exec_slotFill_dup (hd : f.dup = true) : let k := gKey (quad / 2 ^ 13 * 2 ^ 14 + g)
    let t := s.setCtl k { s.ctl k with flights := a ++ b }
    exec (.slotFill quad g true) s = .next t ∧
      exec (.slotFill quad g false) s = .next (t.setQuad quad { t.quad quad with crc := (t.quad quad).crc + 1 }) := by
  constructor <;>
  · refine congrArg Host.Outcome.next ?_
    simp [-Nat.reducePow, hf, ha, hd]

end

/-- The state with the slot at the head of a member's queue filled, its bytes written to the RXB. -/
theorem State.fillSlot_eq {s : State} {quad name i : Nat} {m : Memb} {rest : List Nat}
    (hm : (s.quad quad).memb? (name % 2 ^ 14) = some m) (hr : m.fill = i :: rest) (f : Flight) (bs : List (Byte × Bool)) :
    s.fillSlot quad name f bs = (s.setQuad quad ((s.quad quad).filledHead (name % 2 ^ 14) m i rest)).write
      (quadPa (quad / 2 ^ 13) (quad % 2 ^ 13) (0x40000 + 512 * i)) bs ⟨3, 2, quad * 4, false, f.tag⟩ := by
  rw [State.fillSlot, Quad.fillHead_eq hm hr]

/-! ## Resending (R147) -/

/-- A flight that is no longer asked for again, if it carries block `blk` of the group. -/
def Flight.resent (g blk : Nat) (x : Flight) : Flight :=
  if x.group = g ∧ x.blk = blk ∧ x.again then { x with again := false } else x

theorem Flight.resent_again {g blk : Nat} {x : Flight} (hg : (x.resent g blk).group = g) (hb : (x.resent g blk).blk = blk) :
    (x.resent g blk).again = false := by
  unfold Flight.resent at *
  split
  · rfl
  next h =>
    rw [if_neg h] at hg hb
    simpa [hg, hb] using h

/-- The flights of a controller after block `f` has been sent again to every member. -/
def resentFlights (g : Nat) (f : Flight) (membs : List Member) (l : List Flight) : List Flight :=
  let fl := l.map (Flight.resent g f.blk)
  fl ++ (membs.filter fun m => !fl.any fun x => x.group == g && x.quad == m.quad && x.blk == f.blk).map fun m =>
    { f with quad := m.quad, again := false, dup := true, tries := 0 }

theorem resentFlights_again {g : Nat} {f x : Flight} {membs : List Member} {l : List Flight} (h : x ∈ resentFlights g f membs l)
    (hg : x.group = g) (hb : x.blk = f.blk) : x.again = false := by
  obtain h | h := List.mem_append.mp h
  · obtain ⟨y, _, rfl⟩ := List.mem_map.mp h
    exact Flight.resent_again hg hb
  · obtain ⟨m, _, rfl⟩ := List.mem_map.mp h
    rfl

theorem resentFlights_covers {g : Nat} {f : Flight} {membs : List Member} (hf : f.group = g) (l : List Flight) {m : Member} (hm : m ∈ membs) :
    ∃ x ∈ resentFlights g f membs l, x.group = g ∧ x.quad = m.quad ∧ x.blk = f.blk := by
  by_cases ha : (l.map (Flight.resent g f.blk)).any (fun x => x.group == g && x.quad == m.quad && x.blk == f.blk) = true
  · obtain ⟨x, hx, hp⟩ := List.any_eq_true.mp ha
    simp only [Bool.and_eq_true, beq_iff_eq, and_assoc] at hp
    exact ⟨x, List.mem_append_left _ hx, hp⟩
  · exact ⟨_, List.mem_append_right _ (List.mem_map_of_mem (List.mem_filter.mpr ⟨hm, by simpa using ha⟩)), hf, rfl, rfl⟩

section
variable {s : State} {g : Nat} {f : Flight} (hf : (s.ctl (gKey g)).flights.find? (fun f => f.group == g && f.again) = some f)
include hf

theorem exec_blockResend_asleep (h : s.trunksAwake (gKey g) (s.gt g).tmask = false) :
    exec (.blockResend g) s = .next (s.wakeTrunks (gKey g) (s.gt g).tmask) := by
  refine congrArg Host.Outcome.next ?_
  dsimp only
  rw [hf, h]
  rfl

theorem exec_blockResend_awake (h : s.trunksAwake (gKey g) (s.gt g).tmask = true) :
    exec (.blockResend g) s = .next ((s.setCtl (gKey g) { s.ctl (gKey g) with
      flights := resentFlights g f (s.gt g).membs (s.ctl (gKey g)).flights }).wakeTrunks (gKey g) (s.gt g).tmask) := by
  refine congrArg Host.Outcome.next ?_
  dsimp only
  rw [hf, h]
  rfl

end

/-! ## Stalls (R146) -/

theorem exec_groupStall {s : State} {g : Nat} {j : Ltx} (hj : s.jobOf g = some j) (hb : j.buf.isSome = true)
    (hs : (s.gt g).stalled ≠ some (s.gt g).sent) (hk : (s.wafer (g / 2 ^ 14)).kgstall ≠ 0)
    (ht : (s.wafer (g / 2 ^ 14)).kgstall.toNat * 1000 < s.time - (s.gt g).since) :
    exec (.groupStall g) s = .next ((s.setGt g { s.gt g with stalled := some (s.gt g).sent }).raiseEv (g / 2 ^ 14)
      { kind := 1, ref := s.liveRef (s.gt g).ref,
        words := [w64 (g % 2 ^ 14), w64 (s.gt g).sent, w64 (((s.gt g).lowest.map (·.quad)).getD 0), 0, 0, 0], what := .other,
        core := none }) := by
  have hk0 : (s.wafer (g / 2 ^ 14)).kgstall.toNat ≠ 0 := fun h => hk (BitVec.eq_of_toNat_eq h)
  refine congrArg Host.Outcome.next ?_
  dsimp only
  rw [hj]
  refine if_neg ?_
  have hn : j.buf.isNone = false := by rw [← Option.not_isSome, hb]; rfl
  simp only [hn, beq_eq_false_iff_ne.mpr hs, decide_eq_false hk0, decide_eq_false (Nat.not_le.mpr ht),
    Bool.or_self, Bool.false_eq_true, not_false_eq_true]

theorem blocksArrive : Pieces.BlocksArrive := by
  refine fun s => ⟨fun quad g a f b hf ha => ⟨fun hd m i rest hm hr hg => ?_, fun hd ht => ?_, exec_slotFill_dup hf ha⟩,
    fun g f hf => ⟨fun hup => ?_, fun hup => ?_⟩, fun g j hj hb hst hk ht => ?_, fun k => ?_⟩
  · have hname : (quad / 2 ^ 13 * 2 ^ 14 + g) % 2 ^ 14 = g := by omega
    refine ⟨_, exec_slotFill_good hf ha hd, ?_⟩
    rw [State.fillSlot_eq (by rw [hname]; exact hm) hr, hname, State.quad_write, State.quad_setQuad, State.write_setQuad_mem]
    obtain ⟨hslot, hmemb⟩ := Quad.filledHead_spec (i := i) (rest := rest) hm
    exact ⟨hslot, hmemb, ((s.beside_flights _ _).write ..).mem⟩
  · refine ⟨_, exec_slotFill_bad hf ha hd ht, rfl, ?_, ?_⟩
    · rw [State.quad_setQuad]
    · exact congrArg Ctl.flights (State.ctl_setCtl ..)
  · exact ⟨_, exec_blockResend_asleep hf hup, ⟨State.jobs_wakeTrunks .., fun j h4 hm => State.trunk_wakeTrunks _ _ _ h4 hm⟩,
      State.flights_wakeTrunks ..⟩
  · have hg : f.group = g := by
      have hp := List.find?_some hf
      simp only [Bool.and_eq_true, beq_iff_eq] at hp
      exact hp.1
    refine ⟨_, exec_blockResend_awake hf hup, ⟨?_, fun j h4 hm => State.trunk_wakeTrunks _ _ _ h4 hm⟩, rfl, ?_⟩
    · rw [State.jobs_wakeTrunks, State.ctl_setCtl]
    · rw [State.flights_wakeTrunks, State.ctl_setCtl]
      exact ⟨fun x => resentFlights_again, fun m => resentFlights_covers hg _⟩
  · refine ⟨_, _, exec_groupStall hj hb hst hk ht, ?_, congrArg Wafer.raised (State.wafer_setWafer ..), rfl, rfl, rfl⟩
    exact congrArg Gt.stalled (State.gt_setGt s g _)
  · refine ⟨_, rfl, ?_⟩
    rw [State.quad_setQuad]
    exact ⟨rfl, rfl⟩

/-- Settles O50: blocks are sent on demand, fill their members' slots, and are sent again where they failed. -/
theorem blocks : Obligations.Blocks := ⟨blocksAreSent, blocksArrive⟩

end Sys2Proof.Machine

/-! R164, R320, R321, R344, R364, R390: the router operators. -/

namespace Sys2Proof.Machine

/-! ## The act of a router -/

/-- A router that may act and has not ended does what its operator does. -/
theorem State.onRouter_ready {s : State} {w : W64} (h : s.routerReady w) (act : Nat → Nat → List Nat → State) :
    s.onRouter w act = act s.curRes s.curSite (rtPorts w) := by
  obtain ⟨hkind, hne, hword, hdone, hclosed, hruns⟩ := h
  unfold State.onRouter
  have hword' : nth (s.cell s.curRes s.curSite).words 0 0#64 = w := hword
  rw [if_neg (by simp [hkind, hne, hword', hdone, hruns]), if_neg (by simp [hclosed])]

/-- A plane put back is no other act's: the acting unit stays. -/
theorem State.setPlane_curRes (s : State) (k : Nat) (p : Plane) : (s.setPlane k p).curRes = s.curRes ∧ (s.setPlane k p).curSite = s.curSite := by
  unfold State.setPlane
  split
  · exact ⟨rfl, rfl⟩
  · split <;> exact ⟨rfl, rfl⟩

/-- Taking tokens at some port codes of the acting router. -/
theorem State.foldl_rtTake (codes : List Nat) {k site : Nat} : ∀ s : State, s.curRes = k → s.curSite = site →
    codes.foldl (fun s p => s.rtTake s.curRes (siteCell s.curSite) p) s = codes.foldl (fun s p => s.rtTake k (siteCell site) p) s := by
  induction codes with
  | nil => exact fun _ _ _ => rfl
  | cons c cs ih =>
    rintro s rfl rfl
    obtain ⟨hres, hsite⟩ : (s.rtTake s.curRes (siteCell s.curSite) c).curRes = s.curRes ∧
      (s.rtTake s.curRes (siteCell s.curSite) c).curSite = s.curSite := State.setPlane_curRes ..
    exact ih _ hres hsite

/-- What a router sends leaves once its outputs have requested it. -/
theorem State.rtSend_free {s : State} {os : List OutP} (h : (s.plane s.curRes).canEmit os = true) (codes : List Nat) (t : Tok)
    (f : Cell → Cell) : s.rtSend s.curRes s.curSite codes os t f = s.forwards codes os t f := by
  rw [State.rtSend, if_pos h, State.forwards, State.foldl_rtTake codes s rfl rfl]

theorem Tok.isTrue_data (v : W64) (p : Bool) (sc : BitVec 16) (r : Bool) (j : Nat) :
    (Tok.data v p sc r j).isTrue = decide (v ≠ 0 ∧ p = false) := by
  cases p <;> simp [Tok.isTrue, bne, beq_eq_decide]

/-! ## The operators -/

/-- The code of port `i` of a router word. -/
def portCode (w : W64) (i : Nat) : Nat := nth (rtPorts w) i 0xF

/-- The token at port `i` of the acting router of word `w`. -/
def State.rtTok (s : State) (w : W64) (i : Nat) : Option Tok := s.rtPeek s.curRes (siteCell s.curSite) (portCode w i)

/-- The outputs on port `i` of the acting router of word `w`. -/
def State.rtOn (s : State) (w : W64) (i : Nat) : List OutP := s.rtOuts s.curRes s.curSite (portCode w i)

section
variable {s : State} {w : W64} (h : s.routerReady w)

include h

theorem exec_routerPass {t : Tok} (ht : s.rtTok w 0 = some t) (hne : t ≠ .eos)
    (hf : (s.plane s.curRes).canEmit (((rtPorts w).drop 1).flatMap (s.rtOuts s.curRes s.curSite)) = true) :
    exec (.routerPass w) s =
      .next (s.forwards [portCode w 0] (((rtPorts w).drop 1).flatMap (s.rtOuts s.curRes s.curSite)) t id) := by
  refine congrArg Host.Outcome.next ?_
  rw [State.onRouter_ready h]
  dsimp only
  rw [show s.rtPeek _ _ (nth _ 0 _) = some t from ht]
  cases t with
  | eos => exact absurd rfl hne
  | data => exact State.rtSend_free hf ..

theorem exec_steer {v : W64} {p : Bool} {sc : BitVec 16} {r : Bool} {j : Nat} {d : Tok} (hc : s.rtTok w 0 = some (.data v p sc r j))
    (hd : s.rtTok w 1 = some d) (hne : d ≠ .eos)
    (hf : (s.plane s.curRes).canEmit (s.rtOn w (if v ≠ 0 ∧ p = false then 2 else 3)) = true) :
    exec (.steer w) s = .next
      (s.forwards [portCode w 0, portCode w 1] (s.rtOn w (if v ≠ 0 ∧ p = false then 2 else 3)) (d.taint p) id) := by
  refine congrArg Host.Outcome.next ?_
  rw [State.onRouter_ready h]
  dsimp only
  rw [show s.rtPeek _ _ (nth _ 0 _) = some _ from hc]
  dsimp only
  rw [show s.rtPeek _ _ (nth _ 1 _) = some d from hd]
  cases d with
  | eos => exact absurd rfl hne
  | data =>
    simp only [Tok.isTrue_data, decide_eq_true_eq]
    exact State.rtSend_free hf ..

theorem exec_carry_initial {t : Tok} (hst : (s.cell s.curRes s.curSite).st = 0) (ht : s.rtTok w 1 = some t) (hne : t ≠ .eos)
    (hf : (s.plane s.curRes).canEmit (s.rtOn w 2) = true) :
    exec (.carry w) s = .next (s.forwards [portCode w 1] (s.rtOn w 2) t fun x => { x with st := 1 }) := by
  refine congrArg Host.Outcome.next ?_
  rw [State.onRouter_ready h]
  dsimp only
  rw [if_pos hst, show s.rtPeek _ _ (nth _ 1 _) = some t from ht]
  cases t with
  | eos => exact absurd rfl hne
  | data => exact State.rtSend_free hf ..

theorem exec_carry_loops {v : W64} {p : Bool} {sc : BitVec 16} {r : Bool} {j : Nat} {t : Tok} (hst : (s.cell s.curRes s.curSite).st = 1)
    (hc : s.rtTok w 0 = some (.data v p sc r j)) (hv : v ≠ 0 ∧ p = false) (ht : s.rtTok w 3 = some t) (hne : t ≠ .eos)
    (hf : (s.plane s.curRes).canEmit (s.rtOn w 2) = true) :
    exec (.carry w) s = .next (s.forwards [portCode w 0, portCode w 3] (s.rtOn w 2) t id) := by
  refine congrArg Host.Outcome.next ?_
  rw [State.onRouter_ready h]
  dsimp only
  rw [if_neg (by rw [hst]; decide), show s.rtPeek _ _ (nth _ 0 _) = some _ from hc]
  dsimp only
  rw [if_pos (by rw [Tok.isTrue_data]; exact decide_eq_true hv), show s.rtPeek _ _ (nth _ 3 _) = some t from ht]
  cases t with
  | eos => exact absurd rfl hne
  | data => exact State.rtSend_free hf ..

theorem exec_carry_over {v : W64} {p : Bool} {sc : BitVec 16} {r : Bool} {j : Nat} (hst : (s.cell s.curRes s.curSite).st = 1)
    (hc : s.rtTok w 0 = some (.data v p sc r j)) (hv : ¬(v ≠ 0 ∧ p = false)) :
    exec (.carry w) s = .next (s.forwards [portCode w 0] [] .eos fun x => { x with st := 0 }) := by
  refine congrArg Host.Outcome.next ?_
  rw [State.onRouter_ready h]
  dsimp only
  rw [if_neg (by rw [hst]; decide), show s.rtPeek _ _ (nth _ 0 _) = some _ from hc]
  dsimp only
  rw [if_neg (by rw [Tok.isTrue_data]; simpa using hv)]
  rfl

theorem exec_invar_takes {t : Tok} (hval : (s.cell s.curRes s.curSite).val = none) (ht : s.rtTok w 1 = some t) (hne : t ≠ .eos) :
    exec (.invar w) s = .next (s.forwards [portCode w 1] [] .eos fun x => { x with val := some t }) := by
  refine congrArg Host.Outcome.next ?_
  rw [State.onRouter_ready h]
  dsimp only
  rw [hval]
  dsimp only
  rw [show s.rtPeek _ _ (nth _ 1 _) = some t from ht]
  cases t with
  | eos => exact absurd rfl hne
  | data => rfl

theorem exec_invar_sends {v : W64} {p : Bool} {sc : BitVec 16} {r : Bool} {j : Nat} {t : Tok}
    (hval : (s.cell s.curRes s.curSite).val = some t) (hc : s.rtTok w 0 = some (.data v p sc r j)) (hv : v ≠ 0 ∧ p = false)
    (hf : (s.plane s.curRes).canEmit (s.rtOn w 2) = true) :
    exec (.invar w) s = .next (s.forwards [portCode w 0] (s.rtOn w 2) t id) := by
  refine congrArg Host.Outcome.next ?_
  rw [State.onRouter_ready h]
  dsimp only
  rw [hval]
  dsimp only
  rw [show s.rtPeek _ _ (nth _ 0 _) = some _ from hc]
  dsimp only
  rw [if_pos (by rw [Tok.isTrue_data]; exact decide_eq_true hv)]
  exact State.rtSend_free hf ..

theorem exec_invar_drops {v : W64} {p : Bool} {sc : BitVec 16} {r : Bool} {j : Nat} {t : Tok}
    (hval : (s.cell s.curRes s.curSite).val = some t) (hc : s.rtTok w 0 = some (.data v p sc r j)) (hv : ¬(v ≠ 0 ∧ p = false)) :
    exec (.invar w) s = .next (s.forwards [portCode w 0] [] .eos fun x => { x with val := none }) := by
  refine congrArg Host.Outcome.next ?_
  rw [State.onRouter_ready h]
  dsimp only
  rw [hval]
  dsimp only
  rw [show s.rtPeek _ _ (nth _ 0 _) = some _ from hc]
  dsimp only
  rw [if_neg (by rw [Tok.isTrue_data]; simpa using hv)]
  rfl

theorem exec_merge {v : W64} {p : Bool} {sc : BitVec 16} {r : Bool} {j : Nat} {t : Tok} (hc : s.rtTok w 0 = some (.data v p sc r j))
    (ht : s.rtTok w (if v ≠ 0 ∧ p = false then 1 else 3) = some t) (hne : t ≠ .eos)
    (hf : (s.plane s.curRes).canEmit (s.rtOn w 2) = true) :
    exec (.merge w) s = .next
      (s.forwards [portCode w 0, portCode w (if v ≠ 0 ∧ p = false then 1 else 3)] (s.rtOn w 2) (t.taint p) id) := by
  refine congrArg Host.Outcome.next ?_
  rw [State.onRouter_ready h]
  dsimp only
  rw [show s.rtPeek _ _ (nth _ 0 _) = some _ from hc]
  simp only [Tok.isTrue_data, decide_eq_true_eq]
  rw [show s.rtPeek _ _ (nth _ (if v ≠ 0 ∧ p = false then 1 else 3) _) = some t from ht]
  cases t with
  | eos => exact absurd rfl hne
  | data => exact State.rtSend_free hf ..

end

/-- A control token that counts as false is no true one. -/
theorem not_true_control {v : W64} {p : Bool} (h : v = 0 ∨ p = true) : ¬(v ≠ 0 ∧ p = false) := by
  rintro ⟨hv, rfl⟩
  exact h.elim hv Bool.noConfusion

/-- Settles O26: each operator takes its control token first, and sends what that names. -/
theorem routersForward : Obligations.RoutersForward := by
  unfold Obligations.RoutersForward
  refine fun s w h => ⟨fun t ht hne hf => exec_routerPass h ht hne hf, fun v p sc r j d hc hd hne hf => exec_steer h hc hd hne hf,
    fun hst t ht hne hf => exec_carry_initial h hst ht hne hf,
    fun hst v p sc r j hc => ⟨fun t hv hp ht hne hf => exec_carry_loops h hst hc ⟨hv, hp⟩ ht hne hf,
      fun hv => exec_carry_over h hst hc (not_true_control hv)⟩,
    fun hval t ht hne => exec_invar_takes h hval ht hne,
    fun t hval v p sc r j hc => ⟨fun hv hp hf => exec_invar_sends h hval hc ⟨hv, hp⟩ hf,
      fun hv => exec_invar_drops h hval hc (not_true_control hv)⟩,
    fun v p sc r j t hc ht hne hf => exec_merge h hc ht hne hf⟩

end Sys2Proof.Machine

/-! R158, R162 to R165, R370 to R372, R375, R377, R378, R380 to R382: the cells that compute. -/

namespace Sys2Proof.Machine

/-! ## Residencies and planes put back -/

@[simp] theorem State.mfind_setResid (s : State) (i : Nat) (r : Resid) : mfind (s.setResid i r).resids i = some r := mfind_mput_same ..

theorem State.modResid_listed {s : State} {i : Nat} {r : Resid} (h : mfind s.resids i = some r) (f : Resid → Resid) :
    s.modResid i f = s.setResid i (f r) := by
  unfold State.modResid
  rw [h]

section
variable {s : State} {k : Nat}

theorem State.plane_ctl {c : Nat} (hk : fabCtl k = some c) : s.plane k = (s.ctl c).fab := by
  unfold State.plane
  rw [hk]

theorem State.setPlane_ctl {c : Nat} (hk : fabCtl k = some c) (p : Plane) : s.setPlane k p = s.setCtl c { s.ctl c with fab := p } := by
  unfold State.setPlane
  rw [hk]

theorem State.plane_resid {r : Resid} (hk : fabCtl k = none) (h : mfind s.resids (k / 2) = some r) : s.plane k = r.live := by
  unfold State.plane
  rw [hk]
  dsimp only
  rw [h]

theorem State.setPlane_resid {r : Resid} (hk : fabCtl k = none) (h : mfind s.resids (k / 2) = some r) (p : Plane) :
    s.setPlane k p = s.setResid (k / 2) { r with live := p } := by
  unfold State.setPlane
  rw [hk]
  dsimp only
  rw [h]
  rfl

theorem State.portToks_resid {r : Resid} (hk : fabCtl k = none) (h : mfind s.resids (k / 2) = some r) (site sel : Nat) :
    s.portToks k site sel = if sel = 0xC then r.msgs else r.live.call := by
  unfold State.portToks
  rw [hk, State.plane_resid hk h, h]
  rfl

/-- A fabric whose plane stands in the state: an edge fabric, or that of a residency that is listed. -/
def State.hasFab (s : State) (k : Nat) : Prop := fabCtl k = none → ∃ r, mfind s.resids (k / 2) = some r

theorem State.hasFab_ctl {c : Nat} (hk : fabCtl k = some c) : s.hasFab k := fun h => absurd (h.symm.trans hk) (by simp)

theorem State.plane_setPlane (h : s.hasFab k) (p : Plane) : (s.setPlane k p).plane k = p := by
  cases hk : fabCtl k with
  | some c => rw [State.setPlane_ctl hk, State.plane_ctl hk, State.ctl_setCtl]
  | none =>
    obtain ⟨r, hr⟩ := h hk
    rw [State.setPlane_resid hk hr, State.plane_resid hk (State.mfind_setResid ..)]

theorem State.hasFab_setPlane (h : s.hasFab k) (p : Plane) : (s.setPlane k p).hasFab k := by
  intro hk
  obtain ⟨r, hr⟩ := h hk
  rw [State.setPlane_resid hk hr]
  exact ⟨_, State.mfind_setResid ..⟩

theorem State.lane_setLane (h : s.hasFab k) (x : Nat) (l : Lane) : (s.setLane k x l).lane k x = l := by
  rw [State.lane, State.setLane, State.plane_setPlane h]
  exact mget_mput_same ..

/-- A site that may act stands in a fabric. -/
theorem State.hasFab_of_runs {b x : Nat} (h : s.fabRuns k b x = true) : s.hasFab k := by
  intro hk
  cases hr : mfind s.resids (k / 2) with
  | some r => exact ⟨r, rfl⟩
  | none =>
    unfold State.fabRuns at h
    rw [hk] at h
    dsimp only at h
    rw [hr] at h
    exact Bool.noConfusion h

end

/-! ## The tokens that a cell finds -/

/-- The inputs of fabric `k` hold the same tokens in `s` and in `t`. -/
structure State.SameInputs (s t : State) (k : Nat) : Prop where
  chans : (t.plane k).chans = (s.plane k).chans
  ports : ∀ site sel, t.portToks k site sel = s.portToks k site sel
  fab : t.hasFab k

section
variable {s t : State} {k : Nat}

theorem State.SameInputs.refl (h : s.hasFab k) : s.SameInputs s k := ⟨rfl, fun _ _ => rfl, h⟩

theorem State.SameInputs.trans {u : State} (h : s.SameInputs t k) (g : t.SameInputs u k) : s.SameInputs u k :=
  ⟨g.chans.trans h.chans, fun site sel => (g.ports site sel).trans (h.ports site sel), g.fab⟩

theorem State.SameInputs.of_resid {r x : Resid} (hk : fabCtl k = none) (hr : mfind s.resids (k / 2) = some r)
    (hx : mfind t.resids (k / 2) = some x) (hc : x.live.chans = r.live.chans) (hm : x.msgs = r.msgs) (hl : x.live.call = r.live.call) :
    s.SameInputs t k where
  chans := by rw [State.plane_resid hk hx, State.plane_resid hk hr, hc]
  ports site sel := by rw [State.portToks_resid hk hx, State.portToks_resid hk hr, hm, hl]
  fab _ := ⟨x, hx⟩

theorem State.SameInputs.peek (h : s.SameInputs t k) (site sel : Nat) : t.peek k site sel = s.peek k site sel := by
  unfold State.peek Plane.chan
  rw [h.chans, h.ports]

theorem State.SameInputs.atHeads (h : s.SameInputs t k) (site : Nat) (ins : List (Nat × Nat)) :
    t.atHeads k site ins = s.atHeads k site ins := by
  unfold State.atHeads
  simp only [h.peek]

/-- A cell put back takes no token. -/
theorem sameInputs_setCell (h : s.hasFab k) (b : Nat) (c : Cell) : s.SameInputs (s.setCell k b c) k := by
  cases hk : fabCtl k with
  | some n =>
    refine ⟨?_, fun site sel => ?_, State.hasFab_ctl hk⟩
    · rw [State.setCell, State.plane_setPlane h]
      rfl
    · rw [State.setCell, State.setPlane_ctl hk]
      unfold State.portToks
      rw [hk]
      dsimp only
      rw [State.ctl_setCtl]
      rfl
  | none =>
    obtain ⟨r, hr⟩ := h hk
    rw [State.setCell, State.setPlane_resid hk hr, State.plane_resid hk hr]
    exact .of_resid hk hr (State.mfind_setResid ..) rfl rfl rfl

/-- The grain of a firing takes no token. -/
theorem sameInputs_payGrain {u : State} {x : Nat} (h : s.hasFab k) (hp : s.payGrain k x = (u, true)) : s.SameInputs u k := by
  unfold State.payGrain State.peUnit at hp
  cases hk : fabCtl k with
  | some n =>
    rw [hk] at hp
    obtain ⟨rfl, -⟩ := Prod.mk.inj hp
    exact .refl h
  | none =>
    obtain ⟨r, hr⟩ := h hk
    rw [hk, hr] at hp
    dsimp only [Option.map_some] at hp
    split at hp
    · obtain ⟨rfl, -⟩ := Prod.mk.inj hp
      refine .of_resid hk hr (x := { r with fired := true }) ?_ rfl rfl rfl
      rw [State.modResid_listed (show mfind (s.grain _ _ _).1.resids (k / 2) = some r from hr)]
      exact State.mfind_setResid ..
    · exact absurd (Prod.mk.inj hp).2 Bool.false_ne_true

/-- The plane stands in the state still after a token has left it. -/
theorem State.hasFab_takeIn (h : s.hasFab k) (site sel : Nat) : (s.takeIn k site sel).hasFab k := by
  unfold State.takeIn
  dsimp only
  split
  · intro hk
    obtain ⟨r, hr⟩ := h hk
    unfold State.setPortToks
    rw [hk]
    dsimp only
    split
    · rw [State.modResid_listed hr]
      exact ⟨_, State.mfind_setResid ..⟩
    · exact State.hasFab_setPlane h _ hk
  · exact State.hasFab_setPlane h _

theorem State.hasFab_takeAll (site : Nat) (sels : List Nat) : ∀ {s : State}, s.hasFab k → (s.takeAll k site sels).hasFab k := by
  induction sels with
  | nil => exact id
  | cons x xs ih => exact fun h => ih (State.hasFab_takeIn h site x)

/-- A firing that begins holds the operands that stood at its inputs. -/
theorem State.ops_latch {a : Seat} {ins : List (Nat × Nat)} (h : s.hasFab a.k) :
    ((s.latch a ins).lane a.k a.x).ops = s.atHeads a.k a.b ins := by
  unfold State.latch
  rw [State.lane_setLane (State.hasFab_takeAll _ _ h)]

end

/-! ## A firing and its operands -/

section
variable {s t : State} {w : W64} {sends : Bool} {ts : List Tok}

theorem State.siteFree.hasFab (h : s.siteFree w) : s.hasFab s.seat.k := by
  obtain ⟨-, -, -, hruns, -⟩ := h
  exact State.hasFab_of_runs hruns

theorem State.begins.ops (h : s.begins w sends ts t) : (t.lane s.seat.k s.seat.x).ops = ts := by
  obtain ⟨⟨hfree, -⟩, -, -, rfl, u, hpay, ht⟩ := h
  have hu := sameInputs_payGrain hfree.hasFab hpay
  rcases ht with ⟨-, -, rfl⟩ | ⟨-, -, -, rfl⟩
  · rw [State.ops_latch hu.fab, hu.atHeads]
  · have hc := sameInputs_setCell hu.fab s.seat.b { s.cell s.seat.k s.seat.b with taken := (s.cell s.seat.k s.seat.b).taken + 1 }
    rw [State.ops_latch hc.fab, (hu.trans hc).atHeads]

theorem State.fires.ops (h : s.fires w sends ts t) : (t.lane s.seat.k s.seat.x).ops = ts := by
  rcases h with h | ⟨⟨-, -, hops, -⟩, rfl⟩
  · exact h.ops
  · exact hops

end

/-! ## Operators of one result -/

section
variable {s t : State} {w : W64} {ts : List Tok} {ops : List Opnd} {ty rty : Nat} {f : W32 → List Opnd → Nat}

/-- A firing ends with the operator's result, formed without the fabric's generator. -/
theorem State.peOp_fires (h : s.fires w true ts t) (ho : readOps w ty ts = some ops) : s.peOp w ty f rty false =
    s.ended t [.data (extend rty (f (t.fabGen s.seat.k s.seat.x) ops)) (ops.any (·.bad)) scaleOne false 0] := by
  rw [State.peOp, State.operate_fires s t w true ts _ _ _ h (by rw [ho]; rfl), h.ops, ho]
  rfl

/-- A firing ends with the operator's result, rounded by the fabric's generator, which steps. -/
theorem State.peOp_fires_rounding (h : s.fires w true ts t) (ho : readOps w ty ts = some ops) : s.peOp w ty f rty true =
    s.ended (t.setFabGen s.seat.k s.seat.x (lfsr (t.fabGen s.seat.k s.seat.x)))
      [.data (extend rty (f (lfsr (t.fabGen s.seat.k s.seat.x)) ops)) (ops.any (·.bad)) scaleOne false 0] := by
  rw [State.peOp, State.operate_fires s t w true ts _ _ _ h (by rw [ho]; rfl), h.ops, ho]
  rfl

/-- A copy that lacks an operand, or that it is not the turn of, does nothing. -/
theorem State.operate_idle {sends : Bool} {ok : List Tok → Bool} {last : Lane → List Tok} {go : Seat → List OutP → State → State}
    (h : s.siteReady w) (hd : s.seat.n = 1 ∨ (s.lane s.seat.k s.seat.x).deal = false)
    (hi : s.inputs s.seat.k s.seat.b (inputsOf (wInputs w)) = .waits ∨ s.seat.n ≠ 1 ∧
      s.inputs s.seat.k s.seat.b (inputsOf (wInputs w)) = .fires ∧ (s.cell s.seat.k s.seat.b).taken % s.seat.n ≠ s.seat.j) :
    s.operate w sends ok last go = s := by
  obtain ⟨hfree, hon, hcl, hport⟩ := h
  unfold State.operate
  simp only at hon hcl hport ⊢
  rw [State.onSite_free _ _ _ _ _ _ hfree (.inr hcl) hport, if_neg (by simp [hon])]
  unfold State.startFiring
  dsimp only
  rcases hi with hw | ⟨hn, hf, hj⟩
  · rw [hw]
    split
    · rfl
    · next hn => rw [if_neg (by simp [hd.resolve_left hn])]
  · rw [if_neg hn, if_neg (by simp [hd.resolve_left hn]), hf]
    exact if_pos hj

end

/-- Each of these operators forms its result from its operands alone. -/
theorem exec_cellOps {w : W64} {ops : List Opnd} {p : Instr × Nat × Nat} (h : p ∈ cellOps w ops) (s : State) :
    ∃ f, exec p.1 s = .next (s.peOp w (wTy w) f p.2.2 false) ∧ ∀ g, f g ops = p.2.1 := by
  simp only [cellOps, List.mem_cons, List.not_mem_nil, or_false] at h
  rcases h with rfl | rfl | rfl | rfl | rfl | rfl | rfl | rfl | rfl
  all_goals exact ⟨_, rfl, fun _ => rfl⟩

/-- PCVT reads its operand as the type of fn, and rounds by the generator where its mode is 4. -/
theorem exec_pcvt (w : W64) (s : State) : exec (.pcvt w) s = .next (s.peOp w (wFn w)
    (fun g l => elemRound (wTy w) (wRnd w) (wSat w) g.toNat (op l 0)) (wTy w) (wRnd w == 4)) := rfl

theorem cellsCompute : Pieces.CellsCompute := by
  unfold Pieces.CellsCompute
  refine fun s w => ⟨fun ts t ops h => ⟨fun ho p hp => ?_, fun ho => ⟨fun hr => ?_, fun hr => ?_⟩⟩, fun h hd hi => ⟨fun ops p hp => ?_, ?_⟩⟩
  · obtain ⟨f, hx, hf⟩ := exec_cellOps hp s
    rw [hx, State.peOp_fires h ho, hf]
  · rw [exec_pcvt, beq_eq_false_iff_ne.mpr hr, State.peOp_fires h ho]
  · rw [exec_pcvt, hr, beq_self_eq_true, State.peOp_fires_rounding h ho]
  · obtain ⟨f, hx, -⟩ := exec_cellOps hp s
    rw [hx, State.peOp, State.operate_idle h hd hi]
  · rw [exec_pcvt, State.peOp, State.operate_idle h hd hi]

/-! ## Sums and tables -/

section
variable {s : State} {w : W64}

theorem exec_pacc_fires {t : State} {ts : List Tok} {ops : List Opnd} (h : s.fires w (wFn w == 1) ts t)
    (ho : readOps w (wTy w) ts = some ops) :
    let l := t.lane s.seat.k s.seat.x
    let n := elemRound (wTy w) (wRnd w) false 0 ((l.total w).1.add (wRnd w) (op ops 0))
    let bad := (l.total w).2 || ops.any (·.bad)
    exec (.pacc w) s = .next (s.ended (t.setLane s.seat.k s.seat.x { l with sum := some (elemRead (wTy w) n, bad) })
      (if wFn w = 1 then [.data (extend (wTy w) n) bad scaleOne false 0] else [])) := by
  refine congrArg Host.Outcome.next ?_
  rw [State.operate_fires s t w _ ts _ _ _ h (by rw [ho]; rfl)]
  dsimp only
  rw [h.ops, ho]
  rfl

/-- The end of the elements of a PACC with fn 0 of one copy: its sum leaves, then end-of-stream. -/
theorem exec_pacc_ends {u : State} (h : s.siteReady w) (hn : s.seat.n = 1) (hf : wFn w ≠ 1)
    (hi : s.inputs s.seat.k s.seat.b (inputsOf (wInputs w)) = .ends)
    (he : (s.plane s.seat.k).canEmit (s.outs s.seat.k s.seat.b) = true) (hp : s.payGrain s.seat.k s.seat.x = (u, true)) :
    exec (.pacc w) s = .next ((u.emit s.seat.k s.seat.b (s.outs s.seat.k s.seat.b) false
      (sumTok w ((s.lane s.seat.k s.seat.x).total w))).endSite s.seat.k s.seat.b (inputsOf (wInputs w)) (s.outs s.seat.k s.seat.b)) := by
  refine congrArg Host.Outcome.next ?_
  obtain ⟨hfree, hon, hcl, hport⟩ := h
  unfold State.operate
  simp only at hon hcl hport ⊢
  rw [State.onSite_free _ _ _ _ _ _ hfree (.inr hcl) hport, if_neg (by simp [hon])]
  unfold State.startFiring
  dsimp only
  rw [if_pos hn, hi]
  dsimp only
  rw [if_neg (by simp [he]), hp, if_neg hf]
  rfl

/-- A nibble of a word. -/
theorem bits_nibble (v : W64) (n : Nat) : bits v (4 * n + 3) (4 * n) = v.toNat / 16 ^ n % 16 := by
  rw [bits_eq, show 4 * n + 3 + 1 - 4 * n = 4 by omega, Nat.pow_mul, show (2 : Nat) ^ 4 = 16 from rfl]

theorem exec_plut {v : W64} {p r : Bool} {j : Nat} (h : s.siteReady w)
    (hp : s.peek s.seat.k s.seat.b (wIa w) = some (.data v p scaleOne r j))
    (he : (s.plane s.seat.k).canEmit (s.outs s.seat.k s.seat.b) = true) :
    exec (.plut w) s = .next (s.ended (s.takeIn s.seat.k s.seat.b (wIa w)) ((List.range (bits w 3 0 + 1)).map fun n =>
      Tok.data (lutEntry (s.cell s.seat.k s.seat.b).words (v.toNat / 16 ^ n % 16)) p scaleOne false j)) := by
  refine congrArg Host.Outcome.next ?_
  obtain ⟨hfree, hon, hcl, hport⟩ := h
  dsimp only at hon hcl hport ⊢
  rw [State.onSite_free _ _ _ _ _ _ hfree (.inr hcl) hport, hp]
  simp only [bits_nibble, he]
  rfl

end

theorem sumsAndTables : Pieces.SumsAndTables := by
  unfold Pieces.SumsAndTables
  exact fun s w => ⟨fun ts t ops h ho => exec_pacc_fires h ho, fun u h hn hf hi he hp => exec_pacc_ends h hn hf hi he hp,
    fun v p r j h hp he => exec_plut h hp he⟩

/-- Settles O53: the operators of one result, PACC and PLUT. -/
theorem cellsFire : Obligations.CellsFire := ⟨cellsCompute, sumsAndTables⟩

end Sys2Proof.Machine

/-! R92, R162, R168 to R177, R322, R323, R325, R331, R332: residencies, their configurations, calls, returns and requests. -/

namespace Sys2Proof.Machine

/-! ## What a write by hardware leaves of residencies -/

/-- A read of a collection whose entries have all been changed, each under its key. -/
theorem mfind_map_entries {α β : Type} (g : Nat × α → Nat × β) (hg : ∀ e, (g e).1 = e.1) (m : Map α) (k : Nat) :
    mfind (m.map g) k = (mfind m k).map fun v => (g (k, v)).2 := by
  induction m with
  | nil => rfl
  | cons e r ih =>
    obtain ⟨j, v⟩ := e
    have hj : g (j, v) = (j, (g (j, v)).2) := Prod.ext (hg _) rfl
    rw [List.map_cons, hj]
    by_cases h : j = k
    · subst h; simp [mfind]
    · simp [mfind, h, ih]

/-- `x` is `r` but for what channels hold of spilled tokens (R92). -/
structure Resid.Respilt (r x : Resid) : Prop where
  eq : x = { r with live := { r.live with chans := x.live.chans }, planes := x.planes }
  depth : x.planes.length = r.planes.length

theorem Resid.Respilt.refl (r : Resid) : r.Respilt r := ⟨rfl, rfl⟩

section
variable {s : State} {i : Nat} {r : Resid}

theorem State.wakeOne_resids (s : State) (n : Nat) (ws : List Nat) : (s.wakeOne n ws).resids = s.resids := by
  unfold State.wakeOne
  dsimp only
  repeat' split
  all_goals rfl

theorem State.wake_resids (s : State) (ws : List Nat) : (s.wake ws).resids = s.resids := by
  unfold State.wake
  generalize s.cores.map (·.1) = l
  induction l generalizing s with
  | nil => rfl
  | cons n r ih => exact (ih _).trans (s.wakeOne_resids n ws)

/-- Tokens spilled where a write goes are spoilt; nothing else of a residency changes. -/
theorem State.spoil_resid (h : mfind s.resids i = some r) (pa n : Nat) : ∃ x, mfind (s.spoil pa n).resids i = some x ∧ r.Respilt x := by
  unfold State.spoil
  dsimp only
  split
  · rw [mfind_map_entries _ (fun e => by split <;> rfl), h]
    refine ⟨_, rfl, ?_⟩
    dsimp only
    split
    · exact ⟨rfl, List.length_map ..⟩
    · exact .refl r
  · exact ⟨r, h, .refl r⟩

theorem State.hwWrite_resid (h : mfind s.resids i = some r) (wf asid : Nat) (va v : W64) :
    ∃ x, mfind (s.hwWrite wf asid va v).resids i = some x ∧ r.Respilt x := by
  unfold State.hwWrite State.hwWriteAs
  split
  · next pa _ =>
    rw [State.writeAs, natRun_sound]
    refine State.spoil_resid ?_ ..
    rw [State.wake_resids]
    exact h
  · exact ⟨r, h, .refl r⟩

theorem State.modNode_resids (s : State) (ref : NodeRef) (f : Node → Node) : (s.modNode ref f).resids = s.resids := by
  unfold State.modNode
  split
  · unfold State.setNode
    split <;> rfl
  · rfl

/-- The status word of a residency reaches its node's record (R170), in which no residency changes. -/
theorem State.putStatus_resid (h : mfind s.resids i = some r) (j : Nat) : ∃ x, mfind (s.putStatus j).resids i = some x ∧ r.Respilt x := by
  unfold State.putStatus
  split
  · exact ⟨r, h, .refl r⟩
  · split
    · exact ⟨r, h, .refl r⟩
    · split
      · exact ⟨r, h, .refl r⟩
      · rw [State.modNode_resids]
        exact State.hwWrite_resid h ..

theorem fabCtl_even (i : Nat) : fabCtl (2 * i) = none := by
  unfold fabCtl
  rw [if_neg (by omega)]

/-- A residency that halts keeps its cause (R213). -/
theorem State.fabHalt_resid (h : mfind s.resids i = some r) (hr : r.halt = false) (site cause : Nat) :
    ∃ x, mfind (s.fabHalt (2 * i) site cause).resids i = some x ∧ Resid.Respilt { r with cause := cause, halt := true } x := by
  unfold State.fabHalt
  rw [fabCtl_even, show 2 * i / 2 = i by omega]
  dsimp only
  rw [h]
  dsimp only
  rw [if_neg (by simp [hr])]
  exact State.putStatus_resid (State.mfind_setResid ..) i

end

/-! ## Configurations (R168, R169) -/

section
variable {s : State} {i : Nat} {r : Resid} (h : mfind s.resids i = some r)

include h

/-- A pass whose streams have drained is followed by the next. -/
theorem exec_configStep_pass (hruns : s.residRuns i r = true) (hst : r.st = .running) (hplanes : r.planes = []) (hinst : r.inst = none)
    (hpassed : r.live.passed = true) (hit : r.it + 1 < r.iters) :
    exec (.configStep i) s = .next ((s.setResid i { r with it := r.it + 1, st := .reach }).putStatus i) := by
  refine congrArg Host.Outcome.next ?_
  rw [h]
  dsimp only
  rw [hruns, hst, hplanes, hinst, hpassed]
  dsimp only
  rw [if_pos hit]
  rfl

/-- The next record of an image, in order, reaches its cell. -/
theorem exec_configWordLoad_good (hruns : s.loadRuns i r = true) (hst : r.st = .loading) {site : Nat} {rest : List Nat} {ws : List W64}
    {more : List (List W64)} (hload : r.load = site :: rest) (hconf : (r.live.chan (confCh site)).conf = ws :: more) (hsite : site < badSite)
    (hok : recordOk false (recordKind false site) ws = true) :
    exec (.configWordLoad i) s = .next (s.setResid i { r with
      live := (r.live.setChan (confCh site) { r.live.chan (confCh site) with conf := more }).setCell site { cellOf ws with ready := true }
      load := rest }) := by
  refine congrArg Host.Outcome.next ?_
  rw [h]
  dsimp only
  rw [hruns, hst, hload]
  dsimp only
  rw [hconf]
  dsimp only
  rw [hok, decide_eq_false (Nat.not_le.mpr hsite)]
  rfl

theorem exec_calleeRest (hruns : s.residRuns i r = true) (hrest : s.atRest i r = true) :
    exec (.calleeRest i) s = .next (s.fabHalt (2 * i) ((r.planes.getLast?.bind (·.caller)).getD 0) 6) := by
  refine congrArg Host.Outcome.next ?_
  rw [h]
  dsimp only
  rw [hruns, hrest]
  rfl

omit h in
theorem State.residRuns_not_halt (hruns : s.residRuns i r = true) : r.halt = false := by
  simp only [State.residRuns, State.loadRuns, Bool.and_eq_true, Bool.not_eq_true'] at hruns
  exact hruns.1.1.1.1

end

theorem exec_requestToken {s : State} {k ch : Nat} (ho : s.fabOpen k = true) (hc : (s.plane k).consumes ch = true)
    (hd : ((s.plane k).chan ch).dem < 16) : exec (.requestToken k ch) s =
      .next (s.setPlane k ((s.plane k).setChan ch { (s.plane k).chan ch with dem := ((s.plane k).chan ch).dem + 1 })) := by
  refine congrArg Host.Outcome.next ?_
  dsimp only
  rw [ho, hc, decide_eq_true hd]
  rfl

/-! ## Calls and returns (R174 to R177) -/

/-- The loading of an image leaves the callee's call port. -/
theorem foldl_sendConf_call (recs : List (Nat × List W64)) : ∀ p : Plane, (recs.foldl Plane.sendConf p).call = p.call := by
  induction recs with
  | nil => exact fun _ => rfl
  | cons x xs ih => exact fun p => (ih _).trans rfl

theorem lastPlane_append (rest : List Plane) (p : Plane) : lastPlane (rest ++ [p]) = some (rest, p) := by
  simp [lastPlane]

section
variable {s : State} {w : W64} {ts : List Tok} {r : Resid} (hk : fabCtl s.seat.k = none) (hw : s.goesOn w ts)
  (hr : mfind s.resids (s.seat.k / 2) = some r)

include hk hw hr

/-- A call operator's firing that waits for its arbitration wins it where the region runs, and goes on once it has won. -/
theorem State.callOp_goesOn (mine : Resid → Nat → Bool) (cont go : State → Seat → Resid → State) : s.callOp w mine cont go =
    if mine r s.seat.b then cont s s.seat r else if r.st == .running then go s s.seat r else s := by
  obtain ⟨hfree, hon, -, hport⟩ := hw
  unfold State.callOp
  dsimp only at hon hport ⊢
  rw [State.onSite_free _ _ _ _ _ _ hfree (.inl hon) hport, if_pos hon, hk, hr]

/-- The operands that the firing delivers. -/
theorem State.args_goesOn : (r.live.lane s.seat.x).args w = (inputToks w ts).map Tok.plain := by
  obtain ⟨-, -, hops, -⟩ := hw
  have hl : (r.live.lane s.seat.x).ops = ts := by
    rw [← State.plane_resid hk hr]
    exact hops
  rw [Lane.args, hl]

theorem exec_ccall_freezes (hst : r.st = .running) (hn : bits w 7 0 < r.nlist) (hl : r.planes.length < r.limit) :
    exec (.ccall w) s = .next (s.setResid (s.seat.k / 2) { r with st := .freezing s.seat.b }) := by
  refine congrArg Host.Outcome.next ?_
  rw [State.callOp_goesOn hk hw hr, hst, if_neg (by simp), beq_self_eq_true, if_pos rfl, if_neg (Nat.not_le.mpr hn), if_neg (by omega)]

theorem exec_cret_returns (hst : r.st = .running) (hp : r.planes ≠ []) :
    exec (.cret w) s = .next (s.setResid (s.seat.k / 2) { r with st := .returning s.seat.b }) := by
  refine congrArg Host.Outcome.next ?_
  rw [State.callOp_goesOn hk hw hr, hst, if_neg (by simp), beq_self_eq_true, if_pos rfl, if_neg (by simpa using hp)]

/-- A frozen region keeps its plane with its caller, and begins to load the callee, with the operands at its call port. -/
theorem exec_ccall_calls (hst : r.st = .freezing s.seat.b) (hq : r.live.quiet = true) {e : ListEntry} {recs : List (Nat × List W64)}
    (he : s.readEntry r (bits w 7 0) true = .ok (e, recs)) :
    ∃ t x, exec (.ccall w) s = .next t ∧ mfind t.resids (s.seat.k / 2) = some x ∧ x.planes.length = r.planes.length + 1 ∧
      x.load = recs.map (·.1) ∧ x.live.call = (inputToks w ts).map Tok.plain ∧ x.st = .loading := by
  have hx : exec (.ccall w) s = .next (s.freeze s.seat r w) := by
    refine congrArg Host.Outcome.next ?_
    rw [State.callOp_goesOn hk hw hr, hst, if_pos (by simp)]
  unfold State.freeze at hx
  dsimp only at hx
  rw [hq, he] at hx
  dsimp only at hx
  obtain ⟨x, hmx, hrx, hdepth⟩ := State.putStatus_resid (State.mfind_setResid ..) (s.seat.k / 2)
  refine ⟨_, x, hx, hmx, ?_, ?_, ?_, ?_⟩
  · rw [hdepth]
    exact List.length_append
  · rw [hrx]
    rfl
  · rw [hrx, ← State.args_goesOn hk hw hr]
    exact foldl_sendConf_call ..
  · rw [hrx]
    rfl

/-- A return gives the region back to the plane of the caller, whose firing ends with the operands that it passes. -/
theorem exec_cret_gives_back (hst : r.st = .returning s.seat.b) (hq : r.live.quiet = true) (hs : r.strict = false) {rest : List Plane}
    {p : Plane} (hp : r.planes = rest ++ [p]) :
    ∃ t x, exec (.cret w) s = .next t ∧ mfind t.resids (s.seat.k / 2) = some x ∧ x.planes.length = rest.length ∧ x.st = .running ∧
      (x.live.lane (p.caller.getD 0)).out = (inputToks w ts).map Tok.plain := by
  have hx : exec (.cret w) s = .next (s.thaw s.seat r w) := by
    refine congrArg Host.Outcome.next ?_
    rw [State.callOp_goesOn hk hw hr, hst, if_pos (by simp)]
  unfold State.thaw at hx
  dsimp only at hx
  rw [hq, hs, hp, lastPlane_append, Bool.and_false] at hx
  obtain ⟨x, hmx, hrx, hdepth⟩ := State.putStatus_resid (State.mfind_setResid ..) (s.seat.k / 2)
  refine ⟨_, x, hx, hmx, hdepth, ?_, ?_⟩
  · rw [hrx]
  · rw [hrx, ← State.args_goesOn hk hw hr]
    exact congrArg Lane.out (mget_mput_same ..)

end

/-! ## Requests for subgraphs (R173, R325) -/

section
variable {s t : State} {w : W64} {ts : List Tok} {r x : Resid}

/-- What the act of a copy that begins a firing does, once its operands and its grain are taken. -/
theorem State.startFiring_begins {sends : Bool} {ok : List Tok → Bool} {last : Lane → List Tok} (go : State → State)
    (h : s.begins w sends ts t) (hok : ok ts = true) :
    s.startFiring s.seat (inputsOf (wInputs w)) (s.outs s.seat.k s.seat.b) sends ok last go = go t := by
  have hf := State.operate_fires s t w sends ts ok last (fun _ _ => go) (.inl h) hok
  obtain ⟨⟨hfree, hon, hcl, hport⟩, -⟩ := h
  unfold State.operate at hf
  dsimp only at hf hon hcl hport
  rwa [State.onSite_free _ _ _ _ _ _ hfree (.inr hcl) hport, if_neg (by simp [hon])] at hf

theorem State.setPlane_creqs (s : State) (k : Nat) (p : Plane) :
    (s.setPlane k p).creqs = s.creqs ∧ (s.setPlane k p).serial = s.serial := by
  unfold State.setPlane
  split
  · exact ⟨rfl, rfl⟩
  · split <;> exact ⟨rfl, rfl⟩

/-- The end of a firing asks for nothing. -/
theorem State.endFiring_creqs (s : State) (a : Seat) (ts : List Tok) :
    (s.endFiring a ts).creqs = s.creqs ∧ (s.endFiring a ts).serial = s.serial := State.setPlane_creqs ..

/-- The state with one more request for a node's subgraph, of a cell of a plane, that holds some tokens. -/
def State.requesting (s : State) (i site plane node : Nat) (ts : List Tok) : State :=
  { s with creqs := s.creqs ++ [⟨s.serial + 1, i, site, plane, node, ts⟩], serial := s.serial + 1 }

/-- A firing of a CREQ for which no subgraph is placed asks for one, with the firing's operands. -/
theorem State.creqFire_requests (hx : mfind t.resids (s.seat.k / 2) = some x) (hops : (x.live.lane s.seat.x).ops = ts)
    (hn : t.creqNode x (bits w 11 0) = true) (hi : t.instOf (s.seat.k / 2) s.seat.b x.live.id = none) :
    t.creqFire s.seat w = (t.endFiring s.seat []).requesting (s.seat.k / 2) s.seat.b x.live.id (bits w 11 0)
      ((inputToks w ts).map Tok.plain) := by
  unfold State.creqFire
  dsimp only
  rw [hx]
  dsimp only
  rw [hn, hi, Lane.args, hops]
  rfl

/-- A CREQ that begins a firing fires, where no returned token waits for it, and no request of it is under way. -/
theorem exec_creq_begins (h : s.begins w false ts t) (hts : ∀ y ∈ ts, y.scaled = false) (hk : fabCtl s.seat.k = none)
    (hr : mfind s.resids (s.seat.k / 2) = some r) (hb : ∀ b ∈ r.backs, b.1 ≠ r.live.id ∨ b.2.1 ≠ s.seat.b)
    (hc : ∀ c ∈ s.creqs, c.res ≠ s.seat.k / 2 ∨ c.site ≠ s.seat.b ∨ c.plane ≠ r.live.id) :
    exec (.creq w) s = .next (t.creqFire s.seat w) := by
  have hbacks : r.backs.find? (fun b => b.1 == r.live.id && b.2.1 == s.seat.b) = none := by
    rw [List.find?_eq_none]
    intro b hm
    rcases hb b hm with e | e <;> simp [e]
  have hasked : s.creqs.any (fun c => c.res == s.seat.k / 2 && c.site == s.seat.b && c.plane == r.live.id) = false := by
    rw [List.any_eq_false]
    intro c hm
    rcases hc c hm with e | e | e <;> simp [e]
  have hgo := State.startFiring_begins (ok := fun ts => !ts.any (·.scaled)) (last := fun _ => []) (fun u => u.creqFire s.seat w) h
    (by simpa using hts)
  obtain ⟨⟨hfree, hon, hcl, hport⟩, -, hin, -⟩ := h
  refine congrArg Host.Outcome.next ?_
  dsimp only at hon hcl hport hin ⊢
  rw [State.onSite_free _ _ _ _ _ _ hfree (.inr hcl) hport, hk, hr]
  dsimp only
  rw [hbacks, hasked, hon, hin]
  exact hgo

end

/-- A block taken from a partition's pool for a ring changes no request. -/
theorem State.ringTake_creqs {s t : State} {ref : NodeRef} {n a : Nat} (h : s.ringTake ref n = some (a, t)) : t.creqs = s.creqs := by
  unfold State.ringTake State.poolTake at h
  split at h
  · obtain ⟨-, rfl⟩ := Prod.mk.inj (Option.some.inj h)
    rfl
  · split at h
    · cases h
    · dsimp only at h
      split at h
      · cases h
      · obtain ⟨-, rfl⟩ := Prod.mk.inj (Option.some.inj h)
        rfl

/-- A residency that is placed stands in the fabric, at depth 0; no request changes. -/
theorem State.residPlace_some {s v : State} {ref : NodeRef} {ws : List W64} {stamp id : Nat}
    (h : s.residPlace ref ws stamp = some (id, v)) :
    v.creqs = s.creqs ∧ ∃ y, mfind v.resids id = some y ∧ y.planes = [] ∧ y.live.call = [] := by
  unfold State.residPlace at h
  dsimp only at h
  split at h
  · cases h
  · split at h
    · cases h
    · split at h
      · cases h
      · next s1 h1 =>
        split at h
        · cases h
        · next s2 h2 =>
          obtain ⟨rfl, rfl⟩ := Prod.mk.inj (Option.some.inj h)
          exact ⟨(State.ringTake_creqs h2).trans (State.ringTake_creqs h1), _, State.mfind_setResid .., rfl, rfl⟩

/-- A request for whose subgraph there is room is placed, with its tokens at the call port. -/
theorem exec_creqPlace {s v : State} {n id : Nat} {c : Creq} {r : Resid} (hc : s.creqs[n]? = some c)
    (hr : mfind s.resids c.res = some r) (hh : r.halt = false) (hp : s.partRuns (shPartKey r.ref.sheaf) = true)
    (hf : s.neverFits r.ref = false) (hv : s.residPlace r.ref (s.nodeWords ⟨r.ref.sheaf, c.node⟩) c.stamp = some (id, v)) :
    ∃ t x, exec (.creqPlace n) s = .next t ∧ mfind t.resids id = some x ∧ x.inst = some (c.res, c.site, c.plane) ∧ x.graph = 0 ∧
      x.live.call = c.toks ∧ t.creqs = s.creqs.take n ++ s.creqs.drop (n + 1) := by
  obtain ⟨hcreqs, y, hy, hplanes, hcall⟩ := State.residPlace_some hv
  have hx : exec (.creqPlace n) s = .next ({ v with creqs := dropNth v.creqs n }.setResid id
      (Resid.callIn { y with inst := some (c.res, c.site, c.plane), graph := 0 } c.toks)) := by
    refine congrArg Host.Outcome.next ?_
    rw [hc]
    dsimp only
    rw [hr]
    dsimp only
    rw [hh, hp, hf, hv]
    exact State.modResid_listed (s := { v with creqs := dropNth v.creqs n }) hy _
  refine ⟨_, _, hx, State.mfind_setResid .., ?_, ?_, ?_, ?_⟩
  · unfold Resid.callIn
    split <;> rfl
  · unfold Resid.callIn
    split <;> rfl
  · unfold Resid.callIn
    rw [hplanes]
    exact congrArg (· ++ c.toks) hcall
  · exact congrArg (dropNth · n) hcreqs

/-! ## Where the forms complete -/

/-- Settles O35: the next pass, a word that reaches its cell, a callee at rest, a request for a burst, a call, a return, and a request for a
subgraph with its place. -/
theorem fabricFormsComplete : Obligations.FabricFormsComplete := by
  unfold Obligations.FabricFormsComplete
  refine fun s => ⟨fun i r h => ⟨fun hruns hst hpl hinst hpass hit => ?_, fun hruns hst site rest ws more hl hc hs hok =>
      exec_configWordLoad_good h hruns hst hl hc hs hok, fun hruns hrest => ?_⟩,
    fun k ch ho hc hd => exec_requestToken ho hc hd,
    fun w ts r hk hw hr => ⟨fun hst hn hl => exec_ccall_freezes hk hw hr hst hn hl, fun hst hq e recs he => exec_ccall_calls hk hw hr hst hq he,
      fun hst hp => exec_cret_returns hk hw hr hst hp, fun hst hq hs rest p hp => exec_cret_gives_back hk hw hr hst hq hs hp⟩,
    fun w ts t r x h hts hk hr hx hid _ hi hn hb hc => ?_, fun n c r id v hc hr hh hp hf hv => ?_⟩
  · obtain ⟨x, hx, heq, -⟩ := State.putStatus_resid (State.mfind_setResid s i { r with it := r.it + 1, st := .reach }) i
    exact ⟨_, x, exec_configStep_pass h hruns hst hpl hinst hpass hit, hx, by rw [heq], by rw [heq]⟩
  · obtain ⟨x, hx, heq, -⟩ := State.fabHalt_resid h (State.residRuns_not_halt hruns) ((r.planes.getLast?.bind (·.caller)).getD 0) 6
    exact ⟨_, x, exec_calleeRest h hruns hrest, hx, by rw [heq], by rw [heq]⟩
  · have hops : (x.live.lane s.seat.x).ops = ts := by
      rw [← State.plane_resid hk hx]
      exact h.ops
    rw [← hid] at hi
    obtain ⟨hcreqs, hserial⟩ := t.endFiring_creqs s.seat []
    refine ⟨_, exec_creq_begins h hts hk hr hb hc, ?_⟩
    rw [State.creqFire_requests hx hops hn hi, State.requesting, hcreqs, hserial, hid]
  · obtain ⟨u, x, hu, hx, hinst, -, -, hcreqs⟩ := exec_creqPlace hc hr hh hp hf hv
    exact ⟨u, x, hu, hx, hinst, hcreqs⟩

end Sys2Proof.Machine

/-! R170, R210, R211, R285, R406: what the statement about a residency's halt leaves out. -/

namespace Sys2Proof.Machine

/-- A sheaf whose record area lies at 0x40000004, off the alignment that R285 asks of it. The GS accepts none such (`hdrOk`), but the statement
is about every state. -/
def oddSheaf : Sheaf where
  va := 0
  prio := 0
  tag := 0
  host := false
  seq := 0
  time := 0
  hdr := [0, 0, 0, 0, 0x40000004]
  part := []
  fmap := 0
  read := true
  nodes := []
  edges := []
  pod := none
  master := 0
  bad := 0
  woken := []

/-- The residency of that sheaf's first node. -/
def oddResid : Resid := residOf [] ⟨0, 0⟩ 0 0 0 0 0 1

/-- A core that waits in WAITF for the word at 0x58. -/
def oddWatcher : Core :=
  { resetCore with hold := .access 0, port := [{ mkAccess .waitf 0x40000058 8 0 with pa := 0x58, phase := .waiting 0 }] }

/-- The pod with these, the word at 0x58 poisoned. The address table lies at 0x10000, with the only table of the walk, whose second entry maps
the GiB at 0x40000000 to physical address 0: the residency's status word lies at 0x54, across the watched word. -/
def oddRecord : State :=
  { State.reset with
    mem := [(canon 0x10002, 0x01), (canon 0x10007, 0x80), (canon 0x1000F, 0xF0)]
    poison := [canon 0x58]
    cores := [(0, oddWatcher)]
    wafers := [(0, { resetWafer with kastb := 0x10000 })]
    sheaves := [(0, oddSheaf)]
    resids := [(1, oddResid)] }

/-- The write of the status word covers half of the watched word, which stays poisoned and so stops the watching core (R211, R406): its fault
is posted, then the halt. -/
theorem oddRecord_raised : ((oddRecord.fabHalt 2 0 1).wafer 0).raised.map (·.kind) = [4, 6] := by
  decide

/-- Refutes O41: a halt writes the residency's status word (R170), and that write may stop a core of the same wafer at its watch. Where the
record area lies off the alignment of R285, the word watched stays poisoned, and the event of the core's fault precedes that of the halt. -/
theorem not_configurationsAndCalls : ¬ Obligations.ConfigurationsAndCalls := by
  unfold Obligations.ConfigurationsAndCalls Pieces.ConfigurationsRun
  rintro ⟨hconf, -⟩
  obtain ⟨hhalt, -⟩ := hconf oddRecord 1 oddResid rfl
  obtain ⟨x, v, -, -, -, -, -, -, -, hraised, -⟩ := hhalt 0 1 rfl
  have hkinds : [4, 6] = [v.kind] := oddRecord_raised.symm.trans (congrArg (List.map (·.kind)) hraised)
  exact absurd (congrArg List.length hkinds) (by simp)

end Sys2Proof.Machine

/-! R184, R195, R282, R285: edge-graph nodes that bind their slots, and group-binding nodes that write their entries. -/

namespace Sys2Proof.Machine

/-! ## No step of a placing loses a node -/

section
variable (s : State)

theorem keepsNodes_placedOne (r : NodeRef) : State.KeepsNodes s (s.placedOne r) := by
  refine keepsNodes_foldl _ (fun u x => ?_) _ s
  split
  · exact .refl u
  · exact keepsNodes_modNode ..

theorem keepsNodes_putWord4 (c sl : Nat) : State.KeepsNodes s (s.putWord4 c sl) := by
  unfold State.putWord4
  dsimp only
  split
  · exact .of_sheaves (written_hwWriteAs ..).sheaves
  · exact .refl s

theorem keepsNodes_bindSlot (c sl : Nat) (desc : W64) (asid : Nat) (ds : List W64) (recs : List (Nat × List W64)) :
    State.KeepsNodes s (s.bindSlot c sl desc asid ds recs) :=
  ((keepsNodes_setCtl ..).trans (keepsNodes_setSlot ..)).trans (keepsNodes_putWord4 ..)

theorem keepsNodes_enrol (name : Nat) (w0 : W64) (part : Nat) (ref : Option NodeRef) (quads : List Nat) :
    State.KeepsNodes s (s.enrol name w0 part ref quads) := by
  refine .of_sheaves ?_
  rw [State.enrol_eq, State.onQuads_eq]
  rfl

theorem keepsNodes_lgrpWrite (name : Nat) (w0 : W64) (part : Nat) (ref : Option NodeRef) :
    State.KeepsNodes s (s.lgrpWrite name w0 part ref).1 := by
  unfold State.lgrpWrite
  dsimp only
  split
  · exact .refl s
  · split
    · exact .refl s
    · exact keepsNodes_enrol ..

end

/-! ## Nodes that the walk comes to, and those that it refuses -/

section
variable {s : State} {r : NodeRef} {n : Node}

theorem node_of_turnOf (h : s.turnOf r = true) : (s.node? r).isSome = true := by
  simp only [State.turnOf, Bool.and_eq_true] at h
  obtain ⟨⟨he, -⟩, -⟩ := h
  unfold State.eligible at he
  split at he
  · cases he
  · next sh hs =>
    simp only [State.node?, hs]
    cases hn : mfind sh.nodes r.node with
    | none => simp [hn] at he
    | some n => rfl

/-- A node's record is written by hardware, and of the node itself only its state and place change. -/
theorem node?_finishNode (h : s.node? r = some n) :
    (s.finishNode r).node? r = some { n with st := .done, place := .none, was := n.place } := by
  obtain ⟨sh, hs⟩ := sheaf_of_node h
  obtain ⟨u, hw, hf⟩ : ∃ u, State.Written s u ∧
      s.finishNode r = u.modNode r fun n => { n with st := .done, place := .none, was := n.place } := by
    unfold State.finishNode
    rw [hs, h]
    exact ⟨_, (((written_hwWriteAs ..).trans (written_hwWriteAs ..)).trans (written_hwWriteAs ..)).trans (written_hwWriteAs ..), rfl⟩
  have hu : u.node? r = some n := by
    rw [State.node?, hw.sheaves]
    exact h
  rw [hf, State.node?_modNode, if_pos rfl, hu]
  rfl

theorem node?_refuseNode (h : s.node? r = some n) (st : Nat) :
    (s.refuseNode r st).node? r = some { n with abn := true, status := st, st := .done, place := .none, was := n.place } := by
  have hm : (s.modNode r fun n => { n with abn := true, status := st }).node? r = some { n with abn := true, status := st } := by
    rw [State.node?_modNode, if_pos rfl, h]
    rfl
  exact node?_finishNode hm

/-- A node that a placing leaves is there to be changed. -/
theorem node?_modNode_kept {t : State} (hn : (s.node? r).isSome = true) (hk : State.KeepsNodes s t) (f : Node → Node) :
    ∃ m, (t.modNode r f).node? r = some (f m) := by
  obtain ⟨m, hm⟩ := Option.isSome_iff_exists.mp (hk.isSome r hn)
  exact ⟨m, by rw [State.node?_modNode, if_pos rfl, hm]; rfl⟩

end

/-! ## Edge graphs (R184, R195) -/

/-- A slot with its graph, as `State.nodeGraphs` names them. -/
abbrev SlotGraph := (Nat × Nat) × W64 × List W64 × List (Nat × List W64)

/-- A node takes a slot and binds its graph there. -/
def State.takeSlot (s : State) (r : NodeRef) (asid : Nat) (g : SlotGraph) : State :=
  (s.setSlot g.1.1 g.1.2 { s.slot g.1.1 g.1.2 with held := some r }).bindSlot g.1.1 g.1.2 g.2.1 asid g.2.2.1 g.2.2.2

theorem keepsNodes_takeSlot (s : State) (r : NodeRef) (asid : Nat) (g : SlotGraph) : State.KeepsNodes s (s.takeSlot r asid g) :=
  (keepsNodes_setSlot ..).trans (keepsNodes_bindSlot ..)

/-- What an edge-graph node's binding leaves: every slot taken, and the node running on them. -/
def State.boundGraphs (s : State) (r : NodeRef) (gs : List SlotGraph) : State :=
  (gs.foldl (fun u g => u.takeSlot r (s.refAsid r) g) (s.placedOne r)).modNode r fun n => { n with st := .running, place := .slots }

section
variable {s0 s : State} {r : NodeRef}

/-- EDGE_GRAPH_BIND in its turn, with graphs that can be bound, and slots and cells that are free. -/
theorem exec_edgeGraphBind (hs : s0.walk (shPartKey r.sheaf) = s) (hturn : s.turnOf r = true) (hmay : s.mayBegin r = true)
    {gs : List SlotGraph} (hedge : s.isEdge r = true) (hgs : s.nodeGraphs r = some gs) (honce : slotsOnce (s.edgeSlots r) = true)
    (hok : ∀ g ∈ gs, bindOk g.2.1 g.2.2.1 g.2.2.2 = true ∧ s.cellsBusy g.1.1 g.1.2 g.2.2.2 = false) (hclash : graphsClash gs = false)
    (hfree : s.slotsFree r = true) : exec (.edgeGraphBind r.sheaf r.node) s0 = .next (s.boundGraphs r gs) := by
  have hbind : gs.any (fun g => !bindOk g.2.1 g.2.2.1 g.2.2.2) = false :=
    List.any_eq_false.mpr fun g hg => by simp [(hok g hg).1]
  have hbusy : gs.any (fun g => s.cellsBusy g.1.1 g.1.2 g.2.2.2) = false :=
    List.any_eq_false.mpr fun g hg => by simp [(hok g hg).2]
  have hgood : s.graphsBad r gs = false := by simp [State.graphsBad, honce, hbind, hclash]
  simp only [exec, execEdgeGraphBind, hs, hedge, hturn, hmay, hgs, hgood, hfree, hbusy, Bool.not_true, Bool.or_self, Bool.false_eq_true,
    if_false]
  rfl

theorem boundGraphs_running (hn : (s.node? r).isSome = true) (gs : List SlotGraph) :
    ∃ n, (s.boundGraphs r gs).node? r = some n ∧ n.st = .running ∧ n.place = .slots := by
  have hk := (keepsNodes_placedOne s r).trans (keepsNodes_foldl _ (fun u g => keepsNodes_takeSlot u r (s.refAsid r) g) gs _)
  obtain ⟨m, hm⟩ := node?_modNode_kept hn hk fun n => { n with st := .running, place := .slots }
  exact ⟨_, hm, rfl, rfl⟩

/-! ## Group bindings (R195, R282) -/

section
variable (hs : s0.walk (shPartKey r.sheaf) = s) (hturn : s.turnOf r = true) (hmay : s.mayBegin r = true) {sh : Sheaf} {m : Node}
  (hsh : mfind s.sheaves r.sheaf = some sh) (hm : s.node? r = some m) (hkind : m.kind = 3) (hst : m.st = .waiting)
include hs hturn hmay hsh hm hkind hst

/-- GROUP_BINDING_PLACE of a waiting node from LAUNCH, in its turn. -/
theorem exec_groupBindingPlace_launch (hhost : sh.host = false) :
    exec (.groupBindingPlace r.sheaf r.node) s0 = .next (s.refuseNode r 5) := by
  have hplaced : (m.st == NodeSt.placed) = false := by rw [hst]; rfl
  simp only [exec, execGroupBindingPlace, hs, hm, hkind, hplaced, hturn, hmay, hsh, hhost, Option.map_some, Option.getD_some, ne_eq,
    not_true_eq_false, Bool.not_true, Bool.not_false, Bool.or_self, Bool.false_eq_true, if_false, if_true]

/-- GROUP_BINDING_PLACE of a waiting node of a host's sheaf whose groups are free, in its turn. -/
theorem exec_groupBindingPlace_binds {rs : List (Nat × W64)} (hhost : sh.host = true) (hrs : s.bindRecords r = some rs)
    (hfree : s.groupsFree r rs = true) : exec (.groupBindingPlace r.sheaf r.node) s0 =
      .next (((s.placedOne r).modNode r fun n => { n with st := .placed, place := .groups }).bindGroups r rs) := by
  have hplaced : (m.st == NodeSt.placed) = false := by rw [hst]; rfl
  simp only [exec, execGroupBindingPlace, hs, hm, hkind, hplaced, hturn, hmay, hsh, hhost, hrs, hfree, Option.map_some, Option.getD_some, ne_eq,
    not_true_eq_false, Bool.not_true, Bool.or_self, Bool.false_eq_true, if_false]

end

/-- A record whose group is free and whose LGRP is done enrols it, and the records after it follow. -/
theorem State.bindGroup_enrols {x : Nat × W64} {rs : List (Nat × W64)} {next : State → State} (hv : bitAt x.2 63 = true)
    (hfree : (s.gt (shWafer r.sheaf * 2 ^ 14 + x.1)).v = false) (hmembers : memBad (bits x.2 50 42) = false)
    (hmap : s.mapFault (shWafer r.sheaf) x.2 = none) (hskip : ∀ n, s.node? r = some n → n.skip = false)
    (hdone : (s.lgrpWrite (shWafer r.sheaf * 2 ^ 14 + x.1) x.2 (shPartKey r.sheaf) (some r)).2 = 0) :
    s.bindGroup r x rs next = next (s.lgrpWrite (shWafer r.sheaf * 2 ^ 14 + x.1) x.2 (shPartKey r.sheaf) (some r)).1 := by
  have hnoskip : ((s.node? r).map (·.skip)).getD false = false := by
    cases hn : s.node? r with
    | none => rfl
    | some n => exact hskip n hn
  unfold State.bindGroup
  dsimp only
  rw [hv, hfree, hmembers, hnoskip, hmap]
  exact if_pos hdone

theorem bindGroups_of_bindsTo {rs : List (Nat × W64)} {t : State} (h : bindsTo r rs s t) : s.bindGroups r rs = t := by
  induction rs generalizing s with
  | nil => exact Eq.symm h
  | cons x rs ih =>
    simp only [bindsTo] at h
    obtain ⟨hv, hfree, hmembers, hmap, hskip, hdone, hrest⟩ := h
    rw [State.bindGroups, State.bindGroup_enrols hv hfree hmembers hmap hskip hdone]
    exact ih hrest

theorem running_of_bindsTo {rs : List (Nat × W64)} {t : State} (hn : (s.node? r).isSome = true) (h : bindsTo r rs s t) :
    ∃ n, t.node? r = some n ∧ n.st = .running := by
  induction rs generalizing s with
  | nil =>
    obtain ⟨m, hm⟩ := node?_modNode_kept hn (.refl s) fun n => { n with st := .running, binds := [] }
    exact ⟨_, h ▸ hm, rfl⟩
  | cons x rs ih =>
    simp only [bindsTo] at h
    obtain ⟨-, -, -, -, -, -, hrest⟩ := h
    exact ih ((keepsNodes_lgrpWrite ..).isSome r hn) hrest

end

/-- Settles O18: an edge-graph node binds its slots and runs on them, and a group-binding node enrols its groups, or is refused where it
comes from LAUNCH. -/
theorem edgeAndGroupNodes : Obligations.EdgeAndGroupNodes := by
  unfold Obligations.EdgeAndGroupNodes
  intro s0 r s hturn hmay
  have hnode := node_of_turnOf hturn
  refine ⟨fun gs hedge hgs honce hok hclash hfree => ?_, fun sh m hsh hm hkind hst =>
    ⟨fun hhost => ?_, fun rs t hhost hrs hgt hwant hbinds => ?_⟩⟩
  · obtain ⟨n, hn⟩ := boundGraphs_running hnode gs
    exact ⟨_, n, exec_edgeGraphBind rfl hturn hmay hedge hgs honce hok hclash hfree, hn⟩
  · exact ⟨_, _, exec_groupBindingPlace_launch rfl hturn hmay hsh hm hkind hst hhost, node?_refuseNode hm 5, rfl, rfl, rfl⟩
  · have hany : rs.any (fun x => (s.gt (shWafer r.sheaf * 2 ^ 14 + x.1)).v) = false :=
      List.any_eq_false.mpr fun x hx => by rw [hgt x hx]; exact Bool.false_ne_true
    have hfree : s.groupsFree r rs = true := by
      rw [State.groupsFree, hany, hwant]
      rfl
    have hk := (keepsNodes_placedOne s r).trans (keepsNodes_modNode _ r fun n => { n with st := .placed, place := .groups })
    have hx := exec_groupBindingPlace_binds rfl hturn hmay hsh hm hkind hst hhost hrs hfree
    exact ⟨hx.trans (congrArg _ (bindGroups_of_bindsTo hbinds)), running_of_bindsTo (hk.isSome r hnode) hbinds⟩

end Sys2Proof.Machine

/-! R209, R211, R215, R406: what the statement about KSVC leaves out of a restore. -/

namespace Sys2Proof.Machine

/-! ## Sets of addresses -/

theorem shas_sput_of_shas {l : List Nat} {k : Nat} (n : Nat) (h : shas l k = true) : shas (sput l n) k = true := by
  induction l with
  | nil => cases h
  | cons a r ih =>
    simp only [shas] at h
    simp only [sput]
    split
    · exact h
    · split
      · simp only [shas]
        split
        · rfl
        · exact h
      · simp only [shas]
        split
        · rfl
        · next hak => exact ih (by rwa [if_neg hak] at h)

theorem shas_sdel_ne (l : List Nat) {k n : Nat} (h : k ≠ n) : shas (sdel l n) k = shas l k := by
  induction l with
  | nil => rfl
  | cons a r ih =>
    simp only [sdel]
    split
    · next ha => rw [shas, if_neg (ha ▸ Ne.symm h)]
    · simp only [shas, ih]

theorem shas_of_mem {l : List Nat} {n : Nat} (h : n ∈ l) : shas l n = true := by
  induction l with
  | nil => cases h
  | cons a r ih =>
    simp only [shas]
    split
    · rfl
    · next ha => exact ih ((List.mem_cons.mp h).resolve_left (Ne.symm ha))

/-! ## A write of poisoned bytes (R211) -/

/-- Whether a run of bytes from `pa` writes a poisoned byte into memory word `i`. -/
def taints (pa : Nat) (bs : List (Byte × Bool)) (i : Nat) : Bool :=
  ((bs.drop (i * 8 - pa)).take (i * 8 + 8 - max (i * 8) pa)).any (·.2)

section
variable {pa i : Nat} {bs : List (Byte × Bool)}

theorem wordPoison_tainted (p : List Nat) (h : taints pa bs i = true) : shas (wordPoison p pa bs i) (canon (i * 8)) = true :=
  (congrArg (shas · _) (if_pos h)).trans (shas_sput_same ..)

/-- What a write does to the poison of one word leaves that of the others. -/
theorem wordPoison_other {p : List Nat} {k : Nat} (hk : k ≠ canon (i * 8)) (h : shas p k = true) : shas (wordPoison p pa bs i) k = true := by
  unfold wordPoison
  dsimp only
  split
  · exact shas_sput_of_shas _ h
  · split
    · rwa [shas_sdel_ne _ hk]
    · exact h

section
variable {l : List Nat} {p : List Nat} (ht : taints pa bs i = true) (hc : ∀ j ∈ l, canon (j * 8) = canon (i * 8) → j = i)
include ht hc

/-- Of some words of a write, the one that it taints stays poisoned, if no other of them is kept under its address. -/
theorem poison_stays (hp : shas p (canon (i * 8)) = true) :
    shas (l.foldl (fun p k => wordPoison p pa bs k) p) (canon (i * 8)) = true := by
  induction l generalizing p with
  | nil => exact hp
  | cons j r ih =>
    refine ih (fun x hx => hc x (List.mem_cons_of_mem _ hx)) ?_
    by_cases hj : canon (j * 8) = canon (i * 8)
    · obtain rfl := hc j List.mem_cons_self hj
      exact wordPoison_tainted p ht
    · exact wordPoison_other (Ne.symm hj) hp

/-- It is poisoned once they are all written. -/
theorem poison_of_taints (hi : i ∈ l) : shas (l.foldl (fun p k => wordPoison p pa bs k) p) (canon (i * 8)) = true := by
  obtain ⟨l1, l2, rfl⟩ := List.append_of_mem hi
  rw [List.foldl_append, List.foldl_cons]
  exact poison_stays ht (fun j hj => hc j (by simp [hj])) (wordPoison_tainted _ ht)

end

theorem State.putRun_poisons (s : State) (tag : Nat) (rel : Option Rel) (hi : i ∈ runWords pa bs.length) (ht : taints pa bs i = true)
    (hc : ∀ j ∈ runWords pa bs.length, canon (j * 8) = canon (i * 8) → j = i) : (s.putRun pa bs tag rel).poisonAt (i * 8) = true := by
  unfold State.poisonAt
  rw [Nat.mul_div_cancel _ (by decide : 0 < 8)]
  exact poison_of_taints ht hc hi

end

/-! ## The words of a quad's local store -/

/-- The words that a write of the local store from its first byte on touches. -/
theorem mem_runWords_quad {n j : Nat} (h : j ∈ runWords (quadPa 0 0 0) (8 * n)) : ∃ k < n, j = quadPa 0 0 0 / 8 + k := by
  obtain ⟨k, hk, rfl⟩ := List.mem_map.mp h
  have hlt := List.mem_range.mp hk
  simp only [quadPa] at hlt ⊢
  exact ⟨k, by omega, by omega⟩

/-- A byte of a quad's local space is kept under its own address (R81). -/
theorem canon_quad {l : Nat} (h : l < 0x80000) : canon (quadPa 0 0 0 + l) = quadPa 0 0 0 + l := by
  have hw : (quadPa 0 0 0 + l) % 2 ^ 48 = 0x200000000000 + l := by
    simp only [quadPa]
    omega
  unfold canon homeOf
  dsimp only
  rw [hw, if_neg (by omega), if_neg (by omega), if_pos (by omega)]

/-- Where a word of a quad's local store is kept. -/
theorem canon_quadWord {k : Nat} (h : k < 0x10000) : canon ((quadPa 0 0 0 / 8 + k) * 8) = quadPa 0 0 0 + 8 * k := by
  have hk : (quadPa 0 0 0 / 8 + k) * 8 = quadPa 0 0 0 + 8 * k := by
    simp only [quadPa]
    omega
  rw [hk, canon_quad (by omega)]

/-! ## A write from a local store's first byte on -/

section
variable {n : Nat}

theorem firstWord_mem (h : 0 < n) : quadPa 0 0 0 / 8 ∈ runWords (quadPa 0 0 0) (8 * n) :=
  List.mem_map.mpr ⟨0, List.mem_range.mpr (by simp only [quadPa]; omega), Nat.zero_add _⟩

theorem firstWord_watched (h : 0 < n) : shas (wordKeys (quadPa 0 0 0) (8 * n)) (canon (quadPa 0 0 0)) = true :=
  shas_of_mem (List.mem_map.mpr ⟨_, firstWord_mem h, rfl⟩)

/-- A poisoned first byte poisons the first word. -/
theorem State.putRun_poisons_firstWord (s : State) {bs : List (Byte × Bool)} (hlen : bs.length = 8 * n) (hn : n ≤ 0x10000)
    (hbs : ∃ b r, bs = (b, true) :: r) (tag : Nat) (rel : Option Rel) : (s.putRun (quadPa 0 0 0) bs tag rel).poisonAt (quadPa 0 0 0) = true := by
  obtain ⟨b, r, rfl⟩ := hbs
  have hpos : 0 < n := by
    rw [List.length_cons] at hlen
    omega
  have hmem := firstWord_mem hpos
  rw [← hlen] at hmem
  have honly : ∀ j ∈ runWords (quadPa 0 0 0) ((b, true) :: r).length, canon (j * 8) = canon (quadPa 0 0 0 / 8 * 8) → j = quadPa 0 0 0 / 8 := by
    intro j hj hc
    rw [hlen] at hj
    obtain ⟨k, hk, rfl⟩ := mem_runWords_quad hj
    have hfirst : canon (quadPa 0 0 0 / 8 * 8) = quadPa 0 0 0 := canon_quadWord (k := 0) (by decide)
    rw [canon_quadWord (by omega), hfirst] at hc
    omega
  have haligned : quadPa 0 0 0 / 8 * 8 = quadPa 0 0 0 := by decide
  have hp := State.putRun_poisons s tag rel hmem rfl honly
  rwa [haligned] at hp

end

/-! ## A core that watches a word (R406) -/

section
variable {s : State} {n id : Nat} {a : Access} {words : List Nat}

theorem State.settleOne_waiting (h : ∀ a, (s.core n).find id = some a → a.phase ≠ .issued) : s.settleOne n id = s := by
  unfold State.settleOne
  split
  · rfl
  · next a ha => rw [if_neg (by simp [h a ha])]

/-- Nothing performs before a poisoning write where no core has an issued access. -/
theorem State.settle_waiting (h : ∀ n id a, (s.core n).find id = some a → a.phase ≠ .issued) (words : List Nat) : s.settle words = s := by
  refine List.foldl_fixed' (fun p => ?_) _
  exact List.foldl_fixed' (fun a => State.settleOne_waiting (h _ _)) _

/-- A watched word that a write leaves poisoned stops the core that watches it. -/
theorem State.wakeOne_faults {k : Nat} (hh : (s.core n).hold = .access id) (ha : (s.core n).find id = some a) (hk : a.kind = .waitf)
    (hph : a.phase = .waiting k) (hw : shas words (canon a.pa) = true) (hp : s.poisonAt a.pa = true) (hf : (s.core n).fault = none) :
    s.wakeOne n words = (s.setCore n ((s.core n).withdraw id)).stopCore n (.port n) a.va 3 0 := by
  have ha' : (s.core n).port.find? (·.id == id) = some a := ha
  simp only [State.wakeOne, hh, ha', hk, hph, hw, hp, hf, Option.isSome_none, Bool.false_eq_true, if_false, if_true]

theorem State.wake_single {c : Core} (h : s.cores = [(n, c)]) (words : List Nat) : s.wake words = s.wakeOne n words := by
  rw [State.wake, h]
  rfl

/-- A core that stops posts an event of kind 4. -/
theorem State.stopCore_raised (s : State) (n : Nat) (o : Owner) (va : W64) (ty acc : Nat) :
    ((s.stopCore n o va ty acc).wafer (nWafer n)).raised.map (·.kind) = (s.wafer (nWafer n)).raised.map (·.kind) ++ [4] := by
  have hr : (s.stopCore n o va ty acc).wafer (nWafer n) =
      (s.raiseEv (nWafer n) ((s.portFault n o va ty acc).event (.fault s.serial))).wafer (nWafer n) := rfl
  rw [hr, State.raiseEv, State.wafer_setWafer, List.map_append]
  rfl

theorem State.spoil_wafer (s : State) (pa n w : Nat) : (s.spoil pa n).wafer w = s.wafer w := by
  simp only [State.spoil]
  split <;> rfl

end

/-! ## A restore (R215) -/

section
variable (s : State) (w part : Nat)

theorem State.restoreCore_wafers (n : Nat) : (s.restoreCore n).wafers = s.wafers := by
  simp only [State.restoreCore]
  split <;> rfl

theorem State.restoreCores_wafers (ns : List Nat) : (ns.foldl (fun s n => s.restoreCore n) s).wafers = s.wafers := by
  induction ns generalizing s with
  | nil => rfl
  | cons n r ih => exact (ih _).trans (s.restoreCore_wafers n)

/-- A restored partition's event follows whatever the reload of its quads has raised. -/
theorem State.swapIn_raised : ((s.swapIn w part).wafer w).raised.map (·.kind) =
    (((s.part part).saved.foldl (fun s q => s.reloadQuad w q) s).wafer w).raised.map (·.kind) ++ [8] := by
  unfold State.swapIn
  extract_lets u v
  have hv : v.wafers = u.wafers := State.restoreCores_wafers ..
  rw [State.raiseEv, State.wafer_setWafer, List.map_append]
  exact congrArg (fun ws : Map Wafer => (mget ws w resetWafer).raised.map (·.kind) ++ [8]) hv

theorem State.svcPop_raised : ((s.svcPop w).wafer w).raised = (s.wafer w).raised := by
  unfold State.svcPop
  split
  · rfl
  · next core r _ =>
    have hd (t : State) : (t.svcDone core).wafer w = t.wafer w := by
      cases core with
      | none => rfl
      | some n =>
        simp only [State.svcDone]
        split <;> rfl
    rw [hd, State.wafer_setWafer]

/-- The operation 0x5 on a swapped partition, in its turn. -/
theorem State.svcServe_restore {v : W64} {core : Option Nat} {rest : List (W64 × Option Nat)}
    (hr : (s.wafer w).raised.any (·.kind == 8) = false) (hp : (s.wafer w).pendingSvc = (v, core) :: rest) (hop : svcOp v = 5)
    (hst : (s.part (w * 64 + svcPart v)).st = .swapped) (k : Nat) :
    s.svcServe w (k + 1) = ((s.swapIn w (w * 64 + svcPart v)).svcPop w).svcServe w k := by
  simp only [State.svcServe, hr, hp, hop, hst, Bool.false_eq_true, if_false]
  rfl

/-- KSVC_RESTORE of a swapped partition, with no other operation waiting and no event of one held. -/
theorem exec_ksvcRestore {v : W64} (hop : svcOp v = 5) (hp : (s.wafer w).pendingSvc = []) (hr : (s.wafer w).raised.any (·.kind == 8) = false)
    (hst : (s.part (w * 64 + svcPart v)).st = .swapped) : exec (.ksvcRestore w v) s =
      .next (((s.setWafer w { s.wafer w with pendingSvc := [(v, none)] }).swapIn w (w * 64 + svcPart v)).svcPop w) := by
  have hu := State.svcServe_restore (s.setWafer w { s.wafer w with pendingSvc := [(v, none)] }) w (v := v) (core := none) (rest := [])
    (by rw [State.wafer_setWafer]; exact hr) (by rw [State.wafer_setWafer]) hop hst 0
  simp only [exec, execKsvcRestore, hop, State.ksvc, State.svcQueue, hp, List.length_nil, List.nil_append, if_true]
  exact congrArg Host.Outcome.next hu

/-- What the wafers hold after a reload is what its write of the quad's bytes leaves. -/
theorem State.reloadQuad_wafer (quad v : Nat) : (s.reloadQuad w quad).wafer v =
    (s.write (quadPa w (quad % 2 ^ 13) 0) (s.readRun ((s.wafer w).evictAt w quad) 0x40000) ⟨3, 7, w * 2 ^ 15, false, 0⟩).wafer v := by
  simp only [State.reloadQuad, State.wafer]

end

/-! ## A poisoned word of a saved quad -/

/-- A core that waits in WAITF for the first word of quad 0's local store. -/
def quadWatcher : Core :=
  { resetCore with hold := .access 0, port := [{ mkAccess .waitf 0x40000000 8 0 with pa := quadPa 0 0 0, phase := .waiting 0 }] }

/-- The pod with partition 0 swapped out, its one quad saved at 0x100000, where the first word has met an uncorrectable error; a core of
quad 1, of no saved partition, watches the word that it goes back to. -/
def poisonedSave : State :=
  { State.reset with
    poison := [canon 0x100000]
    cores := [(4, quadWatcher)]
    wafers := [(0, { resetWafer with ksva := 0x100000 })]
    parts := [(0, { resetPart with st := .swapped, saved := [0] })] }

/-- KSVC op 0x5 for partition 0. -/
def restoreOp : W64 := 0x5000000000000000

/-- That pod with the operation taken. -/
def restoring : State := poisonedSave.setWafer 0 { poisonedSave.wafer 0 with pendingSvc := [(restoreOp, none)] }

/-- The saved store as it is reloaded. -/
def savedStore : List (Byte × Bool) := restoring.readRun ((restoring.wafer 0).evictAt 0 0) 0x40000

theorem savedStore_length : savedStore.length = 0x40000 := State.readRun_length ..

/-- Its first byte is poisoned. -/
theorem savedStore_head : ∃ b r, savedStore = (b, true) :: r := by
  have hp : restoring.poisonAt ((restoring.wafer 0).evictAt 0 0) = true := by decide
  have hn : (0x40000 : Nat) = 1 + 0x3FFFF := rfl
  rw [savedStore, hn, State.readRun_add]
  exact ⟨_, _, congrArg (fun p => (_, p) :: _) hp⟩

theorem restoring_waits (n id : Nat) (a : Access) (h : (restoring.core n).find id = some a) : a.phase ≠ .issued := by
  have hc : restoring.core n = if 4 = n then quadWatcher else resetCore := rfl
  rw [hc] at h
  split at h
  · obtain rfl := List.mem_singleton.mp (List.mem_of_find?_eq_some h)
    exact nofun
  · cases h

/-- The reload of the quad stops the core that watches its first word. -/
theorem restoring_reload_raised : ((restoring.reloadQuad 0 0).wafer 0).raised.map (·.kind) = [4] := by
  have hany : savedStore.any (·.2) = true := by
    obtain ⟨b, r, h⟩ := savedStore_head
    rw [h]
    rfl
  have hwrite : restoring.write (quadPa 0 0 0) savedStore ⟨3, 7, 0, false, 0⟩ =
      restoring.land (quadPa 0 0 0) savedStore ⟨3, 7, 0, false, 0⟩ none := by
    rw [State.write, State.writeAs, if_pos hany, State.settle_waiting restoring_waits]
  have hpoison := restoring.putRun_poisons_firstWord (n := 0x8000) savedStore_length (by decide) savedStore_head 0 none
  have hwatched : shas (wordKeys (quadPa 0 0 0) savedStore.length) (canon (quadPa 0 0 0)) = true := by
    rw [savedStore_length]
    exact firstWord_watched (n := 0x8000) (by decide)
  have hwake := (State.wake_single (s := restoring.putRun (quadPa 0 0 0) savedStore 0 none) (n := 4) (c := quadWatcher) rfl _).trans
    (State.wakeOne_faults (id := 0) (k := 0) rfl rfl rfl rfl hwatched hpoison rfl)
  have hland : (restoring.land (quadPa 0 0 0) savedStore ⟨3, 7, 0, false, 0⟩ none).wafer 0 =
      ((restoring.putRun (quadPa 0 0 0) savedStore 0 none).wake (wordKeys (quadPa 0 0 0) savedStore.length)).wafer 0 := State.spoil_wafer ..
  have hreload : (restoring.reloadQuad 0 0).wafer 0 = (restoring.write (quadPa 0 0 0) savedStore ⟨3, 7, 0, false, 0⟩).wafer 0 :=
    State.reloadQuad_wafer ..
  rw [hreload, hwrite, hland, hwake]
  exact State.stopCore_raised ..

/-- The restore of that pod's partition. -/
theorem exec_restoreOp : exec (.ksvcRestore 0 restoreOp) poisonedSave = .next ((restoring.swapIn 0 0).svcPop 0) := by
  have hpart : 0 * 64 + svcPart restoreOp = 0 := by decide
  have hx := exec_ksvcRestore poisonedSave 0 (v := restoreOp) (by decide) rfl rfl (by rw [hpart]; rfl)
  rwa [hpart] at hx

theorem restored_raised : (((restoring.swapIn 0 0).svcPop 0).wafer 0).raised.map (·.kind) = [4, 8] := by
  have hsaved : (restoring.part 0).saved = [0] := rfl
  rw [State.svcPop_raised, State.swapIn_raised, hsaved, List.foldl_cons, List.foldl_nil, restoring_reload_raised]
  rfl

/-- Refutes O28: where a saved quad holds a poisoned word, its restore writes that poison back to its home, and a core that watches the word
there stops (R211, R406): its fault is posted, and then the restore's own event. -/
theorem not_supervisorActs : ¬ Obligations.SupervisorActs := by
  unfold Obligations.SupervisorActs Pieces.SupervisorOps
  rintro ⟨hops, -⟩
  obtain ⟨-, -, -, -, -, -, hrestore, -⟩ := hops poisonedSave 0 restoreOp
  obtain ⟨t, e, ht, -, -, hraised, -⟩ := hrestore (by decide) ⟨rfl, nofun⟩ rfl
  obtain rfl := Host.Outcome.next.inj (exec_restoreOp.symm.trans ht)
  have hkinds := restored_raised
  have hnone : (poisonedSave.wafer 0).raised = [] := rfl
  rw [hraised, hnone] at hkinds
  exact absurd (congrArg List.length hkinds) (by simp)

end Sys2Proof.Machine

/-! R202, R227, R394: what the statement about the decoded instruction leaves out of an issue on TIMEDGO's edge. -/

namespace Sys2Proof.Machine

/-! ## The turn of a core that issues -/

section
variable {s : State} {n : Nat} {w : W32} {i : Instr}

theorem State.hold_of_canIssue (h : s.canIssue n = true) : (s.core n).hold = .none := by
  simp only [State.canIssue, Bool.and_eq_true, beq_iff_eq] at h
  obtain ⟨⟨⟨⟨⟨-, -⟩, hhold⟩, -⟩, -⟩, -⟩ := h
  exact hhold

/-- A fetched instruction issues in the state in which TIMEDGO's edge is used. -/
theorem State.issueTurn_decoded (hc : s.canIssue n = true) (hw : (s.core n).fetched (s.core n).fetchPc = some w)
    (hi : decodeWord w = .ok i) : s.issueTurn n = .run i (s.going n) := by
  simp only [State.issueTurn, State.hold_of_canIssue hc, hc, hw, hi, Bool.not_true, Bool.false_eq_true, if_false]

/-- A step of a core whose strand is not ending runs the instruction at its pc, TIMEDGO's edge used. -/
theorem step_of_fetches (h : fetches s n w) (he : ((issuing s n).core n).ending = none) (hi : decodeWord w = .ok i) :
    step s = exec i ((issuing s n).going n) := by
  obtain ⟨hact, hok, hcan, hword⟩ := h
  have hcore : s.advance.coreTurn n = .run i ((issuing s n).going n) := by
    have hturn := State.issueTurn_decoded hcan hword hi
    simp only [State.coreTurn, hok, Bool.not_true, Bool.false_eq_true, if_false]
    simp only [issuing] at he
    rw [he]
    exact hturn
  have hturn : s.turn = .run i ((issuing s n).going n) := by
    rw [State.turn, hact]
    exact hcore
  rw [step, hturn]

end

/-! ## An issue on TIMEDGO's edge -/

/-- The pod with NOP where the next step fetches it, at a core that TIMEDGO has just let go (R394). -/
def onEdge : State :=
  let s := State.reset.withFetchWord 32 0xE0000000
  s.setCore 0 { s.core 0 with go := true }

set_option maxRecDepth 40000 in
theorem onEdge_fetches : fetches onEdge 0 0xE0000000 := ⟨by rfl, by rfl, by rfl, by rfl⟩

/-- Refutes O56: the issue on TIMEDGO's edge uses that edge (R227), so the instruction runs in a state in which the core no longer stands on
it. Run in the state of the statement, a NOP would leave the core on the edge; the step does not. -/
theorem not_stepRunsDecoded : ¬ Obligations.StepRunsDecoded := by
  unfold Obligations.StepRunsDecoded
  intro h
  obtain ⟨hcore, -⟩ := h onEdge
  have hnop : decodeWord 0xE0000000 = .ok .nop := by decide
  have hsame := ((hcore 0 0xE0000000 onEdge_fetches).1 .nop hnop).symm.trans (step_of_fetches onEdge_fetches rfl hnop)
  have hgo := congrArg (fun t => (State.core t 0).go) (Host.Outcome.next.inj hsame)
  exact absurd hgo (by decide)

end Sys2Proof.Machine

/-! R200, R219 to R221, R223, R228: budgets, their shares, trading, decay and throttle. -/

namespace Sys2Proof.Machine

/-! ## Sums of shares (R221) -/

/-- A list read by its indices is the list. -/
theorem map_nth_range {α : Type} (l : List α) (d : α) : (List.range l.length).map (fun i => nth l i d) = l := by
  refine List.ext_getElem (by simp) fun i h _ => ?_
  have hi : i < l.length := by simpa using h
  simp [nth_eq_getD, hi]

theorem nth_map {α β : Type} {l : List α} {i : Nat} (h : i < l.length) (f : α → β) (d : α) (e : β) : nth (l.map f) i e = f (nth l i d) := by
  simp [nth_eq_getD, h]

/-- The first `k` of `n` take one each. -/
theorem sum_first (n k : Nat) : ((List.range n).map fun i => b2n (decide (i < k))).sum = min k n := by
  induction n with
  | zero => simp
  | succ n ih =>
    rw [List.range_succ, List.map_append, List.sum_append, ih]
    by_cases h : n < k <;> simp [h, b2n] <;> omega

theorem sum_map_add_first (f : Nat → Nat) (n k : Nat) :
    ((List.range n).map fun i => f i + b2n (decide (i < k))).sum = ((List.range n).map f).sum + min k n := by
  rw [List.sum_map_add, sum_first]

section
variable {rest total : Nat}

/-- Proportional parts, rounded down, of what is shared. -/
theorem sum_parts_le (asks : List Nat) : (asks.map fun a => rest * a / total).sum * total ≤ rest * asks.sum := by
  induction asks with
  | nil => simp
  | cons a r ih =>
    have := Nat.div_mul_le_self (rest * a) total
    simp only [List.map_cons, List.sum_cons, Nat.add_mul, Nat.mul_add]
    omega

/-- Each rounds off less than one. -/
theorem le_sum_parts (h : 0 < total) (asks : List Nat) :
    rest * asks.sum ≤ ((asks.map fun a => rest * a / total).sum + asks.length) * total := by
  induction asks with
  | nil => simp
  | cons a r ih =>
    have := Nat.lt_div_mul_add (a := rest * a) h
    simp only [List.map_cons, List.sum_cons, List.length_cons, Nat.add_mul, Nat.mul_add, Nat.one_mul] at ih ⊢
    omega

end

/-- The parts of what is left over the floors are all of it but at most one for each field. -/
theorem askedParts_sum (rest : Nat) {asks : List Nat} (h : asks ≠ []) :
    let sum := (asks.map (askedPart rest asks.sum asks.length)).sum
    sum ≤ rest ∧ rest ≤ sum + asks.length := by
  have hn : 0 < asks.length := List.length_pos_iff.mpr h
  by_cases ht : asks.sum = 0
  · have hp : askedPart rest asks.sum asks.length = fun _ => rest / asks.length := by
      funext a
      exact if_pos ht
    have hdiv := Nat.div_add_mod rest asks.length
    have hmod := Nat.mod_lt rest hn
    simp only [hp, List.map_const', List.sum_replicate, smul_eq_mul]
    omega
  · have hpos : 0 < asks.sum := Nat.pos_of_ne_zero ht
    have hp : askedPart rest asks.sum asks.length = fun a => rest * a / asks.sum := by
      funext a
      exact if_neg ht
    simp only [hp]
    exact ⟨Nat.le_of_mul_le_mul_right (sum_parts_le asks) hpos, Nat.le_of_mul_le_mul_right (le_sum_parts hpos asks) hpos⟩

section
variable {budget floor : Nat} {asks : List Nat}

theorem divide_short (h : budget < floor * asks.length) :
    divide budget floor asks = (List.range asks.length).map (evenShare budget asks.length) := if_pos h

/-- Where the budget covers the floors, each share is the floor, its part, and for the first ones a grain of what rounding left. -/
theorem divide_covers (h : floor * asks.length ≤ budget) : ∃ left,
    let parts := asks.map (askedPart (budget - floor * asks.length) asks.sum asks.length)
    left = budget - floor * asks.length - parts.sum ∧
      divide budget floor asks = (List.range asks.length).map fun i => floor + nth parts i 0 + b2n (decide (i < left)) :=
  ⟨_, rfl, if_neg (Nat.not_lt.mpr h)⟩

theorem divide_length (budget floor : Nat) (asks : List Nat) : (divide budget floor asks).length = asks.length := by
  rcases Nat.lt_or_ge budget (floor * asks.length) with h | h
  · rw [divide_short h, List.length_map, List.length_range]
  · obtain ⟨_, -, hd⟩ := divide_covers h
    rw [hd, List.length_map, List.length_range]

theorem evenShares_sum (budget : Nat) {n : Nat} (h : 0 < n) : ((List.range n).map (evenShare budget n)).sum = budget := by
  have hmod := Nat.mod_lt budget h
  have hdiv := Nat.div_add_mod budget n
  have hsum := sum_map_add_first (fun _ => budget / n) n (budget % n)
  rw [Nat.min_eq_left hmod.le] at hsum
  simp only [List.map_const', List.sum_replicate, List.length_range, smul_eq_mul] at hsum
  exact hsum.trans hdiv

/-- The shares of a budget are all of it. -/
theorem divide_sum (budget floor : Nat) (h : asks ≠ []) : (divide budget floor asks).sum = budget := by
  rcases Nat.lt_or_ge budget (floor * asks.length) with hlt | hge
  · rw [divide_short hlt]
    exact evenShares_sum budget (List.length_pos_iff.mpr h)
  · obtain ⟨left, hleft, hd⟩ := divide_covers hge
    obtain ⟨hle, hge'⟩ := askedParts_sum (budget - floor * asks.length) h
    have hparts := map_nth_range (asks.map (askedPart (budget - floor * asks.length) asks.sum asks.length)) 0
    rw [List.length_map] at hparts
    rw [hd, sum_map_add_first, List.sum_map_add, hparts]
    simp only [List.map_const', List.sum_replicate, List.length_range, smul_eq_mul]
    have hcomm := Nat.mul_comm asks.length floor
    omega

end

theorem b2n_le_one (b : Bool) : b2n b ≤ 1 := by cases b <;> decide

/-- R221: the division is fair. -/
theorem sharesAreFair : Pieces.SharesAreFair := by
  unfold Pieces.SharesAreFair
  intro budget floor asks hne
  refine ⟨divide_length .., divide_sum _ _ hne, fun i hi => ⟨fun hcov => ?_, fun hshort => ?_⟩⟩
  · obtain ⟨left, -, hd⟩ := divide_covers hcov
    rw [hd, nth_map_range _ _ _ _ hi, nth_map hi _ 0]
    have := b2n_le_one (decide (i < left))
    simp only [askedPart]
    omega
  · rw [divide_short hshort, nth_map_range _ _ _ _ hi]
    simp only [evenShare, b2n, decide_eq_true_eq]

/-! ## A wafer's interval (R200, R221) -/

/-- Serving the units that wait changes no count of grains drawn, nor the interval's budget. -/
theorem Field.serve_counts (k : Nat) (f : Field) : (f.serve k).bud = f.bud ∧ (f.serve k).used = f.used ∧ (f.serve k).usedNow = f.usedNow := by
  induction k generalizing f with
  | zero => exact ⟨rfl, rfl, rfl⟩
  | succ k ih =>
    rw [Field.serve]
    split
    · exact ⟨rfl, rfl, rfl⟩
    · split
      · exact ⟨rfl, rfl, rfl⟩
      · exact ih _

/-- An interval begins with its share and what is left of the last, up to one share. -/
theorem Field.begin_counts (f : Field) (share : Nat) :
    (f.begin share).bud = share + min f.pool share ∧ (f.begin share).used = f.usedNow ∧ (f.begin share).usedNow = 0 :=
  Field.serve_counts ..

theorem sheavesOnly_modNode (s : State) (r : NodeRef) (f : Node → Node) : ∃ m, s.modNode r f = { s with sheaves := m } := by
  unfold State.modNode State.setNode
  split
  · split
    · exact ⟨_, rfl⟩
    · exact ⟨s.sheaves, rfl⟩
  · exact ⟨s.sheaves, rfl⟩

/-- A loop whose steps change one part of the state alone changes that part alone. -/
theorem foldl_puts {α β : Type} (put : State → β → State) (hself : ∀ s, ∃ m, s = put s m) (hput : ∀ s m m', put (put s m) m' = put s m')
    {f : State → α → State} (h : ∀ s a, ∃ m, f s a = put s m) (l : List α) (s : State) : ∃ m, l.foldl f s = put s m := by
  induction l generalizing s with
  | nil => exact hself s
  | cons a r ih =>
    obtain ⟨m, hm⟩ := h s a
    obtain ⟨m', hm'⟩ := ih (f s a)
    exact ⟨m', by rw [List.foldl_cons, hm', hm, hput]⟩

/-- A loop whose steps change sheaves alone changes sheaves alone. -/
theorem sheavesOnly_foldl {α : Type} {f : State → α → State} (h : ∀ s a, ∃ m, f s a = { s with sheaves := m }) (l : List α) (s : State) :
    ∃ m, l.foldl f s = { s with sheaves := m } :=
  foldl_puts (fun s m => { s with sheaves := m }) (fun s => ⟨s.sheaves, rfl⟩) (fun _ _ _ => rfl) h l s

/-- Charging a field's energy changes nodes alone. -/
theorem sheavesOnly_chargeField (s : State) (k : Nat) : ∃ m, s.chargeField k = { s with sheaves := m } := by
  unfold State.chargeField
  extract_lets active idle spent total holders t
  obtain ⟨m, hm⟩ : ∃ m, t = { s with sheaves := m } := sheavesOnly_foldl (fun _ _ => sheavesOnly_modNode ..) _ _
  obtain ⟨m', hm'⟩ := sheavesOnly_foldl (f := fun s r => State.charge s r idle holders.length) (fun _ _ => sheavesOnly_modNode ..) holders t
  exact ⟨m', by rw [hm', hm]⟩

/-- A loop that changes each field of a list once. -/
theorem foldl_setField (key : Nat → Nat) (f : Nat → Field → Field) (l : List Nat) (hl : (l.map key).Nodup) (s : State) :
    let t := l.foldl (fun s i => s.setField (key i) (f i (s.field (key i)))) s
    (∀ i ∈ l, t.field (key i) = f i (s.field (key i))) ∧ ∀ k ∉ l.map key, t.field k = s.field k := by
  induction l generalizing s with
  | nil => exact ⟨nofun, fun _ _ => rfl⟩
  | cons j r ih =>
    rw [List.map_cons, List.nodup_cons] at hl
    obtain ⟨hj, hr⟩ := hl
    obtain ⟨hin, hout⟩ := ih hr (s.setField (key j) (f j (s.field (key j))))
    refine ⟨fun i hi => ?_, fun k hk => ?_⟩
    · rcases List.mem_cons.mp hi with rfl | hi
      · exact (hout _ hj).trans (State.field_setField ..)
      · have hne : key i ≠ key j := fun e => hj (e ▸ List.mem_map_of_mem hi)
        refine (hin i hi).trans ?_
        rw [State.field_setField_ne _ _ _ _ hne]
    · rw [List.map_cons, List.mem_cons, not_or] at hk
      exact (hout k hk.2).trans (State.field_setField_ne _ _ _ _ hk.1)

theorem fieldKey_inj {w : Nat} : Function.Injective (fieldKey w) := fun a b h => by
  simp only [fieldKey] at h
  omega

theorem Wafer.fields_nodup (x : Wafer) : x.fields.Nodup := List.nodup_range.filter _

theorem State.beginInterval_wafer (s : State) (w v : Nat) : (s.beginInterval w).wafer v = s.wafer v := by
  obtain ⟨m, hm⟩ := fieldsOnly_beginInterval s w
  rw [hm]
  rfl

/-- What a wafer's budget gives its fields, by what each asks for. -/
def State.shares (s : State) (w : Nat) : List Nat :=
  divide (s.wafer w).share (s.wafer w).kpbudMin.toNat ((s.wafer w).fields.map fun f => (s.field (fieldKey w f)).asked)

/-- Each field of a wafer begins its interval with its share. -/
theorem State.beginInterval_field (s : State) (w : Nat) {i : Nat} (hi : i < (s.wafer w).fields.length) :
    let k := fieldKey w (nth (s.wafer w).fields i 0)
    (s.beginInterval w).field k = (s.field k).begin (nth (s.shares w) i 0) := by
  have hkeys : (List.range (s.wafer w).fields.length).map (fun i => fieldKey w (nth (s.wafer w).fields i 0)) =
      (s.wafer w).fields.map (fieldKey w) := by
    conv_rhs => rw [← map_nth_range (s.wafer w).fields 0, List.map_map]
    rfl
  have hnodup := (s.wafer w).fields_nodup.map (fieldKey_inj (w := w))
  rw [← hkeys] at hnodup
  obtain ⟨hin, -⟩ := foldl_setField _ (fun i f => f.begin (nth (s.shares w) i 0)) _ hnodup s
  exact hin i (List.mem_range.mpr hi)

/-- A wafer's counts as an interval ends, its fields having drawn `used` grains and waited for `waited`. -/
def Wafer.intervalEnd (x : Wafer) (used waited : Nat) : Wafer :=
  { x with
    lastIntvl := x.lastIntvl + 1000, demand := x.demand + waited, given := x.given + x.budget, drawn := x.drawn + used
    intvls := x.intvls + 1, budget := x.budget + x.gain, gain := 0 }

section
variable {s : State} {w : Nat}

theorem exec_grainInterval_early (h : s.devTime w < (s.wafer w).lastIntvl + 1000) : exec (.grainInterval w) s = .next s :=
  congrArg Host.Outcome.next (if_pos h)

/-- GRAIN_INTERVAL on its edge: the charged nodes apart, the wafer's counts are closed and the next interval begins. -/
theorem exec_grainInterval (h : (s.wafer w).lastIntvl + 1000 ≤ s.devTime w) : ∃ m waited,
    let used := ((s.wafer w).fields.map fun f => (s.field (fieldKey w f)).usedNow).sum
    exec (.grainInterval w) s =
      .next ((State.setWafer { s with sheaves := m } w ((s.wafer w).intervalEnd used waited)).beginInterval w) := by
  obtain ⟨m, hm⟩ := sheavesOnly_foldl (f := State.chargeField) sheavesOnly_chargeField ((s.wafer w).fields.map (fieldKey w)) s
  refine ⟨m, (((s.wafer w).fields.map (fieldKey w)).map fun k => (s.field k).reqNow).sum,
    congrArg Host.Outcome.next ((if_neg (Nat.not_lt.mpr h)).trans ?_)⟩
  dsimp only
  rw [hm]
  simp only [List.map_map]
  rfl

/-! ## Trading (R219, R220) -/

/-- What a wafer has told the others decides which of them is in most need. -/
theorem State.neediest_congr {t : State} (hp : t.podsize = s.podsize) (ht : ∀ v, (t.wafer v).told = (s.wafer v).told) :
    t.neediest w = s.neediest w := by
  simp only [State.neediest, hp, ht]

theorem exec_tradingPeriod_tells (h : (s.wafer w).lastTrade + 100000 ≤ s.devTime w) :
    let x := s.wafer w
    exec (.tradingPeriod w) s = .next (s.setWafer w { x with
      lastTrade := x.lastTrade + 100000, told := (x.demand / x.intvls, (x.given - x.drawn) / x.intvls), demand := 0, given := 0
      drawn := 0, intvls := 0 }) :=
  congrArg Host.Outcome.next (if_pos h)

theorem exec_tradingPeriod_grants (h : s.devTime w < (s.wafer w).lastTrade + 100000) (ht : (s.wafer w).traded < (s.wafer w).lastTrade)
    (hall : ∀ u, u < s.podsize → (s.wafer u).lastTrade = (s.wafer w).lastTrade) :
    exec (.tradingPeriod w) s = .next ((s.setWafer w { s.wafer w with traded := (s.wafer w).lastTrade }).makeGrant w) := by
  have hall' : (List.range s.podsize).all (fun v => (s.wafer v).lastTrade == (s.wafer w).lastTrade) = true :=
    List.all_eq_true.mpr fun v hv => beq_iff_eq.mpr (hall v (List.mem_range.mp hv))
  refine congrArg Host.Outcome.next ((if_neg (Nat.not_le.mpr h)).trans (if_pos ?_))
  rw [decide_eq_true ht, hall']
  rfl

/-- A wafer that remembers its trade has told the others what it had. -/
theorem State.neediest_traded (s : State) (w n : Nat) : (s.setWafer w { s.wafer w with traded := n }).neediest w = s.neediest w := by
  refine State.neediest_congr ?_ fun v => ?_
  · unfold State.podsize
    by_cases h0 : (0 : Nat) = w
    · subst h0
      rw [State.wafer_setWafer]
    · rw [State.wafer_setWafer_ne _ _ _ _ h0]
  · by_cases hv : v = w
    · subst hv
      rw [State.wafer_setWafer]
    · rw [State.wafer_setWafer_ne _ _ _ _ hv]

/-- A wafer with enough to spare lowers its budget by its grant, which goes out on a link. -/
theorem State.makeGrant_sends {v d l : Nat} (hs : (s.wafer w).budget < 16 * (s.wafer w).told.2) (hn : s.neediest w = some (v, d))
    (hl : s.upLink w = some l) (h0 : (s.wafer w).grantOf d ≠ 0) :
    ((s.makeGrant w).wafer w).budget = (s.wafer w).budget - (s.wafer w).grantOf d ∧
      ((s.makeGrant w).link (w * 64 + l)).grants = (s.link (w * 64 + l)).grants ++ [(v, (s.wafer w).grantOf d)] := by
  let x := s.wafer w
  let k := s.link (w * 64 + l)
  have hg : s.makeGrant w = (s.setWafer w { x with budget := x.budget - x.grantOf d }).setLink (w * 64 + l) { k with
      grants := k.grants ++ [(v, x.grantOf d)], txSeq := k.txSeq + 1, sealed := k.sealed + 1 } := by
    refine (if_neg (Nat.not_le.mpr hs)).trans ?_
    rw [hn, hl]
    exact if_neg h0
  rw [hg, State.link_setLink]
  exact ⟨congrArg Wafer.budget (State.wafer_setWafer ..), rfl⟩

theorem exec_grantReceive {k n : Nat} {l : Link} {rest : List (Nat × Nat)}
    (hk : s.links.find? (fun e => e.2.up && e.2.grants.any (·.1 == w)) = some (k, l)) (hn : takeGrant w l.grants = some (n, rest)) :
    exec (.grantReceive w) s =
      .next ((s.setLink k { l with grants := rest }).setWafer w { s.wafer w with gain := (s.wafer w).gain + n }) := by
  simp only [exec, execGrantReceive, hk, hn]

/-! ## Hot wafers (R228) -/

theorem exec_budgetDecay (hh : s.allHot w = true) (ht : (s.wafer w).lastDecay + 1000000 ≤ s.time) :
    exec (.budgetDecay w) s =
      .next (s.setWafer w { s.wafer w with lastDecay := s.time, budget := decayed (s.wafer w).budget (s.wafer w).floor }) := by
  have hlt : decide (s.time < (s.wafer w).lastDecay + 1000000) = false := decide_eq_false (Nat.not_lt.mpr ht)
  simp only [exec, execBudgetDecay, hh, hlt, Bool.not_true, Bool.or_self, Bool.false_eq_true, if_false]

/-! ## Fast throttle (R223) -/

theorem fieldsOnly_startHop (s : State) (k : Nat) : ∃ m, s.startHop k = { s with fields := m } := by
  unfold State.startHop
  dsimp only
  split
  · exact ⟨_, rfl⟩
  · split <;> exact ⟨_, rfl⟩

@[simp] theorem State.wafer_withFields (s : State) (m : Map Field) (w : Nat) : State.wafer { s with fields := m } w = s.wafer w := rfl

theorem exec_throttleEntry {src : Nat} (hs : s.sourceOn w src = true) (ht : (s.wafer w).thrAct = false) : ∃ t,
    exec (.throttleEntry w src) s = .next t ∧ t.wafer w = { s.wafer w with thrAct := true, thrCnt := (s.wafer w).thrCnt + 1 } := by
  obtain ⟨m, hm⟩ := fieldsOnly_rebaseAll s (s.setWafer w { s.wafer w with thrAct := true, thrCnt := (s.wafer w).thrCnt + 1 }) w
  have hx : exec (.throttleEntry w src) s =
      .next (s.rebaseAll (s.setWafer w { s.wafer w with thrAct := true, thrCnt := (s.wafer w).thrCnt + 1 }) w) := by
    simp only [exec, execThrottleEntry, hs, ht, Bool.not_true, Bool.or_self, Bool.false_eq_true, if_false]
  exact ⟨_, hx, by rw [hm, State.wafer_withFields, State.wafer_setWafer]⟩

theorem exec_throttleExit (ha : (s.wafer w).thrAct = true) (hoff : ∀ src, src < 74 → s.sourceOn w src = false)
    (ht : (s.wafer w).clearAt + 20000 ≤ s.time) : ∃ t,
    exec (.throttleExit w) s = .next t ∧ t.wafer w = { s.wafer w with thrAct := false } := by
  have hany : (List.range 74).any (s.sourceOn w) = false :=
    List.any_eq_false.mpr fun src hsrc => by simp [hoff src (List.mem_range.mp hsrc)]
  have hlt : decide (s.time < (s.wafer w).clearAt + 20000) = false := decide_eq_false (Nat.not_lt.mpr ht)
  let u := s.rebaseAll (s.setWafer w { s.wafer w with thrAct := false }) w
  have hx : exec (.throttleExit w) s = .next ((u.wafer w).fields.foldl (fun s f => s.startHop (fieldKey w f)) u) := by
    simp only [exec, execThrottleExit, ha, hany, hlt, Bool.not_true, Bool.or_self, Bool.false_eq_true, if_false]
    rfl
  obtain ⟨m, hm⟩ : ∃ m, u = { s.setWafer w { s.wafer w with thrAct := false } with fields := m } := fieldsOnly_rebaseAll ..
  obtain ⟨m', hm'⟩ := fieldsOnly_foldl (f := fun s f => s.startHop (fieldKey w f)) (fun _ _ => fieldsOnly_startHop ..) (u.wafer w).fields u
  exact ⟨_, hx, by rw [hm', State.wafer_withFields, hm, State.wafer_withFields, State.wafer_setWafer]⟩

end

/-! ## Budgets in passing -/

/-- What an interval's edge leaves of a wafer and of its fields. -/
theorem grainInterval_divides {s : State} {w : Nat} (h : (s.wafer w).lastIntvl + 1000 ≤ s.devTime w) : ∃ t waited,
    let x := s.wafer w
    exec (.grainInterval w) s = .next t ∧
      t.wafer w = x.intervalEnd (x.fields.map fun f => (s.field (fieldKey w f)).usedNow).sum waited ∧
      ∀ i, i < x.fields.length → let k := fieldKey w (nth x.fields i 0)
        t.field k = (s.field k).begin (nth (divide (if x.thrAct then (x.budget + x.gain) / 4 else x.budget + x.gain) x.kpbudMin.toNat
          (x.fields.map fun f => (s.field (fieldKey w f)).asked)) i 0) := by
  obtain ⟨m, waited, hx⟩ := exec_grainInterval h
  refine ⟨_, waited, hx, ?_, fun i hi => ?_⟩
  · rw [State.beginInterval_wafer, State.wafer_setWafer]
  · have hw := State.wafer_setWafer { s with sheaves := m } w
      ((s.wafer w).intervalEnd ((s.wafer w).fields.map fun f => (s.field (fieldKey w f)).usedNow).sum waited)
    have hf := State.beginInterval_field (i := i) _ w (by rw [hw]; exact hi)
    simp only [State.shares, hw] at hf
    exact hf

/-- The budgets of a wafer, event by event. -/
theorem budgetsPass : Pieces.BudgetsPass := by
  unfold Pieces.BudgetsPass
  intro s w x
  refine ⟨exec_grainInterval_early, fun h => ?_, exec_tradingPeriod_tells, ?_, fun k l n rest => exec_grantReceive, exec_budgetDecay,
    fun src hsrc hoff => ?_, fun ha hoff ht => ?_⟩
  · obtain ⟨t, waited, hx, hw, hf⟩ := grainInterval_divides h
    refine ⟨t, hx, ?_⟩
    rw [hw]
    refine ⟨rfl, rfl, rfl, rfl, rfl, fun i hi => ?_⟩
    have hg := hf i hi
    dsimp only at hg ⊢
    rw [hg]
    exact Field.begin_counts ..
  · intro v d l hdev htr hall hsp hneed hup n hn0
    have hw := State.wafer_setWafer s w { x with traded := x.lastTrade }
    have hsends := State.makeGrant_sends (s := s.setWafer w { x with traded := x.lastTrade }) (w := w) (v := v) (d := d) (l := l)
      (by rw [hw]; exact hsp) ((State.neediest_traded ..).trans hneed) hup (by rw [hw]; exact hn0)
    rw [hw] at hsends
    exact ⟨_, exec_tradingPeriod_grants hdev htr hall, hsends⟩
  · obtain ⟨t, hx, hw⟩ := exec_throttleEntry hsrc hoff
    refine ⟨t, hx, ?_⟩
    rw [hw]
    exact ⟨rfl, rfl, rfl⟩
  · obtain ⟨t, hx, hw⟩ := exec_throttleExit ha hoff ht
    refine ⟨t, hx, ?_⟩
    rw [hw]
    exact ⟨rfl, rfl⟩

/-- Settles O30: the division is fair, and each event of a wafer's budget passes it on as it should. -/
theorem budgetsAreShared : Obligations.BudgetsAreShared := ⟨sharesAreFair, budgetsPass⟩

end Sys2Proof.Machine

/-! R188 to R190, R207, R300, R338, R350: launches from strands, from the host and pod-wide. -/

namespace Sys2Proof.Machine

/-! ## Acceptance (R189, R300) -/

/-- `sh` is the sheaf of a launch entry as it is accepted, with its header, and with its number where it is pod-wide. -/
structure Sheaf.AcceptedFor (sh : Sheaf) (e : PodEntry) (hdr : List W64) (pod : Option Nat) : Prop where
  va : sh.va = e.va
  prio : sh.prio = e.prio
  tag : sh.tag = e.tag
  host : sh.host = e.host
  master : sh.master = e.master
  hdr : sh.hdr = hdr
  pod : sh.pod = pod

theorem credsOnly_joinCreds (s : State) (w key asid pod seq : Nat) (cs : List (List W64)) :
    ∃ m, s.joinCreds w key asid pod seq cs = { s with creds := m } := by
  refine foldl_puts (fun s m => { s with creds := m }) (fun s => ⟨s.creds, rfl⟩) (fun _ _ _ => rfl) (fun t ws => ?_) cs s
  extract_lets gid k g g'
  split
  · exact ⟨_, rfl⟩
  · exact ⟨t.creds, rfl⟩

/-- A sheaf is accepted into its place; with it only the next number and the CRED groups change. -/
theorem State.acceptAt_eq (s : State) (e : PodEntry) (w slot : Nat) (h : Option (List W64)) (pod : Option Nat) : ∃ sh m,
    s.acceptAt e w slot h pod =
        { s with serial := s.serial + 1, sheaves := mput s.sheaves (w * 4096 + e.part * 64 + slot) sh, creds := m } ∧
      sh.AcceptedFor e (h.getD []) pod := by
  unfold State.acceptAt
  extract_lets pw asid key got seq sh u
  have hsh : sh.AcceptedFor e (h.getD []) pod := ⟨rfl, rfl, rfl, rfl, rfl, rfl, rfl⟩
  split
  · split
    · obtain ⟨m, hm⟩ := credsOnly_joinCreds u w key asid _ seq (got.getD [])
      exact ⟨sh, m, hm, hsh⟩
    · exact ⟨sh, s.creds, rfl, hsh⟩
  · exact ⟨sh, s.creds, rfl, hsh⟩

/-- `t` is `s` after an acceptance on wafer `w`: no core has changed, nor has the wafer. -/
structure State.LaunchedOn (s t : State) (w : Nat) : Prop where
  cores : t.cores = s.cores
  cur : t.cur = s.cur
  wafer : t.wafer w = s.wafer w

theorem State.LaunchedOn.me {s t : State} {w : Nat} (h : s.LaunchedOn t w) : t.me = s.me := by
  unfold State.me State.core
  rw [h.cores, h.cur]

/-- A pod-wide launch is passed to the wafers other than its submitter. -/
theorem launchedOn_passPod (s : State) (e : PodEntry) : s.LaunchedOn (s.passPod e) e.master := by
  refine List.foldlRecOn (motive := fun t => s.LaunchedOn t e.master) _ _ ⟨rfl, rfl, rfl⟩ fun t ht w _ => ?_
  dsimp only
  split
  · exact ht
  · next hw => exact ⟨ht.cores, ht.cur, (State.wafer_setWafer_ne _ _ _ _ (Ne.symm hw)).trans ht.wafer⟩

theorem launchedOn_submitPod (s : State) (e : PodEntry) (h : Option (List W64)) (refused : Bool) :
    s.LaunchedOn (s.submitPod e h refused).1 e.master := by
  unfold State.submitPod
  split
  · obtain ⟨hcores, hcur, hwafer⟩ :=
      launchedOn_passPod { s with serial := s.serial + 1 } { e with pod := s.serial, refused := refused }
    exact ⟨hcores, hcur, hwafer⟩
  · exact ⟨rfl, rfl, rfl⟩

/-- What a submitter's acceptance leaves: the sheaf in its place, with its header where its record area can be reached. -/
theorem State.acceptHere_accepts (s : State) (e : PodEntry) (slot : Nat) (h : Option (List W64)) (ok : Bool) :
    s.LaunchedOn (s.acceptHere e slot h ok) e.master ∧ ∃ sh pod,
      mfind (s.acceptHere e slot h ok).sheaves (e.master * 4096 + e.part * 64 + slot) = some sh ∧
        sh.AcceptedFor e ((if ok then h else none).getD []) pod := by
  obtain ⟨sh, m, heq, hsh⟩ := (s.submitPod e h (!ok)).1.acceptAt_eq e e.master slot (if ok then h else none) (s.submitPod e h (!ok)).2
  obtain ⟨hcores, hcur, hwafer⟩ := launchedOn_submitPod s e h (!ok)
  unfold State.acceptHere
  dsimp only
  rw [heq]
  exact ⟨⟨hcores, hcur, hwafer⟩, sh, _, mfind_mput_same .., hsh⟩

/-! ## LAUNCH (R350) -/

/-- Operands that LAUNCH takes: an aligned address, and a priority alone. -/
theorem launch_operands {va v : W64} (hv : v.toNat < 4) (ha : va.toNat % 64 = 0) : bits v 63 2 = 0 ∧ bits va 5 0 = 0 ∧ bits v 1 0 = v.toNat := by
  rw [bits_top _ (by decide), bits_low, bits_low]
  omega

/-- The entry of the sheaf that the issuing core launches from `va` at priority `prio`. -/
def State.launchOf (s : State) (part prio : Nat) (va : W64) : PodEntry :=
  { pod := 0, master := nWafer s.cur, part := part, prio := prio, tag := 0, va := va, host := false, refused := false }

section
variable {s : State} {d a b : Reg} {st : Strand} (hst : s.me.strand = some st) (hr : s.me.ready [a, b] d = true)
  (hb : (s.me.get b).toNat < 4) (ha : (s.me.get a).toNat % 64 = 0)

section
include hr hb ha

theorem exec_launch_waits (hf : s.me.fenced 3 = false) : exec (.launch d a b) s = .next (s.setMe { s.me with wait := none }) := by
  obtain ⟨hhigh, hlow, -⟩ := launch_operands hb ha
  simp only [exec, execLaunch]
  rw [State.issue_ready _ hr]
  simp [hhigh, hlow, hf]

end

include hst hr hb ha

theorem exec_launch_full (hf : s.me.fenced 3 = true) (hp : s.freePlace (nWafer s.cur) (shPart st.ref.sheaf) = none) :
    exec (.launch d a b) s = .next (s.result (s.me.relFence 3) d 1) := by
  obtain ⟨hhigh, hlow, -⟩ := launch_operands hb ha
  simp only [exec, execLaunch]
  rw [State.issue_ready _ hr]
  simp [hhigh, hlow, hf, hst, hp]

variable {slot : Nat} (hf : s.me.fenced 3 = true) (hp : s.freePlace (nWafer s.cur) (shPart st.ref.sheaf) = some slot)
include hf hp

theorem exec_launch_behindPod (hq : ∃ e ∈ (s.wafer (nWafer s.cur)).podIn, e.part = shPart st.ref.sheaf) :
    exec (.launch d a b) s = .next (s.setMe { s.me.relFence 3 with wait := none }) := by
  obtain ⟨hhigh, hlow, -⟩ := launch_operands hb ha
  have hany : (s.wafer (nWafer s.cur)).podIn.any (·.part == shPart st.ref.sheaf) = true := by simpa using hq
  simp only [exec, execLaunch]
  rw [State.issue_ready _ hr]
  simp [hhigh, hlow, hf, hst, hp, hany]

theorem exec_launch_accepts (hq : ∀ e ∈ (s.wafer (nWafer s.cur)).podIn, e.part ≠ shPart st.ref.sheaf) : ∃ h ok,
    let u := (s.setMe (s.me.relFence 3)).acceptHere (s.launchOf (shPart st.ref.sheaf) (s.me.get b).toNat (s.me.get a)) slot h ok
    exec (.launch d a b) s = .next (u.result u.me d 0) := by
  obtain ⟨hhigh, hlow, hprio⟩ := launch_operands hb ha
  have hany : (s.wafer (nWafer s.cur)).podIn.any (·.part == shPart st.ref.sheaf) = false := by simpa using hq
  have hissue := fun k => State.issue_ready (srcs := [(a, false), (b, false)]) k hr
  simp only [exec, execLaunch, hissue, hhigh, hlow, hf, hst, hp, hany, hprio, bne_self_eq_false, Bool.not_true, Bool.false_eq_true, if_false]
  exact ⟨_, _, rfl⟩

end

theorem launchAccepts : Pieces.LaunchAccepts := by
  unfold Pieces.LaunchAccepts
  intro s d a b st hst _ hr hb ha w part c
  refine ⟨exec_launch_waits hr hb ha, fun hf hp => ⟨_, exec_launch_full hst hr hb ha hf hp, wrote_result_of ..⟩,
    fun hf slot hp => exec_launch_behindPod hst hr hb ha hf hp, fun hf hq slot hp => ?_⟩
  obtain ⟨h, ok, hx⟩ := exec_launch_accepts hst hr hb ha hf hp hq
  obtain ⟨hon, sh, pod, hfind, hsh⟩ := (s.setMe c).acceptHere_accepts (s.launchOf part (s.me.get b).toNat (s.me.get a)) slot h ok
  have hme := hon.me.trans (State.me_setMe s c)
  refine ⟨_, sh, hx, ?_, hfind, hsh.va, hsh.prio, hsh.tag, hsh.host, ?_, ?_⟩
  · rw [State.result, State.me_finish, Core.put_eq, hme]
  · rw [State.result, State.me_finish]
    exact (Core.get_put_same ..).trans (ite_self _)
  · rw [State.result, State.me_finish, Core.put_eq, hme]
    rfl

/-! ## The doorbell (R188) -/

section
variable {s : State} {w : Nat}

theorem exec_launchDoorbell_sets {v : W64} (h : (v.setWidth 32 - (s.wafer w).klqHead : W32).toNat ≤ ringSize (s.wafer w).klqb) :
    exec (.launchDoorbell w v) s = .next (s.setWafer w { s.wafer w with klqTail := v.setWidth 32 }) :=
  congrArg Host.Outcome.next (if_neg (Nat.not_lt.mpr h))

theorem exec_launchDoorbell_overruns {v : W64} (h : ringSize (s.wafer w).klqb < (v.setWidth 32 - (s.wafer w).klqHead : W32).toNat) :
    exec (.launchDoorbell w v) s = .next (s.raiseEv w
      ⟨2, none, [BitVec.ofNat 64 (v.setWidth 32 : W32).toNat, 2, 0, 0, 0, 0], .other, none⟩) :=
  congrArg Host.Outcome.next (if_pos h)

/-! ## The launch ring (R189) -/

/-- The entry at the head of a wafer's ring, as the GS submits it. -/
def State.ringEntry (s : State) (w : Nat) : PodEntry :=
  let e := s.launchEntry w
  { pod := 0, master := w, part := bits (nth e 1 0) 13 8, prio := bits (nth e 1 0) 1 0, tag := nth e 2 0, va := nth e 0 0, host := true
    refused := false }

section
variable (hset : (s.wafer w).tablesSet = true) (hne : (s.wafer w).klqHead ≠ (s.wafer w).klqTail) (hround : (s.wafer w).round = none)
include hset hne hround

theorem exec_launchEntryTake_refuses
    (hbad : entryReserved (s.launchEntry w) = true ∨ partValid (s.partWords w (bits (nth (s.launchEntry w) 1 0) 13 8)) = false) :
    exec (.launchEntryTake w) s = .next (s.refuseEntry w 1 0) := by
  have h : (entryReserved (s.launchEntry w) || !partValid (s.partWords w (bits (nth (s.launchEntry w) 1 0) 13 8))) = true := by
    rcases hbad with h | h
    · rw [h]; rfl
    · rw [h]; exact Bool.or_true _
  simp only [exec, execLaunchEntryTake, hset, hne, hround, h, Option.isSome_none, Bool.not_true, Bool.or_self, Bool.false_eq_true, decide_false,
    if_false, if_true]

theorem exec_launchEntryTake_accepts {slot : Nat} {h : List W64} (hres : entryReserved (s.launchEntry w) = false)
    (hvalid : partValid (s.partWords w (s.ringEntry w).part) = true) (hq : ∀ y ∈ (s.wafer w).podIn, y.part ≠ (s.ringEntry w).part)
    (hp : s.freePlace w (s.ringEntry w).part = some slot)
    (hh : s.hwReads w (partAsid (s.partWords w (s.ringEntry w).part)) (s.ringEntry w).va 8 = some h)
    (hrec : s.recOk w (partAsid (s.partWords w (s.ringEntry w).part)) h = true) :
    exec (.launchEntryTake w) s = .next ((s.takeEntry w).acceptHere (s.ringEntry w) slot (some h) true) := by
  have hany : (s.wafer w).podIn.any (·.part == (s.ringEntry w).part) = false := by simpa using hq
  have hrecs : (some h).any (s.recOk w (partAsid (s.partWords w (s.ringEntry w).part))) = true := hrec
  simp only [State.ringEntry] at hvalid hany hp hh hrecs
  simp only [exec, execLaunchEntryTake, hset, hne, hround, hres, hvalid, hany, hp, hh, hrecs, Option.isSome_none, Bool.not_true, Bool.or_self,
    Bool.false_eq_true, decide_false, if_false, if_true]
  rfl

end

/-- With no refusal held, the head's entry is refused, and an event says why. -/
theorem State.refuseEntry_refuses (hheld : ∀ v ∈ (s.wafer w).raised, v.kind ≠ 2) (reason : Nat) (va : W64) :
    (s.refuseEntry w reason va).wafer w = { s.wafer w with
      klqHead := (s.wafer w).klqHead + 1, raised := (s.wafer w).raised ++ [refusedEv (s.wafer w).klqHead.toNat reason va] } := by
  have hh : s.refusalHeld w = false := by simpa [State.refusalHeld] using hheld
  simp [State.refuseEntry, hh, State.takeEntry, State.raiseEv]

/-! ## Pod-wide launches passed to a wafer (R300) -/

/-- A sheaf as the refusal of the pod-wide launch `p` leaves it. -/
def Sheaf.podRefused (sh : Sheaf) (p : Nat) : Sheaf := if sh.pod == some p && sh.bad = 0 then { sh with bad := 1, nodes := [] } else sh

theorem State.mfind_refusePod (s : State) (p k : Nat) : mfind (s.refusePod p).sheaves k = (mfind s.sheaves k).map (·.podRefused p) := by
  refine (mfind_map_entries _ (fun e => ?_) s.sheaves k).trans (congrArg (Option.map · _) (funext fun sh => ?_))
  · dsimp only
    split <;> rfl
  · unfold Sheaf.podRefused
    dsimp only
    split <;> rfl

theorem Sheaf.AcceptedFor.podRefused {sh : Sheaf} {e : PodEntry} {hdr : List W64} {pod : Option Nat} (h : sh.AcceptedFor e hdr pod) (p : Nat) :
    (sh.podRefused p).AcceptedFor e hdr pod := by
  obtain ⟨hva, hprio, htag, hhost, hmaster, hhdr, hpod⟩ := h
  unfold Sheaf.podRefused
  split <;> exact ⟨hva, hprio, htag, hhost, hmaster, hhdr, hpod⟩

/-- A launch that waits at a wafer, as the refusal of the pod-wide launch `p` leaves it. -/
def PodEntry.podRefused (e : PodEntry) (p : Nat) : PodEntry := if e.pod == p then { e with refused := true } else e

theorem PodEntry.podRefused_va (e : PodEntry) (p : Nat) : (e.podRefused p).va = e.va := by
  unfold PodEntry.podRefused
  split <;> rfl

/-- A wafer as that refusal leaves it. -/
def Wafer.podRefused (x : Wafer) (p : Nat) : Wafer := { x with podIn := x.podIn.map (·.podRefused p) }

theorem State.wafer_refusePod (s : State) (p w : Nat) : (s.refusePod p).wafer w = (s.wafer w).podRefused p := by
  have hw : mfind (s.refusePod p).wafers w = (mfind s.wafers w).map (·.podRefused p) := mfind_map s.wafers (·.podRefused p) w
  rw [State.wafer, State.wafer, mget_eq_mfind, mget_eq_mfind, hw]
  cases mfind s.wafers w <;> rfl

/-- A refusal of a pod-wide launch leaves the launches that wait at a wafer where they are. -/
theorem State.refusePod_podIn (s : State) (p w : Nat) : ((s.refusePod p).wafer w).podIn.map (·.va) = (s.wafer w).podIn.map (·.va) := by
  rw [State.wafer_refusePod, Wafer.podRefused, List.map_map]
  exact List.map_congr_left fun e _ => e.podRefused_va p

/-- A wafer takes a launch off those that wait. -/
def State.podTaken (s : State) (w : Nat) (e : PodEntry) : State := s.setWafer w { s.wafer w with podIn := (s.wafer w).podIn.erase e }

section
variable {e : PodEntry} {slot : Nat} {h : List W64}
  (hfind : (s.wafer w).podIn.find? (fun e => (s.freePlace w e.part).isSome) = some e) (hp : s.freePlace w e.part = some slot)
  (hvalid : partValid (s.partWords w e.part) = true) (hh : s.hwReads w (partAsid (s.partWords w e.part)) e.va 8 = some h)
  (hrec : s.recOk w (partAsid (s.partWords w e.part)) h = true)
include hfind hp hvalid hh hrec

theorem exec_podSheafAccept : let u := (s.podTaken w e).acceptAt e w slot (some h) (some e.pod)
    exec (.podSheafAccept w) s = .next (if (u.podSheaves e.pod).any fun x => x.2.bad ≠ 0 then u.refusePod e.pod else u) := by
  have hf : (some h).filter (s.recOk w (partAsid (s.partWords w e.part))) = some h := by simp [Option.filter, hrec]
  simp only [exec, execPodSheafAccept, hfind, hvalid, hh, hf, hp, if_true]
  rfl

/-- A launch passed to a wafer is accepted there, whether or not its pod then refuses it. -/
theorem podSheafAccept_accepts : ∃ t sh, exec (.podSheafAccept w) s = .next t ∧
    (t.wafer w).podIn.map (·.va) = ((s.wafer w).podIn.erase e).map (·.va) ∧
      mfind t.sheaves (w * 4096 + e.part * 64 + slot) = some sh ∧ sh.AcceptedFor e h (some e.pod) := by
  have hx := exec_podSheafAccept hfind hp hvalid hh hrec
  extract_lets u at hx
  obtain ⟨sh, m, heq, hsh⟩ := (s.podTaken w e).acceptAt_eq e w slot (some h) (some e.pod)
  have hfound : mfind u.sheaves (w * 4096 + e.part * 64 + slot) = some sh :=
    (congrArg (fun v => mfind (State.sheaves v) _) heq).trans (mfind_mput_same ..)
  have hin : (u.wafer w).podIn = (s.wafer w).podIn.erase e :=
    (congrArg (fun v => (State.wafer v w).podIn) heq).trans (congrArg Wafer.podIn (State.wafer_setWafer s w _))
  split at hx
  · refine ⟨_, sh.podRefused e.pod, hx, ?_, ?_, hsh.podRefused e.pod⟩
    · rw [State.refusePod_podIn, hin]
    · rw [State.mfind_refusePod, hfound]
      rfl
  · exact ⟨_, sh, hx, congrArg (List.map (·.va)) hin, hfound, hsh⟩

end

end

theorem launchRing : Pieces.LaunchRing := by
  unfold Pieces.LaunchRing
  intro s w x
  refine ⟨fun v => ⟨exec_launchDoorbell_sets, exec_launchDoorbell_overruns⟩, fun hset hne hround => ⟨fun hbad hheld => ?_,
    fun hres hvalid hq slot h hp hh hrec => ?_⟩, fun e slot h hfind hp => ?_⟩
  · have hw := State.refuseEntry_refuses hheld 1 0
    refine ⟨_, refusedEv x.klqHead.toNat 1 0, exec_launchEntryTake_refuses hset hne hround hbad, ?_⟩
    rw [hw]
    exact ⟨rfl, rfl, rfl, rfl⟩
  · obtain ⟨hon, sh, pod, hfind, hsh⟩ := (s.takeEntry w).acceptHere_accepts (s.ringEntry w) slot (some h) true
    have hw : (s.takeEntry w).wafer w = { x with klqHead := x.klqHead + 1 } := State.wafer_setWafer ..
    refine ⟨_, sh, exec_launchEntryTake_accepts hset hne hround hres hvalid hq hp hh hrec,
      congrArg Wafer.klqHead (hon.wafer.trans hw), hfind, hsh.va, hsh.host, hsh.prio, hsh.tag, hsh.hdr⟩
  · intro asid hvalid hh hrec
    obtain ⟨t, sh, hx, hin, hfound, hsh⟩ := podSheafAccept_accepts hfind hp hvalid hh hrec
    exact ⟨t, sh, hx, hin, hfound, hsh.va, hsh.pod, hsh.master⟩

/-- Settles O44: launches from strands, and from the ring and other wafers. -/
theorem launches : Obligations.Launches := ⟨launchAccepts, launchRing⟩

end Sys2Proof.Machine

/-! R37, R78, R191 to R194, R278: how core kernels and residencies are placed, or reserve their place. -/

namespace Sys2Proof.Machine

/-! ## What a walk has read (R191, R278) -/

/-- The GS has read a sheaf's nodes, or refuses it. -/
def Sheaf.considered (sh : Sheaf) : Prop := sh.read = true ∨ sh.bad ≠ 0

theorem Sheaf.considered_podRefused {sh : Sheaf} (h : sh.considered) (p : Nat) : (sh.podRefused p).considered := by
  unfold Sheaf.podRefused
  split
  · exact .inr Nat.one_ne_zero
  · exact h

/-- Each sheaf of `t` that `s` has listed is considered where it was in `s`. -/
structure State.Considers (s t : State) : Prop where
  kept : ∀ k sh, mfind t.sheaves k = some sh → ∃ old, mfind s.sheaves k = some old ∧ (old.considered → sh.considered)

theorem State.Considers.refl (s : State) : s.Considers s := ⟨fun _ sh h => ⟨sh, h, id⟩⟩

theorem State.Considers.trans {s t u : State} (h : s.Considers t) (k : t.Considers u) : s.Considers u := by
  refine ⟨fun key sh hsh => ?_⟩
  obtain ⟨mid, hmid, hmid'⟩ := k.kept key sh hsh
  obtain ⟨old, hold, hold'⟩ := h.kept key mid hmid
  exact ⟨old, hold, hmid' ∘ hold'⟩

theorem considers_refusePod (s : State) (p : Nat) : s.Considers (s.refusePod p) := by
  refine ⟨fun k sh h => ?_⟩
  rw [State.mfind_refusePod, Option.map_eq_some_iff] at h
  obtain ⟨old, hold, rfl⟩ := h
  exact ⟨old, hold, fun hc => Sheaf.considered_podRefused hc p⟩

/-- A sheaf put back considered. -/
theorem considers_put {s : State} {key : Nat} {old sh : Sheaf} (h : mfind s.sheaves key = some old) (hc : sh.considered) :
    s.Considers { s with sheaves := mput s.sheaves key sh } := by
  refine ⟨fun k x hx => ?_⟩
  by_cases hk : k = key
  · subst hk
    obtain rfl := Option.some.inj ((mfind_mput_same ..).symm.trans hx)
    exact ⟨old, h, fun _ => hc⟩
  · exact ⟨x, (mfind_mput_ne _ _ _ _ hk).symm.trans hx, id⟩

/-- The GS considers a sheaf: it is considered then, and every other stays so. -/
theorem State.consider_considers (s : State) (key : Nat) :
    s.Considers (s.consider key) ∧ ∀ sh, mfind (s.consider key).sheaves key = some sh → sh.considered := by
  unfold State.consider
  split
  · next hnone => exact ⟨.refl s, fun sh h => nomatch hnone.symm.trans h⟩
  · next old hold =>
    extract_lets w slots
    split
    · next ns es _ =>
      refine ⟨considers_put hold (.inl rfl), fun sh h => ?_⟩
      obtain rfl := Option.some.inj ((mfind_mput_same ..).symm.trans h)
      exact .inl rfl
    · have hu : s.Considers { s with sheaves := mput s.sheaves key { old with read := true, bad := 1 } } := considers_put hold (.inl rfl)
      have hkey := mfind_mput_same s.sheaves key { old with read := true, bad := 1 }
      split
      · next p _ =>
        refine ⟨hu.trans (considers_refusePod _ p), fun sh h => ?_⟩
        rw [State.mfind_refusePod, hkey] at h
        obtain rfl := Option.some.inj h
        exact Sheaf.considered_podRefused (.inl rfl) p
      · refine ⟨hu, fun sh h => ?_⟩
        obtain rfl := Option.some.inj (hkey.symm.trans h)
        exact .inl rfl

/-- The sheaves of a list are considered one after another. -/
theorem considers_foldl (l : List Nat) (s : State) : s.Considers (l.foldl (fun s k => s.consider k) s) ∧
    ∀ k ∈ l, ∀ sh, mfind (l.foldl (fun s k => s.consider k) s).sheaves k = some sh → sh.considered := by
  induction l generalizing s with
  | nil => exact ⟨.refl s, nofun⟩
  | cons key r ih =>
    obtain ⟨hone, hkey⟩ := s.consider_considers key
    obtain ⟨hrest, hin⟩ := ih (s.consider key)
    refine ⟨hone.trans hrest, fun k hk sh hsh => ?_⟩
    rcases List.mem_cons.mp hk with rfl | hk
    · obtain ⟨old, hold, hc⟩ := hrest.kept k sh hsh
      exact hc (hkey old hold)
    · exact hin k hk sh hsh

/-- A walk of a partition that runs has considered every sheaf of it. -/
theorem State.walk_considers {s : State} {part k : Nat} {sh : Sheaf} (hr : s.partRuns part = true) (h : mfind (s.walk part).sheaves k = some sh)
    (hk : shPartKey k = part) : sh.considered := by
  unfold State.walk at h
  rw [hr] at h
  obtain ⟨hall, hin⟩ := considers_foldl ((s.sheaves.filter fun e => shPartKey e.1 == part && !e.2.read && e.2.bad == 0).map (·.1)) s
  obtain ⟨old, hold, hc⟩ := hall.kept k sh h
  by_cases hd : old.considered
  · exact hc hd
  · obtain ⟨hread, hbad⟩ := not_or.mp hd
    refine hin k (List.mem_map.mpr ⟨(k, old), List.mem_filter.mpr ⟨mfind_mem hold, ?_⟩, rfl⟩) sh h
    simp [hk, hread, not_not.mp hbad]

/-! ## Nodes that wait -/

section
variable {s : State} {r : NodeRef}

theorem State.sheaf_of_eligible (h : s.eligible r = true) : ∃ sh n, mfind s.sheaves r.sheaf = some sh ∧ mfind sh.nodes r.node = some n := by
  unfold State.eligible at h
  split at h
  · cases h
  · next sh hs =>
    cases hn : mfind sh.nodes r.node with
    | none => simp [hn] at h
    | some n => exact ⟨sh, n, hs, hn⟩

/-- A node that may be placed is among those that wait in its partition. -/
theorem State.mem_waiters (h : s.eligible r = true) : r ∈ s.waiters (shPartKey r.sheaf) := by
  obtain ⟨sh, n, hs, hn⟩ := State.sheaf_of_eligible h
  refine List.mem_flatMap.mpr ⟨(r.sheaf, sh), List.mem_filter.mpr ⟨mfind_mem hs, beq_self_eq_true _⟩, List.mem_filter.mpr ⟨?_, h⟩⟩
  exact List.mem_map.mpr ⟨(r.node, n), mfind_mem hn, rfl⟩

theorem State.turnOf_walk (h : s.turnOf r = true) : (s.wafer (shWafer r.sheaf)).round.isSome = false ∧ s.earlierFits r = false := by
  simp only [State.turnOf, Bool.and_eq_true, Bool.not_eq_true'] at h
  obtain ⟨⟨-, hround⟩, hearlier⟩ := h
  exact ⟨by rw [← Option.not_isNone, hround]; rfl, hearlier⟩

/-- A block of the pool is noted in its partition. -/
theorem partsOnly_poolTake {n al a : Nat} {u : State} (h : s.poolTake r n al = some (a, u)) : ∃ m, u = { s with parts := m } := by
  unfold State.poolTake at h
  split at h
  · cases h
  · dsimp only at h
    split at h
    · cases h
    · obtain ⟨-, rfl⟩ := Prod.mk.inj (Option.some.inj h)
      exact ⟨_, rfl⟩

theorem partsOnly_ringTake {n a : Nat} {u : State} (h : s.ringTake r n = some (a, u)) : ∃ m, u = { s with parts := m } := by
  unfold State.ringTake at h
  split at h
  · obtain ⟨-, rfl⟩ := Prod.mk.inj (Option.some.inj h)
    exact ⟨s.parts, rfl⟩
  · exact partsOnly_poolTake h

/-! ## Core kernels (R37, R78, R192, R193) -/

theorem partsOnly_kernelFit {o : Nat × Nat} {a : Nat} {u : State} (h : s.kernelFit r = some (o, a, u)) : ∃ m, u = { s with parts := m } := by
  unfold State.kernelFit at h
  split at h
  · next a' u' _ htake =>
    obtain ⟨-, he⟩ := Prod.mk.inj (Option.some.inj h)
    obtain ⟨-, rfl⟩ := Prod.mk.inj he
    exact partsOnly_poolTake htake
  · cases h

end

/-- A core is given a team. -/
def State.giveTeam (s : State) (t : Option Team) (n : Nat) : State := s.setCore n { s.core n with team := t }

theorem State.giveTeam_stays {s : State} {t : Option Team} {n : Nat} (h : (s.core n).team = t) (j : Nat) :
    ((s.giveTeam t j).core n).team = t := by
  by_cases hn : n = j
  · subst hn
    exact congrArg Core.team (State.core_setCore ..)
  · exact (congrArg Core.team (State.core_setCore_ne _ _ _ _ hn)).trans h

theorem foldl_giveTeam (t : Option Team) (l : List Nat) (s : State) {n : Nat} (h : n ∈ l ∨ (s.core n).team = t) :
    ((l.foldl (fun s n => s.giveTeam t n) s).core n).team = t := by
  induction l generalizing s with
  | nil => exact h.resolve_left List.not_mem_nil
  | cons j r ih =>
    refine ih _ ?_
    rcases h with h | h
    · rcases List.mem_cons.mp h with rfl | h
      · exact .inr (congrArg Core.team (State.core_setCore ..))
      · exact .inl h
    · exact .inr (State.giveTeam_stays h j)

/-- The cores of some quads are given their team one after another. -/
theorem State.setTeam_eq (s : State) (w : Nat) (quads : List Nat) (t : Option Team) :
    s.setTeam w quads t = (quads.flatMap fun qn => (List.range 4).map (mkName w qn)).foldl (fun s n => s.giveTeam t n) s := by
  rw [List.foldl_flatMap]
  simp only [List.foldl_map]
  rfl

theorem coresOnly_setTeam (s : State) (w : Nat) (quads : List Nat) (t : Option Team) : ∃ m, s.setTeam w quads t = { s with cores := m } := by
  rw [State.setTeam_eq]
  exact foldl_puts (fun s m => { s with cores := m }) (fun s => ⟨s.cores, rfl⟩) (fun _ _ _ => rfl) (fun _ _ => ⟨_, rfl⟩) _ s

/-- Each core of a team's quads has the team. -/
theorem State.setTeam_team (s : State) (w : Nat) (quads : List Nat) (t : Option Team) {qn c : Nat} (hq : qn ∈ quads) (hc : c < 4) :
    ((s.setTeam w quads t).core (mkName w qn c)).team = t := by
  rw [State.setTeam_eq]
  exact foldl_giveTeam t _ s (.inl (List.mem_flatMap.mpr ⟨qn, hq, List.mem_map_of_mem (List.mem_range.mpr hc)⟩))

/-- No tag of a team's quads is full (R78). -/
theorem State.emptyTags_empty {s : State} {w : Nat} {quads : List Nat} {b qn l : Nat} (hb : b ∈ (s.emptyTags w quads).qtags)
    (hh : homeOf b = .quad w qn l) : qn ∉ quads := by
  have hkeep := (List.mem_filter.mp hb).2
  rw [hh] at hkeep
  simpa using hkeep

theorem State.setTeam_sheaves (s : State) (w : Nat) (quads : List Nat) (t : Option Team) : (s.setTeam w quads t).sheaves = s.sheaves := by
  obtain ⟨m, hm⟩ := coresOnly_setTeam s w quads t
  rw [hm]

/-- A core kernel's node is placed at origin `o`, with its frame region at `a`. -/
def State.kernelPlaced (s : State) (r : NodeRef) (o : Nat × Nat) (a : Nat) : State :=
  let d := teamDims (s.nodeWords r)
  (s.placedOne r).modNode r fun n =>
    { n with st := .placed, place := .team o.1 o.2 d.1 d.2, frame := (a, frameBytes (s.nodeWords r)) }

/-- Its team's quads then take the team, their tags empty. -/
def State.teamPlaced (s : State) (r : NodeRef) (o : Nat × Nat) (a : Nat) : State :=
  let d := teamDims (s.nodeWords r)
  let quads := rectQuads o.1 o.2 d.1 d.2
  ((s.kernelPlaced r o a).setTeam (shWafer r.sheaf) quads (some ⟨r, o.1, o.2, d.1, d.2⟩)).emptyTags (shWafer r.sheaf) quads

theorem State.teamPlaced_sheaves (s : State) (r : NodeRef) (o : Nat × Nat) (a : Nat) :
    (s.teamPlaced r o a).sheaves = (s.kernelPlaced r o a).sheaves := State.setTeam_sheaves ..

/-- A placed node's reservation is over. -/
def State.unreserve (s : State) (r : NodeRef) : State :=
  let p := s.part (shPartKey r.sheaf)
  if p.reserved.any (·.1 == r) then s.setPart (shPartKey r.sheaf) { p with reserved := none } else s

theorem partsOnly_unreserve (s : State) (r : NodeRef) : ∃ m, s.unreserve r = { s with parts := m } := by
  unfold State.unreserve
  dsimp only
  split
  · exact ⟨_, rfl⟩
  · exact ⟨s.parts, rfl⟩

section
variable {s0 s u : State} {r : NodeRef} {o : Nat × Nat} {a : Nat}

theorem exec_nodePlace (hs : s0.walk (shPartKey r.sheaf) = s) (hk : s.isKernel r = true) (ht : s.turnOf r = true)
    (haged : (s.part (shPartKey r.sheaf)).reserved = none → s.aged (shPartKey r.sheaf) = []) (hfit : s.kernelFit r = some (o, a, u)) :
    exec (.nodePlace r.sheaf r.node) s0 = .next ((u.teamPlaced r o a).unreserve r) := by
  have hgo : ((s.part (shPartKey r.sheaf)).reserved.isNone && !(s.aged (shPartKey r.sheaf)).isEmpty) = false := by
    cases hres : (s.part (shPartKey r.sheaf)).reserved with
    | none => rw [haged hres]; rfl
    | some x => rfl
  simp only [exec, execNodePlace, hs, hk, ht, hgo, hfit, Bool.not_true, Bool.or_self, Bool.false_eq_true, if_false]
  rfl

/-- What the placing of a core kernel leaves, in the state in which its frame region is taken. -/
theorem State.teamPlaced_placed (hn : (s.node? r).isSome = true) (o : Nat × Nat) (a : Nat) :
    let d := teamDims (s.nodeWords r)
    (∃ n, (s.teamPlaced r o a).node? r = some n ∧ n.st = .placed ∧ n.place = .team o.1 o.2 d.1 d.2 ∧
      n.frame = (a, frameBytes (s.nodeWords r))) ∧
    (∀ qn ∈ rectQuads o.1 o.2 d.1 d.2, ∀ c, c < 4 →
      ((s.teamPlaced r o a).core (mkName (shWafer r.sheaf) qn c)).team = some ⟨r, o.1, o.2, d.1, d.2⟩) ∧
    ∀ b ∈ (s.teamPlaced r o a).qtags, ∀ qn l, homeOf b = .quad (shWafer r.sheaf) qn l → qn ∉ rectQuads o.1 o.2 d.1 d.2 := by
  intro d
  refine ⟨?_, fun qn hq c hc => State.setTeam_team _ _ _ _ hq hc, fun b hb qn l hh => State.emptyTags_empty hb hh⟩
  obtain ⟨m, hm⟩ := node?_modNode_kept hn (keepsNodes_placedOne s r)
    fun n => { n with st := .placed, place := .team o.1 o.2 d.1 d.2, frame := (a, frameBytes (s.nodeWords r)) }
  have hnode : (s.teamPlaced r o a).node? r = (s.kernelPlaced r o a).node? r := by
    rw [State.node?, State.node?, State.teamPlaced_sheaves]
  exact ⟨_, hnode.trans hm, rfl, rfl, rfl⟩

theorem exec_nodeReserve (hs : s0.walk (shPartKey r.sheaf) = s) (he : s.eligible r = true) (hk : s.isKernel r = true) (hage : 64 ≤ s.ageOf r)
    (hres : (s.part (shPartKey r.sheaf)).reserved = none) (hold : ∀ x ∈ s.aged (shPartKey r.sheaf), s.ageOf x ≤ s.ageOf r)
    (hrect : s.reserveRect r = some o) : exec (.nodeReserve r.sheaf r.node) s0 =
      .next (s.setPart (shPartKey r.sheaf) { s.part (shPartKey r.sheaf) with reserved := some (r, o.1, o.2) }) := by
  have hmem : r ∈ s.aged (shPartKey r.sheaf) := List.mem_filter.mpr ⟨State.mem_waiters he, by simp [hk, hage, hrect]⟩
  have hin : (s.aged (shPartKey r.sheaf)).contains r = true := List.contains_iff_mem.mpr hmem
  have hnone : (s.aged (shPartKey r.sheaf)).any (fun x => decide (s.ageOf x > s.ageOf r)) = false :=
    List.any_eq_false.mpr fun x hx => by simpa using hold x hx
  simp only [exec, execNodeReserve, hs, hres, hin, hnone, hrect, Option.isSome_none, Bool.not_true, Bool.or_self, Bool.false_eq_true, if_false]

/-! ## Residencies (R194) -/

/-- A residency that is placed stands on its region for its node, before its first configuration. -/
structure Resid.FreshFor (x : Resid) (r : NodeRef) (ws : List W64) : Prop where
  ref : x.ref = r
  list : x.list = nth ws 1 0
  st : x.st = .reach
  cc : x.cc = 0

theorem State.residPlace_fresh {ws : List W64} {stamp id : Nat} (h : s.residPlace r ws stamp = some (id, u)) :
    u.sheaves = s.sheaves ∧ ∃ x, mfind u.resids id = some x ∧ x.FreshFor r ws := by
  unfold State.residPlace at h
  dsimp only at h
  split at h
  · cases h
  · split at h
    · cases h
    · split at h
      · cases h
      · next s1 h1 =>
        split at h
        · cases h
        · next s2 h2 =>
          obtain ⟨rfl, rfl⟩ := Prod.mk.inj (Option.some.inj h)
          obtain ⟨m1, rfl⟩ := partsOnly_ringTake h1
          obtain ⟨m2, rfl⟩ := partsOnly_ringTake h2
          exact ⟨rfl, _, State.mfind_setResid .., rfl, rfl, rfl, rfl⟩

/-- A residency of a node stands on its region with the windows that its sheaf gives it. -/
def State.regionPlaced (s : State) (r : NodeRef) (sh : Sheaf) (id : Nat) : State :=
  ((s.placedOne r).modResid id fun x => { x with binds := sh.windows r.node }).modNode r fun n =>
    { n with st := .placed, place := .region id, field := ((mfind (s.placedOne r).resids id).map (·.field)).getD 0 }

theorem State.placedOne_resids (s : State) (r : NodeRef) : (s.placedOne r).resids = s.resids := by
  refine List.foldlRecOn (motive := fun t : State => t.resids = s.resids) _ _ rfl fun t ht x _ => ?_
  split
  · exact ht
  · rw [State.modNode_resids, ht]

theorem keepsNodes_modResid (s : State) (id : Nat) (f : Resid → Resid) : State.KeepsNodes s (s.modResid id f) := by
  refine .of_sheaves ?_
  unfold State.modResid
  split <;> rfl

theorem State.regionPlaced_placed (hn : (s.node? r).isSome = true) {ws : List W64} {id : Nat} {x : Resid}
    (hx : mfind s.resids id = some x) (hf : x.FreshFor r ws) (sh : Sheaf) :
    (∃ n, (s.regionPlaced r sh id).node? r = some n ∧ n.st = .placed ∧ n.place = .region id) ∧
    ∃ y, mfind (s.regionPlaced r sh id).resids id = some y ∧ y.FreshFor r ws := by
  refine ⟨?_, { x with binds := sh.windows r.node }, ?_, hf.ref, hf.list, hf.st, hf.cc⟩
  · obtain ⟨m, hm⟩ := node?_modNode_kept hn
      ((keepsNodes_placedOne s r).trans (keepsNodes_modResid _ id fun x => { x with binds := sh.windows r.node }))
      fun n => { n with st := .placed, place := .region id, field := ((mfind (s.placedOne r).resids id).map (·.field)).getD 0 }
    exact ⟨_, hm, rfl, rfl⟩
  · rw [State.regionPlaced, State.modNode_resids, State.modResid_listed ((congrArg (mfind · id) (s.placedOne_resids r)).trans hx)]
    exact State.mfind_setResid ..

theorem exec_residencyPlace (hs : s0.walk (shPartKey r.sheaf) = s) {sh : Sheaf} {n : Node} {id : Nat}
    (hsh : mfind s.sheaves r.sheaf = some sh) (hn : s.node? r = some n) (hstamp : n.stamp ≠ 0)
    (hkind : bits (nth (s.nodeWords r) 0 0) 63 60 = 1) (he : s.eligible r = true) (ht : s.turnOf r = true) (hfits : s.neverFits r = false)
    (hgraph : bits (nth n.words 3 0) 15 0 = 0 ∨ s.graphOf (shPartKey r.sheaf) (bits (nth n.words 3 0) 15 0) = none)
    (hplace : s.residPlace r n.words n.stamp = some (id, u)) :
    exec (.residencyPlace r.sheaf r.node) s0 = .next (u.regionPlaced r sh id) := by
  obtain ⟨hround, hearlier⟩ := State.turnOf_walk ht
  have hg : (decide (bits (nth n.words 3 0) 15 0 ≠ 0) && (s.graphOf (shPartKey r.sheaf) (bits (nth n.words 3 0) 15 0)).isSome) = false := by
    rcases hgraph with h | h
    · rw [h]; rfl
    · rw [h]; exact Bool.and_false _
  simp only [exec, execResidencyPlace, hs, hsh, hn, hkind, he, hround, hfits, hstamp, hearlier, hg, hplace, beq_self_eq_true, Bool.not_true,
    Bool.or_self, Bool.false_eq_true, if_false]
  rfl

end

/-- Settles O17: a walk considers the sheaves of its partition; then a core kernel is placed or reserves its rectangle, and a residency
is placed. -/
theorem nodesArePlaced : Obligations.NodesArePlaced := by
  unfold Obligations.NodesArePlaced
  intro s0 r part s
  refine ⟨fun k sh hr h hk => State.walk_considers hr h hk, fun he => ?_⟩
  intro w ws d
  obtain ⟨sh, m, hsh, hm⟩ := State.sheaf_of_eligible he
  have hnode : s.node? r = some m := by rw [State.node?, hsh]; exact hm
  have hsome : (s.node? r).isSome = true := by rw [hnode]; rfl
  refine ⟨fun o a u hk ht haged hfit => ?_, fun o hk hage hres hold hrect => exec_nodeReserve rfl he hk hage hres hold hrect,
    fun n id u hn hstamp hkind ht hfits hgraph hplace => ?_⟩
  · have hx := exec_nodePlace rfl hk ht haged hfit
    obtain ⟨parts, rfl⟩ := partsOnly_kernelFit hfit
    obtain ⟨parts', hp⟩ := partsOnly_unreserve (State.teamPlaced { s with parts := parts } r o a) r
    obtain ⟨⟨n, hn, hst, hpl, hframe⟩, hteam, htags⟩ := State.teamPlaced_placed (s := { s with parts := parts }) hsome o a
    rw [hp] at hx
    exact ⟨_, n, hx, hn, hst, hpl, hframe, hteam, htags⟩
  · obtain ⟨hsheaves, x, hx, hfresh⟩ := State.residPlace_fresh hplace
    have hu : (u.node? r).isSome = true := by rwa [State.node?, hsheaves]
    obtain ⟨⟨m', hm', hst, hpl⟩, y, hy, href, hlist, hyst, hcc⟩ := State.regionPlaced_placed hu hx hfresh sh
    exact ⟨_, m', y, exec_residencyPlace rfl hsh hn hstamp hkind he ht hfits hgraph hplace, hm', hst, hpl, hy, href, hlist, hyst, hcc⟩

end Sys2Proof.Machine

/-! R205, R310, R351, R352, R387, R389, R391, R406: what a trap saves and where it goes, and the misaligned traps of accesses. -/

namespace Sys2Proof.Machine

/-! ## The entry of a trap (R205) -/

theorem Core.handles_iff (c : Core) : c.handles = true ↔ c.tm = false ∧ c.ktvec ≠ 0 := by
  simp only [Core.handles, Bool.and_eq_true, Bool.not_eq_true', bne_iff_ne]

theorem trapEntry : Pieces.TrapEntry := by
  intro s cause v hcause
  dsimp only
  cases hh : s.me.handles with
  | true =>
    obtain ⟨htm, hvec⟩ := (Core.handles_iff _).mp hh
    exact ⟨_, State.trap_handles cause v hh, rfl, rfl, rfl, rfl, rfl, rfl, rfl,
      fun _ _ => ⟨rfl, Nat.mod_eq_of_lt hcause, rfl, rfl, rfl, rfl⟩,
      fun hdouble => absurd hdouble (not_or_intro (by simp [htm]) hvec)⟩
  | false =>
    have hnot : ¬(s.me.tm = false ∧ s.me.ktvec ≠ 0) := by rw [← Core.handles_iff, hh]; exact Bool.false_ne_true
    exact ⟨_, State.trap_double cause v hh, rfl, rfl, rfl, rfl, rfl, rfl, rfl,
      fun htm hvec => absurd ⟨htm, hvec⟩ hnot, fun _ => ⟨rfl, rfl, rfl, rfl, rfl, rfl⟩⟩

/-! ## Misaligned accesses -/

section
variable {s : State}

theorem State.aligned_off {va : W64} {size : Nat} (k : State) (hh : s.me.handles = true) (h : va.toNat % size ≠ 0) :
    s.aligned va size k = s.trapped causeMisaligned s.me.pc va :=
  (if_pos (bne_iff_ne.mpr h)).trans (State.trap_handles causeMisaligned va hh)

theorem Core.mustWait_of_ready {c : Core} {srcs : List (Reg × Bool)} {d : Reg} (h : c.ready (srcs.map (·.1)) d = true) :
    c.mustWait srcs d = false := by
  simp only [Core.ready, Bool.and_eq_true, List.all_map, List.all_eq_true, Bool.or_eq_true, Bool.not_eq_true'] at h
  obtain ⟨hsrcs, hdst⟩ := h
  have hnone : (srcs.any fun p => !c.isFull p.1) = false := by
    rw [List.any_eq_false]
    exact fun p hp => by simp [show c.isFull p.1 = true from hsrcs p hp]
  rcases hdst with hd | hd <;> simp [Core.mustWait, hnone, hd]

/-- An instruction whose registers can be read and written comes to the check of its address. -/
theorem State.issue_misaligned {srcs : List (Reg × Bool)} {d : Reg} {va : Core → W64} {size : Nat} (k : Core → State)
    (hready : s.me.ready (srcs.map (·.1)) d = true) (hh : s.me.handles = true) (h : (va s.me).toNat % size ≠ 0) :
    (s.issue srcs d fun c => s.aligned (va c) size (k c)) = s.trapped causeMisaligned s.me.pc (va s.me) :=
  (State.issue_ready _ hready).trans (State.aligned_off _ hh h)

/-- Each form of `amos` is the AMO of its operation. -/
theorem exec_amos {d a b : Reg} {wa wb wide : Bool} {sc : BitVec 3} {p : Instr × AmoOp} (hp : p ∈ amos d a b wa wb wide sc) :
    exec p.1 s = .next (s.amo p.2 p.1 d a b wa wb wide sc) ∧ p.1.wf = scopeOk sc := by
  simp only [amos, List.mem_cons, List.not_mem_nil, or_false] at hp
  rcases hp with rfl | rfl | rfl | rfl | rfl | rfl | rfl | rfl | rfl | rfl <;> exact ⟨rfl, rfl⟩

/-- An AMO whose registers can be read and written comes to the check of its address. -/
theorem State.amo_misaligned {op : AmoOp} {i : Instr} {d a b : Reg} {wa wb wide : Bool} {sc : BitVec 3} (hwf : i.wf = true)
    (hready : s.me.ready [a, b, d] d = true) (hh : s.me.handles = true) (h : (s.me.get a).toNat % (if wide then 8 else 4) ≠ 0) :
    s.amo op i d a b wa wb wide sc = s.trapped causeMisaligned s.me.pc (s.me.get a) := by
  have hfull : (s.me.isFull a = true ∧ s.me.isFull b = true) ∧ s.me.isFull d = true := by
    simp only [Core.ready, Bool.and_eq_true, List.all_cons, List.all_nil] at hready
    tauto
  have htrap : s.me.emptyTrap [(a, wa), (b, wb)] = none := Core.emptyTrap_of_full (by simp [hfull])
  have hwait : s.me.mustWait ([(a, wa), (b, wb)] ++ if op == .cas then [(d, false)] else []) d = false := by
    refine Core.mustWait_of_ready ?_
    split <;> simp [Core.ready, hfull]
  unfold State.amo
  simp only [hwf, htrap, hwait, Bool.not_true, Bool.false_eq_true, if_false]
  exact State.aligned_off _ hh h

end

theorem misalignedTraps : Pieces.MisalignedTraps := by
  intro s t a b wa wb ord wide sz sc sz2 imm hh
  dsimp only
  refine ⟨fun hready hwf h => ?_, fun hready h => ?_, fun hready hwf h => ?_, fun hready hwf h => ?_, fun hready h => ?_,
    fun hready h => ?_, fun hsc hready h p hp => ?_⟩
  · exact congrArg Host.Outcome.next
      ((if_neg (by simp [hwf])).trans (State.issue_misaligned (srcs := [(a, wa)]) (va := fun c => memAddr (c.get a) imm _) _ hready hh h))
  · exact congrArg Host.Outcome.next (State.issue_misaligned (srcs := [(a, wa)]) (va := fun c => memAddr (c.get a) imm 8) _ hready hh h)
  · exact congrArg Host.Outcome.next ((if_neg (by simp [hwf])).trans
      (State.issue_misaligned (srcs := [(a, wa), (t, wa)]) (va := fun c => memAddr (c.get a) imm _) _ hready hh h))
  · exact congrArg Host.Outcome.next ((if_neg (by simp [hwf])).trans
      (State.issue_misaligned (srcs := [(a, wa), (t, wa)]) (va := fun c => memAddr (c.get a) imm _) _ hready hh h))
  · exact congrArg Host.Outcome.next
      (State.issue_misaligned (srcs := [(a, wa), (t, wa)]) (va := fun c => memAddr (c.get a) imm 8) _ hready hh h)
  · exact congrArg Host.Outcome.next (State.issue_misaligned (srcs := [(a, false), (b, false)]) (va := fun c => c.get a) _ hready hh h)
  · obtain ⟨hexec, hwf⟩ := exec_amos (s := s) hp
    have hok : p.1.wf = true := hwf.trans (decide_eq_true hsc)
    exact hexec.trans (congrArg _ (State.amo_misaligned hok hready hh h))

/-- Settles O38: R205's two outcomes by whether the core has a handler to enter, and the check of the address that every access makes once its
registers can be read and written. -/
theorem trapsAndMisalignment : Obligations.TrapsAndMisalignment := ⟨trapEntry, misalignedTraps⟩

end Sys2Proof.Machine

/-! R211, R212, R406: what the statement about the end of a command leaves out of a command-format trap. -/

namespace Sys2Proof.Machine

/-! ## A mailbox whose word is listed once -/

theorem mem_of_shas {l : List Nat} {n : Nat} (h : shas l n = true) : n ∈ l := by
  induction l with
  | nil => cases h
  | cons a r ih =>
    simp only [shas] at h
    split at h
    · next ha => exact ha ▸ List.mem_cons_self
    · exact List.mem_cons_of_mem _ (ih h)

theorem shas_sdel_same {l : List Nat} (hl : l.Nodup) (n : Nat) : shas (sdel l n) n = false := by
  induction l with
  | nil => rfl
  | cons a r ih =>
    obtain ⟨ha, hr⟩ := List.nodup_cons.mp hl
    simp only [sdel]
    split
    · next han =>
      refine Bool.eq_false_iff.mpr fun h => ha ?_
      rw [han]
      exact mem_of_shas h
    · next han => rw [shas, if_neg han, ih hr]

/-- The address under which a byte is kept has the byte's place in its word (R81). -/
theorem canon_mod_eight (pa : Nat) : canon pa % 8 = pa % 8 := by
  unfold canon homeOf
  dsimp only
  split_ifs <;> dsimp only <;> omega

section
variable {s : State} {words : List Nat}

/-- A write that leaves none of its words poisoned stops no core. -/
theorem State.wakeOne_sound (h : ∀ pa, shas words (canon pa) = true → s.poisonAt pa = false) (n : Nat) :
    (s.wakeOne n words).wafers = s.wafers ∧ (s.wakeOne n words).poison = s.poison := by
  simp only [State.wakeOne]
  split
  · split
    · split
      · split
        · next hw =>
          rw [if_neg (by simp [h _ hw])]
          split <;> exact ⟨rfl, rfl⟩
        · exact ⟨rfl, rfl⟩
      · exact ⟨rfl, rfl⟩
    · exact ⟨rfl, rfl⟩
  · exact ⟨rfl, rfl⟩

theorem State.wake_sound (h : ∀ pa, shas words (canon pa) = true → s.poisonAt pa = false) : (s.wake words).wafers = s.wafers := by
  unfold State.wake
  generalize s.cores.map (·.1) = l
  induction l generalizing s with
  | nil => rfl
  | cons n r ih =>
    obtain ⟨hwafers, hpoison⟩ := State.wakeOne_sound h n
    refine (ih fun pa hpa => ?_).trans hwafers
    rw [State.poisonAt, hpoison]
    exact h pa hpa

end

section
variable {s : State}

/-- A clean write of a word takes away its only mark. -/
theorem State.putRun_clears {pa : Nat} (hp : s.poison.Nodup) (h8 : pa % 8 = 0) (v tag : Nat) (rel : Option Rel) (pa' : Nat)
    (hw : shas (wordKeys pa 8) (canon pa') = true) : (s.putRun pa (natRun 8 v false) tag rel).poisonAt pa' = false := by
  have hwords : runWords pa 8 = [pa / 8] := by
    have hone : (pa + 8 + 7) / 8 - pa / 8 = 1 := by omega
    rw [runWords, hone]
    exact congrArg (fun k => [k]) (Nat.zero_add _)
  have hback : pa / 8 * 8 = pa := by omega
  have hkey : canon pa' = canon pa := by
    have hmem := mem_of_shas hw
    rw [wordKeys, hwords, List.map_singleton, hback] at hmem
    exact List.mem_singleton.mp hmem
  have h8' : pa' / 8 * 8 = pa' := by
    have hmod := congrArg (· % 8) hkey
    simp only [canon_mod_eight] at hmod
    omega
  have hclear : wordPoison s.poison pa (natRun 8 v false) (pa / 8) = sdel s.poison (canon pa) := by
    have htake : (natRun 8 v false).take 8 = natRun 8 v false := List.take_of_length_le (by rw [natRun_length])
    simp only [wordPoison, hback, Nat.sub_self, List.drop_zero, max_self, Nat.add_sub_cancel_left, htake, natRun_sound, natRun_length,
      le_refl, and_self, if_true, Bool.false_eq_true, if_false]
  have hpoison : (s.putRun pa (natRun 8 v false) tag rel).poison = sdel s.poison (canon pa) := by
    rw [← hclear]
    exact congrArg (fun l => l.foldl (fun p k => wordPoison p pa (natRun 8 v false) k) s.poison) hwords
  rw [State.poisonAt, hpoison, h8', hkey]
  exact shas_sdel_same hp _

theorem State.writeWord_wafers {pa : Nat} (hp : s.poison.Nodup) (h8 : pa % 8 = 0) (v : Nat) {i : WInfo} (ht : i.trc = false)
    (rel : Option Rel) : (s.writeAs pa (natRun 8 v false) i rel).wafers = s.wafers := by
  have hspoil : ∀ (t : State) n, (t.spoil pa n).wafers = t.wafers := fun t n => by
    simp only [State.spoil]
    split <;> rfl
  have hwake := State.wake_sound (State.putRun_clears hp h8 v i.tag rel)
  have hland : s.writeAs pa (natRun 8 v false) i rel =
      ((s.putRun pa (natRun 8 v false) i.tag rel).wake (wordKeys pa 8)).spoil pa 8 := by
    have htrace : ∀ t : State, t.trace pa 8 i = t := fun t => if_neg (by simp [ht])
    exact congrArg (fun t : State => (t.wake (wordKeys pa 8)).spoil pa 8) (htrace _)
  rw [hland, hspoil, hwake]
  rfl

/-- Where no word is listed twice among the poisoned ones, a command-format trap raises its own event and no other. -/
theorem State.cmdTrap_raises (hp : s.poison.Nodup) (q : Nat) (c : QCmd) (st opnd : Nat) :
    ∃ v : Ev, ((s.cmdTrap q c st opnd).wafer (nWafer (qName q))).raised = (s.wafer (nWafer (qName q))).raised ++ [v] ∧
      v.kind = 5 ∧ v.ref = c.ref ∧ v.what = .queue q s.serial := by
  have hmail : ({ s with serial := s.serial + 1 }.mailbox q c st opnd).wafers = s.wafers :=
    State.writeWord_wafers (s := State.setQueue { s with serial := s.serial + 1 } _ _) hp
      (by simp only [engPa, quadPa]; omega) _ rfl _
  exact ⟨_, (congrArg Wafer.raised (State.wafer_setWafer ..)).trans
    (congrArg (fun ws : Map Wafer => (mget ws (nWafer (qName q)) resetWafer).raised ++ [_]) hmail), rfl, rfl, rfl⟩

end

/-! ## A mailbox whose word is listed twice -/

/-- Where the mailbox of the ERED `soloWords` lies (R212). -/
def soloMbox : Nat := engPa soloQ (8 * Cmd.mbox soloWords)

/-- A core of the same quad that waits in WAITF for the mailbox. -/
def mboxWatcher : Core :=
  { resetCore with hold := .access 0, port := [{ mkAccess .waitf (BitVec.ofNat 64 (localBase + 0x100)) 8 0 with
      pa := soloMbox, phase := .waiting 0 }] }

/-- The pod with the ERED at the head of its queue and the mailbox word listed twice among the poisoned words. No run lists a word twice
(`sput`), but the statement is about every state. -/
def markedTwice : State :=
  { State.reset with
    poison := [soloMbox, soloMbox]
    cores := [(1, mboxWatcher)]
    queues := [(soloQ, { resetEngQ with cmds := [soloCmd] })] }

theorem markedTwice_raised : ((markedTwice.cmdTrap soloQ soloCmd 1 0).wafer 0).raised.map (·.kind) = [4, 5] := by
  decide

/-- Refutes O21: a core that watches the mailbox stops where the word stays poisoned after the mailbox's write (R211, R406), and its fault is
posted before the trap's event. A write of the whole word takes its mark away, but only one of two; where none is listed twice, the trap
raises its own event alone (`State.cmdTrap_raises`). -/
theorem not_commandsAnswer : ¬ Obligations.CommandsAnswer := by
  unfold Obligations.CommandsAnswer
  intro h
  obtain ⟨-, ⟨-, -, v, hraised, -⟩, -⟩ := h markedTwice soloQ soloCmd 1 0
  have hkinds : [4, 5] = [v.kind] := markedTwice_raised.symm.trans (congrArg (List.map (·.kind)) hraised)
  exact absurd (congrArg List.length hkinds) (by simp)

end Sys2Proof.Machine

/-! R211, R214, R406: what the statement about the supervisor's events leaves out of a pre-emption. -/

namespace Sys2Proof.Machine

/-! ## Writes while no core has an access under way -/

section
variable {s : State} (hports : ∀ n, (s.core n).port = [])
include hports

theorem State.wakeOne_noAccess (n : Nat) (words : List Nat) : s.wakeOne n words = s := by
  unfold State.wakeOne
  dsimp only
  split
  · rw [hports]
    rfl
  · rfl

theorem State.wake_noAccess (words : List Nat) : s.wake words = s :=
  List.foldl_fixed' (fun n => State.wakeOne_noAccess hports n words) _

theorem State.settle_noAccess (words : List Nat) : s.settle words = s :=
  State.settle_waiting (fun n id a h => by simp [Core.find, hports n] at h) words

/-- With no residency either, whose spilled tokens it might spoil, a write that is not traced places its bytes and does nothing else. -/
theorem State.write_noAccess (hresids : s.resids = []) (pa : Nat) (bs : List (Byte × Bool)) {i : WInfo} (ht : i.trc = false) :
    s.write pa bs i = s.putRun pa bs i.tag none := by
  have hput : ∀ n, ((s.putRun pa bs i.tag none).core n).port = [] := hports
  have hnone : (s.putRun pa bs i.tag none).resids = [] := hresids
  have hland : s.land pa bs i none = s.putRun pa bs i.tag none := by
    simp only [State.land, State.trace, ht, Bool.false_and, Bool.false_eq_true, if_false, State.wake_noAccess hput, State.spoil, hnone,
      List.any_nil]
  rw [State.write, State.writeAs, State.settle_noAccess hports, ite_self, hland]

theorem State.evictQuad_noAccess (hresids : s.resids = []) (w q : Nat) : ∃ pa bs, s.evictQuad w q = s.putRun pa bs 0 none :=
  ⟨_, _, State.write_noAccess hports hresids _ _ rfl⟩

/-- The eviction of quads then leaves all but memory. -/
theorem State.evictQuads_noAccess (hresids : s.resids = []) (w : Nat) (qs : List Nat) :
    let t := qs.foldl (fun s q => s.evictQuad w q) s
    t.wafers = s.wafers ∧ t.quads = s.quads ∧ t.fields = s.fields ∧ t.parts = s.parts := by
  induction qs generalizing s with
  | nil => exact ⟨rfl, rfl, rfl, rfl⟩
  | cons q r ih =>
    obtain ⟨pa, bs, hq⟩ := State.evictQuad_noAccess hports hresids w q
    rw [List.foldl_cons, hq]
    exact ih (s := s.putRun pa bs 0 none) hports hresids

end

/-- A core that stops keeps its port. -/
theorem State.stopCore_port (s : State) (n : Nat) (o : Owner) (va : W64) (ty acc m : Nat) :
    ((s.stopCore n o va ty acc).core m).port = (s.core m).port := by
  by_cases hm : m = n
  · rw [hm, State.stopCore, State.core_setCore]
    rfl
  · rw [State.stopCore, State.core_setCore_ne _ _ _ _ hm]
    rfl

/-! ## A partition that is saved (R214) -/

section
variable {s : State} {w k : Nat}

/-- The event of a saved partition follows whatever its eviction has raised, where no queue holds a record. -/
theorem State.swapOut_raised {t : State} (ht : (if (s.wafer w).areaSet then s.partQuads k else []).foldl (fun s q => s.evictQuad w q) s = t)
    (hquads : t.quads = []) (hfields : t.fields = []) (hkill : (t.part k).killAfter = []) :
    ((s.swapOut w k).wafer w).raised.map (·.kind) = (t.wafer w).raised.map (·.kind) ++ [8] := by
  have hspill : t.spillPart k = t := by
    simp only [State.spillPart, hquads, hfields, List.foldl_nil]
  simp only [State.swapOut, ht, hspill, hkill, List.foldl_nil]
  rw [State.raiseEv, State.wafer_setWafer, List.map_append]
  rfl

/-- What PREEMPT_QUIESCE raises of a partition at rest on no core. -/
theorem preemptQuiesce_raised {part : Nat} {t : State} (h : exec (.preemptQuiesce w part) s = .next t)
    (hst : (s.part (w * 64 + part)).st = .gating) (hround : (s.wafer w).round = none) (hcores : s.partCores (w * 64 + part) = [])
    (hquiet : s.quiescent (w * 64 + part) = true) : (t.wafer w).raised = ((s.swapOut w (w * 64 + part)).wafer w).raised := by
  simp only [exec, execPreemptQuiesce, hst, hround, hcores, hquiet, List.foldl_nil, bne_self_eq_false, Option.isSome_none, Bool.or_self,
    Bool.not_true, Bool.false_eq_true, if_false] at h
  obtain rfl := Host.Outcome.next.inj h
  split
  · split
    · exact State.svcPop_raised ..
    · rfl
  · rfl

end

/-! ## The eviction area -/

/-- The first byte of controller 0's direct window, where the eviction area lies below. -/
def areaPa : Nat := 0x100000000000

/-- A byte of the window is kept under its own address (R81). -/
theorem canon_area {o : Nat} (h : o < 0xC00000000) : canon (areaPa + o) = areaPa + o := by
  have hw : (areaPa + o) % 2 ^ 48 = areaPa + o := by
    simp only [areaPa]
    omega
  have hoff : areaPa + o - 0x100000000000 = o := by
    simp only [areaPa]
    omega
  unfold canon homeOf
  dsimp only
  rw [hw, hoff, if_neg (by simp only [areaPa]; omega), if_pos (by simp only [areaPa]; omega), if_pos (by omega)]
  simp only [areaPa]
  omega

/-- The words that a write of the area from its first byte on touches. -/
theorem mem_runWords_area {n j : Nat} (h : j ∈ runWords areaPa n) : ∃ o < n, j * 8 = areaPa + o := by
  obtain ⟨k, hk, rfl⟩ := List.mem_map.mp h
  have hlt := List.mem_range.mp hk
  simp only [areaPa] at hlt ⊢
  exact ⟨8 * k, by omega, by omega⟩

section
variable {n : Nat} (hn : 0 < n)
include hn

theorem areaWord_mem : areaPa / 8 ∈ runWords areaPa n :=
  List.mem_map.mpr ⟨0, List.mem_range.mpr (by simp only [areaPa]; omega), Nat.zero_add _⟩

theorem areaWord_watched : shas (wordKeys areaPa n) (canon areaPa) = true :=
  shas_of_mem (List.mem_map.mpr ⟨_, areaWord_mem hn, rfl⟩)

end

/-- A poisoned first byte poisons the first word of the area. -/
theorem State.putRun_poisons_area (s : State) {b : Byte} {r : List (Byte × Bool)} (hlen : r.length + 1 ≤ 0xC00000000) (tag : Nat)
    (rel : Option Rel) : (s.putRun areaPa ((b, true) :: r) tag rel).poisonAt areaPa = true := by
  have haligned : areaPa / 8 * 8 = areaPa := by decide
  have hpos : 0 < ((b, true) :: r).length := Nat.succ_pos _
  have honly : ∀ j ∈ runWords areaPa ((b, true) :: r).length, canon (j * 8) = canon (areaPa / 8 * 8) → j = areaPa / 8 := by
    intro j hj hc
    obtain ⟨o, ho, hjo⟩ := mem_runWords_area hj
    have hfirst : canon (areaPa / 8 * 8) = areaPa := canon_area (o := 0) (by decide)
    rw [List.length_cons] at ho
    rw [hfirst, hjo, canon_area (by omega)] at hc
    omega
  have hp := State.putRun_poisons s tag rel (areaWord_mem hpos) rfl honly
  rwa [haligned] at hp

/-! ## A poisoned word of an evicted quad -/

/-- A core of field 1 that runs a strand of partition 1 and waits in WAITF for the first word of the eviction area. -/
def areaWatcher : Core :=
  { resetCore with
    strand := some ⟨0, 0, ⟨64, 0⟩⟩
    hold := .access 0
    port := [{ mkAccess .waitf 0x40000000 8 0 with pa := areaPa, phase := .waiting 0 }] }

/-- The pod with partition 0, of field 0, gating and at rest, its eviction area in controller 0's memory; the first word of quad 0's local
store has met an uncorrectable error. -/
def poisonedQuad : State :=
  { State.reset with
    poison := [quadPa 0 0 0]
    cores := [(32, areaWatcher)]
    wafers := [(0, { resetWafer with ksva := 0x100000000000 })]
    sheaves := [(0, { oddSheaf with hdr := [], fmap := 1 })]
    parts := [(0, { resetPart with st := .gating })] }

/-- The store of that quad as it is evicted. -/
def evictedStore : List (Byte × Bool) := poisonedQuad.readRun (quadPa 0 0 0) 0x40000 ++ poisonedQuad.tagBytes (quadPa 0 0 0)

/-- Its first byte is poisoned. -/
theorem evictedStore_head : ∃ b r, evictedStore = (b, true) :: r ∧ r.length + 1 ≤ 0xC00000000 := by
  have hp : poisonedQuad.poisonAt (quadPa 0 0 0) = true := by decide
  have hn : (0x40000 : Nat) = 0x3FFFF + 1 := rfl
  refine ⟨poisonedQuad.byteAt (quadPa 0 0 0),
    poisonedQuad.readRun (quadPa 0 0 0 + 1) 0x3FFFF ++ poisonedQuad.tagBytes (quadPa 0 0 0), ?_, ?_⟩
  · rw [evictedStore, hn, State.readRun, hp, List.cons_append]
  · rw [List.length_append, State.readRun_length, State.tagBytes, List.length_map, List.length_range]
    decide

theorem poisonedQuad_waits (n id : Nat) (a : Access) (h : (poisonedQuad.core n).find id = some a) : a.phase ≠ .issued := by
  have hc : poisonedQuad.core n = if 32 = n then areaWatcher else resetCore := rfl
  rw [hc] at h
  split at h
  · obtain rfl := List.mem_singleton.mp (List.mem_of_find?_eq_some h)
    exact nofun
  · cases h

/-- The pod once that store lies in the eviction area. -/
def storeEvicted : State := poisonedQuad.putRun areaPa evictedStore 0 none

/-- The eviction of the quad stops the core that watches the area. -/
theorem poisonedQuad_evict : poisonedQuad.evictQuad 0 0 =
    (storeEvicted.setCore 32 (areaWatcher.withdraw 0)).stopCore 32 (.port 32) 0x40000000 3 0 := by
  obtain ⟨b, r, hstore, hlen⟩ := evictedStore_head
  have hany : evictedStore.any (·.2) = true := by
    rw [hstore]
    rfl
  have hpoison : storeEvicted.poisonAt areaPa = true := by
    rw [storeEvicted, hstore]
    exact State.putRun_poisons_area _ hlen ..
  have hwatched : shas (wordKeys areaPa evictedStore.length) (canon areaPa) = true := by
    rw [hstore]
    exact areaWord_watched (Nat.succ_pos _)
  have hwake := (State.wake_single (s := storeEvicted) (n := 32) (c := areaWatcher) rfl _).trans
    (State.wakeOne_faults (id := 0) (k := 0) rfl rfl rfl rfl hwatched hpoison rfl)
  have hevict : poisonedQuad.evictQuad 0 0 = poisonedQuad.write areaPa evictedStore ⟨3, 7, 0, false, 0⟩ := rfl
  rw [hevict, State.write, State.writeAs, if_pos hany, State.settle_waiting poisonedQuad_waits]
  have hland : poisonedQuad.land areaPa evictedStore ⟨3, 7, 0, false, 0⟩ none =
    (storeEvicted.wake (wordKeys areaPa evictedStore.length)).spoil areaPa evictedStore.length := rfl
  rw [hland, hwake]
  rfl

/-- The stopped core's access was the only one of the pod. -/
theorem poisonedQuad_evict_ports (n : Nat) : ((poisonedQuad.evictQuad 0 0).core n).port = [] := by
  rw [poisonedQuad_evict, State.stopCore_port]
  by_cases hn : n = 32
  · rw [hn, State.core_setCore]
    rfl
  · have hc : storeEvicted.core n = if 32 = n then areaWatcher else resetCore := rfl
    rw [State.core_setCore_ne _ _ _ _ hn, hc, if_neg (Ne.symm hn)]
    rfl

theorem poisonedQuad_quadMine : poisonedQuad.quadMine 0 1 0 = true := by decide

/-- The quads of field 0 begin with quad 0. -/
theorem poisonedQuad_quads : ∃ qs, poisonedQuad.partQuads 0 = 0 :: qs := by
  have hrange : List.range (72 * 88) = 0 :: (List.range (72 * 88 - 1)).map Nat.succ := List.range_succ_eq_map
  have hmask : poisonedQuad.partMask 0 = 1 := rfl
  rw [State.partQuads, hmask, hrange, List.filter_cons_of_pos poisonedQuad_quadMine]
  exact ⟨_, rfl⟩

/-- What the eviction of quad 0 raises stands before the event of the saved partition. -/
theorem poisonedQuad_swapOut : ((poisonedQuad.swapOut 0 0).wafer 0).raised.map (·.kind) = [4, 8] := by
  obtain ⟨qs, hqs⟩ := poisonedQuad_quads
  have harea : (poisonedQuad.wafer 0).areaSet = true := by decide
  have hresids : (poisonedQuad.evictQuad 0 0).resids = [] := by
    rw [poisonedQuad_evict]
    rfl
  obtain ⟨hwafers, hquads, hfields, hparts⟩ := State.evictQuads_noAccess poisonedQuad_evict_ports hresids 0 qs
  have hraised : ((poisonedQuad.evictQuad 0 0).wafer 0).raised.map (·.kind) = [4] := by
    rw [poisonedQuad_evict]
    exact State.stopCore_raised ..
  have hkill : ((poisonedQuad.evictQuad 0 0).part 0).killAfter = [] := by
    rw [poisonedQuad_evict]
    rfl
  rw [State.swapOut_raised (t := qs.foldl (fun s q => s.evictQuad 0 q) (poisonedQuad.evictQuad 0 0))
    (by rw [if_pos harea, hqs, List.foldl_cons])]
  · rw [State.wafer, hwafers]
    exact congrArg (· ++ [8]) hraised
  · rw [hquads, poisonedQuad_evict]
    rfl
  · rw [hfields, poisonedQuad_evict]
    rfl
  · rw [State.part, hparts]
    exact hkill

/-- Refutes O29: where a quad of the partition holds a poisoned word, its eviction writes that poison into the eviction area (R211, R215), and a
core that watches the word there stops (R406): its fault is posted, and then the event of the saved partition. -/
theorem not_supervisorEvents : ¬ Obligations.SupervisorEvents := by
  unfold Obligations.SupervisorEvents
  intro h
  obtain ⟨-, hpreempt, -⟩ := h poisonedQuad 0
  obtain ⟨-, hquiet⟩ := hpreempt 0 (by decide) (by decide)
  obtain ⟨t, e, ht, -, hraised, -⟩ := hquiet (by decide) (by decide)
  have hsaved := preemptQuiesce_raised ht (by decide) (by decide) rfl (by decide)
  have hkinds : [4, 8] = [e.kind] := by
    rw [← poisonedQuad_swapOut, ← hsaved, hraised]
    rfl
  exact absurd (congrArg List.length hkinds) (by simp)

end Sys2Proof.Machine

/-! R219, R233 to R235: where the events of Fareno links complete. -/

namespace Sys2Proof.Machine

theorem wafers_foldl_queued (load : Nat → Nat) (l : List Nat) (s : State) :
    (l.foldl (fun s k => s.setLink k { s.link k with qd := load k }) s).wafers = s.wafers := by
  induction l generalizing s with
  | nil => rfl
  | cons k r ih => exact ih (s.setLink k { s.link k with qd := load k })

/-- The survey of a bank notes its instant. -/
theorem State.surveyed_steered (s : State) (v bank : Nat) : mget ((s.surveyed v bank).wafer v).steered bank 0 = s.devTime v := by
  have hw : (s.surveyed v bank).wafer v =
      (s.setWafer v { s.wafer v with steered := mput (s.wafer v).steered bank (s.devTime v) }).wafer v :=
    congrArg (mget · v resetWafer) (wafers_foldl_queued ..)
  rw [hw, State.wafer_setWafer]
  exact mget_mput_same ..

theorem State.moveWl_wafer (s : State) (g r : Nat) : (s.moveWl g r).wafer = s.wafer := rfl

/-- WAVELENGTH_STEER surveys its bank, and moves one wavelength or none (R234). -/
theorem exec_wavelengthSteer_cases {s : State} {v bank : Nat} (hb : bank < 12)
    (ht : mget (s.wafer v).steered bank 0 + 10000 ≤ s.devTime v) : ∃ t, exec (.wavelengthSteer v bank) s = .next t ∧
      (t = s.surveyed v bank ∨ ∃ g r, t = (s.surveyed v bank).moveWl g r) := by
  refine ⟨_, exec_wavelengthSteer hb ht, ?_⟩
  dsimp only
  split
  · split
    · exact .inl rfl
    · exact .inr ⟨_, _, rfl⟩
  · exact .inl rfl

/-- Settles O36: each event completes with the effect that the statement about links gives it. -/
theorem linkFormsComplete : Obligations.LinkFormsComplete := by
  unfold Obligations.LinkFormsComplete
  intro s k l
  refine ⟨fun hup hf => ?receive, fun hup ha => ⟨_, exec_flitReplay hup ha, rfl⟩,
    fun hup hb => ⟨_, exec_linkDown hup (.inl hb), State.link_setLink ..⟩, exec_linkUp, exec_keyRolloverRequest,
    fun hh => ⟨_, exec_keyRollover hh, rfl, rfl, rfl⟩, fun n => exec_keySlotFree, fun v bank hb ht => ?steer⟩
  case receive =>
    by_cases hg : s.flitGood k
    · obtain ⟨hfails, -, hcred, hrx, -, -⟩ := l.receive_cases (s.flitNo k) s.flit
      exact ⟨_, exec_flitReceive_good hup hf hg, fun _ => ⟨hfails, hcred, hrx⟩, fun hbad => absurd hg hbad⟩
    · exact ⟨_, exec_flitReceive_bad hup hf hg, fun hgood => absurd hgood hg, fun _ => ⟨rfl, rfl⟩⟩
  case steer =>
    obtain ⟨t, hx, rfl | ⟨g, r, rfl⟩⟩ := exec_wavelengthSteer_cases hb ht
    · exact ⟨_, hx, State.surveyed_mem .., State.surveyed_steered ..⟩
    · refine ⟨_, hx, (State.moveWl_mem ..).trans (State.surveyed_mem ..), ?_⟩
      rw [State.moveWl_wafer]
      exact State.surveyed_steered ..

end Sys2Proof.Machine

/-! R224, R225, R228, R229: clock hops, device time, hot fields, and nodes that migrate. -/

namespace Sys2Proof.Machine

/-! ## Hops (R224) -/

section
variable {s : State} {k : Nat}

/-- What the start of a hop changes of its field. -/
theorem State.field_startHop (s : State) (k : Nat) : ∃ b h, (s.startHop k).field k = { s.field k with busy := b, hopFrom := h } := by
  unfold State.startHop
  dsimp only
  split
  · exact ⟨_, _, State.field_setField ..⟩
  · split <;> exact ⟨_, _, State.field_setField ..⟩

/-- A field that runs as it was asked to starts no hop. -/
theorem State.field_startHop_reached (hw : (s.field k).want = (s.field k).cur) (hh : (s.field k).hopFrom = none) :
    (s.startHop k).field k = { s.field k with busy := false } := by
  have hrest : (decide ((s.field k).want = (s.field k).cur) && (s.field k).hopFrom.isNone) = true := by simp [hw, hh]
  rw [State.startHop, if_pos hrest]
  exact State.field_setField ..

theorem State.field_rebase (s t : State) (k : Nat) : ∃ b d, (s.rebase t k).field k = { t.field k with cycBase := b, timeBase := d } :=
  ⟨_, _, State.field_setField ..⟩

/-- The state once a field has switched to the synthesiser that it has prepared for code `c`. -/
def State.hopped (s : State) (k c : Nat) : State :=
  s.rebase (s.setField k { s.field k with cur := BitVec.ofNat 2 c, src := !(s.field k).src, hopFrom := none }) k

theorem State.field_hopped (s : State) (k c : Nat) : ∃ b d, (s.hopped k c).field k = { s.field k with
    cur := BitVec.ofNat 2 c, src := !(s.field k).src, hopFrom := none, cycBase := b, timeBase := d } := by
  obtain ⟨b, d, hf⟩ := State.field_rebase s (s.setField k { s.field k with
    cur := BitVec.ofNat 2 c, src := !(s.field k).src, hopFrom := none }) k
  rw [State.field_setField] at hf
  exact ⟨b, d, hf⟩

theorem exec_hopComplete {c : Nat} (hh : (s.field k).hopFrom = some c) (hr : (s.field k).retryAt = none) :
    exec (.hopComplete k) s = .next ((s.hopped k c).startHop k) := by
  have hrun : ¬(s.field k).retryAt.isSome = true := by simp [hr]
  simp only [exec, execHopComplete, hh]
  rw [if_neg hrun]
  rfl

theorem exec_hopAbandon (hh : (s.field k).hopFrom.isSome = true) (hr : (s.field k).retryAt.isSome = true) :
    exec (.hopAbandon k) s = .next (s.setField k { s.field k with hopFrom := none, abt := (s.field k).abt + 1 }) :=
  congrArg Host.Outcome.next (if_neg (by simp [Option.isSome_iff_ne_none.mp hh, Option.isSome_iff_ne_none.mp hr]))

theorem exec_hopRetry {t0 : Nat} (hr : (s.field k).retryAt = some t0) (hh : (s.field k).hopFrom = none) (hd : (s.field k).drp = false)
    (ht : t0 ≤ s.time) : exec (.hopRetry k) s = .next (s.setField k { s.field k with
      retryAt := none, busy := (s.field k).want != (s.field k).cur
      hopFrom := if (s.field k).want = (s.field k).cur then none else some (s.field k).want.toNat }) := by
  have hwait : ¬((s.field k).hopFrom.isSome || (s.field k).drp || decide (s.time < t0)) = true := by simp [hh, hd, ht]
  simp only [exec, execHopRetry, hr]
  rw [if_neg hwait]

/-- A hop ends on the other synthesiser; with no newer code asked for, the field is then at rest. -/
theorem hopCompletes {c : Nat} (hh : (s.field k).hopFrom = some c) (hr : (s.field k).retryAt = none) : ∃ t : State,
    exec (.hopComplete k) s = .next t ∧ (t.field k).cur = BitVec.ofNat 2 c ∧ (t.field k).src = !(s.field k).src ∧ t.mem = s.mem ∧
      ((s.field k).want = BitVec.ofNat 2 c → (t.field k).hopFrom = none ∧ (t.field k).busy = false) := by
  obtain ⟨b, d, hhop⟩ := s.field_hopped k c
  obtain ⟨b', h, hstart⟩ := (s.hopped k c).field_startHop k
  obtain ⟨m, hm⟩ := fieldsOnly_startHop (s.hopped k c) k
  refine ⟨_, exec_hopComplete hh hr, ?_, ?_, by rw [hm]; rfl, fun hw => ?_⟩
  · rw [hstart, hhop]
  · rw [hstart, hhop]
  · have hreached := State.field_startHop_reached (s := s.hopped k c) (k := k) (by rw [hhop]; exact hw) (by rw [hhop])
    rw [hreached, hhop]
    exact ⟨rfl, rfl⟩

/-- A hop tried again goes to the code that is asked for now. -/
theorem hopRetries {t0 : Nat} (hr : (s.field k).retryAt = some t0) (hh : (s.field k).hopFrom = none) (hd : (s.field k).drp = false)
    (ht : t0 ≤ s.time) : ∃ t : State, exec (.hopRetry k) s = .next t ∧ (t.field k).retryAt = none ∧
      ((s.field k).want ≠ (s.field k).cur → (t.field k).hopFrom = some (s.field k).want.toNat ∧ (t.field k).busy = true) := by
  refine ⟨_, exec_hopRetry hr hh hd ht, ?_⟩
  rw [State.field_setField]
  exact ⟨rfl, fun hw => ⟨if_neg hw, bne_iff_ne.mpr hw⟩⟩

/-! ## Device time and hot fields (R225, R228) -/

theorem exec_timeFlit {w : Nat} (hw : w ≠ 0) :
    exec (.timeFlit w) s = .next (s.setWafer w { s.wafer w with skew := (Config.unspecified s.tick).toNat % 3 }) :=
  congrArg Host.Outcome.next (if_neg hw)

/-- A field at its threshold becomes hot, the last one of its wafer too. -/
theorem fieldGetsHot (hf : (s.field k).hot = false) (ht : (s.wafer (k / 128)).khot.toNat ≤ (Config.temperature k s.tick).toNat) :
    ∃ t : State, exec (.fieldHot k) s = .next t ∧ t.field k = { s.field k with hot := true } ∧ t.mem = s.mem := by
  have hat : ¬((s.field k).hot || decide ((Config.temperature k s.tick).toNat < (s.wafer (k / 128)).khot.toNat)) = true := by
    simp [hf, ht]
  refine ⟨_, congrArg Host.Outcome.next (if_neg hat), ?_⟩
  dsimp only
  split
  · exact ⟨State.field_setField .., rfl⟩
  · exact ⟨State.field_setField .., rfl⟩

end

/-! ## No step of a team's move loses a node (R229) -/

section
variable (s : State)

theorem keepsNodes_land (pa : Nat) (bs : List (Byte × Bool)) (i : WInfo) (rel : Option Rel) : State.KeepsNodes s (s.land pa bs i rel) :=
  .of_sheaves (same_land ..).sheaves

theorem keepsNodes_performSt (n kind : Nat) (a : Access) : State.KeepsNodes s (s.performSt n kind a) :=
  (keepsNodes_setCore ..).trans (keepsNodes_land ..)

theorem keepsNodes_amoAt (n : Nat) (op : AmoOp) (a : Access) : State.KeepsNodes s (s.amoAt n op a) := by
  unfold State.amoAt
  dsimp only
  split
  · exact keepsNodes_setCore ..
  · exact (keepsNodes_setCore ..).trans (keepsNodes_land ..)

theorem keepsNodes_fillWord (pa : Nat) : State.KeepsNodes s (s.fillWord pa) := by
  unfold State.fillWord
  dsimp only
  split <;> exact .of_sheaves rfl

theorem keepsNodes_settleOne (n id : Nat) : State.KeepsNodes s (s.settleOne n id) := by
  have same := State.KeepsNodes.refl s
  unfold State.settleOne
  split
  case h_1 => exact same
  split
  case isFalse => exact same
  split
  · split
    · exact same
    · exact keepsNodes_setCore ..
  · split
    · exact same
    · exact keepsNodes_amoAt ..
  · exact keepsNodes_performSt ..
  · exact keepsNodes_performSt ..
  · exact (keepsNodes_performSt ..).trans (keepsNodes_fillWord ..)
  · exact same

theorem keepsNodes_settle (words : List Nat) : State.KeepsNodes s (s.settle words) :=
  keepsNodes_foldl _ (fun _ _ => keepsNodes_foldl _ (fun _ _ => keepsNodes_settleOne ..) _ _) _ _

theorem keepsNodes_write (pa : Nat) (bs : List (Byte × Bool)) (i : WInfo) : State.KeepsNodes s (s.write pa bs i) := by
  unfold State.write State.writeAs
  split
  · exact (keepsNodes_settle ..).trans (keepsNodes_land ..)
  · exact keepsNodes_land ..

theorem keepsNodes_moveTags (t : State) (a b : Nat) : State.KeepsNodes t (s.moveTags t a b) := .of_sheaves rfl

theorem keepsNodes_moveCore (n n' : Nat) (t : Team) : State.KeepsNodes s (s.moveCore n n' t) := .of_sheaves rfl

theorem keepsNodes_moveQuad (k k' : Nat) (ren : Nat → Nat) : State.KeepsNodes s (s.moveQuad k k' ren) := .of_sheaves rfl

theorem keepsNodes_moveStore (w src dst : Nat) : State.KeepsNodes s (s.moveStore w src dst) :=
  ((keepsNodes_write ..).trans (keepsNodes_write ..)).trans (keepsNodes_moveTags ..)

theorem keepsNodes_moveTeam (r : NodeRef) (t : Team) (f x y : Nat) : State.KeepsNodes s (s.moveTeam r t f x y) := by
  unfold State.moveTeam
  extract_lets w ren cores key qn s1 s2
  have hcores : State.KeepsNodes s s1 := keepsNodes_foldl _ (fun _ _ => keepsNodes_moveCore ..) _ _
  have hquads : State.KeepsNodes s1 s2 := keepsNodes_foldl _ (fun _ _ => (keepsNodes_moveStore ..).trans (keepsNodes_moveQuad ..)) _ _
  exact (hcores.trans hquads).trans (.of_sheaves rfl)

end

/-! ## Migration (R228, R229) -/

section
variable {s : State} {r : NodeRef} {n : Node}

/-- A team on a hot field moves to the coolest field with room for its rectangle. -/
theorem exec_nodeMigrate_team {a b tw th g : Nat} {o : Nat × Nat} (hn : s.node? r = some n) (hm : s.mayMigrate r n = true)
    (hp : n.place = .team a b tw th) (hhot : ∃ q ∈ rectQuads a b tw th, (s.field (fieldKey (shWafer r.sheaf) (qnField q))).hot = true)
    (hstill : s.teamStill r ⟨r, a, b, tw, th⟩ = true)
    (hg : s.coolField r (fun g => (firstFit [g] tw th (s.quadFree r (s.fmapOf r))).isSome) = some g)
    (ho : firstFit [g] tw th (s.quadFree r (s.fmapOf r)) = some o) : exec (.nodeMigrate r.sheaf r.node) s =
      .next ((s.moveTeam r ⟨r, a, b, tw, th⟩ g o.1 o.2).modNode r fun n => { n with
        place := .team o.1 o.2 tw th, movedAt := some s.time }) := by
  have hany : ((rectQuads a b tw th).any fun q => (s.field (fieldKey (shWafer r.sheaf) (qnField q))).hot) = true :=
    List.any_eq_true.mpr hhot
  simp only [exec, execNodeMigrate, hn, hm, hp, hany, hstill, hg, ho, Bool.not_true, Bool.or_self, Bool.false_eq_true, if_false]

/-- A residency at rest on a hot field moves to the coolest field with room for its region. -/
theorem exec_nodeMigrate_region {i g a col row : Nat} {x : Resid} (hn : s.node? r = some n) (hm : s.mayMigrate r n = true)
    (hp : n.place = .region i) (hx : mfind s.resids i = some x) (hhot : (s.field x.field).hot = true) (hpl : x.planes = [])
    (hst : x.st = .reach) (hh : x.halt = false)
    (hg : s.coolField r (fun f => (s.roomFor (shWafer r.sheaf) f x.h).isSome) = some g)
    (ho : s.roomFor (shWafer r.sheaf) g x.h = some (a, col, row)) : exec (.nodeMigrate r.sheaf r.node) s =
      .next ((s.moveResid i (fieldKey (shWafer r.sheaf) g) col row).modNode r fun n => { n with
        field := fieldKey (shWafer r.sheaf) g, movedAt := some s.time }) := by
  have hrest : ¬(!(s.field x.field).hot || !x.planes.isEmpty || x.st != .reach || x.halt) = true := by simp [hhot, hpl, hst, hh]
  simp only [exec, execNodeMigrate, hn, hm, hp, hx, Bool.not_true, Bool.false_eq_true, if_false]
  rw [if_neg hrest]
  simp only [hg, ho]

/-- A residency that moves stands at its new place, and the sheaves are as they were. -/
theorem State.moveResid_moves {i : Nat} {x : Resid} (hx : mfind s.resids i = some x) (f col row : Nat) :
    (s.moveResid i f col row).sheaves = s.sheaves ∧
      mfind (s.moveResid i f col row).resids i = some { x with field := f, col := col, row := row } := by
  unfold State.moveResid
  rw [hx]
  exact ⟨rfl, State.mfind_setResid ..⟩

/-- A node that is not lost may still be changed. -/
theorem State.KeepsNodes.node?_modNode {t : State} (h : s.KeepsNodes t) (hn : s.node? r = some n) (f : Node → Node) :
    ∃ m, (t.modNode r f).node? r = some (f m) := by
  obtain ⟨m, hm⟩ := Option.isSome_iff_exists.mp (h.isSome r (by rw [hn]; rfl))
  refine ⟨m, ?_⟩
  rw [State.node?_modNode, if_pos rfl, hm]
  rfl

end

/-- Settles O31: a field's hops, a wafer's device time, a field that heats and cools, and a residency and a team that leave a hot field. -/
theorem hopsAndHeat : Obligations.HopsAndHeat := by
  unfold Obligations.HopsAndHeat
  intro s k f
  refine ⟨fun c => hopCompletes, exec_hopAbandon, fun t0 => hopRetries, fun w hw => ⟨_, ?skew, exec_timeFlit hw⟩, fieldGetsHot, rfl,
    fun r n hn hm => ⟨?region, ?team⟩⟩
  case skew =>
    exact Nat.le_of_lt_succ (Nat.mod_lt _ (by decide))
  case region =>
    intro i x hp hx hhot hpl hst hh g a col row hg ho
    obtain ⟨hsheaves, hres⟩ := State.moveResid_moves hx (fieldKey (shWafer r.sheaf) g) col row
    have hkept : (s.moveResid i (fieldKey (shWafer r.sheaf) g) col row).node? r = some n := by
      rw [State.node?, hsheaves]
      exact hn
    refine ⟨_, { n with field := fieldKey (shWafer r.sheaf) g, movedAt := some s.time }, _,
      exec_nodeMigrate_region hn hm hp hx hhot hpl hst hh hg ho, ?_, rfl, hp, ?_, rfl⟩
    · rw [State.node?_modNode, if_pos rfl, hkept]
      rfl
    · rw [State.modNode_resids]
      exact hres
  case team =>
    intro a b tw th hp fit hhot hstill g o hg ho
    obtain ⟨m, hmoved⟩ := (keepsNodes_moveTeam s r ⟨r, a, b, tw, th⟩ g o.1 o.2).node?_modNode hn fun n =>
      { n with place := .team o.1 o.2 tw th, movedAt := some s.time }
    exact ⟨_, _, exec_nodeMigrate_team hn hm hp hhot hstill hg ho, hmoved, rfl, rfl⟩

end Sys2Proof.Machine

/-! R239 to R253, R261: words and the instructions that they stand for. -/

namespace Sys2Proof

open BitVec

/-! ## Fields of a word -/

/-- Of two parts put side by side, a field from the upper one's first bit on lies in the upper one. The widths stand as they are written in
words, as numbers, so they are not matched by their form. -/
@[simp] theorem extractLsb'_append_hi {p k : Nat} (x : BitVec p) (y : BitVec k) {lo n : Nat} (h : k ≤ lo) :
    @extractLsb' (no_index (p + k)) lo n (@HAppend.hAppend (BitVec p) (BitVec k) (no_index (BitVec (p + k))) _ x y) =
      extractLsb' (lo - k) n x :=
  extractLsb'_append_eq_of_le h

/-- A field that ends below the upper part lies in the lower one. -/
@[simp] theorem extractLsb'_append_lo {p k : Nat} (x : BitVec p) (y : BitVec k) {lo n : Nat} (h : lo + n ≤ k) :
    @extractLsb' (no_index (p + k)) lo n (@HAppend.hAppend (BitVec p) (BitVec k) (no_index (BitVec (p + k))) _ x y) = extractLsb' lo n y :=
  extractLsb'_append_eq_of_add_le h

/-- Two fields that meet make one. -/
@[simp] theorem append_extractLsb' {N : Nat} (w : BitVec N) {lo hi n k : Nat} (h : hi = lo + k) :
    @HAppend.hAppend (BitVec n) (BitVec k) (no_index (BitVec (n + k))) _ (extractLsb' hi n w) (extractLsb' lo k w) = extractLsb' lo (n + k) w :=
  extractLsb'_append_extractLsb'_eq_extractLsb' h

@[simp] theorem ofBool_beq_one (b : BitVec 1) : ofBool (b == 1#1) = b := by
  revert b; decide

@[simp] theorem ofBool_eq_one (b : Bool) : (ofBool b == 1#1) = b := by
  cases b <;> rfl

theorem zeroed_eq_ok {n : Nat} {f : BitVec n} {i j : Instr} : zeroed f i = .ok j ↔ f = 0 ∧ i = j := by
  unfold zeroed
  split <;> rename_i hf
  · simp only [hf, Except.ok.injEq, true_and]
  · simp only [hf, reduceCtorEq, false_and]

theorem append_eq_zero {n k : Nat} {x : BitVec n} {y : BitVec k} :
    @HAppend.hAppend (BitVec n) (BitVec k) (no_index (BitVec (n + k))) _ x y = 0#(no_index (n + k)) ↔ x = 0#n ∧ y = 0#k := by
  refine ⟨fun h => ⟨?_, ?_⟩, ?_⟩
  · have hx := congrArg (extractLsb' k n) h
    simpa using hx
  · have hy := congrArg (extractLsb' 0 k) h
    simpa using hy
  · rintro ⟨rfl, rfl⟩
    simp

theorem ofBool_eq_zero {b : Bool} : ofBool b = 0#1 ↔ b = false := by
  cases b <;> decide

/-- A field across two parts is zero where its part of each is. -/
theorem field_eq_zero {N : Nat} {w : BitVec N} {lo : Nat} (n k : Nat) :
    extractLsb' lo (n + k) w = 0#(n + k) ↔ extractLsb' (lo + k) n w = 0#n ∧ extractLsb' lo k w = 0#k := by
  rw [← append_eq_zero, append_extractLsb' w rfl]

/-! ## Decode of encode -/

theorem decodeAlu_encode {i : Instr} (h : majorOf i = 0x01) : decodeAlu (encode i) = .ok i := by
  cases i with
  | add | sub | and | or | xor | shl | shr | sra | rot | slt | sltn | min | minn | max | maxn | bext | bins => simp [encode, decodeAlu, fld, bit]
  | clz | ctz | popc => simp [encode, decodeAlu, zeroed, bit]
  | _ => nomatch h

theorem decodeMulDiv_encode {i : Instr} (h : majorOf i = 0x02) : decodeMulDiv (encode i) = .ok i := by
  cases i with
  | mul | mulh | mulhn | div | divn | mod | modn => simp [encode, decodeMulDiv, bit]
  | _ => nomatch h

theorem decodeAmo_encode {i : Instr} (h : majorOf i = 0x03) : decodeAmo (encode i) = .ok i := by
  cases i with
  | amoAdd | amoAnd | amoOr | amoXor | amoMin | amoMax | amoMinn | amoMaxn | amoSwp | amoCas => simp [encode, decodeAmo, bit]
  | _ => nomatch h

theorem decodeBranch_encode {i : Instr} (h : majorOf i = 0x20) : decodeBranch (encode i) = .ok i := by
  cases i with
  | bEq | bNe | bLt | bGe | bLtn | bGen => simp [encode, decodeBranch]
  | bFull | bEmpty => simp [encode, decodeBranch, zeroed]
  | _ => nomatch h

theorem decodeVec_encode {i : Instr} (h : majorOf i = 0x28) : decodeVec (encode i) = .ok i := by
  cases i with
  | vadd | vsub | vmul | vfma | vrcp | vrsq | vexp | vlog2 | vtanh | vcvt | vcvtS | vcmp => simp [encode, decodeVec, bit]
  | vmin | vmax | vabs | vneg | vsel | vshuf | vfill | vred | vscan | vdot => simp [encode, decodeVec, zeroed, bit]
  | _ => nomatch h

theorem decodeK_encode {i : Instr} (h : majorOf i = 0x30) : decodeK (encode i) = .ok i := by
  cases i with
  | krd | kwr => simp [encode, decodeK, zeroed]
  | _ => nomatch h

theorem decodeSys_encode {i : Instr} (h : majorOf i = 0x38) : decodeSys (encode i) = .ok i := by
  cases i with
  | fenceAcq | fenceRel => simp [encode, decodeSys, zeroed, bit]
  | nop | halt | sys | tret | isync | time | timedgo | vbusy | vfence | waitf | waitpred | hintsucc | kend | spawn | retire | join | launch
    | enq | amsg | marke | rmov | fnew | fset | fsetF | fget | fwait | ffree | binit | arrive | bwait => simp [encode, decodeSys, zeroed]
  | _ => nomatch h


section
variable (m : BitVec 6) (d a b : Reg) (wa wb : Bool)

theorem major_encA (fn : BitVec 9) : fld (encA m d a b wa wb fn) 26 6 = m := by simp [fld]

theorem major_encI (imm : BitVec 15) : fld (encI m d a wa imm) 26 6 = m := by simp [fld]

theorem major_encM (sz sc : BitVec 3) (ord : Bool) (imm : BitVec 8) : fld (encM m d a wa sz sc ord imm) 26 6 = m := by simp [fld]

theorem major_encB (cc : BitVec 4) (off : BitVec 12) : fld (encB cc a b off) 26 6 = 0x20 := by simp [fld]

theorem major_encJ (off : BitVec 26) : fld (m ++ off) 26 6 = m := by simp [fld]

theorem major_encV (vop : BitVec 7) (fmt : BitVec 4) (flg : BitVec 3) : fld (encV vop a b wa wb fmt flg) 26 6 = 0x28 := by simp [fld]

theorem major_encK (k : BitVec 12) (op : BitVec 4) : fld (m ++ d ++ a ++ k ++ op) 26 6 = m := by simp [fld]

theorem major_encS (sop : BitVec 6) (mod : BitVec 5) : fld (encS d a b sop mod) 26 6 = 0x38 := by simp [fld]

end

/-- Bits 31:26 of an instruction's word are its major opcode. -/
theorem major_encode {i : Instr} (h : i.scalar = true) : (fld (encode i) 26 6).toNat = majorOf i := by
  cases i with
  | add | sub | and | or | xor | shl | shr | sra | rot | slt | sltn | min | minn | max | maxn | bext | bins | clz | ctz | popc | mul | mulh
    | mulhn | div | divn | mod | modn | amoAdd | amoAnd | amoOr | amoXor | amoMin | amoMax | amoMinn | amoMaxn | amoSwp | amoCas =>
    exact congrArg BitVec.toNat (major_encA ..)
  | addi | andi | ori | xori | slti | shli | shri | srai | lhi | pcrel | jmpr => exact congrArg BitVec.toNat (major_encI ..)
  | ld | st | sta | ldfe | stfe => exact congrArg BitVec.toNat (major_encM ..)
  | bEq | bNe | bLt | bGe | bLtn | bGen | bFull | bEmpty => exact congrArg BitVec.toNat (major_encB ..)
  | jmp | jmpl => exact congrArg BitVec.toNat (major_encJ ..)
  | vadd | vsub | vmul | vfma | vrcp | vrsq | vexp | vlog2 | vtanh | vcvt | vcvtS | vcmp | vmin | vmax | vabs | vneg | vsel | vshuf | vfill
    | vred | vscan | vdot => exact congrArg BitVec.toNat (major_encV ..)
  | krd | kwr => exact congrArg BitVec.toNat (major_encK ..)
  | fenceAcq | fenceRel | nop | halt | sys | tret | isync | time | timedgo | vbusy | vfence | waitf | waitpred | hintsucc | kend | spawn
    | retire | join | launch | enq | amsg | marke | rmov | fnew | fset | fsetF | fget | fwait | ffree | binit | arrive | bwait =>
    exact congrArg BitVec.toNat (major_encS ..)
  | _ => nomatch h

/-- The decoder of each major opcode that has functions of its own (R243). -/
theorem decodeShape_sub {w : W32} :
    ((fld w 26 6).toNat = 0x01 → decodeShape w = decodeAlu w) ∧ ((fld w 26 6).toNat = 0x02 → decodeShape w = decodeMulDiv w) ∧
    ((fld w 26 6).toNat = 0x03 → decodeShape w = decodeAmo w) ∧ ((fld w 26 6).toNat = 0x20 → decodeShape w = decodeBranch w) ∧
    ((fld w 26 6).toNat = 0x28 → decodeShape w = decodeVec w) ∧ ((fld w 26 6).toNat = 0x30 → decodeShape w = decodeK w) ∧
    ((fld w 26 6).toNat = 0x38 → decodeShape w = decodeSys w) := by
  unfold decodeShape
  refine ⟨?_, ?_, ?_, ?_, ?_, ?_, ?_⟩ <;> intro h <;> simp only [h]

theorem decodeShape_encode {i : Instr} (h : i.scalar = true) : decodeShape (encode i) = .ok i := by
  obtain ⟨halu, hmul, hamo, hbr, hvec, hk, hsys⟩ := decodeShape_sub (w := encode i)
  have hm := major_encode h
  cases i with
  | add | sub | and | or | xor | shl | shr | sra | rot | slt | sltn | min | minn | max | maxn | bext | bins | clz | ctz | popc =>
    exact (halu hm).trans (decodeAlu_encode rfl)
  | mul | mulh | mulhn | div | divn | mod | modn => exact (hmul hm).trans (decodeMulDiv_encode rfl)
  | amoAdd | amoAnd | amoOr | amoXor | amoMin | amoMax | amoMinn | amoMaxn | amoSwp | amoCas => exact (hamo hm).trans (decodeAmo_encode rfl)
  | bEq | bNe | bLt | bGe | bLtn | bGen | bFull | bEmpty => exact (hbr hm).trans (decodeBranch_encode rfl)
  | vadd | vsub | vmul | vfma | vrcp | vrsq | vexp | vlog2 | vtanh | vcvt | vcvtS | vcmp | vmin | vmax | vabs | vneg | vsel | vshuf | vfill
    | vred | vscan | vdot => exact (hvec hm).trans (decodeVec_encode rfl)
  | krd | kwr => exact (hk hm).trans (decodeK_encode rfl)
  | fenceAcq | fenceRel | nop | halt | sys | tret | isync | time | timedgo | vbusy | vfence | waitf | waitpred | hintsucc | kend | spawn
    | retire | join | launch | enq | amsg | marke | rmov | fnew | fset | fsetF | fget | fwait | ffree | binit | arrive | bwait =>
    exact (hsys hm).trans (decodeSys_encode rfl)
  | addi | andi | ori | xori | slti | lhi | jmpr | ld | st | jmp | jmpl => simp [decodeShape, encode, bit]
  | shli | shri | srai | sta => simp [decodeShape, encode, zeroed, bit]
  | pcrel d =>
    have hz : extractLsb' 0 6 (0x11#6 ++ d ++ 0#5 ++ 0#1) = 0#6 := (field_eq_zero 5 1).mpr ⟨by simp, by simp⟩
    simpa [decodeShape, encode, zeroed] using hz
  | ldfe t a wa =>
    have hz : extractLsb' 0 4 (0x1B#6 ++ t ++ a ++ ofBool wa ++ 3#3 ++ 0#3 ++ 0#1) = 0#4 :=
      (field_eq_zero 3 1).mpr ⟨by simp, by simp⟩
    simp [decodeShape, encode, zeroed, bit, hz]
  | stfe t a wa =>
    have hz : extractLsb' 0 4 (0x1C#6 ++ t ++ a ++ ofBool wa ++ 3#3 ++ 0#3 ++ 0#1) = 0#4 :=
      (field_eq_zero 3 1).mpr ⟨by simp, by simp⟩
    simp [decodeShape, encode, zeroed, bit, hz]
  | _ => nomatch h

/-! ## Encode of decode -/

/-- A word has an A format, and so on for the others. -/
theorem exists_encA (w : W32) : ∃ d a b wa wb fn, w = encA (fld w 26 6) d a b wa wb fn :=
  ⟨rfld w 21, rfld w 16, rfld w 11, bit w 10, bit w 9, fld w 0 9, by simp [fld, bit, encA]⟩

theorem exists_encB {w : W32} (h : fld w 26 6 = 0x20) : ∃ cc a b off, w = encB cc a b off :=
  ⟨fld w 22 4, rfld w 17, rfld w 12, fld w 0 12, by rw [encB, show 0x20#6 = fld w 26 6 from h.symm]; simp [fld]⟩

theorem exists_encV {w : W32} (h : fld w 26 6 = 0x28) : ∃ vop a b wa wb fmt flg, w = encV vop a b wa wb fmt flg :=
  ⟨fld w 19 7, rfld w 14, rfld w 9, bit w 8, bit w 7, fld w 3 4, fld w 0 3, by rw [encV, show 0x28#6 = fld w 26 6 from h.symm]; simp [fld, bit]⟩

theorem exists_encS {w : W32} (h : fld w 26 6 = 0x38) : ∃ d a b sop mod, w = encS d a b sop mod :=
  ⟨rfld w 21, rfld w 16, rfld w 11, fld w 5 6, fld w 0 5, by rw [encS, show 0x38#6 = fld w 26 6 from h.symm]; simp [fld]⟩

/-- The instruction has the word, under the major opcode. -/
def HasWord (m : Nat) (i : Instr) (w : W32) : Prop := i.scalar = true ∧ majorOf i = m ∧ encode i = w

theorem hasWord_decodeAlu {w : W32} {i : Instr} (hm : fld w 26 6 = 0x01) (h : decodeAlu w = .ok i) : HasWord 0x01 i w := by
  obtain ⟨d, a, b, wa, wb, fn, rfl⟩ := hm ▸ exists_encA w
  simp [decodeAlu, bit] at h
  split at h
  case h_21 => nomatch h
  case h_16 heq | h_17 heq | h_18 heq =>
    obtain ⟨hz, rfl⟩ := zeroed_eq_ok.mp h
    obtain ⟨rfl, hwb⟩ := append_eq_zero.mp hz
    obtain rfl := ofBool_eq_zero.mp hwb
    exact ⟨rfl, rfl, congrArg (encA 1 d a _ wa _) (eq_of_toNat_eq heq.symm)⟩
  all_goals
    next heq =>
    cases h
    exact ⟨rfl, rfl, congrArg (encA 1 d a b wa wb) (eq_of_toNat_eq heq.symm)⟩

theorem hasWord_decodeMulDiv {w : W32} {i : Instr} (hm : fld w 26 6 = 0x02) (h : decodeMulDiv w = .ok i) : HasWord 0x02 i w := by
  obtain ⟨d, a, b, wa, wb, fn, rfl⟩ := hm ▸ exists_encA w
  simp [decodeMulDiv, bit] at h
  split at h
  case h_8 => nomatch h
  all_goals
    next heq =>
    cases h
    exact ⟨rfl, rfl, congrArg (encA 2 d a b wa wb) (eq_of_toNat_eq heq.symm)⟩

theorem hasWord_decodeAmo {w : W32} {i : Instr} (hm : fld w 26 6 = 0x03) (h : decodeAmo w = .ok i) : HasWord 0x03 i w := by
  obtain ⟨d, a, b, wa, wb, fn, rfl⟩ := hm ▸ exists_encA w
  obtain ⟨aop, wide, r, sc, rfl⟩ : ∃ aop wide r sc, fn = aop ++ ofBool wide ++ ofBool r ++ sc :=
    ⟨extractLsb' 5 4 fn, extractLsb' 4 1 fn == 1#1, extractLsb' 3 1 fn == 1#1, extractLsb' 0 3 fn, by simp⟩
  simp [decodeAmo, bit] at h
  split at h
  case isTrue => nomatch h
  case isFalse hr =>
    obtain rfl := Bool.not_eq_true _ ▸ hr
    split at h
    case h_11 => nomatch h
    all_goals
      next heq =>
      cases h
      exact ⟨rfl, rfl, congrArg (fun aop => encA 3 d a b wa wb (encAop aop wide sc)) (eq_of_toNat_eq heq.symm)⟩

theorem hasWord_decodeBranch {w : W32} {i : Instr} (hm : fld w 26 6 = 0x20) (h : decodeBranch w = .ok i) : HasWord 0x20 i w := by
  obtain ⟨cc, a, b, off, rfl⟩ := exists_encB hm
  simp [decodeBranch] at h
  split at h
  case h_9 => nomatch h
  case h_7 heq | h_8 heq =>
    obtain ⟨rfl, rfl⟩ := zeroed_eq_ok.mp h
    exact ⟨rfl, rfl, congrArg (encB · a 0 off) (eq_of_toNat_eq heq.symm)⟩
  all_goals
    next heq =>
    cases h
    exact ⟨rfl, rfl, congrArg (encB · a b off) (eq_of_toNat_eq heq.symm)⟩

theorem hasWord_decodeVec {w : W32} {i : Instr} (hm : fld w 26 6 = 0x28) (h : decodeVec w = .ok i) : HasWord 0x28 i w := by
  obtain ⟨vop, a, b, wa, wb, fmt, flg, rfl⟩ := exists_encV hm
  simp [decodeVec, bit] at h
  split at h
  case h_23 => nomatch h
  case h_5 heq | h_6 heq | h_7 heq | h_8 heq | h_17 heq | h_18 heq | h_19 heq | h_20 heq | h_21 heq | h_22 heq =>
    obtain ⟨rfl, rfl⟩ := zeroed_eq_ok.mp h
    exact ⟨rfl, rfl, congrArg (encV · a b wa wb fmt 0) (eq_of_toNat_eq heq.symm)⟩
  all_goals
    next heq =>
    cases h
    exact ⟨rfl, rfl, congrArg (encV · a b wa wb fmt flg) (eq_of_toNat_eq heq.symm)⟩

theorem hasWord_decodeK {w : W32} {i : Instr} (hm : fld w 26 6 = 0x30) (h : decodeK w = .ok i) : HasWord 0x30 i w := by
  obtain ⟨d, a, k, op, rfl⟩ : ∃ d a k op, w = 0x30#6 ++ d ++ a ++ k ++ op :=
    ⟨rfld w 21, rfld w 16, fld w 4 12, fld w 0 4, by rw [show 0x30#6 = fld w 26 6 from hm.symm]; simp [fld]⟩
  simp [decodeK] at h
  split at h
  case h_3 => nomatch h
  all_goals
    next heq =>
    obtain ⟨rfl, rfl⟩ := zeroed_eq_ok.mp h
    exact ⟨rfl, rfl, congrArg (0x30#6 ++ _ ++ _ ++ k ++ ·) (eq_of_toNat_eq heq.symm)⟩

/-- The fences, whose sub-operation is part of their mod field (R251). -/
theorem hasWord_fence {d a b : Reg} {mod : BitVec 5} {i : Instr}
    (h : (if extractLsb' 3 1 mod = 1#1 then
      zeroed (extractLsb' 0 15 (0x38#6 ++ d ++ a ++ b) ++ extractLsb' 4 1 mod) (.fenceRel (extractLsb' 0 3 mod))
      else zeroed (extractLsb' 0 15 (0x38#6 ++ d ++ a ++ b) ++ extractLsb' 4 1 mod) (.fenceAcq (extractLsb' 0 3 mod))) = .ok i) :
    HasWord 0x38 i (encS d a b 5 mod) := by
  obtain ⟨r, o, sc, rfl⟩ : ∃ (r o : BitVec 1) (sc : BitVec 3), mod = r ++ o ++ sc :=
    ⟨extractLsb' 4 1 mod, extractLsb' 3 1 mod, extractLsb' 0 3 mod, by simp⟩
  split at h
  case isTrue ho =>
    obtain ⟨hz, rfl⟩ := zeroed_eq_ok.mp h
    simp [append_eq_zero, field_eq_zero 10 5, field_eq_zero 5 5] at hz ho
    exact ⟨rfl, rfl, by simp [encode, hz, ho]⟩
  case isFalse ho =>
    obtain ⟨hz, rfl⟩ := zeroed_eq_ok.mp h
    simp [append_eq_zero, field_eq_zero 10 5, field_eq_zero 5 5] at hz ho
    have hzero : o = 0#1 := (eq_zero_or_eq_one o).resolve_right ho
    exact ⟨rfl, rfl, by simp [encode, hz, hzero]⟩

theorem hasWord_enq {d a b : Reg} {mod : BitVec 5} {i : Instr}
    (h : zeroed (d ++ extractLsb' 3 2 mod) (.enq a b (extractLsb' 0 3 mod)) = .ok i) : HasWord 0x38 i (encS d a b 0x14 mod) := by
  obtain ⟨r, sc, rfl⟩ : ∃ (r : BitVec 2) (sc : BitVec 3), mod = r ++ sc := ⟨extractLsb' 3 2 mod, extractLsb' 0 3 mod, by simp⟩
  obtain ⟨hz, rfl⟩ := zeroed_eq_ok.mp h
  simp [append_eq_zero] at hz
  exact ⟨rfl, rfl, by simp [encode, hz]⟩

theorem hasWord_decodeSys {w : W32} {i : Instr} (hm : fld w 26 6 = 0x38) (h : decodeSys w = .ok i) : HasWord 0x38 i w := by
  obtain ⟨d, a, b, sop, mod, rfl⟩ := exists_encS hm
  clear hm
  simp [decodeSys, bit] at h
  split at h
  case h_32 => nomatch h
  case h_6 heq =>
    rw [show sop = 5#6 from eq_of_toNat_eq heq]
    exact hasWord_fence h
  case h_19 heq =>
    rw [show sop = 0x14#6 from eq_of_toNat_eq heq]
    exact hasWord_enq h
  all_goals
    next heq =>
    obtain ⟨hz, rfl⟩ := zeroed_eq_ok.mp h
    simp only [append_eq_zero, BitVec.ofNat_eq_ofNat] at hz
    simp only [hz]
    exact ⟨rfl, rfl, congrArg (encS _ _ _ · _) (eq_of_toNat_eq heq.symm)⟩
section
variable {w : W32} {m : BitVec 6}

theorem encI_fields (h : fld w 26 6 = m) : encI m (rfld w 21) (rfld w 16) (bit w 15) (fld w 0 15) = w := by
  subst h; simp [encI, fld, bit]

theorem encM_fields (h : fld w 26 6 = m) :
    encM m (rfld w 21) (rfld w 16) (bit w 15) (fld w 12 3) (fld w 9 3) (bit w 8) (fld w 0 8) = w := by
  subst h; simp [encM, fld, bit]

theorem encJ_fields (h : fld w 26 6 = m) : m ++ fld w 0 26 = w := by
  subst h; simp [fld]

/-- A field whose upper part is zero. -/
theorem zero_append_field {lo k n : Nat} (h : extractLsb' (lo + k) n w = 0#n) : 0#n ++ extractLsb' lo k w = extractLsb' lo (n + k) w := by
  rw [← h, append_extractLsb' w rfl]

theorem bit_eq_false {lo : Nat} : bit w lo = false ↔ fld w lo 1 = 0#1 := by
  rw [← ofBool_eq_zero, bit, ofBool_beq_one]

theorem encI_shift (h : fld w 26 6 = m) (hz : fld w 6 9 = 0) : encI m (rfld w 21) (rfld w 16) (bit w 15) (0#9 ++ fld w 0 6) = w :=
  (congrArg (encI m _ _ _) (zero_append_field hz)).trans (encI_fields h)

theorem encM_size (h : fld w 26 6 = m) (hz : bit w 14 = false) :
    encM m (rfld w 21) (rfld w 16) (bit w 15) (0#1 ++ fld w 12 2) (fld w 9 3) (bit w 8) (fld w 0 8) = w :=
  (congrArg (encM m _ _ _ · _ _ _) (zero_append_field (bit_eq_false.mp hz))).trans (encM_fields h)

theorem encM_fullEmpty (h : fld w 26 6 = m) (hs : fld w 12 3 = 3) (hz : fld w 8 4 = 0) :
    encM m (rfld w 21) (rfld w 16) (bit w 15) 3 0 false (fld w 0 8) = w := by
  obtain ⟨hsc, hord⟩ := (field_eq_zero 3 1).mp hz
  rw [← hs, ← show bit w 8 = false from bit_eq_false.mpr hord]
  exact (congrArg (encM m _ _ _ _ · _ _) hsc.symm).trans (encM_fields h)

end

/-- A word that decodes to an instruction is the word of it, under the major opcode that it shows. -/
theorem hasWord_decodeShape {w : W32} {i : Instr} (h : decodeShape w = .ok i) : HasWord (fld w 26 6).toNat i w := by
  unfold decodeShape at h
  split at h
  case h_1 hm => exact hm ▸ hasWord_decodeAlu (eq_of_toNat_eq hm) h
  case h_2 hm => exact hm ▸ hasWord_decodeMulDiv (eq_of_toNat_eq hm) h
  case h_3 hm => exact hm ▸ hasWord_decodeAmo (eq_of_toNat_eq hm) h
  case h_20 hm => exact hm ▸ hasWord_decodeBranch (eq_of_toNat_eq hm) h
  case h_23 hm => exact hm ▸ hasWord_decodeVec (eq_of_toNat_eq hm) h
  case h_24 hm => exact hm ▸ hasWord_decodeK (eq_of_toNat_eq hm) h
  case h_25 hm => exact hm ▸ hasWord_decodeSys (eq_of_toNat_eq hm) h
  case h_26 => nomatch h
  case h_4 hm | h_5 hm | h_6 hm | h_7 hm | h_11 hm | h_12 hm | h_14 hm =>
    cases h
    exact ⟨rfl, hm.symm, encI_fields (eq_of_toNat_eq hm)⟩
  case h_8 hm | h_9 hm | h_10 hm =>
    obtain ⟨hz, rfl⟩ := zeroed_eq_ok.mp h
    exact ⟨rfl, hm.symm, encI_shift (eq_of_toNat_eq hm) hz⟩
  case h_13 hm =>
    obtain ⟨hz, rfl⟩ := zeroed_eq_ok.mp h
    obtain ⟨ha, hwa⟩ := (field_eq_zero 5 1).mp hz
    refine ⟨rfl, hm.symm, .trans ?_ (encI_fields (eq_of_toNat_eq hm : fld w 26 6 = 0x11#6))⟩
    rw [show rfld w 16 = 0 from ha, show bit w 15 = false from bit_eq_false.mpr hwa]
    rfl
  case h_15 hm =>
    cases h
    exact ⟨rfl, hm.symm, encM_fields (eq_of_toNat_eq hm)⟩
  case h_16 hm =>
    split at h
    · nomatch h
    · next hsz =>
      cases h
      exact ⟨rfl, hm.symm, encM_size (eq_of_toNat_eq hm) (Bool.not_eq_true _ ▸ hsz)⟩
  case h_17 hm =>
    split at h
    · nomatch h
    · next hsz =>
      obtain ⟨hz, rfl⟩ := zeroed_eq_ok.mp h
      refine ⟨rfl, hm.symm, .trans ?_ (encM_size (eq_of_toNat_eq hm : fld w 26 6 = 0x1A#6) (Bool.not_eq_true _ ▸ hsz))⟩
      rw [show bit w 8 = false from bit_eq_false.mpr hz]
      rfl
  case h_18 hm | h_19 hm =>
    split at h
    · nomatch h
    · next hs =>
      obtain ⟨hz, rfl⟩ := zeroed_eq_ok.mp h
      exact ⟨rfl, hm.symm, encM_fullEmpty (eq_of_toNat_eq hm) (not_not.mp hs) hz⟩
  case h_21 hm | h_22 hm =>
    cases h
    exact ⟨rfl, hm.symm, encJ_fields (eq_of_toNat_eq hm)⟩

/-- What decodeWord accepts: the layout of an instruction, with its codes assigned. -/
theorem decodeWord_eq_ok {w : W32} {i : Instr} : decodeWord w = .ok i ↔ decodeShape w = .ok i ∧ i.wf = true := by
  unfold decodeWord
  split
  case h_1 j hj =>
    split
    case isTrue hwf => rw [hj, iff_self_and, Except.ok.injEq]; exact fun h => h ▸ hwf
    case isFalse hwf => rw [hj, Except.ok.injEq]; exact ⟨nofun, fun h => absurd (h.1 ▸ h.2) hwf⟩
  case h_2 hj => rw [hj]; exact ⟨nofun, fun h => nomatch h.1⟩

/-- Settles O54: the decoder reads back the fields that the encoder puts side by side, and a word that decodes is those fields, the ones that must
be zero zero. -/
theorem decodeOfEncode : Obligations.DecodeOfEncode := by
  refine ⟨fun i hs hwf => decodeWord_eq_ok.mpr ⟨decodeShape_encode hs, hwf⟩, fun w i h => ?_⟩
  obtain ⟨hshape, hwf⟩ := decodeWord_eq_ok.mp h
  obtain ⟨hs, -, hw⟩ := hasWord_decodeShape hshape
  exact ⟨hs, hwf, hw⟩

end Sys2Proof

/-! R202, R227, R243, R394: what the statement about unassigned major opcodes leaves out of an issue on TIMEDGO's edge. -/

namespace Sys2Proof.Machine

/-- A step of a core whose strand is not ending takes the illegal-instruction trap where the word at its pc is no instruction, TIMEDGO's edge
used. -/
theorem step_of_fetches_illegal {s : State} {n : Nat} {w : W32} {e : Reject} (h : fetches s n w)
    (he : ((issuing s n).core n).ending = none) (hw : decodeWord w = .error e) :
    step s = .next (((issuing s n).going n).trap causeIllegal (w.setWidth 64)) := by
  obtain ⟨hact, hok, hcan, hword⟩ := h
  have hissue : (issuing s n).issueTurn n = .done (((issuing s n).going n).trap causeIllegal (w.setWidth 64)) := by
    simp only [State.issueTurn, State.hold_of_canIssue hcan, hcan, hword, hw, Bool.not_true, Bool.false_eq_true, if_false]
  have hcore : s.advance.coreTurn n = .done (((issuing s n).going n).trap causeIllegal (w.setWidth 64)) := by
    simp only [State.coreTurn, hok, Bool.not_true, Bool.false_eq_true, if_false]
    simp only [issuing] at he
    rw [he]
    exact hissue
  have hturn : s.turn = .done (((issuing s n).going n).trap causeIllegal (w.setWidth 64)) := by
    rw [State.turn, hact]
    exact hcore
  rw [step, hturn]

/-- The pod with a word of all zeros where the next step fetches it, at a core that TIMEDGO has just let go (R394). -/
def zerosOnEdge : State :=
  let s := State.reset.withFetchWord 32 0
  s.setCore 0 { s.core 0 with go := true }

set_option maxRecDepth 40000 in
theorem zerosOnEdge_fetches : fetches zerosOnEdge 0 0 := ⟨by rfl, by rfl, by rfl, by rfl⟩

/-- Refutes O55: a core that fetches a word of an unassigned major opcode on TIMEDGO's edge uses that edge (R227) before it traps, so it traps in
a state in which it no longer stands on it. The statement traps it in the state of its turn, and leaves it on the edge. -/
theorem not_opcodeMap : ¬ Obligations.OpcodeMap := by
  unfold Obligations.OpcodeMap
  intro h
  obtain ⟨-, -, hunassigned, -⟩ := h
  obtain ⟨hzeros, htraps⟩ := hunassigned 0 (by decide)
  have hsame := (htraps _ _ zerosOnEdge_fetches).symm.trans (step_of_fetches_illegal zerosOnEdge_fetches rfl hzeros)
  have hgo := congrArg (fun t => (State.core t 0).go) (Host.Outcome.next.inj hsame)
  exact absurd hgo (by decide)

end Sys2Proof.Machine

/-! R308, R313, R316, R318, R324, R333, R334, R355, R361, R376, R413: register instructions, their results and their completion. -/

namespace Sys2Proof.Machine

/-! ## Completing with a result -/

section
variable {i : Instr} {s : State} {d a b : Reg} {wa wb : Bool} {v v' : W64}

theorem Does.of_eq (h : Does i s d v) (e : v = v') : Does i s d v' := e ▸ h

/-- A register instruction of two full sources writes its value. -/
theorem does_op2 {f : W64 → W64 → W64} (hi : exec i s = .next (s.op2 d a b wa wb f)) (h : s.me.ready [a, b] d = true) :
    Does i s d (f (s.me.get a) (s.me.get b)) :=
  ⟨_, hi, wrote_op2 wa wb f h⟩

/-- A register instruction of one full source writes its value. -/
theorem does_op1 {f : W64 → W64} (hi : exec i s = .next (s.op1 d a wa f)) (h : s.me.ready [a] d = true) : Does i s d (f (s.me.get a)) :=
  ⟨_, hi, wrote_op1 wa f h⟩

end

/-! ## Comparisons -/

theorem ltS_iff (x y : W64) : ltS x y = true ↔ x.toInt < y.toInt := BitVec.slt_iff_toInt_lt

theorem ltN_iff (x y : W64) : ltN x y = true ↔ x.toNat < y.toNat := BitVec.ult_iff_lt

/-- Settles O1: each form hands its function to the one operation of two sources. -/
theorem registerLogic : Obligations.RegisterLogic := by
  unfold Obligations.RegisterLogic
  intro s d a b wa wb h
  refine ⟨does_op2 (f := fun x y => x + y) rfl h, does_op2 (f := fun x y => x - y) rfl h, does_op2 (f := fun x y => x &&& y) rfl h,
    does_op2 (f := fun x y => x ||| y) rfl h, does_op2 (f := fun x y => x ^^^ y) rfl h,
    does_op2 (f := fun x y => shlV x (shCount y)) rfl h, does_op2 (f := fun x y => shrV x (shCount y)) rfl h,
    does_op2 (f := fun x y => sraV x (shCount y)) rfl h, does_op2 (f := fun x y => rotV x (shCount y)) rfl h,
    (does_op2 rfl h).of_eq ?slt, (does_op2 rfl h).of_eq ?sltn, (does_op2 rfl h).of_eq ?min, (does_op2 rfl h).of_eq ?max,
    (does_op2 rfl h).of_eq ?minn, (does_op2 rfl h).of_eq ?maxn⟩
  case slt => simp only [truth, ltS_iff]
  case sltn => simp only [truth, ltN_iff]
  case min | max => simp only [ltS_iff]
  case minn | maxn => simp only [ltN_iff]

/-! ## Products, quotients and remainders -/

theorem w64_wrapInt (z : Int) : w64 (wrapInt z 64) = BitVec.ofInt 64 z := by
  rw [w64, wrapInt, ← BitVec.ofInt_natCast, Int.toNat_of_nonneg (Int.emod_nonneg _ (by decide))]
  exact BitVec.eq_of_toInt_eq (by rw [BitVec.toInt_ofInt, BitVec.toInt_ofInt]; exact Int.emod_bmod z (2 ^ 64))

theorem divV_of_ne {x y : W64} (h : y ≠ 0) : divV x y = BitVec.ofInt 64 (x.toInt.tdiv y.toInt) := (if_neg h).trans (w64_wrapInt _)

/-- The remainder is what the quotient leaves, its sign that of x[a]. -/
theorem modV_of_ne {x y : W64} (h : y ≠ 0) : modV x y = BitVec.ofInt 64 (x.toInt.tmod y.toInt) := by
  rw [modV, if_neg h, divV_of_ne h, Int.tmod_def, Int.sub_eq_add_neg, BitVec.ofInt_add, BitVec.ofInt_neg, BitVec.ofInt_mul, BitVec.ofInt_toInt,
    BitVec.ofInt_toInt, BitVec.sub_eq_add_neg, BitVec.mul_comm y]

/-- Settles O2: the high halves and the signed quotient and remainder are those of the exact integers. -/
theorem multiplyDivide : Obligations.MultiplyDivide := by
  unfold Obligations.MultiplyDivide
  intro s d a b wa wb h
  refine ⟨does_op2 (f := fun x y => x * y) rfl h, (does_op2 (f := mulhV) rfl h).of_eq (w64_wrapInt _), does_op2 (f := mulhnV) rfl h,
    (does_op2 (f := divV) rfl h).of_eq ?div, does_op2 (f := divnV) rfl h, (does_op2 (f := modV) rfl h).of_eq ?mod,
    does_op2 (f := modnV) rfl h⟩
  case div =>
    split
    · next hy => exact if_pos hy
    · next hy => exact divV_of_ne hy
  case mod =>
    split
    · next hy => exact if_pos hy
    · next hy => exact modV_of_ne hy

/-! ## Counts and fields of bits -/

theorem popN_eq (v n : Nat) : popN v n = ((List.range n).filter v.testBit).length := by
  induction n with
  | zero => rfl
  | succ n ih =>
    rw [popN, ih, List.range_succ, List.filter_append, List.length_append, Nat.add_comm]
    cases hb : v.testBit n <;> simp [b2n, hb]

theorem getLsbD_bextV (x y : W64) {i : Nat} (hi : i < 64) :
    (bextV x y).getLsbD i = (decide (i < bfWidth y) && x.getLsbD (bfPos y + i)) := by
  rw [bextV, w64, BitVec.getLsbD_ofNat, Nat.testBit_mod_two_pow, Nat.testBit_shiftRight, decide_eq_true hi, Bool.true_and]
  rfl

theorem bfPos_eq (y : W64) : bfPos y = y.toNat % 64 := bits_low y 5

theorem bfWidth_eq (y : W64) : bfWidth y = y.toNat / 256 % 64 + 1 := congrArg (· + 1) (bits_eq y 13 8)

/-- Settles O3: immediates are sign-extended, POPC counts the set bits, and BEXT moves a field to bit 0. -/
theorem immediatesAndBits : Obligations.ImmediatesAndBits := by
  unfold Obligations.ImmediatesAndBits
  intro s d a b wa wb imm k
  refine ⟨fun h => ⟨does_op1 (f := fun x => x + immS imm) rfl h, does_op1 (f := fun x => x &&& immS imm) rfl h,
    does_op1 (f := fun x => x ||| immS imm) rfl h, does_op1 (f := fun x => x ^^^ immS imm) rfl h, (does_op1 rfl h).of_eq ?slti,
    does_op1 (f := fun x => shlV x k.toNat) rfl h, does_op1 (f := fun x => shrV x k.toNat) rfl h,
    does_op1 (f := fun x => sraV x k.toNat) rfl h, (does_op1 rfl h).of_eq ?popc⟩, fun h => ⟨_, does_op2 (f := bextV) rfl h, ?bext⟩⟩
  case slti => simp only [truth, ltS_iff, immS, BitVec.toInt_signExtend_of_le (show 15 ≤ 64 by decide)]
  case popc => exact congrArg w64 (popN_eq _ 64)
  case bext =>
    intro i hi
    rw [getLsbD_bextV _ _ hi, bfPos_eq, bfWidth_eq]

/-! ## Empty sources (R240, R242) -/

section
variable {s : State} {d a b : Reg} {wa wb : Bool}

/-- Of one source, the trap is its own. -/
theorem Core.emptyTrap_one (c : Core) (a : Reg) (wa : Bool) :
    c.emptyTrap [(a, wa)] = if c.isFull a = false ∧ wa = true then some a else none := by
  cases hf : c.isFull a <;> cases wa <;> simp [Core.emptyTrap, hf]

/-- Sources that are full or under no w bit raise no trap. -/
theorem Core.emptyTrap_none {c : Core} {srcs : List (Reg × Bool)} (h : ∀ p ∈ srcs, c.isFull p.1 = true ∨ p.2 = false) :
    c.emptyTrap srcs = none := by
  simp only [Core.emptyTrap, Option.map_eq_none_iff, List.find?_eq_none, Bool.and_eq_true, List.any_eq_true, Bool.not_eq_true', beq_iff_eq]
  rintro p - ⟨hp, q, hq, hqp, hw⟩
  rcases h q hq with hf | hf
  · rw [hqp, hp] at hf; exact Bool.false_ne_true hf
  · rw [hf] at hw; exact Bool.false_ne_true hw

/-- An instruction one of whose registers is not ready, and none of whose sources traps, waits. -/
theorem State.issue_unready {srcs : List (Reg × Bool)} (k : Core → State) (hw : ∀ p ∈ srcs, s.me.isFull p.1 = true ∨ p.2 = false)
    (h : s.me.ready (srcs.map (·.1)) d = false) : s.issue srcs d k = s.block := by
  refine State.issue_wait k (Core.emptyTrap_none hw) ?_
  simp only [Core.ready, List.all_map, Bool.and_eq_false_iff, List.all_eq_false, Bool.or_eq_false_iff, Bool.not_eq_false'] at h
  simp only [Core.mustWait, Bool.or_eq_true, List.any_eq_true, Bool.and_eq_true, Bool.not_eq_true']
  exact h.imp (fun ⟨p, hp, hf⟩ => ⟨p, hp, by simpa using hf⟩) id

end

/-! ## Leading and trailing zeros (R324, R333) -/

theorem clzN_le (v n : Nat) : clzN v n ≤ n := by
  induction n with
  | zero => exact le_rfl
  | succ n ih => rw [clzN]; split <;> omega

theorem clzN_zeros {v n i : Nat} (h : i < clzN v n) : v.testBit (n - 1 - i) = false := by
  induction n generalizing i with
  | zero => exact absurd h (Nat.not_lt_zero _)
  | succ n ih =>
    rw [clzN] at h
    split at h
    case isTrue => exact absurd h (Nat.not_lt_zero _)
    case isFalse hb =>
      cases i with
      | zero => exact Bool.not_eq_true _ ▸ hb
      | succ i => rw [show n + 1 - 1 - (i + 1) = n - 1 - i by omega]; exact ih (by omega)

theorem clzN_one {v n : Nat} (h : clzN v n < n) : v.testBit (n - 1 - clzN v n) = true := by
  induction n with
  | zero => exact absurd h (Nat.not_lt_zero _)
  | succ n ih =>
    rw [clzN] at h ⊢
    split
    case isTrue hb => exact hb
    case isFalse hb =>
      rw [if_neg hb] at h
      rw [show n + 1 - 1 - (1 + clzN v n) = n - 1 - clzN v n by omega]
      exact ih (by omega)

theorem ctzN_le (v i n : Nat) : ctzN v i n ≤ n := by
  induction n generalizing i with
  | zero => exact le_rfl
  | succ n ih =>
    have hle := ih (i + 1)
    rw [ctzN]
    split <;> omega

theorem ctzN_zeros {v i n j : Nat} (h : j < ctzN v i n) : v.testBit (i + j) = false := by
  induction n generalizing i j with
  | zero => exact absurd h (Nat.not_lt_zero _)
  | succ n ih =>
    rw [ctzN] at h
    split at h
    case isTrue => exact absurd h (Nat.not_lt_zero _)
    case isFalse hb =>
      cases j with
      | zero => exact Bool.not_eq_true _ ▸ hb
      | succ j => rw [show i + (j + 1) = i + 1 + j by omega]; exact ih (by omega)

theorem ctzN_one {v i n : Nat} (h : ctzN v i n < n) : v.testBit (i + ctzN v i n) = true := by
  induction n generalizing i with
  | zero => exact absurd h (Nat.not_lt_zero _)
  | succ n ih =>
    rw [ctzN] at h ⊢
    split
    case isTrue hb => exact hb
    case isFalse hb =>
      rw [if_neg hb] at h
      rw [← Nat.add_assoc]
      exact ih (by omega)

theorem toNat_w64_of_le {n : Nat} (h : n ≤ 64) : (w64 n).toNat = n := Nat.mod_eq_of_lt (by omega)

/-- Settles O4: the counts stop at the first set bit; the three forms are register operations of one source. -/
theorem countsAndLhi : Obligations.CountsAndLhi := by
  unfold Obligations.CountsAndLhi
  refine ⟨fun s d a wa imm => ?_, by decide, by decide, by decide, by decide⟩
  have hforms : ∀ i ∈ [Instr.clz d a wa, .ctz d a wa, .lhi d a wa imm], ∃ f, exec i s = .next (s.op1 d a wa f) := by
    intro i hi
    simp only [List.mem_cons, List.not_mem_nil, or_false] at hi
    rcases hi with rfl | rfl | rfl <;> exact ⟨_, rfl⟩
  refine ⟨fun h => ⟨⟨_, does_op1 (f := fun x => w64 (clzN x.toNat 64)) rfl h, ?clz⟩, ⟨_, does_op1 (f := fun x => w64 (ctzN x.toNat 0 64)) rfl h, ?ctz⟩,
    does_op1 (f := fun x => (x <<< 15) ||| immN imm) rfl h⟩, fun he hw hh i hi => ?_, fun hr hw i hi => ?_⟩
  case clz =>
    rw [toNat_w64_of_le (clzN_le _ _)]
    exact ⟨clzN_le _ _, fun i => clzN_zeros, clzN_one⟩
  case ctz =>
    rw [toNat_w64_of_le (ctzN_le _ _ _)]
    refine ⟨ctzN_le _ _ _, fun i hi => ?_, fun h => ?_⟩
    · rw [← Nat.zero_add i]; exact ctzN_zeros hi
    · have := ctzN_one h
      rwa [Nat.zero_add] at this
  · obtain ⟨f, hf⟩ := hforms i hi
    rw [hf, State.op1, State.issue_empty _ ((Core.emptyTrap_one _ _ _).trans (if_pos ⟨he, hw⟩)), State.trap_handles _ _ hh]
    rfl
  · obtain ⟨f, hf⟩ := hforms i hi
    rw [hf, State.op1, State.issue_unready _ (by simpa using hw) hr]

/-- Settles O6: PCREL reads no source. -/
theorem pcRelative : Obligations.PcRelative := by
  unfold Obligations.PcRelative
  refine ⟨fun s d imm => ⟨fun h => ⟨_, rfl, ?_⟩, fun h => congrArg _ (State.issue_unready (srcs := []) _ (by simp) h)⟩, by decide⟩
  rw [State.issue_ready (srcs := []) _ h, BitVec.mul_comm]
  exact wrote_result ..

/-- Settles O11: NOP completes with its core as it was. -/
theorem nopCompletes : Obligations.NopCompletes := fun _ => rfl

/-! ## BINS (R318) -/

section
variable {s : State} {d a b e : Reg} {wa wb : Bool} {v v' : W64}

/-- BINS whose three sources are full writes the field into x[d]. -/
theorem does_bins (h : s.me.ready [a, b, d] d = true) :
    Does (.bins d a b wa wb) s d (binsV (s.me.get d) (s.me.get a) (s.me.get b)) := by
  have hfull : (s.me.isFull a = true ∧ s.me.isFull b = true) ∧ s.me.isFull d = true := by
    simp only [Core.ready, Bool.and_eq_true, List.all_cons, List.all_nil] at h
    tauto
  have htrap : s.me.emptyTrap [(a, wa), (b, wb)] = none := Core.emptyTrap_of_full (by simp [hfull])
  have hwait : s.me.mustWait [(a, wa), (b, wb), (d, false)] d = false := Core.mustWait_of_ready h
  refine ⟨_, ?_, wrote_result ..⟩
  simp only [exec, execBins, htrap, hwait, Bool.false_eq_true, if_false]

theorem binsV_eq (x y z : W64) : binsV x y z =
    (x &&& ~~~BitVec.ofNat 64 ((2 ^ bfWidth z - 1) * 2 ^ bfPos z)) ||| ((y <<< bfPos z) &&& BitVec.ofNat 64 ((2 ^ bfWidth z - 1) * 2 ^ bfPos z)) := by
  rw [binsV, Nat.shiftLeft_eq]
  rfl

/-- The mask of a field of `n` bits at `p`. -/
theorem getLsbD_fieldMask (n p i : Nat) :
    (w64 ((2 ^ n - 1) <<< p)).getLsbD i = (decide (i < 64) && (decide (p ≤ i) && decide (i - p < n))) := by
  rw [w64, BitVec.getLsbD_ofNat, Nat.testBit_shiftLeft, Nat.testBit_two_pow_sub_one]

/-- The field that BEXT reads, written back where it was read. -/
theorem binsV_bextV (x z : W64) : binsV x (bextV x z) z = x := by
  refine BitVec.eq_of_getLsbD_eq fun i hi => ?_
  simp only [binsV, BitVec.getLsbD_or, BitVec.getLsbD_and, BitVec.getLsbD_not, BitVec.getLsbD_shiftLeft, getLsbD_fieldMask, decide_eq_true hi,
    Bool.true_and]
  by_cases hp : bfPos z ≤ i
  · by_cases hw : i - bfPos z < bfWidth z
    · rw [getLsbD_bextV x z (by omega), Nat.add_sub_cancel' hp]
      simp [hp, hw, Nat.not_lt.mpr hp]
    · simp [hw]
  · simp [hp]

/-- An instruction that has completed with x[e] := v has written no other value. -/
theorem Wrote.unique {t : State} (h : Wrote s t e v) (h' : Wrote s t e v') (he : e ≠ 0) : v = v' := by
  obtain ⟨c, hc, hv, -, -⟩ := h
  obtain ⟨c', hc', hv', -, -⟩ := h'
  have hx : c.x = c'.x := by
    have hme := congrArg (fun u => (State.me u).x) (hc.symm.trans hc')
    simpa using hme
  rw [if_neg he] at hv hv'
  rw [← hv, ← hv', Core.get_of_ne _ he, Core.get_of_ne _ he]
  simp only [hx]

/-- An instruction that waits has not completed. -/
theorem not_wrote_block : ¬ Wrote s s.block e v := by
  rintro ⟨c, hc, -⟩
  have hpc : s.block.me.pc = s.me.pc := by
    unfold State.block
    split
    · rfl
    · rw [State.me_setMe]
  rw [hc, State.me_setMe] at hpc
  simp at hpc

/-- What BEXT writes, where its sources are full. -/
theorem bextV_of_does (hfull : s.me.isFull d = true ∧ s.me.isFull b = true) (he : e ≠ 0) (h : Does (.bext e d b wa wb) s e v) :
    v = bextV (s.me.get d) (s.me.get b) := by
  obtain ⟨t, ht, hw⟩ := h
  cases hr : s.me.ready [d, b] e with
  | true =>
    obtain ⟨t', ht', hw'⟩ := does_op2 (i := .bext e d b wa wb) (f := bextV) rfl hr
    obtain rfl := Host.Outcome.next.inj (ht.symm.trans ht')
    exact hw.unique hw' he
  | false =>
    have hblock : exec (.bext e d b wa wb) s = .next s.block :=
      congrArg _ (State.issue_unready (srcs := [(d, wa), (b, wb)]) _ (by simp [hfull]) hr)
    obtain rfl := Host.Outcome.next.inj (ht.symm.trans hblock)
    exact absurd hw not_wrote_block

end

/-- Settles O5: the mask selects the field, and BEXT's value is the field it selects. -/
theorem bitFieldInsert : Obligations.BitFieldInsert := by
  unfold Obligations.BitFieldInsert
  refine ⟨fun s d a b wa wb h => ?_, by decide⟩
  have hfull : s.me.isFull d = true ∧ s.me.isFull b = true := by
    simp only [Core.ready, Bool.and_eq_true, List.all_cons, List.all_nil] at h
    tauto
  refine ⟨(does_bins h).of_eq ?_, fun e v he hx hv => (does_bins h).of_eq ?_⟩
  · rw [binsV_eq, bfPos_eq, bfWidth_eq]
  · rw [hv, bextV_of_does hfull he hx, binsV_bextV]

/-! ## Two sources, one of them empty (R240, R242) -/

/-- Of two sources, x[a] is looked at first, and a w bit of either governs a register that both name. -/
theorem Core.emptyTrap_two_fst {c : Core} {a b : Reg} {wa : Bool} (wb : Bool) (ha : c.isFull a = false) (hw : wa = true) :
    c.emptyTrap [(a, wa), (b, wb)] = some a := by
  simp [Core.emptyTrap, ha, hw]

theorem Core.emptyTrap_two_snd {c : Core} {a b : Reg} {wa wb : Bool} (ha : c.isFull a = true ∨ wa = false) (hb : c.isFull b = false)
    (hw : wb = true) : c.emptyTrap [(a, wa), (b, wb)] = some b := by
  subst hw
  by_cases hab : b = a
  · subst hab; simp [Core.emptyTrap, hb]
  · rcases ha with ha | rfl
    · simp [Core.emptyTrap, ha, hb]
    · cases hf : c.isFull a <;> simp [Core.emptyTrap, hf, hb, hab]

/-- Each form of `twoSource` traps as its two sources say, and waits where one of them, with no trap, is empty. -/
theorem exec_twoSource {s : State} {d a b : Reg} {wa wb : Bool} {i : Instr} (hi : i ∈ twoSource d a b wa wb) :
    (∀ r, s.me.emptyTrap [(a, wa), (b, wb)] = some r → exec i s = .next (s.trap causeEmpty (w64 r.toNat))) ∧
    (s.me.emptyTrap [(a, wa), (b, wb)] = none → s.me.isFull a = false ∨ s.me.isFull b = false → exec i s = .next s.block) := by
  have hforms : i = .bins d a b wa wb ∨ ∃ f, exec i s = .next (s.op2 d a b wa wb f) := by
    simp only [twoSource, List.mem_cons, List.not_mem_nil, or_false] at hi
    rcases hi with rfl | rfl | rfl | rfl | rfl | rfl | rfl | rfl | rfl | rfl | rfl | rfl | rfl | rfl | rfl | rfl | rfl | rfl | rfl | rfl
      | rfl | rfl | rfl | rfl
    case inr.inr.inr.inr.inr.inr.inr.inr.inr.inr.inr.inr.inr.inr.inr.inr.inl => exact .inl rfl
    all_goals exact .inr ⟨_, rfl⟩
  have hempty : ∀ l : List (Reg × Bool), s.me.isFull a = false ∨ s.me.isFull b = false →
      s.me.mustWait ((a, wa) :: (b, wb) :: l) d = true := by
    rintro l (h | h) <;> simp [Core.mustWait, h]
  rcases hforms with rfl | ⟨f, hf⟩
  · refine ⟨fun r hr => ?_, fun hn h => ?_⟩
    · simp only [exec, execBins, hr]
    · simp only [exec, execBins, hn, hempty _ h, if_true]
  · refine ⟨fun r hr => ?_, fun hn h => ?_⟩
    · rw [hf, State.op2, State.issue_empty _ hr]
    · rw [hf, State.op2, State.issue_wait _ hn (hempty _ h)]

theorem State.block_first {s : State} (h : s.me.wait = none) : s.block = s.setMe { s.me with wait := some (s.now s.cur) } := by
  rw [State.block, h]

/-- Settles O8: the trap is that of the first empty source that a w bit governs, and what must wait waits from its first cycle. -/
theorem emptySource : Obligations.EmptySource := by
  unfold Obligations.EmptySource
  intro s d a b wa wb
  have hnone : (s.me.isFull a = true ∨ wa = false) → (s.me.isFull b = true ∨ wb = false) → s.me.emptyTrap [(a, wa), (b, wb)] = none :=
    fun ha hb => Core.emptyTrap_none (by simpa using ⟨ha, hb⟩)
  refine ⟨fun i hi => ⟨fun hh ha hw => ?_, fun hh ha hb hw => ?_, fun ha hb he hw => ?_⟩, fun ha hb hd hw => ?_⟩
  · exact ((exec_twoSource hi).1 _ (Core.emptyTrap_two_fst wb ha hw)).trans (congrArg _ (State.trap_handles _ _ hh))
  · exact ((exec_twoSource hi).1 _ (Core.emptyTrap_two_snd ha hb hw)).trans (congrArg _ (State.trap_handles _ _ hh))
  · exact ((exec_twoSource hi).2 (hnone ha hb) he).trans (congrArg _ (State.block_first hw))
  · have hwait : s.me.mustWait [(a, wa), (b, wb), (d, false)] d = true := by simp [Core.mustWait, hd]
    simp only [exec, execBins, hnone ha hb, hwait, if_true]
    exact congrArg _ (State.block_first hw)

end Sys2Proof.Machine

/-! R315, R346, R248: branches and jumps. -/

namespace Sys2Proof.Machine

section
variable {s : State} {d a b : Reg} {wa : Bool} {off : BitVec 12} {imm : BitVec 15}

/-- A branch whose two registers are full goes where its condition says. -/
theorem State.branch_ready (cond : W64 → W64 → Bool) (h : s.me.ready [a, b] 0 = true) : s.branch a b off cond =
    if cond (s.me.get a) (s.me.get b) then s.goTo (s.me.pc + off.signExtend 64 * 4) else s.past :=
  State.issue_ready (srcs := [(a, false), (b, false)]) _ h

theorem State.presenceBranch_eq (taken : Bool) :
    s.presenceBranch taken off = if taken then s.goTo (s.me.pc + off.signExtend 64 * 4) else s.past := rfl

/-- A JMPR whose source is full looks at its target before it writes. -/
theorem exec_jmpr_ready (h : s.me.ready [a] d = true) : exec (.jmpr d a wa imm) s =
    .next (if bits (s.me.get a + wordOff imm) 1 0 != 0 then s.trap causeMisaligned (s.me.get a + wordOff imm)
      else s.jump (s.me.put d (s.me.pc + 4)) (s.me.get a + wordOff imm)) :=
  congrArg _ (State.issue_ready (srcs := [(a, wa)]) _ h)

end

/-- Settles O7: the condition of each branch, and where a jump leaves the address after it. -/
theorem branchesAndJumps : Obligations.BranchesAndJumps := by
  unfold Obligations.BranchesAndJumps
  intro s d a b wa off far imm
  refine ⟨fun h => ?branches, rfl, ?empty, rfl, fun h => ⟨_, ?jmpl, wroteTo_jump ..⟩, fun h hal => ⟨_, ?jmpr, wroteTo_jump ..⟩,
    fun h hal hh => ?misaligned⟩
  case branches =>
    have hb := fun cond => State.branch_ready (off := off) cond h
    refine ⟨congrArg _ (.trans (hb _) ?_), congrArg _ (.trans (hb _) ?_), congrArg _ (.trans (hb _) ?_), congrArg _ (.trans (hb _) ?_),
      congrArg _ (.trans (hb _) ?_), congrArg _ (.trans (hb _) ?_)⟩
    · simp only [beq_iff_eq]
    · simp only [bne_iff_ne, ite_not]
    · simp only [ltS_iff]
    · simp only [Bool.not_eq_true', ← Bool.not_eq_true, ltS_iff, ite_not]
    · simp only [ltN_iff]
    · simp only [Bool.not_eq_true', ← Bool.not_eq_true, ltN_iff, ite_not]
  case empty =>
    refine congrArg _ ((State.presenceBranch_eq _).trans ?_)
    simp only [Bool.not_eq_true', ← Bool.not_eq_true, ite_not]
  case jmpl => exact congrArg _ (State.issue_ready (srcs := []) _ h)
  case jmpr =>
    rw [exec_jmpr_ready h, if_neg]
    · rfl
    · rw [bits_low, bne_iff_ne, not_not]; exact hal
  case misaligned =>
    rw [exec_jmpr_ready h, if_pos, State.trap_handles _ _ hh]
    · rfl
    · rw [bits_low, bne_iff_ne]; exact hal

end Sys2Proof.Machine

/-! R309: the word that an AMO leaves. -/

namespace Sys2Proof.Machine

/-- The number of an n-bit word, read as a signed integer. -/
theorem sgn_toNat {n : Nat} (m : BitVec n) : sgn m.toNat n = m.toInt := by
  have hlow : m.toNat % 2 ^ n = m.toNat := Nat.mod_eq_of_lt m.isLt
  have htop : m.toNat >>> (n - 1) % 2 = 1 ↔ m.msb = true := by
    rw [BitVec.msb_eq_getLsbD_last, ← BitVec.testBit_toNat, Nat.testBit_eq_decide_div_mod_eq, decide_eq_true_iff, Nat.shiftRight_eq_div_pow]
  rw [sgn, hlow, BitVec.toInt_eq_msb_cond]
  simp only [htop]

/-- Settles O9: sums wrap, the signed comparisons are those of integers, and the rest is that of numbers. -/
theorem amoResults : Obligations.AmoResults := by
  unfold Obligations.AmoResults
  intro n m v _
  refine ⟨rfl, rfl, rfl, rfl, ?_, ?_, rfl, ?_, rfl, rfl⟩
  · simp only [amoNew, sgn_toNat]
    split <;> rfl
  · simp only [amoNew, sgn_toNat]
    split <;> rfl
  · simp only [amoNew, Nat.max_def]

end Sys2Proof.Machine

/-! R204, R392, R395: SYS and TRET. -/

namespace Sys2Proof.Machine

theorem State.trapReturn_outside {s : State} (h : s.me.tm = false) : s.trapReturn = s.trap causeSync 0 := by
  simp only [State.trapReturn, h, Bool.not_false, if_true]

theorem State.trapReturn_inside {s : State} (h : s.me.tm = true) (hal : s.me.kepc.toNat % 4 = 0) :
    s.trapReturn = s.jump { s.me with tm := false } s.me.kepc := by
  have hbits : (bits s.me.kepc 1 0 != 0) = false := by rw [bits_low, bne_eq_false_iff_eq]; exact hal
  simp only [State.trapReturn, h, hbits, Bool.not_true, Bool.false_eq_true, if_false]

/-- Settles O10: SYS traps past itself, and TRET looks at the trap mode first. -/
theorem sysAndTret : Obligations.SysAndTret := by
  unfold Obligations.SysAndTret
  intro s n
  refine ⟨fun hh => ⟨?_, ?_⟩, fun htm hal => congrArg _ (State.trapReturn_inside htm hal)⟩
  · refine congrArg Host.Outcome.next ((State.trap_handles causeSys _ hh).trans ?_)
    have hval : w64 (0x040 + n.toNat) = 0x040 + n.setWidth 64 := BitVec.eq_of_toNat_eq (by simp [w64])
    rw [hval]
    rfl
  · obtain ⟨htm, -⟩ := (Core.handles_iff _).mp hh
    exact congrArg Host.Outcome.next ((State.trapReturn_outside htm).trans (State.trap_handles causeSync _ hh))

end Sys2Proof.Machine

/-! R308 to R413: words of the entries. -/

namespace Sys2Proof.Machine

/-- Settles O57: each word, decoded. -/
theorem sampleWords : Obligations.SampleWords := by
  unfold Obligations.SampleWords
  decide

end Sys2Proof.Machine

/-! R241, R247, R310, R311, R351, R352, R387, R389, R391, R406: the issue of the accesses of the load-store port. -/

namespace Sys2Proof.Machine

section
variable {s : State} {a : Access} {pa : Nat} {trc fmt : Bool}

/-- An access that its home admits, and that neither poison nor an earlier access stops, enters the port. -/
theorem State.access_reaches (h : s.reaches a pa trc fmt) (hacked : a.kind = .stfe → s.me.storesAcked = true) :
    s.access s.me a = s.pushAccess s.me { a with pa := pa, trc := trc } := by
  obtain ⟨htr, hlimit, hpoison, hstall⟩ := h
  have hwaits : (a.kind == .stfe && !s.me.storesAcked) = false := by
    cases hk : a.kind == .stfe
    · rfl
    · rw [hacked (eq_of_beq hk)]; rfl
  unfold State.access
  simp only [State.refill_of_ok htr, htr, hlimit, hwaits, hpoison, hstall, Bool.false_eq_true, if_false]

/-- What entering the port changes of a core. -/
theorem Core.entered_eq (c : Core) (a : Access) : c.entered a =
    { (if a.pends a.dst then c.mkEmpty a.dst else c).didWrite a with
      port := ((if a.pends a.dst then c.mkEmpty a.dst else c).didWrite a).port ++ [a]
      nextId := ((if a.pends a.dst then c.mkEmpty a.dst else c).didWrite a).nextId + 1, tried := none } := by
  unfold Core.entered Core.didWrite
  by_cases hp : a.pends a.dst = true
  · have hd : a.dst ≠ 0 := by
      simp only [Access.pends, Bool.and_eq_true, bne_iff_ne] at hp
      exact hp.1.1
    rw [if_pos hp, if_pos hp, Core.mkEmpty, if_neg hd]
    split <;> rfl
  · rw [if_neg hp, if_neg hp]
    split <;> rfl

/-- An access in the port is what its core then waits for, or completes its instruction. -/
theorem State.pushAccess_issued : s.pushAccess s.me { a with pa := pa, trc := trc } =
    if a.kind.holds then
      s.setMe { s.me.entered (s.issued a pa trc) with hold := .access s.me.nextId, wait := some (s.now s.cur) }
    else s.finish (s.me.entered (s.issued a pa trc)) := by
  rw [Core.entered_eq]
  rfl

/-- An aligned access that reaches its home enters the port, and completes its instruction where it does not hold the core. -/
theorem State.aligned_enters {va : W64} {n : Nat} (hal : va.toNat % n = 0) (h : s.reaches a pa trc fmt)
    (hacked : a.kind = .stfe → s.me.storesAcked = true) (hk : a.kind.holds = false) : s.aligned va n (s.access s.me a) =
      s.setMe { s.me.entered (s.issued a pa trc) with pc := s.me.pc + 4, wait := none } := by
  rw [State.aligned, if_neg (by simp [hal]), State.access_reaches h hacked, State.pushAccess_issued, if_neg (by simp [hk])]
  rfl

/-- An aligned access that reaches its home and holds its core. -/
theorem State.aligned_holds {va : W64} {n : Nat} (hal : va.toNat % n = 0) (h : s.reaches a pa trc fmt)
    (hacked : a.kind = .stfe → s.me.storesAcked = true) (hk : a.kind.holds = true) : s.aligned va n (s.access s.me a) =
      s.setMe { s.me.entered (s.issued a pa trc) with hold := .access s.me.nextId, wait := some (s.now s.cur) } := by
  rw [State.aligned, if_neg (by simp [hal]), State.access_reaches h hacked, State.pushAccess_issued, if_pos hk]

end

/-- R351, R352, R387, R389, R391, R406: loads and stores enter the port. -/
theorem loadsAndStoresIssue : Pieces.LoadsAndStoresIssue := by
  intro s t a wa ord sz sc sz2 imm pa trc fmt
  refine ⟨fun hr hwf hal h => ?ld, fun hr hwf hal hacked h => ?st, fun hr hwf hal hstas h => ?sta, fun hr hal hacked h => ?stfe,
    fun hr hal h => ?ldfe, fun d b hr hal h => ?waitf⟩
  case ld =>
    exact congrArg Host.Outcome.next ((if_neg (by simp [hwf])).trans
      ((State.issue_ready (srcs := [(a, wa)]) _ hr).trans (State.aligned_enters hal h nofun rfl)))
  case st =>
    refine congrArg Host.Outcome.next ((if_neg (by simp [hwf])).trans
      ((State.issue_ready (srcs := [(a, wa), (t, wa)]) _ hr).trans (.trans ?_ (State.aligned_enters hal h nofun rfl))))
    exact congrArg (s.aligned _ _) (if_neg (by simp [hacked]))
  case sta =>
    refine congrArg Host.Outcome.next ((if_neg (by simp [hwf])).trans
      ((State.issue_ready (srcs := [(a, wa), (t, wa)]) _ hr).trans (.trans ?_ (State.aligned_enters hal h nofun rfl))))
    exact congrArg (s.aligned _ _) (if_neg (Nat.not_le.mpr hstas))
  case stfe =>
    exact congrArg Host.Outcome.next ((State.issue_ready (srcs := [(a, wa), (t, wa)]) _ hr).trans
      (State.aligned_enters hal h (fun _ => hacked) rfl))
  case ldfe =>
    exact congrArg Host.Outcome.next ((State.issue_ready (srcs := [(a, wa)]) _ hr).trans (State.aligned_holds hal h nofun rfl))
  case waitf =>
    exact congrArg Host.Outcome.next
      ((State.issue_ready (srcs := [(a, false), (b, false)]) _ hr).trans (State.aligned_holds hal h nofun rfl))

/-- An AMO whose registers can be read and written goes on with its access. -/
theorem State.amo_ready {s : State} {op : AmoOp} {i : Instr} {d a b : Reg} {wa wb wide : Bool} {sc : BitVec 3} (hwf : i.wf = true)
    (hr : s.me.ready (if op = .cas then [a, b, d] else [a, b]) d = true) : s.amo op i d a b wa wb wide sc =
      s.aligned (s.me.get a) (if wide then 8 else 4) (s.access s.me { mkAccess (.amo op) (s.me.get a) (if wide then 8 else 4) d with
        data := storeVal (if wide then 8 else 4) (s.me.get b), cmp := storeVal (if wide then 8 else 4) (s.me.get d), sc := sc.toNat }) := by
  have hsrcs : (([(a, wa), (b, wb)] ++ if op == .cas then [(d, false)] else []).map (·.1)) = if op = .cas then [a, b, d] else [a, b] := by
    by_cases h : op = .cas <;> simp [h]
  have hwait := Core.mustWait_of_ready (hsrcs ▸ hr)
  have hfull : s.me.isFull a = true ∧ s.me.isFull b = true := by
    split at hr <;> simp only [Core.ready, Bool.and_eq_true, List.all_cons, List.all_nil] at hr <;> tauto
  have htrap : s.me.emptyTrap [(a, wa), (b, wb)] = none := Core.emptyTrap_of_full (by simp [hfull])
  unfold State.amo
  simp only [hwf, htrap, hwait, Bool.not_true, Bool.false_eq_true, if_false]

/-- R310, R311: an AMO of any operation enters the port. -/
theorem amosIssue : Pieces.AmosIssue := by
  intro s d a b wa wb wide sc pa trc fmt p hp
  dsimp only
  intro hsc hr hal h
  obtain ⟨hexec, hwf⟩ := exec_amos (s := s) hp
  rw [hexec, State.amo_ready (hwf.trans (decide_eq_true hsc)) hr]
  exact congrArg _ (State.aligned_enters hal h nofun rfl)

/-- Settles O39: once its registers, its address and its home let it, an access enters the port as it is. -/
theorem accessesIssue : Obligations.AccessesIssue := ⟨loadsAndStoresIssue, amosIssue⟩

end Sys2Proof.Machine

/-! R108, R227, R338, R342, R345, R394, R405: barriers, HALT and timed issue. -/

namespace Sys2Proof.Machine

section
variable {s : State} {n : Nat}

/-! ## Barriers -/

theorem exec_fenceAcq {sc : BitVec 3} (h : sc.toNat ≤ 5) : exec (.fenceAcq sc) s =
    .next (if s.me.acquired then s.finish (s.me.acquireAt s.cur sc.toNat) else s.setMe { s.me with wait := none }) :=
  congrArg _ (if_neg (by simp [Instr.wf, scopeOk, h]))

theorem exec_fenceRel {sc : BitVec 3} (h : sc.toNat ≤ 5) : exec (.fenceRel sc) s =
    .next (if s.me.fenced sc.toNat then s.finish (s.me.relFence sc.toNat) else s.setMe { s.me with wait := none }) :=
  congrArg _ (if_neg (by simp [Instr.wf, scopeOk, h]))

/-- VFENCE of an empty vector unit completes: it has no source and no destination that it could wait for. -/
theorem exec_vfence_idle (h : s.me.vq = []) : exec .vfence s = .next (s.finish s.me.vecFenced) :=
  congrArg _ ((State.issue_ready (srcs := []) _ rfl).trans (if_neg (by simp [Core.busy, h])))

/-- HALT of a running partition begins its gating (R342). -/
theorem exec_halt_runs {k : Nat} (hp : s.me.priv = true) (hk : s.me.partKey = some k) (hrun : (s.part k).st = .run) :
    exec .halt s = .next ((s.past.setPart k { (s.part k).pause s.time with st := .gating }).spillPart k) := by
  have hst : ((s.past.part k).st == .run) = true := beq_iff_eq.mpr hrun
  simp only [exec, execHalt, hp, hk, State.finish_me, State.gate, hst, Bool.not_true, Bool.false_eq_true, if_false, if_true]
  rfl

/-! ## Timed issue -/

theorem State.rate_pos (s : State) (k : Nat) : 0 < s.rate k := by
  unfold State.rate
  dsimp only
  split <;> split <;> decide

/-- An edge at or past an instant is not before it (R227). -/
theorem State.le_edgeAt (s : State) (k d : Nat) : d ≤ s.edgeAt k d := by
  have hr := s.rate_pos k
  unfold State.edgeAt State.edges
  dsimp only
  split
  · exact le_rfl
  · rw [Nat.le_div_iff_mul_le hr, Nat.mul_comm d]
    omega

/-- TIMEDGO_RELEASE lets a core go on from its edge on. -/
theorem exec_timedgoRelease_holds {t : W64} {since : Nat} (hh : (s.core n).hold = .timedgo t since) (hr : s.unitRuns n .core = true) :
    exec (.timedgoRelease n) s = .next (if s.devTime (nWafer n) < s.goEdge n t since then s
      else s.setCore n { (s.core n).learnt with hold := .none, pc := (s.core n).pc + 4, go := true }) := by
  simp only [exec, execTimedgoRelease, hh, hr, Bool.and_true, decide_eq_true_eq]
  split
  · next hle => rw [if_neg (Nat.not_lt.mpr hle)]
  · next hgt => rw [if_pos (Nat.lt_of_not_le hgt)]

end

/-- Settles O12: each barrier by what it waits for, and the edge of TIMEDGO by the rate of its field's clock, which is never 0. -/
theorem orderAndTime : Obligations.OrderAndTime := by
  unfold Obligations.OrderAndTime
  intro s a sc hsc
  exact ⟨rfl, exec_fenceAcq hsc, exec_fenceRel hsc, exec_vfence_idle, fun k => exec_halt_runs,
    fun h => congrArg _ (State.issue_ready (srcs := [(a, false)]) _ h), fun n t since => exec_timedgoRelease_holds,
    fun n t since => State.le_edgeAt ..⟩

end Sys2Proof.Machine

/-! R50, R51, R225, R393, R405, R407: what a core reads of the time, of its vector unit and of its node's predecessors. -/

namespace Sys2Proof.Machine

section
variable {s : State} {d : Reg} {st : Strand} {sh : Sheaf}

theorem exec_time_ready (h : s.me.ready [] d = true) :
    exec (.time d) s = .next (s.readTime.result s.readTime.me d (w64 (s.timeFor s.cur))) :=
  congrArg _ (State.issue_ready (srcs := []) _ h)

/-- KTIME reads what TIME reads (R225). -/
theorem exec_krd_ktime (h : s.me.ready [] d = true) :
    exec (.krd d 0x0C3) s = .next (s.result { s.me.learnt with lastTime := s.timeFor s.cur } d (w64 (s.timeFor s.cur))) := by
  have hk : kregOf (0x0C3 : BitVec 12).toNat = some .ktime := rfl
  have hc : (KReg.ktime.readPriv && !s.me.priv) = false := rfl
  simp only [exec, execKrd, hk, hc, Bool.false_eq_true, if_false, State.issue_ready (srcs := []) _ h, beq_self_eq_true, if_true]
  rfl

theorem exec_vbusy_ready (h : s.me.ready [] d = true) : exec (.vbusy d) s = .next (s.result s.me d (truth s.me.busy)) :=
  congrArg _ (State.issue_ready (srcs := []) _ h)

/-- WAITPRED, its predecessors done, acquires and reads their status. -/
theorem exec_waitpred_done (h : s.me.ready [] d = true) (hst : s.me.strand = some st) (hsh : mfind s.sheaves st.ref.sheaf = some sh)
    (hd : ∀ p ∈ sh.preds st.ref.node, (sh.nodeAt p).st = .done) :
    exec (.waitpred d) s = .next (s.result (sh.acquired s.me s.cur st.ref.node) d (sh.predStatus st.ref.node)) := by
  have hdone : sh.predsDone st.ref.node = true := List.all_eq_true.mpr fun p hp => beq_iff_eq.mpr (hd p hp)
  simp only [exec, execWaitpred, State.issue_ready (srcs := []) _ h, hst, hsh, hdone, if_true]

/-- The least number so far, after one more. -/
def leastOf (m : Option Nat) (p : Nat) : Option Nat :=
  match m with
  | some q => some (min p q)
  | none => some p

theorem Sheaf.badPred_eq (sh : Sheaf) (node : Nat) :
    sh.badPred node = ((sh.preds node).filter fun p => (sh.nodeAt p).abn).foldl leastOf none := rfl

theorem foldl_leastOf {p : Nat} {l : List Nat} {m : Option Nat} (hp : m = some p ∨ p ∈ l) (hl : ∀ q ∈ l, p ≤ q)
    (hm : ∀ q, m = some q → p ≤ q) : l.foldl leastOf m = some p := by
  induction l generalizing m with
  | nil => exact hp.resolve_right List.not_mem_nil
  | cons a l ih =>
    have ha : p ≤ a := hl a List.mem_cons_self
    refine ih ?_ (fun q hq => hl q (List.mem_cons_of_mem _ hq)) ?_
    · rcases hp with rfl | hp
      · exact .inl (congrArg some (Nat.min_eq_right ha))
      · rcases List.mem_cons.mp hp with rfl | hp
        · cases m with
          | none => exact .inl rfl
          | some q => exact .inl (congrArg some (Nat.min_eq_left (hm q rfl)))
        · exact .inr hp
    · cases m with
      | none => rintro q ⟨⟩; exact ha
      | some q => rintro r ⟨⟩; exact Nat.le_min.mpr ⟨ha, hm q rfl⟩

theorem Sheaf.predStatus_normal {node : Nat} (h : ∀ p ∈ sh.preds node, (sh.nodeAt p).abn = false) : sh.predStatus node = 0 := by
  have hnone : ((sh.preds node).filter fun p => (sh.nodeAt p).abn) = [] :=
    List.filter_eq_nil_iff.mpr fun p hp => by rw [h p hp]; exact Bool.false_ne_true
  have hbad : sh.badPred node = none := by rw [Sheaf.badPred_eq, hnone]; rfl
  rw [Sheaf.predStatus, hbad]

theorem Sheaf.predStatus_abnormal {node p : Nat} (hp : p ∈ sh.preds node) (ha : (sh.nodeAt p).abn = true)
    (hl : ∀ q ∈ sh.preds node, (sh.nodeAt q).abn = true → p ≤ q) : sh.predStatus node = 1 + BitVec.ofNat 64 p := by
  have hbad : sh.badPred node = some p := by
    rw [Sheaf.badPred_eq]
    refine foldl_leastOf (.inr (List.mem_filter.mpr ⟨hp, ha⟩)) (fun q hq => ?_) nofun
    obtain ⟨hq, hqa⟩ := List.mem_filter.mp hq
    exact hl q hq hqa
  rw [Sheaf.predStatus, hbad]
  exact BitVec.ofNat_add ..

end

/-- Settles O13: the time is that of the core, VBUSY looks at its commands, and WAITPRED takes the least of the abnormal predecessors. -/
theorem readsOfTheMachine : Obligations.ReadsOfTheMachine := by
  unfold Obligations.ReadsOfTheMachine
  intro s d h
  refine ⟨⟨_, exec_time_ready h, wrote_result ..⟩, ⟨_, exec_krd_ktime h, wrote_result_of ..⟩, ⟨_, exec_vbusy_ready h, ?vbusy⟩,
    fun st sh hst hsh hd => ⟨fun hn => ⟨_, exec_waitpred_done h hst hsh hd, ?normal⟩,
      fun p hp ha hl => ⟨_, exec_waitpred_done h hst hsh hd, ?abnormal⟩⟩, fun st hst => ?hint⟩
  case vbusy =>
    have hv : truth s.me.busy = if s.me.vq = [] then 0 else 1 := by
      cases hq : s.me.vq <;> simp [truth, Core.busy, hq]
    rw [← hv]
    exact wrote_result ..
  case normal =>
    rw [Sheaf.predStatus_normal hn]
    exact wrote_result_of ..
  case abnormal =>
    rw [Sheaf.predStatus_abnormal hp ha hl]
    exact wrote_result_of ..
  case hint =>
    simp only [exec, execHintsucc, hst]
    rfl

end Sys2Proof.Machine

/-! R49, R312, R335, R360, R385: a command to a queue, messages to a bound graph, and a register of another core. -/

namespace Sys2Proof.Machine

section
variable {s : State} {d a b : Reg} {c : Core}

/-! ## ENQ -/

/-- ENQ of a legal scope, its queue named, its address aligned and in the QSP, the queue with room and the kick released, appends the
command that it reads at once. -/
theorem exec_enq_appends {sc : BitVec 3} {pa : Nat} {trc fmt : Bool} (h : s.me.ready [a, b] 0 = true) (hsc : sc.toNat ≤ 5)
    (hrel : s.me.released sc.toNat = true) (hq : queueNameOk (s.me.get b) = true) (hal : (s.me.get a).toNat % 32 = 0)
    (hlo : localBase ≤ (s.me.get a).toNat) (hhi : (s.me.get a).toNat < localBase + 0x40000)
    (hroom : (s.queue (queueOf s.cur (s.me.get b))).cmds.length < 32) (hat : (s.near (s.me.get a)).atOnce (s.me.get a) 32 0 pa trc fmt) :
    let u := s.near (s.me.get a)
    let q := queueOf s.cur (s.me.get b)
    exec (.enq a b sc) s = .next (({ u with serial := u.serial + 1 }.setQueue q { u.queue q with
      cmds := (u.queue q).cmds ++ [QCmd.mk (u.readCmd pa) s.cur s.me.priv s.me.kasid.toNat s.me.ref sc.toNat false 0 true 0 0 u.serial 1 1] }).finish
        u.me.learnt) := by
  have hwf : (!(Instr.enq a b sc).wf) = false := by simpa [Instr.wf, scopeOk] using hsc
  have hbits : (bits (s.me.get a) 4 0 != 0) = false := by simpa [bits_low] using hal
  have hqsp : (!(decide (localBase ≤ (s.me.get a).toNat) && decide ((s.me.get a).toNat < localBase + 0x40000))) = false := by
    simp [hlo, hhi]
  have hfree : ¬ (s.queue (queueOf s.cur (s.me.get b))).cmds.length ≥ queueDepth := Nat.not_le.mpr hroom
  simp only [exec, execEnq, hwf, State.issue_ready (srcs := [(a, false), (b, false)]) _ h, hq, hbits, hqsp, hfree, hrel, Bool.not_true,
    Bool.false_eq_true, if_false, State.reach_atOnce _ rfl hat, State.near_cur]

/-! ## AMSG and MARKE -/

theorem graphName_ok {g : W64} (h0 : g ≠ 0) (hlt : g.toNat < 65536) : (bits g 63 16 != 0 || decide (g = 0)) = false := by
  have hb : bits g 63 16 = 0 := by
    rw [bits, Nat.shiftRight_eq_div_pow, Nat.div_eq_of_lt hlt, Nat.zero_mod]
  exact Bool.or_eq_false_iff.mpr ⟨by rw [hb]; rfl, decide_eq_false h0⟩

/-- A message to a bound graph reaches its port, where the core has none waiting for it. -/
theorem State.message_bound {st : Strand} {g x y : W64} {eos : Bool} {j : Nat} (hst : c.strand = some st) (h0 : g ≠ 0)
    (hlt : g.toNat < 65536) (hw : ∀ m ∈ (s.field (nField s.cur)).msgq, m.core ≠ s.cur ∨ m.graph ≠ g.toNat)
    (hj : s.graphOf (shPartKey st.ref.sheaf) g.toNat = some j) :
    s.message c g x y eos =
      (s.modResid j fun r => { r with msgs := r.msgs ++ (Msg.mk g.toNat x y eos s.cur st.ref.sheaf).toks }).finish c.learnt := by
  have hnone : ((s.field (nField s.cur)).msgq.any fun m =>
      m.core == s.cur && m.graph == g.toNat && shPartKey m.sheaf == shPartKey st.ref.sheaf) = false := by
    rw [List.any_eq_false]
    intro m hm
    rcases hw m hm with h | h <;> simp [h]
  simp only [State.message, graphName_ok h0 hlt, Bool.false_eq_true, if_false, hst, hnone, hj]

/-- A message to an unbound graph waits in the field's queue, where that has room. -/
theorem State.message_unbound {st : Strand} {g x y : W64} {eos : Bool} (hst : c.strand = some st) (h0 : g ≠ 0)
    (hlt : g.toNat < 65536) (hn : s.graphOf (shPartKey st.ref.sheaf) g.toNat = none)
    (hroom : (s.field (nField s.cur)).msgq.length < 256) :
    s.message c g x y eos = (s.setField (nField s.cur) { s.field (nField s.cur) with
      msgq := (s.field (nField s.cur)).msgq ++ [Msg.mk g.toNat x y eos s.cur st.ref.sheaf] }).finish c.learnt := by
  have hr : (s.field (nField s.cur)).msgq.length < msgRoom := hroom
  simp only [State.message, graphName_ok h0 hlt, Bool.false_eq_true, if_false, hst, hn, ite_self, hr, if_true]

theorem exec_amsg_ready (h : s.me.ready [d, a, b] 0 = true) :
    exec (.amsg d a b) s = .next (s.message s.me (s.me.get d) (s.me.get a) (s.me.get b) false) :=
  congrArg _ (State.issue_ready (srcs := [(d, false), (a, false), (b, false)]) _ h)

theorem exec_marke_ready (h : s.me.ready [a] 0 = true) : exec (.marke a) s = .next (s.message s.me (s.me.get a) 0 0 true) :=
  congrArg _ (State.issue_ready (srcs := [(a, false)]) _ h)

/-! ## RMOV -/

theorem exec_rmov_sends {n : BitVec 5} (h : s.me.ready [a, b] 0 = true) (hok : s.coreOk (s.me.get a) = true)
    (ht : s.me.sameTeam (s.core (s.me.get a).toNat) = true) :
    exec (.rmov a b n) s = .next { s with sends := s.sends ++ [Send.mk s.cur (s.me.get a).toNat n (s.me.get b)] }.past := by
  simp only [exec, execRmov, State.issue_ready (srcs := [(a, false), (b, false)]) _ h, hok, ht, Bool.not_true, Bool.or_self,
    Bool.false_eq_true, if_false]
  exact congrArg _ (State.finish_me { s with sends := s.sends ++ [Send.mk s.cur (s.me.get a).toNat n (s.me.get b)] })

end

/-- Settles O16. -/
theorem commandsAndMessages : Obligations.CommandsAndMessages := by
  unfold Obligations.CommandsAndMessages
  intro s d a b sc
  refine ⟨fun h hsc hrel hq hal hlo hhi hroom pa trc fmt hat => exec_enq_appends h hsc hrel hq hal hlo hhi hroom hat,
    fun st hst => ⟨fun h h0 hlt => ⟨fun j hw hj => ?_, fun hn hroom => ?_⟩, fun h h0 hlt => ⟨fun j hw hj => ?_, fun hn hroom => ?_⟩⟩,
    fun n h hok ht => exec_rmov_sends h hok ht⟩
  · rw [exec_amsg_ready h, State.message_bound hst h0 hlt hw hj]
  · rw [exec_amsg_ready h, State.message_unbound hst h0 hlt hn hroom]
  · rw [exec_marke_ready h, State.message_bound hst h0 hlt hw hj]
  · rw [exec_marke_ready h, State.message_unbound hst h0 hlt hn hroom]

end Sys2Proof.Machine

/-! R373, R374, R379, R383: what a fabric reads and writes of memory. -/

namespace Sys2Proof.Machine

section
variable {s t : State} {w : W64} {k x n pa : Nat} {va : W64} {trc : Bool}

/-! ## One access -/

/-- What an access that reaches its bytes at `pa` answers: those read, or the state in which they are written. -/
def State.fabAnswer (s : State) (k x pa n : Nat) (trc : Bool) : Option (List (Byte × Bool)) → State × List (Byte × Bool)
  | some bs => (s.write pa bs ⟨3, (s.fabAgent k x).1, (s.fabAgent k x).2, trc, 0⟩, [])
  | none => (s, s.readRun pa n)

/-- An access of good address that reaches its bytes. -/
theorem State.fabAccess_reaches (wr : Option (List (Byte × Bool))) (f : GenFault)
    (h : s.fabReaches k x va n (if wr.isSome then 1 else 0) pa trc) :
    s.fabAccess k x va false n wr f = .ok (s.fabAnswer k x pa n trc wr) := by
  obtain ⟨hskip, hal, ⟨fmt, htr⟩, hback, hwin⟩ := h
  simp only [State.fabAccess, hskip, hal, htr, hback, Bool.false_eq_true, if_false, ne_eq, not_true_eq_false]
  cases wr <;> rfl

/-! ## PLD and PST -/

section
variable {ts : List Tok} {ops : List Opnd}

/-- The act of PLD and PST makes its access on the operands of the firing. -/
theorem State.portOp_fires {go : Seat → List OutP → Opnd → Opnd → State → State} (h : s.fires w true ts t) (ho : readOps w 0xE ts = some ops) :
    s.portOp w go = go s.seat (s.outs s.seat.k s.seat.b) (nth ops 0 ⟨.nan, 0, false⟩) (nth ops 1 ⟨.nan, 0, false⟩) t := by
  rw [State.portOp, State.operate_fires s t w true ts _ _ _ h (by rw [ho]; rfl), h.ops, ho]

theorem exec_pld (h : s.fires w true ts t) (ho : readOps w 0xE ts = some ops) (hb : (nth ops 0 ⟨.nan, 0, false⟩).bad = false)
    (hop : wOp w = 0x20) (hr : t.fabReaches s.seat.k s.seat.x (w64 (nth ops 0 ⟨.nan, 0, false⟩).raw) (memSize (wTy w)) 0 pa trc) :
    exec (.pld w) s = .next (s.ended t [memTok (wTy w) (t.readRun pa (memSize (wTy w)))]) := by
  refine congrArg Host.Outcome.next ?_
  rw [State.portOp_fires h ho, hb, State.fabAccess_reaches none _ hr]
  exact congrArg (State.ended s t) (if_pos hop)

theorem exec_pst (h : s.fires w true ts t) (ho : readOps w 0xE ts = some ops) (hb : (nth ops 0 ⟨.nan, 0, false⟩).bad = false)
    (hop : wOp w = 0x21) (hr : t.fabReaches s.seat.k s.seat.x (w64 (nth ops 0 ⟨.nan, 0, false⟩).raw) (memSize (wTy w)) 1 pa trc) :
    let n := memSize (wTy w)
    let b := nth ops 1 ⟨.nan, 0, false⟩
    let ag := t.fabAgent s.seat.k s.seat.x
    exec (.pst w) s = .next (s.ended (t.write pa (natRun n (b.raw % 2 ^ (8 * n)) b.bad) ⟨3, ag.1, ag.2, trc, 0⟩)
      (if wOmask w = 0 then [] else [.data 0 false scaleOne false 0])) := by
  refine congrArg Host.Outcome.next ?_
  rw [State.portOp_fires h ho, hb]
  dsimp only
  rw [State.fabAccess_reaches (some _) _ hr, show memToks w [] = _ from if_neg (by rw [hop]; decide)]
  rfl

end

/-! ## What an operator's firing leaves of its fabric -/

theorem State.setPlane_mem (p : Plane) : (s.setPlane k p).mem = s.mem := by
  unfold State.setPlane
  split
  · rfl
  · split <;> rfl

theorem State.setPortToks_mem (site sel : Nat) (ts : List Tok) : (s.setPortToks k site sel ts).mem = s.mem := by
  unfold State.setPortToks State.modSlotOf State.modResid
  split
  · split <;> rfl
  · split
    · split <;> rfl
    · exact State.setPlane_mem ..

theorem State.takeIn_mem (site sel : Nat) : (s.takeIn k site sel).mem = s.mem := by
  unfold State.takeIn
  dsimp only
  split
  · exact State.setPortToks_mem ..
  · exact State.setPlane_mem ..

theorem State.takeAll_mem (site : Nat) (sels : List Nat) : ∀ s : State, (s.takeAll k site sels).mem = s.mem := by
  induction sels with
  | nil => exact fun _ => rfl
  | cons x xs ih => exact fun s => (ih _).trans (State.takeIn_mem site x)

/-- A token taken from a shared port leaves every cell as it is. -/
theorem State.cells_setPortToks (h : s.hasFab k) (site sel : Nat) (ts : List Tok) :
    ((s.setPortToks k site sel ts).plane k).cells = (s.plane k).cells := by
  unfold State.setPortToks
  cases hk : fabCtl k with
  | some c =>
    dsimp only
    unfold State.modSlotOf
    split
    · rw [State.plane_ctl hk, State.plane_ctl hk, State.ctl_setCtl]
    · rfl
  | none =>
    obtain ⟨r, hr⟩ := h hk
    dsimp only
    split
    · rw [State.modResid_listed hr, State.plane_resid hk (State.mfind_setResid ..), State.plane_resid hk hr]
    · rw [State.plane_setPlane h]

theorem State.cells_takeIn (h : s.hasFab k) (site sel : Nat) : ((s.takeIn k site sel).plane k).cells = (s.plane k).cells := by
  unfold State.takeIn
  dsimp only
  split
  · exact State.cells_setPortToks h ..
  · rw [State.plane_setPlane h]
    rfl

theorem State.cells_takeAll (site : Nat) (sels : List Nat) :
    ∀ {s : State}, s.hasFab k → ((s.takeAll k site sels).plane k).cells = (s.plane k).cells := by
  induction sels with
  | nil => exact fun _ => rfl
  | cons x xs ih => exact fun h => (ih (State.hasFab_takeIn h site x)).trans (State.cells_takeIn h site x)

theorem State.latch_mem (a : Seat) (ins : List (Nat × Nat)) : (s.latch a ins).mem = s.mem :=
  (State.setPlane_mem _).trans (State.takeAll_mem ..)

theorem State.hasFab_latch {a : Seat} (h : s.hasFab a.k) (ins : List (Nat × Nat)) : (s.latch a ins).hasFab a.k :=
  State.hasFab_setPlane (State.hasFab_takeAll _ _ h) _

theorem State.cell_latch {a : Seat} (h : s.hasFab a.k) (ins : List (Nat × Nat)) (site : Nat) : (s.latch a ins).cell a.k site = s.cell a.k site := by
  have hc : ((s.latch a ins).plane a.k).cells = (s.plane a.k).cells := by
    rw [State.latch, State.setLane, State.plane_setPlane (State.hasFab_takeAll _ _ h)]
    exact State.cells_takeAll _ _ h
  unfold State.cell Plane.cell
  rw [hc]

/-! ## The end of a generator's iteration -/

/-- The state of an iteration that is over, before its element leaves. -/
def State.iterated (s : State) (k site : Nat) (ws : List W64) : State :=
  let u := s.setLane k site { s.lane k site with on := false, ops := [], serves := 0, count := (s.lane k site).count + 1 }
  u.setCell k site ((u.cell k site).nextIter ws)

theorem State.iterated_mem (site : Nat) (ws : List W64) : (s.iterated k site ws).mem = s.mem :=
  (State.setPlane_mem _).trans (State.setPlane_mem _)

theorem State.cell_iterated (h : s.hasFab k) (site : Nat) (ws : List W64) :
    (s.iterated k site ws).cell k site = (s.cell k site).nextIter ws := by
  have hl : ∀ l, (s.setLane k site l).cell k site = s.cell k site := by
    intro l
    rw [State.cell, State.setLane, State.plane_setPlane h]
    rfl
  unfold State.iterated
  dsimp only
  rw [hl, State.cell, State.setCell, State.plane_setPlane (k := k) (s := State.setLane ..) (State.hasFab_setPlane h _)]
  exact mget_mput_same ..

theorem State.genDone_writes {site : Nat} {os : List OutP} {ws : List W64} {bs : List (Byte × Bool)} (hd : gDir (nth ws 0 0) = 1) :
    s.genDone k site os ws bs = s.iterated k site ws := if_pos hd

theorem State.genDone_reads {site : Nat} {os : List OutP} {ws : List W64} {bs : List (Byte × Bool)} (hd : gDir (nth ws 0 0) = 0) :
    s.genDone k site os ws bs =
      (s.iterated k site ws).emit k site os false ((s.lane k site).result (memTok (gTy (nth ws 0 0)) bs)) :=
  if_neg (by rw [hd]; decide)

end

/-! ## The inputs of a generator -/

section
variable {s : State} {w : W64} {k site : Nat}

/-- The token of a source among those that stand at all the sources. -/
theorem nth_filterMap_idxOf {α : Type} {f : Nat → Option α} {l : List Nat} {x : Nat} {a d : α} (hx : x ∈ l) (ha : f x = some a)
    (hl : ∀ y ∈ l, (f y).isSome = true) : nth (l.filterMap f) (l.idxOf x) d = a := by
  induction l with
  | nil => exact absurd hx List.not_mem_nil
  | cons y l ih =>
    obtain ⟨b, hb⟩ := Option.isSome_iff_exists.mp (hl y List.mem_cons_self)
    rw [List.filterMap_cons_some hb]
    by_cases hyx : y = x
    · subst hyx
      rw [List.idxOf_cons_self]
      exact Option.some.inj (hb.symm.trans ha)
    · rw [List.idxOf_cons_ne _ hyx]
      exact ih ((List.mem_cons.mp hx).resolve_left (Ne.symm hyx)) fun z hz => hl z (List.mem_cons_of_mem _ hz)

theorem mem_distinct {ins : List (Nat × Nat)} {x : Nat} : x ∈ distinct ins ↔ ∃ p ∈ ins, p.2 = x := by
  have hf : ∀ (l : List Nat), x ∈ ins.foldl (fun l p => if l.contains p.2 then l else l ++ [p.2]) l ↔ x ∈ l ∨ ∃ p ∈ ins, p.2 = x := by
    induction ins with
    | nil => simp
    | cons q ins ih =>
      intro l
      rw [List.foldl_cons, ih]
      by_cases hq : q.2 ∈ l
      · simp only [List.contains_iff_mem.mpr hq, if_true, List.exists_mem_cons_iff]
        constructor
        · exact Or.imp_right Or.inr
        · rintro (h | rfl | h)
          · exact .inl h
          · exact .inl hq
          · exact .inr h
      · simp [hq, or_assoc, eq_comm]
  simpa [distinct] using hf []

theorem nth_mem {α : Type} {l : List α} {i : Nat} (d : α) (h : i < l.length) : nth l i d ∈ l := by
  rw [nth_eq_getD, List.getD_eq_getElem _ _ h]
  exact List.getElem_mem h

theorem snd_mem_of_mem_inputsOf {sels : List Nat} {p : Nat × Nat} (h : p ∈ inputsOf sels) : p.2 ∈ sels := by
  obtain ⟨hp, -⟩ := List.mem_filter.mp h
  obtain ⟨i, hi, rfl⟩ := List.mem_map.mp hp
  exact nth_mem _ (List.mem_range.mp hi)

theorem mem_distinct_inputsOf {sels : List Nat} {x : Nat} (h : x ∈ sels) (hx : x ≤ 0xD) : x ∈ distinct (inputsOf sels) := by
  obtain ⟨i, hi, rfl⟩ := List.getElem_of_mem h
  have hn : nth sels i 0xF = sels[i] := by rw [nth_eq_getD, List.getD_eq_getElem _ _ hi]
  refine mem_distinct.mpr ⟨(i, sels[i]), List.mem_filter.mpr ⟨List.mem_map.mpr ⟨i, List.mem_range.mpr hi, by rw [hn]⟩, ?_⟩, rfl⟩
  have he : sels[i] ≠ 0xE ∧ sels[i] ≠ 0xF := by omega
  simpa using he

/-- Data tokens of scale 1.0 stand at every source that some selectors name. -/
def State.holdsData (s : State) (k site : Nat) (sels : List Nat) : Prop :=
  ∀ x ∈ sels, ∃ v p r j, s.peek k site x = some (.data v p scaleOne r j)

/-- The operand of a selector, read as a natural of 64 bits out of the tokens that stood at the sources. -/
theorem readOpnd_atHeads {sels : List Nat} {x : Nat} {v : W64} {p r : Bool} {j : Nat} (hd : s.holdsData k site sels) (hx : x ∈ sels)
    (hle : x ≤ 0xD) (hp : s.peek k site x = some (.data v p scaleOne r j)) :
    readOpnd 0xE (nth (s.atHeads k site (inputsOf sels)) ((distinct (inputsOf sels)).idxOf x) .eos) =
      some ⟨elemRead 0xE v.toNat, v.toNat, p⟩ := by
  rw [State.atHeads, nth_filterMap_idxOf (mem_distinct_inputsOf hx hle) hp]
  · simp only [readOpnd, if_true]
  · intro y hy
    obtain ⟨q, hq, rfl⟩ := mem_distinct.mp hy
    obtain ⟨v', p', r', j', h'⟩ := hd _ (snd_mem_of_mem_inputsOf hq)
    rw [h']
    rfl

/-! ## An iteration of a generator -/

/-- A generator whose inputs hold data of scale 1.0, its readers asking for an element where it reads one, begins its iteration. -/
theorem State.genIter_begins {a : Seat} {os : List OutP} {ws : List W64} (hd : s.holdsData a.k a.b (genSels (nth ws 0 0)))
    (he : gDir (nth ws 0 0) = 0 → (s.plane a.k).canEmit os = true) :
    s.genIter a (inputsOf (genSels (nth ws 0 0))) os ws = (s.latch a (inputsOf (genSels (nth ws 0 0)))).genGo a.k a.b os ws := by
  have hdata : ∀ p ∈ inputsOf (genSels (nth ws 0 0)), ∃ v q r j, s.peek a.k a.b p.2 = some (.data v q scaleOne r j) :=
    fun p hp => hd _ (snd_mem_of_mem_inputsOf hp)
  have heos : ((inputsOf (genSels (nth ws 0 0))).any fun p => (s.peek a.k a.b p.2).any (·.isEos)) = false := by
    rw [List.any_eq_false]
    intro p hp
    obtain ⟨v, q, r, j, h⟩ := hdata p hp
    simp [h, Tok.isEos]
  have hnone : ((inputsOf (genSels (nth ws 0 0))).any fun p => (s.peek a.k a.b p.2).isNone) = false := by
    rw [List.any_eq_false]
    intro p hp
    obtain ⟨v, q, r, j, h⟩ := hdata p hp
    simp [h]
  have hread : ((s.atHeads a.k a.b (inputsOf (genSels (nth ws 0 0)))).any fun t => (readOpnd 0xE t).isNone) = false := by
    rw [List.any_eq_false]
    intro t ht
    obtain ⟨x, hx, hxt⟩ := List.mem_filterMap.mp ht
    obtain ⟨q, hq, rfl⟩ := mem_distinct.mp hx
    obtain ⟨v, p, r, j, h⟩ := hdata q hq
    obtain rfl := Option.some.inj (h.symm.trans hxt)
    simp [readOpnd]
  have hasks : (decide (gDir (nth ws 0 0) = 0) && !(s.plane a.k).canEmit os) = false := by
    by_cases h0 : gDir (nth ws 0 0) = 0
    · rw [he h0, Bool.not_true, Bool.and_false]
    · rw [decide_eq_false h0, Bool.false_and]
  simp only [State.genIter, heos, hnone, hasks, hread, Bool.false_eq_true, if_false]

/-- A site that is free to act for word `w` holds it. -/
theorem State.siteFree.word (h : s.siteFree w) : nth (s.cell s.seat.k s.seat.b).words 0 0 = w := by
  obtain ⟨-, hw, -⟩ := h
  exact hw

/-- PAG between two iterations, its nest not exhausted, goes on with its next one. -/
theorem exec_pag_begins (h : s.siteReady w) (hst : (s.cell s.seat.k s.seat.b).st = 0)
    (hd : s.holdsData s.seat.k s.seat.b (genSels w))
    (hos : gDir w = 0 → (s.plane s.seat.k).genOuts s.seat.b ≠ [] ∧ (s.plane s.seat.k).canEmit ((s.plane s.seat.k).genOuts s.seat.b) = true) :
    exec (.pag w) s = .next ((s.latch s.seat (inputsOf (genSels w))).genGo s.seat.k s.seat.b ((s.plane s.seat.k).genOuts s.seat.b)
      (s.cell s.seat.k s.seat.b).words) := by
  refine congrArg Host.Outcome.next ?_
  obtain ⟨hfree, hon, hcl, hport⟩ := h
  have hw := hfree.word
  have hout : (decide (gDir w = 0) && ((s.plane s.seat.k).genOuts s.seat.b).isEmpty) = false := by
    by_cases h0 : gDir w = 0
    · rw [List.isEmpty_eq_false_iff.mpr (hos h0).1, Bool.and_false]
    · rw [decide_eq_false h0, Bool.false_and]
  dsimp only at hon hcl hport ⊢
  rw [State.onSite_free _ _ _ _ _ _ hfree (.inr hcl) hport]
  simp only [hon, hout, hst, Bool.false_eq_true, if_false, Nat.zero_ne_one]
  subst hw
  exact State.genIter_begins hd fun h0 => (hos h0).2

/-- The operand of a selector of a generator's word `w`, out of the tokens that its iteration holds. -/
def State.genOpnd (t : State) (k site : Nat) (w : W64) (sel : Nat) : Opnd :=
  (readOpnd 0xE (nth (t.lane k site).ops ((distinct (inputsOf (genSels w))).idxOf sel) .eos)).getD ⟨.nan, 0, false⟩

/-- The address of the iteration of a generator's word `w` that the state `t` has under way, with an index `y`. -/
def State.genVa (t : State) (k site : Nat) (w : W64) (ws : List W64) (y : W64) : W64 :=
  genAddr ws (t.genBase k site ws) (t.genCtrs k site ws) + (if gGx w then BitVec.ofNat 64 (y.toNat * memSize (gTy w)) else 0)

/-- What a generator writes at its iteration: the low bits of `x`, none where it reads. -/
def genData (w : W64) (x : W64) (px : Bool) : Option (List (Byte × Bool)) :=
  if gDir w = 1 then some (natRun (memSize (gTy w)) (x.toNat % 2 ^ (8 * memSize (gTy w))) px) else none

section
variable {t : State} {os : List OutP} {ws : List W64} {x y : W64} {px : Bool}

/-- An iteration makes the access that its operands name, and is then over. -/
theorem State.genGo_eq : t.genGo k site os ws =
    let w := nth ws 0 0
    let n := memSize (gTy w)
    let d := t.genOpnd k site w (wIa w)
    let i := t.genOpnd k site w (wIb w)
    let va := genAddr ws (t.genBase k site ws) (t.genCtrs k site ws) + (if gGx w then w64 (i.raw * n) else 0)
    match t.fabAccess k site va (gGx w && i.bad) n (if gDir w = 1 then some (natRun n (d.raw % 2 ^ (8 * n)) d.bad) else none)
      (t.fabFault k site ((site - 8192) % 8) va 1 (if gDir w = 1 then 1 else 0) (t.genCtrs k site ws)) with
    | .error s => s
    | .ok (s, bs) => s.genDone k site os ws bs := rfl

/-- The iteration under way, its operands held, makes its access. -/
theorem State.genGo_accesses {fx fy : Fp} (hw : nth ws 0 0 = w) (hx : gDir w = 1 → t.genOpnd k site w (wIa w) = ⟨fx, x.toNat, px⟩)
    (hy : gGx w = true → t.genOpnd k site w (wIb w) = ⟨fy, y.toNat, false⟩) {u : State} {bs : List (Byte × Bool)}
    (h : ∀ f, t.fabAccess k site (t.genVa k site w ws y) false (memSize (gTy w)) (genData w x px) f = .ok (u, bs)) :
    t.genGo k site os ws = u.genDone k site os ws bs := by
  have hbad : (gGx w && (t.genOpnd k site w (wIb w)).bad) = false := by
    cases hg : gGx w with
    | false => rfl
    | true => rw [hy hg]; rfl
  have hva : genAddr ws (t.genBase k site ws) (t.genCtrs k site ws) +
      (if gGx w then w64 ((t.genOpnd k site w (wIb w)).raw * memSize (gTy w)) else 0) = t.genVa k site w ws y := by
    rw [State.genVa]
    cases hg : gGx w with
    | false => rfl
    | true => rw [hy hg]; rfl
  have hwr : (if gDir w = 1 then some (natRun (memSize (gTy w)) ((t.genOpnd k site w (wIa w)).raw % 2 ^ (8 * memSize (gTy w)))
      (t.genOpnd k site w (wIa w)).bad) else none) = genData w x px := by
    rw [genData]
    by_cases hg : gDir w = 1
    · rw [hx hg]
    · rw [if_neg hg, if_neg hg]
  rw [State.genGo_eq, hw]
  dsimp only
  rw [hbad, hva, hwr, h]

end

/-- The operands that an iteration holds once it has begun. -/
theorem State.genOpnd_latch {a : Seat} (h : s.hasFab a.k) (hx : a.x = a.b) (hd : s.holdsData a.k a.b (genSels w)) {sel : Nat}
    (hm : sel ∈ genSels w) (hle : sel ≤ 0xD) {v : W64} {p r : Bool} {j : Nat} (hp : s.peek a.k a.b sel = some (.data v p scaleOne r j)) :
    (s.latch a (inputsOf (genSels w))).genOpnd a.k a.b w sel = ⟨elemRead 0xE v.toNat, v.toNat, p⟩ := by
  have hops := State.ops_latch h (ins := inputsOf (genSels w))
  rw [hx] at hops
  rw [State.genOpnd, hops, readOpnd_atHeads hd hm hle hp]
  rfl

end

/-- Settles O25. -/
theorem fabricMemory : Obligations.FabricMemory := by
  unfold Obligations.FabricMemory
  intro s w a k site
  refine ⟨fun ts t ops pa trc h ho hb => ⟨fun hop hr => exec_pld h ho hb hop hr, fun hop hr => exec_pst h ho hb hop hr⟩, ?_⟩
  intro x y px rx ry jx jy pa trc h hsite hst hx hy
  obtain ⟨hfree, -⟩ := id h
  have hfab := hfree.hasFab
  have hab : s.seat.x = s.seat.b := hsite.symm
  have hw := hfree.word
  have hd : s.holdsData s.seat.k s.seat.b (genSels w) := by
    intro sel hsel
    rcases List.mem_append.mp hsel with hm | hm
    · split at hm
      · next hg => rw [List.mem_singleton.mp hm]; exact ⟨_, _, _, _, (hx hg).2⟩
      · exact absurd hm List.not_mem_nil
    · split at hm
      · next hg => rw [List.mem_singleton.mp hm]; exact ⟨_, _, _, _, (hy hg).2⟩
      · exact absurd hm List.not_mem_nil
  have hopx : gDir w = 1 → (s.latch s.seat (inputsOf (genSels w))).genOpnd s.seat.k s.seat.b w (wIa w) = ⟨_, x.toNat, px⟩ :=
    fun hg => State.genOpnd_latch hfab hab hd (by simp [genSels, hg]) (hx hg).1 (hx hg).2
  have hopy : gGx w = true → (s.latch s.seat (inputsOf (genSels w))).genOpnd s.seat.k s.seat.b w (wIb w) = ⟨_, y.toNat, false⟩ :=
    fun hg => State.genOpnd_latch hfab hab hd (by simp [genSels, hg]) (hy hg).1 (hy hg).2
  have hfab' : (s.latch s.seat (inputsOf (genSels w))).hasFab s.seat.k := State.hasFab_latch hfab _
  have hcell : (s.latch s.seat (inputsOf (genSels w))).cell s.seat.k s.seat.b = s.cell s.seat.k s.seat.b := State.cell_latch hfab ..
  refine ⟨fun hg hos he hr => ?_, fun hg hr => ?_⟩
  · have hgo := State.genGo_accesses (os := (s.plane s.seat.k).genOuts s.seat.b) hw hopx hopy fun f => by
      rw [genData, if_neg (by rw [hg]; decide)]
      exact State.fabAccess_reaches none f hr
    refine ⟨(s.latch s.seat (inputsOf (genSels w))).iterated s.seat.k s.seat.b (s.cell s.seat.k s.seat.b).words, ?_, ?_, ?_⟩
    · rw [exec_pag_begins h hst hd fun _ => ⟨hos, he⟩, hgo, State.genDone_reads (by rw [hw]; exact hg), hw]
      rfl
    · exact (State.iterated_mem ..).trans (State.latch_mem ..)
    · exact (State.cell_iterated hfab' ..).trans (by rw [hcell])
  · have hgo := State.genGo_accesses (os := (s.plane s.seat.k).genOuts s.seat.b) hw hopx hopy fun f => by
      rw [genData, if_pos hg]
      exact State.fabAccess_reaches (some _) f hr
    exact ⟨_, (exec_pag_begins h hst hd fun h0 => absurd (h0.symm.trans hg) (by decide)).trans
      (congrArg _ (hgo.trans (State.genDone_writes (by rw [hw]; exact hg)))), State.iterated_mem ..⟩

end Sys2Proof.Machine

/-! R49, R149, R278, R284, R285, R305: sheaves that end, their views, messages, and the trunks of their phases. -/

namespace Sys2Proof.Machine

section
variable {s t : State} {k : Nat} {sh : Sheaf}

/-! ## A sheaf leaves its place (R278, R285) -/

/-- A key that is taken out of a collection of rising keys is found no more. -/
theorem mfind_mdel_rising {α : Type} {m : Map α} (h : Rising m) (k : Nat) : mfind (mdel m k) k = none := by
  induction m with
  | nil => rfl
  | cons e m ih =>
    obtain ⟨j, v⟩ := e
    obtain ⟨hhead, htail⟩ := List.pairwise_cons.mp h
    by_cases hj : j = k
    · subst hj
      rw [mdel, if_pos rfl]
      clear ih h htail
      induction m with
      | nil => rfl
      | cons e m ih =>
        have he : e.1 ≠ j := (Nat.ne_of_lt (hhead e.1 List.mem_cons_self)).symm
        rw [show mfind (e :: m) j = if e.1 = j then some e.2 else mfind m j from rfl, if_neg he]
        exact ih fun i hi => hhead i (List.mem_cons_of_mem _ hi)
    · rw [mdel, if_neg hj, mfind, if_neg hj]
      exact ih htail

theorem State.setSlot_sheaves (s : State) (c sl : Nat) (e : EdgeSlot) : (s.setSlot c sl e).sheaves = s.sheaves := rfl

theorem State.raiseEv_sheaves (s : State) (w : Nat) (e : Ev) : (s.raiseEv w e).sheaves = s.sheaves := rfl

/-- A sheaf that leaves its place leaves the others in theirs. -/
theorem State.dropSheaf_sheaves (s : State) (k : Nat) (sh : Sheaf) : (s.dropSheaf k sh).sheaves = mdel s.sheaves k := by
  unfold State.dropSheaf
  dsimp only
  split
  · rfl
  · split
    · rfl
    · dsimp only
      generalize s.creds.filter _ = l
      generalize hu : ({ s with sheaves := mdel s.sheaves k, fields := _ } : State) = u
      have hs : u.sheaves = mdel s.sheaves k := hu ▸ rfl
      clear hu
      induction l generalizing u with
      | nil => exact hs
      | cons e l ih =>
        refine ih _ ?_
        dsimp only
        split
        · split
          · exact hs
          · exact hs
        · exact hs

theorem State.dropSheaf_gone (hr : Rising s.sheaves) (k : Nat) (sh : Sheaf) : mfind (s.dropSheaf k sh).sheaves k = none := by
  rw [State.dropSheaf_sheaves]
  exact mfind_mdel_rising hr k

theorem State.putRecord_sheaves (s : State) (k : Nat) (sh : Sheaf) (off : Nat) (v : W64) (rel : Option Rel) :
    (s.putRecord k sh off v rel).sheaves = s.sheaves := (written_hwWriteAs ..).sheaves

theorem State.writeSheaf_sheaves (s : State) (k : Nat) (sh : Sheaf) : (s.writeSheaf k sh).sheaves = s.sheaves := by
  unfold State.writeSheaf
  simp only [State.putRecord_sheaves]

theorem exec_sheafComplete_leaves (h : mfind (s.walk (shPartKey k)).sheaves k = some sh) (hr : Rising (s.walk (shPartKey k)).sheaves)
    (hsw : ((s.walk (shPartKey k)).part (shPartKey k)).st ≠ .swapped) (hpod : (s.walk (shPartKey k)).podOver k sh = true)
    (h0 : sh.bad = 0 → sh.read = true ∧ ∀ e ∈ sh.nodes, e.2.st = .done)
    (h2 : sh.bad = 2 → (s.walk (shPartKey k)).refusalHeld (shWafer k) = false) :
    ∃ t, exec (.sheafComplete k) s = .next t ∧ mfind t.sheaves k = none := by
  refine ⟨_, rfl, ?_⟩
  generalize s.walk (shPartKey k) = u at *
  have hgo : ((u.part (shPartKey k)).st == .swapped || !u.podOver k sh) = false := by simp [hsw, hpod]
  simp only [h, hgo, Bool.false_eq_true, if_false]
  by_cases hb2 : sh.bad = 2
  · rw [if_pos hb2, h2 hb2, if_neg Bool.false_ne_true, State.raiseEv_sheaves]
    exact State.dropSheaf_gone hr ..
  · rw [if_neg hb2]
    by_cases hb0 : sh.bad = 0
    · obtain ⟨hread, hdone⟩ := h0 hb0
      have hall : (sh.read && sh.nodes.all fun e => e.2.st == .done) = true := by
        rw [hread, Bool.true_and]
        exact List.all_eq_true.mpr fun e he => beq_iff_eq.mpr (hdone e he)
      rw [if_neg (not_not_intro hb0), if_pos hall]
      exact State.dropSheaf_gone ((State.writeSheaf_sheaves ..).symm ▸ hr) ..
    · rw [if_pos hb0]
      exact State.dropSheaf_gone ((State.putRecord_sheaves ..).symm ▸ hr) ..

/-! ## Messages (R49) -/

theorem exec_amsgDeliver {m : Msg} {i : Nat}
    (h : (s.field k).msgq.find? (fun m => s.partRuns (shPartKey m.sheaf) && (s.graphOf (shPartKey m.sheaf) m.graph).isSome) = some m)
    (hi : s.graphOf (shPartKey m.sheaf) m.graph = some i) : exec (.amsgDeliver k) s =
      .next ((s.setField k { s.field k with msgq := (s.field k).msgq.erase m }).modResid i fun r => { r with msgs := r.msgs ++ m.toks }) := by
  have hsome := List.find?_some h
  have hrun : s.partRuns (shPartKey m.sheaf) = true := (Bool.and_eq_true_iff.mp hsome).1
  have hpred : (fun m : Msg => (if s.partRuns (shPartKey m.sheaf) = true then s.graphOf (shPartKey m.sheaf) m.graph else none).isSome) =
      fun m => s.partRuns (shPartKey m.sheaf) && (s.graphOf (shPartKey m.sheaf) m.graph).isSome := by
    funext m
    cases s.partRuns (shPartKey m.sheaf) <;> rfl
  simp only [exec, execAmsgDeliver, hpred, h, hrun, if_true, hi]

/-! ## Trunks (R149, R284) -/

/-- A trunk of a controller that wakes some: it wakes now, or stays. -/
theorem State.trunk_wakeTrunks_or (s : State) (c mask c' j : Nat) :
    (s.wakeTrunks c mask).trunk c' j = (true, s.time) ∨ (s.wakeTrunks c mask).trunk c' j = s.trunk c' j := by
  by_cases hc : c' = c
  · subst hc
    rw [State.trunk, State.wakeTrunks, State.ctl_setCtl, mget_wokenTrunks]
    split
    · exact .inl rfl
    · exact .inr rfl
  · right
    rw [State.trunk, State.wakeTrunks, State.ctl_setCtl_ne _ _ _ _ hc, State.trunk]

/-- The trunks of some groups of a wafer wake. -/
def State.wakeGroups (s : State) (w : Nat) (gs : List Nat) : State :=
  gs.foldl (fun s g => s.wakeTrunks (w * 64 + gCtl g) (s.gt (w * 2 ^ 14 + g)).tmask) s

theorem State.wakeGroups_stays {w c j : Nat} {gs : List Nat} (h : s.trunk c j = (true, s.time)) :
    (s.wakeGroups w gs).trunk c j = (true, s.time) := by
  induction gs generalizing s with
  | nil => exact h
  | cons g gs ih => exact ih (s := s.wakeTrunks ..) ((State.trunk_wakeTrunks_or ..).elim id fun hs => hs.trans h)

theorem State.wakeGroups_wakes {w j : Nat} {gs : List Nat} {g : Nat} (hg : g ∈ gs) (hj : j < 4)
    (hm : (s.gt (w * 2 ^ 14 + g)).tmask.testBit j = true) : (s.wakeGroups w gs).trunk (w * 64 + gCtl g) j = (true, s.time) := by
  induction gs generalizing s with
  | nil => exact absurd hg List.not_mem_nil
  | cons f gs ih =>
    rcases List.mem_cons.mp hg with rfl | hg
    · exact State.wakeGroups_stays (s := s.wakeTrunks ..) (State.trunk_wakeTrunks _ _ _ hj hm)
    · exact ih (s := s.wakeTrunks ..) hg (by rwa [State.gt_wakeTrunks])

/-- The trunks of a declared phase wake its lead before it begins. -/
theorem exec_phaseWake_wakes {ph : Nat} (h : mfind s.sheaves k = some sh) (hb : sh.bad = 0) (hph : ph < bits (nth sh.hdr 1 0) 23 16)
    (hw : shas sh.woken ph = false) (ht : sh.time + 1000 * bits (nth (s.phaseWords k sh ph) 0 0) 63 32 ≤
      s.devTime (shWafer k) + 1000 * bits (s.wafer (shWafer k)).klead 15 0) : exec (.phaseWake k ph) s =
      .next ({ s with sheaves := mput s.sheaves k { sh with woken := sput sh.woken ph } }.wakeGroups (shWafer k)
        (phaseGroups (s.phaseWords k sh ph))) := by
  have hgo : (sh.bad != 0 || decide (ph ≥ bits (nth sh.hdr 1 0) 23 16) || shas sh.woken ph ||
      decide (s.devTime (shWafer k) + 1000 * bits (s.wafer (shWafer k)).klead 15 0 <
        sh.time + 1000 * bits (nth (s.phaseWords k sh ph) 0 0) 63 32)) = false := by
    simp only [hb, hw, decide_eq_false (Nat.not_le.mpr hph), decide_eq_false (Nat.not_lt.mpr ht)]
    rfl
  simp only [exec, execPhaseWake, h, hgo, Bool.false_eq_true, if_false]
  rfl

theorem exec_trunkSleep_idle {c j : Nat} (h : (s.trunk c j).1 = true)
    (hi : 1000 * bits (s.wafer (c / 64)).klead 47 32 < s.time - (s.trunk c j).2) (hp : s.inPhase c j = false) :
    exec (.trunkSleep c j) s = .next (s.setCtl c { s.ctl c with trunks := mput (s.ctl c).trunks j (false, (s.trunk c j).2) }) := by
  have hgo : ((s.trunk c j).1 && decide (s.time - (s.trunk c j).2 > 1000 * bits (s.wafer (c / 64)).klead 47 32) && !s.inPhase c j) = true := by
    rw [h, hp, decide_eq_true hi]
    rfl
  simp only [exec, execTrunkSleep, hgo, if_true]

/-! ## End-of-stream to the views (R305) -/

/-- A slot takes end-of-stream from node `r`, which holds it: one that makes accesses, still bound. -/
def EdgeSlot.takesEos (e : EdgeSlot) (r : NodeRef) : Bool := e.bound && e.held == some r && e.kind ≤ 1

/-- End-of-stream at the access port of a slot that takes it from `r`. -/
def State.eosAt (s : State) (r : NodeRef) (x : Nat × Nat) : State :=
  let e := s.slot x.1 x.2
  if e.takesEos r then s.setSlot x.1 x.2 { e with port := e.port ++ [.eos] } else s

/-- End-of-stream from `r` at the slots of a list. -/
def State.eosSlots (s : State) (r : NodeRef) (l : List (Nat × Nat)) : State := l.foldl (fun s x => s.eosAt r x) s

/-- A node that has sent end-of-stream. -/
def Node.sentEos (n : Node) : Node := { n with eos := true }

/-- Node `r` sends end-of-stream to its slots. -/
def State.eosFrom (s : State) (r : NodeRef) : State :=
  let u := s.modNode r Node.sentEos
  u.eosSlots r (u.edgeSlots r)

theorem State.slot_setSlot_ne (s : State) {c sl c' sl' : Nat} (e : EdgeSlot) (h : (c', sl') ≠ (c, sl)) :
    (s.setSlot c sl e).slot c' sl' = s.slot c' sl' := by
  by_cases hc : c' = c
  · subst hc
    rw [State.slot, State.setSlot, State.ctl_setCtl, mget_mput_ne _ _ _ _ _ fun hs => h (by rw [hs]), State.slot]
  · rw [State.slot, State.setSlot, State.ctl_setCtl_ne _ _ _ _ hc, State.slot]

section
variable {r : NodeRef} {x : Nat × Nat}

theorem State.slot_eosAt_ne {y : Nat × Nat} (h : x ≠ y) : (s.eosAt r y).slot x.1 x.2 = s.slot x.1 x.2 := by
  unfold State.eosAt
  dsimp only
  split
  · exact State.slot_setSlot_ne _ _ h
  · rfl

/-- A slot that takes no end-of-stream from `r` stays as it is. -/
theorem State.slot_eosSlots_other {l : List (Nat × Nat)} (h : (s.slot x.1 x.2).takesEos r = false) :
    (s.eosSlots r l).slot x.1 x.2 = s.slot x.1 x.2 := by
  induction l generalizing s with
  | nil => rfl
  | cons y l ih =>
    have hy : (s.eosAt r y).slot x.1 x.2 = s.slot x.1 x.2 := by
      by_cases hxy : x = y
      · subst hxy
        rw [State.eosAt, h, if_neg Bool.false_ne_true]
      · exact State.slot_eosAt_ne hxy
    exact (ih (s := s.eosAt r y) (hy.symm ▸ h)).trans hy

/-- A slot that is not of the list stays as it is. -/
theorem State.slot_eosSlots_notMem {l : List (Nat × Nat)} (h : x ∉ l) : (s.eosSlots r l).slot x.1 x.2 = s.slot x.1 x.2 := by
  induction l generalizing s with
  | nil => rfl
  | cons y l ih =>
    obtain ⟨hy, hl⟩ := not_or.mp fun h' => h (List.mem_cons.mpr h')
    exact (ih (s := s.eosAt r y) hl).trans (State.slot_eosAt_ne hy)

/-- A slot of a list that names it once takes end-of-stream from the node that holds it. -/
theorem State.slot_eosSlots_mem {l : List (Nat × Nat)} (hx : x ∈ l) (hl : l.Nodup) (h : (s.slot x.1 x.2).takesEos r = true) :
    (s.eosSlots r l).slot x.1 x.2 = { s.slot x.1 x.2 with port := (s.slot x.1 x.2).port ++ [.eos] } := by
  induction l generalizing s with
  | nil => exact absurd hx List.not_mem_nil
  | cons y l ih =>
    obtain ⟨hy, hl⟩ := List.nodup_cons.mp hl
    rcases List.mem_cons.mp hx with rfl | hx
    · refine (State.slot_eosSlots_notMem (s := s.eosAt r x) hy).trans ?_
      rw [State.eosAt, h, if_pos rfl, State.slot_setSlot]
    · have hxy : x ≠ y := fun e => hy (e ▸ hx)
      have hk := State.slot_eosAt_ne (s := s) (r := r) hxy
      exact (ih (s := s.eosAt r y) hx hl (hk.symm ▸ h)).trans (by rw [hk])

theorem State.eosAt_sheaves (s : State) (r : NodeRef) (x : Nat × Nat) : (s.eosAt r x).sheaves = s.sheaves := by
  unfold State.eosAt
  dsimp only
  split <;> rfl

theorem State.eosSlots_sheaves (r : NodeRef) (l : List (Nat × Nat)) : ∀ s : State, (s.eosSlots r l).sheaves = s.sheaves := by
  induction l with
  | nil => exact fun _ => rfl
  | cons x l ih => exact fun s => (ih _).trans (State.eosAt_sheaves s r x)

theorem State.eosAt_mem (s : State) (r : NodeRef) (x : Nat × Nat) : (s.eosAt r x).mem = s.mem := by
  unfold State.eosAt
  dsimp only
  split <;> rfl

theorem State.eosSlots_mem (r : NodeRef) (l : List (Nat × Nat)) : ∀ s : State, (s.eosSlots r l).mem = s.mem := by
  induction l with
  | nil => exact fun _ => rfl
  | cons x l ih => exact fun s => (ih _).trans (State.eosAt_mem s r x)

end

/-- The nodes once `r` has sent end-of-stream: it is marked. -/
theorem State.node?_eosFrom (s : State) (r x : NodeRef) :
    (s.eosFrom r).node? x = if x = r then (s.node? r).map Node.sentEos else s.node? x := by
  rw [← State.node?_modNode]
  unfold State.eosFrom State.node?
  rw [State.eosSlots_sheaves]

/-- A node that is marked keeps its words, and so its slots. -/
theorem State.edgeSlots_sentEos (s : State) (r x : NodeRef) : (s.modNode r Node.sentEos).edgeSlots x = s.edgeSlots x := by
  have hw : (s.modNode r Node.sentEos).nodeWords x = s.nodeWords x := by
    unfold State.nodeWords
    rw [State.node?_modNode]
    split
    · next h => subst h; cases s.node? x <;> rfl
    · rfl
  rw [State.edgeSlots, hw, State.edgeSlots]

theorem State.edgeSlots_eosFrom (s : State) (r x : NodeRef) : (s.eosFrom r).edgeSlots x = s.edgeSlots x := by
  rw [← State.edgeSlots_sentEos s r x]
  unfold State.eosFrom State.edgeSlots State.nodeWords State.node?
  rw [State.eosSlots_sheaves]

theorem State.eosFrom_mem (s : State) (r : NodeRef) : (s.eosFrom r).mem = s.mem := by
  refine (State.eosSlots_mem ..).trans ?_
  obtain ⟨m, hm⟩ := sheavesOnly_modNode s r Node.sentEos
  rw [hm]

/-- What a node marks is no slot. -/
theorem State.slot_modNode (s : State) (r : NodeRef) (f : Node → Node) (c sl : Nat) : (s.modNode r f).slot c sl = s.slot c sl := by
  obtain ⟨m, hm⟩ := sheavesOnly_modNode s r f
  rw [hm]
  rfl

section
variable {r : NodeRef} {x : Nat × Nat}

theorem State.slot_eosFrom_other (h : (s.slot x.1 x.2).takesEos r = false) : (s.eosFrom r).slot x.1 x.2 = s.slot x.1 x.2 := by
  have hm := State.slot_modNode s r Node.sentEos x.1 x.2
  exact (State.slot_eosSlots_other (s := s.modNode r _) (hm.symm ▸ h)).trans hm

theorem State.slot_eosFrom_mem (hx : x ∈ s.edgeSlots r) (hl : (s.edgeSlots r).Nodup) (h : (s.slot x.1 x.2).takesEos r = true) :
    (s.eosFrom r).slot x.1 x.2 = { s.slot x.1 x.2 with port := (s.slot x.1 x.2).port ++ [.eos] } := by
  have hm := State.slot_modNode s r Node.sentEos x.1 x.2
  have he := State.edgeSlots_sentEos s r r
  exact (State.slot_eosSlots_mem (s := s.modNode r _) (he.symm ▸ hx) (he.symm ▸ hl) (hm.symm ▸ h)).trans (by rw [hm])

end

/-- The nodes of a list, of sheaf `k`, send end-of-stream to their slots. -/
def State.eosNodes (s : State) (k : Nat) (l : List (Nat × Node)) : State := l.foldl (fun s e => s.eosFrom ⟨k, e.1⟩) s

theorem State.eosNodes_mem (k : Nat) (l : List (Nat × Node)) : ∀ s : State, (s.eosNodes k l).mem = s.mem := by
  induction l with
  | nil => exact fun _ => rfl
  | cons e l ih => exact fun s => (ih _).trans (State.eosFrom_mem ..)

theorem State.edgeSlots_eosNodes (k : Nat) (l : List (Nat × Node)) (x : NodeRef) : ∀ s : State, (s.eosNodes k l).edgeSlots x = s.edgeSlots x := by
  induction l with
  | nil => exact fun _ => rfl
  | cons e l ih => exact fun s => (ih _).trans (State.edgeSlots_eosFrom ..)

/-- A node that has sent end-of-stream stays marked. -/
theorem State.eosNodes_marked {r : NodeRef} {l : List (Nat × Node)} (h : ∃ n, s.node? r = some n ∧ n.eos = true) :
    ∃ n, (s.eosNodes k l).node? r = some n ∧ n.eos = true := by
  induction l generalizing s with
  | nil => exact h
  | cons e l ih =>
    refine ih (s := s.eosFrom _) ?_
    obtain ⟨n, hn, he⟩ := h
    rw [State.node?_eosFrom]
    split
    · next hr => subst hr; exact ⟨_, by rw [hn]; rfl, rfl⟩
    · exact ⟨n, hn, he⟩

/-- Each node of the list is marked. -/
theorem State.eosNodes_marks {e : Nat × Node} {l : List (Nat × Node)} (he : e ∈ l) (h : (s.node? ⟨k, e.1⟩).isSome = true) :
    ∃ n, (s.eosNodes k l).node? ⟨k, e.1⟩ = some n ∧ n.eos = true := by
  induction l generalizing s with
  | nil => exact absurd he List.not_mem_nil
  | cons f l ih =>
    obtain ⟨n, hn⟩ := Option.isSome_iff_exists.mp h
    by_cases hf : (⟨k, e.1⟩ : NodeRef) = ⟨k, f.1⟩
    · refine State.eosNodes_marked (s := s.eosFrom _) ⟨n.sentEos, ?_, rfl⟩
      rw [State.node?_eosFrom, if_pos hf, ← hf, hn]
      rfl
    · have hne : e ≠ f := fun h => hf (by rw [h])
      refine ih (s := s.eosFrom _) ((List.mem_cons.mp he).resolve_left hne) ?_
      rw [State.node?_eosFrom, if_neg hf]
      exact h

section
variable {x : Nat × Nat} {n : Nat} {l : List (Nat × Node)}

/-- A slot that node `n` holds takes nothing from the other nodes. -/
theorem State.slot_eosNodes_other (hh : (s.slot x.1 x.2).held = some ⟨k, n⟩) (hl : ∀ f ∈ l, f.1 ≠ n) :
    (s.eosNodes k l).slot x.1 x.2 = s.slot x.1 x.2 := by
  induction l generalizing s with
  | nil => rfl
  | cons f l ih =>
    have hf : (s.slot x.1 x.2).takesEos ⟨k, f.1⟩ = false := by
      have hn : (some (⟨k, n⟩ : NodeRef) == some ⟨k, f.1⟩) = false := by
        simpa using (hl f List.mem_cons_self).symm
      rw [EdgeSlot.takesEos, hh, hn, Bool.and_false, Bool.false_and]
    have hk := State.slot_eosFrom_other hf
    exact (ih (s := s.eosFrom _) (hk.symm ▸ hh) fun f hf => hl f (List.mem_cons_of_mem _ hf)).trans hk

/-- A slot that a node of the list holds takes end-of-stream once. -/
theorem State.slot_eosNodes_mem {e : Nat × Node} (he : e ∈ l) (hl : (l.map (·.1)).Nodup) (hx : x ∈ s.edgeSlots ⟨k, e.1⟩)
    (hn : (s.edgeSlots ⟨k, e.1⟩).Nodup) (h : (s.slot x.1 x.2).takesEos ⟨k, e.1⟩ = true) :
    (s.eosNodes k l).slot x.1 x.2 = { s.slot x.1 x.2 with port := (s.slot x.1 x.2).port ++ [.eos] } := by
  have hheld : (s.slot x.1 x.2).held = some ⟨k, e.1⟩ := by
    simp only [EdgeSlot.takesEos, Bool.and_eq_true, beq_iff_eq] at h
    obtain ⟨⟨-, hheld⟩, -⟩ := h
    exact hheld
  induction l generalizing s with
  | nil => exact absurd he List.not_mem_nil
  | cons f l ih =>
    obtain ⟨hf, hl⟩ := List.nodup_cons.mp hl
    rcases List.mem_cons.mp he with rfl | he
    · have hk := State.slot_eosFrom_mem hx hn h
      refine (State.slot_eosNodes_other (s := s.eosFrom _) (by rw [hk]; exact hheld) fun g hg hge => ?_).trans hk
      exact hf (List.mem_map.mpr ⟨g, hg, hge⟩)
    · have hne : e.1 ≠ f.1 := fun h => hf (List.mem_map.mpr ⟨e, he, h⟩)
      have hk : (s.eosFrom ⟨k, f.1⟩).slot x.1 x.2 = s.slot x.1 x.2 := by
        refine State.slot_eosFrom_other ?_
        have hn : (some (⟨k, e.1⟩ : NodeRef) == some ⟨k, f.1⟩) = false := by simpa using hne
        rw [EdgeSlot.takesEos, hheld, hn, Bool.and_false, Bool.false_and]
      have hes := State.edgeSlots_eosFrom s ⟨k, f.1⟩ ⟨k, e.1⟩
      exact (ih (s := s.eosFrom _) he hl (hes.symm ▸ hx) (hes.symm ▸ hn) (hk.symm ▸ h) (hk.symm ▸ hheld)).trans (by rw [hk])

end

/-- The view nodes of a sheaf that have yet to send end-of-stream. -/
def Sheaf.eosTodo (sh : Sheaf) : List (Nat × Node) :=
  sh.nodes.filter fun e => e.2.st == .running && !e.2.eos && bits (nth e.2.words 0 0) 63 60 == 2

theorem exec_viewEosSend_ready (h : mfind s.sheaves k = some sh)
    (hr : ∀ e ∈ sh.nodes, e.2.st = .done ∨ bits (nth e.2.words 0 0) 63 60 = 2) :
    exec (.viewEosSend k) s = .next (s.eosNodes k sh.eosTodo) := by
  have hall : (sh.nodes.all fun e => e.2.st == .done || bits (nth e.2.words 0 0) 63 60 == 2) = true :=
    List.all_eq_true.mpr fun e he => by simpa using hr e he
  simp only [exec, execViewEosSend, h, hall, Bool.not_true, Bool.false_eq_true, if_false]
  rfl

theorem mem_eosTodo {e : Nat × Node} (he : e ∈ sh.nodes) (hst : e.2.st = .running) (hw : bits (nth e.2.words 0 0) 63 60 = 2)
    (h : e.2.eos = false) : e ∈ sh.eosTodo := List.mem_filter.mpr ⟨he, by rw [hst, hw, h]; rfl⟩

/-- A listed key is found. -/
theorem mfind_isSome_of_mem {α : Type} {m : Map α} {e : Nat × α} (h : e ∈ m) : (mfind m e.1).isSome = true := by
  induction m with
  | nil => exact absurd h List.not_mem_nil
  | cons f m ih =>
    rw [show mfind (f :: m) e.1 = if f.1 = e.1 then some f.2 else mfind m e.1 from rfl]
    split
    · rfl
    · next hne => exact ih ((List.mem_cons.mp h).resolve_left fun he => hne (by rw [he]))

theorem nodup_of_slotsOnce {l : List (Nat × Nat)} (h : slotsOnce l = true) : l.Nodup := by
  have hn : ∀ l : List Nat, noneTwice l = true → l.Nodup := by
    intro l
    induction l with
    | nil => exact fun _ => List.nodup_nil
    | cons a r ih =>
      intro h
      simp only [noneTwice, Bool.and_eq_true, Bool.not_eq_true', List.contains_eq_mem, decide_eq_false_iff_not] at h
      exact List.nodup_cons.mpr ⟨h.1, ih h.2⟩
  exact List.Nodup.of_map _ (hn _ h)

/-- The key of a node of rising keys names it alone. -/
theorem eq_of_rising {α : Type} {m : Map α} {e f : Nat × α} (h : Rising m) (he : e ∈ m) (hf : f ∈ m) (hk : e.1 = f.1) : e = f :=
  List.inj_on_of_nodup_map (h.imp Nat.ne_of_lt) he hf hk

/-- A slot that a running view node holds, named once by it, has end-of-stream at its access port. -/
theorem State.eosNodes_reaches {e : Nat × Node} (he : e ∈ sh.nodes) (hst : e.2.st = .running)
    (hw : bits (nth e.2.words 0 0) 63 60 = 2) (hrise : Rising sh.nodes) (hone : slotsOnce (s.edgeSlots ⟨k, e.1⟩) = true) {x : Nat × Nat}
    (hx : x ∈ s.edgeSlots ⟨k, e.1⟩) (hb : (s.slot x.1 x.2).bound = true) (hh : (s.slot x.1 x.2).held = some ⟨k, e.1⟩)
    (hk : (s.slot x.1 x.2).kind ≤ 1) : ((s.eosNodes k sh.eosTodo).slot x.1 x.2).port =
      if e.2.eos then (s.slot x.1 x.2).port else (s.slot x.1 x.2).port ++ [.eos] := by
  by_cases hs : e.2.eos = true
  · rw [if_pos hs, State.slot_eosNodes_other hh]
    intro f hf hfe
    obtain ⟨hfm, hft⟩ := List.mem_filter.mp hf
    obtain rfl := eq_of_rising hrise hfm he hfe
    simp [hs] at hft
  · have htakes : (s.slot x.1 x.2).takesEos ⟨k, e.1⟩ = true := by simp [EdgeSlot.takesEos, hb, hh, hk]
    have hnodup : (sh.eosTodo.map (·.1)).Nodup := (hrise.imp Nat.ne_of_lt).sublist (List.filter_sublist.map _)
    rw [if_neg hs, State.slot_eosNodes_mem (mem_eosTodo he hst hw (by simpa using hs)) hnodup hx (nodup_of_slotsOnce hone) htakes]

end

/-- Settles O20. -/
theorem sheavesAndTheirParts : Obligations.SheavesAndTheirParts := by
  unfold Obligations.SheavesAndTheirParts
  refine fun s => ⟨fun k sh => exec_sheafComplete_leaves, fun k sh h hr => ?_, fun k m i => exec_amsgDeliver, fun k sh ph h hb hph hw => ?_,
    fun c j => exec_trunkSleep_idle⟩
  · refine ⟨_, exec_viewEosSend_ready h hr, State.eosNodes_mem .., fun e he hst hk => ⟨fun hs => ?_, ?_⟩⟩
    · exact State.eosNodes_marks (mem_eosTodo he hst hk hs) (by rw [State.node?, h]; exact mfind_isSome_of_mem he)
    · exact fun hrise hone x hx hb hh hkind => State.eosNodes_reaches he hst hk hrise hone hx hb hh hkind
  · intro ws ht
    refine ⟨_, exec_phaseWake_wakes h hb hph hw ht, fun g hg j hj hm => ?_⟩
    exact State.wakeGroups_wakes (s := { s with sheaves := _ }) hg hj hm

end Sys2Proof.Machine

/-! R249, R396 to R405: the vector unit. First, the issue of its commands (R396). -/

namespace Sys2Proof.Machine

section
variable {s : State} {a b : Reg} {wa wb : Bool} {f : BitVec 4} {g : BitVec 3} {p : Instr × Nat × Nat}

/-! ## Issue (R396) -/

/-- Every vector instruction issues as its operation code and flags say. -/
theorem exec_vectors (h : p ∈ vectors a b wa wb f g) (s : State) :
    ∃ flg : BitVec 3, flg.toNat = p.2.2 ∧ exec p.1 s = .next (s.vIssue p.2.1 p.1 a b wa wb f flg) := by
  simp only [vectors, List.mem_cons, List.not_mem_nil, or_false] at h
  rcases h with rfl | rfl | rfl | rfl | rfl | rfl | rfl | rfl | rfl | rfl | rfl | rfl | rfl | rfl | rfl | rfl | rfl | rfl | rfl | rfl | rfl | rfl
  all_goals exact ⟨_, rfl, rfl⟩

/-- A command of legal values, the core's stores acknowledged and a place free, goes to the unit. -/
theorem State.vIssue_queues {vop : Nat} {i : Instr} {flg : BitVec 3} (hwf : i.wf = true) (hr : s.me.ready [a, b] 0 = true)
    (hv : vCheck i vop f.toNat (s.me.get a) (s.me.get b) = none) (hs : s.me.storesAcked = true) (hq : s.me.vq.length < 4) :
    s.vIssue vop i a b wa wb f flg = s.setMe { s.me with
      pc := s.me.pc + 4, wait := none, nextId := s.me.nextId + 1,
      vq := s.me.vq ++ [⟨s.me.nextId, vop, f.toNat, flg.toNat, s.me.get a, s.me.get b, 0, 0, 0, false⟩] } := by
  have hgo : (!s.me.storesAcked || decide (s.me.vq.length ≥ 4)) = false := by
    rw [hs, decide_eq_false (Nat.not_le.mpr hq)]
    rfl
  simp only [State.vIssue, hwf, Bool.not_true, Bool.false_eq_true, if_false, State.issue_ready (srcs := [(a, wa), (b, wb)]) _ hr, hv, hgo]
  rfl

theorem State.vIssue_illegal {vop : Nat} {i : Instr} {flg : BitVec 3} (hwf : i.wf = false) (h : s.me.handles = true) :
    s.vIssue vop i a b wa wb f flg = s.trapped causeIllegal s.me.pc ((encode i).setWidth 64) := by
  rw [State.vIssue, hwf]
  exact State.illegal_handles i h

/-- VSEL and VSHUF take no FP4 (R249). -/
theorem wf_vsel_vshuf_fp4 (h : p ∈ vectors a b wa wb 5 g) : p.2.1 = 17 ∨ p.2.1 = 18 → p.1.wf = false := by
  simp only [vectors, List.mem_cons, List.not_mem_nil, or_false] at h
  rcases h with rfl | rfl | rfl | rfl | rfl | rfl | rfl | rfl | rfl | rfl | rfl | rfl | rfl | rfl | rfl | rfl | rfl | rfl | rfl | rfl | rfl | rfl
  all_goals simp [Instr.wf, vMoveOk]

end

theorem vectorsIssue : Pieces.VectorsIssue := by
  unfold Pieces.VectorsIssue
  intro s a b wa wb f g p hp
  obtain ⟨flg, hflg, hx⟩ := exec_vectors hp s
  refine ⟨fun hwf hr hv hs hq => ?_, fun hwf h => ?_, fun ho hf => ?_⟩
  · rw [hx, State.vIssue_queues hwf hr hv hs hq, hflg]
  · rw [hx, State.vIssue_illegal hwf h]
  · subst hf
    exact wf_vsel_vshuf_fp4 hp ho

end Sys2Proof.Machine

/-! R396, R397: how the vector unit runs a chunk, and the elements of local space that it reads and writes. -/

namespace Sys2Proof.Machine

section
variable {s u : State} {n p : Nat} {v v' : VCmd}

/-! ## Chunks (R396) -/

theorem State.vRun_zero (h : v.next < vCount v.b) : s.vRun n v 0 = s.setCore n { s.core n with vq := v :: (s.core n).vq.drop 1 } :=
  if_neg (Nat.not_le.mpr h)

theorem State.vRun_ok (h : v.next < vCount v.b) (he : s.vElem n v v.next = .ok (u, v')) (k : Nat) :
    s.vRun n v (k + 1) = u.vRun n { v' with next := v'.next + 1 } k := by
  rw [State.vRun, if_neg (Nat.not_le.mpr h), he]

theorem State.vRun_error {f : VFault} (h : v.next < vCount v.b) (he : s.vElem n v v.next = .error f) (k : Nat) :
    s.vRun n v (k + 1) = s.vHold n v f := by
  rw [State.vRun, if_neg (Nat.not_le.mpr h), he]

/-- A command past its last element ends. -/
theorem State.vRun_past (h : vCount v.b ≤ v.next) (k : Nat) : s.vRun n v k = s.vEnd n v := by
  cases k <;> exact if_pos h

/-- The end of a command that leaves no sum. -/
theorem State.vEnd_plain (h : v.vop ≠ 20) (h' : v.vop ≠ 22) : s.vEnd n v = s.vDone n := if_neg (by simp [vopRed, vopDot, h, h'])

/-- Behind no acquire that is still open, the command at the head may run. -/
theorem State.acquiring_head (h : s.vecRuns n v) : (s.core n).acquiring v = false := by
  obtain ⟨-, -, -, ha⟩ := h
  rw [Core.acquiring, List.any_eq_false]
  intro x hx
  cases hacq : x.acq with
  | false => simp
  | true => rcases ha x hx hacq with h | h <;> simp [h]

/-- The chunk of a command whose grain is drawn. -/
theorem exec_vectorChunk_paid (h : s.vecRuns n v) (hp : v.unpaid = false) : exec (.vectorChunk n) s = .next (s.vRun n v (64 - v.next % 64)) := by
  have hacq := State.acquiring_head h
  obtain ⟨⟨rest, hq⟩, hf, hr, -⟩ := h
  simp only [exec, execVectorChunk, hq, hf, hr, hacq, hp, Option.isSome_none, Bool.not_true, Bool.or_self, Bool.false_eq_true, if_false]

/-- The chunk of a command that draws its grain first. -/
theorem exec_vectorChunk_unpaid (h : s.vecRuns n v) (hp : v.unpaid = true) : exec (.vectorChunk n) s =
    .next (let g := s.grain (nField n) (coreUnit n 1) (s.core n).ref
      if g.2 then g.1.vRun n { v with paid := v.next / 64 + 1 } (64 - v.next % 64) else g.1) := by
  have hacq := State.acquiring_head h
  obtain ⟨⟨rest, hq⟩, hf, hr, -⟩ := h
  simp only [exec, execVectorChunk, hq, hf, hr, hacq, hp, Option.isSome_none, Bool.not_true, Bool.or_self, Bool.false_eq_true, if_false,
    if_true]

/-- Whether a command with elements to do still needs a grain. -/
theorem VCmd.unpaid_of_lt (h : v.next < vCount v.b) : v.unpaid = decide (v.paid ≤ v.next / 64) := by
  rw [VCmd.unpaid, if_neg (by omega), decide_eq_true h, Bool.true_and]

theorem exec_vectorChunk_ready (h : s.vecRuns n v) (hl : v.next < vCount v.b) (hp : v.next / 64 < v.paid) :
    exec (.vectorChunk n) s = .next (s.vRun n v (64 - v.next % 64)) :=
  exec_vectorChunk_paid h (by rw [VCmd.unpaid_of_lt hl]; exact decide_eq_false (Nat.not_le.mpr hp))

/-- The chunk that ends with the element at hand, its last or the command's. -/
theorem exec_vectorChunk_last (h : s.vecReady n v p) (he : s.vElem n v p = .ok (u, v')) (hn : v'.next = p) (hb : v'.b = v.b)
    (hl : p % 64 = 63 ∨ p + 1 = vCount v.b) : exec (.vectorChunk n) s =
      .next (if p + 1 = vCount v.b then u.vEnd n { v' with next := p + 1 }
        else u.setCore n { u.core n with vq := { v' with next := p + 1 } :: (u.core n).vq.drop 1 }) := by
  obtain ⟨hr, rfl, hlt, hpaid⟩ := h
  obtain ⟨m, hm⟩ : ∃ m, 64 - v.next % 64 = m + 1 := ⟨63 - v.next % 64, by omega⟩
  rw [exec_vectorChunk_ready hr hlt hpaid, hm, State.vRun_ok hlt he, hn]
  split
  · next hc => rw [State.vRun_past (by dsimp only; rw [hb]; omega)]
  · next hc =>
    obtain rfl : m = 0 := by omega
    rw [State.vRun_zero (by dsimp only; rw [hb]; omega)]

/-- An element that the unit executes takes its place in a run of elements. -/
theorem State.vRun_elem (h : s.vecReady n v p) (he : s.vElem n v p = .ok (u, v')) (hn : v'.next = p) (k : Nat) :
    s.vRun n v (k + 1) = u.vRun n { v' with next := p + 1 } k := by
  obtain ⟨-, rfl, hlt, -⟩ := h
  rw [State.vRun_ok hlt he, hn]

/-- What an element gives, in a command whose end writes nothing, or before its last element. -/
theorem State.vecGives_elem (h : s.vecReady n v p) (he : s.vElem n v p = .ok (u, v')) (hn : v'.next = p) (hb : v'.b = v.b)
    (hs : v'.vop ≠ 20 ∧ v'.vop ≠ 22 ∨ p + 1 ≠ vCount v.b) : s.vecGives u n v v' p := by
  refine ⟨fun hl => ?_, State.vRun_elem h he hn⟩
  rw [exec_vectorChunk_last h he hn hb hl, State.vecWent]
  split
  · next hc =>
    obtain ⟨h1, h2⟩ := hs.resolve_right (not_not_intro hc)
    rw [if_pos (by rw [hb, hc]), State.vEnd_plain (v := { v' with next := p + 1 }) h1 h2]
    rfl
  · next hc => rw [if_neg (by rw [hb]; exact hc)]

/-- What an element gives that leaves the command as it is. -/
theorem State.vecGives_same (h : s.vecReady n v p) (hs : v.vop ≠ 20 ∧ v.vop ≠ 22) (he : s.vElem n v p = .ok (u, v)) : s.vecGives u n v v p := by
  obtain ⟨-, hnext, -⟩ := id h
  exact State.vecGives_elem h he hnext rfl (.inl hs)

/-! ## Elements in local space (R397) -/

section
variable {t base q x : Nat} {px : Bool}

/-- An element of whole bytes in local space is read at its address. -/
theorem State.vRead_bytes (ht : t ≠ 5) (hl : v.at base (typeBits t / 8) p < 0x48000) :
    s.vRead n t base (p * vStride v.b) = .ok (s.vecGet n v base (typeBits t / 8) p) := by
  have hok : vBad (base + p * vStride v.b * (typeBits t / 8)) false = false := by
    have : ¬ 0x48000 ≤ base + p * vStride v.b * (typeBits t / 8) := Nat.not_le.mpr hl
    simp [vBad, this]
  simp only [State.vRead, if_neg ht, hok, Bool.false_eq_true, if_false]
  rfl

/-- A nibble in local space is read at its address. -/
theorem State.vRead_nibble (hl : base + p * vStride v.b / 2 < 0x48000) : s.vRead n 5 base (p * vStride v.b) = .ok (s.vecGet4 n v base p) := by
  have hok : vBad (base + p * vStride v.b / 2) false = false := by simp [vBad, Nat.not_le.mpr hl]
  simp only [State.vRead, if_true, hok, Bool.false_eq_true, if_false]
  rfl

/-- An element of whole bytes in the QSP is written at its address. -/
theorem State.vWrite_bytes (ht : t ≠ 5) (hl : base + q * (typeBits t / 8) < 0x40000) : s.vWrite n t base q x px =
    .ok (s.vecLeft n (quadPa (nWafer n) (nQn n) (base + q * (typeBits t / 8))) (natRun (typeBits t / 8) x px)) := by
  have hok : vBad (base + q * (typeBits t / 8)) true = false := by
    have h1 : ¬ 0x48000 ≤ base + q * (typeBits t / 8) := by omega
    simp [vBad, h1, Nat.not_le.mpr hl]
  simp only [State.vWrite, if_neg ht, hok, Bool.false_eq_true, if_false]
  rfl

/-- The result of an element of whole bytes. -/
theorem State.vOut_bytes (ht : vTypeD v.vop v.fmt ≠ 5) (hl : v.at (vDst v.b) (typeBits (vTypeD v.vop v.fmt) / 8) p < 0x40000) :
    s.vOut n v p x px = .ok (s.vecPut n v (typeBits (vTypeD v.vop v.fmt) / 8) p (x, px), v) := by
  rw [State.vOut, State.vWrite_bytes ht hl]
  rfl

/-- The result of an element of a nibble. -/
theorem State.vOut_nibble (ht : vTypeD v.vop v.fmt = 5) (hl : vDst v.b + p * vStride v.b / 2 < 0x40000) :
    s.vOut n v p x px = .ok (s.vecPut4 n v p (x, px), v) := by
  have hok : vBad (vDst v.b + p * vStride v.b / 2) true = false := by
    have h1 : ¬ 0x48000 ≤ vDst v.b + p * vStride v.b / 2 := by omega
    simp [vBad, h1, Nat.not_le.mpr hl]
  simp only [State.vOut, State.vWrite, ht, if_true, hok, Bool.false_eq_true, if_false]
  rfl

/-- A result past the QSP is no element. -/
theorem State.vOut_outside (ht : vTypeD v.vop v.fmt ≠ 5) (hl : 0x40000 ≤ v.at (vDst v.b) (typeBits (vTypeD v.vop v.fmt) / 8) p) :
    s.vOut n v p x px = .error (v.at (vDst v.b) (typeBits (vTypeD v.vop v.fmt) / 8) p, 1) := by
  have hbad : vBad (vDst v.b + p * vStride v.b * (typeBits (vTypeD v.vop v.fmt) / 8)) true = true := by
    have : 0x40000 ≤ vDst v.b + p * vStride v.b * (typeBits (vTypeD v.vop v.fmt) / 8) := hl
    simp [vBad, this]
  simp only [State.vOut, State.vWrite, if_neg ht, hbad, if_true]
  rfl

end

/-! ## Element types (R250) -/

/-- A type of bytes is no FP4, and takes whole bytes. -/
theorem typeBits_bytes {t : Nat} (h : 8 ≤ typeBits t) : t ≠ 5 ∧ typeBits t = 8 * (typeBits t / 8) ∧ typeBits t ≤ 64 := by
  unfold typeBits at h ⊢
  split at h <;> simp_all

end

end Sys2Proof.Machine

/-! R396 to R404: the elements of the vector commands but for arithmetic, and the runs and ends of commands. -/

namespace Sys2Proof.Machine

/-! ## Numbers of some bits -/

theorem State.readNat_lt (s : State) (pa n : Nat) : s.readNat pa n < 2 ^ (8 * n) := by
  induction n generalizing pa with
  | zero => exact Nat.one_pos
  | succ n ih =>
    have hb : (s.byteAt pa).toNat < 256 := (s.byteAt pa).isLt
    have hr := ih (pa + 1)
    rw [State.readNat, show 8 * (n + 1) = 8 * n + 8 by omega, Nat.pow_add]
    omega

/-- An element of whole bytes fits its type. -/
theorem State.vecGet_lt (s : State) (n : Nat) (v : VCmd) (base p : Nat) {t : Nat} (h : 8 ≤ typeBits t) :
    (s.vecGet n v base (typeBits t / 8) p).1 < 2 ^ typeBits t := by
  obtain ⟨-, hb, -⟩ := typeBits_bytes h
  rw [hb]
  exact (State.readNat_lt ..).trans_eq (by rw [Nat.mul_div_cancel_left _ (by decide)])

/-- The number of a word of `n` bits, read as a signed integer. -/
theorem sgn_of_lt {n x : Nat} (h : x < 2 ^ n) : sgn x n = (BitVec.ofNat n x).toInt := by
  rw [← sgn_toNat, BitVec.toNat_ofNat, Nat.mod_eq_of_lt h]

theorem sext64_eq_ofInt_sgn {x n : Nat} (h : n ≤ 64) : sext64 x n = BitVec.ofInt 64 (sgn x n) := by
  have hp : 2 ^ n ≤ 2 ^ 64 := Nat.pow_le_pow_right (by decide) h
  unfold sext64 sgn
  split
  · have hi : ((x % 2 ^ n + (2 ^ 64 - 2 ^ n) : Nat) : Int) = ((x % 2 ^ n : Nat) : Int) - ((2 ^ n : Nat) : Int) + ((2 ^ 64 : Nat) : Int) := by
      omega
    rw [w64, ← BitVec.ofInt_natCast, hi, BitVec.ofInt_add]
    simp
  · rw [w64, BitVec.ofInt_natCast]

/-- The sign-extension of a word of `n` bits. -/
theorem sext64_of_lt {n x : Nat} (h64 : n ≤ 64) (h : x < 2 ^ n) : sext64 x n = (BitVec.ofNat n x).signExtend 64 := by
  rw [sext64_eq_ofInt_sgn h64, sgn_of_lt h]
  rfl

section
variable {s : State} {n p : Nat} {v : VCmd}

/-! ## Moves (R401, R402) -/

theorem State.vElem_cmp (h : v.vop = 16) : s.vElem n v p = s.vElemCmp n v p := by simp [State.vElem, h, vIsCvt, vopFill, vopSel, vopShuf, vopCvt, vopCvtS, vopCmp]

theorem State.vElem_sel (h : v.vop = 17) : s.vElem n v p = s.vElemSel n v p := by simp [State.vElem, h, vopFill, vopSel]

theorem State.vElem_shuf (h : v.vop = 18) : s.vElem n v p = s.vElemShuf n v p := by simp [State.vElem, h, vopFill, vopSel, vopShuf]

theorem State.vElem_fill (h : v.vop = 19) : s.vElem n v p = s.vOut n v p (v.a.toNat % 2 ^ typeBits v.fmt) false := by
  simp [State.vElem, h, vopFill, vTypeD, vopCmp, vIsSum, vopRed, vopScan, vopDot]

/-- The condition of a VCMP holds as its flags name it. -/
theorem vCompare_eq {t flg x y : Nat} (hf : flg < 4) (hx : x < 2 ^ typeBits t) (hy : y < 2 ^ typeBits t) :
    let nan := (fpRead t x).isNan || (fpRead t y).isNan
    let eq := if typeFloat t then (fpRead t x).eq (fpRead t y) else x == y
    let lt := if typeFloat t then (fpRead t x).lt (fpRead t y) else
      if typeSigned t then decide ((BitVec.ofNat (typeBits t) x).toInt < (BitVec.ofNat (typeBits t) y).toInt) else decide (x < y)
    vCompare t flg x y = nth [eq, !eq, lt, !lt && !(typeFloat t && nan)] flg false := by
  obtain rfl | rfl | rfl | rfl : flg = 0 ∨ flg = 1 ∨ flg = 2 ∨ flg = 3 := by omega
  all_goals
    simp only [vCompare, sgn_of_lt hx, sgn_of_lt hy]
    cases typeFloat t <;> cases typeSigned t <;> simp [nth, Bool.and_assoc]

section
variable {x y : Nat × Bool}

theorem State.vElemCmp_reads (h1 : s.vS1 n v p = .ok x) (h2 : s.vS2 n v p = .ok y) :
    s.vElemCmp n v p = s.vOut n v p (b2n (vCompare v.fmt v.flg x.1 y.1)) (x.2 || y.2) := by
  rw [State.vElemCmp, h1, h2]

theorem State.vElemSel_skips (h2 : s.vS2 n v p = .ok y) (h0 : y.1 = 0) (hp : y.2 = false) : s.vElemSel n v p = .ok (s, v) := by
  simp only [State.vElemSel, h2, h0, hp]
  rfl

theorem State.vElemSel_writes (h2 : s.vS2 n v p = .ok y) (h1 : s.vS1 n v p = .ok x) (h : y.1 ≠ 0 ∨ y.2 = true) :
    s.vElemSel n v p = s.vOut n v p x.1 (x.2 || y.2) := by
  have hgo : (decide (y.1 = 0) && !y.2) = false := by rcases h with h | h <;> simp [h]
  simp only [State.vElemSel, h2, hgo, Bool.false_eq_true, if_false, h1]

theorem State.vElemShuf_past (h2 : s.vS2 n v p = .ok y) (h : vCount v.b ≤ y.1) : s.vElemShuf n v p = s.vOut n v p 0 y.2 := by
  simp only [State.vElemShuf, h2, ge_iff_le, h, if_true]

theorem State.vElemShuf_names (h2 : s.vS2 n v p = .ok y) (h : y.1 < vCount v.b) (h1 : s.vS1 n v y.1 = .ok x) :
    s.vElemShuf n v p = s.vOut n v p x.1 (x.2 || y.2) := by
  simp only [State.vElemShuf, h2, ge_iff_le, Nat.not_le.mpr h, if_false, h1]

end

theorem State.vS1_bytes {k : Nat} (ht : 8 ≤ typeBits v.fmt) (hl : v.at (vSrc1 v.a) (typeBits v.fmt / 8) k < 0x48000) :
    s.vS1 n v k = .ok (s.vecGet n v (vSrc1 v.a) (typeBits v.fmt / 8) k) := State.vRead_bytes (typeBits_bytes ht).1 hl

/-- The second source of a command whose second operand has type `t`. -/
theorem State.vS2_bytes {t : Nat} (h2 : vType2 v.vop v.fmt = t) (ht : 8 ≤ typeBits t) (hl : v.at (vSrc2 v.a) (typeBits t / 8) p < 0x48000) :
    s.vS2 n v p = .ok (s.vecGet n v (vSrc2 v.a) (typeBits t / 8) p) := by
  rw [State.vS2, h2]
  exact State.vRead_bytes (typeBits_bytes ht).1 hl

/-- The result of an element whose type `t` takes whole bytes. -/
theorem State.vOut_typed {t x : Nat} {px : Bool} (hd : vTypeD v.vop v.fmt = t) (ht : 8 ≤ typeBits t)
    (hl : v.at (vDst v.b) (typeBits t / 8) p < 0x40000) : s.vOut n v p x px = .ok (s.vecPut n v (typeBits t / 8) p (x, px), v) := by
  subst hd
  exact State.vOut_bytes (typeBits_bytes ht).1 hl

theorem vTypeD_move {vop fmt : Nat} (h : vop = 17 ∨ vop = 18 ∨ vop = 19) : vTypeD vop fmt = fmt := by
  rcases h with rfl | rfl | rfl <;> rfl

/-- A command whose destination is of its own type writes there. -/
theorem State.vOut_move {x : Nat} {px : Bool} (h : v.vop = 17 ∨ v.vop = 18 ∨ v.vop = 19) (hw : 8 ≤ typeBits v.fmt)
    (hd : v.at (vDst v.b) (typeBits v.fmt / 8) p < 0x40000) : s.vOut n v p x px = .ok (s.vecPut n v (typeBits v.fmt / 8) p (x, px), v) :=
  State.vOut_typed (vTypeD_move h) hw hd

/-- The command is no sum. -/
theorem noSum_of_lt {vop : Nat} (h : vop < 20) : vop ≠ 20 ∧ vop ≠ 22 := by omega

end

theorem vectorMoves : Pieces.VectorMoves := by
  unfold Pieces.VectorMoves
  intro s n v p hr _
  dsimp only
  have gives : ∀ {u}, v.vop < 20 → s.vElem n v p = .ok (u, v) → s.vecGives u n v v p := fun hs => State.vecGives_same hr (noSum_of_lt hs)
  refine ⟨fun hop hw hf h1 h2 hd => ?_, fun hop hw h2 => ⟨fun hm hp => ?_, fun hm h1 hd => ?_⟩,
    fun hop hw h2 hd => ⟨fun hk => ?_, fun hk h1 => ?_⟩, fun hop hw hd => ?_, fun hop ht hd => ?_⟩
  · -- VCMP
    refine gives (by omega) ?_
    rw [State.vElem_cmp hop, State.vElemCmp_reads (State.vS1_bytes hw h1) (State.vS2_bytes (by rw [hop]; rfl) hw h2),
      State.vOut_typed (t := 0xB) (by rw [hop]; rfl) (by decide) hd, vCompare_eq hf (State.vecGet_lt _ _ _ _ _ hw) (State.vecGet_lt _ _ _ _ _ hw)]
    rfl
  all_goals refine gives (by omega) ?_
  · -- VSEL, its mask byte 0
    rw [State.vElem_sel hop, State.vElemSel_skips (State.vS2_bytes (t := 0xB) (by rw [hop]; rfl) (by decide) h2) hm hp]
  · -- VSEL
    rw [State.vElem_sel hop, State.vElemSel_writes (State.vS2_bytes (t := 0xB) (by rw [hop]; rfl) (by decide) h2) (State.vS1_bytes hw h1) hm,
      State.vOut_move (by omega) hw hd]
    rfl
  · -- VSHUF past the last element
    rw [State.vElem_shuf hop, State.vElemShuf_past (State.vS2_bytes (t := 0xC) (by rw [hop]; rfl) (by decide) h2) hk,
      State.vOut_move (by omega) hw hd]
    rfl
  · -- VSHUF
    rw [State.vElem_shuf hop, State.vElemShuf_names (State.vS2_bytes (t := 0xC) (by rw [hop]; rfl) (by decide) h2) hk (State.vS1_bytes hw h1),
      State.vOut_move (by omega) hw hd]
    rfl
  · -- VFILL
    rw [State.vElem_fill hop, State.vOut_move (by omega) hw hd]
  · -- VFILL of FP4
    rw [State.vElem_fill hop, State.vOut_nibble ((vTypeD_move (by omega)).trans ht) hd, ht]
    rfl

/-! ## Conversions (R404) -/

section
variable {s : State} {n p : Nat} {v : VCmd}

theorem State.vElem_cvt (h : v.vop = 14 ∨ v.vop = 15) : s.vElem n v p = s.vElemCvt n v p := by
  rcases h with h | h <;> simp [State.vElem, h, vIsCvt, vopFill, vopSel, vopShuf, vopCvt, vopCvtS]

/-- A source element of whole bytes is the pattern at its address. -/
theorem State.vValue_bytes (h5 : vStype v.b ≠ 5) (h6 : vStype v.b ≠ 6)
    (hl : v.at (vSrc1 v.a) (typeBits (vStype v.b) / 8) p < 0x48000) : s.vValue n v p =
      .ok (elemRead (vStype v.b) (s.vecGet n v (vSrc1 v.a) (typeBits (vStype v.b) / 8) p).1,
        (s.vecGet n v (vSrc1 v.a) (typeBits (vStype v.b) / 8) p).2) := by
  rw [State.vValue, if_neg h6, State.vRead_bytes h5 hl]

theorem State.vValue_nibble (h5 : vStype v.b = 5) (hl : vSrc1 v.a + p * vStride v.b / 2 < 0x48000) :
    s.vValue n v p = .ok (elemRead 5 (s.vecGet4 n v (vSrc1 v.a) p).1, (s.vecGet4 n v (vSrc1 v.a) p).2) := by
  rw [State.vValue, h5, if_neg (by decide), State.vRead_nibble hl]

/-- An element of the first formatted block. -/
theorem State.vValue_block (h6 : vStype v.b = 6) (hl : vSrc1 v.a < 0x48000)
    (hp : p < (blockElems (s.readRun (quadPa (nWafer n) (nQn n) (vSrc1 v.a)) 64)).length) : s.vValue n v p =
      .ok (nth (blockElems (s.readRun (quadPa (nWafer n) (nQn n) (vSrc1 v.a)) 64)) p (.nan, true)) := by
  have hok : vBad (vSrc1 v.a) false = false := by simp [vBad, Nat.not_le.mpr hl]
  rw [State.vValue, if_pos h6, State.vBlock, if_neg (by rw [hok]; decide)]
  exact if_pos hp

/-- The state once the core's generator has stepped for an element that is rounded by code `flg`. -/
def State.vStepped (s : State) (n flg : Nat) : State :=
  s.setCore n { s.core n with vgen := if flg = 4 then lfsr (s.core n).vgen else (s.core n).vgen }

/-- A source's value is rounded to the target and written. -/
theorem State.vElemCvt_value {z : Fp × Bool} (h : s.vValue n v p = .ok z) : s.vElemCvt n v p = (s.vStepped n v.flg).vOut n v p
    (elemRound v.fmt v.flg (v.vop == 15) (if v.flg = 4 then lfsr (s.core n).vgen else (s.core n).vgen).toNat z.1) z.2 := by
  rw [State.vElemCvt, h]
  rfl

end

theorem vectorConverts : Pieces.VectorConverts := by
  unfold Pieces.VectorConverts
  intro s n v p hr hop _
  dsimp only
  refine ⟨fun h5 h6 hl => State.vValue_bytes h5 h6 hl, fun h5 hl => State.vValue_nibble h5 hl, fun h6 hp hl => State.vValue_block h6 hl hp,
    fun z pz hz => ⟨fun hw hd => ?_, fun hf hd => ?_⟩⟩
  all_goals
    have htype : vTypeD v.vop v.fmt = v.fmt := by rcases hop with h | h <;> rw [h] <;> rfl
    refine State.vecGives_same hr (noSum_of_lt (by omega)) ?_
    rw [State.vElem_cvt hop, State.vElemCvt_value hz]
  · rw [State.vOut_typed htype hw hd]
    rfl
  · rw [State.vOut_nibble (htype.trans hf) hd]
    rfl

/-! ## Runs and ends (R396, R397, R403) -/

theorem vectorRuns : Pieces.VectorRuns := by
  unfold Pieces.VectorRuns
  intro s n v
  dsimp only
  refine ⟨fun h hl => ⟨fun hp => exec_vectorChunk_ready h hl hp, fun hp => exec_vectorChunk_unpaid h ?_⟩, State.vRun_zero,
    fun hl k f he => State.vRun_error hl he k, fun hl h1 h2 k => (State.vRun_past hl k).trans (State.vEnd_plain h1 h2)⟩
  rw [VCmd.unpaid_of_lt hl]
  exact decide_eq_true hp

section
variable {s : State} {n : Nat} {v : VCmd}

/-- A sum of no element needs a grain; another command of none needs none. -/
theorem VCmd.unpaid_empty (h : vCount v.b = 0) (hs : (v.vop = 20 ∨ v.vop = 22) → v.paid ≠ 0) : v.unpaid = false := by
  rw [VCmd.unpaid, if_pos h]
  by_cases hop : v.vop = 20 ∨ v.vop = 22
  · simp [hs hop]
  · obtain ⟨h1, h2⟩ := not_or.mp hop
    simp [vopRed, vopDot, h1, h2]

/-- The type of a sum (R398). -/
theorem vTypeD_sum {vop fmt : Nat} (h : vop = 20 ∨ vop = 21 ∨ vop = 22) : vTypeD vop fmt = if typeFloat fmt then 7 else 0xE := by
  rcases h with rfl | rfl | rfl <;> rfl

/-- A sum takes four bytes or eight. -/
theorem typeBits_sum (t : Nat) : 8 ≤ typeBits (if typeFloat t then 7 else 0xE) ∧
    typeBits (if typeFloat t then 7 else 0xE) / 8 = if typeFloat t then 4 else 8 := by
  split <;> decide

/-- The end of VRED and VDOT writes their sum at dst. -/
theorem State.vEnd_sum (h : v.vop = 20 ∨ v.vop = 22) (hl : vDst v.b < 0x40000) : s.vEnd n v =
    (s.vecLeft n (quadPa (nWafer n) (nQn n) (vDst v.b)) (natRun (if typeFloat v.fmt then 4 else 8) v.acc.toNat v.accPoison)).vDone n := by
  obtain ⟨hw, hsize⟩ := typeBits_sum v.fmt
  have hgo : (decide (v.vop = vopRed) || decide (v.vop = vopDot)) = true := by
    rcases h with h | h <;> simp [h, vopRed, vopDot]
  rw [State.vEnd, if_pos hgo, vTypeD_sum (by omega), State.vWrite_bytes (typeBits_bytes hw).1 (by rwa [Nat.zero_mul, Nat.add_zero]), hsize,
    Nat.zero_mul, Nat.add_zero]

end

theorem vectorEnds : Pieces.VectorEnds := by
  unfold Pieces.VectorEnds
  intro s n v h
  dsimp only
  refine ⟨fun h0 hs => ?_, fun h0 hs hp hacc hpo hl _ => ?_, fun l hop hl hp hw _ hat hout => ?_⟩
  · obtain ⟨h1, h2⟩ := not_or.mp hs
    rw [exec_vectorChunk_paid h (VCmd.unpaid_empty h0 fun hs' => absurd hs' hs), State.vRun_past (by omega), State.vEnd_plain h1 h2]
    rfl
  · rw [exec_vectorChunk_paid h (VCmd.unpaid_empty h0 fun _ => hp), State.vRun_past (by omega), State.vEnd_sum hs hl, hacc, hpo]
    rfl
  · subst hat
    obtain ⟨m, hm⟩ : ∃ m, 64 - v.next % 64 = m + 1 := ⟨63 - v.next % 64, by omega⟩
    have htype : vTypeD v.vop v.fmt = v.fmt := vTypeD_move (by omega)
    have he : s.vElem n v v.next = .error (v.at (vDst v.b) (typeBits v.fmt / 8) v.next, 1) := by
      have := State.vOut_outside (s := s) (n := n) (v := v) (p := v.next) (x := v.a.toNat % 2 ^ typeBits v.fmt) (px := false)
      rw [htype] at this
      rw [State.vElem_fill hop]
      exact this (typeBits_bytes hw).1 hout
    rw [exec_vectorChunk_ready h hl hp, hm, State.vRun_error hl he]

/-! ## Sums (R403) -/

section
variable {s : State} {n p : Nat} {v : VCmd}

theorem State.vElem_sum (h : v.vop = 20 ∨ v.vop = 21 ∨ v.vop = 22) : s.vElem n v p = s.vElemSum n v p := by
  rcases h with h | h | h <;> simp [State.vElem, h, vIsCvt, vIsSum, vopFill, vopSel, vopShuf, vopCvt, vopCvtS, vopCmp, vopRed, vopScan, vopDot]

/-- The running sum once it has taken an element `x` of source one and, of VDOT, `y` of source two. -/
def VCmd.summed (v : VCmd) (x y : Nat × Bool) : VCmd :=
  { v with acc := vSum v.vop v.fmt v.acc x.1 y.1, accPoison := v.accPoison || x.2 || (v.vop == 22 && y.2) }

theorem State.vElemSum_reads {x y : Nat × Bool} (h1 : s.vS1 n v p = .ok x) (h2 : v.vop = 22 → s.vS2 n v p = .ok y) :
    s.vElemSum n v p = if v.vop = vopScan then s.vOut n (v.summed x y) p (v.summed x y).acc.toNat (v.summed x y).accPoison
      else .ok (s, v.summed x y) := by
  by_cases h : v.vop = 22
  · simp only [State.vElemSum, h1, h2 h, if_pos (show v.vop = vopDot from h), VCmd.summed, show (v.vop == 22) = true by simp [h],
      Bool.true_and]
  · have hy : vSum v.vop v.fmt v.acc x.1 y.1 = vSum v.vop v.fmt v.acc x.1 0 := by simp [vSum, vopDot, h]
    simp only [State.vElemSum, h1, if_neg (show ¬v.vop = vopDot from h), VCmd.summed, show (v.vop == 22) = false by simp [h],
      Bool.false_and, hy]

/-- VSCAN writes a sum at each element. -/
theorem State.vOut_scan {x : Nat} {px : Bool} (h : v.vop = 21) (hl : v.at (vDst v.b) (if typeFloat v.fmt then 4 else 8) p < 0x40000) :
    s.vOut n v p x px = .ok (s.vecPut n v (if typeFloat v.fmt then 4 else 8) p (x, px), v) := by
  obtain ⟨hw, hsize⟩ := typeBits_sum v.fmt
  rw [State.vOut_typed (vTypeD_sum (by omega)) hw (by rwa [hsize]), hsize]

/-- The running sum of R403. -/
theorem vSum_eq {vop t x y : Nat} (ht : 8 ≤ typeBits t) (hx : x < 2 ^ typeBits t) (hy : y < 2 ^ typeBits t) (acc : W64) :
    let dot := vop == 22
    let ext := fun (k : Nat) => if typeSigned t then (BitVec.ofNat (typeBits t) k).signExtend 64 else BitVec.ofNat 64 k
    let term := if dot then (fpRead t x).mul (fpRead t y) else fpRead t x
    vSum vop t acc x y = if typeFloat t then BitVec.ofNat 64 (fpRound 7 0 false 0 (term.add 0 (fpRead 7 acc.toNat)))
      else acc + (if dot then ext x * ext y else ext x) := by
  obtain ⟨-, -, h64⟩ := typeBits_bytes ht
  simp only [vSum, sext64_of_lt h64 hx, sext64_of_lt h64 hy, vopDot, beq_iff_eq]
  rfl

end

theorem vectorSums : Pieces.VectorSums := by
  unfold Pieces.VectorSums
  intro s n v p hr hw _
  dsimp only
  intro h1 h2
  rw [← vSum_eq hw (State.vecGet_lt _ _ _ _ _ hw) (State.vecGet_lt _ _ _ _ _ hw)]
  obtain ⟨-, hnext, -⟩ := id hr
  have helem : (v.vop = 20 ∨ v.vop = 21 ∨ v.vop = 22) → s.vElem n v p = _ := fun hop => (State.vElem_sum hop).trans
    (State.vElemSum_reads (State.vS1_bytes hw h1) fun hd => State.vS2_bytes (by rw [hd]; rfl) hw (h2 (by rw [hd]; rfl)))
  refine ⟨fun hop hd => ?_, fun hop => ?_⟩
  · -- VSCAN writes each sum.
    have he := helem (by omega)
    rw [if_pos (show v.vop = vopScan from hop), State.vOut_scan (v := VCmd.summed ..) hop hd] at he
    exact State.vecGives_elem hr he hnext rfl (.inl (show v.vop ≠ 20 ∧ v.vop ≠ 22 by omega))
  · -- VRED and VDOT write the last one.
    have he := helem (by omega)
    rw [if_neg (by rcases hop with h | h <;> rw [h] <;> decide)] at he
    refine ⟨fun hl => State.vecGives_elem hr he hnext rfl (.inr hl), fun hl => ⟨State.vRun_elem hr he hnext, fun hd => ?_⟩⟩
    rw [exec_vectorChunk_last hr he hnext rfl (.inr hl), if_pos hl, State.vecWent, if_pos hl]
    exact congrArg _ (State.vEnd_sum (v := { v.summed _ _ with next := p + 1 }) hop hd)

end Sys2Proof.Machine

/-! R397, R399, R400: the arithmetic of the vector unit. -/

namespace Sys2Proof.Machine

/-! ## The functions at their special operands (R400) -/

/-- The special operands of R400 in FP32, with their results: operation, operand, result. -/
def vSpecials : List (Nat × Nat × Nat) :=
  [(9, 0, 0x7F800000), (9, 0x80000000, 0xFF800000), (9, 0x7F800000, 0), (9, 0xFF800000, 0x80000000),
    (10, 0, 0x7F800000), (10, 0x80000000, 0xFF800000), (10, 0x7F800000, 0), (10, 0xFF800000, 0x7FC00000),
    (11, 0, 0x3F800000), (11, 0x80000000, 0x3F800000), (11, 0x7F800000, 0x7F800000), (11, 0xFF800000, 0),
    (12, 0, 0xFF800000), (12, 0x80000000, 0xFF800000), (12, 0x7F800000, 0x7F800000), (12, 0xFF800000, 0x7FC00000),
    (13, 0, 0), (13, 0x80000000, 0x80000000), (13, 0x7F800000, 0x3F800000), (13, 0xFF800000, 0xBF800000)]

/-- Each of them is rounded to its result, whatever the rounding code. -/
theorem vFunc_specials : ∀ flg < 4, ∀ r ∈ vSpecials,
    (9 ≤ r.1 ∧ r.1 ≤ 13) ∧ fpRound 7 flg false 0 (vFunc r.1 flg (fpRead 7 r.2.1)) = r.2.2 := by decide

/-- The functions form one exact value of their operand and round it. -/
theorem vArith_function {op t : Nat} (hf : typeFloat t = true) (hlo : 9 ≤ op) (hhi : op ≤ 13) (flg x y d : Nat) :
    vArith op t flg x y d = fpRound t flg false 0 (vFunc op flg (fpRead t x)) := by
  obtain rfl | rfl | rfl | rfl | rfl : op = 9 ∨ op = 10 ∨ op = 11 ∨ op = 12 ∨ op = 13 := by omega
  all_goals simp only [vArith, hf, if_true]

theorem fpRead_nan {x : Nat} (hlo : 0x7F800000 < x) (hhi : x < 0x80000000) : fpRead 7 x = .nan := by
  have he : x >>> 23 % 256 = 255 := by rw [Nat.shiftRight_eq_div_pow]; omega
  have hm : x % 8388608 ≠ 0 := by omega
  simp [fpRead, fmtOf, he, hm]

/-- A negative pattern between −0 and −∞ is a finite number other than 0. -/
theorem fpRead_negative {x : Nat} (hlo : 0x80000000 < x) (hhi : x < 0xFF800000) : ∃ m e, m ≠ 0 ∧ fpRead 7 x = .fin true m e := by
  have he : x >>> 23 % 256 ≠ 255 := by rw [Nat.shiftRight_eq_div_pow]; omega
  have hs : x >>> 31 % 2 = 1 := by rw [Nat.shiftRight_eq_div_pow]; omega
  by_cases h0 : x >>> 23 % 256 = 0
  · have hm : x % 8388608 ≠ 0 := by rw [Nat.shiftRight_eq_div_pow] at h0; omega
    exact ⟨x % 8388608, -149, hm, by simp [fpRead, fmtOf, h0, hs]⟩
  · exact ⟨8388608 + x % 8388608, ((x >>> 23 % 256 : Nat) : Int) - 127 - 23, by omega, by simp [fpRead, fmtOf, h0, hs, he]⟩

/-- No function has a value at a NaN. -/
theorem vFunc_nan {op : Nat} (hlo : 9 ≤ op) (hhi : op ≤ 13) (flg : Nat) : vFunc op flg .nan = .nan := by
  obtain rfl | rfl | rfl | rfl | rfl : op = 9 ∨ op = 10 ∨ op = 11 ∨ op = 12 ∨ op = 13 := by omega
  all_goals rfl

/-- No negative number but 0 has a square root or a logarithm. -/
theorem vFunc_negative {op m : Nat} {e : Int} (h : op = 10 ∨ op = 12) (hm : m ≠ 0) (flg : Nat) : vFunc op flg (.fin true m e) = .nan := by
  rcases h with rfl | rfl
  · simp [vFunc, Fp.rsqrt, hm]
  · simp [vFunc, logV, hm]

theorem vectorFunctions : Pieces.VectorFunctions := by
  unfold Pieces.VectorFunctions
  intro flg y d hflg
  refine ⟨fun r hr => ?_, fun x => ⟨fun hlo hhi op hop => ?_, fun hlo hhi op hop => ?_⟩⟩
  · obtain ⟨⟨hlo, hhi⟩, hv⟩ := vFunc_specials flg hflg r hr
    rw [vArith_function rfl hlo hhi, hv]
  · have hop' : 9 ≤ op ∧ op ≤ 13 := by
      simp only [List.mem_cons, List.not_mem_nil, or_false] at hop
      omega
    rw [vArith_function rfl hop'.1 hop'.2, fpRead_nan hlo hhi, vFunc_nan hop'.1 hop'.2]
    rfl
  · have hop' : op = 10 ∨ op = 12 := by simpa using hop
    obtain ⟨m, e, hm, hx⟩ := fpRead_negative hlo hhi
    rw [vArith_function rfl (by omega) (by omega), hx, vFunc_negative hop' hm]
    rfl

/-! ## Integers (R399) -/

section
variable {t x y : Nat}

/-- The results of integer types are those of words of their width. -/
theorem vArith_int (hf : typeFloat t = false) (hx : x < 2 ^ typeBits t) (hy : y < 2 ^ typeBits t) (flg d : Nat) :
    let w := typeBits t
    let a := BitVec.ofNat w x
    let b := BitVec.ofNat w y
    vArith 1 t flg x y d = (a + b).toNat ∧ vArith 2 t flg x y d = (a - b).toNat ∧ vArith 3 t flg x y d = (a * b).toNat ∧
      vArith 4 t flg x y d = (a * b + BitVec.ofNat w d).toNat ∧ vArith 8 t flg x y d = (-a).toNat := by
  have ha : (BitVec.ofNat (typeBits t) x).toNat = x := by rw [BitVec.toNat_ofNat, Nat.mod_eq_of_lt hx]
  have hb : (BitVec.ofNat (typeBits t) y).toNat = y := by rw [BitVec.toNat_ofNat, Nat.mod_eq_of_lt hy]
  refine ⟨?_, ?_, ?_, ?_, ?_⟩
  all_goals simp only [vArith, hf, Bool.false_eq_true, if_false]
  · rw [BitVec.toNat_add, ha, hb]
  · rw [BitVec.toNat_sub, ha, hb]
    congr 1
    omega
  · rw [BitVec.toNat_mul, ha, hb]
  · rw [BitVec.toNat_add, BitVec.toNat_mul, ha, hb, BitVec.toNat_ofNat, Nat.mod_add_mod, Nat.add_mod_mod]
  · rw [BitVec.toNat_neg, ha]

/-- The order of integer types is that of their words. -/
theorem vArith_order (hf : typeFloat t = false) (hx : x < 2 ^ typeBits t) (hy : y < 2 ^ typeBits t) (flg d : Nat) :
    let a := BitVec.ofNat (typeBits t) x
    let b := BitVec.ofNat (typeBits t) y
    let lt := if typeSigned t then a.toInt < b.toInt else a.toNat < b.toNat
    vArith 5 t flg x y d = (if lt then a else b).toNat ∧ vArith 6 t flg x y d = (if lt then b else a).toNat := by
  have ha : (BitVec.ofNat (typeBits t) x).toNat = x := by rw [BitVec.toNat_ofNat, Nat.mod_eq_of_lt hx]
  have hb : (BitVec.ofNat (typeBits t) y).toNat = y := by rw [BitVec.toNat_ofNat, Nat.mod_eq_of_lt hy]
  constructor <;> simp only [vArith, hf, Bool.false_eq_true, if_false, sgn_of_lt hx, sgn_of_lt hy, apply_ite BitVec.toNat, ha, hb]

theorem vArith_abs (hf : typeFloat t = false) (hx : x < 2 ^ typeBits t) (flg d : Nat) :
    let a := BitVec.ofNat (typeBits t) x
    vArith 7 t flg x y d = (if a.toInt < 0 then -a else a).toNat := by
  have ha : (BitVec.ofNat (typeBits t) x).toNat = x := by rw [BitVec.toNat_ofNat, Nat.mod_eq_of_lt hx]
  simp only [vArith, hf, Bool.false_eq_true, if_false, sgn_of_lt hx, apply_ite BitVec.toNat, ha, BitVec.toNat_neg]

/-- The results of floating types are exact values of their operands, rounded once. -/
theorem vArith_float (hf : typeFloat t = true) (flg d : Nat) :
    let a := fpRead t x
    let b := fpRead t y
    let r := fpRound t flg false 0
    (vArith 1 t flg x y d = r (a.add flg b) ∧ vArith 2 t flg x y d = r (a.add flg b.neg) ∧ vArith 3 t flg x y d = r (a.mul b) ∧
      vArith 4 t flg x y d = r ((a.mul b).add flg (fpRead t d))) ∧ (vArith 5 t flg x y d = r (a.min b) ∧ vArith 6 t flg x y d = r (a.max b)) ∧
      vArith 7 t flg x y d = r a.abs ∧ vArith 8 t flg x y d = r a.neg :=
  ⟨⟨if_pos hf, if_pos hf, if_pos hf, if_pos hf⟩, ⟨if_pos hf, if_pos hf⟩, if_pos hf, if_pos hf⟩

end

/-! ## An element of arithmetic (R399) -/

section
variable {s : State} {n p : Nat} {v : VCmd} {x y d : Nat × Bool}

theorem State.vElem_arith (hlo : 1 ≤ v.vop) (hhi : v.vop ≤ 13) : s.vElem n v p = s.vElemArith n v p := by
  have h : ∀ k, 14 ≤ k → v.vop ≠ k := fun k hk => by omega
  simp [State.vElem, vIsCvt, vIsSum, vopFill, vopSel, vopShuf, vopCvt, vopCvtS, vopCmp, vopRed, vopScan, vopDot, h]

theorem vUses2_two {vop : Nat} (hlo : 1 ≤ vop) (hhi : vop ≤ 6) : vUses2 vop = true := by
  obtain rfl | rfl | rfl | rfl | rfl | rfl : vop = 1 ∨ vop = 2 ∨ vop = 3 ∨ vop = 4 ∨ vop = 5 ∨ vop = 6 := by omega
  all_goals rfl

theorem vUses2_one {vop : Nat} (hlo : 7 ≤ vop) (hhi : vop ≤ 13) : vUses2 vop = false := by
  obtain rfl | rfl | rfl | rfl | rfl | rfl | rfl : vop = 7 ∨ vop = 8 ∨ vop = 9 ∨ vop = 10 ∨ vop = 11 ∨ vop = 12 ∨ vop = 13 := by omega
  all_goals rfl

theorem State.vElemArith_two (h1 : s.vS1 n v p = .ok x) (h2 : s.vS2 n v p = .ok y) (hu : vUses2 v.vop = true) (h4 : v.vop ≠ 4) :
    s.vElemArith n v p = s.vOut n v p (vArith v.vop v.fmt v.flg x.1 y.1 0) (x.2 || y.2) := by
  simp only [State.vElemArith, h1, h2, hu, if_true, if_neg (show ¬v.vop = vopFma from h4), Bool.or_false]

theorem State.vElemArith_fma (h1 : s.vS1 n v p = .ok x) (h2 : s.vS2 n v p = .ok y)
    (h3 : s.vRead n v.fmt (vDst v.b) (p * vStride v.b) = .ok d) (h4 : v.vop = 4) :
    s.vElemArith n v p = s.vOut n v p (vArith v.vop v.fmt v.flg x.1 y.1 d.1) (x.2 || y.2 || d.2) := by
  have hu : vUses2 v.vop = true := by rw [h4]; rfl
  simp only [State.vElemArith, h1, h2, hu, if_true, if_pos (show v.vop = vopFma from h4), h3]

theorem State.vElemArith_one (h1 : s.vS1 n v p = .ok x) (hu : vUses2 v.vop = false) (h4 : v.vop ≠ 4) :
    s.vElemArith n v p = s.vOut n v p (vArith v.vop v.fmt v.flg x.1 0 0) x.2 := by
  simp only [State.vElemArith, h1, hu, Bool.false_eq_true, if_false, if_neg (show ¬v.vop = vopFma from h4), Bool.or_false]

theorem vTypeD_arith {vop fmt : Nat} (h : vop ≤ 13) : vTypeD vop fmt = fmt := by
  have h' : ∀ k, 14 ≤ k → vop ≠ k := fun k hk => by omega
  simp [vTypeD, vIsSum, vopCmp, vopRed, vopScan, vopDot, h']

theorem vType2_arith {vop fmt : Nat} (h : vop ≤ 13) : vType2 vop fmt = fmt := by
  have h' : ∀ k, 14 ≤ k → vop ≠ k := fun k hk => by omega
  simp [vType2, vopSel, vopShuf, h']

/-- An arithmetic element whose result is `r` is written there. -/
theorem State.vecGives_arith {r : Nat} {bad : Bool} (hr : s.vecReady n v p) (hw : 8 ≤ typeBits v.fmt) (hlo : 1 ≤ v.vop) (hhi : v.vop ≤ 13)
    (hd : v.at (vDst v.b) (typeBits v.fmt / 8) p < 0x40000) (he : s.vElemArith n v p = s.vOut n v p r bad) :
    s.vecGives (s.vecPut n v (typeBits v.fmt / 8) p (r, bad)) n v v p := by
  refine State.vecGives_same hr (noSum_of_lt (by omega)) ?_
  rw [State.vElem_arith hlo hhi, he, State.vOut_typed (vTypeD_arith hhi) hw hd]

/-- An element of two sources. -/
theorem State.vecGives_two {r : Nat} (hr : s.vecReady n v p) (hw : 8 ≤ typeBits v.fmt) (hd : v.at (vDst v.b) (typeBits v.fmt / 8) p < 0x40000)
    (h1 : s.vS1 n v p = .ok x) (h2 : s.vS2 n v p = .ok y) (ho : 1 ≤ v.vop ∧ v.vop ≤ 6 ∧ v.vop ≠ 4)
    (he : vArith v.vop v.fmt v.flg x.1 y.1 0 = r) : s.vecGives (s.vecPut n v (typeBits v.fmt / 8) p (r, x.2 || y.2)) n v v p := by
  obtain ⟨hlo, hhi, h4⟩ := ho
  exact he ▸ State.vecGives_arith hr hw hlo (by omega) hd (State.vElemArith_two h1 h2 (vUses2_two hlo hhi) h4)

/-- An element of VFMA, whose destination is its third source. -/
theorem State.vecGives_fma {r : Nat} (hr : s.vecReady n v p) (hw : 8 ≤ typeBits v.fmt) (hd : v.at (vDst v.b) (typeBits v.fmt / 8) p < 0x40000)
    (h1 : s.vS1 n v p = .ok x) (h2 : s.vS2 n v p = .ok y) (ho : v.vop = 4)
    (he : vArith v.vop v.fmt v.flg x.1 y.1 (s.vecGet n v (vDst v.b) (typeBits v.fmt / 8) p).1 = r) :
    s.vecGives (s.vecPut n v (typeBits v.fmt / 8) p (r, x.2 || y.2 || (s.vecGet n v (vDst v.b) (typeBits v.fmt / 8) p).2)) n v v p :=
  he ▸ State.vecGives_arith hr hw (by omega) (by omega) hd
    (State.vElemArith_fma h1 h2 (State.vRead_bytes (typeBits_bytes hw).1 (hd.trans (by decide))) ho)

/-- An element of one source. -/
theorem State.vecGives_one {r : Nat} (hr : s.vecReady n v p) (hw : 8 ≤ typeBits v.fmt) (hd : v.at (vDst v.b) (typeBits v.fmt / 8) p < 0x40000)
    (h1 : s.vS1 n v p = .ok x) (ho : 7 ≤ v.vop ∧ v.vop ≤ 13) (he : vArith v.vop v.fmt v.flg x.1 0 0 = r) :
    s.vecGives (s.vecPut n v (typeBits v.fmt / 8) p (r, x.2)) n v v p := by
  obtain ⟨hlo, hhi⟩ := ho
  exact he ▸ State.vecGives_arith hr hw (by omega) hhi hd (State.vElemArith_one h1 (vUses2_one hlo hhi) (by omega))

end

/-! ## What an element leaves of memory -/

/-- A byte that a cell is not of is read as before. -/
theorem memGet_memPut_ne {m : List Host.Cell} {a b : Nat} (h : a ≠ b) (v : Byte) : memGet (memPut m a v) b = memGet m b := by
  unfold memPut
  split
  · induction m with
    | nil => rfl
    | cons e r ih =>
      obtain ⟨k, x⟩ := e
      simp only [memDel]
      split
      · next hk => rw [memGet, if_neg (hk ▸ h)]
      · rw [memGet, memGet, ih]
  · rw [memGet_ins, if_neg h]

theorem memGet_putBytes_ne {b : Nat} {bs : List (Byte × Bool)} : ∀ {m : List Host.Cell} {pa : Nat},
    (∀ i, i < bs.length → canon b ≠ canon (pa + i)) → memGet (putBytes m pa bs) (canon b) = memGet m (canon b) := by
  induction bs with
  | nil => exact fun _ => rfl
  | cons e bs ih =>
    intro m pa h
    rw [putBytes, ih fun i hi => by rw [Nat.add_right_comm]; exact h (i + 1) (Nat.succ_lt_succ hi)]
    exact memGet_memPut_ne (h 0 (Nat.succ_pos _)).symm _

section
variable {s : State} {n : Nat}

/-- Bytes that land beside a byte leave it, where no trace ring logs them. -/
theorem State.byteAt_land_ne {pa b : Nat} {bs : List (Byte × Bool)} {i : WInfo} {rel : Option Rel} (htrc : i.trc = false)
    (h : ∀ i, i < bs.length → canon b ≠ canon (pa + i)) : (s.land pa bs i rel).byteAt b = s.byteAt b := by
  have hmem : (s.land pa bs i rel).mem = putBytes s.mem pa bs := by
    rw [State.land, State.spoil_mem, State.wake_mem, State.trace, htrc]
    rfl
  rw [State.byteAt, (keepsRings_land pa bs i rel).inRing, (same_land s pa bs i rel).tick, hmem, memGet_putBytes_ne h, State.byteAt]

/-- The vector unit's write leaves every byte but its own. -/
theorem State.byteAt_vecLeft_ne {pa b size r : Nat} (h : ∀ i, i < size → canon b ≠ canon (pa + i)) :
    (s.vecLeft n pa (natRun size r false)).byteAt b = s.byteAt b := by
  rw [State.vecLeft, State.write, State.writeAs, natRun_sound, if_neg Bool.false_ne_true]
  refine (State.byteAt_land_ne rfl ?_).trans rfl
  rwa [natRun_length]

theorem State.byteAt_vecWent (v : VCmd) (p b : Nat) : (s.vecWent n v p).byteAt b = s.byteAt b := by
  unfold State.vecWent
  split <;> rfl

end

theorem vectorArithmetic : Pieces.VectorArithmetic := by
  unfold Pieces.VectorArithmetic
  intro s n v p hr hw _
  dsimp only
  intro h1 hd
  have hx := State.vecGet_lt s n v (vSrc1 v.a) p hw
  have hy := State.vecGet_lt s n v (vSrc2 v.a) p hw
  have hs1 := State.vS1_bytes (s := s) (n := n) hw h1
  have hs2 := fun (hhi : v.vop ≤ 13) => State.vS2_bytes (s := s) (n := n) (p := p) (vType2_arith hhi) hw
  have one := fun {r} => State.vecGives_one (r := r) hr hw hd hs1
  have two := fun {r} hhi h2 => State.vecGives_two (r := r) hr hw hd hs1 (hs2 hhi h2)
  have fma := fun {r} hhi h2 => State.vecGives_fma (r := r) hr hw hd hs1 (hs2 hhi h2)
  refine ⟨fun hf => ?_, fun hf => ?_, fun r b hb => ?_⟩
  · -- Integers
    obtain ⟨hadd, hsub, hmul, -, -⟩ := vArith_int hf hx hy v.flg 0
    obtain ⟨hmin, hmax⟩ := vArith_order hf hx hy v.flg 0
    refine ⟨fun h2 => ⟨fun ho => two (by omega) h2 (by omega) (by rw [ho, hadd]), fun ho => two (by omega) h2 (by omega) (by rw [ho, hsub]),
      fun ho => two (by omega) h2 (by omega) (by rw [ho, hmul]), fun ho => fma (by omega) h2 ho ?_, fun ho => two (by omega) h2 (by omega) (by rw [ho, hmin]),
      fun ho => two (by omega) h2 (by omega) (by rw [ho, hmax])⟩, fun ho _ => one (by omega) ?_, fun ho => one (by omega) ?_⟩
    · obtain ⟨-, -, -, hfma, -⟩ := vArith_int hf hx hy v.flg (s.vecGet n v (vDst v.b) (typeBits v.fmt / 8) p).1
      rw [ho, hfma]
    · rw [ho, vArith_abs hf hx]
    · obtain ⟨-, -, -, -, hneg⟩ := vArith_int hf hx (Nat.two_pow_pos _) v.flg 0
      rw [ho, hneg]
  · -- Floating types
    refine ⟨fun h2 => ?_, ?_, ?_, fun hlo hhi => one ⟨by omega, hhi⟩ (vArith_function hf hlo hhi ..)⟩
    · obtain ⟨⟨hadd, hsub, hmul, -⟩, ⟨hmin, hmax⟩, -⟩ := vArith_float hf v.flg 0
      refine ⟨fun ho => two (by omega) h2 (by omega) (by rw [ho, hadd]), fun ho => two (by omega) h2 (by omega) (by rw [ho, hsub]),
        fun ho => two (by omega) h2 (by omega) (by rw [ho, hmul]), fun ho => fma (by omega) h2 ho (by rw [ho]; exact if_pos hf),
        fun ho => two (by omega) h2 (by omega) (by rw [ho, hmin]), fun ho => two (by omega) h2 (by omega) (by rw [ho, hmax])⟩
    · exact fun ho => one (by omega) (by rw [ho]; exact if_pos hf)
    · exact fun ho => one (by omega) (by rw [ho]; exact if_pos hf)
  · -- The rest of memory
    rw [State.byteAt_vecWent]
    exact State.byteAt_vecLeft_ne hb

/-- Settles O47. -/
theorem vectorUnit : Obligations.VectorUnit := by
  unfold Obligations.VectorUnit
  exact ⟨vectorsIssue, vectorArithmetic, vectorFunctions, vectorMoves, vectorConverts, vectorSums, vectorRuns, vectorEnds⟩

end Sys2Proof.Machine
